-- ==== Sys2Proof/Word.lean ====
section
/-!
DEFINITION. The data types every file shares: cells, tags, words, finite tables and the Chit status codes.
-/
namespace Sys2Proof

/-- A byte of host memory, of the Cellar or of the Attic. -/
abbrev Byte := BitVec 8

/-- A 32-bit register of BAR0 (R840). -/
abbrev Reg := BitVec 32

/-- A time stamp: coarse ticks in [71:8], 1/256 ticks in [7:0] (R11). -/
abbrev Stamp := BitVec 72

/-- A cell: 36 data bits (R1) and its 4-bit tag (R2). -/
structure Cell where
  data : BitVec 36 := 0
  tag  : BitVec 4 := 0
deriving DecidableEq, Repr

/-- A finite table: association pairs, kept sorted by `Tbl.set`. -/
abbrev Tbl (α : Type) := List (Nat × α)

/-- The status codes of R126, used by Chits, error records, SETUP results, mover completions, MVGO refusals and
the mailbox. -/
inductive Status
  | ok | partial_ | cancelled | grantFault | noShelves | noLoft | quota | deadlineMissed | busError | timeout | loop
  | compareMismatch | armCapacity | armBusy | programFault | illegalBundle | cfgLocked | cfgRange | linkDegraded
  | portDown | eccUncorrected | internal
deriving DecidableEq, Repr

/-- Data read from host memory for a command, or how the read failed (R126). -/
inductive HostData
  | bytes (b : List Byte)
  | busError
  | timeout
deriving DecidableEq, Repr

/-- How the host answered a request of the device. -/
inductive HostAck
  | done
  | busError
  | timeout
deriving DecidableEq, Repr

/-- A BAR0 write (R840): one aligned 32-bit word, one aligned 64-bit word, or any other shape. -/
inductive BarWrite
  | w32 (v : BitVec 32)
  | w64 (v : BitVec 64)
  | irregular
deriving DecidableEq, Repr

/-- A host memory access through BAR4 or CXL.mem. -/
inductive BusAccess
  | read (len : Nat)
  | write (b : List Byte)
deriving DecidableEq, Repr

/-- A request that arrives at a pseudo-channel of the Cellar: at most 64 bytes of one granule (R665 to R672). -/
structure CelReq where
  port : Fin 7
  /-- Port 0: the Barrel that writes (R665). -/
  barrel : Fin 16 := 0
  /-- Port 1: the layer is below its watermark. -/
  below : Bool := false
  bank : BitVec 6
  row : BitVec 20
  write : Bool := false
  /-- Physical byte address of the granule. -/
  addr : BitVec 37
  /-- Bytes of the granule that are requested, or the byte enables of a write (R670). -/
  mask : BitVec 64 := BitVec.allOnes 64
  /-- Containment domain and session of the requester. -/
  domain : BitVec 16 := 0
  session : BitVec 12 := 0
deriving DecidableEq, Repr

/-- What the patrol reads, with the bits or symbols that are in error there, or the write-back of what it corrected last
(R792, R795, R797). -/
inductive Patrol
  /-- A granule, by a physical byte address in it, and what is added to its symbols; 64 to 71 are the check bytes. -/
  | granule (addr : BitVec 37) (errors : List (Fin 72 × Byte))
  /-- A Loft cell, and the inverted bits of its word. -/
  | loft (addr : BitVec 24) (flips : BitVec 48)
  /-- A local memory cell of an SPU, and the inverted bits of its word. -/
  | loc (spu : Fin 68) (addr : BitVec 17) (flips : BitVec 48)
  | writeBack
deriving DecidableEq, Repr

/-- Who waits for a page-in (R175). -/
inductive Requester
  | mover (m : Nat)
  | stream (sid : Nat)
  | armBarrel (b : Nat)
  | layer (l : Nat)
  | withdraw (region : Nat)
  | none_
deriving DecidableEq, Repr

/-- A dual-clock queue that a producer writes (R64 to R72): an input queue of a program copy, the queue of a stream, or
the writer queue of a Barrel. -/
inductive QueueName
  | input (crate num queue : Nat)
  | stream (sid : Nat)
  | barrel (b : Nat)
  | engine (port : Fin 4)
deriving DecidableEq, Repr

/-- The common part of a slot of a bundle (R583): the SPU that issues it, its guard, and whether it is the bundle's
last slot. -/
structure Slot where
  spu : Fin 68
  pred : BitVec 3 := 0
  neg : Bool := false
  last : Bool := true
deriving DecidableEq, Repr

/-- The operand block of an access (R607). -/
structure AddrOp where
  a : BitVec 4
  pm : BitVec 2 := 0
  /-- Bits [10:3]. -/
  off : BitVec 8 := 0
  k : BitVec 3 := 0
deriving DecidableEq, Repr

/-- The modifier of VCMAC (R602). -/
structure MacMod where
  cx : Bool := false
  cy : Bool := false
  sub : Bool := false
  clr : Bool := false
  re : Bool := false
deriving DecidableEq, Repr

/-- A sample word of the transport layer as a port finds it at its release point (R236, R239, R240). -/
inductive RawWord
  /-- No data: the elastic buffer ran empty. -/
  | missing
  /-- No data: the elastic buffer overflowed. -/
  | overflow
  /-- No data is looked for: a failed lane (R228), a re-link (R232) or a realignment (R256). -/
  | gone
  /-- The N′ low bits, and whether an octet of the frame lay in a multiblock that failed its CRC. -/
  | word (v : BitVec 16) (crcBad : Bool)
deriving DecidableEq, Repr

/-- A 64b/66b block that a receive lane delivers (R209). -/
structure LaneBlock where
  /-- Physical lane 0 to 8; of the upper port of a bonded pair, 9 to 17. -/
  lane : Fin 18
  /-- Its sync header is valid. -/
  header : Bool := true
  /-- Its 8 descrambled octets, the first in bits [63:56]. -/
  octets : BitVec 64
  /-- The sync header stream marks it as the first block of an extended multiblock. -/
  embStart : Bool := false
  /-- The CRC of the last whole multiblock, where the sync headers complete it here: whether it failed (R239). -/
  crcBad : Option Bool := none
deriving DecidableEq, Repr

/-- What an eye scan counts: the bits of 2^16 on which the eye monitor differs from the data sampler, at the data sampler's
setting and at the steps 1, 2, … to each side of it (R285, R286). -/
structure EyePoints where
  centre : Nat := 0
  right : List Nat := []
  left : List Nat := []
  up : List Nat := []
  down : List Nat := []
deriving DecidableEq, Repr

end Sys2Proof
end

