-- ==== Sys2Proof/Syntax.lean ====
section
/-!
DEFINITION. The commands of the block, one constructor per row of the table of operations and events.
A Crate is named by its serial number (the count of Crates read before it), an SPU, port, mover, Barrel or unit by its
number; data that comes from outside the device (host memory, pins, converters) is an operand. Rows without operands stand
last: compiled Lean code cannot build a constructor with fields beyond the 245th.
-/
namespace Sys2Proof

inductive Instr
  /-- HATCH_TAIL (R108). Host doorbell write of the Crate count to a Hatch; accepted or ignored and counted. -/
  | hatchTail (hatch : BitVec 12) (value : BitVec 32)
  /-- CHIT_HEAD (R131). Host write of the consumed Chit count, taken as the new head or ignored. -/
  | chitHead (hatch : BitVec 12) (value : BitVec 32)
  /-- CRATE_READ (R110). The device reads the next announced Crate of a Hatch in index order and admits it under R180. -/
  | crateRead (hatch : BitVec 12) (slot : BitVec 512) (glist : HostData)
  /-- HATCH_SLOT_FAULT (R857). A Hatch slot read that returns an error or times out completes the slot with BUS_ERROR or TIMEOUT. -/
  | hatchSlotFault (hatch : BitVec 12) (timedOut : Bool)
  /-- ADMISSION_RESUME (R181). A Crate held at test 3 is admitted once the session's in-flight count falls below its quota. -/
  | admissionResume (hatch : BitVec 12) (glist : HostData)
  /-- DEPENDENCY_SATISFIED (R182). The last dependency of an admitted Crate is satisfied and the Crate becomes ready. -/
  | dependencySatisfied (crate : Nat)
  /-- CHIT_ISSUE (R136). After all host writes of a Crate are globally observed, its Chit is written to the session's Chit ring. -/
  | chitIssue (crate : Nat)
  /-- RUN (R188). RUN Crate: starts instances of a loaded program on SPUs under the scheduling rules. -/
  | run (crate : Nat)
  /-- GANG_HOLD (R189). A GANG Crate of a more urgent class that has waited 100 µs gets freed SPUs held for it. -/
  | gangHold (crate : Nat)
  /-- CRATE_AGEING (R187). A ready Crate of class 4 to 7 that has waited AGE ms moves to the next more urgent class. -/
  | crateAgeing (crate : Nat)
  /-- MOVE (R631). MOVE Crate: queues a host descriptor chain on a mover. -/
  | move (crate : Nat)
  /-- STREAM_OPEN (R643). STREAM Crate with OP 0: opens a stream into a host ring after ordered tests. -/
  | streamOpen (crate : Nat)
  /-- STREAM_CLOSE (R654). STREAM Crate with OP 1: stops the stream, writes a LAST frame and completes when it is visible. -/
  | streamClose (crate : Nat)
  /-- ARM (R459). ARM Crate with OP 0: arms a Barrel after ordered tests, paging in and pinning its Shelves. -/
  | arm (crate : Nat)
  /-- DISARM (R469). ARM Crate with OP 1: disarms an armed Barrel, or releases ownership of an unarmed one. -/
  | disarm (crate : Nat)
  /-- REARM (R462). ARM Crate with OP 2: re-arms a STOPPED Barrel with its last OP 0 parameters. -/
  | rearm (crate : Nat)
  /-- ALLOC_SHELVES (R151). ALLOC Crate with OP 0: maps COUNT Shelves after ordered tests and any paging. -/
  | allocShelves (crate : Nat)
  /-- ALLOC_LOFT (R154). ALLOC Crate with OP 1: allocates a run of consecutive Loft pages. -/
  | allocLoft (crate : Nat)
  /-- FREE (R165). FREE Crate: releases the session's hold on a handle, or unloads a program. -/
  | free (crate : Nat)
  /-- LOAD (R531). LOAD Crate: reads a Glalotal binary and places it in the program store. -/
  | load (crate : Nat) (image : HostData)
  /-- FENCE (R121). FENCE Crate: completes after all earlier Crates of its scope and holds back later ones. -/
  | fence (crate : Nat)
  /-- QUERY (R855). QUERY Crate: writes the selected state to a host result buffer. -/
  | query (crate : Nat) (ack : HostAck)
  /-- OPEN_SESSION (R856). ADMIN OPEN_SESSION: opens a CLOSED session with its Chit ring, vectors and default quotas. -/
  | openSession (crate : Nat)
  /-- CLOSE_SESSION (R103). ADMIN CLOSE_SESSION: drains the session, disarms Barrels, closes streams, unloads programs and releases holds. -/
  | closeSession (crate : Nat)
  /-- ADD_HATCH (R124). ADMIN ADD_HATCH: assigns a Hatch ring to an OPEN session. -/
  | addHatch (crate : Nat)
  /-- REMOVE_HATCH (R124). ADMIN REMOVE_HATCH: removes a Hatch once its announced Crates have completed. -/
  | removeHatch (crate : Nat)
  /-- SET_QUOTA (R203). ADMIN SET_QUOTA: changes a session's quotas. -/
  | setQuota (crate : Nat)
  /-- POOL_GRANT_ADD (R168). ADMIN POOL_GRANT with POP 0: adds a host overflow-pool region. -/
  | poolGrantAdd (crate : Nat)
  /-- POOL_GRANT_WITHDRAW (R169). ADMIN POOL_GRANT with POP 1: pages every Shelf of a region back in and withdraws it. -/
  | poolGrantWithdraw (crate : Nat)
  /-- SET_VECTORS (R96). ADMIN SET_VECTORS: sets a session's MSI-X vector block. -/
  | setVectors (crate : Nat)
  /-- RESET_SESSION (R102). ADMIN RESET_SESSION: drains a session and returns it to OPEN, keeping its resources. -/
  | resetSession (crate : Nat)
  /-- SET_HDM (R124). ADMIN SET_HDM: grows or shrinks the CXL.mem Shelf reserve. -/
  | setHdm (crate : Nat)
  /-- DRAIN_END (R101). A DRAINING session's last announced Crate gets its Chit and the session enters its next state. -/
  | drainEnd (session : BitVec 12)
  /-- ADMIN_SESSION_ENABLE (R99). Write of HLK_ADM_CFG.EN 1 opens session 0 or is ignored as CFG_RANGE. -/
  | adminSessionEnable (value : BitVec 32)
  /-- MODULE_TRAINING (R78). A UCIe module trains to the highest passing rate at or below MAX_RATE. -/
  | moduleTraining (module_ : Fin 2) (supported : BitVec 2) (passes : BitVec 4) (repaired : BitVec 8) (half : Bool)
  /-- MODULE_DEGRADE (R79). Lane faults beyond repair take a module to x32 or down and lower the streaming cap. -/
  | moduleDegrade (module_ : Fin 2) (down : Bool)
  /-- BAR4_ACCESS (R94). A host access through the BAR4 window reaches a physical Shelf or reads all ones. -/
  | bar4Access (offset : BitVec 30) (access : BusAccess)
  /-- CXL_MEM_ACCESS (R88). A host CXL.mem request to the HDM range reaches reserved Cellar Shelves. -/
  | cxlMemAccess (offset : BitVec 36) (access : BusAccess)
  /-- HDM_DECODER_COMMIT (R91). Host commit of an HDM decoder, failed when larger than the SET_HDM reserve. -/
  | hdmDecoderCommit (gib : BitVec 7) (base : BitVec 64)
  /-- REGISTER_WRITE (R843). A BAR0 write to a register without behaviour of its own takes effect in arrival order. -/
  | registerWrite (offset : BitVec 21) (data : BarWrite)
  /-- MON_ACC_SUM_LO_READ (R769). A read of MON_ACC_SUM_LO latches SUM_HI and COUNT. -/
  | monAccSumLoRead (acc : Fin 32)
  /-- STK_POOL_CFG_WRITE (R146). A write of STK_POOL_CFG or STK_TT_CFG, accepted only with no session but 0 open and no boundary across a resource in use. -/
  | stkPoolCfgWrite (ttCfg : Bool) (value : BitVec 32)
  /-- STK_PAGE_CFG_WRITE (R862). A write of STK_PAGE_CFG, ignored as a whole when HIGH ≤ LOW or BW is out of range. -/
  | stkPageCfgWrite (value : BitVec 32)
  /-- PAGE_IN (R175). A requester touches a paged-out Shelf and a page-in is queued. -/
  | pageIn (session : BitVec 12) (shelf : BitVec 27) (requester : Requester)
  /-- SHELF_TRANSFER_DONE (R178). A Shelf transfer to or from the overflow pool completes. -/
  | shelfTransferDone (which : Nat) (ack : HostAck)
  /-- INSTANCE_RESUME (R196). A preempted instance is restored on a free SPU. -/
  | instanceResume (crate : Nat) (num : Nat)
  /-- STK_SPU_RETIRE (R206). STK_SPU_RETIRE.GO retires an SPU after preempting its instance. -/
  | stkSpuRetire (spu : BitVec 7)
  /-- EN (R261). ING_CTL.EN written 1 starts a port from IDLE, committing waiting records; written 0 returns it to IDLE. -/
  | en (port : Fin 4) (value : Bool)
  /-- RELINK (R262). ING_CTL.RELINK restarts alignment from LANE_SYNC and re-arms SYSREF. -/
  | relink (port : Fin 4)
  /-- PLL_LOCK (R705). A port PLL locks and the port enters LANE_SYNC. -/
  | pllLock (port : Fin 4)
  /-- PLL_LOCK_LOST (R705). A port PLL loses lock and the port enters FAULT. -/
  | pllLockLost (port : Fin 4)
  /-- EMB_ALIGNMENT (R261). All active lanes reach block sync and then extended multiblock alignment, advancing the port state. -/
  | embAlignment (port : Fin 4)
  /-- SYSREF_EDGE (R256). A SYSREF edge is sampled and accepted, checked or used to realign per SR_MODE. -/
  | sysrefEdge (port : Fin 4) (lead : BitVec 8)
  /-- FIRST_RELEASE (R255). The beat counter reaches RELEASE and the port enters RUN. -/
  | firstRelease (port : Fin 4)
  /-- BEAT_RELEASE (R240). The port releases one corrected, tagged beat per port clock. -/
  | beatRelease (port : Fin 4) (blocks : List LaneBlock)
  /-- PORT_STATE_TIMEOUT (R262). A port more than 10 ms in states 1 to 4 sets ING_ERR.TIMEOUT. -/
  | portStateTimeout (port : Fin 4)
  /-- LANE_FAIL (R227). A lane fails and the port substitutes the spare, falls back or enters FAULT. -/
  | laneFail (port : Fin 4) (lane : Fin 9) (embLost : Bool)
  /-- SPARE_SELECT_FRAME (R219). The spare-select code is sent at each change and repeated every 1 ms. -/
  | spareSelectFrame (port : Fin 4)
  /-- SPARE_SWITCH (R225). After verification a lane's traffic moves onto or off the spare at an EMB boundary. -/
  | spareSwitch (port : Fin 4)
  /-- GO (R854). REC_CTL.GO submits the record buffer of a unit as one setup record. -/
  | go (unit_ : BitVec 8)
  /-- RECORD_COMMIT (R37). Shadowed records commit at the unit's boundary, or are rejected with CFG_RANGE. -/
  | recordCommit (unit_ : BitVec 8)
  /-- LANE_ACQUISITION (R273). A lane adapts from its interpolated set until it holds lock, sync and the minimum eye. -/
  | laneAcquisition (port : Fin 4) (lane : Fin 9) (trims : BitVec 64) (eye : EyePoints)
  /-- ATTEMPT_LIMIT_EXPIRY (R274). A lane that has not acquired within its attempt limit counts a failed attempt and restarts. -/
  | attemptLimitExpiry (port : Fin 4) (lane : Fin 9)
  /-- IN_PLACE_TRIM_STEP (R276). Every 1 µs the in-place method moves one trim by one code toward its target. -/
  | inPlaceTrimStep (port : Fin 4) (lane : Fin 9) (field : Fin 9) (up : Bool)
  /-- LANE_TEMPERATURE_UPDATE (R270). Every 1 ms the lane temperature is updated from the housekeeping converter. -/
  | laneTemperatureUpdate (port : Fin 4)
  /-- CALIBRATION_PERIOD (R278). PERIOD ms since a lane's last calibration makes it due. -/
  | calibrationPeriod (port : Fin 4) (lane : Fin 8)
  /-- FORCE (R279). ING_CAL_CTL.FORCE requests calibration of a lane, held or dropped while a swap runs. -/
  | force (port : Fin 4) (lane : BitVec 4)
  /-- SPARE_SWAP (R280). A due lane is retuned through the spare in a nine-step swap. -/
  | spareSwap (port : Fin 4)
  /-- EYE_SCAN (R287). A lane's eye scan ends and updates ING_CAL_EYE. -/
  | eyeScan (port : Fin 4) (lane : Fin 9) (eye : EyePoints)
  /-- LEARNED_ENTRY (R295). Applied trims steady for 10 ms near an anchor enter the learned table. -/
  | learnedEntry (port : Fin 4) (lane : Fin 9)
  /-- SAVE (R296). ING_CAL_CTL.SAVE writes the learned entries to the port's Attic trim record. -/
  | save (port : Fin 4)
  /-- RETIRE (R292). ING_CAL_RETIRE.RETIRE retires a physical lane. -/
  | retire (port : Fin 4) (lane : BitVec 4)
  /-- CLEAR (R294). ING_CAL_RETIRE.CLEAR clears a lane's retirement while the port is IDLE. -/
  | clear (port : Fin 4) (lane : BitVec 4)
  /-- SYNC_STROBE (R333). A sync strobe with target T reaches the channelisers and spectral engines. -/
  | syncStrobe (target : BitVec 72)
  /-- COARSE_ROUND (R332). Every CPER port clocks the coarse stream emits one round. -/
  | coarseRound (port : Fin 4)
  /-- FULL_RATE_SPECTRUM (R361). An engine emits a full-rate spectrum to its trigger and density units. -/
  | fullRateSpectrum (port : Fin 4)
  /-- SPE_WIN_DATA (R353). A write of SPE_WIN_DATA stores a shadow user-table entry and increments the pointer. -/
  | speWinData (port : Fin 4) (coef : BitVec 18)
  /-- CROSS_SPECTRUM_MATCH (R385). The XSP matches spectra of a pair's two engines and averages their product. -/
  | crossSpectrumMatch (pair : Fin 6)
  /-- TRIGGER_COMBINE (R432). ALIGN port clocks after ingress, the combiner evaluates a beat's samples through terms, sequencer and hold-off. -/
  | triggerCombine (port : Fin 4)
  /-- EXTERNAL_INPUT_EDGE (R418). A TRGI level held FILT+1 ticks is accepted as an edge. -/
  | externalInputEdge (pin : Fin 3) (level : Bool) (held : BitVec 16)
  /-- INSTR_ASSERTION (R420). A filtered high-to-low change of INSTR is taken as an assertion unless self-blanked. -/
  | instrAssertion (low : Bool) (held : BitVec 16)
  /-- TIMEOUT_CONDITION (R415). A timeout condition's count since the last crossing reaches W1. -/
  | timeoutCondition (port : Fin 4) (cond : Fin 8)
  /-- SEQUENCER_WINDOW_EXPIRY (R426). A sequencer window of WIN samples expires and returns to WAIT_A. -/
  | sequencerWindowExpiry (port : Fin 4)
  /-- HOLDOFF_END (R430). Hold-off ends by sample count or event count, releasing a pending trigger. -/
  | holdoffEnd (port : Fin 4)
  /-- TRG_FORCE (R427). TRG_CTL.FORCE or a FORCE record places a candidate at the next beat. -/
  | trgForce (port : Fin 4)
  /-- CLR_PEND (R447). TRG_CTL.CLR_PEND drops a pending trigger and counts it. -/
  | clrPend (port : Fin 4)
  /-- TRGO_SCHEDULED_START (R439). In OMODE 1 a TRGO pulse starts at trigger time plus ODLY. -/
  | trgoScheduledStart (port : Fin 4)
  /-- TRGO_PULSE_END (R437). A TRGO pulse ends after OWID ticks. -/
  | trgoPulseEnd (port : Fin 4)
  /-- TRG_MASK_DATA (R408). A write of TRG_MASK_DATA stores a shadow mask entry and increments the pointer. -/
  | trgMaskData (port : Fin 4) (lower : BitVec 16) (upper : BitVec 16)
  /-- BARREL_TRIGGER (R465). A TSRC occurrence reaches a Barrel and is accepted, held, ignored or dropped. -/
  | barrelTrigger (barrel : Fin 16) (time : BitVec 72)
  /-- BARREL_WRITE (R457). The Barrel writer stores stream samples into its region slots. -/
  | barrelWrite (barrel : Fin 16) (cells : BitVec 16)
  /-- CAPTURE_CLOSE (R468). Position E is written, the capture closes and the next opens or the Barrel stops. -/
  | captureClose (barrel : Fin 16)
  /-- DECAY (R490). A decay period of DPER units ends and every counter decays. -/
  | decay (port : Fin 4) (plane : Fin 4)
  /-- OCCUPANCY_RECORD (R493). After OCOUNT accepted spectra the tally writes a record and restarts. -/
  | occupancyRecord (port : Fin 4)
  /-- RENDER (R498). A RENDER draws a plane into a frame and advances DONE when visible. -/
  | render (port : Fin 4) (plane : Fin 4) (columns : BitVec 12)
  /-- CMAP_COMMIT (R500). A CMAP commits once no render of the unit runs, then pending renders start. -/
  | cmapCommit (port : Fin 4)
  /-- UNDERRUN (R513). A due pixel not yet fetched shows UCOLOR for the rest of the line. -/
  | underrun (layer : Fin 2) (line : BitVec 12) (x : BitVec 12)
  /-- PLUG (R510). An HPD plug starts training of an enabled output. -/
  | plug (output : Fin 2)
  /-- UNPLUG (R510). An HPD unplug returns the output to WAIT_HPD. -/
  | unplug (output : Fin 2)
  /-- AUX_GO (R511). SCO_AUX_CTL.GO starts an AUX transaction, waiting for training traffic. -/
  | auxGo (output : Fin 2)
  /-- SCO_ENABLE (R520). A write of SCO_CTL.EN starts or stops scan-out at the next latch line. -/
  | scoEnable (value : Bool)
  /-- NOP (R584). Empty slot. -/
  | nop (h : Slot) (slot : Fin 4)
  /-- ADD (R590). Scalar add. -/
  | add (h : Slot) (d : BitVec 5) (x : BitVec 5) (y : BitVec 5)
  /-- SUB (R590). Scalar subtract. -/
  | sub (h : Slot) (d : BitVec 5) (x : BitVec 5) (y : BitVec 5)
  /-- AND (R590). Scalar bitwise AND. -/
  | and_ (h : Slot) (d : BitVec 5) (x : BitVec 5) (y : BitVec 5)
  /-- OR (R590). Scalar bitwise OR. -/
  | or_ (h : Slot) (d : BitVec 5) (x : BitVec 5) (y : BitVec 5)
  /-- XOR (R590). Scalar bitwise XOR. -/
  | xor_ (h : Slot) (d : BitVec 5) (x : BitVec 5) (y : BitVec 5)
  /-- SHL (R590). Scalar shift left by register. -/
  | shl (h : Slot) (d : BitVec 5) (x : BitVec 5) (y : BitVec 5)
  /-- SHR (R590). Scalar logical shift right by register. -/
  | shr (h : Slot) (d : BitVec 5) (x : BitVec 5) (y : BitVec 5)
  /-- SRA (R590). Scalar arithmetic shift right by register. -/
  | sra (h : Slot) (d : BitVec 5) (x : BitVec 5) (y : BitVec 5)
  /-- MUL (R590). Low 32 bits of a scalar product. -/
  | mul (h : Slot) (d : BitVec 5) (x : BitVec 5) (y : BitVec 5)
  /-- MULH (R590). High 32 bits of the signed product. -/
  | mulh (h : Slot) (d : BitVec 5) (x : BitVec 5) (y : BitVec 5)
  /-- MULHU (R590). High 32 bits of the unsigned product. -/
  | mulhu (h : Slot) (d : BitVec 5) (x : BitVec 5) (y : BitVec 5)
  /-- MIN (R590). Signed minimum. -/
  | min_ (h : Slot) (d : BitVec 5) (x : BitVec 5) (y : BitVec 5)
  /-- MAX (R590). Signed maximum. -/
  | max_ (h : Slot) (d : BitVec 5) (x : BitVec 5) (y : BitVec 5)
  /-- ADDI (R590). Scalar add immediate. -/
  | addi (h : Slot) (d : BitVec 5) (x : BitVec 5) (imm : BitVec 12)
  /-- ANDI (R590). Scalar AND immediate. -/
  | andi (h : Slot) (d : BitVec 5) (x : BitVec 5) (imm : BitVec 12)
  /-- ORI (R590). Scalar OR immediate. -/
  | ori (h : Slot) (d : BitVec 5) (x : BitVec 5) (imm : BitVec 12)
  /-- XORI (R590). Scalar XOR immediate. -/
  | xori (h : Slot) (d : BitVec 5) (x : BitVec 5) (imm : BitVec 12)
  /-- SHLI (R590). Shift left by immediate. -/
  | shli (h : Slot) (d : BitVec 5) (x : BitVec 5) (imm : BitVec 5)
  /-- SHRI (R590). Logical shift right by immediate. -/
  | shri (h : Slot) (d : BitVec 5) (x : BitVec 5) (imm : BitVec 5)
  /-- SRAI (R590). Arithmetic shift right by immediate. -/
  | srai (h : Slot) (d : BitVec 5) (x : BitVec 5) (imm : BitVec 5)
  /-- MOVI (R590). Load a sign-extended 16-bit immediate. -/
  | movi (h : Slot) (d : BitVec 5) (imm : BitVec 16)
  /-- MOVHI (R590). Set the high half of a scalar. -/
  | movhi (h : Slot) (d : BitVec 5) (imm : BitVec 16)
  /-- CMP (R591). Scalar compare into a predicate. -/
  | cmp (h : Slot) (pd : BitVec 3) (cond : BitVec 3) (x : BitVec 5) (y : BitVec 5)
  /-- CMPI (R591). Scalar compare with immediate into a predicate. -/
  | cmpi (h : Slot) (pd : BitVec 3) (cond : BitVec 3) (x : BitVec 5) (imm : BitVec 11)
  /-- PLOG (R591). Two-input predicate logic. -/
  | plog (h : Slot) (pd : BitVec 3) (px : BitVec 3) (py : BitVec 3) (fn : BitVec 4)
  /-- PRD (R591). Read a predicate into a scalar. -/
  | prd (h : Slot) (d : BitVec 5) (px : BitVec 3)
  /-- PWR (R591). Write a predicate from a scalar. -/
  | pwr (h : Slot) (pd : BitVec 3) (x : BitVec 5)
  /-- MFC (R593). Read a control register. -/
  | mfc (h : Slot) (d : BitVec 5) (cr : BitVec 6)
  /-- MTC (R593). Write a control register, with effect from the next bundle. -/
  | mtc (h : Slot) (x : BitVec 5) (cr : BitVec 6)
  /-- MFLC (R593). Read a loop counter. -/
  | mflc (h : Slot) (d : BitVec 5) (n : BitVec 2)
  /-- BR (R594). Branch to an absolute bundle index. -/
  | br (h : Slot) (target : BitVec 18)
  /-- CALL (R594). Call: save the return index in s31 and branch. -/
  | call (h : Slot) (target : BitVec 18)
  /-- RET (R594). Branch to the index in s31. -/
  | ret (h : Slot)
  /-- BRX (R594). Branch to the index in a scalar register. -/
  | brx (h : Slot) (x : BitVec 5)
  /-- REP (R596). Open a block repeat with a count from a register. -/
  | rep (h : Slot) (x : BitVec 5) (fin : BitVec 12)
  /-- REPI (R596). Open a block repeat with an immediate count. -/
  | repi (h : Slot) (count : BitVec 10) (fin : BitVec 12)
  /-- WAITEV (R563). Wait for a subscribed event and take the lowest pending entry. -/
  | waitev (h : Slot) (d : BitVec 5) (mask : BitVec 8)
  /-- SIGEV (R565). Raise a software event 0xA00 + index after a Loft fence. -/
  | sigev (h : Slot) (reg : Bool) (x : BitVec 5) (index : BitVec 8)
  /-- SETW (R572). Wait for all earlier SETUP results and return the first failure. -/
  | setw (h : Slot) (d : BitVec 5)
  /-- EXIT (R577). End the instance with its exit value after SETUPs and output queues settle. -/
  | exit (h : Slot)
  /-- BKPT (R598). Halt the instance for debug when DBG_EN is 1. -/
  | bkpt (h : Slot)
  /-- AADD (R600). Address add of an offset register. -/
  | aadd (h : Slot) (d : BitVec 4) (x : BitVec 4) (y : BitVec 4)
  /-- AADDI (R600). Address add immediate. -/
  | aaddi (h : Slot) (d : BitVec 4) (x : BitVec 4) (imm : BitVec 14)
  /-- AADDS (R600). Address add of a scalar. -/
  | aadds (h : Slot) (d : BitVec 4) (x : BitVec 4) (y : BitVec 5)
  /-- ALI (R600). Load an address register with an immediate. -/
  | ali (h : Slot) (d : BitVec 4) (imm : BitVec 18)
  /-- AHI (R600). Set the high six bits of an address register. -/
  | ahi (h : Slot) (d : BitVec 4) (imm : BitVec 6)
  /-- AFS (R600). Address register from a scalar. -/
  | afs (h : Slot) (d : BitVec 4) (x : BitVec 5)
  /-- ATS (R600). Scalar from an address register. -/
  | ats (h : Slot) (d : BitVec 5) (x : BitVec 4)
  /-- MSET (R600). Load an offset register with an immediate. -/
  | mset (h : Slot) (d : BitVec 4) (imm : BitVec 18)
  /-- MFS (R600). Offset register from a scalar. -/
  | mfs (h : Slot) (d : BitVec 4) (x : BitVec 5)
  /-- MTS (R600). Scalar from an offset register. -/
  | mts (h : Slot) (d : BitVec 5) (x : BitVec 4)
  /-- VADD (R602). Saturating vector add. -/
  | vadd (h : Slot) (d : BitVec 5) (x : BitVec 5) (y : BitVec 5)
  /-- VSUB (R602). Saturating vector subtract. -/
  | vsub (h : Slot) (d : BitVec 5) (x : BitVec 5) (y : BitVec 5)
  /-- VMOV (R602). Vector move with tags. -/
  | vmov (h : Slot) (d : BitVec 5) (x : BitVec 5)
  /-- VCONJ (R602). Vector complex conjugate. -/
  | vconj (h : Slot) (d : BitVec 5) (x : BitVec 5)
  /-- VCMUL (R604). Complex multiply narrowed into a c register. -/
  | vcmul (h : Slot) (d : BitVec 5) (x : BitVec 5) (y : BitVec 5) (cx : Bool) (cy : Bool) (sh : BitVec 5)
  /-- VCMAC (R603). Complex multiply-accumulate into a q register. -/
  | vcmac (h : Slot) (d : BitVec 3) (x : BitVec 5) (y : BitVec 5) (m : MacMod)
  /-- VNARROW (R604). Narrow a q register into a c register. -/
  | vnarrow (h : Slot) (d : BitVec 5) (x : BitVec 3) (sh : BitVec 5)
  /-- VQCLR (R602). Clear an accumulator. -/
  | vqclr (h : Slot) (d : BitVec 3)
  /-- VQADD (R602). Add two accumulators. -/
  | vqadd (h : Slot) (d : BitVec 3) (x : BitVec 3)
  /-- VBCAST (R602). Broadcast one lane. -/
  | vbcast (h : Slot) (d : BitVec 5) (x : BitVec 5) (k : BitVec 3)
  /-- VSPLS (R602). Splat a scalar to all lanes. -/
  | vspls (h : Slot) (d : BitVec 5) (x : BitVec 5)
  /-- VEXT (R602). Extract one lane into a scalar. -/
  | vext (h : Slot) (d : BitVec 5) (x : BitVec 5) (k : BitVec 3)
  /-- VTAGS (R606). Set lane tags. -/
  | vtags (h : Slot) (d : BitVec 5) (x : BitVec 5) (tag : BitVec 4)
  /-- VTAGG (R602). Read lane tags as data. -/
  | vtagg (h : Slot) (d : BitVec 5) (x : BitVec 5)
  /-- VCMP (R605). Vector compare into a predicate. -/
  | vcmp (h : Slot) (pd : BitVec 3) (x : BitVec 5) (y : BitVec 5) (cond : BitVec 3)
  /-- LDS (R608). Scalar load. -/
  | lds (h : Slot) (d : BitVec 5) (ad : AddrOp)
  /-- STS (R608). Scalar store. -/
  | sts (h : Slot) (ad : AddrOp) (x : BitVec 5)
  /-- LDV (R608). Vector load of 8 cells. -/
  | ldv (h : Slot) (d : BitVec 5) (ad : AddrOp)
  /-- STV (R609). Vector store of 8 cells. -/
  | stv (h : Slot) (ad : AddrOp) (x : BitVec 5)
  /-- LD1 (R608). Load one cell into one lane. -/
  | ld1 (h : Slot) (d : BitVec 5) (ad : AddrOp)
  /-- ST1 (R609). Store one lane. -/
  | st1 (h : Slot) (ad : AddrOp) (x : BitVec 5)
  /-- LDQ (R610). Load an accumulator from 24 cells. -/
  | ldq (h : Slot) (d : BitVec 3) (ad : AddrOp)
  /-- STQ (R610). Store an accumulator to 24 cells. -/
  | stq (h : Slot) (ad : AddrOp) (x : BitVec 3)
  /-- QRD1 (R613). Read one cell from an input queue. -/
  | qrd1 (h : Slot) (d : BitVec 5) (n : BitVec 2) (nb : Bool) (k : BitVec 3)
  /-- QRD8 (R613). Read cells from an input queue into lanes. -/
  | qrd8 (h : Slot) (d : BitVec 5) (n : BitVec 2) (nb : Bool)
  /-- QWR1 (R613). Write one lane to an output queue. -/
  | qwr1 (h : Slot) (x : BitVec 5) (n : BitVec 1) (wt : Bool) (eop : Bool) (k : BitVec 3)
  /-- QWR8 (R613). Write enabled lanes to an output queue. -/
  | qwr8 (h : Slot) (x : BitVec 5) (n : BitVec 1) (wt : Bool) (eop : Bool)
  /-- QFLUSH (R612). Flush an input queue. -/
  | qflush (h : Slot) (n : BitVec 2)
  /-- LFENCE (R614). Stall until earlier Loft stores are visible. -/
  | lfence (h : Slot)
  /-- ATOM (R614). Indivisible Loft read-modify-write. -/
  | atom (h : Slot) (d : BitVec 5) (ax : BitVec 4) (y : BitVec 5) (op : BitVec 3)
  /-- SETUP (R567). Send a setup record from the Loft window to a unit. -/
  | setup (h : Slot) (unit_ : BitVec 8) (ax : BitVec 4) (type_ : BitVec 4)
  /-- MVGO (R866). Hand a Loft descriptor chain to a mover. -/
  | mvgo (h : Slot) (d : BitVec 5) (ax : BitVec 4) (y : BitVec 5)
  /-- MVSTOP (R615). Stop request to a mover running a chain of the same instance. -/
  | mvstop (h : Slot) (x : BitVec 5)
  /-- EVENT_ARRIVAL (R562). An event occurrence reaches subscribers, counting in matching entries and event dependencies. -/
  | eventArrival (index : BitVec 16)
  /-- QUEUE_WRITE (R68). A producer writes a cell to a dual-clock queue, ignored and flagged OVERRUN when full. -/
  | queueWrite (queue : QueueName) (mismatch : Bool) (cell : Cell) (time : BitVec 72) (eop : Bool)
  /-- TARGET (R707). SPA_FREQ.TARGET or TIM_SYN.TARGET requests a synthesiser frequency change. -/
  | target (which : Fin 3) (mhz : BitVec 11)
  /-- HALT (R581). SPA_DBG_CTL.HALT halts an instance at its next bundle boundary. -/
  | halt (spu : Fin 68)
  /-- STEP (R581). SPA_DBG_CTL.STEP issues one bundle of a halted instance. -/
  | step (spu : Fin 68)
  /-- DEBUG_RESUME (R581). SPA_DBG_CTL.RESUME resumes a halted instance. -/
  | debugResume (spu : Fin 68)
  /-- COPY (R626). Descriptor OP 0: copies rows with conversion. -/
  | copy (mover : Fin 16) (desc : BitVec 512) (data : List Byte)
  /-- FILL (R629). Descriptor OP 1: fills rows with FILLV. -/
  | fill (mover : Fin 16) (desc : BitVec 512)
  /-- COMPARE (R630). Descriptor OP 2: compares source with destination. -/
  | compare (mover : Fin 16) (desc : BitVec 512) (data : List Byte) (dest : List Byte)
  /-- HOP_LIMIT (R634). A chain that loops or uses up its hop budget halts with LOOP. -/
  | hopLimit (mover : Fin 16)
  /-- REQUEST_TIMEOUT (R637). A mover request without response within its timeout ends with TIMEOUT. -/
  | requestTimeout (mover : Fin 16) (write : Bool) (space : BitVec 2) (addr : BitVec 64)
  /-- BUS_ERROR (R637). A mover request answered with an error halts the chain and the mover. -/
  | busError (mover : Fin 16) (write : Bool) (space : BitVec 2) (addr : BitVec 64)
  /-- CHAIN_COMPLETION (R641). A chain ends, writes its completion record and raises event 0x700 + mover. -/
  | chainCompletion (mover : Fin 16)
  /-- STOP (R638). MOV_CH_CTL.STOP stops the chain at the next descriptor boundary. -/
  | stop (mover : Fin 16)
  /-- RESUME (R636). MOV_CH_CTL.RESUME leaves HALTED and clears the latch. -/
  | resume (mover : Fin 16)
  /-- STREAM_FRAME (R650). A stream writes one frame into its host ring. -/
  | streamFrame (stream : BitVec 16)
  /-- READ_REREAD (R648). A stream waiting for ring space re-reads READ at most every 250 ns. -/
  | readReread (stream : BitVec 16) (read : BitVec 64)
  /-- CELLAR_REQUEST (R667). A pseudo-channel chooses and issues the next command among ready requests. -/
  | cellarRequest (pc : Fin 64) (arrivals : List CelReq) (errors : List (Fin 72 × Byte))
  /-- CEL_RETIRE (R680). CEL_RETIRE.GO retires the named pseudo-channel with migration. -/
  | celRetire (pc : Fin 64)
  /-- REFIN_VALID (R691). REFIN valid for 1,000 periods moves the PLL to ACQUIRE or RECOVER. -/
  | refinValid (ref100 : Bool) (offset : BitVec 32)
  /-- STEP_TIME (R700). TIM_ADJ_CTL OP 1 STEP changes the count and slews the remainder. -/
  | stepTime (val : BitVec 64)
  /-- SLEW (R700). TIM_ADJ_CTL OP 2 SLEW moves the time base phase at RATE ppb. -/
  | slew (val : BitVec 64)
  /-- SET (R700). TIM_ADJ_CTL OP 3 SET loads the coarse count. -/
  | set_ (val : BitVec 64)
  /-- STAMP_EDGE (R710). An accepted edge on a stamp input is stamped through its TDC line. -/
  | stampEdge (input : Fin 9) (rising : Bool) (code : Fin 320)
  /-- STAMP_READY (R715). A stamp is written to its Loft ring and may raise its event. -/
  | stampReady (input : Fin 9)
  /-- STATS_PAIRING (R719). A final stamp pairs, or a start window closes UNPAIRED, in a statistics unit. -/
  | statsPairing (unit_ : Fin 4)
  /-- PPS_EDGE (R723). An accepted PPS edge updates TIM_PPS_OFF and raises event 0x200. -/
  | ppsEdge (time : BitVec 72)
  /-- MODE (R723). A write of TIM_PPS_CFG.MODE rearms PPS first-edge acceptance. -/
  | mode (mode : BitVec 2)
  /-- TICK_ALARM (R726). A tick alarm reaches T, raises its event and re-arms with PERIOD. -/
  | tickAlarm (alarm : Fin 8)
  /-- RING_FRAME_RECEIVE (R733). A ring frame is received, CRC-checked, acted on and forwarded. -/
  | ringFrameReceive (dir : Fin 2) (frame : BitVec 256) (arrival : BitVec 72) (residence : BitVec 32)
  /-- CHANGE (R737). A device whose RX link state changes sends CHANGE. -/
  | change (rx0 : Bool) (rx1 : Bool)
  /-- MONITOR_TIMER_WRAP (R746). A monitor timer wraps, or is restarted by event REVID. -/
  | monitorTimerWrap (timer : Fin 4) (restart : Bool)
  /-- COMPARATOR_EDGE (R756). A resolved comparator output changes and latches, captures, interrupts or raises an event. -/
  | comparatorEdge (channel : Fin 8) (raw : List (BitVec 4))
  /-- SEQUENCE_START (R765). A timer pulse or event starts a sequence into DELAY, or is held or dropped. -/
  | sequenceStart (seq : Fin 4)
  /-- SEQUENCE_DELAY_END (R765). DELAY ends and the sequence becomes READY, then RUNNING at a free slot. -/
  | sequenceDelayEnd (seq : Fin 4)
  /-- SEQUENCE_RUN_END (R765). A sequence completes its last step and returns to IDLE. -/
  | sequenceRunEnd (slot : BitVec 6) (raws : List (BitVec 12))
  /-- ACCUMULATOR_WINDOW (R769). After WIN codes an accumulator publishes and raises event 0x500 + a. -/
  | accumulatorWindow (slot : BitVec 6) (raws : List (BitVec 12))
  /-- TRACKER_LIMIT (R770). A code beyond a tracker limit sets LIMIT and raises event 0x520 + k. -/
  | trackerLimit (slot : BitVec 6) (raws : List (BitVec 12))
  /-- ACC_CLR (R769). MON_ACC_CTL.CLR zeroes an accumulator. -/
  | accClr (acc : Fin 32)
  /-- TRK_CLR (R770). MON_TRK_CTL.CLR clears a tracker. -/
  | trkClr (trk : Fin 32)
  /-- CAL (R771). MON_CTL.CAL calibrates the four converter slices. -/
  | cal (sums : List (BitVec 24 × BitVec 24))
  /-- CTRIM (R772). MON_CTL.CTRIM trims every disabled comparator. -/
  | ctrim (trims : List (BitVec 32))
  /-- ERROR_RECORD (R785). A detected error writes a record to the error queue and sets OUTSTANDING when uncorrected. -/
  | errorRecord (code : Status) (sev : BitVec 2) (domain : BitVec 16) (src : BitVec 8) (cause : BitVec 8) (addr : BitVec 64) (session : BitVec 12) (detail : BitVec 32) (atOnce : Bool)
  /-- REL_ACK (R781). REL_ACK with GO clears OUTSTANDING of a domain. -/
  | relAck (domain : BitVec 16)
  /-- PATROL_SCRUB (R795). Patrol reads granules and cells, writing back corrections or poisoning. -/
  | patrolScrub (read : Patrol) (pct : BitVec 7) (late : BitVec 3)
  /-- ATTIC_CRC_CHECK (R798). Every 24 hours the HKC verifies Attic record CRCs. -/
  | atticCrcCheck (bad : BitVec 16)
  /-- ATTIC_WRITE_DONE (R803). An Attic record write completes with its header written last. -/
  | atticWriteDone (ok : Bool)
  /-- BOOT (R817). After reset release the HKC runs the nine-step boot sequence. -/
  | boot (rails : BitVec 4) (digestOk : Bool) (failedSpus : List (Fin 68)) (height : Option (Fin 3)) (failing : List (Fin 4 × List (Fin 64))) (repaired : List (Fin 64 × BitVec 5))
  /-- READY (R817). Boot step 9 sets READY and BAR0 is served. -/
  | ready (ms : BitVec 16)
  /-- SENSORS (R827). Mailbox SENSORS returns die temperatures and rail voltages. -/
  | sensors (vdd18 : BitVec 16) (vddCore : BitVec 16) (vddDvs : BitVec 16) (vddaSds : BitVec 16)
  /-- CALIBRATE (R827). Mailbox CALIBRATE runs the selected calibrations and saves. -/
  | calibrate (sums : List (BitVec 24 × BitVec 24)) (trims : List (BitVec 32)) (temp : BitVec 16) (hits : List (List (BitVec 23)))
  /-- UNKNOWN_MAILBOX_COMMAND (R827). An unknown mailbox CMD completes with CFG_RANGE. -/
  | unknownMailboxCommand (cmd : BitVec 8)
  /-- SMBUS_READ (R829). SMBus block read of IDENTITY, HKC_BOOT_STAT or HKC_PWR_STAT. -/
  | smbusRead (what : Fin 3)
  /-- WAKE_REQUEST (R825). A wake request cancels standby entry or raises PWR_REQ for a WARM reset. -/
  | wakeRequest (cmp : Option (Fin 8))
  /-- GPIO_EDGE (R849). A selected GPIO edge raises event 0xB00 + p or is dropped. -/
  | gpioEdge (pin : Fin 16) (level : Bool)
  /-- MSIX_VECTOR_UNMASK (R852). A host write that unmasks an MSI-X vector sends the message that was pending and merged while it was masked. -/
  | msixVectorUnmask (vector : BitVec 11)
  /-- DISABLE (R80). A write of HLK_LINK_CTL.DISABLE holds a UCIe module down, or releases it to train. -/
  | disable (value : BitVec 2)
  /-- HELD_CHIT_RELEASE (R132). A held Chit is written once ring space appears. -/
  | heldChitRelease (session : BitVec 12)
  /-- COALESCE_INTERVAL_END (R98). The end of a vector's coalescing interval fires the requests merged inside it. -/
  | coalesceIntervalEnd (vector : BitVec 11)
  /-- IRQ_HPD (R510). An IRQ_HPD pulse makes the output read link status and retrain if lost. -/
  | irqHpd (output : Fin 2) (lost : Bool)
  /-- LINK_TRAINING_DONE (R510). DisplayPort training ends in ACTIVE or FAILED. -/
  | linkTrainingDone (output : Fin 2) (pass : Bool)
  /-- AUX_REPLY (R511). An AUX transaction ends with ACK, NACK, DEFER or no reply in 400 µs. -/
  | auxReply (output : Fin 2) (result : BitVec 2) (data : List Byte)
  /-- REGULATOR_READY (R812). A DVFS regulator settles at its target and raises ready. -/
  | regulatorReady (which : Fin 3)
  /-- RAMP_DONE (R707). A synthesiser ramp ends and CURRENT shows the target. -/
  | rampDone (which : Fin 3)
  /-- REFRESH (R673). Per-bank refresh is issued or forced after 8 postponed intervals. -/
  | refresh (pc : Fin 64) (bank : BitVec 6) (idle : Bool)
  /-- SELF_REFRESH_ENTRY (R675). A stack idle for SR_IDLE µs enters self-refresh. -/
  | selfRefreshEntry (stack : Fin 2)
  /-- SELF_REFRESH_EXIT (R675). A request to a stack in self-refresh makes it exit and serve. -/
  | selfRefreshExit (stack : Fin 2)
  /-- PERIODIC_RETRAINING (R679). A pseudo-channel's read and write eyes retrain every RT_PERIOD or on temperature change. -/
  | periodicRetraining (pc : Fin 64) (pass : Bool)
  /-- SLICE_MIGRATION (R684). A displaced slice is copied into its donor slot. -/
  | sliceMigration (bad : List (BitVec 31))
  /-- STACK_TEMPERATURE (R673). A stack above 85 °C doubles refresh; above 105 °C throttling applies. -/
  | stackTemperature (stack : Fin 2) (temp : BitVec 8)
  /-- OVEN_READY (R692). An OVEN_READY level change moves between LOCKED and WARMUP. -/
  | ovenReady (level : Bool)
  /-- TDC_CALIBRATION (R712). An idle TDC line collects hits and builds its table. -/
  | tdcCalibration (input : Fin 9) (temp : BitVec 16) (hits : List (BitVec 23))
  /-- TDC_CALIBRATION_DUE (R714). With AUTO, CAL_PER minutes or a 2 °C change start a calibration. -/
  | tdcCalibrationDue (input : Fin 9)
  /-- LINE_SWAP (R714). After a valid calibration the two TDC lines swap at a quiet tick. -/
  | lineSwap (input : Fin 9)
  /-- ECHO_REQ (R734). Every 1 ms a device sends ECHO_REQ on each TX link. -/
  | echoReq (depart0 : BitVec 72) (depart1 : BitVec 72)
  /-- COMPARATOR_RESOLVE (R753). An UNSETTLED threshold resolves on a side or after 256 band samples. -/
  | comparatorResolve (channel : Fin 8) (raw : List (BitVec 4))
  /-- STANDBY_WAKE_EDGE (R758). A WAKE comparator edge in standby requests wake. -/
  | standbyWakeEdge (channel : Fin 8) (raw : List (BitVec 4))
  /-- TEMPERATURE_SERVICE (R763). Every 1 ms the temperature means are written to MON_TEMP. -/
  | temperatureService (raws : List (List (BitVec 12)))
  /-- RAIL_OUT_OF_RANGE (R808). A rail sense point leaves its range, clearing its RAIL_OK bit and setting HKC_EVT_STAT.RAIL. -/
  | railOutOfRange (rail : Fin 4)
  /-- INSTANCE_START (R186). The Storekeeper starts a ready RUN instance, or a whole gang, on free SPUs. -/
  | instanceStart
  /-- RETRAIN0 (R143). HLK_LINK_CTL.RETRAIN0: retrains UCIe module 0. -/
  | retrain0
  /-- RETRAIN1 (R143). HLK_LINK_CTL.RETRAIN1: retrains UCIe module 1. -/
  | retrain1
  /-- SNOOP (R87). A host snoop is answered with the line invalid. -/
  | snoop
  /-- TIM_NOW_READ (R844). A read of TIM_NOW instance 0 latches its companion words. -/
  | timNowRead
  /-- LOCK (R146). STK_CTL.LOCK makes STK_POOL_CFG and STK_TT_CFG read-only until reset. -/
  | lock
  /-- LOCK_ALL (R838). GLB_CTL.LOCK_ALL sets the STK, CEL and ATC locks in one step. -/
  | lockAll
  /-- PAGE_OUT (R172). Page-outs start for an ALLOC short of Shelves or when free Shelves fall below LOW. -/
  | pageOut
  /-- AGEING_SWEEP (R174). Every 10 ms all ACC bits are cleared. -/
  | ageingSweep
  /-- PREEMPTION (R195). A waiting urgent RUN Crate preempts victim instances at a bundle boundary and saves their context. -/
  | preemption
  /-- DVFS_LOWERING_APPLY (R58). A deferred lowering of the SPU frequency is applied once no admitted Crate would miss its deadline. -/
  | dvfsLoweringApply
  /-- INSTR_PULL_END (R419). The INSTR pull of DRV_W ticks ends. -/
  | instrPullEnd
  /-- LATCH_LINE (R514). At the first pixel clock of line VACT shadowed LAYER records latch and references move. -/
  | latchLine
  /-- MIGRATION_END (R686). Migration ends, USABLE falls and the retirement map is updated. -/
  | migrationEnd
  /-- REFIN_LOSS (R690). REFIN is lost and the reference PLL enters FREE or HOLDOVER. -/
  | refinLoss
  /-- PLL_LOCKED (R691). Phase error within ±1 ns for 100 ms enters LOCKED or WARMUP. -/
  | pllLocked
  /-- SLEW_COMPLETE (R701). A slew reaches its amount and raises event 0x204. -/
  | slewComplete
  /-- TDC_CAL (R714). TIM_TDC_CTL.CAL calibrates every input. -/
  | tdcCal
  /-- TDC_SAVE (R745). TIM_TDC_CTL.SAVE writes the TDC tables to the Attic. -/
  | tdcSave
  /-- PPS_MISSING (R724). No PPS edge by 1 s plus PPS_WIN raises event 0x201. -/
  | ppsMissing
  /-- SYNC_PIN_EDGE (R727). A sync pin rising edge forms a strobe with rounded target T. -/
  | syncPinEdge
  /-- BEACON (R733). The ring master sends a BEACON every 1 µs in both directions. -/
  | beacon
  /-- ENUM (R737). The master enumerates the ring and positions are assigned. -/
  | enum
  /-- RING_COMMAND_AT_T (R741). At T a device acts on a ring command: strobe, ALIGN or event. -/
  | ringCommandAtT
  /-- ISOLATED (R738). No BEACON for 1 ms sets ISOLATED. -/
  | isolated
  /-- MON_SAVE (R773). MON_CTL.SAVE writes the slice and trim records to the Attic. -/
  | monSave
  /-- POP (R786). REL_Q_CTL.POP removes the head error record. -/
  | pop
  /-- CE_INTERVAL_END (R788). The end of a CE_INT interval fires vector 1 if corrected or note records came. -/
  | ceIntervalEnd
  /-- ERRLOG_COPY (R789). The HKC copies an uncorrected or escalation record into ERRLOG, at most once per second. -/
  | errlogCopy
  /-- LOST_ANALYSIS_TICK (R800). A tick without analysis adds to REL_LOST. -/
  | lostAnalysisTick
  /-- WRITE_RECORD (R804). ATC_CTL OP 0 with GO writes an Attic record from staging. -/
  | writeRecord
  /-- INVALIDATE_RECORD (R804). ATC_CTL OP 1 with GO invalidates an Attic record. -/
  | invalidateRecord
  /-- WRITE_INTEGRATOR_AREA (R804). ATC_CTL OP 2 with GO writes a sector of the integrator area. -/
  | writeIntegratorArea
  /-- WLOCK (R804). ATC_CTL.WLOCK locks host Attic commands until reset. -/
  | wlock
  /-- PORST_N (R813). PORST_N low or VDD_AON brown-out causes a POR reset. -/
  | porstN
  /-- RST_N (R813). RST_N low for 1 µs causes a WARM reset. -/
  | rstN
  /-- FUNCTION_RESET (R814). A CXL function, hot or secondary bus reset closes sessions and rebuilds pools. -/
  | functionReset
  /-- VERSION (R827). Mailbox VERSION returns firmware, ROM, part and stepping. -/
  | version
  /-- RESET (R827). Mailbox RESET starts a WARM or FUNCTION reset. -/
  | reset
  /-- STANDBY (R823). Mailbox STANDBY stops every domain outside always-on and drops PWR_REQ. -/
  | standby
  /-- SMBUS_RESET (R829). SMBus RESET starts a WARM reset. -/
  | smbusReset
  /-- SMBUS_STANDBY (R829). SMBus STANDBY enters standby under R823. -/
  | smbusStandby
  /-- WAKE (R825). SMBus WAKE requests wake from standby. -/
  | wake
  /-- THROTTLE_ENTRY (R831). Die or stack above 105 °C ramps the DVFS domains to their minimum. -/
  | throttleEntry
  /-- THROTTLE_RELEASE (R831). Below 100 °C for 1 s the DVFS domains return to their targets. -/
  | throttleRelease
  /-- THERMAL_TRIP (R832). A die sensor above 125 °C stops clocks and drives THERMTRIP_N low. -/
  | thermalTrip
  /-- CONFIGURATION_REQUEST (R818). A CXL.io configuration request from the host, answered with Configuration Request Retry Status until boot step 9 and served afterwards. -/
  | configurationRequest
  /-- CEL_CTL_LOCK (R27). A write of CEL_CTL.LOCK makes CEL_CFG read-only until reset. -/
  | celCtlLock
deriving DecidableEq, Repr

end Sys2Proof
end

