-- ==== Sys2Proof/Decode.lean ====
section
/-!
DEFINITION. Words of the table. The table gives no row any bits: no word spells a command.
-/
namespace Sys2Proof

def decodeTableWord (_nbits _w : Nat) : Option Instr := none

end Sys2Proof
end

