-- ==== Sys2Proof/Config.lean ====
section
/-!
DEFINITION. What one die fixes and the values the spec leaves open. An `opaque` constant has no body: nothing can
evaluate it, so a claim about it holds whatever its value is.
-/
namespace Sys2Proof.Config

/-- A free value: a fresh 64-bit word for each reading of the free counter of the state. -/
opaque freeWord : Nat → BitVec 64

/-- SPU clocks without issue that a bundle costs beyond those the spec fixes (R536, R538). -/
opaque stallClocks : Nat → Nat

/-- Which of the codes within the error the spec allows a sine value takes, by angle (R304). -/
opaque trigChoice : Nat → Nat

/-- The error of a log power value within the bound the spec gives, by reading (R330, R359). -/
opaque lpError : Nat → Nat

/-- SPU clocks that a Crate still needs, as the Storekeeper judges at a tick whether it would miss its deadline (R57, R58). -/
opaque clocksLeft : Nat → BitVec 64 → Nat

/-- The band that a search of a core synthesiser's VCO (B if true) finds for a frequency in MHz, by reading (R706). -/
opaque vcoBand : Nat → Bool → Nat → Nat → BitVec 6

/-- Whether a band of a core synthesiser's VCO covers a frequency in MHz (R707, R708). -/
opaque bandCovers : Nat → Bool → BitVec 6 → Nat → Bool

/-- The trim sets of the factory records, by port × 180 + set, without VALID (R297). -/
opaque factoryTrim : Nat → BitVec 54

/-- Half-band coefficients of CHN_HB_COEF, by instance, signed Q1.17: fixed, and not printed in the spec (R306). -/
opaque hbCoef : Nat → BitVec 18

/-- The bytes of a QUERY result whose layout the spec does not give, by WHAT and by reading (R855). -/
opaque queryBytes : Nat → Nat → List Byte

/-- Which of the codes within 1 LSB a window coefficient takes, by window × 65,536 + index and by length (R352). -/
opaque winChoice : Nat → Nat → Nat

/-- NORM_LP and ENBW_LP of a window whose coefficients sum to 0, for which R354 has no value, by reading. -/
opaque normFree : Nat → Int

/-- Whether the radix-2 stages of the spectral transform run in the decimation-in-time order (R355). -/
opaque fftInTime : Bool

/-- GLB_VERSION.FW and RES0 of the mailbox command VERSION (R827, R838). -/
opaque fwVersion : BitVec 16

/-- GLB_VERSION.ROM and RES1 of the mailbox command VERSION (R827, R838). -/
opaque romVersion : BitVec 16

end Sys2Proof.Config
end

