-- ==== Sys2Proof/Machine/Bits.lean ====
section
/-!
DEFINITION. Bit fields, rounding, saturation, byte order and the tables of Word: the helpers every meaning uses.
-/
namespace Sys2Proof

/-- Bits [lo+len-1:lo] of a word as a number. -/
def fld {n : Nat} (w : BitVec n) (lo len : Nat) : Nat := (w.toNat >>> lo) % 2 ^ len

/-- Bit i of a word. -/
def bit {n : Nat} (w : BitVec n) (i : Nat) : Bool := w.toNat.testBit i

/-- Write v into bits [lo+len-1:lo]. -/
def setFld {n : Nat} (w : BitVec n) (lo len v : Nat) : BitVec n :=
  (w &&& ~~~ (BitVec.ofNat n ((2 ^ len - 1) <<< lo))) ||| BitVec.ofNat n ((v % 2 ^ len) <<< lo)

/-- Set or clear bit i. -/
def setBit {n : Nat} (w : BitVec n) (i : Nat) (b : Bool) : BitVec n := setFld w i 1 b.toNat

/-- The two's-complement value of a len-bit field. -/
def sfld {n : Nat} (w : BitVec n) (lo len : Nat) : Int :=
  let v := fld w lo len
  if v < 2 ^ (len - 1) then (v : Int) else (v : Int) - 2 ^ len

/-- A register write: RW bits take the new value, W1C bits clear where 1 is written, others keep (R27). -/
def regWrite (old new rw w1c : Reg) : Reg := ((old &&& ~~~ rw) ||| (new &&& rw)) &&& ~~~ (new &&& w1c)

/-- A counter field that clears on a write of all ones and keeps otherwise (R845). -/
def cntClear (width : Nat) (old : Nat) (written : Nat) : Nat := if written = 2 ^ width - 1 then 0 else old

/-- A saturating counter of the given width. -/
def satInc (width old : Nat) (by_ : Nat := 1) : Nat := min (old + by_) (2 ^ width - 1)

/-- R15: narrowing by k bits rounds half towards plus infinity. -/
def narrow (v : Int) (k : Nat) : Int :=
  match k with
  | 0 => v
  | k' + 1 => (v + 2 ^ k') >>> (k' + 1)

/-- R15 for a fraction: floor (num / den + 1/2). -/
def roundDiv (num : Int) (den : Nat) : Int := (2 * num + den) / (2 * (max den 1))

/-- Saturation to w bits, two's complement. -/
def satS (w : Nat) (v : Int) : Int := max (-(2 ^ (w - 1) : Int)) (min (2 ^ (w - 1) - 1) v)

/-- Saturation to w bits, unsigned. -/
def satU (w : Nat) (v : Nat) : Nat := min v (2 ^ w - 1)

/-- Ceiling division. -/
def cdiv (a b : Nat) : Nat := if b = 0 then 0 else (a + b - 1) / b

/-- Byte i of a little-endian word. -/
def byteAt {n : Nat} (w : BitVec n) (i : Nat) : Byte := BitVec.ofNat 8 (w.toNat >>> (8 * i))

/-- The k low bytes of a number, least significant first. -/
def leBytes : Nat → Nat → List Byte
  | 0, _ => []
  | k + 1, v => BitVec.ofNat 8 v :: leBytes k (v / 256)

/-- The number spelled by bytes, least significant first. -/
def ofLeBytes : List Byte → Nat
  | [] => 0
  | b :: t => b.toNat + 256 * ofLeBytes t

/-- The XOR of a number's low `n` bits. -/
def parity : Nat → Nat → Bool
  | 0, _ => false
  | n + 1, v => (v % 2 == 1) ^^ parity n (v / 2)

/-- `floor(log2 v)` for v > 0, by at most `fuel` halvings. -/
def log2Floor : Nat → Nat → Nat
  | 0, _ => 0
  | fuel + 1, v => if v < 2 then 0 else 1 + log2Floor fuel (v / 2)

/-- Whether a number is a power of two up to 2^64. -/
def isPow2 (v : Nat) : Bool := v != 0 && v == 2 ^ log2Floor 64 v

/-- `floor(√v)`: `fuel` binary digits, highest first. -/
def isqrtGo (v : Nat) : Nat → Nat → Nat
  | 0, r => r
  | fuel + 1, r =>
    let t := r + 2 ^ fuel
    isqrtGo v fuel (if t * t ≤ v then t else r)

def isqrt (v : Nat) : Nat := isqrtGo v (log2Floor 1024 v / 2 + 1) 0

/-- One byte of CRC-32C, the reflected Castagnoli polynomial. -/
def crcBits : Nat → Nat → Nat
  | 0, c => c
  | n + 1, c => crcBits n (if c % 2 = 1 then (c / 2) ^^^ 0x82F63B78 else c / 2)

/-- CRC-32C of bytes, initial value and final inversion all ones. -/
def crc32c (b : List Byte) : Nat := (b.foldl (fun c x => crcBits 8 (c ^^^ x.toNat)) 0xFFFFFFFF) ^^^ 0xFFFFFFFF

/-- A mean of integers rounded down or up, as an open choice says. -/
def meanOf (l : List Int) (up : Bool) : Int :=
  if l.isEmpty then 0 else
  let n : Int := (l.length : Nat)
  (l.foldl (· + ·) 0 + (if up then n - 1 else 0)) / n

/-! Tables: first match wins; `set` keeps the keys rising; `put` also drops entries equal to the default. -/

variable {α β : Type}

def Tbl.find? : Tbl α → Nat → Option α
  | [], _ => none
  | (k', v) :: t, k => if k = k' then some v else Tbl.find? t k

def Tbl.get (d : α) (t : Tbl α) (k : Nat) : α := (Tbl.find? t k).getD d

def Tbl.set : Tbl α → Nat → α → Tbl α
  | [], k, v => [(k, v)]
  | (k', v') :: t, k, v =>
    if k < k' then (k, v) :: (k', v') :: t
    else if k = k' then (k, v) :: t
    else (k', v') :: Tbl.set t k v

def Tbl.erase (t : Tbl α) (k : Nat) : Tbl α := t.filter (fun p => p.1 != k)

/-- Set under a canonical form: an entry equal to the default is not listed. -/
def Tbl.put [DecidableEq α] (d : α) (t : Tbl α) (k : Nat) (v : α) : Tbl α :=
  if v = d then Tbl.erase t k else Tbl.set t k v

def Tbl.upd (d : α) (t : Tbl α) (k : Nat) (f : α → α) : Tbl α := Tbl.set t k (f (Tbl.get d t k))

/-- Write a run of values at consecutive keys. -/
def Tbl.putRun [DecidableEq α] (d : α) (t : Tbl α) (k : Nat) : List α → Tbl α
  | [] => t
  | v :: vs => Tbl.putRun d (Tbl.put d t k v) (k + 1) vs

/-- Read a run of n values at consecutive keys. -/
def Tbl.getRun (d : α) (t : Tbl α) (k : Nat) : Nat → List α
  | 0 => []
  | n + 1 => Tbl.get d t k :: Tbl.getRun d t (k + 1) n

/-- The canonical form of a table with default `d`: keys strictly rising, no entry equal to the default. -/
def Tbl.wf [DecidableEq α] (d : α) : Tbl α → Bool
  | [] => true
  | [(_, v)] => decide (v ≠ d)
  | (k, v) :: (k', v') :: t => decide (v ≠ d) && decide (k < k') && Tbl.wf d ((k', v') :: t)

/-- The lowest `n` numbers from `lo` (below `hi`) outside `used`, trying at most `fuel` candidates. -/
def lowestFree (used : List Nat) (hi : Nat) : Nat → Nat → Nat → List Nat
  | 0, _, _ => []
  | fuel + 1, lo, n =>
    if n = 0 ∨ lo ≥ hi then []
    else if used.contains lo then lowestFree used hi fuel (lo + 1) n
    else lo :: lowestFree used hi fuel (lo + 1) (n - 1)

/-- Take the first element that meets `p`, and the list without it. -/
def takeFirst (p : α → Bool) : List α → Option (α × List α)
  | [] => none
  | x :: t => if p x then some (x, t) else (takeFirst p t).map fun (y, t') => (y, x :: t')

/-- Update every element that meets `p`. -/
def mapIf (p : α → Bool) (f : α → α) (l : List α) : List α := l.map fun x => if p x then f x else x

/-- The best element under `lt`, the earliest among equals. -/
def bestBy (lt : α → α → Bool) : List α → Option α
  | [] => none
  | x :: t => match bestBy lt t with
    | none => some x
    | some y => if lt y x then some y else some x

/-- A list without repeats, first occurrences kept. -/
def dedup [DecidableEq α] : List α → List α
  | [] => []
  | x :: t => x :: (dedup t).filter (fun y => y != x)

/-- Insert in rising order of `f`. -/
def insertBy (f : α → Nat) (x : α) : List α → List α
  | [] => [x]
  | y :: t => if f x < f y then x :: y :: t else y :: insertBy f x t

/-- Sort in rising order of `f`. -/
def sortBy (f : α → Nat) : List α → List α
  | [] => []
  | x :: t => insertBy f x (sortBy f t)

/-- Apply `f` n times. -/
def iterate (f : α → α) : Nat → α → α
  | 0, x => x
  | n + 1, x => iterate f n (f x)

/-! Status codes. -/

/-- The 8-bit code of a status (R126). -/
def Status.code : Status → BitVec 8
  | .ok => 0x00 | .partial_ => 0x01 | .cancelled => 0x02 | .grantFault => 0x10 | .noShelves => 0x11 | .noLoft => 0x12
  | .quota => 0x13 | .deadlineMissed => 0x14 | .busError => 0x20 | .timeout => 0x21 | .loop => 0x22
  | .compareMismatch => 0x23 | .armCapacity => 0x30 | .armBusy => 0x31 | .programFault => 0x40 | .illegalBundle => 0x41
  | .cfgLocked => 0x50 | .cfgRange => 0x51 | .linkDegraded => 0x60 | .portDown => 0x61 | .eccUncorrected => 0x70
  | .internal => 0x7F

/-! Cell tags (R17, R19, R20). -/

def tagValid : BitVec 4 := 0x0
def tagSettling : BitVec 4 := 0x1
def tagOverrange : BitVec 4 := 0x2
def tagGap : BitVec 4 := 0x3
def tagMark : BitVec 4 := 0x4
def tagHeader : BitVec 4 := 0x5
def tagEmpty : BitVec 4 := 0xF

/-- Codes 0x6 to 0xE are reserved. -/
def tagReserved (t : BitVec 4) : Bool := 6 ≤ t.toNat && t.toNat ≤ 14

/-- R17: GAP over OVERRANGE over SETTLING. -/
def tagRank (gap exceeds settling : Bool) : BitVec 4 :=
  if gap then tagGap else if exceeds then tagOverrange else if settling then tagSettling else tagValid

/-- R19: no store, mover or unit writes EMPTY or a reserved tag; GAP stands in its place. -/
def tagStored (t : BitVec 4) : BitVec 4 := if 6 ≤ t.toNat then tagGap else t

def Cell.stored (c : Cell) : Cell := { c with tag := tagStored c.tag }

/-- R67: the cell a read of an empty queue returns. -/
def Cell.empty : Cell := { data := 0, tag := tagEmpty }

/-- High half [35:18] and low half [17:0] as signed values (R1, R3). -/
def Cell.hi (c : Cell) : Int := sfld c.data 18 18
def Cell.lo (c : Cell) : Int := sfld c.data 0 18

/-- A cell from two signed halves, wrapping (R16). -/
def Cell.ofHalves (h l : Int) (t : BitVec 4 := 0) : Cell :=
  { data := BitVec.ofNat 36 ((h % 2 ^ 18).toNat * 2 ^ 18 + (l % 2 ^ 18).toNat), tag := t }

/-- R9: LP16 from LP18. -/
def lp16 (x : Int) : Int := satS 16 (narrow x 2)

/-- R12: the two cells of a stamp, low address first. -/
def stampCells (t : Stamp) : List (BitVec 36) := [BitVec.ofNat 36 t.toNat, BitVec.ofNat 36 (t.toNat / 2 ^ 36)]

/-- A stamp of a coarse tick with fine part 0. -/
def stampOf (coarse : BitVec 64) (fine : Nat := 0) : Stamp := BitVec.ofNat 72 (coarse.toNat * 256 + fine % 256)

/-- R13: interval arithmetic is a 72-bit signed difference. -/
def stampDiff (a b : Stamp) : Int := (a - b).toInt

/-- R13: a tick lies before another, by the signed difference of the counts. -/
def tickBefore (a b : BitVec 64) : Bool := decide ((a - b).toInt < 0)

/-- Order of ticks around one, for sorting. -/
def tickKey (now t : BitVec 64) : Nat := (t - now + BitVec.ofNat 64 (2 ^ 63)).toNat

/-- A key that orders stamps near a tick in time order across the wrap of the count (R13). -/
def stampKey (now : BitVec 64) (t : Stamp) : Nat := (t - stampOf now + BitVec.ofNat 72 (2 ^ 71)).toNat

def Stamp.coarse (t : Stamp) : BitVec 64 := BitVec.ofNat 64 (t.toNat / 256)

end Sys2Proof
end

