-- ==== Sys2Proof/Machine/Check.lean ====
section
/-!
DEFINITION. Check codes: the 8 check bits of a Loft or local memory word (R790, R791), and the Reed-Solomon code of a
Cellar granule (R793).
-/
namespace Sys2Proof.Machine

/-! Loft and local memory words (R2, R790, R791). -/

/-- P(0) to P(39): the integers of 3 or more that are no powers of two. -/
def checkPos : List Nat := ((List.range 44).map (3 + ·)).filter fun v => !isPow2 v

/-- Check bits 40 to 45 of 40 bits of data and tag: bit j is the XOR of every d_i with bit j of P(i) set. -/
def hamming (d : Nat) : Nat := (checkPos.zipIdx).foldl (fun x (p, i) => if d.testBit i then x ^^^ p else x) 0

/-- A cell as a 48-bit word at a physical cell address. -/
def cellWord (c : Cell) (addr : Nat) : BitVec 48 :=
  let d := c.data.toNat + c.tag.toNat * 2 ^ 36
  let w := d + hamming d * 2 ^ 40
  BitVec.ofNat 48 (w + (parity 46 w).toNat * 2 ^ 46 + (parity 24 addr).toNat * 2 ^ 47)

/-- Data and tag of a word. -/
def wordCell (w : Nat) : Cell := { data := BitVec.ofNat 36 w, tag := BitVec.ofNat 4 (w / 2 ^ 36) }

/-- What a read of a word shows. -/
inductive WordRead
  | good (c : Cell)
  | corrected (c : Cell)
  /-- Uncorrected: CAUSE 1 multi-bit, 2 address check. -/
  | bad (cause : Nat)
deriving DecidableEq, Repr

/-- R791: the read of a stored word at a physical cell address. -/
def readWord (w : BitVec 48) (addr : Nat) : WordRead :=
  let v := w.toNat
  let s := hamming (v % 2 ^ 40) ^^^ (v / 2 ^ 40 % 64)
  let e := parity 47 v
  if bit w 47 ≠ parity 24 addr then .bad 2
  else if !e then (if s = 0 then .good (wordCell v) else .bad 1)
  else if s = 0 ∨ isPow2 s then .corrected (wordCell v)
  else match checkPos.idxOf? s with
    | some i => .corrected (wordCell (v ^^^ 2 ^ i))
    | none => .bad 1

/-- The cell a read delivers. -/
def WordRead.cell? : WordRead → Option Cell
  | .good c | .corrected c => some c
  | .bad _ => none

/-! Cellar granules (R793). -/

/-- Multiplication by α in GF(2⁸) with x⁸ + x⁴ + x³ + x² + 1. -/
def gfDouble (a : Nat) : Nat := if a < 128 then 2 * a else (2 * a) ^^^ 0x11D

def gfMul (a b : Nat) : Nat :=
  ((List.range 8).foldl (fun (acc, x) i => (if b.testBit i then acc ^^^ x else acc, gfDouble x)) (0, a)).1

/-- αⁿ. -/
def gfExp : Nat → Nat
  | 0 => 1
  | n + 1 => gfDouble (gfExp n)

/-- The inverse: the 254th power. -/
def gfInv (a : Nat) : Nat :=
  let sq := fun x => gfMul x x
  let p2 := sq a
  let p4 := sq p2
  let p8 := sq p4
  let p16 := sq p8
  let p32 := sq p16
  let p64 := sq p32
  let p128 := sq p64
  gfMul p128 (gfMul p64 (gfMul p32 (gfMul p16 (gfMul p8 (gfMul p4 p2)))))

/-- The generator without its leading coefficient, lowest first: the product of x + αⁱ for i from 0 to 7. -/
def rsGen : List Nat :=
  ((List.range 8).foldl (fun g i =>
    List.zipWith (fun a b => a ^^^ b) (0 :: g) ((g ++ [0]).map (gfMul (gfExp i)))) [1]).take 8

/-- A remainder of 8 coefficients, lowest first, times x plus a symbol. -/
def rsShift (r : List Nat) (c : Nat) : List Nat :=
  let top := r.getD 7 0
  List.zipWith (fun a g => a ^^^ gfMul top g) (c :: r.take 7) rsGen

def rsTimesX : Nat → List Nat → List Nat
  | 0, r => r
  | n + 1, r => rsTimesX n (rsShift r 0)

/-- The 8 check bytes of 64 bytes, symbols 64 to 71 of the code word whose coefficient of xⁱ is symbol i. DEDUCED: the
spec numbers the symbols and names the roots; log entry 77. -/
def rsCheck (b : List Byte) : List Byte :=
  let m := (b.map (·.toNat)).foldr (fun c r => rsShift r c) (List.replicate 8 0)
  (rsTimesX 191 m).map fun v => BitVec.ofNat 8 v

/-- The values of symbols at the roots α⁰ to α⁷. -/
def syndromes (e : List (Nat × Nat)) : List Nat :=
  (List.range 8).map fun j => e.foldl (fun a (i, v) => a ^^^ gfMul v (gfExp (i * j % 255))) 0

/-- The least error of at most 2 symbols that shows the syndromes of `e`, or none (R793). -/
def rsDecode (e : List (Nat × Nat)) : Option (List (Nat × Nat)) :=
  let s := syndromes e
  let s0 := s.getD 0 0
  let s1 := s.getD 1 0
  let s2 := s.getD 2 0
  let s3 := s.getD 3 0
  if s.all (· == 0) then some []
  else match (List.range 72).find? fun i => syndromes [(i, s0)] == s with
    | some i => some [(i, s0)]
    | none =>
      let det := gfMul s0 s2 ^^^ gfMul s1 s1
      if det = 0 then none else
      let d := gfInv det
      let sum := gfMul (gfMul s0 s3 ^^^ gfMul s1 s2) d
      let prod := gfMul (gfMul s1 s3 ^^^ gfMul s2 s2) d
      match (List.range 72).filter fun i => gfExp (2 * i % 255) ^^^ gfMul sum (gfExp i) ^^^ prod == 0 with
      | [i, k] =>
        let v := gfMul (s1 ^^^ gfMul s0 (gfExp i)) (gfInv (gfExp i ^^^ gfExp k))
        let c := [(i, s0 ^^^ v), (k, v)]
        if syndromes c == s then some c else none
      | _ => none

/-- The sum of two symbol patterns, without symbols that cancel. -/
def symAdd (a b : List (Nat × Nat)) : List (Nat × Nat) :=
  b.foldl (fun t (i, v) => Tbl.put 0 t i (Tbl.get 0 t i ^^^ v)) a

end Sys2Proof.Machine
end

