-- ==== Sys2Proof/Machine/StateHost.lean ====
section
/-!
DEFINITION. State of the host side: registers index and GPIO, error reporting, host link with its sessions, Hatches,
Crates and Chits, and the Storekeeper with its maps, pages, programs, pools and SPUs.
Default values are the reset values.
-/
namespace Sys2Proof.Machine

/-- What the device sends to the host: the model's own record of its writes, messages and answers. -/
inductive HostTxn
  /-- A CXL.io memory write of part of a line at a host address: the bytes from there are enabled (R86, R128). -/
  | write (addr : BitVec 64) (bytes : List Byte)
  /-- ItoMWr of the full 64-byte line at a host address (R84, R86). -/
  | itoMWr (addr : BitVec 64) (line : List Byte)
  /-- An MSI-X message of a vector (R95). -/
  | msix (vector : Nat)
  /-- Data returned by a read of BAR0, BAR4, CXL.mem or SMBus. -/
  | reply (bytes : List Byte)
  /-- A poisoned completion (R779). -/
  | poisoned
  /-- A snoop answered with the line invalid (R87). -/
  | snoopInvalid
  /-- A configuration request answered with Configuration Request Retry Status, or served (R818). -/
  | config (served : Bool)
  /-- An HDM decoder commit accepted or failed (R91). -/
  | hdmResult (ok : Bool)
deriving DecidableEq, Repr

/-- GLB block (19). -/
structure Glb where
  /-- GLB_ID [23:16] STEPPING (R838, 19). -/
  stepping : BitVec 8 := 0
  /-- GLB_ID [24] GRADE (R838, 19). -/
  grade : Bool := false
  /-- GLB_ID [25] ID_VALID (R838, 19). -/
  idValid : Bool := false
  /-- GLB_SERIAL 0 to 3 (R838, 19). -/
  serial : BitVec 128 := 0
  /-- GLB_VERSION [15:0] FW, as mailbox VERSION (R827, 18). -/
  fw : BitVec 16 := 0
  /-- GLB_VERSION [31:16] ROM (R827, 18). -/
  rom : BitVec 16 := 0
  /-- GLB_CAPS [23:16] CELLAR_GIB (R838, 19). -/
  cellarGib : BitVec 8 := 0
  /-- GLB_SCRATCH 0 to 3, kept across WARM and FUNCTION (R813, 18). -/
  scratch0 : Reg := 0
  /-- GLB_SCRATCH 1 (R813, 18). -/
  scratch1 : Reg := 0
  /-- GLB_SCRATCH 2 (R813, 18). -/
  scratch2 : Reg := 0
  /-- GLB_SCRATCH 3 (R813, 18). -/
  scratch3 : Reg := 0
  /-- GLB_ACC_ERR [0] PARTIAL (R840, 19). -/
  accPartial : Bool := false
  /-- GLB_ACC_ERR [1] UNMAPPED (R841, 19). -/
  accUnmapped : Bool := false
  /-- GLB_ACC_ERR [31:16] COUNT, saturating (R841, 19). -/
  accCount : BitVec 16 := 0
  /-- GLB_ACC_ADDR: OFFSET [20:0] and WRITE [31] (R841, 19). -/
  accAddr : Reg := 0
  /-- GLB_GPIO_DIR (R848, 19). -/
  gpioDir : BitVec 16 := 0
  /-- GLB_GPIO_OUT (R848, 19). -/
  gpioOut : BitVec 16 := 0
  /-- GLB_GPIO_IN, sampled levels (R849, 19). -/
  gpioIn : BitVec 16 := 0
  /-- GLB_GPIO_EVSEL, 2 bits a pin (R849, 19). -/
  gpioEvsel : Reg := 0
  /-- GLB_GPIO_DROP, saturating (R850, 19). -/
  gpioDrop : Reg := 0
  /-- Tick of each pin's previous event, by pin (R850, 19). -/
  gpioLast : Tbl (BitVec 64) := []
deriving DecidableEq, Repr

/-- An error record, eight words (R785). -/
structure ErrRec where
  code   : BitVec 8
  sev    : BitVec 2
  ovf    : Bool
  esc    : Bool
  domain : BitVec 16
  src    : BitVec 8
  cause  : BitVec 8
  seq    : BitVec 16
  addr   : BitVec 64
  session : BitVec 12
  time   : BitVec 64
  detail : BitVec 32
deriving DecidableEq, Repr

/-- What is kept per containment domain (R781, R783). -/
structure Domain where
  outstanding : Bool := false
  escalating  : Bool := false
  /-- REL_DOM_STAT [15:8], saturating. -/
  escalations : BitVec 8 := 0
  /-- REL_DOM_STAT [31:16], saturating. -/
  uncorr : BitVec 16 := 0
  /-- REL_DOM_CE, saturating. -/
  corr : BitVec 32 := 0
deriving DecidableEq, Repr

/-- REL block (17). -/
structure Rel where
  /-- REL_STAT [0] DEV_FAULT (R779, 17). -/
  devFault : Bool := false
  /-- Error record queue of 64 records; REL_REC shows its head (R786, 17). -/
  queue : List ErrRec := []
  /-- REL_Q_STAT [31:16] OVERFLOW, saturating (R787, 17). -/
  overflow : BitVec 16 := 0
  /-- A record was dropped since the last one queued: the next sets OVF (R787, 17). -/
  dropped : Bool := false
  /-- Record number SEQ, counts every record (R787, 17). -/
  seq : BitVec 16 := 0
  /-- Containment domains by 16-bit ID: OUTSTANDING, ESCALATING, counters (R777, 17). -/
  domains : Tbl Domain := []
  /-- REL_DOM_SEL (R781, 17). -/
  domSel : BitVec 16 := 0
  /-- REL_CE_CFG [15:0] CE_INT, class B next interval (R788, 17). -/
  ceInt : BitVec 16 := 100
  /-- The CE interval that runs holds a CORRECTED or NOTE record (R788, 17). -/
  ceSeen : Bool := false
  /-- Length of the CE interval that runs, ms (R788, 17). -/
  ceRunning : BitVec 16 := 100
  /-- REL_SCRUB_CFG: CEL_H, LOFT_S, LOCAL_S, EN (R795, 17). -/
  scrubCfg : Reg := 0x010A0A18
  /-- REL_SCRUB_STAT [2:0] CEL_LATE, LOFT_LATE, LOCAL_LATE (R796, 17). -/
  scrubLate : BitVec 3 := 0
  /-- REL_SCRUB_STAT [15:8] CEL_PCT (R795, 17). -/
  scrubPct : BitVec 8 := 0
  /-- REL_SCRUB_STAT [31:16] FOUND, saturating (R795, 17). -/
  scrubFound : BitVec 16 := 0
  /-- REL_LOST internal tick counts by port (R800, 17). -/
  lostTicks : Tbl Nat := []
  /-- UNCORRECTED and ESC records awaiting the ERRLOG copy, at most one per second (R789, 17). -/
  errlogWait : List ErrRec := []
deriving DecidableEq, Repr

/-- A Chit record, 32 bytes but for PHASE (R125). -/
structure Chit where
  tag     : BitVec 16
  status  : Status
  held    : Bool
  late    : Bool
  hatch   : BitVec 12
  index   : BitVec 32
  result1 : BitVec 32
  result0 : BitVec 64
  ctime   : BitVec 64
  /-- The vector to raise, if the Crate set IRQ (R97). -/
  irq     : Option (BitVec 6)
  /-- Serial number of the Crate, which stays in flight until the Chit is written (R132). -/
  uid     : Nat
deriving DecidableEq, Repr

/-- A session's state (R100). -/
inductive SessState | closed | opened | faulted | draining
deriving DecidableEq, Repr

/-- A drain in progress (R101). -/
structure Drain where
  /-- Serial of the CLOSE_SESSION or RESET_SESSION Crate. -/
  uid : Nat
  reset : Bool
  /-- An escalation arrived while DRAINING. -/
  escalated : Bool := false
deriving DecidableEq, Repr

/-- One session (02). -/
structure Session where
  st : SessState := .closed
  chitBase : BitVec 64 := 0
  chitLog2 : Nat := 0
  /-- Coalescing interval in µs (R98). -/
  coal : BitVec 16 := 0
  vecBase : Nat := 0
  vecCount : Nat := 0
  /-- Free-running count of Chits written. -/
  chitCount : BitVec 32 := 0
  /-- Free-running count the host reported consumed (R131). -/
  chitHead : BitVec 32 := 0
  /-- Chits waiting for ring space, at most 256 (R132). -/
  held : List Chit := []
  drain : Option Drain := none
  /-- Quotas (R202). -/
  qShelves : Nat := 0
  qLoft : Nat := 0
  qSpus : Nat := 0
  qPrio : Nat := 0
  qInflight : Nat := 0
  qPool : Nat := 0
  /-- Next handle, counted from 1 (R861). -/
  nextHandle : Nat := 1
deriving DecidableEq, Repr

/-- One Hatch (R105 to R108). -/
structure Hatch where
  owner : Nat
  n : Nat
  base : BitVec 64
  head : BitVec 32 := 0
  tail : BitVec 32 := 0
  /-- Head count of the last write-back (R110). -/
  wroteBack : BitVec 32 := 0
  /-- The slot read and held at admission test 3, with its raw bytes (R181). -/
  waiting : Option (BitVec 512) := none
deriving DecidableEq, Repr

/-- A dependency of an admitted Crate (R118, R183). -/
inductive Dep
  | met
  | tag (uid : Nat) (strict : Bool)
  | event (id : BitVec 12)
deriving DecidableEq, Repr

/-- Where an in-flight Crate stands. -/
inductive Phase
  /-- Admitted, dependencies outstanding. -/
  | waiting
  /-- Ready; the tick at which it became so. -/
  | ready (since : BitVec 64)
  /-- RUN in the scheduler's queue since the tick. -/
  | queued (since : BitVec 64)
  /-- Executing. -/
  | active
  /-- Status decided; the Chit is still to be issued (R136). -/
  | decided
deriving DecidableEq, Repr

/-- One Crate between admission and its Chit. -/
structure Live where
  uid : Nat
  session : Nat
  hatch : Nat
  index : BitVec 32
  /-- The 64 bytes of the Crate, byte i in bits [8i+7:8i]. -/
  raw : BitVec 512
  /-- False for a Crate that failed its admission tests and only awaits its Chit. -/
  admitted : Bool := true
  deps : List Dep := []
  phase : Phase := .waiting
  /-- Current priority class after ageing (R187). -/
  cls : Nat := 0
  /-- RUN: grants in force (R119). -/
  grants : List (BitVec 64) := []
  /-- RUN: instances started, ended and preempted count. -/
  started : Nat := 0
  ended : Nat := 0
  /-- RUN: a gang hold is in force (R189). -/
  hold : Bool := false
  /-- The first status other than OK that a RUN, a stop or a drain gave it. -/
  pendingStatus : Option Status := none
  status : Status := .ok
  late : Bool := false
  result0 : BitVec 64 := 0
  result1 : BitVec 32 := 0
  ctime : BitVec 64 := 0
  /-- The vector it raises: the test against VEC_COUNT is made as it is read (R97). -/
  irqVec : Option (BitVec 6) := none
deriving DecidableEq, Repr

/-- An event occurrence on its way to its receivers (R562, R858). -/
structure EventOcc where
  id : BitVec 12
  time : Stamp
  /-- The one session it reaches, or none for every session (R858). -/
  reach : Option Nat := none
deriving DecidableEq, Repr

/-- A vector's coalescing state (R98). -/
structure Coalesce where
  inInterval : Bool := false
  pending : Bool := false
deriving DecidableEq, Repr

/-- HLK block and the Belys queues (02). -/
structure Hlk where
  /-- HLK_LINK_STAT UP, HALF, RATE0, RATE1, REPAIRED0, REPAIRED1 (R78, 02). -/
  linkStat : Reg := 0
  /-- HLK_LINK_CTL MAX_RATE, RETRAIN0, RETRAIN1, DISABLE (R78, 02). -/
  linkCtl : Reg := 3
  /-- HLK_ERR_STAT bits 0 to 5 (R95, 02). -/
  errStat : Reg := 0
  /-- Occurrences that arrived at the latest tick at which one did, and that tick (R184). -/
  arrivals : List EventOcc := []
  arriveTick : BitVec 64 := 0
  /-- HLK_ADM_HATCH_BASE 0 and 1 (R99, 02). -/
  admHatchBase : BitVec 64 := 0
  /-- HLK_ADM_CHIT_BASE 0 and 1 (R99, 02). -/
  admChitBase : BitVec 64 := 0
  /-- HLK_ADM_CFG HATCH_LOG2, CHIT_LOG2, EN (R99, 02). -/
  admCfg : Reg := 0
  /-- HLK_CWIN WIN, EN (R94, 02). -/
  cwin : Reg := 0
  /-- HLK_SEL SESSION, HATCH (R100, 02). -/
  sel : Reg := 0
  /-- HLK_HATCH_BADDB by Hatch, saturating (R108, 02). -/
  badDb : Tbl (BitVec 32) := []
  /-- HLK_RETRY_CNT 0, saturating (R76, 02). -/
  retry0 : Reg := 0
  /-- HLK_RETRY_CNT 1, saturating (R76, 02). -/
  retry1 : Reg := 0
  /-- Sessions 0 to 4095 (R100, 02). -/
  sessions : Tbl Session := []
  /-- Hatches in use (R105, 02). -/
  hatches : Tbl Hatch := []
  /-- In-flight Crates in admission order (R113, 02). -/
  live : List Live := []
  /-- Serial number of the next Crate read (R134, 02). -/
  nextUid : Nat := 0
  /-- Coalescing state by vector (R98, 02). -/
  coal : Tbl Coalesce := []
  /-- MSI-X table mask bits by vector, set after reset as PCIe defines (R842, 19). -/
  unmasked : Tbl Bool := []
  /-- MSI-X table words other than Vector Control, by offset / 4: message address and data (R842, 19). -/
  msiTable : Tbl Reg := []
  /-- MSI-X pending bits by vector (R852, 19). -/
  msiPending : Tbl Bool := []
  /-- CXL.mem reserve in GiB (R88, 02). -/
  hdmGib : Nat := 0
  /-- Size in GiB of the committed HDM decoder and its host base, or none (R91, 02). -/
  hdmDecoder : Option (Nat × BitVec 64) := none
deriving DecidableEq, Repr

/-- Where a mapped Shelf is (R159). -/
inductive Place
  | resident (shelf : Nat)
  | paged (slot : Nat)
deriving DecidableEq, Repr

/-- One Shelf entry of a session's map (R159). -/
structure ShelfEntry where
  session : Nat
  /-- Session address bits [47:21]. -/
  idx : Nat
  handle : Nat
  place : Place
  spill : Bool
  acc : Bool := false
  /-- Tick since which it is resident (R173). -/
  since : BitVec 64 := 0
  /-- References beyond the session's hold (R163). -/
  refs : Nat := 0
  /-- Pins (R47). -/
  pins : Nat := 0
  /-- Released by FREE. -/
  freed : Bool := false
deriving DecidableEq, Repr

/-- One allocated Loft page (R157). -/
structure LoftPage where
  session : Nat
  handle : Nat
  refs : Nat := 0
  freed : Bool := false
deriving DecidableEq, Repr

/-- A loaded program (R531). -/
structure Program where
  session : Nat
  handle : Nat
  /-- Program store cell address of the image. -/
  base : Nat
  pages : Nat
  codeBundles : Nat
  dataCells : Nat
  liveCells : Nat
  entry : Nat
  /-- RUN Crates that name it (R163). -/
  refs : Nat := 0
  freed : Bool := false
deriving DecidableEq, Repr

/-- An overflow pool region (R168). -/
structure PoolRegion where
  base : BitVec 64
  /-- Slot numbers, slot k of the region first. -/
  slots : List Nat
  /-- A withdraw of this region is running: serial of its Crate. -/
  withdrawing : Option Nat := none
  /-- First failure among the page-ins of the withdraw (R169). -/
  failure : Option Status := none
deriving DecidableEq, Repr

/-- A table of a session's map in its 4 KiB frame (R158). -/
structure TableFrame where
  session : Nat
  /-- 1 to 3. -/
  level : Nat
  /-- Bits of the Shelf index that lead to it: none at level 1, [26:18] at level 2, [26:9] at level 3. -/
  key : Nat
  /-- Number of its frame in the table-frame pool. -/
  frame : Nat
deriving DecidableEq, Repr

/-- A Shelf transfer queued or running (R177). -/
structure Xfer where
  inward : Bool
  session : Nat
  idx : Nat
  /-- Handle of the Shelf. -/
  handle : Nat
  requester : Requester
  /-- It is one of the transfers that run. -/
  started : Bool := false
  /-- Physical Shelf that a running page-in fills. -/
  shelf : Nat := 0
  /-- Pool slot taken by a page-out. -/
  slot : Nat := 0
  /-- The wait for a free Shelf was already reported (R178). -/
  reported : Bool := false
  /-- A page-out for the waiting ALLOC (R865). -/
  forAlloc : Bool := false
deriving DecidableEq, Repr

/-- An ALLOC waiting for page-outs (R865). -/
structure AllocWait where
  uid : Nat
  /-- Physical Shelves already reserved to the ALLOC. -/
  reserved : List Nat
deriving DecidableEq, Repr

/-- One SPU of the die (R205). -/
structure Spu where
  retired : Bool := false
  spare : Bool := false
  /-- The program copy on it (crate serial × 64 + number). -/
  runs : Option Nat := none
  /-- 3 SAVING or 4 RESTORING while the steps of R195 run. -/
  moving : Nat := 0
  /-- Ticks at which bundles issued during the last ms (R190). -/
  issues : List (BitVec 64) := []
  /-- A retirement waits for context store slots (R206). -/
  retireWait : Bool := false
  /-- Gang Crates for which the free SPU is held (R189). -/
  heldFor : List Nat := []
  /-- SPA_DBG_SEL (R579, 11). -/
  dbgSel : Reg := 0
  /-- SPA_DBG_CTL break and halt bits (R579, 11). -/
  dbgCtl : Reg := 0
deriving DecidableEq, Repr

/-- STK block (03). -/
structure Stk where
  /-- STK_CTL PREEMPT_MAX, PREEMPT_EN, AGE, LOCK (R192, 03). -/
  ctl : Reg := 0x00000A0B
  /-- STK_POOL_CFG PROG_PAGES, CTX_PAGES (R145, 03). -/
  poolCfg : Reg := 0x00400040
  /-- STK_TT_CFG TT_SHELVES (R144, 03). -/
  ttCfg : Reg := 0x00000040
  /-- STK_PAGE_CFG LOW, HIGH, BW (R862, 03). -/
  pageCfg : Reg := 0x20080040
  /-- STK_PAGE_STAT [31] BAD_SLOT (R179, 03). -/
  badSlot : Bool := false
  /-- STK_PAGE_CNT 0, page-ins, saturating (R178, 03). -/
  pageIns : Reg := 0
  /-- STK_PAGE_CNT 1, page-outs, saturating (R178, 03). -/
  pageOuts : Reg := 0
  /-- STK_DEFQ0 SHELVES, LOFT (R202, 03). -/
  defq0 : Reg := 0x00400400
  /-- STK_DEFQ1 SPUS, PRIO_MAX, INFLIGHT (R202, 03). -/
  defq1 : Reg := 0x00080210
  /-- STK_DEFQ2 POOL (R202, 03). -/
  defq2 : Reg := 0
  /-- STK_SEL SESSION (R863, 03). -/
  sel : BitVec 12 := 0
  /-- STK_REFSEL INDEX, LOFT (R166, 03). -/
  refSel : Reg := 0
  /-- STK_PREEMPT_CNT PREEMPTS, saturating (R194, 03). -/
  preempts : BitVec 16 := 0
  /-- STK_PREEMPT_CNT NOSLOT, saturating (R194, 03). -/
  noSlot : BitVec 16 := 0
  /-- STK_TLB_STAT MISSES, saturating (R161, 03). -/
  tlbMisses : Reg := 0
  /-- Translation cache: at most 4096 (session, index) pairs (R160, 03). -/
  tlb : List (Nat × Nat) := []
  /-- Shelf entries of every session's map, as table frames hold them (R158, 03). -/
  shelves : List ShelfEntry := []
  /-- Table frames in use (R158, 03). -/
  tables : List TableFrame := []
  /-- Page-outs go on until HIGH Shelves are free (R172, 03). -/
  bgRun : Bool := false
  /-- Allocated Loft pages by page number (R157, 03). -/
  loft : Tbl LoftPage := []
  /-- Loaded programs (R146, 03). -/
  programs : List Program := []
  /-- Overflow pool regions 0 to 15 (R168, 03). -/
  pool : Tbl PoolRegion := []
  /-- Pool slots marked bad (R179, 03). -/
  badSlots : List Nat := []
  /-- Shelf transfers queued or running (R177, 03). -/
  xfers : List Xfer := []
  /-- The ALLOC whose page-outs run (R865, 03). -/
  allocWait : Option AllocWait := none
  /-- Session served last by the scheduler, per class (R186, 03). -/
  lastServed : Tbl Nat := []
  /-- SPUs 0 to 67 (R205, 03). -/
  spus : Tbl Spu := []
deriving DecidableEq, Repr

end Sys2Proof.Machine
end

