-- ==== Sys2Proof/Machine/StateTim.lean ====
section
/-!
DEFINITION. State of the time base: reference PLL, count and adjustment, stamp inputs with their TDC lines, statistics
units, PPS, alarms, strobes, synthesisers and the sync ring (15). Default values are the reset values.
-/
namespace Sys2Proof.Machine

/-- States of the reference PLL, with their codes in order (R691). -/
inductive RefState | free | acquire | locked | warmup | holdover | recover
deriving DecidableEq, Repr

/-- A stamp: time, sequence number and whether the fine part is uncalibrated (R709 to R718). -/
structure TimStamp where
  time : Stamp
  seq : Nat
  cal : Bool
  /-- An edge or stamp before it was dropped (R710, R718, 15). -/
  lost : Bool := false
deriving DecidableEq, Repr

/-- One stamp input with its two TDC lines (R709 to R716). -/
structure TsIn where
  /-- TIM_TSI_STAT [1] LINE: line in service, A or B (R714, 15). -/
  line : Bool := false
  /-- TIM_TSI_STAT [2] RING_FULL (R715, 15). -/
  ringFull : Bool := false
  /-- TIM_TSI_DROP, saturating (R710, 15). -/
  drop : Reg := 0
  /-- TIM_TSI_CNT: edges detected, wrapping (R716, 15). -/
  cnt : Reg := 0
  /-- An edge or stamp was dropped, and no edge has been accepted since (R710, R718, 15). -/
  lost : Bool := false
  /-- Tick of the last accepted edge (R710, 15). -/
  last : Option (BitVec 64) := none
  /-- Stamps not yet ready, oldest first (R709, 15). -/
  flight : List TimStamp := []
  /-- The idle line calibrates (R712, 15). -/
  calibrating : Bool := false
  /-- A valid result waits for the lines to swap (R714, 15). -/
  swap : Bool := false
deriving DecidableEq, Repr

/-- One statistics unit (R719 to R722). -/
structure TimStat where
  /-- Stamps of START that wait, with their LOST flags, in time order. -/
  starts : List (Stamp × Bool) := []
  /-- Stamps of STOP that wait, in time order. -/
  stops : List Stamp := []
  /-- The stamp before, in MODE 1. -/
  prev : Option Stamp := none
  /-- TIM_ST_CNT: values included in the block (R722, 15). -/
  n : Nat := 0
  s1 : Int := 0
  s2 : Nat := 0
  min_ : Int := 0
  max_ : Int := 0
  /-- Time of the first start or stamp of the block. -/
  first : Option Stamp := none
  orphan : Nat := 0
  unpaired : Nat := 0
  unresolved : Nat := 0
  /-- TIM_ST_STAT [1] RING_FULL (R722, 15). -/
  ringFull : Bool := false
  /-- TIM_ST_BLK: records written, wrapping (R722, 15). -/
  blk : Reg := 0
deriving DecidableEq, Repr

/-- One tick alarm (R726). -/
structure TimAlarm where
  /-- TIM_ALARM_STAT [0] EN (R726, 15). -/
  en : Bool := false
  t : BitVec 64 := 0
  period : Reg := 0
  /-- TIM_ALARM_STAT [1] LATE (R726, 15). -/
  late : Bool := false
  /-- TIM_ALARM_STAT [31:16] FIRES, saturating (R726, 15). -/
  fires : BitVec 16 := 0
deriving DecidableEq, Repr

/-- A command of the ring or a strobe of the sync pin that waits for its T (R727, R741). -/
structure TimCmd where
  t : BitVec 64
  index : BitVec 8
  arg : Reg := 0
  /-- It came over the ring: ARG is shown, and INDEX 1 is ALIGN. -/
  ring : Bool := true
deriving DecidableEq, Repr

/-- One of the synthesisers CS0 to CS2 (R707). -/
structure Syn where
  /-- SPA_FREQ and TIM_SYN [10:0] TARGET in MHz (R707, 11 and 15). -/
  target : BitVec 11
  /-- SPA_FREQ and TIM_SYN [26:16] CURRENT in MHz (R707, 11 and 15). -/
  current : BitVec 11
  /-- SPA_FREQ and TIM_SYN [27] RAMPING: the frequency that the ramp goes to (R62, R707, 11 and 15). -/
  ramp : Option (BitVec 11) := none
  /-- The regulator's target in mV (R63, R812, 01 and 18). -/
  mv : Nat := 600
  /-- The regulator's ready signal: its output is at its target (R812, 18). -/
  supplyReady : Bool := false
  /-- The output stage runs from VCO B (R706, 15). -/
  vcoB : Bool := false
  /-- The search of the whole band table at boot: the die temperature, in units of 0.125 °C, and the reading (R706, 15). -/
  filled : Option (Int × Nat) := none
  /-- Entries searched again, by VCO × 2,048 + MHz (R706, 15). -/
  found : Tbl (Int × Nat) := []
deriving DecidableEq, Repr

/-- The sync ring (R730 to R742). -/
structure Ring where
  /-- TIM_RING_CFG [0] EN (R730, 15). -/
  en : Bool := false
  /-- TIM_RING_CFG [1] MASTER (R730, 15). -/
  master : Bool := false
  /-- TIM_RING_CFG [2] FOLLOW (R736, 15). -/
  follow : Bool := false
  /-- Own MID, drawn when MASTER is set (R732, 15). -/
  mid : BitVec 16 := 0
  /-- The MID followed since the last enumeration (R742, 15). -/
  following : Option (BitVec 16) := none
  /-- TIM_RING_STAT [7:0] POS0 (R737, 15). -/
  pos0 : BitVec 8 := 0
  /-- TIM_RING_STAT [15:8] POS1 (R737, 15). -/
  pos1 : BitVec 8 := 0
  /-- TIM_RING_STAT [23:16] SIZE (R737, 15). -/
  size : BitVec 8 := 0
  /-- TIM_RING_STAT [24] WHOLE (R737, 15). -/
  whole : Bool := false
  /-- TIM_RING_STAT [25] ISOLATED (R738, 15). -/
  isolated : Bool := false
  /-- TIM_RING_STAT [26] SRCDIR (R736, 15). -/
  srcdir : Bool := false
  /-- TIM_RING_STAT [27] CONFLICT (R742, 15). -/
  conflict : Bool := false
  /-- TIM_RING_STAT [28] RXUP of SR_RX0 (R729, 15). -/
  rx0 : Bool := false
  /-- TIM_RING_STAT [29] RXUP of SR_RX1 (R729, 15). -/
  rx1 : Bool := false
  /-- Hop delays of the last 16 echoes of direction 0 (R734, 15). -/
  echo0 : List Int := []
  /-- Hop delays of the last 16 echoes of direction 1 (R734, 15). -/
  echo1 : List Int := []
  /-- TIM_RING_HOP, direction 0 (R734, 15). -/
  hop0 : Reg := 0
  /-- TIM_RING_HOP, direction 1 (R734, 15). -/
  hop1 : Reg := 0
  /-- Offsets of the last 16 beacons (R735, 15). -/
  offs : List Int := []
  /-- TIM_RING_OFF (R735, 15). -/
  off : Reg := 0
  /-- TIM_RING_LEAD (R739, 15). -/
  lead : Reg := 0
  /-- TIM_RING_ARG (R741, 15). -/
  arg : Reg := 0
  /-- TIM_RING_CNT [7:0] GEN (R737, 15). -/
  gen : BitVec 8 := 0
  /-- TIM_RING_CNT [15:8] CMD_DROP, saturating (R740, 15). -/
  cmdDrop : BitVec 8 := 0
  /-- TIM_RING_CNT [31:16] CRC, saturating (R732, 15). -/
  crc : BitVec 16 := 0
  /-- Frames with a CRC error in a row (R737, 15). -/
  crcRun : Nat := 0
  /-- SEQ of the next frame sent (R732, 15). -/
  seq : BitVec 8 := 0
  /-- TYPE and SEQ of the last frames that this device originated with a MID that is not its own. -/
  own : List (Nat × BitVec 8) := []
  /-- CMDSEQ of the next command issued (R739, 15). -/
  cmdSeq : BitVec 16 := 0
  /-- CMDSEQ of the last 16 commands (R741, 15). -/
  seen : List (BitVec 16) := []
  /-- An enumeration runs: positions of the ENUM_END frames by direction (R737, 15). -/
  enumerating : Option (Option Nat × Option Nat) := none
  /-- Commands held during an enumeration (R740, 15). -/
  held : List TimCmd := []
  /-- Tick of the last beacon by direction (R736, 15). -/
  beacon0 : Option (BitVec 64) := none
  /-- Tick of the last beacon of direction 1 (R736, 15). -/
  beacon1 : Option (BitVec 64) := none
  /-- Frames sent, with the direction of their link, oldest first: the model's own record. -/
  sent : List (Nat × BitVec 256) := []
deriving DecidableEq, Repr

/-- TIM block (15). -/
structure Tim where
  /-- The reference PLL was started by the boot sequence: the count runs (R699, 15). -/
  started : Bool := false
  /-- Coarse count (R698, 15). -/
  count : BitVec 64 := 0
  /-- Ticks since the start, which no adjustment moves: the model's own field for intervals. -/
  ticks : BitVec 64 := 0
  /-- TIM_REF_CTL: BW, HOLD_AVG, OVEN_IGN (R691 to R694, 15). -/
  refCtl : Reg := 0xC
  /-- TIM_REF_STAT [2:0] STATE (R691, 15). -/
  ref : RefState := .free
  /-- TIM_REF_STAT [3] REF100 (R689, 15). -/
  ref100 : Bool := false
  /-- TIM_REF_STAT [4] OVEN_READY, the pin's level (R692, 15). -/
  oven : Bool := false
  /-- TIM_REF_STAT [5] LOSS (R690, 15). -/
  loss : Bool := false
  /-- TIM_REF_STAT [6] RETURN (R691, 15). -/
  ret : Bool := false
  /-- TIM_REF_STAT [31:16] LOSSES, saturating (R690, 15). -/
  losses : BitVec 16 := 0
  /-- TIM_REF_PBO (R695, 15). -/
  pbo : Reg := 0
  /-- TIM_REF_PBO_SUM, saturating (R695, 15). -/
  pboSum : Reg := 0
  /-- TIM_NOW latch of the count (R844, 15). -/
  nowLatch : BitVec 64 := 0
  /-- TIM_TB_STAT [0] UNSET (R699, 15). -/
  unset : Bool := true
  /-- TIM_TB_STAT [2] LATE_STROBE (R728, 15). -/
  lateStrobe : Bool := false
  /-- TIM_TB_STAT [31:16] STEPS, saturating (R703, 15). -/
  steps : BitVec 16 := 0
  /-- TIM_ADJ_CTL: OP, GO, RATE (R700, 15). -/
  adjCtl : Reg := 0x3E80
  /-- TIM_ADJ_VAL (R700, 15). -/
  adjVal : BitVec 64 := 0
  /-- TIM_ADJ_REM: remaining slew in fine ticks (R701, 15). -/
  rem : Int := 0
  /-- Rate of the slew that runs, ppb (R701, 15). -/
  slewRate : Nat := 0
  /-- Part of a fine tick that the slew has moved, in units of 10⁻⁹ fine ticks of reference time (R701, 15). -/
  slewAcc : Nat := 0
  /-- TIM_PPS_CFG: MODE, PPS_WIN (R723, 15). -/
  ppsCfg : Reg := 0x190
  /-- TIM_PPS_STAT [0] MISSING (R724, 15). -/
  ppsMissing : Bool := false
  /-- TIM_PPS_STAT [31:16] MISSED, saturating (R724, 15). -/
  ppsMissed : BitVec 16 := 0
  /-- TIM_PPS_OFF (R723, 15). -/
  ppsOff : Reg := 0
  /-- TIM_PPS_SEC (R725, 15). -/
  ppsSec : Reg := 0
  /-- The last accepted edge, unless the next one is a first edge (R723, 15). -/
  ppsLast : Option Stamp := none
  /-- TIM_SYNC_CFG: SYNCPIN_EN, PIN_LEAD (R727, 15). -/
  syncCfg : Reg := 0x10000000
  /-- TIM_SYN 0: CS1, CD13 (R707, 15). -/
  cs1 : Syn := { target := 1800, current := 900, mv := 620 }
  /-- TIM_SYN 1: CS2, CD25 (R707, 15). -/
  cs2 : Syn := { target := 1500, current := 750 }
  /-- TIM_RAMP_CFG [6:0] RATE (R707, 15). -/
  rampCfg : Reg := 0x19
  /-- TIM_PLL_STAT [9:5] CORE: CS0 to CS3, PIX locked (R706, 15). -/
  coreLock : BitVec 5 := 0
  /-- TIM_PLL_STAT [11:10] CEL: Cellar PLLs locked (15). -/
  celLock : BitVec 2 := 0
  /-- TIM_TDC_CTL: AUTO, CAL, SAVE, CAL_PER (R714, R745, 15). -/
  tdcCtl : Reg := 0xA01
  /-- TIM_TDC_STAT [9] SAVE_ERR (R745, 15). -/
  saveErr : Bool := false
  /-- TIM_TDC_STAT [10] CAL_ERR (R713, 15). -/
  calErr : Bool := false
  /-- Valid tables F by line, 2 × input + B (R711, R744, 15). -/
  tables : Tbl (List (BitVec 9)) := []
  /-- Calibration temperatures by line, 0.125 °C (R744, 15). -/
  calTemps : Tbl (BitVec 16) := []
  /-- Stamp inputs 0 to 8 (R709, 15). -/
  inputs : Tbl TsIn := []
  /-- Statistics units 0 to 3 (R719, 15). -/
  stats : Tbl TimStat := []
  /-- Tick alarms 0 to 7 (R726, 15). -/
  alarms : Tbl TimAlarm := []
  /-- Strobes and commands that wait for their T (R727, R741, 15). -/
  atT : List TimCmd := []
  ring : Ring := {}
deriving DecidableEq, Repr

end Sys2Proof.Machine
end

