-- ==== Sys2Proof/Machine/StateSpu.lean ====
section
/-!
DEFINITION. State of the SPU array: one record per program copy (registers, queues, events, SETUP results, local
memory) and the SPA registers. The table of SPUs themselves stands in StateHost. Default values are the reset values.
-/
namespace Sys2Proof.Machine

/-- One lane of a q register (R533). -/
structure QLane where
  i : BitVec 48 := 0
  q : BitVec 48 := 0
  tag : BitVec 4 := 0
deriving DecidableEq, Repr

/-- An active block level: index of its first and last bundle (R543). -/
structure Level where
  first : Nat
  last : Nat
deriving DecidableEq, Repr

/-- The registers a bundle reads at issue and writes (R533, R535). Unlisted table entries are 0. -/
structure Regs where
  /-- s0 to s31. -/
  s : Tbl (BitVec 32) := []
  /-- a0 to a15. -/
  a : Tbl (BitVec 24) := []
  /-- m0 to m15. -/
  m : Tbl (BitVec 24) := []
  /-- c0 to c31, lane i of register r at 8r + i. -/
  c : Tbl Cell := []
  /-- q0 to q7, lane i of register r at 8r + i. -/
  q : Tbl QLane := []
  /-- p1 to p7; p0 reads 0xFF (R534). -/
  p : Tbl (BitVec 8) := []
  /-- lc0 to lc3. -/
  lc : Tbl (BitVec 24) := []
  /-- Active block levels, outermost first. -/
  levels : List Level := []
  /-- Index of the next bundle. -/
  pc : Nat := 0
  /-- FLAGS (R550). -/
  flags : BitVec 6 := 0
  /-- LWIN (R526). -/
  lwin : BitVec 10 := 0
  /-- CYC (R535). -/
  cyc : BitVec 64 := 0
  /-- TIME latch (R535). -/
  timeLatch : BitVec 72 := 0
  /-- CBBASE0 to CBBASE3 (R540). -/
  cbBase : Tbl (BitVec 24) := []
  /-- CBLEN0 to CBLEN3 (R540). -/
  cbLen : Tbl (BitVec 24) := []
  /-- QTSEL (R560). -/
  qtsel : BitVec 2 := 0
  /-- QTIME latch (R560). -/
  qtimeLatch : BitVec 72 := 0
  /-- EVT0 to EVT2 (R563). -/
  evt : BitVec 72 := 0
deriving DecidableEq, Repr

/-- A register named by a slot as its destination (R537). -/
inductive RName
  | s (n : Nat) | a (n : Nat) | m (n : Nat) | c (n : Nat) | q (n : Nat) | p (n : Nat)
deriving DecidableEq, Repr

/-- A cell in a queue with the time of its first sample and whether it ends a packet (R72, R560). -/
structure QCell where
  cell : Cell
  time : BitVec 72 := 0
  /-- Samples of its beat before it, on a raw stream (R260). -/
  idx : Nat := 0
  eop : Bool := false
deriving DecidableEq, Repr

/-- An input queue (R555, R556). -/
structure InQueue where
  bind : BitVec 32 := 0
  cells : List QCell := []
  drops : BitVec 16 := 0
  overrun : Bool := false
  /-- The next accepted cell carries GAP (R558, R71). -/
  gapNext : Bool := false
  /-- Complete packets noticed (R72). -/
  notices : Nat := 0
  /-- The cell written last did not end its packet; that packet was cut by a flush or reset and raises no notice (R72). -/
  mid : Bool := false
  cut : Bool := false
  /-- The flush status: cells that the last flush or reset discarded (R71). -/
  discarded : Nat := 0
deriving DecidableEq, Repr

/-- An output queue (R555, R561). -/
structure OutQueue where
  bind : BitVec 32 := 0
  cells : List QCell := []
  overrun : Bool := false
  /-- FENCEs that wait for cells of the queue to reach its stream: serial of the Crate, cells still ahead (R122). -/
  fences : List (Nat × Nat) := []
deriving DecidableEq, Repr

/-- An event subscription (R562). -/
structure EvEntry where
  sel : BitVec 13 := 0
  count : BitVec 8 := 0
  last : BitVec 72 := 0
deriving DecidableEq, Repr

/-- A SETUP of a program copy: issue index and result once decided (R570). -/
structure SetupRes where
  idx : Nat
  result : Option Status := none
deriving DecidableEq, Repr

/-- An effect of a slot that happens when its bundle commits. -/
inductive Staged
  | mtc (cr : Nat) (v : BitVec 32)
  | sigev (index : Nat)
  | waitev (entry : Nat)
  /-- SETW over the SETUPs issued before the given count. -/
  | setw (upto : Nat)
  | exit_
  | bkpt
deriving DecidableEq, Repr

/-- A bundle whose slots are being issued (R536, R537). -/
structure Issue where
  /-- Registers at issue. -/
  snap : Regs
  /-- Number of the last slot taken: 0 S, 1 A, 2 M, 3 L. -/
  slot : Nat
  written : List RName := []
  /-- FLAGS bits this bundle's operations set (R589). -/
  sets : BitVec 6 := 0
  staged : List Staged := []
  /-- Target of a taken transfer. -/
  target : Option Nat := none
  /-- A level opened by REP, with its counter. -/
  opened : Option (Level × BitVec 24) := none
  /-- Bundle after a skipped block (R596). -/
  skipTo : Option Nat := none
  isExit : Bool := false
  others : Bool := false
  /-- An operation could not proceed: the bundle does not issue (R571, R588). -/
  stalled : Bool := false
  /-- A waiting operation of R588 is among those that hold it back. -/
  waits : Bool := false
  /-- A slot breaks R583, R584 or R537. -/
  illegal : Bool := false
  /-- A transfer stands in the last bundle of an active block (R617). -/
  badTransfer : Bool := false
  /-- Cause and address of the first slot that faults. -/
  trap : Option (Nat × Nat) := none
deriving DecidableEq, Repr

/-- A preempted copy's place. -/
inductive Seat
  | onSpu (k : Nat)
  | saved (slots : List Nat)
deriving DecidableEq, Repr

/-- One running copy of a program (R533 to R580). -/
structure Inst where
  uid : Nat
  /-- Number within its RUN, 0 to NSPU − 1. -/
  num : Nat
  session : Nat
  /-- Handle of its program. -/
  prog : Nat
  seat : Seat
  startedAt : BitVec 64 := 0
  regs : Regs := {}
  /-- Local memory; a cell not listed reads zero with tag VALID (R525). -/
  loc : Tbl Cell := []
  /-- Bits of stored local memory words in error, by cell (R790, R791). -/
  locErr : Tbl (BitVec 48) := []
  iq : Tbl InQueue := []
  oq : Tbl OutQueue := []
  ev : Tbl EvEntry := []
  setups : List SetupRes := []
  nextSetup : Nat := 0
  issue : Option Issue := none
  waiting : Bool := false
  /-- Halted for debug (R581). -/
  halted : Bool := false
deriving DecidableEq, Repr

/-- SPA block (11). -/
structure Spa where
  /-- SPA_CTL [0] DBG_EN (R579, 11). -/
  dbgEn : Bool := false
  /-- SPA_FREQ: CS0, CD12 (R58, R707, 11). -/
  cs0 : Syn := { target := 1600, current := 800 }
  /-- SPA_FREQ [28] DEFERRED (R58, 11). -/
  deferred : Bool := false
  /-- SPA_ECC_CNT [15:0] CORRECTED, saturating (R797, 11). -/
  eccCorr : BitVec 16 := 0
  /-- SPA_ECC_CNT [31:16] UNCORRECTED, saturating (R797, 11). -/
  eccUncorr : BitVec 16 := 0
deriving DecidableEq, Repr

end Sys2Proof.Machine
end

