-- ==== Sys2Proof/Machine/StateMove.lean ====
section
/-!
DEFINITION. State of the movers, streams, compression engines and Barrels. Default values are the reset values.
-/
namespace Sys2Proof.Machine

/-- A rate in Hz as a fraction. -/
structure Rate where
  num : Nat := 0
  den : Nat := 1
deriving DecidableEq, Repr

/-- A chain queued on a mover (R631). -/
structure Activation where
  /-- The MOVE Crate, or none for MVGO. -/
  crate : Option Nat
  session : Nat
  /-- The program copy that issued the MVGO (R621). -/
  inst : Option Nat := none
  /-- Grants the RUN held at the MVGO (R621). -/
  grants : List (BitVec 64) := []
  /-- Address of the first descriptor, in host memory or Loft. -/
  first : Nat
  budget : Nat := 65536
  tmo : Nat := 1000
  /-- Class and deadline of an MVGO, those of its RUN (R615). -/
  cls : Nat := 7
  deadline : Nat := 0
deriving DecidableEq, Repr

/-- A running chain. -/
structure Chain where
  act : Activation
  /-- Descriptor that executes or is next. -/
  cur : Nat
  /-- Descriptors read. -/
  hops : Nat := 0
  completed : Nat := 0
  bytes : Nat := 0
  /-- Completion record cell, 0 for none (R624). -/
  cpl : Nat := 0
  stop : Bool := false
  /-- Stalled on a page-in, or on a copy that is away (R199, R622). -/
  stalled : Bool := false
  /-- Shelf indices that the stalled descriptor touches: they are pinned (R47). -/
  targets : List Nat := []
  /-- Status with which it ends; its completion awaits visibility (R641). -/
  fin : Option Status := none
  /-- Address, direction and space of the failure that ended it. -/
  failAddr : Nat := 0
  failWrite : Bool := false
  failSpace : Nat := 0
deriving DecidableEq, Repr

/-- The latch of R636. -/
structure MoverErr where
  status : Status
  dirWrite : Bool
  space : Nat
  addr : Nat
deriving DecidableEq, Repr

/-- One mover (R631, R636). -/
structure Mover where
  chain : Option Chain := none
  queue : List Activation := []
  /-- MOV_CH_ERR and MOV_CH_EADDR while VALID. -/
  err : Option MoverErr := none
  halted : Bool := false
  /-- MOV_CH_HOPS. -/
  hops : Reg := 0
  /-- Session served last, per class (R186, R191). -/
  lastServed : Tbl Nat := []
deriving DecidableEq, Repr

/-- One open stream (R642 to R654). -/
structure Stream where
  session : Nat
  /-- The SRC word. -/
  src : BitVec 64
  cmpe : BitVec 8
  /-- Declared rate in MB/s. -/
  rate : Nat
  rbase : BitVec 64
  rlog2 : Nat
  mover : Nat
  /-- Input queue of 16,384 cells (R645). -/
  queue : List QCell := []
  gapNext : Bool := false
  overrun : Bool := false
  /-- Free-running byte counts WRITE and READ (R647). -/
  write : BitVec 64 := 0
  read : BitVec 64 := 0
  /-- Cells lost since open (R647). -/
  lost : Nat := 0
  /-- Cells lost since the previous frame (R651). -/
  lostFrame : Nat := 0
  /-- A mover escalation makes the next frame set LOSS (R777). -/
  lossMark : Bool := false
  seq : BitVec 64 := 0
  bpos : BitVec 64 := 0
  wait : Bool := false
  badRead : Bool := false
  /-- FENCEs that wait for data of the stream (R654): serial of the Crate and cells or slots still to be written. -/
  fences : List (Nat × Nat) := []
  /-- STREAM close under way: serial of the Crate (R654). -/
  closing : Option Nat := none
  /-- The output queue (copy × 2 + queue) whose packet the stream is taking (R645). -/
  from_ : Option Nat := none
  /-- Converted bytes of the first queued cells that a block closed early already holds (R658). -/
  skip : Nat := 0
  /-- Shelf indices on which the stream holds a reference since its open (R163). -/
  shelves : List Nat := []
  /-- The failure that halted the stream (R162, R780). -/
  halt : Option Status := none
deriving DecidableEq, Repr

/-- One compression engine (R659). -/
structure CmpEng where
  /-- CMP_ENG_BLOCKS, saturating. -/
  blocks : Reg := 0
  /-- CMP_ENG_EARLY, saturating. -/
  early : Reg := 0
deriving DecidableEq, Repr

/-- MOV and CMP blocks (13). -/
structure Mov where
  /-- Movers 0 to 15 (R631, 13). -/
  movers : Tbl Mover := []
  /-- MOV_FAIL_CNT 0 LOOP, saturating (R634, 13). -/
  failLoop : Reg := 0
  /-- MOV_FAIL_CNT 1 TIMEOUT, saturating (R637, 13). -/
  failTimeout : Reg := 0
  /-- MOV_FAIL_CNT 2 BUS_ERROR, saturating (R637, 13). -/
  failBus : Reg := 0
  /-- MOV_FAIL_CNT 3 COMPARE_MISMATCH, saturating (R630, 13). -/
  failCompare : Reg := 0
  /-- MOV_STRM_SEL SID (R643, 13). -/
  strmSel : BitVec 16 := 0
  /-- Open streams by ID, at most 256 (R643, 13). -/
  streams : Tbl Stream := []
  /-- Next stream ID, 1 to 65,535 in turn (R644, 13). -/
  nextSid : Nat := 1
  /-- Compression engines 0 to 3 (R659, 13). -/
  engines : Tbl CmpEng := []
deriving DecidableEq, Repr

/-- Barrel states with their codes in order (R463). -/
inductive BarState | idle | arming | filling | ready | post | stopped
deriving DecidableEq, Repr

/-- A committed SRC record (R453). -/
structure BarSrc where
  port : Nat
  sel : Nat
  fmt : Nat
  segwrap : Bool
  early : Bool
  tmapBase : Nat
  tmap : Nat
  dirBase : Nat
deriving DecidableEq, Repr

/-- The parameters of an ARM (R462). -/
structure ArmParams where
  tsrc : Nat
  handle : Nat
  pre : Nat
  post : Nat
  nseg : Nat
deriving DecidableEq, Repr

/-- What an ARM changes as it is admitted, to be put back where it fails (R459). -/
structure BarSetup where
  st : BarState
  arm : Option ArmParams
  real : Bool
  fb : Rate
  unitsPerRegion : Nat
  segcap : Nat
  base : Nat
  lat : Nat
  caps : Reg
  pos : Nat
deriving DecidableEq, Repr

/-- A directory entry to be written (R470, R471): its Loft address, cells 0 to 6, IGN and FLAGS, the tag map entries before
its capture, and the time of position E. -/
structure BarEntry where
  addr : Nat
  data : List Nat
  ign : BitVec 16
  flags : BitVec 6
  tmapStart : Nat
  time : Stamp
deriving DecidableEq, Repr

/-- One Barrel (09). -/
structure Barrel where
  st : BarState := .idle
  /-- Owning session (R450). -/
  owner : Option Nat := none
  src : Option BarSrc := none
  /-- Parameters of the last OP 0 (R462). -/
  arm : Option ArmParams := none
  /-- Crate whose ARM is paging (R49). -/
  armUid : Option Nat := none
  /-- Its setting before that ARM (R459). -/
  before : Option BarSetup := none
  /-- Tick at which the ARM's status was decided (R461). -/
  armTick : BitVec 64 := 0
  /-- Base session address of the Shelves. -/
  base : Nat := 0
  /-- Next position to write. -/
  pos : Nat := 0
  /-- Stamp of the beat whose cell the writer took last, and the position of the beat's first sample; on a channeliser's
  stream the last cell's own (R464). -/
  anchor : Option (Int × Stamp) := none
  unitsPerRegion : Nat := 0
  segcap : Nat := 0
  /-- CAP_BAR_CAPS, saturating. -/
  caps : Reg := 0
  /-- CAP_BAR_IGN, saturating. -/
  ign : Reg := 0
  /-- CAP_BAR_LAT. -/
  lat : Nat := 0
  /-- Reservation in bytes/s as a fraction (R460). -/
  res : Rate := {}
  /-- CAP_BAR_ERR. -/
  err : BitVec 5 := 0
  /-- Number of the open capture. -/
  capture : Nat := 0
  /-- P0 of each region (R457). -/
  origins : Tbl Nat := []
  /-- First position of the open capture, and the earliest its region holds for it (R466). -/
  start : Nat := 0
  tpos : Nat := 0
  npre : Int := 0
  /-- End position E; −1 where a capture ends before position 0. -/
  lastPos : Int := 0
  trigTime : Stamp := 0
  capIgn : BitVec 16 := 0
  /-- PRE_SHORT, HELD, DISARMED, PORT_DOWN, LOSS, TMAP_WRAP (R470). -/
  flags : BitVec 6 := 0
  held : Option (Nat × Stamp) := none
  /-- Tag map entries written, modulo 2^36 (R472). -/
  tmapCount : Nat := 0
  /-- Entries written when the open capture began (R474). -/
  tmapStart : Nat := 0
  /-- The open run of a tag: first position, kind, length (R473). -/
  run : Option (Nat × Nat × Nat) := none
  /-- Directory entries that wait for the end of that run (R471), oldest first. -/
  entries : List BarEntry := []
  /-- Writer queue of 32,768 cells (R481). -/
  queue : List QCell := []
  /-- Samples lost to a full queue: how many queued cells precede them, and their number (R481); 0 is a break in time
  (R480). -/
  gaps : List (Nat × Nat) := []
  /-- The next cell carries GAP: the queue was flushed or reset (R71). -/
  gapNext : Bool := false
  /-- The stream delivered no cells since the last one (R480). -/
  paused : Bool := false
  /-- The latest break: the anchor before it, and the first position after it (R464). -/
  prior : Option (Int × Stamp × Nat) := none
  /-- Occurrences that wait for the first sample of the stream (R464). -/
  wait : List Stamp := []
  /-- Occurrences that belong to the next capture (R465). -/
  later : List (Nat × Stamp) := []
  /-- The stream holds two real samples a cell (R4), and its rate f_b. -/
  real : Bool := true
  fb : Rate := {}
  /-- The later half of a cell whose earlier half was the last sample of a capture: value and tag. -/
  pendHalf : Option (Int × BitVec 4) := none
deriving DecidableEq, Repr

end Sys2Proof.Machine
end

