-- ==== Sys2Proof/Machine/StatePort.lean ====
section
/-!
DEFINITION. State of the units on the sample path and of setup records: ingress ports with lane calibration.
Default values are the reset values.
-/
namespace Sys2Proof.Machine

/-! Setup records (R567, R854). -/

/-- A record in shadow storage. -/
structure Shadow where
  typ : Nat
  cells : List (BitVec 36)
  /-- The SETUP that sent it (program copy and issue index), or none for the register path. -/
  origin : Option (Nat × Nat) := none
  /-- Number of its GO on the register path (R854). -/
  go : Nat := 0
deriving DecidableEq, Repr

/-- The record interface of one unit: REC_CTL, REC_BUF, shadow storage and the committed records. -/
structure RecIf where
  /-- REC_CTL [3:0] TYPE. -/
  typ : Nat := 0
  /-- REC_CTL [14:8] LEN. -/
  len : Nat := 0
  /-- REC_CTL [23:20] RESULT. -/
  result : Nat := 0
  /-- GOs so far: RESULT shows the last one alone (R854). -/
  gos : Nat := 0
  /-- REC_BUF by cell. -/
  buf : Tbl (BitVec 36) := []
  /-- Records that wait for their boundary, oldest first. -/
  shadow : List Shadow := []
  /-- Cells of the committed record, by type × 256 + sub-index where a type has several. -/
  com : Tbl (List (BitVec 36)) := []
deriving DecidableEq, Repr

/-! Ingress. -/

/-- Port states with their codes in order (R261). -/
inductive PortState | idle | pllWait | laneSync | embAlign | sysrefWait | run | degraded | fault
deriving DecidableEq, Repr

/-- An octet position of an elastic buffer: an octet and whether its multiblock failed its CRC, or one that the full buffer
did not take (R217, R239, R240). -/
inductive LaneOctet
  | data (v : Byte) (crcBad : Bool)
  | lost
deriving DecidableEq, Repr

/-- One physical receive lane (R217, R267, R282). -/
structure Lane where
  /-- The elastic buffer, oldest octet first (R217). -/
  buf : List LaneOctet := []
  /-- Number of the next octet to arrive, counted per lane from the extended multiblock with number 0; none until the lane's
  first extended multiblock starts. -/
  idx : Option Nat := none
  /-- Invalid sync headers in the last 64 blocks, and CRC failures in the last 64 multiblocks, latest in bit 0 (R226). -/
  hdrs : BitVec 64 := 0
  crcs : BitVec 64 := 0
  /-- Multiblocks since the last one that failed its CRC (R224). -/
  crcGood : Nat := 0
  /-- ING_LANE_STAT CDR_LOCK. -/
  cdr : Bool := false
  /-- ING_LANE_STAT BLOCK_SYNC. -/
  bsync : Bool := false
  /-- ING_LANE_STAT EMB_LOCK. -/
  emb : Bool := false
  /-- ING_LANE_STAT ARRIVAL. -/
  arrival : BitVec 12 := 0
  /-- ING_CRC_CNT, saturating. -/
  crc : BitVec 32 := 0
  /-- Retired (R292). -/
  retired : Bool := false
  /-- Failed and not yet switched away (R228). -/
  failed : Bool := false
  /-- Applied trims (R268). -/
  trims : BitVec 64 := 0
  /-- Tick of the last change of the applied trims. -/
  trimTick : BitVec 64 := 0
  /-- ING_CAL_EYE EYE_W and EYE_H. -/
  eyeW : BitVec 8 := 0
  eyeH : BitVec 8 := 0
  /-- Tick at which the last scan ended, from which AGE follows. -/
  scanTick : Option (BitVec 64) := none
  /-- ING_CAL_LANE STATE: 0 idle, 1 acquiring, 2 tracking, 3 retuning, 4 frozen, 5 retired, 6 idle spare. -/
  cal : Nat := 0
  /-- ING_CAL_LANE ATTEMPTS. -/
  attempts : BitVec 2 := 0
  /-- Lane temperature at the last calibration. -/
  lastTemp : BitVec 12 := 0
  /-- Causes that make the lane due (R278): eye, FORCE, temperature, PERIOD. -/
  due : BitVec 4 := 0
  /-- Trims saved at step 1 of a swap (R280). -/
  pre : BitVec 64 := 0
  /-- Learned sets by band × 5 + anchor (R295). -/
  learned : Tbl (BitVec 64) := []
deriving DecidableEq, Repr

/-- A swap in progress (R280): logical lane, its physical lane, the spare, and the step reached. -/
structure Swap where
  j : Nat
  p : Nat
  s : Nat
  step : Nat
deriving DecidableEq, Repr

/-- A corrected-to-be sample: I and Q after gain and offset, with what is known of its raw sample. -/
structure Smp where
  i : Int := 0
  q : Int := 0
  gap : Bool := true
  exceeds : Bool := false
  sat : Bool := false
  /-- Stream index, which names the sub-converter. -/
  n : Nat := 0
  /-- SKEW, DGAIN and OR_EXT in force at the sample's beat (R247). -/
  skew : Int := 0
  dgain : Nat := 0x8000
  orExt : Nat := 0
deriving DecidableEq, Repr

/-- One ingress port with its lane calibration (04, 05). -/
structure Ing where
  /-- ING_CTL [0] EN (R261). -/
  en : Bool := false
  /-- ING_CTL [1] RELINK under way (R262). -/
  relink : Bool := false
  /-- ING_STAT STATE (R261). -/
  st : PortState := .idle
  /-- ING_STAT PLL_LOCK (R261). -/
  pllLock : Bool := false
  /-- ING_STAT SR_SEEN (R255). -/
  srSeen : Bool := false
  /-- ING_STAT SR_MARGIN (R253). -/
  srMargin : Bool := false
  /-- ING_STAT SR_SLIP (R256). -/
  srSlip : Bool := false
  /-- Physical lane of each logical lane, logical lane 0 first (R216). -/
  map : List Nat := []
  /-- ING_STAT SPARE_FOR (R227). -/
  spareFor : Option Nat := none
  /-- ING_STAT SPARE_PERM (R290). -/
  sparePerm : Bool := false
  /-- Fallen back to half the lanes (R232). -/
  fallen : Bool := false
  /-- A fallback's re-link runs: cells are GAP until its first release (R232). -/
  relinking : Bool := false
  /-- The first start after boot looked at the ADC record (R805). -/
  adcDone : Bool := false
  /-- The beat released last held GAP cells only, or none (R800). -/
  blind : Bool := true
  /-- ING_ERR bits 0 to 7 (R226). -/
  err : BitVec 8 := 0
  /-- ING_OVR_CNT, saturating (R237). -/
  ovr : BitVec 32 := 0
  /-- ING_GAP_CNT, saturating (R240). -/
  gap : BitVec 32 := 0
  /-- ING_TS_OFFSET in force (R260). -/
  tsOffset : BitVec 32 := 0
  /-- ING_TS_OFFSET as written, in force from the next beat (R263). -/
  tsNext : BitVec 32 := 0
  /-- ING_SPARE_STAT CODE (R220). -/
  code : BitVec 4 := 0xF
  /-- The last frame sent on the spare-select line, bit 0 first (R218). -/
  frame : BitVec 7 := 0x7F
  /-- ING_SPARE_STAT VERIFIED (R224). -/
  verified : Bool := false
  /-- ING_SPARE_STAT SWAPS, saturating (R280). -/
  swaps : BitVec 16 := 0
  /-- Physical lanes 0 to 8 (R216). -/
  lanes : Tbl Lane := []
  /-- Beat counter modulo P_SYNC (R255). -/
  beat : Nat := 0
  /-- Number of the extended multiblock that belongs to the LEMC at which the beat counter was last 0 (R255). -/
  emb0 : Nat := 0
  /-- Octets released so far of each logical lane, by the numbers of `Lane.idx` (R217, R255). -/
  out : Nat := 0
  /-- Words of released frames that no beat has taken yet, in stream order (R211). -/
  stream : List RawWord := []
  /-- Octet number from which the copy under verification has equalled its lane, the number from which it is verified, and
  whether an extended multiblock since then differed (R224). -/
  eqSince : Nat := 0
  verifyFrom : Nat := 0
  mirrorBad : Bool := false
  /-- Extended multiblock in which the lane failure that is being served was found (R230). -/
  failEmb : Nat := 0
  /-- Consecutive spare failures (R291). -/
  spareFails : Nat := 0
  /-- The spare was retired after three of them (R291). -/
  noSpare : Bool := false
  /-- Stream index of the next sample released (R242). -/
  n : Nat := 0
  /-- The four samples before the beat that waits for its neighbours (R242). -/
  before : List Smp := []
  /-- The beat released last, which waits for the next four samples, and its stamp. -/
  pend : List Smp := []
  pendStamp : Stamp := 0
  /-- Samples still tagged by OR_EXT (R238). -/
  ext : Nat := 0
  /-- Beats to emit as GAP after a realignment, and whether samples are lost in it, not repeated (R256). -/
  gapBeats : Nat := 0
  gapSkip : Bool := false
  /-- ING_CAL_CTL [0] EN (R275). -/
  calEn : Bool := true
  /-- ING_CAL_CTL PERIOD (R278). -/
  period : BitVec 8 := 20
  /-- ING_CAL_CTL TEMP_STEP (R278). -/
  tempStep : BitVec 8 := 16
  /-- ING_CAL_CTL FORCE_LANE (R279). -/
  forceLane : BitVec 4 := 0
  /-- A FORCE held pending, with its lane (R279). -/
  forcePend : Option Nat := none
  /-- ING_CAL_CTL [1] SAVE under way (R296). -/
  saving : Bool := false
  /-- ING_CAL_STAT SAVE_ERR (R296). -/
  saveErr : Bool := false
  /-- ING_CAL_STAT EYE_ALARM (R288). -/
  eyeAlarm : Bool := false
  /-- Trims frozen (R43). -/
  frozen : Bool := false
  /-- The swap in progress (R280). -/
  swap : Option Swap := none
  /-- ING_CAL_TEMP TEMP (R270). -/
  temp : BitVec 12 := 0
  /-- ING_CAL_EYE_CFG (R278). -/
  eyeCfg : BitVec 32 := 0x1C281420
  /-- ING_CAL_TMO RETRAIN_TMO (R274). -/
  tmo : BitVec 12 := 2000
  /-- ING_CAL_CNT CALS, saturating (R280). -/
  cals : BitVec 16 := 0
  /-- ING_CAL_CNT ABANDONS, saturating (R283). -/
  abandons : BitVec 8 := 0
  /-- ING_CAL_CNT DROPPED, saturating (R279). -/
  dropped : BitVec 8 := 0
deriving DecidableEq, Repr

/-! Channelisers. -/

/-- A complex sample inside a channeliser, with its tag. -/
structure CSmp where
  i : Int := 0
  q : Int := 0
  tag : BitVec 4 := 0
deriving DecidableEq, Repr

/-- A resampler (R308): acc, n, the index of the next input, and the last 16 inputs, latest first. -/
structure Resamp where
  acc : Nat := 0
  n : Nat := 0
  k : Nat := 0
  line : List CSmp := []
deriving DecidableEq, Repr

/-- One path of a channeliser: WB or an NB channel (R303 to R325). -/
structure ChnPath where
  /-- NCO phase (R303). -/
  phase : BitVec 48 := 0
  /-- Outputs still to be tagged SETTLING, fine and coarse (R324, R331). -/
  settle : Nat := 0
  cSettle : Nat := 0
  /-- The last mixer outputs, latest first (R330). -/
  hist : List CSmp := []
  /-- |sum|², Q and tag of the latest 8 instants, latest first. -/
  pows : List (Nat × Nat × BitVec 4) := []
  /-- CHN_COARSE LP and TAG, and the tick of the value. -/
  lp : BitVec 18 := 0
  lpTag : BitVec 4 := 0
  lpTick : Option (BitVec 64) := none
  rs : Resamp := {}
  /-- CIC integrators and comb delays, I and Q (R315). -/
  integ : List (BitVec 68 × BitVec 68) := List.replicate 5 (0, 0)
  comb : List (BitVec 68 × BitVec 68) := List.replicate 5 (0, 0)
  /-- Bank inputs since the last one tagged GAP, OVERRANGE and SETTLING (R321). -/
  gapAge : Nat := 8192
  overAge : Nat := 8192
  setAge : Nat := 8192
  /-- FIR delay line, latest first, and the index j of the next CIC output (R317). -/
  fir : List CSmp := []
  j : Nat := 0
  /-- A MARK waits for the next VALID output at or after an input sample, counted by `Chn.idx` (R322, R335, R18). -/
  mark : Option Nat := none
  /-- Cells of the packet under way (R302). -/
  pk : Nat := 0
deriving DecidableEq, Repr

/-- One channeliser (06). -/
structure Chn where
  /-- Count n of the WB grid (R307). -/
  n : Nat := 0
  /-- Count m of the bank, and whether it has started since its last reset (R313, R334). -/
  m : Nat := 0
  bankOn : Bool := false
  wb : ChnPath := {}
  /-- NB channels 0 to 63 (R312). -/
  ch : Tbl ChnPath := []
  /-- Half-band delay lines, stage 1 first, latest sample first (R306). -/
  stages : List (List CSmp) := List.replicate 8 []
  /-- The port has emitted since its last stop (R327). -/
  on : Bool := false
  /-- Port clocks since the last coarse round (R332). -/
  clocks : Nat := 0
  /-- SMODE in force (R333). -/
  smode : Nat := 0
  /-- Target of a strobe whose sync sample has not passed (R336). -/
  strobe : Option Stamp := none
  /-- The waiting strobe came under SMODE 1, which returns to 0 with it (R333). -/
  shot : Bool := false
  /-- Input samples since the port resumed. -/
  idx : Nat := 0
  /-- CHN_STAT ALIGNED (R335). -/
  aligned : Bool := false
  /-- CHN_STAT SHIFTED (R335). -/
  shifted : Bool := false
  /-- CHN_SYNC_STAT SYNCS, saturating (R334). -/
  syncs : BitVec 16 := 0
  /-- CHN_SYNC_STAT LASTPH (R334). -/
  lastPh : BitVec 8 := 0
  /-- CHN_SYNC_STAT DROPPED, saturating (R336). -/
  dropped : BitVec 8 := 0
  /-- CHN_SAT_CNT, saturating (R321). -/
  sat : BitVec 32 := 0
deriving DecidableEq, Repr

/-! Spectral engines (07). -/

/-- A stage word of the transform; `bad` once a saturation has touched it (R357). -/
structure Cx where
  re : Int := 0
  im : Int := 0
  bad : Bool := false
deriving DecidableEq, Repr

/-- An input sample of an engine with its time and the tick of its beat (R343, R363). -/
structure SpeSmp where
  x : CSmp
  time : Stamp
  tick : BitVec 64
deriving DecidableEq, Repr

/-- A window under way: index of its first sample, sequence number, whether its result is withheld (R365), and the
SCHED cell with which it started (R366). -/
structure SpeWin where
  start : Nat
  seq : BitVec 36
  discard : Bool
  sched : BitVec 36
deriving DecidableEq, Repr

/-- A window grid (R348): the samples it still needs and its windows in progress. -/
structure SpeGrid where
  /-- Cells 0 and 1 of the FRAME it runs under. -/
  frame : List (BitVec 36)
  real : Bool
  /-- User table in force, for WIN 7. -/
  table : List Nat := []
  /-- Index of the first sample of `buf`, and of the next sample. -/
  base : Nat := 0
  count : Nat := 0
  buf : List SpeSmp := []
  /-- Index at which the next window starts. -/
  next : Nat := 0
  /-- No window starts any more. -/
  closed : Bool := false
  wins : List SpeWin := []
deriving DecidableEq, Repr

/-- A complete window that awaits its spectrum. -/
structure SpeDone where
  frame : List (BitVec 36)
  real : Bool
  table : List Nat
  win : SpeWin
  smp : List SpeSmp
deriving DecidableEq, Repr

/-- A full-rate spectrum (R361). -/
structure Spectrum where
  seq : BitVec 36
  /-- Time of the first and of the last sample of the window. -/
  time : Stamp
  last : Stamp
  /-- GAP, OVERRANGE, SETTLING, MARK (R25). -/
  flags : BitVec 4
  lp : List Int
  y : List Cx
  /-- Narrowed stages A (R356). -/
  a : Nat
  /-- S_w of its window and g, from which P follows (R359). -/
  sw : Nat
  g : Nat
deriving DecidableEq, Repr

/-- The bucket of a stored spectrum (R370 to R374). -/
structure SpeBucket where
  n : Nat := 0
  incl : Nat := 0
  time : Stamp := 0
  seq : BitVec 36 := 0
  flags : BitVec 4 := 0
  exp : Nat := 0
  acc : List Int := []
  tags : List (BitVec 4) := []
  /-- ENBW_LP of the window at the bucket's start, for DET 0x5. -/
  enbw : Int := 0
  /-- Bins of the earliest included spectrum for DET 0x6. -/
  cells : List (BitVec 36) := []
deriving DecidableEq, Repr

/-- The integration of an engine (R375). -/
structure SpeInteg where
  n : Nat := 0
  incl : Nat := 0
  time : Stamp := 0
  seq : BitVec 36 := 0
  flags : BitVec 4 := 0
  xa : Nat := 0
  acc : List Nat := []
  tags : List (BitVec 4) := []
deriving DecidableEq, Repr

/-- One spectral engine (07). -/
structure Spe where
  /-- SPE_ERR (07). -/
  err : BitVec 6 := 0
  /-- Next sequence number (R362). -/
  seq : BitVec 36 := 0
  /-- SPE_SEQ: sequence number of the last spectrum emitted (R362). -/
  lastSeq : BitVec 36 := 0
  /-- SPE_SAT_CNT, saturating (R357). -/
  sat : BitVec 32 := 0
  /-- SPE_DISCARD_CNT, saturating (R365). -/
  discards : BitVec 32 := 0
  /-- SPE_DROP_CNT 0 and 1, saturating (R379). -/
  dropStore : BitVec 32 := 0
  dropInteg : BitVec 32 := 0
  /-- SPE_WIN_PTR INDEX (07). -/
  winPtr : BitVec 16 := 0
  /-- Shadow user table of SPE_WIN_DATA (R353). -/
  winShadow : Tbl (BitVec 18) := []
  /-- Committed user table e[0] to e[W/2] (R353). -/
  table : List Nat := []
  /-- NORM_LP and ENBW_LP (R354), of which SPE_NORM shows 18 and 12 bits. -/
  norm : Int := 0
  enbw : Int := 0
  /-- SPE_STAT ALIGNED and SHIFTED (R369). -/
  aligned : Bool := false
  shifted : Bool := false
  /-- SMODE in force (R369). -/
  smode : Nat := 0
  /-- Target of a strobe whose sync sample has not passed (R369), and whether SMODE returns to 0 with it. -/
  strobe : Option Stamp := none
  shot : Bool := false
  /-- The next sample carries GAP: the input queue was reset (R71). -/
  gapNext : Bool := false
  /-- The next grid's first window is withheld (R365, R367). -/
  discardNext : Bool := false
  /-- Grids with windows in progress, the current one last. -/
  grids : List SpeGrid := []
  /-- Complete windows whose spectra await their emission, oldest first. -/
  done : List SpeDone := []
  /-- The bucket of the STORE output, its average (R373), the session of a Cellar DEST and whether it stopped (R380). -/
  bucket : SpeBucket := {}
  avg : List Int := []
  storeOwner : Nat := 0
  storeStopped : Bool := false
  /-- The integration, with the same for the INTEG output. -/
  integ : SpeInteg := {}
  integOwner : Nat := 0
  integStopped : Bool := false
deriving DecidableEq, Repr

/-- A spectrum as complex bins, for the cross-spectrum unit (R358). -/
structure XSpec where
  seq : BitVec 36
  time : Stamp
  flags : BitVec 4
  exp : Nat
  bins : List (BitVec 36)
  bad : List Bool
deriving DecidableEq, Repr

/-- One pair of the cross-spectrum unit (R383 to R387). -/
structure XPair where
  /-- Spectra of the lower and the higher engine that await a partner, oldest first. -/
  lo : List XSpec := []
  hi : List XSpec := []
  /-- Matched and included products of the open group, their sums over 2^34, and the tags. -/
  n : Nat := 0
  incl : Nat := 0
  acc : List (Int × Int) := []
  tags : List (BitVec 4) := []
  flags : BitVec 4 := 0
  /-- XSP_PAIR_STAT UNPAIRED, saturating (R385). -/
  unpaired : BitVec 16 := 0
  owner : Nat := 0
  stopped : Bool := false
deriving DecidableEq, Repr

/-- The cross-spectrum unit (07). -/
structure Xsp where
  /-- XSP_ERR (07). -/
  err : BitVec 3 := 0
  /-- Pairs 0 to 5 (R383). -/
  pairs : Tbl XPair := []
deriving DecidableEq, Repr

/-! Trigger units (08). -/

/-- A result of a condition on its way to its decision sample (R397, R407). -/
structure TrgRes where
  cond : Nat
  /-- Reference time. -/
  time : Stamp
  level : Bool
  value : Bool
  late : Bool := false
deriving DecidableEq, Repr

/-- One condition (R404 to R423). -/
structure TrgCond where
  /-- Crossing states of THR and THR2: 0 unknown, 1 below, 2 above (R404). -/
  x1 : Nat := 0
  x2 : Nat := 0
  /-- Source sample at which a width or slew measurement opened (R413, R416). -/
  opened : Option Nat := none
  /-- A high and a low runt under way (R414). -/
  highRunt : Bool := false
  lowRunt : Bool := false
  /-- Source sample of the last crossing of THR, until the timeout fires (R415). -/
  crossed : Option Nat := none
  /-- Mask run: last sequence number, whether it violates, its length, and the qualified state (R410). -/
  runSeq : Option (BitVec 36) := none
  runIn : Bool := false
  run : Nat := 0
  qual : Option Bool := none
  /-- Last level sent towards the combiner. -/
  sent : Bool := false
  /-- Its level at the combiner (R407). -/
  value : Bool := false
  /-- Accepted level of its pin (R418). -/
  pin : Bool := false
  /-- TRG_COND_STAT FIRES, saturating (08). -/
  fires : BitVec 16 := 0
  /-- TRG_COND_MEAS W (08). -/
  meas : BitVec 32 := 0
  /-- Sequence number of the spectrum that made it true (R435). -/
  sseq : BitVec 36 := 0
deriving DecidableEq, Repr

/-- An envelope generator (R401 to R403): source samples seen, those since it was set up or its stream started, and
|x|² with tags of the latest 256 of the stream, latest first. -/
structure TrgEnv where
  n : Nat := 0
  since : Nat := 0
  last : Stamp := 0
  win : List (Nat × BitVec 4) := []
deriving DecidableEq, Repr

/-- A candidate that is pending or issued (R432 to R435). -/
structure TrgCand where
  /-- Its own timeline sample. -/
  n : Nat
  time : Stamp
  seq : Bool := false
  forced : Bool := false
  pended : Bool := false
  late : Bool := false
  aDelta : Nat := 0
  pDelta : Nat := 0
  cBits : BitVec 8 := 0
  tBits : BitVec 4 := 0
  ign : BitVec 36 := 0
deriving DecidableEq, Repr

/-- A hold-off that runs (R430): under which mode, its last sample, and the occurrences of its event. -/
structure TrgHold where
  mode : Nat
  last : Nat
  ev : BitVec 12
  count : Nat := 0
  need : Nat
  /-- The count has been reached: it ends before the next beat. -/
  exceeds : Bool := false
deriving DecidableEq, Repr

/-- One trigger unit (08). -/
structure Trg where
  /-- TRG_ERR (08). -/
  err : BitVec 6 := 0
  /-- TRG_CTL FORCE: a forced trigger waits for the next beat (R427). -/
  force : Bool := false
  /-- Timeline samples combined (R395). -/
  n : Nat := 0
  /-- Time of the last sample combined. -/
  lastTime : Option Stamp := none
  /-- Beats emitted and not yet combined, oldest first. -/
  beats : List (List QCell) := []
  /-- Samples of channeliser outputs that await the combiner, oldest first, by selector; none where the stream stops. -/
  feed : List (Nat × Option QCell) := []
  /-- Spectra that await the combiner, oldest first. -/
  specs : List Spectrum := []
  /-- Results whose decision sample is still to be combined. -/
  results : List TrgRes := []
  conds : Tbl TrgCond := []
  env0 : TrgEnv := {}
  env1 : TrgEnv := {}
  /-- Committed mask memory and the shadow of TRG_MASK_DATA (R408). -/
  mask : Tbl (BitVec 36) := []
  maskShadow : Tbl (BitVec 36) := []
  /-- TRG_MASK_PTR INDEX (08). -/
  maskPtr : BitVec 16 := 0
  /-- TRG_STAT COND and TRG_COND_STAT VALUE: condition values at the last sample combined (08). -/
  vals : BitVec 8 := 0
  /-- TRG_STAT TERMS at the last sample, and stage inputs (R424, R425). -/
  terms : BitVec 4 := 0
  stA : Bool := false
  stB : Bool := false
  /-- The next sample cannot produce a rise (R425). -/
  first : Bool := true
  /-- Sample of the rise of A that opened the window: WAIT_B (R426). -/
  window : Option Nat := none
  hold : Option TrgHold := none
  pend : Option TrgCand := none
  /-- NUM of the next trigger (R435). -/
  num : BitVec 36 := 0
  /-- Candidates dropped since the last trigger (R435). -/
  dropped : BitVec 36 := 0
  /-- Sequence number of the latest spectrum evaluated (R435). -/
  lastSeq : BitVec 36 := 0
  /-- TRG_CNT, saturating (08). -/
  cnt : BitVec 32 := 0
  /-- TRG_IGN_CNT 0 to 2, saturating (R426, R432). -/
  ign0 : BitVec 32 := 0
  ign1 : BitVec 32 := 0
  ign2 : BitVec 32 := 0
  /-- TRG_LOST_CNT 0 to 2, saturating (R399, R436, R439, R440). -/
  lost0 : BitVec 32 := 0
  lost1 : BitVec 32 := 0
  lost2 : BitVec 32 := 0
  /-- TRG_LAST_TS. -/
  lastTs : Stamp := 0
  /-- A TRGO pulse in progress: the tick at which it ends (R437, R440). -/
  pulse : Option (BitVec 64) := none
  /-- Starts that the output stage holds, earliest first (R439, R440). -/
  starts : List (BitVec 64) := []
deriving DecidableEq, Repr

/-- The shared instrument line (R419 to R421). -/
structure Instr_ where
  /-- TRG_INSTR_CFG: DRV_W, FILT, BLANK, COMPAT (08). -/
  cfg : BitVec 32 := 0x4002919A
  /-- DRV_W, BLANK and COMPAT as the latest pull took them (R28, 08). -/
  force : BitVec 32 := 0x4002919A
  /-- The line is taken as asserted. -/
  low : Bool := false
  /-- Levels last sampled at TRGI0 to TRGI2, which all units share (R418). -/
  pins : BitVec 3 := 0
  /-- Ends of the pulls of this device, in ticks, and when the device began to pull. -/
  pulls : List (BitVec 64) := []
  began : Option (BitVec 64) := none
deriving DecidableEq, Repr

/-! Density units and scan-out (10). -/

/-- A render in progress (R495 to R500): its record, the geometry it started with, its session, and the next column. -/
structure DenRender where
  cells : List (BitVec 36)
  cols : Nat
  rows : Nat
  session : Nat
  col : Nat := 0
deriving DecidableEq, Repr

/-- One density plane. -/
structure DenPlane where
  /-- Counters by column × 1,024 + row, 24 bits; not listed is 0 (R487). -/
  cnt : Tbl Nat := []
  /-- Counters held, for R38 (R489). -/
  used : Nat := 0
  /-- Spectra received since enable (R486). -/
  recv : Nat := 0
  /-- DEN_PLANE_ACC (10). -/
  acc : BitVec 32 := 0
  /-- DEN_PLANE_DECAY (10). -/
  decays : BitVec 32 := 0
  /-- Accepted spectra of the decay period, and the end of the period with DBASE 1 (R490). -/
  per : Nat := 0
  perEnd : Stamp := 0
  /-- The boundary at which the plane was enabled, from which periods with DBASE 1 count (R491). -/
  onAt : Stamp := 0
  /-- The render that runs, one held pending with its session, and RDROP, saturating (R500). -/
  run : Option DenRender := none
  pend : Option DenRender := none
  rdrop : BitVec 8 := 0
deriving DecidableEq, Repr

/-- One density unit. -/
structure Den where
  /-- DEN_ERR (10). -/
  err : BitVec 4 := 0
  /-- DEN_SAT_CNT, saturating (R488). -/
  sat : BitVec 32 := 0
  /-- Colour map of 1,024 entries (R500). -/
  cmap : Tbl (BitVec 30) := []
  /-- Planes 0 to 3 (R484). -/
  planes : Tbl DenPlane := []
  /-- Occupancy tally: spectra received and accepted, tallies, first time, last sequence number (R492, R493). -/
  oRecv : Nat := 0
  oN : Nat := 0
  oTally : List Nat := []
  oTime : Stamp := 0
  oSeq : BitVec 36 := 0
  /-- Session of a Cellar DEST, and whether the output stopped (R494, R380). -/
  oOwner : Nat := 0
  oStopped : Bool := false
deriving DecidableEq, Repr

/-- A layer of scan-out: the buffer in use and its session, and a record that waits for its latch line (R514 to R518). -/
structure ScoLayer where
  cur : Option (Nat × List (BitVec 36)) := none
  pend : Option (Nat × Shadow) := none
  /-- SCO_LAYER_STAT TARGET. -/
  target : BitVec 16 := 0
  /-- SCO_UNDER_CNT and SCO_DEFER_CNT, saturating (R513, R517). -/
  under : BitVec 32 := 0
  defers : BitVec 32 := 0
  /-- Lines of the frame with an underrun, and the pixel from which it holds (R513). -/
  lost : List (Nat × Nat) := []
deriving DecidableEq, Repr

/-- One DisplayPort output (R508 to R511). -/
structure ScoOut where
  /-- 0 OFF, 1 WAIT_HPD, 2 TRAINING, 3 ACTIVE, 4 FAILED. -/
  st : Nat := 0
  hpd : Bool := false
  /-- SCO_OUT_STAT PLUG, UNPLUG, IRQ_HPD, TRAIN_FAIL. -/
  seen : BitVec 4 := 0
  /-- SCO_AUX_CTL ADDR, CMD, LENM1. -/
  aux : BitVec 28 := 0
  /-- SCO_AUX_CTL RESULT and BUSY. -/
  result : BitVec 2 := 0
  busy : Bool := false
  /-- SCO_AUX_DATA, byte 0 lowest. -/
  data : BitVec 128 := 0
deriving DecidableEq, Repr

/-- Scan-out. -/
structure Sco where
  /-- SCO_CTL EN as written; it takes effect at the latch line (R520). -/
  en : Bool := false
  /-- SCO_STAT RUN. -/
  run : Bool := false
  /-- SCO_STAT FRAME: the frame of the last latch line, or 0 before the first. -/
  frame : BitVec 16 := 0
  /-- A latch line has passed since the start. -/
  latched : Bool := false
  /-- SCO_ERR (10). -/
  err : BitVec 4 := 0
  layers : Tbl ScoLayer := []
  outs : Tbl ScoOut := []
deriving DecidableEq, Repr

end Sys2Proof.Machine
end

