-- ==== Sys2Proof/Machine/StateCel.lean ====
section
/-!
DEFINITION. State of the Cellar controllers (14). Default values are the reset values.
-/
namespace Sys2Proof.Machine

/-- One bank of a pseudo-channel (R669, R673). -/
structure CelBank where
  /-- The open row. -/
  row : Option Nat := none
  /-- Counter C (R669). -/
  c : Nat := 1
  /-- Tick of the last column access (R669). -/
  last : BitVec 64 := 0
  /-- Refresh intervals postponed (R673). -/
  postponed : Nat := 0
deriving DecidableEq, Repr

/-- A request that a pseudo-channel holds. -/
structure CelEntry where
  req : CelReq
  /-- A Barrel write that found its reservation tokens (R665). -/
  tokens : Bool := false
  /-- Tick of the block at which it arrived: its age counts from there (R666). -/
  tick : BitVec 64
  /-- Number in order of arrival. -/
  n : Nat
deriving DecidableEq, Repr

/-- One pseudo-channel. -/
structure CelPc where
  /-- CEL_PC_STAT STATE 4: migrating out (R684, 14). -/
  migrating : Bool := false
  /-- CEL_PC_STAT STATE 5: retired (R680, 14). -/
  retired : Bool := false
  /-- CEL_PC_STAT [4:3] ATTEMPTS (R680, 14). -/
  attempts : Nat := 0
  /-- CEL_PC_STAT [9:5] REPAIRED (R677, 14). -/
  repaired : BitVec 5 := 0
  /-- CEL_PC_ERR [23:0] CORR, saturating (R687, 14). -/
  corr : BitVec 24 := 0
  /-- CEL_PC_ERR [31:24] UNCORR, saturating (R687, 14). -/
  uncorr : BitVec 8 := 0
  /-- Ticks of the corrected errors of the last hour (R688). -/
  ceTicks : List (BitVec 64) := []
  /-- Ticks of the uncorrected errors of the last hour (R688). -/
  ueTicks : List (BitVec 64) := []
  /-- Banks by number (R669). -/
  banks : Tbl CelBank := []
  /-- Reads that wait for the stack, in order of arrival (R667). -/
  reads : List CelEntry := []
  /-- Writes: the first 64 are the write queue, the others are not accepted yet (R670). -/
  writes : List CelEntry := []
  /-- Number of the next request (R671). -/
  nextReq : Nat := 0
deriving DecidableEq, Repr

/-- A migration (R682 to R686). -/
structure CelMig where
  /-- CEL_MIG [21:16] PC (R684, 14). -/
  pc : Nat
  /-- Slices to copy, and those copied: CEL_MIG [31:24] PROGRESS (R684, 14). -/
  total : Nat
  copied : Nat := 0
  /-- Donor Shelves that page-outs still have to free (R682). -/
  need : Nat
  /-- Donors that USABLE loses at the end (R686). -/
  donors : Nat
deriving DecidableEq, Repr

/-- CEL block (14). -/
structure Cel where
  /-- CEL_CFG [1:0] HEIGHT (R660, 14). -/
  height : BitVec 2 := 0
  /-- CEL_CFG [5:4] SPEED (R661, 14). -/
  speed : BitVec 2 := 0
  /-- CEL_CFG [9:8] MAX_SPEED (R661, 14). -/
  maxSpeed : BitVec 2 := 3
  /-- CEL_CFG [13:12] RET_RESV (R682, 14). -/
  retResv : BitVec 2 := 0
  /-- The host wrote MAX_SPEED: it replaces the BOOT value at a WARM reset (R822, 18). -/
  maxSpeedSet : Bool := false
  /-- The host wrote RET_RESV (R822, 18). -/
  retResvSet : Bool := false
  /-- CEL_CTL [0] SR_EN (R674, 14). -/
  srEn : Bool := true
  /-- CEL_CTL [1] AUTO_RETIRE (R688, 14). -/
  autoRetire : Bool := false
  /-- CEL_CTL [31] LOCK (R27, 14). -/
  lock : Bool := false
  /-- CEL_STAT [1:0] TRAINED (R677, 14). -/
  trained : BitVec 2 := 0
  /-- CEL_STAT [3:2] SELFREF (R675, 14). -/
  selfref : BitVec 2 := 0
  /-- CEL_ERR: SPEED_DROP, RETIRE, UNCORR, HOT, DONOR_LOSS (R687, 14). -/
  err : BitVec 5 := 0
  /-- CEL_SR_CFG [15:0] SR_IDLE (R674, 14). -/
  srIdle : BitVec 16 := 100
  /-- CEL_RT_CFG: RT_PERIOD, RT_TEMP (R679, 14). -/
  rtCfg : Reg := 0x532
  /-- CEL_MIG [6:0] MIG_BW (R684, 14). -/
  migBw : BitVec 7 := 16
  /-- CEL_CE_THR [15:0] (R688, 14). -/
  ceThr : BitVec 16 := 4096
  /-- CEL_ERR_ADDR (R687, 14). -/
  errAddr : BitVec 37 := 0
  /-- CEL_QOS [15:0] TARGET by port, where the host changed it (R666, 14). -/
  targets : Tbl (BitVec 16) := [(1, 2000), (2, 1000), (3, 4000), (4, 300), (5, 1000), (6, 20000)]
  /-- CEL_QOS [31:16] MAXAGE by port, saturating (R666, 14). -/
  maxAge : Tbl (BitVec 16) := []
  /-- Token buckets of the Barrels: the level in bytes, times the denominator of the Barrel's reservation, times 2,048,000,000,
  and the tick up to which it is filled (R665, 14). -/
  buckets : Tbl (Nat × BitVec 64) := []
  /-- Pseudo-channels 0 to 63 (R660, 14). -/
  pcs : Tbl CelPc := []
  /-- CEL_PC_STAT [23:16] TEMP by stack (R673, 14). -/
  temps : Tbl (BitVec 8) := []
  /-- Shelves at the top of the space given up or withheld at boot (R678, R682, 14). -/
  top : Nat := 0
  /-- Shelves withheld at boot that no retirement has taken yet (R682, 14). -/
  withheld : Nat := 0
  /-- Shelves of the pool that hold displaced slices (R682, 14). -/
  donors : List Nat := []
  /-- Donors of ended migrations: they no longer count in USABLE (R686, 14). -/
  donated : Nat := 0
  /-- The migration that runs (R684, 14). -/
  mig : Option CelMig := none
  /-- Retirements that wait, with whether their slices are copied (R688, 14). -/
  waiting : List (Nat × Bool) := []
  /-- Stacks whose CEL domain escalated (R779, 17). -/
  dead : BitVec 2 := 0
deriving DecidableEq, Repr

end Sys2Proof.Machine
end

