-- ==== Sys2Proof/Machine/StateMon.lean ====
section
/-!
DEFINITION. State of the monitors (16). Default values are the reset values.
-/
namespace Sys2Proof.Machine

/-- One window comparator (R748 to R759). -/
structure MonCmp where
  /-- Raw samples after blanking, newest first, at most FLEN of them (R750). -/
  hist : List (BitVec 4) := []
  /-- The last raw sample taken outside a blanking window (R749). -/
  raw : BitVec 4 := 0
  /-- Upper state: HIGH or LOW, none while UNSETTLED (R751, R752). -/
  upper : Option Bool := none
  /-- Lower state: LOW or NOTLOW, none while UNSETTLED (R751, R752). -/
  lower : Option Bool := none
  /-- Consecutive filter samples in Band of an UNSETTLED threshold (R753). -/
  bandU : Nat := 0
  bandL : Nat := 0
  /-- MON_CMP_STAT [4] OUT (R751, 16). -/
  out : Bool := false
  /-- MON_CMP_STAT [5] LATCH (R756, 16). -/
  latch : Bool := false
  /-- MON_CMP_STAT [6] CAP_VALID (R756, 16). -/
  capValid : Bool := false
  /-- MON_CMP_STAT [7] CAP_OVR (R756, 16). -/
  capOvr : Bool := false
  /-- MON_CMP_CAP (R756, 16). -/
  cap : Reg := 0
  /-- MON_CMP_EDGES, saturating (R756, 16). -/
  edges : Reg := 0
  /-- Offset trims of the four comparators (R772, 16). -/
  trims : BitVec 32 := 0
deriving DecidableEq, Repr

/-- States of a sequence with their codes in order (R765). -/
inductive SeqState | idle | delay | ready | running
deriving DecidableEq, Repr

/-- One sequence (R764 to R767). -/
structure MonSeq where
  /-- MON_SEQ_STAT [1:0] STATE (R765, 16). -/
  st : SeqState := .idle
  /-- CD30 clocks left of DELAY (R765). -/
  delay : Nat := 0
  /-- MON_SEQ_STAT [2] PENDING (R766, 16). -/
  pend : Bool := false
  /-- MON_SEQ_STAT [15:8] RUNS, wrapping (R766, 16). -/
  runs : BitVec 8 := 0
  /-- MON_SEQ_STAT [31:16] DROPPED, saturating (R766, 16). -/
  dropped : BitVec 16 := 0
  /-- Conversions done of the run (R764). -/
  pos : Nat := 0
deriving DecidableEq, Repr

/-- One accumulator (R769). -/
structure MonAcc where
  sum : Nat := 0
  cnt : Nat := 0
  /-- MON_ACC_SUM as shown, with MODE 1 (R769, 16). -/
  pubSum : Nat := 0
  /-- MON_ACC_COUNT as shown, with MODE 1 (R769, 16). -/
  pubCnt : Nat := 0
  /-- MON_ACC_SUM_HI latch (R844, 16). -/
  sumHi : BitVec 12 := 0
  /-- MON_ACC_COUNT latch (R844, 16). -/
  cntLatch : Reg := 0
  /-- MON_ACC_CTL [1] SAT (R769, 16). -/
  sat : Bool := false
deriving DecidableEq, Repr

/-- One tracker (R770). -/
structure MonTrk where
  /-- MON_TRK_VAL [11:0] MIN (R770, 16). -/
  lo : BitVec 12 := 0
  /-- MON_TRK_VAL [27:16] MAX (R770, 16). -/
  hi : BitVec 12 := 0
  /-- MON_TRK_CTL [1] VALID (R770, 16). -/
  valid : Bool := false
  /-- MON_TRK_CTL [2] LIMIT (R770, 16). -/
  limit : Bool := false
deriving DecidableEq, Repr

/-- Correction of one slice (R761). -/
structure MonSlice where
  off : BitVec 16 := 0
  gain : BitVec 16 := 0x8000
deriving DecidableEq, Repr

/-- MON block (16). -/
structure Mon where
  /-- Part of a CD30 clock that has passed, in 1/2048 clocks (R746). -/
  phase : Nat := 0
  /-- MON_CTL [0] CAL (R771, 16). -/
  cal : Bool := false
  /-- MON_CTL [1] CTRIM (R772, 16). -/
  ctrim : Bool := false
  /-- MON_CTL [2] SAVE (R773, 16). -/
  save : Bool := false
  /-- MON_STAT [1] CAL_ERR (R771, 16). -/
  calErr : Bool := false
  /-- MON_STAT [2] SAVE_ERR (R773, 16). -/
  saveErr : Bool := false
  /-- MON_INT_STAT: EDGE, RESOLVED, LIMIT, SAT, DROP (R756, 16). -/
  intStat : Reg := 0
  /-- MON_INT_EN (R754, 16). -/
  intEn : Reg := 0
  /-- MON_TMR_CNT by timer (R746, 16). -/
  timers : Tbl Nat := []
  /-- Restarts of timers by event REVID under way: the timer and the CD30 clocks to go (R746). -/
  restarts : List (Nat × Nat) := []
  /-- Comparators 0 to 7 (R748, 16). -/
  cmps : Tbl MonCmp := []
  /-- Sequences 0 to 3 (R764, 16). -/
  seqs : Tbl MonSeq := []
  /-- Accumulators 0 to 31 (R769, 16). -/
  accs : Tbl MonAcc := []
  /-- Trackers 0 to 31 (R770, 16). -/
  trks : Tbl MonTrk := []
  /-- MON_TEMP by input 16 to 23 (R763, 16). -/
  temps : Tbl (BitVec 12) := []
  /-- Slices 0 to 3 (R761, 16). -/
  slices : Tbl MonSlice := []
  /-- Die temperature at the last slice calibration (R773, 16). -/
  calTemp : BitVec 16 := 0
deriving DecidableEq, Repr

end Sys2Proof.Machine
end

