-- ==== Sys2Proof/Machine/StateSys.lean ====
section
/-!
DEFINITION. State of the Attic and of the housekeeping controller.
-/
namespace Sys2Proof.Machine

/-- Who wrote an Attic record: the unit whose request ends with it. -/
inductive AtticJob
  /-- SAVE of a port's lane calibration (R296). -/
  | calSave (port : Nat)
  /-- The RETIRED map of a port (R292). -/
  | retired (port : Nat)
  /-- SAVE of the TDC tables (R745). -/
  | tdcSave
  /-- SAVE of the slice or the trim record (R773). -/
  | monSave
  /-- SPUMAP or CELMAP (R806). -/
  | map
  /-- ERRLOG (R789). -/
  | errlog
  /-- Host OP 0: write a record (R804). -/
  | hostWrite
  /-- Host OP 1: invalidate a record (R804). -/
  | hostInvalidate
  /-- Host OP 2: write from a byte offset of the integrator area (R804). -/
  | hostArea (offset : Nat)
deriving DecidableEq, Repr

/-- ATC block (17). -/
structure Atc where
  /-- ATC_VALID: valid records by TYPE (R802, 17). -/
  valid : BitVec 16 := 0
  /-- Record writes under way, oldest first: what asked, TYPE and body (R803, 17). -/
  jobs : List (AtticJob × Nat × List Byte) := []
  /-- ATC_CTL [1:0] OP (R804, 17). -/
  op : BitVec 2 := 0
  /-- ATC_STAT [0] BUSY (R804, 17). -/
  busy : Bool := false
  /-- ATC_STAT [2:1] RESULT (R804, 17). -/
  result : BitVec 2 := 0
  /-- ATC_CTL [31] WLOCK and ATC_STAT [3] LOCKED (R804, 17). -/
  wlock : Bool := false
  /-- ATC_REC: TYPE, LEN (R804, 17). -/
  rec_ : Reg := 0
  /-- ATC_OFS [6:0] SECTOR (R804, 17). -/
  ofs : BitVec 7 := 0
  /-- Erasures by sector; ATC_WEAR shows the most (R804, 17). -/
  erases : Tbl Nat := []
  /-- ATC_PAGE [3:0] (17). -/
  page : BitVec 4 := 0
  /-- ATC_STAGE bytes (R804, 17). -/
  stage : Tbl Byte := []
deriving DecidableEq, Repr

/-- Commands of the SMBus (R829). -/
inductive SmbCmd | reset | standby | wake
deriving DecidableEq, Repr

/-- HKC block, the pins of reset and power, and what the boot sequence fixed (18). -/
structure Hkc where
  /-- HKC_MB_CMD [7:0] CMD (R826, 18). -/
  cmd : BitVec 8 := 0
  /-- HKC_MB_STAT [7:0] STATUS (R826, 18). -/
  status : BitVec 8 := 0
  /-- HKC_MB_STAT [8] BUSY (R826, 18). -/
  busy : Bool := false
  /-- HKC_MB_STAT [9] DONE (R826, 18). -/
  done : Bool := false
  /-- HKC_MB_STAT [31:16] IGNORED, saturating (R826, 18). -/
  ignored : BitVec 16 := 0
  /-- HKC_MB_ARG 0 to 7 (R826, 18). -/
  args : Tbl Reg := []
  /-- HKC_MB_RES 0 to 7 (R826, 18). -/
  res : Tbl Reg := []
  /-- HKC_BOOT_STAT [3:0] STAGE (R817, 18). -/
  stage : BitVec 4 := 0
  /-- HKC_BOOT_STAT [4] READY (R817, 18). -/
  ready : Bool := false
  /-- HKC_BOOT_STAT [7:5] CAUSE (R813, 18). -/
  cause : BitVec 3 := 0
  /-- HKC_BOOT_STAT [15:8] FAIL (R819, 18). -/
  fail : BitVec 8 := 0
  /-- HKC_BOOT_STAT [31:16] BOOT_MS (R817, 18). -/
  bootMs : BitVec 16 := 0
  /-- HKC_PWR_STAT [3:0] RAIL_OK (R808, 18). -/
  railOk : BitVec 4 := 0
  /-- HKC_PWR_STAT [4] THROTTLED (R831, 18). -/
  throttled : Bool := false
  /-- HKC_PWR_STAT [5] TRIPPED (R832, 18). -/
  tripped : Bool := false
  /-- HKC_PWR_STAT [6] STBY_REQ: STANDBY before its step 3 (R823, 18). -/
  stbyReq : Bool := false
  /-- The STANDBY in progress came from the mailbox (R829, 18). -/
  stbyMailbox : Bool := false
  /-- In standby, after step 3 of R823 (18). -/
  standby : Bool := false
  /-- HKC_PWR_STAT [10:8] WAKE (R825, 18). -/
  wake : BitVec 3 := 0
  /-- HKC_PWR_STAT [18:11] WAKE_CMP (R825, 18). -/
  wakeCmp : BitVec 8 := 0
  /-- HKC_EVT_STAT: DONE, MON, THROTTLE, RAIL (R828, 18). -/
  evtStat : BitVec 4 := 0
  /-- HKC_EVT_EN (R828, 18). -/
  evtEn : BitVec 4 := 0
  /-- Pin PWR_REQ (R823, 18). -/
  pwrReq : Bool := true
  /-- Pin THERMTRIP_N is low (R832, 18). -/
  thermtrip : Bool := false
  /-- The SMBus status byte of the last command (R829, 18). -/
  smbStatus : BitVec 8 := 0
  /-- SMBus commands that wait for the end of a mailbox command, in order of arrival (R829, 18). -/
  smbWait : List SmbCmd := []
  /-- The 7-bit SMBus address (R829, 18). -/
  smbAddr : BitVec 7 := 0x5A
  /-- Tick at which step 2 of R823 was done: the domains stop 1 ms later (18). -/
  stbyAt : Option (BitVec 64) := none
  /-- A mailbox CALIBRATE waits for the records it saves: the status so far (R827, 18). -/
  calWait : Option (BitVec 8) := none
  /-- A WARM reset waits for the Attic write in progress: its cause (R816, 18). -/
  resetWait : Option (BitVec 3) := none
  /-- A FUNCTION reset runs; the mailbox asked for it (R814, R827, 18). -/
  funcReset : Option Bool := none
  /-- A boot runs from its step 1 (R817, 18). -/
  booting : Bool := true
deriving DecidableEq, Repr

end Sys2Proof.Machine
end

