-- ==== Sys2Proof/Machine/StateDev.lean ====
section
/-!
DEFINITION. The device: every block's state, and the memories beside it.
-/
namespace Sys2Proof.Machine

/-- Everything but the memories and the queue of commands. -/
structure Dev where
  glb : Glb := {}
  rel : Rel := {}
  hlk : Hlk := {}
  stk : Stk := {}
  spa : Spa := {}
  /-- Running program copies by Crate serial × 64 + number. -/
  insts : Tbl Inst := []
  mov : Mov := {}
  /-- Barrels 0 to 15 (R463). -/
  barrels : Tbl Barrel := []
  tim : Tim := {}
  atc : Atc := {}
  cel : Cel := {}
  mon : Mon := {}
  hkc : Hkc := {}
  /-- Record interfaces by unit ID (R567, R854). -/
  units : Tbl RecIf := []
  /-- Ingress ports 0 to 3. -/
  ing : Tbl Ing := []
  /-- Channelisers 0 to 3. -/
  chn : Tbl Chn := []
  /-- Spectral engines 0 to 3. -/
  spe : Tbl Spe := []
  xsp : Xsp := {}
  /-- Trigger units 0 to 3. -/
  trg : Tbl Trg := []
  instr : Instr_ := {}
  /-- Density units 0 to 3. -/
  den : Tbl Den := []
  sco : Sco := {}
  /-- Occurrences raised and not yet delivered, oldest first. -/
  raised : List EventOcc := []
  /-- What the device has sent to the host, oldest first. -/
  host : List HostTxn := []
  /-- Readings taken of the free value (the model's own field). -/
  freeCtr : Nat := 0
deriving DecidableEq, Repr

/-- A word the patrol has read and corrected, and not yet written back (R792, R795): a Loft word, a local memory word of an
SPU, or a granule. -/
inductive ScrubHold
  | loft (addr : Nat) (word : BitVec 48)
  | loc (spu addr : Nat) (word : BitVec 48)
  | granule (g : Nat)
deriving DecidableEq, Repr

/-- The memories. -/
structure Mem where
  /-- Loft cells by physical cell address (R526). -/
  loft : Tbl Cell := []
  /-- Bits of stored Loft words in error, by physical cell address: a word is the cell's word of R790 with these bits
  inverted (R791). -/
  loftErr : Tbl (BitVec 48) := []
  /-- Cellar bytes by physical byte address. -/
  cellar : List Host.Cell := []
  /-- Symbols of stored granules in error, and what is added to each, by physical address / 64; bytes 64 to 71 are the
  check bytes (R793). -/
  celErr : Tbl (List (Nat × Nat)) := []
  /-- The corrected word or granule that the patrol has still to write back (R792, R795). -/
  scrub : Option ScrubHold := none
  /-- Poisoned 64-byte granules by physical address / 64 (R794). -/
  poison : List Nat := []
  /-- Host memory of the overflow pool, by host address (R167, R168). -/
  pool : List Host.Cell := []
  /-- Attic bytes (R801). -/
  attic : List Host.Cell := []
  /-- Ports whose factory trim record still stands in the Attic (R297). -/
  factory : BitVec 4 := 0xF
  /-- The boot key of the address hash (R664). -/
  key : BitVec 64 := 0
  /-- Shelves that became donors while allocated: their contents are lost (R683). -/
  lost : List Nat := []
  /-- Pseudo-channels retired without copies: their blocks read poisoned (R685). -/
  stuck : List Nat := []
  /-- Granules of such blocks rewritten whole since. -/
  healed : List Nat := []
deriving DecidableEq, Repr

end Sys2Proof.Machine
end

