-- ==== Sys2Proof/Machine/State.lean ====
section
/-!
DEFINITION. The state of the block, why a step can stop, and the state after reset.
-/
namespace Sys2Proof.Machine

/-- Everything the spec gives the device, the host's view of its writes, and the commands that wait. -/
structure State where
  mem : Mem := {}
  dev : Dev := {}
  /-- Commands waiting, first in first out. -/
  pending : List Instr := []
deriving DecidableEq, Repr

/-- Reasons for a fault. None: every command of the table has an effect, which may be none, in every state. -/
inductive Fault
deriving DecidableEq, Repr

/-- Reasons for a refusal. -/
inductive Refusal
  /-- Raised by `exec` alone, for a command that has no meaning yet; safe: the run stops. -/
  | notModelled (mnemonic : String)
deriving DecidableEq, Repr

/-- The machine right after reset. SPUs 64 to 67 are the spares of a die with 68 good SPUs. -/
def State.reset : State :=
  { dev := { stk := { spus := [(64, { spare := true }), (65, { spare := true }), (66, { spare := true }),
                               (67, { spare := true })] } } }

end Sys2Proof.Machine
end

