-- ==== Sys2Proof/Machine/Ops.lean ====
section
/-!
DEFINITION. Operations every block shares: memories, free values, MSI-X vectors, error records, events, and the frame
of a command's meaning.
-/
namespace Sys2Proof.Machine

/-- What a command's meaning answers. -/
abbrev Outcome := Host.Outcome State Fault Refusal

/-- Change the device and nothing else. -/
def State.onDev (s : State) (f : Dev → Dev) : State := { s with dev := f s.dev }

/-- Change the memories and nothing else. -/
def State.onMem (s : State) (f : Mem → Mem) : State := { s with mem := f s.mem }

/-- A command that acts on the device alone. -/
def devStep (s : State) (f : Dev → Dev) : Outcome := .next (s.onDev f)

/-- BAR0, BAR4, CXL.mem and the mailbox are served from boot step 9 on, and not while a FUNCTION reset runs (R817, R847):
before, a command of the host changes nothing. -/
def Dev.served (d : Dev) : Bool := d.hkc.ready

/-- GLB, REL, ATC and HKC stay served while a FUNCTION reset runs (R847). -/
def Dev.servedKept (d : Dev) : Bool := d.hkc.ready || d.hkc.funcReset.isSome

/-- A command of the host to a block that a FUNCTION reset resets. -/
def hostStep (s : State) (f : Dev → Dev) : Outcome := devStep s fun d => if d.served then f d else d

/-- A command of the host to GLB, REL, ATC or HKC. -/
def keptStep (s : State) (f : Dev → Dev) : Outcome := devStep s fun d => if d.servedKept then f d else d

/-- A write that would start work: ignored while a device fault holds (R847). -/
def startStep (s : State) (f : Dev → Dev) : Outcome := hostStep s fun d => if d.rel.devFault then d else f d

/-- A command of the host that changes memories too. -/
def hostState (s : State) (f : State → State) : Outcome := .next (if s.dev.served then f s else s)

/-- A write that would start work and changes memories too. -/
def startState (s : State) (f : State → State) : Outcome := hostState s fun s => if s.dev.rel.devFault then s else f s

/-! Free values. -/

/-- One reading of the free value. -/
def Dev.free (d : Dev) : BitVec 64 := Config.freeWord d.freeCtr

/-- Step past the reading. -/
def Dev.freed (d : Dev) : Dev := { d with freeCtr := d.freeCtr + 1 }

/-- One of the numbers the spec lets the device choose from; which one is a free value. -/
def Dev.pick (d : Dev) : List Nat → Option Nat
  | [] => none
  | [x] => some x
  | l => l[d.free.toNat % l.length]?

/-! Memories. -/

def Mem.loftGet (m : Mem) (a : Nat) : Cell := Tbl.get {} m.loft a

/-- R19: EMPTY and reserved tags become GAP; a store of a whole cell replaces its check bits (R790). -/
def Mem.loftPut (m : Mem) (a : Nat) (c : Cell) : Mem :=
  { m with loft := Tbl.put {} m.loft a c.stored, loftErr := Tbl.erase m.loftErr a }

/-- R2, R790: the 48 bits stored for a Loft cell. -/
def Mem.loftWord (m : Mem) (a : Nat) : BitVec 48 := cellWord (m.loftGet a) a ^^^ Tbl.get 0 m.loftErr a

/-- R791: a read of a Loft word. -/
def Mem.loftRead (m : Mem) (a : Nat) : WordRead :=
  if Tbl.get 0 m.loftErr a = 0 then .good (m.loftGet a) else readWord (m.loftWord a) a

/-- A read of the Loft word ends uncorrected. -/
def Mem.loftBad (m : Mem) (a : Nat) : Bool := (m.loftRead a).cell?.isNone

/-- Invert bits of a stored Loft word. A word that a read corrects is held as the cell it delivers, with the bits that
differ from that cell's word. -/
def Mem.loftFlip (m : Mem) (a : Nat) (flips : BitVec 48) : Mem :=
  if flips = 0 then m else
  let w := m.loftWord a ^^^ flips
  match (readWord w a).cell? with
  | some c => { m with loft := Tbl.put {} m.loft a c, loftErr := Tbl.put 0 m.loftErr a (w ^^^ cellWord c a) }
  | none => { m with loftErr := Tbl.put 0 m.loftErr a (Tbl.get 0 m.loftErr a ^^^ flips) }

def Mem.loftPutRun (m : Mem) (a : Nat) : List Cell → Mem
  | [] => m
  | c :: cs => (m.loftPut a c).loftPutRun (a + 1) cs

/-- Bytes of the Cellar at a physical address. -/
def Mem.cellarGet (m : Mem) (a n : Nat) : List Byte := Tbl.getRun 0 m.cellar a n

/-- R663: H(s, g). -/
def Mem.hash (m : Mem) (s g : Nat) : Nat :=
  let c := crc32c (leBytes 8 m.key.toNat ++ leBytes 4 s ++ leBytes 4 g)
  (c % 64) ^^^ (c / 2 ^ 6 % 64) ^^^ (c / 2 ^ 12 % 64) ^^^ (c / 2 ^ 18 % 64)

/-- R662: the pseudo-channel of a physical address. -/
def Mem.pcOf (m : Mem) (a : Nat) : Nat := (a / 256 % 64) ^^^ m.hash (a / 2 ^ 21) (a / 2 ^ 14 % 128)

/-- Granules of a range. -/
def granules (a n : Nat) : List Nat := (List.range ((a + n + 63) / 64 - a / 64)).map (a / 64 + ·)

/-- R683: whether a range touches a Shelf whose contents are lost. -/
def Mem.lostAt (m : Mem) (a n : Nat) : Bool := m.lost.any fun s => a < (s + 1) * 2097152 && s * 2097152 < a + n

/-- R793: add symbols to a stored granule. What a read delivers of a granule with up to 2 symbols in error is its data; an
error that the code takes for a smaller one changes the data. -/
def Mem.granuleHit (m : Mem) (g : Nat) (e : List (Nat × Nat)) : Mem :=
  let e := symAdd (Tbl.get [] m.celErr g) e
  match rsDecode e with
  | none => { m with celErr := Tbl.put [] m.celErr g e }
  | some c =>
    { m with
      cellar := (symAdd c e).foldl (fun t (i, v) =>
        if i < 64 then Tbl.put 0 t (g * 64 + i) (Tbl.get 0 t (g * 64 + i) ^^^ BitVec.ofNat 8 v) else t) m.cellar
      celErr := Tbl.put [] m.celErr g c }

/-- The 8 check bytes stored with a granule (R793). -/
def Mem.granuleCheck (m : Mem) (g : Nat) : List Byte :=
  ((rsCheck (m.cellarGet (g * 64) 64)).zipIdx).map fun (v, i) =>
    ((Tbl.get [] m.celErr g).filter fun p => p.1 == 64 + i).foldl (fun v p => v ^^^ BitVec.ofNat 8 p.2) v

/-- A granule whose symbols in error the code does not correct (R793). -/
def granuleBad (e : List (Nat × Nat)) : Bool := (rsDecode e).isNone

/-- Granules of a physical range with an error that a read corrects (R687). -/
def Mem.fixable (m : Mem) (a n : Nat) : List Nat :=
  (m.celErr.filter fun (g, e) => decide (a < (g + 1) * 64 ∧ g * 64 < a + n) && !granuleBad e && !m.poison.contains g).map (·.1)

/-- Whether a read of a physical range meets an uncorrected error: a poisoned granule (R794), one the code does not correct
(R793), a block lost with its pseudo-channel (R685), or a lost Shelf (R683). -/
def Mem.poisoned (m : Mem) (a n : Nat) : Bool :=
  (m.poison.any fun g => a < (g + 1) * 64 && g * 64 < a + n) || m.lostAt a n ||
    (m.celErr.any fun (g, e) => decide (a < (g + 1) * 64 ∧ g * 64 < a + n) && granuleBad e) ||
    (!m.stuck.isEmpty && (granules a n).any fun g => m.stuck.contains (m.pcOf (g * 64)) && !m.healed.contains g)

/-- A write of bytes. A write of a whole granule clears its poison and its errors; a partial write reads, merges and writes
the granule, so that it leaves poison and errors that are not corrected (R672, R794). It ends a patrol's right to write
the granule back (R795). Nothing is stored in a lost Shelf (R683). -/
def Mem.cellarPut (m : Mem) (a : Nat) (b : List Byte) : Mem :=
  if m.lostAt a b.length then m else
  let whole := fun g => decide (a ≤ g * 64 ∧ (g + 1) * 64 ≤ a + b.length)
  { m with
    cellar := Tbl.putRun 0 m.cellar a b
    poison := m.poison.filter fun g => !whole g
    celErr := m.celErr.filter fun (g, e) => !whole g && (granuleBad e || !(granules a b.length).contains g)
    scrub := match m.scrub with
      | some (.granule g) => if (granules a b.length).contains g then none else m.scrub
      | x => x
    healed := if m.stuck.isEmpty then m.healed else
      m.healed ++ (granules a b.length).filter fun g => whole g && m.stuck.contains (m.pcOf (g * 64)) && !m.healed.contains g }

/-! Local memory words (R525, R790). -/

def Inst.locWord (i : Inst) (a : Nat) : BitVec 48 := cellWord (Tbl.get {} i.loc a) a ^^^ Tbl.get 0 i.locErr a

/-- R791: a read of a local memory word. -/
def Inst.locRead (i : Inst) (a : Nat) : WordRead :=
  if Tbl.get 0 i.locErr a = 0 then .good (Tbl.get {} i.loc a) else readWord (i.locWord a) a

/-- Invert bits of a stored local memory word. -/
def Inst.locFlip (i : Inst) (a : Nat) (flips : BitVec 48) : Inst :=
  if flips = 0 then i else
  let w := i.locWord a ^^^ flips
  match (readWord w a).cell? with
  | some c => { i with loc := Tbl.set i.loc a c, locErr := Tbl.put 0 i.locErr a (w ^^^ cellWord c a) }
  | none => { i with locErr := Tbl.put 0 i.locErr a (Tbl.get 0 i.locErr a ^^^ flips) }

/-- SPA_ECC_CNT: one more corrected or uncorrected error of local memory. -/
def Dev.eccCount (d : Dev) (uncorrected : Bool) : Dev :=
  if uncorrected then { d with spa := { d.spa with eccUncorr := BitVec.ofNat 16 (satInc 16 d.spa.eccUncorr.toNat) } }
  else { d with spa := { d.spa with eccCorr := BitVec.ofNat 16 (satInc 16 d.spa.eccCorr.toNat) } }

/-! Time. -/

/-- The coarse count (R10). -/
def Dev.now (d : Dev) : BitVec 64 := d.tim.count

/-- The current stamp; its fine part reads 0. -/
def Dev.stamp (d : Dev) : Stamp := stampOf d.now

/-! MSI-X. -/

/-- Raise a vector: send its message, or keep it pending while the vector is masked (R852). -/
def Dev.vector (d : Dev) (v : Nat) : Dev :=
  if Tbl.get false d.hlk.unmasked v then { d with host := d.host ++ [.msix v] }
  else { d with hlk := { d.hlk with msiPending := Tbl.set d.hlk.msiPending v true } }

/-- Set a bit of HLK_ERR_STAT, which raises vector 3 (R851). -/
def Dev.hlkErr (d : Dev) (i : Nat) : Dev :=
  ({ d with hlk := { d.hlk with errStat := setBit d.hlk.errStat i true } }).vector 3

/-! Host memory. -/

/-- A run of host bytes cut at the ends of 64-byte lines; `fuel` bounds the lines. -/
def hostLines : Nat → Nat → List Byte → List (Nat × List Byte)
  | 0, _, _ => []
  | fuel + 1, a, b =>
    if b.isEmpty then [] else (a, b.take (64 - a % 64)) :: hostLines fuel (a + (64 - a % 64)) (b.drop (64 - a % 64))

/-- R86: a full line goes with ItoMWr, a part of a line as a CXL.io write with byte enables. -/
def hostLine (p : Nat × List Byte) : HostTxn :=
  if p.2.length = 64 then .itoMWr (BitVec.ofNat 64 p.1) p.2 else .write (BitVec.ofNat 64 p.1) p.2

/-- Write a run of bytes to the host. -/
def Dev.hostWrite (d : Dev) (a : Nat) (b : List Byte) : Dev :=
  { d with host := d.host ++ (hostLines (b.length / 64 + 2) a b).map hostLine }

/-! Error records. -/

/-- What a source reports (R785). -/
structure Report where
  code : Status
  /-- 0 NOTE, 1 CORRECTED, 2 DEGRADED, 3 UNCORRECTED. -/
  sev : Nat
  domain : BitVec 16
  src : BitVec 8
  cause : Nat := 0
  addr : Nat := 0
  session : Nat := 0
  detail : Nat := 0
  esc : Bool := false

/-- A domain ID (R777). -/
def domainId (kind inst : Nat) : BitVec 16 := BitVec.ofNat 16 (kind * 4096 + inst)

def domDevice : BitVec 16 := domainId 0 0
/-- The domain of a session; session 0 belongs to DEVICE (R777). -/
def domSession (n : Nat) : BitVec 16 := if n = 0 then domDevice else domainId 1 n
def domSpu (k : Nat) : BitVec 16 := domainId 2 k
def domPort (n : Nat) : BitVec 16 := domainId 3 n
def domXsp : BitVec 16 := domainId 4 0
def domCap : BitVec 16 := domainId 5 0
def domSco : BitVec 16 := domainId 6 0
def domMover (m : Nat) : BitVec 16 := domainId 7 m
def domCmp (e : Nat) : BitVec 16 := domainId 8 e
def domMon : BitVec 16 := domainId 9 0
def domCel (i : Nat) : BitVec 16 := domainId 10 i

/-- Source codes of blocks that are no units (R785). -/
def srcGlb : BitVec 8 := 0x80
def srcHlk : BitVec 8 := 0x81
def srcStk : BitVec 8 := 0x82
def srcRel : BitVec 8 := 0x83
def srcSpa : BitVec 8 := 0x84
def srcMov : BitVec 8 := 0x85
def srcCel : BitVec 8 := 0x86
def srcAtc : BitVec 8 := 0x87
def srcHkc : BitVec 8 := 0x88
def srcLoft : BitVec 8 := 0x89

/-- Write one record: SEQ, the queue or OVERFLOW (R786, R787), the domain's counters and OUTSTANDING (R781), the
vectors (R788) and the ERRLOG copy (R789). Escalation is decided by `Dev.report`. -/
def Dev.log (d : Dev) (r : Report) : Dev :=
  let rel := d.rel
  let full := rel.queue.length ≥ 64
  let rec_ : ErrRec :=
    { code := r.code.code, sev := BitVec.ofNat 2 r.sev, ovf := rel.dropped, esc := r.esc, domain := r.domain,
      src := r.src, cause := BitVec.ofNat 8 r.cause, seq := rel.seq, addr := BitVec.ofNat 64 r.addr,
      session := BitVec.ofNat 12 r.session, time := d.now, detail := BitVec.ofNat 32 r.detail }
  let dm := Tbl.get {} rel.domains r.domain.toNat
  let dm' : Domain :=
    if r.esc then dm
    else if r.sev = 3 then { dm with outstanding := true, uncorr := BitVec.ofNat 16 (satInc 16 dm.uncorr.toNat) }
    else if r.sev = 1 then { dm with corr := BitVec.ofNat 32 (satInc 32 dm.corr.toNat) }
    else dm
  let rel' : Rel :=
    { rel with
      queue := if full then rel.queue else rel.queue ++ [rec_]
      dropped := full
      overflow := if full then BitVec.ofNat 16 (satInc 16 rel.overflow.toNat) else rel.overflow
      seq := rel.seq + 1
      domains := if dm' = dm then rel.domains else Tbl.set rel.domains r.domain.toNat dm'
      ceSeen := rel.ceSeen || decide (r.sev < 2)
      errlogWait := if r.sev = 3 ∨ r.esc then rel.errlogWait ++ [rec_] else rel.errlogWait }
  let d' := { d with rel := rel' }
  if r.sev ≥ 2 then d'.vector 0 else d'

/-- R780, R791: a requester's read of a Loft word that is corrected: recorded in the session's domain and written back in
the same access (R792). -/
def State.loftMend (s : State) (a session addr : Nat) : State :=
  match s.mem.loftRead a with
  | .corrected _ =>
    (s.onMem fun m => { m with loftErr := Tbl.erase m.loftErr a }).onDev fun d =>
      d.log { code := .ok, sev := 1, domain := domSession session, src := srcLoft, addr, session }
  | _ => s

/-- A NOTE about a rejected setting: CODE is CFG_RANGE or CFG_LOCKED (R780). -/
def Dev.note (d : Dev) (code : Status) (domain : BitVec 16) (src : BitVec 8) (cause : Nat := 0) (detail : Nat := 0) : Dev :=
  d.log { code, sev := 0, domain, src, cause, detail }

/-- A DEGRADED record. -/
def Dev.degraded (d : Dev) (code : Status) (domain : BitVec 16) (src : BitVec 8) (cause : Nat := 0) (detail : Nat := 0) : Dev :=
  d.log { code, sev := 2, domain, src, cause, detail }

/-! Cells on their way through a queue. -/

/-- R20: a reserved tag counts as GAP. -/
def QCell.clean (c : QCell) : QCell := if tagReserved c.cell.tag then { c with cell := { c.cell with tag := tagGap } } else c

/-- R20, R780: cells with a reserved tag came to a block: a NOTE in its domain. -/
def Dev.noteTags (d : Dev) (cells : List QCell) (domain : BitVec 16) (src : BitVec 8) (session : Nat) : Dev :=
  if cells.any fun c => tagReserved c.cell.tag then d.log { code := .ok, sev := 0, domain, src, session } else d

/-- The domain in which a copy runs: its SPU's, or its session's while it is saved. -/
def Inst.domain (i : Inst) : BitVec 16 := match i.seat with | .onSpu k => domSpu k | .saved _ => domSession i.session

/-! Events. -/

/-- Whether an occurrence reaches a session (R858). -/
def EventOcc.reaches (e : EventOcc) (n : Nat) : Bool := e.reach.all (· == n)

/-- Raise an event: the occurrence awaits its delivery (R858). -/
def Dev.raise (d : Dev) (id : Nat) (time : Stamp) (reach : Option Nat := none) : Dev :=
  { d with raised := d.raised ++ [{ id := BitVec.ofNat 12 id, time, reach }] }

/-- The Attic takes one record write after the other (R803). -/
def Dev.atticPush (d : Dev) (job : AtticJob) (typ : Nat) (body : List Byte) : Dev :=
  { d with atc := { d.atc with jobs := d.atc.jobs ++ [(job, typ, body)] } }

/-! Sessions and SPUs. -/

def Dev.session (d : Dev) (n : Nat) : Session := Tbl.get {} d.hlk.sessions n

def Dev.onSession (d : Dev) (n : Nat) (f : Session → Session) : Dev :=
  { d with hlk := { d.hlk with sessions := Tbl.upd {} d.hlk.sessions n f } }

def Dev.spu (d : Dev) (k : Nat) : Spu := Tbl.get {} d.stk.spus k

def Dev.onSpu (d : Dev) (k : Nat) (f : Spu → Spu) : Dev :=
  { d with stk := { d.stk with spus := Tbl.upd {} d.stk.spus k f } }

def Dev.onLive (d : Dev) (uid : Nat) (f : Live → Live) : Dev :=
  { d with hlk := { d.hlk with live := mapIf (fun c => c.uid == uid) f d.hlk.live } }

def Dev.live? (d : Dev) (uid : Nat) : Option Live := d.hlk.live.find? fun c => c.uid == uid

/-- Write an Inst back. -/
def Dev.setInst (d : Dev) (key : Nat) (i : Inst) : Dev := { d with insts := Tbl.set d.insts key i }

end Sys2Proof.Machine
end

