-- ==== Sys2Proof/Machine/Crates.lean ====
section
/-!
DEFINITION. Crate fields (R114), the end of a Crate (R59, R125), references and reclaim (R163 to R166), and the SPUs
that program copies occupy (R190 to R208).
-/
namespace Sys2Proof.Machine

/-! Fields of a Crate. -/

/-- Bytes lo to lo+n-1 as a little-endian number. -/
def Live.num (c : Live) (lo n : Nat) : Nat := fld c.raw (8 * lo) (8 * n)

def Live.kind (c : Live) : Nat := c.num 0 1
def Live.tag (c : Live) : Nat := c.num 2 2
def Live.irq (c : Live) : Bool := bit c.raw 35
def Live.vec (c : Live) : Nat := fld c.raw 40 6
def Live.deadline (c : Live) : Nat := c.num 8 8
def Live.isRun (c : Live) : Bool := c.kind == 1
def Live.nspu (c : Live) : Nat := c.num 36 1
def Live.gang (c : Live) : Bool := bit c.raw (37 * 8)
def Live.decided (c : Live) : Bool := c.phase == Phase.decided
def Live.isReady (c : Live) : Bool := match c.phase with | .ready _ => true | _ => false
/-- The stage "RUN in the scheduler's queue". -/
def Live.isQueued (c : Live) : Bool := match c.phase with | .queued _ => true | _ => false

/-- A nonzero DEADLINE that has passed (R59). -/
def Live.missed (c : Live) (now : BitVec 64) : Bool := c.deadline != 0 && tickBefore (BitVec.ofNat 64 c.deadline) now

/-- Decide a Crate: status under R59 and R133, results, CTIME: the tick of the decision also for the slot of R857 (log
entry 86). RESULT1 of an ARM is its Barrel number (R125). -/
def Dev.finish (d : Dev) (uid : Nat) (st : Status) (r0 r1 : Nat := 0) : Dev :=
  d.onLive uid fun c =>
    if c.decided then c else
    let late := c.missed d.now
    { c with
      phase := .decided, late
      status := if late ∧ st = .ok then .deadlineMissed else st
      result0 := BitVec.ofNat 64 r0, result1 := BitVec.ofNat 32 (if c.kind = 4 then c.num 33 1 else r1), ctime := d.now }

/-! References. -/

/-- Add to the references of a session's handle: Shelves, Loft pages. -/
def Stk.refHandle (k : Stk) (session handle : Nat) (up : Bool) : Stk :=
  let f := fun n : Nat => if up then n + 1 else n - 1
  { k with
    shelves := mapIf (fun e => e.session == session && e.handle == handle) (fun e => { e with refs := f e.refs }) k.shelves
    loft := k.loft.map fun (a, g) => if g.session = session ∧ g.handle = handle then (a, { g with refs := f g.refs }) else (a, g) }

/-- Change Shelf entries; those whose PIN changes leave the translation cache (R159, R160). -/
def Stk.onEntries (k : Stk) (p : ShelfEntry → Bool) (f : ShelfEntry → ShelfEntry) : Stk :=
  let moved := k.shelves.filter fun e => p e && (e.pins == 0) != ((f e).pins == 0)
  { k with
    shelves := mapIf p f k.shelves
    tlb := if moved.isEmpty then k.tlb else k.tlb.filter fun q => !moved.any fun e => e.session == q.1 && e.idx == q.2 }

/-- Add to the pins of a session's handle (R47). -/
def Stk.pinHandle (k : Stk) (session handle : Nat) (up : Bool) : Stk :=
  k.onEntries (fun e => e.session == session && e.handle == handle) fun e => { e with pins := if up then e.pins + 1 else e.pins - 1 }

def Stk.refProgram (k : Stk) (session handle : Nat) (up : Bool) : Stk :=
  { k with
    programs := mapIf (fun p => p.session == session && p.handle == handle)
      (fun p => { p with refs := if up then p.refs + 1 else p.refs - 1 }) k.programs }

/-- A table of a session's map still leads to a mapped Shelf. -/
def TableFrame.needed (t : TableFrame) (l : List ShelfEntry) : Bool :=
  l.any fun e => e.session == t.session && (t.level == 1 || (t.level == 2 && e.idx / 2 ^ 18 == t.key) || (t.level == 3 && e.idx / 2 ^ 9 == t.key))

/-- R166: what is freed and unreferenced is unmapped and returned, its cached entries invalidated (R160), and tables that
map nothing give up their frames. A transfer of such a Shelf that is queued ends as one of a Shelf that is gone. -/
def Stk.reclaim (k : Stk) : Stk :=
  let keep := fun e : ShelfEntry => !(e.freed && e.refs == 0 && e.pins == 0)
  let shelves := k.shelves.filter keep
  let gone := fun (p : Nat × Nat) => k.shelves.any fun e => e.session == p.1 && e.idx == p.2 && !keep e
  { k with
    shelves
    tlb := k.tlb.filter fun p => !gone p
    tables := k.tables.filter fun t => t.needed shelves
    loft := k.loft.filter fun (_, g) => !(g.freed && g.refs == 0)
    programs := k.programs.filter fun p => !(p.freed && p.refs == 0) }

/-- Distinct ALLOC handles that a RUN's grants name (R164). -/
def grantHandles (grants : List (BitVec 64)) : List Nat :=
  dedup ((grants.filter fun g => fld g 60 4 = 1).map fun g => fld g 0 32)

/-- Take or release the references of a RUN (R163). -/
def Stk.refRun (k : Stk) (c : Live) (up : Bool) : Stk :=
  ((grantHandles c.grants).foldl (fun k h => k.refHandle c.session h up) k).refProgram c.session (c.num 32 4) up

/-- R157, R527: a Loft page a session owns. -/
def Dev.ownsPage (d : Dev) (session page : Nat) : Bool :=
  match Tbl.find? d.stk.loft page with
  | some g => g.session == session
  | none => false

/-! SPUs. -/

/-- SPUs not retired. -/
def Dev.goodSpus (d : Dev) : Nat := ((List.range 68).filter fun k => !(d.spu k).retired).length

/-- R205 text: the smaller of 64 and the number of good SPUs. -/
def Dev.schedulable (d : Dev) : Nat := min 64 d.goodSpus

/-- SPUs that can take a program copy now. -/
def Dev.freeSpus (d : Dev) : List Nat :=
  (List.range 68).filter fun k =>
    let u := d.spu k
    !u.retired && !u.spare && u.runs.isNone && u.moving == 0

/-- R189: gang Crates for which SPUs that become free are held. -/
def Dev.holders (d : Dev) : List Live := d.hlk.live.filter fun c => c.hold && c.started == 0 && !c.decided

/-- SPUs a Crate may take: those free and not held for a more urgent gang (R189). -/
def Dev.freeFor (d : Dev) (c : Live) : List Nat :=
  d.freeSpus.filter fun k =>
    !d.holders.any fun g => (d.spu k).heldFor.contains g.uid && g.uid != c.uid && decide (g.cls < c.cls)

/-- Load count: bundles issued during the last 1 ms, 2,048,000 ticks (R190). -/
def Dev.load (d : Dev) (k : Nat) : Nat :=
  ((d.spu k).issues.filter fun t => (d.tim.ticks - t).toNat < 2048000).length

/-- R190: among the SPUs a Crate may take, the one with the lowest load, ties to the lowest index. -/
def Dev.bestSpu (d : Dev) (c : Live) : Option Nat := bestBy (fun a b => d.load a < d.load b) (d.freeFor c)

/-- SPUs on which a session's copies run. -/
def Dev.sessionSpus (d : Dev) (n : Nat) : Nat :=
  (d.insts.filter fun (_, i) => i.session == n && (match i.seat with | .onSpu _ => true | .saved _ => false)).length

/-- Room under the SPU quota; session 0 has none (R202). -/
def Dev.spuRoom (d : Dev) (n : Nat) : Nat := if n = 0 then 68 else (d.session n).qSpus - d.sessionSpus n

/-- R208: waiting RUN Crates that ask for more SPUs than there are fail. -/
def Dev.failOversize (d : Dev) : Dev :=
  (d.hlk.live.filter fun c => c.admitted && c.isRun && c.started == 0 && !c.decided && decide (c.nspu > d.schedulable)).foldl
    (fun d c => d.finish c.uid .cfgRange) d

/-- R806: the body of SPUMAP, or of CELMAP's first bytes: bit k marks instance k. -/
def mapBytes (n : Nat) (p : Nat → Bool) : List Byte :=
  (List.range n).map fun i => BitVec.ofNat 8 ((List.range 8).foldl (fun v j => if p (8 * i + j) then v + 2 ^ j else v) 0)

/-- R806: the HKC rewrites SPUMAP at each retirement. -/
def Dev.spuMap (d : Dev) : Dev :=
  d.atticPush .map 13 (mapBytes 12 fun k => decide (k < 68) && (d.spu k).retired)

/-- R205: an SPU retires; the lowest spare joins the schedulable set in the same step. -/
def Dev.retireSpu (d : Dev) (k : Nat) : Dev :=
  let u := d.spu k
  if u.retired then d else
  let d1 := (d.onSpu k fun u => { u with retired := true, spare := false, runs := none, moving := 0, retireWait := false }).spuMap
  let d2 := if u.spare then d1 else
    match (List.range 68).find? fun j => (d1.spu j).spare && !(d1.spu j).retired with
    | some j => d1.onSpu j fun u => { u with spare := false, heldFor := d1.holders.map (·.uid) }
    | none => d1
  d2.failOversize

/-- Free an SPU; a retirement that waited for it happens now (R206). -/
def Dev.vacate (d : Dev) (k : Nat) : Dev :=
  let wait := (d.spu k).retireWait
  let d := d.onSpu k fun u => { u with runs := none, moving := 0, heldFor := d.holders.map (·.uid) }
  if wait then d.retireSpu k else d

/-! Context store (R194). -/

/-- Slots of 1,024 cells: sixteen a page. -/
def Dev.ctxCapacity (d : Dev) : Nat := fld d.stk.poolCfg 16 10 * 16

def Dev.ctxUsed (d : Dev) : List Nat :=
  (d.insts.map fun (_, i) => match i.seat with | .saved sl => sl | .onSpu _ => []).flatten

def Dev.program? (d : Dev) (session handle : Nat) : Option Program :=
  d.stk.programs.find? fun p => p.session == session && p.handle == handle

/-- Slots a copy's context needs: one for the registers plus ceil(LIVE / 1,024). -/
def Dev.ctxNeed (d : Dev) (i : Inst) : Nat :=
  1 + cdiv ((d.program? i.session i.prog).elim 0 (·.liveCells)) 1024

/-- Save one copy off its SPU, if the context store has room (R195). -/
def Dev.saveInst (d : Dev) (key : Nat) : Option Dev :=
  match Tbl.find? d.insts key with
  | none => none
  | some i =>
    match i.seat with
    | .saved _ => none
    | .onSpu k =>
      let used := d.ctxUsed
      let need := d.ctxNeed i
      let slots := lowestFree used d.ctxCapacity (used.length + need) 0 need
      if slots.length < need then none
      else
        let i' := { i with seat := .saved slots, issue := none, regs := i.issue.elim i.regs (·.snap) }
        some ((d.setInst key i').vacate k)

/-- Save several copies, all or none. -/
def Dev.saveAll (d : Dev) (keys : List Nat) : Option Dev := keys.foldlM (fun d k => d.saveInst k) d

/-- Copies of one Crate that sit on SPUs. -/
def Dev.seated (d : Dev) (uid : Nat) : List Nat :=
  (d.insts.filter fun (_, i) => i.uid == uid && (match i.seat with | .onSpu _ => true | _ => false)).map (·.1)

/-- The copies that leave with one copy: all of a gang, else that copy (R193). -/
def Dev.group (d : Dev) (key : Nat) : List Nat :=
  match Tbl.find? d.insts key with
  | none => []
  | some i => if (d.live? i.uid).any Live.gang then d.seated i.uid else [key]

/-- A copy halted for debug is not preempted (R581). -/
def Dev.anyHalted (d : Dev) (keys : List Nat) : Bool :=
  keys.any fun k => (Tbl.find? d.insts k).any (·.halted)

/-- Put a saved copy on an SPU. -/
def Dev.seatOn (d : Dev) (key k : Nat) : Dev :=
  match Tbl.find? d.insts key with
  | none => d
  | some i => (d.setInst key { i with seat := .onSpu k }).onSpu k fun u => { u with runs := some key, heldFor := [] }

/-- STK_PREEMPT_CNT. -/
def Dev.countPreempt (d : Dev) (n : Nat) : Dev :=
  { d with stk := { d.stk with preempts := BitVec.ofNat 16 (satInc 16 d.stk.preempts.toNat n) } }

def Dev.countNoSlot (d : Dev) : Dev :=
  { d with stk := { d.stk with noSlot := BitVec.ofNat 16 (satInc 16 d.stk.noSlot.toNat) } }

/-- R206: preempt the copies that leave with an SPU's copy, resume them on other free SPUs if there are enough, and retire
the SPU; none where the context store lacks the slots. -/
def Dev.evict (d : Dev) (k key : Nat) : Option Dev :=
  let keys := d.group key
  (({ d with stk := (d.onSpu k fun u => { u with retireWait := false }).stk } : Dev).saveAll keys).map fun d =>
    let d := d.countPreempt keys.length
    let others := fun d : Dev => match (Tbl.find? d.insts key).bind fun i => d.live? i.uid with
      | some c => (d.freeFor c).filter (· != k)
      | none => []
    let d := if (others d).length < keys.length then d else
      keys.foldl (fun d key => match bestBy (fun a b => d.load a < d.load b) (others d) with
        | some j => d.seatOn key j
        | none => d) d
    d.retireSpu k

/-- R206: retirements that wait go ahead once the context store has room. -/
def Dev.pokeRetire (d : Dev) : Dev :=
  (List.range 68).foldl (fun d k =>
    match (d.spu k).retireWait, (d.spu k).runs with
    | true, some key => if d.anyHalted (d.group key) then d else (d.evict k key).getD d
    | _, _ => d) d

/-- End one program copy: its registers, queues and local memory are gone (R577, R525). -/
def Dev.dropInst (d : Dev) (key : Nat) : Dev :=
  match Tbl.find? d.insts key with
  | none => d
  | some i =>
    let d := { d with insts := Tbl.erase d.insts key }
    match i.seat with
    | .onSpu k => (d.vacate k).pokeRetire
    | .saved _ => d.pokeRetire

/-- End every copy of a Crate (R573, R101). -/
def Dev.dropRun (d : Dev) (uid : Nat) : Dev :=
  ((d.insts.filter fun (_, i) => i.uid == uid).map (·.1)).foldl Dev.dropInst d

/-- R196: a saved copy resumes on an SPU. -/
def Dev.seatInst (d : Dev) (key k : Nat) : Dev := if (Tbl.find? d.insts key).isNone then d else (d.seatOn key k).pokeRetire

end Sys2Proof.Machine
end

