-- ==== Sys2Proof/Machine/Paging.lean ====
section
/-!
DEFINITION. Session translation and the pools: which physical Shelves and table frames are free, which Shelves can be
paged out, the queue of Shelf transfers, and when a Crate may start (R144 to R191).
-/
namespace Sys2Proof.Machine

/-- 2 MiB. -/
def shelfBytes : Nat := 2097152

/-! Pools (R144, R145). -/

def Dev.ttShelves (d : Dev) : Nat := fld d.stk.ttCfg 0 16
/-- Shelves fitted, 512 a GiB (R661). -/
def Dev.fittedShelves (d : Dev) : Nat := d.glb.cellarGib.toNat * 512
def Dev.progPages (d : Dev) : Nat := fld d.stk.poolCfg 0 10
def Dev.ctxPages (d : Dev) : Nat := fld d.stk.poolCfg 16 10

/-- The first Shelf above the allocatable pool: the CXL.mem reserve and the Shelves given up or withheld at boot lie
above it. -/
def Dev.poolTop (d : Dev) : Nat := d.fittedShelves - d.cel.top - d.hlk.hdmGib * 512

/-- Physical Shelves that hold mapped data. -/
def Stk.resident (k : Stk) : List Nat := k.shelves.filterMap fun e => match e.place with | .resident p => some p | .paged _ => none

/-- Physical Shelves in use, reserved to a waiting ALLOC (R865), filled by a page-in, or taken as donors (R682). -/
def Dev.usedShelves (d : Dev) : List Nat :=
  let r := d.stk.resident
  r ++ d.stk.allocWait.elim [] (·.reserved) ++ ((d.stk.xfers.filter fun x => x.inward && x.started).map (·.shelf)) ++
    d.cel.donors.filter fun p => !r.contains p

/-- STK_SHELF_STAT.USABLE: it loses the donors of a retirement when its migration ends (R686). -/
def Dev.usableShelves (d : Dev) : Nat := d.poolTop - d.ttShelves - d.cel.donated
def Dev.freeShelves (d : Dev) : Nat := d.poolTop - d.ttShelves - d.usedShelves.length

/-- R153 text: the n lowest free physical Shelves. -/
def Dev.takeShelves (d : Dev) (n : Nat) : List Nat :=
  lowestFree d.usedShelves d.poolTop (d.usedShelves.length + n) d.ttShelves n

/-- Table frames the mapped indices need: one level-1, and the level-2 and level-3 tables they reach (R158). A
session that maps nothing holds none (log entry 91). -/
def framesOf (idxs : List Nat) : Nat :=
  if idxs.isEmpty then 0
  else 1 + (dedup (idxs.map (· / 2 ^ 18))).length + (dedup (idxs.map (· / 2 ^ 9))).length

def Stk.mapped (k : Stk) (session : Nat) : List Nat := (k.shelves.filter fun e => e.session == session).map (·.idx)

/-- Frames in use over all sessions. -/
def Dev.framesUsed (d : Dev) : Nat :=
  ((dedup (d.stk.shelves.map (·.session))).map fun n => framesOf (d.stk.mapped n)).foldl (· + ·) 0

/-- A 2 MiB Shelf holds 512 frames. -/
def Dev.framesMax (d : Dev) : Nat := d.ttShelves * 512

/-! Translation (R158, R162). -/

def Stk.entry? (k : Stk) (session idx : Nat) : Option ShelfEntry :=
  k.shelves.find? fun e => e.session == session && e.idx == idx

/-- What a session byte address names. -/
inductive Trans
  | unmapped
  | paged
  | phys (a : Nat)
deriving DecidableEq, Repr

def Stk.translate (k : Stk) (session addr : Nat) : Trans :=
  match k.entry? session (addr / shelfBytes) with
  | none => .unmapped
  | some e => match e.place with
    | .resident p => .phys (p * shelfBytes + addr % shelfBytes)
    | .paged _ => .paged

/-- An access marks the Shelf and passes the translation cache of 4,096 entries; a miss counts, and caches the entry if
there is one. Which entry a full cache gives up is a free value (R160, R161). -/
def Dev.touch (d : Dev) (session idx : Nat) : Dev :=
  let k := d.stk
  if k.tlb.contains (session, idx) then d
  else
    let k := { k with tlbMisses := BitVec.ofNat 32 (satInc 32 k.tlbMisses.toNat) }
    if (k.entry? session idx).isNone then { d with stk := k } else
    let k := { k with shelves := mapIf (fun e => e.session == session && e.idx == idx) (fun e => { e with acc := true }) k.shelves }
    let full := k.tlb.length ≥ 4096
    let tlb := if full then k.tlb.eraseIdx (d.free.toNat % 4096) else k.tlb
    let d' := { d with stk := { k with tlb := tlb ++ [(session, idx)] } }
    if full then d'.freed else d'

/-- Shelf indices of a run of session bytes. -/
def shelfRun (a n : Nat) : List Nat :=
  if n = 0 then [] else (List.range ((a + n - 1) / shelfBytes - a / shelfBytes + 1)).map (a / shelfBytes + ·)

/-- An access to a run of session bytes touches each of its Shelves. -/
def Dev.touchRun (d : Dev) (session a n : Nat) : Dev := (shelfRun a n).foldl (fun d i => d.touch session i) d

/-- A run of session bytes, Shelf by Shelf: address and length of each piece. -/
def shelfPieces (a n : Nat) : List (Nat × Nat) :=
  (shelfRun a n).map fun i =>
    let lo := max a (i * shelfBytes)
    (lo, min (a + n) ((i + 1) * shelfBytes) - lo)

/-! Tables (R158). -/

/-- Tables that lead to a Shelf index: level and key. -/
def tablePath (idx : Nat) : List (Nat × Nat) := [(1, 0), (2, idx / 2 ^ 18), (3, idx / 2 ^ 9)]

/-- The k-th number, from 0, that a list does not hold. -/
def kthFree (used : List Nat) (k : Nat) : Nat := (sortBy id used).foldl (fun x u => if u ≤ x then x + 1 else x) k

/-- Give each table that a session's Shelves need a frame of the pool. Which free frame is a free value. -/
def Dev.addTables (d : Dev) (session : Nat) (idxs : List Nat) : Dev :=
  (dedup (idxs.flatMap tablePath)).foldl (fun d (level, key) =>
    if d.stk.tables.any fun t => t.session == session && t.level == level && t.key == key then d else
    let used := d.stk.tables.map (·.frame)
    let frame := kthFree used (d.free.toNat % max 1 (d.framesMax - used.length))
    { d.freed with stk := { d.stk with tables := d.stk.tables ++ [{ session, level, key, frame }] } }) d

/-- An entry of a level-1 or level-2 table: V and FRAME (R158). -/
def tableEntry (next : Option TableFrame) : BitVec 64 := next.elim 0 fun t => BitVec.ofNat 64 (1 + t.frame * 4096)

/-- A Shelf entry (R159). -/
def ShelfEntry.bits (e : ShelfEntry) : BitVec 64 :=
  let base := 1 + e.spill.toNat * 4 + (e.pins != 0).toNat * 8 + e.acc.toNat * 16
  BitVec.ofNat 64 (match e.place with
    | .resident p => base + 2 + p * 2 ^ 21
    | .paged s => base + s * 2 ^ 40)

/-- Entry i of a table (R158, R159). -/
def Stk.tableWord (k : Stk) (t : TableFrame) (i : Nat) : BitVec 64 :=
  let below := fun key => k.tables.find? fun u => u.session == t.session && u.level == t.level + 1 && u.key == key
  match t.level with
  | 1 => tableEntry (below i)
  | 2 => tableEntry (below (t.key * 512 + i))
  | _ => (k.entry? t.session (t.key * 512 + i)).elim 0 ShelfEntry.bits

/-- The table whose frame holds a physical address. -/
def Stk.tableAt? (k : Stk) (a : Nat) : Option TableFrame := k.tables.find? fun t => t.frame == a / 4096

/-- Bytes of physical Cellar, the tables among them. -/
def State.physGet (s : State) (a n : Nat) : List Byte :=
  if (granules a n).all fun g => (s.dev.stk.tableAt? (g * 64)).isNone then s.mem.cellarGet a n else
  (List.range n).map fun i => match s.dev.stk.tableAt? (a + i) with
    | some t => byteAt (s.dev.stk.tableWord t ((a + i) % 4096 / 8)) ((a + i) % 8)
    | none => Tbl.get 0 s.mem.cellar (a + i)

/-! Paging (R171 to R179). -/

/-- Pool slots a session has in use, page-outs under way included. -/
def Stk.poolUse (k : Stk) (session : Nat) : Nat :=
  (k.shelves.filter fun e => e.session == session && (match e.place with | .paged _ => true | _ => false)).length +
    (k.xfers.filter fun x => !x.inward && x.session == session).length

/-- Slot numbers in use. -/
def Stk.slotsUsed (k : Stk) : List Nat :=
  (k.shelves.filterMap fun e => match e.place with | .paged s => some s | _ => none) ++
    (k.xfers.filter (!·.inward)).map (·.slot)

/-- Free slots of the pool: granted, not bad, not in use, and not in a region being withdrawn. -/
def Stk.slotsFree (k : Stk) : List Nat :=
  let used := k.slotsUsed
  ((k.pool.filter fun (_, r) => r.withdrawing.isNone).flatMap fun (_, r) => r.slots).filter fun s =>
    !used.contains s && !k.badSlots.contains s

/-- Host address of a slot: slot k of a region lies at BASE + k × 2 MiB (R168). -/
def Stk.slotAddr (k : Stk) (slot : Nat) : Nat :=
  (k.pool.findSome? fun (_, r) => (r.slots.idxOf? slot).map fun i => r.base.toNat + i * shelfBytes).getD 0

/-- Room under a session's pool quota (R171). Session 0 has none to respect (R202). -/
def Dev.poolRoom (d : Dev) (session : Nat) : Nat :=
  if session = 0 then 1048576 else (d.session session).qPool - d.stk.poolUse session

/-- R47: a Shelf that is pinned, or that the stalled descriptor of a mover touches. -/
def Dev.pinned (d : Dev) (e : ShelfEntry) : Bool :=
  e.pins != 0 || d.mov.movers.any fun (_, v) => v.chain.any fun c =>
    c.stalled && c.fin.isNone && c.act.session == e.session && c.targets.contains e.idx

/-- A Shelf that R171 allows out, quota apart. One whose page-out is under way is counted neither as free nor as one that
can go (DESIGN CHOICE, log entry 79). -/
def Dev.spillable (d : Dev) (e : ShelfEntry) : Bool :=
  e.spill && !d.pinned e && (match e.place with | .resident _ => true | _ => false) &&
    !d.stk.xfers.any fun x => x.session == e.session && x.idx == e.idx

/-- Shelves that can be paged out under R171: per session limited by its pool room, in all by the free slots. -/
def Dev.pageable (d : Dev) : Nat :=
  let c := d.stk.shelves.filter d.spillable
  let per := (dedup (c.map (·.session))).map fun n => min (c.filter fun e => e.session == n).length (d.poolRoom n)
  min (per.foldl (· + ·) 0) d.stk.slotsFree.length

/-- R173: coldest first, then longest resident, then highest session address. -/
def colder (now : BitVec 64) (a b : ShelfEntry) : Bool :=
  if a.acc != b.acc then b.acc
  else if a.since != b.since then decide ((now - b.since).toNat < (now - a.since).toNat)
  else decide (b.idx < a.idx)

/-- Queue one page-out of the coldest Shelf that may go, if any. Which free slot of the pool it takes is a free value. -/
def Dev.pageOutOne (d : Dev) (forAlloc : Bool := false) : Option Dev :=
  let c := d.stk.shelves.filter fun e => d.spillable e && decide (0 < d.poolRoom e.session)
  match bestBy (colder d.tim.ticks) c, d.pick d.stk.slotsFree with
  | some e, some slot =>
    some { d.freed with
      stk := { d.stk with
        xfers := d.stk.xfers ++
          [{ inward := false, session := e.session, idx := e.idx, handle := e.handle, requester := .none_, slot, forAlloc }] } }
  | _, _ => none

/-- Queue up to n page-outs; the number queued and the device. -/
def Dev.pageOutMany (d : Dev) (forAlloc : Bool) : Nat → Nat × Dev
  | 0 => (0, d)
  | n + 1 => match d.pageOutOne forAlloc with
    | none => (0, d)
    | some d' => let r := d'.pageOutMany forAlloc n; (r.1 + 1, r.2)

/-- The waiting ALLOC gives up its page-outs: what they free is free for all. -/
def Stk.endAllocWait (k : Stk) : Stk :=
  { k with allocWait := none, xfers := k.xfers.map fun x => { x with forAlloc := false } }

/-! The queue of transfers (R177, R178). -/

/-- Transfers that run, at most 8. -/
def Stk.running (k : Stk) : List Xfer := k.xfers.filter (·.started)

def Xfer.sameShelf (x y : Xfer) : Bool := x.session == y.session && x.idx == y.idx

/-- Page-ins that wait for their turn or for a Shelf, one of each Shelf, in the order requested. -/
def Stk.waitingIns (k : Stk) : List Xfer :=
  (k.xfers.filter fun x => x.inward && !k.running.any fun y => y.inward && y.sameShelf x).foldl
    (fun l x => if l.any x.sameShelf then l else l ++ [x]) []

/-- Change the first entry of the queue that equals one. -/
def Stk.onXfer (k : Stk) (x : Xfer) (f : Xfer → Xfer) : Stk :=
  { k with xfers := match k.xfers.idxOf? x with | some i => k.xfers.modify i f | none => k.xfers }

/-- Start page-ins in the order requested, each in the lowest free Shelf. -/
def Dev.startIns : Nat → Dev → Dev
  | 0, d => d
  | n + 1, d =>
    if 8 ≤ d.stk.running.length then d else
    match d.stk.waitingIns, d.takeShelves 1 with
    | x :: _, p :: _ => Dev.startIns n { d with stk := d.stk.onXfer x fun x => { x with started := true, shelf := p } }
    | _, _ => d

/-- Start page-outs in the order requested. -/
def Dev.startOuts : Nat → Dev → Dev
  | 0, d => d
  | n + 1, d =>
    if 8 ≤ d.stk.running.length then d else
    match d.stk.xfers.find? fun x => !x.inward && !x.started with
    | some x => Dev.startOuts n { d with stk := d.stk.onXfer x fun x => { x with started := true } }
    | none => d

/-- R178: page a victim out for each page-in whose turn has come; the one at the head reports its first wait without any. -/
def Dev.pageVictims : Nat → Dev → Dev
  | 0, d => d
  | n + 1, d =>
    let due := min d.stk.waitingIns.length (8 - (d.stk.running.filter (·.inward)).length)
    let going := (d.stk.xfers.filter fun x => !x.inward && !x.forAlloc).length - d.cel.mig.elim 0 (·.need)
    if due ≤ going then d else
    match d.pageOutOne, d.stk.waitingIns with
    | some d', _ => Dev.pageVictims n d'
    | none, x :: _ =>
      if going ≠ 0 ∨ x.reported then d else
      ({ d with stk := d.stk.onXfer x fun x => { x with reported := true } }).log
        { code := .noShelves, sev := 0, domain := domDevice, src := srcStk, addr := x.idx * shelfBytes, session := x.session }
    | none, [] => d

/-- R177, R178: what the queue of transfers can start now. -/
def Dev.pageStep (d : Dev) : Dev := ((d.startIns 8).pageVictims 8).startOuts 8

/-- Queue a page-in once (R175, R178). -/
def Dev.pageIn (d : Dev) (session idx : Nat) (r : Requester) : Dev :=
  match d.stk.entry? session idx with
  | some { place := .paged _, handle, .. } =>
    if d.stk.xfers.any fun x => x.inward && x.session == session && x.idx == idx && x.requester == r then d else
    Dev.pageStep { d with stk := { d.stk with xfers := d.stk.xfers ++ [{ inward := true, session, idx, handle, requester := r }] } }
  | _ => d

/-! When a Crate may start. -/

/-- Crates the Storekeeper itself executes (R191). -/
def Live.storekeeper (c : Live) : Bool := [4, 5, 6, 7, 9, 15].contains c.kind

/-- A FENCE read earlier whose scope covers the Crate and which has not completed (R121). -/
def Dev.fenced (d : Dev) (c : Live) : Bool :=
  d.hlk.live.any fun f => f.kind == 8 && f.admitted && f.uid < c.uid && f.session == c.session &&
    (f.num 32 1 == 1 || f.hatch == c.hatch)

/-- R101, R121, R132, R779: nothing holds the Crate back but its turn. -/
def Dev.startable (d : Dev) (c : Live) : Bool :=
  let s := d.session c.session
  c.admitted && s.st == .opened && s.held.isEmpty && !d.rel.devFault && !d.fenced c

/-- R191: one at a time, in admission order among those ready. CLOSE_SESSION, RESET_SESSION and REMOVE_HATCH, which
wait for other Crates, do not hold the others back. -/
def Dev.turn (d : Dev) (c : Live) : Bool :=
  !c.storekeeper ||
    !d.hlk.live.any fun o => o.storekeeper && o.uid != c.uid &&
      ((o.phase == .active && !(o.kind == 15 && [2, 4, 8].contains (o.num 32 1))) || (o.isReady && decide (o.uid < c.uid) && d.startable o))

/-- The ready Crate of a kind and OP that may start now. -/
def Dev.starts (d : Dev) (uid kind : Nat) (p : Live → Bool := fun _ => true) : Option Live :=
  match d.live? uid with
  | none => none
  | some c => if c.isReady && c.kind == kind && p c && d.startable c && d.turn c then some c else none

end Sys2Proof.Machine
end

