-- ==== Sys2Proof/Machine/Setup.lean ====
section
/-!
DEFINITION. Setup records: their interfaces, results and shadow storage (R35 to R37, R567 to R572, R854), and the
committed records of a unit.
-/
namespace Sys2Proof.Machine

def Dev.unit (d : Dev) (u : Nat) : RecIf := Tbl.get {} d.units u

def Dev.onUnit (d : Dev) (u : Nat) (f : RecIf → RecIf) : Dev := { d with units := Tbl.upd {} d.units u f }

/-- RESULT codes of R854. -/
def resultCode : Status → Nat
  | .ok => 0 | .cfgLocked => 2 | .cancelled => 3 | _ => 1

/-- Committed cells of a type and sub-index. -/
def Dev.rec? (d : Dev) (u typ : Nat) (sub : Nat := 0) : Option (List (BitVec 36)) := Tbl.find? (d.unit u).com (typ * 256 + sub)

/-- The upper port of a bonded pair: BOND stands in the lower port's LINK (R248). -/
def Dev.upperPort (d : Dev) (p : Nat) : Bool := p % 2 == 1 && (d.rec? (p - 1) 1).any fun c => ((c)[0]?).any fun a => bit a 26

/-- The containment domain of a port (R777). -/
def Dev.portDom (d : Dev) (p : Nat) : BitVec 16 := domPort (if d.upperPort p then p - 1 else p)

/-- The containment domain of a unit (R777). -/
def Dev.unitDom (d : Dev) (u : Nat) : BitVec 16 :=
  match u with
  | 0x14 => domXsp
  | 0x28 => domCap
  | 0x30 => domSco
  | 0x38 => domDevice
  | 0x40 => domMon
  | _ => d.portDom (u % 4)

/-- Decide the result of a record: for the program copy that sent it, once, or for the register path while RESULT shows
that submission (R570, R854). -/
def Dev.decideRec (d : Dev) (u : Nat) (r : Shadow) (st : Status) : Dev :=
  match r.origin with
  | none => d.onUnit u fun i => if i.gos = r.go ∧ i.result = 0xF then { i with result := resultCode st } else i
  | some (key, idx) =>
    match Tbl.find? d.insts key with
    | none => d
    | some i => d.setInst key { i with
        setups := mapIf (fun e => e.idx == idx && e.result.isNone) (fun e => { e with result := some st }) i.setups }

/-- A unit rejects a record: its result, and a NOTE of the unit's domain (R37, R780). -/
def Dev.rejectRec (d : Dev) (u : Nat) (r : Shadow) (st : Status) : Dev :=
  (d.decideRec u r st).note st (d.unitDom u) (BitVec.ofNat 8 u)

/-- R35: a session holds the unit for writing. -/
def Dev.writeHeld (d : Dev) (u : Nat) : Bool :=
  d.hlk.live.any fun c => c.isRun && c.admitted && c.grants.any fun g => fld g 60 4 == 2 && fld g 0 32 == u && bit g 57

/-- Put a checked record into shadow storage; an earlier one of its type is replaced (R36). -/
def Dev.shadowPut (d : Dev) (u : Nat) (r : Shadow) : Dev :=
  let old := (d.unit u).shadow.filter fun x => x.typ == r.typ
  let d := old.foldl (fun d x => d.decideRec u x .cancelled) d
  d.onUnit u fun i => { i with shadow := i.shadow.filter (fun x => x.typ != r.typ) ++ [r] }

/-- Accept a record, or decide its rejection at once. -/
def Dev.submit (d : Dev) (u : Nat) (r : Shadow) (check : Except Status Unit) : Dev :=
  match check with
  | .ok _ => d.shadowPut u r
  | .error st => d.rejectRec u r st

def Dev.setRec (d : Dev) (u typ sub : Nat) (cells : List (BitVec 36)) : Dev :=
  d.onUnit u fun i => { i with com := Tbl.set i.com (typ * 256 + sub) cells }

def Dev.dropRec (d : Dev) (u typ sub : Nat) : Dev := d.onUnit u fun i => { i with com := Tbl.erase i.com (typ * 256 + sub) }

/-- The record of a type that waits in shadow storage. -/
def Dev.waiting? (d : Dev) (u typ : Nat) : Option Shadow := (d.unit u).shadow.find? fun x => x.typ == typ

/-- Take the waiting records of a unit that meet `p` out of shadow storage. -/
def Dev.takeShadow (d : Dev) (u : Nat) (p : Shadow → Bool) : List Shadow × Dev :=
  ((d.unit u).shadow.filter p, d.onUnit u fun i => { i with shadow := i.shadow.filter fun x => !p x })

/-- Commit a record under a key, or reject it. -/
def Dev.settle (d : Dev) (u : Nat) (r : Shadow) (sub : Nat) (check : Except Status Unit) : Dev :=
  match check with
  | .ok _ => (d.setRec u r.typ sub r.cells).decideRec u r .ok
  | .error st => d.rejectRec u r st

/-- Cell i of a record, zero beyond its end. -/
def cellOf (c : List (BitVec 36)) (i : Nat) : BitVec 36 := ((c)[i]?).getD 0

/-- Rejection as a test. -/
def need (ok : Bool) (st : Status := .cfgRange) : Except Status Unit := if ok then .ok () else .error st

/-- Bit b of an error register rises; one record reports each rise (R859). -/
def risesBit {n : Nat} (reg : BitVec n) (b : Nat) : Bool := !bit reg b

end Sys2Proof.Machine
end

