-- ==== Sys2Proof/Machine/Mon.lean ====
section
/-!
DEFINITION. The monitors: timers (R746, R747), window comparators (R748 to R759), the housekeeping converter with its
temperature service, sequences, accumulators and trackers (R760 to R770), calibration (R771 to R774) and setup records
(R775, R776).
-/
namespace Sys2Proof.Machine

def monUnit : Nat := 0x40
def Dev.onMon (d : Dev) (f : Mon → Mon) : Dev := { d with mon := f d.mon }

def Mon.cmp (m : Mon) (k : Nat) : MonCmp := Tbl.get {} m.cmps k
def Mon.seq (m : Mon) (k : Nat) : MonSeq := Tbl.get {} m.seqs k
def Mon.acc (m : Mon) (k : Nat) : MonAcc := Tbl.get {} m.accs k
def Mon.trk (m : Mon) (k : Nat) : MonTrk := Tbl.get {} m.trks k
def Mon.slice (m : Mon) (k : Nat) : MonSlice := Tbl.get {} m.slices k
def Dev.onCmp (d : Dev) (k : Nat) (f : MonCmp → MonCmp) : Dev := d.onMon fun m => { m with cmps := Tbl.upd {} m.cmps k f }
def Dev.onSeq (d : Dev) (k : Nat) (f : MonSeq → MonSeq) : Dev := d.onMon fun m => { m with seqs := Tbl.upd {} m.seqs k f }
def Dev.onAcc (d : Dev) (k : Nat) (f : MonAcc → MonAcc) : Dev := d.onMon fun m => { m with accs := Tbl.upd {} m.accs k f }
def Dev.onTrk (d : Dev) (k : Nat) (f : MonTrk → MonTrk) : Dev := d.onMon fun m => { m with trks := Tbl.upd {} m.trks k f }

/-- R828: set a bit of HKC_EVT_STAT; vector 2 if it is enabled. -/
def Dev.hkcEvt (d : Dev) (i : Nat) : Dev :=
  let d := { d with hkc := { d.hkc with evtStat := setBit d.hkc.evtStat i true } }
  if bit d.hkc.evtEn i then d.vector 2 else d

/-- Set a bit of MON_INT_STAT; the monitor interrupt follows if it is enabled (R754, R828). -/
def Dev.monInt (d : Dev) (i : Nat) : Dev :=
  let d := d.onMon fun m => { m with intStat := setBit m.intStat i true }
  if bit d.mon.intEn i then d.hkcEvt 1 else d

/-! Committed records (R775). -/

structure CmpRec where
  en : Bool := false
  hi : Nat := 0
  lo : Nat := 0
  hys : Nat := 0
  wsel : Nat := 0
  flen : Nat := 1
  btmr : Nat := 0
  ben : Bool := false
  edge : Nat := 0
  ctmr : Nat := 0
  capEn : Bool := false
  evt : Bool := false
  wake : Bool := false
  test : Nat := 0

def CmpRec.of (c : List (BitVec 36)) : CmpRec :=
  let a := cellOf c 0
  let b := cellOf c 1
  { en := bit a 3, hi := fld a 4 10, lo := fld a 14 10, hys := fld a 24 5, wsel := fld a 29 2, flen := fld a 31 4, btmr := fld b 0 2
    ben := bit b 2, edge := fld b 3 2, ctmr := fld b 5 2, capEn := bit b 7, evt := bit b 8, wake := bit b 9, test := fld b 10 2 }

/-- The record in force; none was written after reset, and the comparator is off. -/
def Dev.cmpRec (d : Dev) (k : Nat) : CmpRec := ((d.rec? monUnit 1 k).map CmpRec.of).getD {}

structure TimerRec where
  en : Bool
  revEn : Bool
  revid : BitVec 12
  per : Nat
  bstart : Nat
  bend : Nat
  cstart : Nat

def TimerRec.of (c : List (BitVec 36)) : TimerRec :=
  let a := cellOf c 0
  { en := bit a 2, revEn := bit a 3, revid := BitVec.ofNat 12 (fld a 4 12), per := fld (cellOf c 1) 0 32, bstart := fld (cellOf c 2) 0 32
    bend := fld (cellOf c 3) 0 32, cstart := fld (cellOf c 4) 0 32 }

def Dev.timerRec? (d : Dev) (t : Nat) : Option TimerRec := (d.rec? monUnit 2 t).map TimerRec.of

structure SeqStep where
  input : Nat
  ns : Nat
  settle : Nat
  acc : Nat
  trk : Nat

structure SeqRec where
  en : Bool
  src : Bool
  tsel : Nat
  evid : BitVec 12
  dly : Nat
  steps : List SeqStep

def SeqRec.of (c : List (BitVec 36)) : SeqRec :=
  let a := cellOf c 0
  { en := bit a 2, src := bit a 3, tsel := fld a 4 2, evid := BitVec.ofNat 12 (fld a 6 12), dly := fld a 18 16
    steps := (List.range (fld (cellOf c 1) 0 4 + 1)).map fun j =>
      let x := cellOf c (2 + j)
      { input := fld x 0 5, ns := fld x 5 8 + 1, settle := fld x 13 4, acc := fld x 17 6, trk := fld x 23 6 } }

def Dev.seqRec? (d : Dev) (k : Nat) : Option SeqRec := (d.rec? monUnit 3 k).map SeqRec.of

/-! Sequences (R764 to R768). -/

/-- A start that is dropped (R766, R767). -/
def Dev.seqDrop (d : Dev) (k : Nat) : Dev :=
  (d.onSeq k fun q => { q with dropped := BitVec.ofNat 16 (satInc 16 q.dropped.toNat) }).monInt 18

/-- R765, R768: the lowest READY sequence runs when nothing else does. -/
def Dev.seqRun (d : Dev) : Dev :=
  if d.mon.cal ∨ (List.range 4).any (fun k => (d.mon.seq k).st == .running) then d else
  match (List.range 4).find? fun k => (d.mon.seq k).st == .ready with
  | some k => d.onSeq k fun q => { q with st := .running, pos := 0 }
  | none => d

/-- R765: DELAY ends. -/
def Dev.seqReady (d : Dev) (k : Nat) : Dev := (d.onSeq k fun q => { q with st := .ready, delay := 0 }).seqRun

/-- R765: a start enters DELAY. -/
def Dev.seqDelay (d : Dev) (k dly : Nat) : Dev :=
  let d := d.onSeq k fun q => { q with st := .delay, delay := dly }
  if dly = 0 then d.seqReady k else d

/-- R765, R766: a start of a sequence. -/
def Dev.seqStart (d : Dev) (k : Nat) : Dev :=
  match d.seqRec? k with
  | none => d
  | some r =>
    if !r.en then d
    else if (d.mon.seq k).st = .idle then d.seqDelay k r.dly
    else if (d.mon.seq k).pend then d.seqDrop k
    else d.onSeq k fun q => { q with pend := true }

/-! Records. -/

def monLen (typ : Nat) (c : List (BitVec 36)) : Option Nat :=
  match typ with
  | 1 => some 2
  | 2 => some 5
  | 3 => some (3 + fld (cellOf c 1) 0 4)
  | 4 | 5 => some 1
  | _ => none

/-- R748, R765, R775, R776. -/
def Dev.monCheck (_ : Dev) (r : Shadow) : Except Status Unit :=
  let c := r.cells
  let z := fun i lo n => fld (cellOf c i) lo n == 0
  match r.typ with
  | 1 =>
    let x := CmpRec.of c
    need (z 0 35 1 && z 1 12 24 && decide (x.flen % 2 = 1 ∧ x.edge ≤ 2) && (!x.en || decide (x.lo + 2 * x.hys < x.hi)))
  | 2 =>
    let x := TimerRec.of c
    need (z 0 16 20 && z 1 32 4 && z 2 32 4 && z 3 32 4 && z 4 32 4 && decide (2 ≤ x.per ∧ x.bstart ≤ x.bend))
  | 3 =>
    let x := SeqRec.of c
    need (z 0 34 2 && z 1 4 32 && (List.range x.steps.length).all (fun j => z (2 + j) 29 7) && x.steps.all (fun y => decide (y.input ≤ 27)) &&
      x.evid.toNat / 256 != 5)
  | 4 => need (z 0 30 6)
  | _ => need (z 0 30 6)

/-- R752: a comparator is UNSETTLED. -/
def MonCmp.unsettle (x : MonCmp) : MonCmp :=
  { x with hist := [], upper := none, lower := none, bandU := 0, bandL := 0, out := false }

/-- The index a record names. -/
def monSub (r : Shadow) : Nat :=
  let a := cellOf r.cells 0
  match r.typ with
  | 1 => fld a 0 3
  | 2 | 3 => fld a 0 2
  | _ => fld a 0 5

/-- Commit one record (R747, R752, R767). -/
def Dev.monCommitOne (d : Dev) (r : Shadow) : Dev :=
  let k := monSub r
  let was := d.cmpRec k
  match d.monCheck r with
  | .error st => d.rejectRec monUnit r st
  | .ok _ =>
    let d := d.settle monUnit r k (.ok ())
    match r.typ with
    | 1 =>
      let x := CmpRec.of r.cells
      if (!was.en && x.en) || (was.test != 0 && x.test == 0) || was.flen != x.flen then d.onCmp k MonCmp.unsettle else d
    | 2 =>
      let x := TimerRec.of r.cells
      if x.per ≤ Tbl.get 0 d.mon.timers k then d.onMon fun m => { m with timers := Tbl.set m.timers k 0 } else d
    | 3 =>
      if !(SeqRec.of r.cells).en ∧ (d.mon.seq k).pend then (d.onSeq k fun q => { q with pend := false }).seqDrop k else d
    | _ => d

/-- Commit the SEQ records whose sequence is IDLE (R767), and with `all` the others, whose boundary is a CD30 clock (R775). -/
def Dev.monCommitWith (d : Dev) (all : Bool) : Dev :=
  let due := fun (r : Shadow) => if r.typ = 3 then (d.mon.seq (monSub r)).st == .idle else all
  let (l, d) := d.takeShadow monUnit due
  l.foldl Dev.monCommitOne d

/-- Records whose boundary has come at a CD30 clock. -/
def Dev.monCommit (d : Dev) : Dev := d.monCommitWith true

/-- A record reaches the unit; a SEQ record takes effect at once where its sequence is IDLE (R767). -/
def Dev.monSubmit (d : Dev) (r : Shadow) : Dev := (d.submit monUnit r (d.monCheck r)).monCommitWith false

/-- R766, R767: a run ends: a waiting record commits, then a held start enters DELAY. -/
def Dev.seqEnd (d : Dev) (k : Nat) : Dev :=
  let d := (d.onSeq k fun q => { q with st := .idle, pos := 0, runs := q.runs + 1 }).raise (0x540 + k) d.stamp
  let d := d.monCommitWith false
  let d := if (d.mon.seq k).pend then (d.onSeq k fun q => { q with pend := false }).seqStart k else d
  d.seqRun

/-! Timers (R746). -/

/-- The start pulse of a timer. -/
def Dev.timerPulse (d : Dev) (t : Nat) : Dev :=
  (List.range 4).foldl (fun d k => match d.seqRec? k with
    | some r => if !r.src ∧ r.tsel = t then d.seqStart k else d
    | none => d) d

/-- A timer takes a count; the pulse comes with the count CSTART. -/
def Dev.timerTo (d : Dev) (t n : Nat) (r : TimerRec) : Dev :=
  let d := d.onMon fun m => { m with timers := Tbl.set m.timers t n }
  if n = r.cstart then d.timerPulse t else d

/-- One CD30 clock of a timer: it counts on, or goes to 0 by a wrap or a restart. -/
def Dev.timerTick (d : Dev) (t : Nat) (restart : Bool) : Dev :=
  match d.timerRec? t with
  | none => d
  | some r =>
    if !r.en then d else
    let n := Tbl.get 0 d.mon.timers t + 1
    d.timerTo t (if r.per ≤ n ∨ restart then 0 else n) r

/-- R746, R747: one CD30 clock of the timers: a timer whose count a commit of this clock wrapped shows 0 in it, and one that an
event reached restarts at the second clock after. -/
def Dev.timersTick (d : Dev) (wrapped : Nat → Bool) : Dev :=
  let due := d.mon.restarts.filter fun p => p.2 ≤ 1
  let d := d.onMon fun m => { m with restarts := (m.restarts.filter fun p => 1 < p.2).map fun p => (p.1, p.2 - 1) }
  (List.range 4).foldl (fun d t =>
    if wrapped t then (match d.timerRec? t with | some r => if r.en then d.timerTo t 0 r else d | none => d)
    else d.timerTick t (due.any fun p => p.1 == t)) d

/-- R746: the count is 0 again: after the pulse that this period still owes, or at the clock at which an event REVID
restarts it. -/
def execMonitorTimerWrap (timer : Fin 4) (restart : Bool) (s : State) : Outcome :=
  devStep s fun d => match d.timerRec? timer with
    | none => d
    | some r =>
      if !r.en ∨ (restart ∧ !r.revEn) then d else
      let n := Tbl.get 0 d.mon.timers timer
      let d := if !restart ∧ n < r.cstart ∧ r.cstart < r.per then d.timerPulse timer else d
      d.timerTo timer 0 r

/-- R746: whether the blanking window of a timer is active. -/
def Dev.blanks (d : Dev) (t : Nat) : Bool :=
  match d.timerRec? t with
  | some r =>
    let n := Tbl.get 0 d.mon.timers t
    r.en && decide (r.bstart ≤ n ∧ n < r.bend)
  | none => false

/-! Comparators (R749 to R757). -/

/-- R750: the majority of each bit: 0 at HI, 1 at HI − HYS, 2 at LO + HYS, 3 at LO. -/
def majority (h : List (BitVec 4)) (b : Nat) : Bool := decide (h.length < 2 * (h.filter fun x => bit x b).length)

/-- R750, R751, R753: one threshold by a filter sample: `above` and `below` its band. -/
def thresholdStep (st : Option Bool) (band : Nat) (above below counts : Bool) (onAbove onBelow idle : Bool) : Option Bool × Nat :=
  if above then (some onAbove, 0)
  else if below then (some onBelow, 0)
  else match st with
    | some v => (some v, 0)
    | none =>
      let band := if counts then band + 1 else band
      if 256 ≤ band then (some idle, 0) else (none, band)

/-- R751: the window state matches WSEL. -/
def windowMatch (wsel : Nat) (high low : Bool) : Bool :=
  match wsel with
  | 0 => high || low
  | 1 => !high && !low
  | 2 => high
  | _ => !high && low

/-- What a sample did to a comparator. -/
inductive CmpEnd | none_ | resolved | edge
deriving DecidableEq, Repr

/-- One raw sample through the chain. -/
def MonCmp.sample (x : MonCmp) (r : CmpRec) (blank : Bool) (raw : BitVec 4) : MonCmp × CmpEnd :=
  let x := if blank then x else { x with raw }
  let x := { x with hist := (x.raw :: x.hist).take r.flen }
  if x.hist.length < r.flen then (x, .none_) else
  let was := x.upper.isSome && x.lower.isSome
  let m := majority x.hist
  -- upper: HIGH is true; lower: LOW is true
  let (upper, bandU) := thresholdStep x.upper x.bandU (m 0) (!m 1) (!blank) true false false
  let (lower, bandL) := thresholdStep x.lower x.bandL (m 2) (!m 3) (!blank) false true false
  let x := { x with upper, lower, bandU, bandL }
  match upper, lower with
  | some u, some l =>
    let out := windowMatch r.wsel u l
    if !was then ({ x with out }, .resolved)
    else if out ≠ x.out then ({ x with out }, if r.edge = 2 ∨ (r.edge = 0) = out then .edge else .none_)
    else (x, .none_)
  | _, _ => ({ x with out := false }, .none_)

/-- R756: what an edge does. -/
def Dev.cmpEdge (d : Dev) (k : Nat) (r : CmpRec) : Dev :=
  let cnt := Tbl.get 0 d.mon.timers r.ctmr
  let d := d.onCmp k fun x =>
    let x := { x with latch := true, edges := BitVec.ofNat 32 (satInc 32 x.edges.toNat) }
    if r.capEn then { x with cap := BitVec.ofNat 32 cnt, capValid := true, capOvr := x.capOvr || x.capValid } else x
  let d := d.monInt k
  if r.evt then d.raise (0x400 + k) d.stamp else d

/-- One CD30 clock of a comparator (R749 to R759). -/
def Dev.cmpSample (d : Dev) (k : Nat) (raw : BitVec 4) : Dev :=
  let d := d.monCommit
  let r := d.cmpRec k
  if !r.en then d else
  let (x, e) := (d.mon.cmp k).sample r (r.ben && d.blanks r.btmr) raw
  let d := d.onCmp k fun _ => x
  if r.test ≠ 0 then d else
  match e with
  | .none_ => d
  | .resolved => d.monInt (8 + k)
  | .edge => d.cmpEdge k r

/-- R756: raw samples of successive CD30 clocks. -/
def execComparatorEdge (channel : Fin 8) (raw : List (BitVec 4)) (s : State) : Outcome :=
  devStep s fun d => raw.foldl (fun d x => d.cmpSample channel x) d

/-- R753, R754: raw samples of an UNSETTLED comparator; a resolved one stays as it is. -/
def execComparatorResolve (channel : Fin 8) (raw : List (BitVec 4)) (s : State) : Outcome :=
  devStep s fun d => raw.foldl (fun d x =>
    let c := d.mon.cmp channel
    if c.upper.isSome && c.lower.isSome then d else d.cmpSample channel x) d

/-! Converter (R760 to R763). -/

/-- R761: the corrected code. -/
def MonSlice.correct (x : MonSlice) (raw : Nat) : Nat :=
  (max 0 (min 4095 ((((raw : Int) - x.off.toInt) * x.gain.toNat + 2 ^ 14) >>> 15)) : Int).toNat

/-- R760, R763: the mean of codes in units of 0.125 °C: a code is 75 / 64 units, from −200 °C. -/
def tempOf (codes : List Nat) : Int :=
  let n := codes.length
  (((codes.foldl (· + ·) 0 * 150 + 64 * n) / (128 * n) : Nat) : Int) - 1600

/-- R763: the means of a millisecond of the service's slots, which slice 3 serves. The lane temperatures of R270 are the means
of inputs 16 to 19. -/
def execTemperatureService (raws : List (List (BitVec 12))) (s : State) : Outcome :=
  devStep s fun d =>
    let sl := d.mon.slice 3
    ((raws.take 8).zipIdx.filter fun (l, _) => !l.isEmpty).foldl (fun d (l, i) =>
      d.onMon fun m => { m with temps := Tbl.set m.temps (16 + i) (BitVec.ofInt 12 (tempOf (l.map fun r => sl.correct r.toNat))) }) d

/-! Accumulators and trackers (R769, R770). -/

/-- MODE and WIN of an accumulator. -/
def Dev.accRec (d : Dev) (a : Nat) : Bool × Nat :=
  let c := cellOf ((d.rec? monUnit 4 a).getD []) 0
  (bit c 5, fld c 6 24 + 1)

/-- R769: an accumulator takes a code. -/
def Dev.accTake (d : Dev) (a code : Nat) : Dev :=
  let (mode, win) := d.accRec a
  let x := d.mon.acc a
  if x.cnt = 2 ^ 32 - 1 then d else
  let sum := x.sum + code
  let cnt := x.cnt + 1
  if mode ∧ win ≤ cnt then
    (d.onAcc a fun x => { x with sum := 0, cnt := 0, pubSum := sum, pubCnt := cnt }).raise (0x500 + a) d.stamp
  else
    let d := d.onAcc a fun x => { x with sum, cnt }
    if cnt = 2 ^ 32 - 1 then (d.onAcc a fun x => { x with sat := true }).monInt 17 else d

/-- R770: a tracker takes a code. -/
def Dev.trkTake (d : Dev) (k code : Nat) : Dev :=
  let v := BitVec.ofNat 12 code
  let d := d.onTrk k fun x =>
    { x with lo := if x.valid && decide (x.lo.toNat ≤ code) then x.lo else v, hi := if x.valid && decide (code ≤ x.hi.toNat) then x.hi else v
             valid := true }
  let c := cellOf ((d.rec? monUnit 5 k).getD []) 0
  if bit c 5 ∧ !(d.mon.trk k).limit ∧ (code < fld c 6 12 ∨ fld c 18 12 < code) then
    ((d.onTrk k fun x => { x with limit := true }).monInt 16).raise (0x520 + k) d.stamp
  else d

/-! A run (R764). -/

/-- The step that conversion `pos` of a run belongs to, and its index in that step. -/
def stepAt : List SeqStep → Nat → Option (SeqStep × Nat)
  | [], _ => none
  | x :: t, pos => if pos < x.settle + x.ns then some (x, pos) else stepAt t (pos - (x.settle + x.ns))

/-- The next slot that the service does not hold. -/
def nextSlot (n : Nat) : Nat := if n % 64 = 63 then (n + 1) % 64 else n % 64

/-- Conversions of the running sequence, from a slot on. -/
def Dev.convert (d : Dev) (k : Nat) (r : SeqRec) (slot : Nat) : List (BitVec 12) → Dev
  | [] => d
  | raw :: rest =>
    let slot := nextSlot slot
    match stepAt r.steps (d.mon.seq k).pos with
    | none => d
    | some (x, j) =>
      let code := (d.mon.slice (slot % 4)).correct raw.toNat
      let d := d.onSeq k fun q => { q with pos := q.pos + 1 }
      let d := if j < x.settle then d else
        let d := if x.acc < 32 then d.accTake x.acc code else d
        if x.trk < 32 then d.trkTake x.trk code else d
      d.convert k r (slot + 1) rest

/-- The sequence that runs. -/
def Mon.running? (m : Mon) : Option Nat := (List.range 4).find? fun k => (m.seq k).st == .running

/-- Results of the slots that serve the running sequence, from a slot number modulo 64 on. -/
def Dev.conversions (d : Dev) (slot : Nat) (raws : List (BitVec 12)) : Dev :=
  match d.mon.running? with
  | none => d
  | some k => match d.seqRec? k with
    | none => d
    | some r =>
      let d := d.convert k r slot raws
      if (stepAt r.steps (d.mon.seq k).pos).isNone then d.seqEnd k else d

def execAccumulatorWindow (slot : BitVec 6) (raws : List (BitVec 12)) (s : State) : Outcome :=
  devStep s fun d => d.conversions slot.toNat raws

def execTrackerLimit (slot : BitVec 6) (raws : List (BitVec 12)) (s : State) : Outcome :=
  devStep s fun d => d.conversions slot.toNat raws

def execSequenceRunEnd (slot : BitVec 6) (raws : List (BitVec 12)) (s : State) : Outcome :=
  devStep s fun d => d.conversions slot.toNat raws

def execSequenceStart (seq : Fin 4) (s : State) : Outcome := devStep s fun d => (d.monCommitWith false).seqStart seq

def execSequenceDelayEnd (seq : Fin 4) (s : State) : Outcome :=
  devStep s fun d => if (d.mon.seq seq).st = .delay then d.seqReady seq else d

/-- R769: CLR. -/
def execAccClr (acc : Fin 32) (s : State) : Outcome :=
  startStep s fun d => d.onAcc acc fun x => { x with sum := 0, cnt := 0, pubSum := 0, pubCnt := 0 }

/-- R770: CLR. -/
def execTrkClr (trk : Fin 32) (s : State) : Outcome :=
  startStep s fun d => d.onTrk trk fun x => { x with lo := 0, hi := 0, valid := false }

/-- SUM and COUNT as the registers show them. -/
def Dev.accShown (d : Dev) (a : Nat) : Nat × Nat :=
  let x := d.mon.acc a
  if (d.accRec a).1 then (x.pubSum, x.pubCnt) else (x.sum, x.cnt)

/-- R844: a read of SUM_LO latches its companions. -/
def Dev.accLatch (d : Dev) (a : Nat) : Dev :=
  let (sum, cnt) := d.accShown a
  d.onAcc a fun x => { x with sumHi := BitVec.ofNat 12 (sum / 2 ^ 32), cntLatch := BitVec.ofNat 32 cnt }

/-- R769, R844: the read answers SUM_LO. -/
def execMonAccSumLoRead (acc : Fin 32) (s : State) : Outcome :=
  hostStep s fun d => let e := d.accLatch acc; { e with host := e.host ++ [.reply (leBytes 4 (d.accShown acc).1)] }

/-! Calibration (R771 to R774). -/

/-- R774. -/
def hkaGainOk (g : Int) : Bool := decide (0x7333 ≤ g ∧ g ≤ 0x8CCC)

/-- R771: GAIN and OFF of a slice from the sums of its 4,096 conversions of each reference; none out of range. -/
def calSlice (lo hi : Nat) : Option MonSlice :=
  if hi ≤ lo then none else
  let dv := hi - lo
  let gain : Nat := (2 * 2 ^ 26 * 4096 + dv) / (2 * dv)
  -- m_lo − (m_hi − m_lo) / 2, over 8192
  let off : Int := (3 * (lo : Int) - hi + 4096) / 8192
  if hkaGainOk gain then some { off := BitVec.ofInt 16 off, gain := BitVec.ofNat 16 gain } else none

/-- Set MON_STAT.CAL_ERR; its rise writes a record (R859). -/
def Dev.monCalErr (d : Dev) : Dev :=
  if d.mon.calErr then d else
  (d.onMon fun m => { m with calErr := true }).log { code := .ok, sev := 0, domain := domMon, src := BitVec.ofNat 8 monUnit, cause := 1 }

/-- R771: a slice calibration with the sums of its conversions, 0.3 V and 0.9 V, by slice. True where it fails. -/
def Dev.monCalibrate (d : Dev) (sums : List (BitVec 24 × BitVec 24)) : Dev × Bool :=
  let new := sums.filterMap fun (lo, hi) => calSlice lo.toNat hi.toNat
  let bad := decide (new.length ≠ 4 ∨ sums.length ≠ 4)
  let d := if bad then d.monCalErr else
    d.onMon fun m =>
      { m with slices := new.zipIdx.map fun (x, k) => (k, x)
               calTemp := (Tbl.get 0 m.temps 20).signExtend 16, calErr := false }
  ((d.onMon fun m => { m with cal := false }).seqRun, bad)

def execCal (sums : List (BitVec 24 × BitVec 24)) (s : State) : Outcome :=
  devStep s fun d => if d.mon.cal ∨ d.served ∧ !d.rel.devFault then (d.monCalibrate sums).1 else d

/-- R772: the trims found for every comparator that is off. -/
def Dev.monTrim (d : Dev) (trims : List (BitVec 32)) : Dev :=
  let d := (List.range 8).foldl (fun d k => match trims[k]? with
    | some t => if (d.cmpRec k).en then d else d.onCmp k fun x => { x with trims := t }
    | none => d) d
  d.onMon fun m => { m with ctrim := false }

def execCtrim (trims : List (BitVec 32)) (s : State) : Outcome := startStep s fun d => d.monTrim trims

/-- R773: the two record bodies from the values in use. -/
def Mon.hkaBody (m : Mon) : List Byte :=
  ((List.range 4).map fun k => leBytes 2 (m.slice k).off.toNat ++ leBytes 2 (m.slice k).gain.toNat).flatten ++ leBytes 2 m.calTemp.toNat ++ [0, 0]
def Mon.cmptBody (m : Mon) : List Byte := ((List.range 8).map fun k => leBytes 4 (m.cmp k).trims.toNat).flatten

/-- R773: SAVE starts the writes of both records. -/
def Dev.monSave (d : Dev) : Dev :=
  if d.mon.save then d else
  (({ d with mon := { d.mon with save := true } }).atticPush .monSave 7 d.mon.hkaBody).atticPush .monSave 8 d.mon.cmptBody

def execMonSave (s : State) : Outcome := startStep s Dev.monSave

/-- R773, R774: boot takes the records. -/
def Dev.monLoad (d : Dev) (hka cmpt : Option (List Byte)) : Dev :=
  let w := fun (b : List Byte) i => ofLeBytes ((b.drop i).take 2)
  let ok := hka.any fun b => (List.range 4).all fun k => hkaGainOk (w b (4 * k + 2))
  let d := match hka with
    | some b =>
      if ok then d.onMon fun m =>
        { m with slices := (List.range 4).map fun k => (k, { off := BitVec.ofNat 16 (w b (4 * k)), gain := BitVec.ofNat 16 (w b (4 * k + 2)) })
                 calTemp := BitVec.ofNat 16 (w b 16) }
      else d.monCalErr
    | none => d.monCalErr
  match cmpt with
  | some b => (List.range 8).foldl (fun d k => d.onCmp k fun x => { x with trims := BitVec.ofNat 32 (ofLeBytes ((b.drop (4 * k)).take 4)) }) d
  | none => d

/-! The clock. -/

/-- R746, R765, R775: one CD30 clock: the delays that run have one clock less, and the start pulses of the timers begin new ones. -/
def Dev.monClock (d : Dev) : Dev :=
  let was := d.mon.timers
  let d := d.monCommit
  let wrapped := fun t => decide (Tbl.get 0 d.mon.timers t < Tbl.get 0 was t)
  let d := (List.range 4).foldl (fun d k =>
    let q := d.mon.seq k
    if q.st ≠ .delay then d
    else if q.delay ≤ 1 then d.seqReady k
    else d.onSeq k fun q => { q with delay := q.delay - 1 }) d
  d.timersTick wrapped

/-- One tick of CD02: CD30 runs at 100 MHz, 100 clocks in 2,048 ticks. -/
def Dev.monTick (d : Dev) : Dev :=
  let p := d.mon.phase + 100
  if p < 2048 then d.onMon fun m => { m with phase := p } else (d.onMon fun m => { m with phase := p - 2048 }).monClock

end Sys2Proof.Machine
end

