-- ==== Sys2Proof/Machine/BarrelOps.lean ====
section
/-!
DEFINITION. What happens inside a Barrel: samples and their slots (R455 to R457), captures and triggers (R463 to R468),
the directory (R470) and the tag map (R472, R473).
-/
namespace Sys2Proof.Machine

def Dev.barrel (d : Dev) (b : Nat) : Barrel := Tbl.get {} d.barrels b

def Dev.onBarrel (d : Dev) (b : Nat) (f : Barrel → Barrel) : Dev := { d with barrels := Tbl.upd {} d.barrels b f }

def State.onBarrel (s : State) (b : Nat) (f : Barrel → Barrel) : State := s.onDev fun d => d.onBarrel b f

def Barrel.srcRec (b : Barrel) : BarSrc :=
  b.src.getD { port := 0, sel := 0, fmt := 0, segwrap := false, early := false, tmapBase := 0, tmap := 256, dirBase := 0 }

def Barrel.params (b : Barrel) : ArmParams := b.arm.getD { tsrc := 0, handle := 0, pre := 0, post := 0, nseg := 0 }

/-- Number of regions (R456). -/
def Barrel.regions (b : Barrel) : Nat := max b.params.nseg 1

/-- States 1 to 4. -/
def Barrel.armed (b : Barrel) : Bool :=
  match b.st with | .arming | .filling | .ready | .post => true | .idle | .stopped => false

/-- A capture is open. -/
def Barrel.writing (b : Barrel) : Bool :=
  match b.st with | .filling | .ready | .post => true | _ => false

/-- R455: unit bytes U and samples S_U of a format, for a real or a complex stream; none where it is not allowed. -/
def unitOf (fmt : Nat) (real : Bool) : Option (Nat × Nat) :=
  match fmt, real with
  | 0, true => some (192, 128)
  | 1, true => some (64, 32)
  | 3, true => some (320, 128)
  | 4, true => some (64, 16)
  | 2, false => some (64, 16)
  | 3, false => some (320, 64)
  | 4, false => some (64, 8)
  | _, _ => none

def Barrel.unit (b : Barrel) : Nat × Nat := (unitOf b.srcRec.fmt b.real).getD (64, 1)

/-- R457: region of the open capture and its origin. -/
def Barrel.region (b : Barrel) : Nat := b.capture % b.regions
def Barrel.origin (b : Barrel) : Nat := Tbl.get 0 b.origins b.region

def Barrel.slotOf (b : Barrel) (p : Nat) : Nat := (p - b.origin) % (max b.segcap 1)

/-- Session byte address of the unit that holds a slot, and the sample index within it (R456, R457). -/
def Barrel.unitAddr (b : Barrel) (slot : Nat) : Nat × Nat :=
  let (u, su) := b.unit
  (b.base + (b.region * b.unitsPerRegion + slot / su) * u, slot % su)

/-- Fine ticks of n sample periods (R15). -/
def Barrel.ticks (b : Barrel) (n : Int) : Int := roundDiv (n * (524288000000 * b.fb.den)) (max b.fb.num 1)

/-- Position and stamp of the first sample of the beat of a cell at position p. -/
def Barrel.beatOf (b : Barrel) (p : Nat) (q : QCell) : Int × Stamp := (p - q.idx, q.time - BitVec.ofInt 72 (b.ticks q.idx))

/-- Time of a position, from the stamp of the last beat and the stream rate (R471 text). -/
def Barrel.timeOf (b : Barrel) (p : Int) (now : Stamp) : Stamp :=
  match b.anchor with
  | none => now
  | some (p0, t0) => t0 + BitVec.ofInt 72 (b.ticks (p - p0))

/-- Samples of a cell of the stream. -/
def Barrel.perCell (b : Barrel) : Nat := if b.real then 2 else 1

/-- Position of the next sample that the stream delivers. -/
def Barrel.nextIn (b : Barrel) : Nat :=
  b.pos + b.pendHalf.isSome.toNat + b.queue.length * b.perCell + (b.gaps.map Prod.snd).foldl (· + ·) 0

/-- The first sample whose time, rounded to a fine tick, is at or after t, counted on from a position and its time. -/
def Barrel.ahead (b : Barrel) (p0 : Int) (t0 t : Stamp) : Int :=
  p0 - ((1 - 2 * stampDiff t t0) * b.fb.num) / (2 * 524288000000 * max b.fb.den 1)

/-- R464: the first sample whose time is at or after the occurrence's. A break of the stream holds no samples, and
nothing precedes position 0 from the tick of the ARM on. -/
def Barrel.sampleAt (b : Barrel) (t : Stamp) : Int :=
  match b.anchor with
  | none => 0
  | some (p0, t0) =>
    let x := b.ahead p0 t0 t
    let x := match b.prior with
      | some (p1, t1, q) => if x < q then min (q : Int) (b.ahead p1 t1 t) else x
      | none => x
    let x := if b.paused then min x (b.nextIn : Int) else x
    if 0 ≤ stampDiff t (stampOf b.armTick) then max x 0 else x

/-! Writing samples. -/

/-- Bytes of a Barrel's Shelves at a session address, Shelf by Shelf. -/
def State.shelfGet (s : State) (session a n : Nat) : List Byte :=
  (shelfPieces a n).flatMap fun (lo, k) => match s.dev.stk.translate session lo with
    | .phys p => s.mem.cellarGet p k
    | _ => List.replicate k 0

/-- Bytes into a Barrel's Shelves, which they mark as accessed (R159). -/
def State.shelfPut (s : State) (session a : Nat) (l : List Byte) : State :=
  (shelfPieces a l.length).foldl (fun s (lo, k) => match s.dev.stk.translate session lo with
    | .phys p => (s.onMem fun m => m.cellarPut p ((l.drop (lo - a)).take k)).onDev fun d => d.touch session (lo / shelfBytes)
    | _ => s) s

/-- One sample into its slot. A real sample is a half; a complex sample is a cell. -/
def Barrel.store (b : Barrel) (s : State) (p : Nat) (c : Cell) (half : Int) : State :=
  let n := b.owner.getD 0
  let (a, i) := b.unitAddr (b.slotOf p)
  if b.real then
    match b.srcRec.fmt with
    | 0 =>
      let at_ := a + i / 2 * 3
      let w := ofLeBytes (s.shelfGet n at_ 3)
      let v := (satS 12 (narrow half 6) % 4096).toNat
      s.shelfPut n at_ (leBytes 3 (if i % 2 = 0 then w / 4096 * 4096 + v else w % 4096 + v * 4096))
    | 1 => s.shelfPut n (a + 2 * i) (leBytes 2 (satS 16 (narrow half 2) % 65536).toNat)
    | f =>
      let k := if f = 3 then 5 else 8
      let at_ := a + i / 2 * k
      let w : BitVec 40 := BitVec.ofNat 40 (ofLeBytes (s.shelfGet n at_ k))
      let w := setFld w (if i % 2 = 0 then 18 else 0) 18 (half % 2 ^ 18).toNat
      s.shelfPut n at_ (leBytes k (setFld w 36 4 c.stored.tag.toNat).toNat)
  else
    match b.srcRec.fmt with
    | 2 => s.shelfPut n (a + 4 * i)
        (leBytes 2 (satS 16 (narrow c.hi 2) % 65536).toNat ++ leBytes 2 (satS 16 (narrow c.lo 2) % 65536).toNat)
    | f =>
      let k := if f = 3 then 5 else 8
      s.shelfPut n (a + k * i) (leBytes k (c.data.toNat + c.stored.tag.toNat * 2 ^ 36))

/-! Tag map (R472, R473). -/

/-- Write one tag map entry, then the count. -/
def State.tmapEntry (s : State) (b start kind len : Nat) : State :=
  let r := s.dev.barrel b
  let base := r.srcRec.tmapBase
  let e := base + 4 + 4 * (r.tmapCount % r.srcRec.tmap)
  let cells : List Cell :=
    [{ data := BitVec.ofNat 36 start }, { data := BitVec.ofNat 36 (start / 2 ^ 36 % 2 ^ 28 + kind * 2 ^ 28) },
     { data := BitVec.ofNat 36 len }, {}]
  let n := (r.tmapCount + 1) % 2 ^ 36
  let s := s.onMem fun m =>
    (m.loftPutRun e cells).loftPutRun base [{ data := BitVec.ofNat 36 n }, {}, {}, {}]
  s.onBarrel b fun r => { r with tmapCount := n }

/-- Raise a Barrel event (R482); it reaches only the owner (R858). -/
def Dev.barEvent (d : Dev) (b kind : Nat) (t : Stamp) : Dev := d.raise (0x100 + b * 4 + kind) t (d.barrel b).owner

/-- R470, R471, R474: write a directory entry, count the capture and raise kind 2. -/
def State.barWriteEntry (s : State) (b : Nat) (e : BarEntry) : State :=
  let r := s.dev.barrel b
  let wrap := decide ((r.tmapCount + 2 ^ 36 - e.tmapStart) % 2 ^ 36 > r.srcRec.tmap)
  let flags := e.flags ||| (if wrap then 0x20 else 0)
  let data := e.data ++ [e.ign.toNat + flags.toNat * 2 ^ 16]
  let s := s.onMem fun m => m.loftPutRun e.addr (data.map fun v => { data := BitVec.ofNat 36 v })
  let err := (if bit flags 0 then 0x01 else 0) ||| (if wrap then 0x08 else 0)
  s.onDev fun d =>
    (d.onBarrel b fun r => { r with caps := BitVec.ofNat 32 (satInc 32 r.caps.toNat), err := r.err ||| err }).barEvent b 2 e.time

/-- The directory entries that waited for the open run of a tag. -/
def State.barWriteEntries (s : State) (b : Nat) : State :=
  (s.dev.barrel b).entries.foldl (fun s e => s.barWriteEntry b e) (s.onBarrel b fun r => { r with entries := [] })

/-- End the open run of a tag: its entry, then the directory entries that waited for it (R471, R473). -/
def State.tmapFlush (s : State) (b : Nat) : State :=
  match (s.dev.barrel b).run with
  | none => s
  | some (p, k, n) => ((s.tmapEntry b p k n).onBarrel b fun r => { r with run := none }).barWriteEntries b

/-- Kinds of R472: SETTLING 1, OVERRANGE 2, GAP 3, MARK 4; a reserved tag counts as GAP (R20). -/
def tagKind (t : BitVec 4) : Nat := if tagReserved t then 3 else if t.toNat ≤ 4 then t.toNat else 0

/-- Record the tag of position p. -/
def State.tmapTag (s : State) (b p : Nat) (t : BitVec 4) : State :=
  let k := tagKind t
  match (s.dev.barrel b).run with
  | some (p0, k0, n) =>
    -- a MARK gives a span of its own, which on a real stream holds the two samples of its cell
    if k = k0 ∧ (k ≠ 4 ∨ ((s.dev.barrel b).real ∧ p % 2 = 1)) then s.onBarrel b fun r => { r with run := some (p0, k0, n + 1) }
    else
      let s := s.tmapFlush b
      if k = 0 then s else s.onBarrel b fun r => { r with run := some (p, k, 1) }
  | none => if k = 0 then s else s.onBarrel b fun r => { r with run := some (p, k, 1) }

/-! Captures. -/

/-- Count an occurrence ignored or dropped (R465). -/
def Dev.barIgnore (d : Dev) (b : Nat) : Dev :=
  d.onBarrel b fun r =>
    { r with
      ign := BitVec.ofNat 32 (satInc 32 r.ign.toNat)
      capIgn := if r.writing then BitVec.ofNat 16 (satInc 16 r.capIgn.toNat) else r.capIgn }

/-- FILLING becomes READY once PRE samples are held. -/
def Dev.barReady (d : Dev) (b : Nat) : Dev :=
  let r := d.barrel b
  if r.st = .filling ∧ r.pos - r.start ≥ r.params.pre then
    let d := d.onBarrel b fun r => { r with st := .ready }
    d.barEvent b 0 (r.timeOf (r.start + max r.params.pre 1 - 1 : Nat) d.stamp)
  else d

/-- R466: accept a trigger at t with earliest position S. -/
def Dev.barAccept (d : Dev) (b : Nat) (t : Int) (time : Stamp) (S : Nat) (flag : BitVec 6) : Dev :=
  let r := d.barrel b
  let e := max (t + r.params.post - 1) ((r.pos : Int) - 1)
  let d := d.onBarrel b fun r =>
    { r with
      st := .post, tpos := t.toNat, npre := min (r.params.pre : Int) (t - S), lastPos := e, trigTime := time
      flags := r.flags ||| flag }
  d.barEvent b 1 time

/-- R465: an occurrence with trigger sample t. -/
def Dev.barTake (d : Dev) (b : Nat) (t : Int) (time : Stamp) : Dev :=
  let r := d.barrel b
  if t < 0 then d else
  match r.st with
  | .idle | .arming | .stopped => d
  | .filling =>
    if r.capture = 0 ∧ r.srcRec.early then d.barAccept b t time (max r.start (r.pos - r.segcap)) 0x01
    else d.barIgnore b
  | .ready => d.barAccept b t time (max r.start (r.pos - r.segcap)) 0
  | .post =>
    if t > r.lastPos then d.onBarrel b fun r => { r with later := r.later ++ [(t.toNat, time)] }
    else if r.held.isNone ∧ (r.params.nseg ≥ 2 ∨ (r.params.nseg = 1 ∧ r.srcRec.segwrap)) then
      d.onBarrel b fun r => { r with held := some (t.toNat, time) }
    else d.barIgnore b

/-- Open capture k at a start position (R457, R467). -/
def Dev.barOpen (d : Dev) (b k start : Nat) : Dev :=
  let r := d.barrel b
  let reg := k % r.regions
  let held := r.held
  let d := d.onBarrel b fun r =>
    { r with
      st := .filling, capture := k, start, tpos := 0, npre := 0, lastPos := 0, capIgn := 0, flags := 0, held := none
      tmapStart := r.tmapCount
      origins := if k = 0 ∨ reg ≠ (k - 1) % r.regions then Tbl.set r.origins reg start else r.origins }
  let d := d.onBarrel b fun r => { r with later := [] }
  let d := match held with
    | some (t, time) => d.barAccept b t time start 0x02
    | none => d.barReady b
  r.later.foldl (fun d (t, time) => d.barTake b t time) d

/-- LEN of the record: PRE plus POST samples, cut at the last position written (R466, R469). -/
def Barrel.len (r : Barrel) (cut : Bool) : Int :=
  let full := r.npre + r.params.post
  if cut then max 0 (min full ((r.pos : Int) - (r.tpos - r.npre))) else full

/-- R465, R468, R469: a held trigger that no capture takes is dropped and counted. -/
def Dev.barDropHeld (d : Dev) (b : Nat) : Dev :=
  if (d.barrel b).held.isSome then (d.barIgnore b).onBarrel b fun r => { r with held := none } else d

/-- R470, R471: the directory entry of the open capture. It waits for the entry of a tag run that is open over its record. -/
def State.barEntry (s : State) (b : Nat) (cut : Bool) (flag : BitVec 6) : State :=
  let r := s.dev.barrel b
  let first := ((r.tpos : Int) - r.npre - r.origin) % (max r.segcap 1)
  let data : List Nat :=
    [r.trigTime.toNat % 2 ^ 36, r.trigTime.toNat / 2 ^ 36, r.tpos % 2 ^ 36, r.tpos / 2 ^ 36 % 2 ^ 28, first.toNat,
     (r.npre % 2 ^ 36).toNat, (r.len cut % 2 ^ 36).toNat]
  let e : Int := if cut then (r.pos : Int) - 1 else r.lastPos
  let x : BarEntry :=
    { addr := r.srcRec.dirBase + 8 * r.region, data, ign := r.capIgn, flags := r.flags ||| flag, tmapStart := r.tmapStart
      time := r.timeOf e s.dev.stamp }
  if !r.entries.isEmpty ∨ r.run.any (fun (p, _, _) => (p : Int) < r.tpos + r.params.post) then
    s.onBarrel b fun r => { r with entries := r.entries ++ [x] }
  else s.barWriteEntry b x

/-- Loft pages of the tag map and the directory, which hold references while armed (R460). -/
def Barrel.pages (r : Barrel) : List Nat :=
  let q := r.srcRec
  let span := fun a n : Nat => (List.range ((a + n - 1) / 16384 - a / 16384 + 1)).map (a / 16384 + ·)
  dedup (span q.tmapBase (4 + 4 * q.tmap) ++ span q.dirBase (8 * r.regions))

/-- References of an armed Barrel, taken or released (R163, R460). -/
def Stk.holdBarrel (k : Stk) (r : Barrel) (up : Bool) : Stk :=
  let n := r.owner.getD 0
  let k := k.refHandle n r.params.handle up
  { k with
    loft := k.loft.map fun (a, g) =>
      if r.pages.contains a then (a, { g with refs := if up then g.refs + 1 else g.refs - 1 }) else (a, g) }

/-- Release the reservation, pins and references (R460, R163) and enter STOPPED. -/
def State.barStop (s : State) (b : Nat) : State :=
  let s := s.tmapFlush b
  let r := s.dev.barrel b
  s.onDev fun d =>
    let k := d.stk.pinHandle (r.owner.getD 0) r.params.handle false
    let d := { d with stk := (k.holdBarrel r false).reclaim }
    let d := d.onBarrel b fun r =>
      { r with st := .stopped, held := none, later := [], wait := [], res := {}, queue := [], gaps := [], pendHalf := none }
    d.barEvent b 3 (r.timeOf (r.pos - 1 : Nat) d.stamp)

/-- The setting of a Barrel that an ARM changes, and a Barrel put back to it. -/
def Barrel.setup (r : Barrel) : BarSetup :=
  { st := r.st, arm := r.arm, real := r.real, fb := r.fb, unitsPerRegion := r.unitsPerRegion, segcap := r.segcap, base := r.base
    lat := r.lat, caps := r.caps, pos := r.pos }
def Barrel.restore (r : Barrel) (x : BarSetup) : Barrel :=
  { r with
    st := x.st, arm := x.arm, real := x.real, fb := x.fb, unitsPerRegion := x.unitsPerRegion, segcap := x.segcap, base := x.base
    lat := x.lat, caps := x.caps, pos := x.pos }

/-- R459: the ARM of a Barrel fails while it pages, which changes nothing of the Barrel. -/
def Dev.armFail (d : Dev) (b : Nat) (st : Status) : Dev :=
  let r := d.barrel b
  match r.armUid with
  | none => d
  | some uid =>
    let d := { d with stk := (d.stk.pinHandle (r.owner.getD 0) r.params.handle false).reclaim }
    (d.onBarrel b fun r => { r.restore (r.before.getD { r.setup with st := .idle }) with armUid := none, before := none }).finish uid st

/-- Stop a Barrel before its time: an open capture in POST closes at the last position written with the flag set; a
capture in FILLING or READY is discarded (R469, R479, R779); an ARM under way fails. -/
def State.barAbort (s : State) (b : Nat) (flag : BitVec 6) : State :=
  let r := s.dev.barrel b
  if r.st = .arming then s.onDev fun d => d.armFail b (if flag == 0x08 then .portDown else .cancelled)
  else if !r.armed then s else
  let s := s.onDev fun d => d.barDropHeld b
  let s := if r.st = .post then (s.tmapFlush b).barEntry b true flag else s
  s.barStop b

/-- R468: capture k ends; the Barrel stops or the next capture opens. -/
def State.barClose (s : State) (b : Nat) : State :=
  let r := s.dev.barrel b
  let last := r.params.nseg = 0 ∨ (!r.srcRec.segwrap ∧ r.capture + 1 = r.params.nseg)
  let s := if last then (s.onDev fun d => d.barDropHeld b).tmapFlush b else s
  let s := s.barEntry b false 0
  if last then s.barStop b else s.onDev fun d => d.barOpen b (r.capture + 1) (r.lastPos + 1).toNat

/-- One sample of the writer: store it, note its tag, advance, and become READY when due. In POST nothing is written
past the end position until the capture closes. -/
def State.barSample (s : State) (b : Nat) (c : Cell) (half : Int) : State :=
  let r := s.dev.barrel b
  let s := (r.store s r.pos c half).tmapTag b r.pos c.tag
  s.onDev fun d => (d.onBarrel b fun r => { r with pos := r.pos + 1 }).barReady b

/-- Whether the writer may write at its position. -/
def Barrel.mayWrite (r : Barrel) : Bool :=
  match r.st with
  | .filling | .ready => true
  | .post => decide (r.pos ≤ r.lastPos)
  | _ => false

/-- R481: n samples that cannot be written: a GAP span, LOSS on the capture, one record per first loss. -/
def State.barLoss (s : State) (b n : Nat) : State :=
  let r := s.dev.barrel b
  if !r.writing ∨ n = 0 then s else
  let first := !bit r.err 1
  let s := (List.range n).foldl (fun s _ =>
    let p := (s.dev.barrel b).pos
    (s.tmapTag b p tagGap).onBarrel b fun r => { r with pos := r.pos + 1 }) s
  let s := s.onBarrel b fun r => { r with err := r.err ||| 0x02, flags := r.flags ||| 0x10 }
  if first then s.onDev fun d => d.degraded .ok domCap 0x28 (cause := 1) (detail := b) else s

/-- R480: the cells that follow a break have come: its entry goes into the tag map. -/
def State.barBreak (s : State) (b : Nat) : State :=
  let r := s.dev.barrel b
  match r.gaps with
  | (0, 0) :: rest =>
    if r.queue.isEmpty then s else
    let s := s.onBarrel b fun r => { r with gaps := rest, prior := r.anchor.map fun (p, t) => (p, t, r.pos) }
    if r.anchor.isSome then (s.tmapFlush b).tmapEntry b r.pos 3 0 else s
  | _ => s

/-- R464: occurrences that waited for the first sample are taken. -/
def Dev.barWaited (d : Dev) (b : Nat) : Dev :=
  let r := d.barrel b
  r.wait.foldl (fun d t => d.barTake b ((d.barrel b).sampleAt t) t) (d.onBarrel b fun r => { r with wait := [] })

/-- Take one cell of the writer queue (R457, R461). -/
def State.barCell (s : State) (b : Nat) : State :=
  if !(s.dev.barrel b).mayWrite then s else
  match (s.dev.barrel b).pendHalf with
  | some (h, t) => (s.onBarrel b fun r => { r with pendHalf := none }).barSample b { tag := t } h
  | none =>
    let s := s.barBreak b
    let r := s.dev.barrel b
    match r.gaps with
    | (0, n + 1) :: rest =>
      -- lost samples take their positions, up to the end of a capture that is to close
      let k := if r.st = .post then min (n + 1) (r.lastPos + 1 - r.pos).toNat else n + 1
      (s.onBarrel b fun r => { r with gaps := if k < n + 1 then (0, n + 1 - k) :: rest else rest }).barLoss b k
    | _ =>
    match r.queue with
    | [] => s
    | q :: rest =>
      let s := s.onBarrel b fun r => { r with queue := rest, gaps := r.gaps.map fun (i, n) => (i - 1, n) }
      if r.anchor.isNone ∧ stampDiff q.time (stampOf r.armTick) < 0 then s else
      let s := s.onBarrel b fun r => { r with anchor := some (r.beatOf r.pos q) }
      let s := if r.wait.isEmpty then s else s.onDev fun d => d.barWaited b
      if !(s.dev.barrel b).mayWrite then s.onBarrel b fun r => { r with queue := q :: r.queue, gaps := r.gaps.map fun (i, n) => (i + 1, n) } else
      if !r.real then s.barSample b q.cell 0 else
      let s := s.barSample b q.cell q.cell.hi
      if (s.dev.barrel b).mayWrite then s.barSample b q.cell q.cell.lo
      else s.onBarrel b fun r => { r with pendHalf := some (q.cell.lo, q.cell.tag) }

/-! Arming. -/

/-- Whether every Shelf of a handle is resident. -/
def Stk.allResident (k : Stk) (session handle : Nat) : Bool :=
  k.shelves.all fun e => !(e.session == session && e.handle == handle) || (match e.place with | .resident _ => true | _ => false)

/-- Stream bytes/s: f_b times the bytes per sample (R460). -/
def Barrel.rate (r : Barrel) : Rate :=
  let (u, su) := r.unit
  { num := r.fb.num * u, den := r.fb.den * su }

/-- R49, R461, R676: the ARM completes once its Shelves are resident and no stack is in self-refresh; the writer starts at
position 0, the token bucket empty (log entry 78). -/
def Dev.armDone (d : Dev) (b : Nat) : Dev :=
  let r := d.barrel b
  match r.armUid with
  | none => d
  | some uid =>
    if !d.stk.allResident (r.owner.getD 0) r.params.handle || d.cel.selfref != 0 then d else
    let d := { d with stk := d.stk.holdBarrel r true }
    let d := d.finish uid .ok 0 b
    let d := { d with cel := { d.cel with buckets := Tbl.set d.cel.buckets b (0, d.tim.ticks) } }
    let d := d.onBarrel b fun r =>
      { r with
        armUid := none, before := none, armTick := d.now, pos := 0, anchor := none, res := r.rate, origins := [], run := none, entries := [], gapNext := false
        later := [], held := none, pendHalf := none, paused := false, queue := [], gaps := [], prior := none, wait := [], tmapCount := 0 }
    d.barOpen b 0 0

/-- R472: where that completes an ARM, its tag map starts without entries. -/
def State.armDone (s : State) (b : Nat) : State :=
  let t := s.onDev fun d => d.armDone b
  if (s.dev.barrel b).armUid.isSome ∧ (t.dev.barrel b).writing then
    t.onMem fun m => m.loftPutRun (t.dev.barrel b).srcRec.tmapBase [{}, {}, {}, {}]
  else t

/-- R676: after an exit from self-refresh, the ARMs that met it complete. -/
def State.armsAwake (s : State) : State :=
  (s.dev.barrels.map (·.1)).foldl (fun s b => s.armDone b) s

/-- A Cellar address in a Shelf of an armed Barrel (R477). -/
def Dev.captured (d : Dev) (a : Nat) : Bool :=
  d.barrels.any fun (_, r) => r.armed && d.stk.shelves.any fun e =>
    e.session == r.owner.getD 0 && e.handle == r.params.handle && e.place == .resident (a / shelfBytes)

/-- A write of the host or of a program into the Cellar. Bytes written into a Shelf of an armed Barrel become undefined:
they are free values (R477). -/
def State.cellarStore (s : State) (a : Nat) (l : List Byte) : State :=
  if s.dev.captured a then
    let c := s.dev.freeCtr
    let l' := (List.range l.length).map fun i => BitVec.ofNat 8 (Config.freeWord (c + i)).toNat
    (s.onMem fun m => m.cellarPut a l').onDev fun d => { d with freeCtr := c + l.length }
  else s.onMem fun m => m.cellarPut a l

end Sys2Proof.Machine
end

