-- ==== Sys2Proof/Machine/IngressOps.lean ====
section
/-!
DEFINITION. Ingress records and rates (R209 to R216, R254, R264, R265, R860), the active lanes, trims and their
interpolation (R267 to R272), and the calibration method (R42 to R44).
-/
namespace Sys2Proof.Machine

def Dev.port (d : Dev) (p : Nat) : Ing := Tbl.get {} d.ing p
def Dev.onPort (d : Dev) (p : Nat) (f : Ing → Ing) : Dev := { d with ing := Tbl.upd {} d.ing p f }

/-- R235, R252: a port is in FAULT, or the upper port of its pair is. -/
def Dev.streamDown (d : Dev) (p : Nat) : Bool :=
  (d.port p).st == .fault || d.upperPort (p + 1) && (d.port (p + 1)).st == .fault

def Ing.lane (g : Ing) (p : Nat) : Lane := Tbl.get {} g.lanes p
def Ing.onLane (g : Ing) (p : Nat) (f : Lane → Lane) : Ing := { g with lanes := Tbl.upd {} g.lanes p f }

/-! LINK (R209, R212, R213, R264). -/

/-- The fields of a LINK record. -/
structure Link where
  fsK : Nat
  cplx : Bool
  bond : Bool
  div : Nat
  fb : Bool
  l : Nat
  m : Nat
  s : Nat
  n : Nat
  np : Nat
  cs : Nat
  f : Nat
  e : Nat
  crc : Nat
  crcAct : Bool
  ovrCs : Bool
  swap : Bool
  k : Nat
deriving DecidableEq, Repr

def Link.of (c : List (BitVec 36)) : Link :=
  let a := cellOf c 0
  let b := cellOf c 1
  let x := cellOf c 2
  { fsK := fld a 0 25, cplx := bit a 25, bond := bit a 26, div := 2 ^ fld a 27 2, fb := bit a 29
    l := fld b 0 4, m := fld b 4 5, s := fld b 9 6, n := fld b 15 5, np := 8 + 4 * fld b 20 2, cs := fld b 22 2, f := fld b 24 8 + 1
    e := fld x 0 5 + 1, crc := fld x 5 2, crcAct := bit x 7, ovrCs := bit x 8, swap := bit x 9, k := fld x 10 4 }

/-- Real-equivalent sample rate in kHz. -/
def Link.fs (k : Link) : Nat := if k.cplx then 2 * k.fsK else k.fsK

/-- Sample rate of the port's stream in kHz (R300 text). -/
def Link.f0 (k : Link) : Nat := if k.bond then 2 * k.fsK else k.fsK

/-- The time of a position num / den samples after the first of a beat with stamp t0, rounded to the nearest fine tick
under R15 (R260, R329, R396). -/
def Link.timeAt (k : Link) (t0 : Stamp) (num : Int) (den : Nat) : Stamp :=
  t0 + BitVec.ofInt 72 (roundDiv (num * 524288000) (den * max k.f0 1))

/-- Whether the exact time of sample i after one with stamp t0 is at or after T (R260, R333). -/
def Link.reaches (k : Link) (t0 : Stamp) (i : Nat) (T : Stamp) : Bool :=
  decide (stampDiff T t0 * (max k.f0 1 : Nat) ≤ (i * 524288000 : Nat))

/-- Samples per beat of the port's stream: a bonded beat holds both ports' (R33, R250). -/
def Link.perBeat (k : Link) : Nat := if k.cplx then 5 else if k.bond then 20 else 10

/-- Entries of a correction table (R246, R251). -/
def Link.entries (k : Link) : Nat := if k.cplx then 2 else if k.bond then 2 * k.k else k.k

/-- Lane rate in kHz × 64 × L, with L lanes active (R212). -/
def Link.laneRate64L (k : Link) : Nat := k.fs * k.np * 66

/-- Whether the lane rate with l lanes is at most r kHz. -/
def Link.laneAtMost (k : Link) (l r : Nat) : Bool := decide (k.laneRate64L ≤ r * 64 * l)

def linkReserved (c : List (BitVec 36)) : Bool :=
  fld (cellOf c 0) 30 6 == 0 && fld (cellOf c 1) 32 4 == 0 && fld (cellOf c 2) 14 22 == 0

/-- R860: a LINK of a port as it is written: its field ranges and R209. -/
def linkFits (port : Nat) (c : List (BitVec 36)) : Bool :=
  let k := Link.of c
  linkReserved c && decide (fld (cellOf c 1) 20 2 ≤ 2) && decide (k.cs ≤ 2) && decide (k.crc ≤ 2) &&
  decide (1 ≤ k.l ∧ k.l ≤ 8) && [1, 2, 4, 8, 16].contains k.m && (!k.cplx || k.m != 1) &&
  decide (1 ≤ k.s ∧ k.s ≤ 32) && decide (8 ≤ k.n ∧ k.n ≤ 16) && decide (k.n + k.cs ≤ k.np) &&
  k.m * k.s * k.np == 8 * k.l * k.f && 256 * k.e % k.f == 0 &&
  decide (1 ≤ k.k ∧ k.k ≤ 8) && (!k.cplx || k.k == 1) && !(k.bond && port % 2 == 1) &&
  decide (2000000 * 64 * k.l ≤ k.laneRate64L) && k.laneAtMost k.l 32500000

/-- R209, R212, R213, R38 and R248 of a LINK of a port, as it commits; that both ports are idle stands apart. -/
def linkOk (port : Nat) (c : List (BitVec 36)) : Bool :=
  let k := Link.of c
  linkFits port c && !(k.bond && k.cplx) &&
  (if k.cplx then decide (1280000 ≤ k.fsK ∧ k.fsK ≤ 10240000) else decide (2560000 ≤ k.fsK ∧ k.fsK ≤ 20480000)) &&
  decide (64000 * 10 * k.div ≤ k.fs ∧ k.fs ≤ 2048000 * 10 * k.div)

/-- R254: P_SYNC holds whole LEMCs. -/
def lemcOk (k : Link) (pSync : Nat) : Bool := pSync * 10 * k.np % (k.e * 2048 * k.l) == 0

/-! SYNC. -/

def syncOk (c : List (BitVec 36)) : Bool :=
  let a := cellOf c 0
  let p := fld (cellOf c 1) 0 16
  decide (fld a 0 2 ≤ 2) && fld a 9 3 == 0 && fld a 25 11 == 0 && fld (cellOf c 1) 16 20 == 0 && decide (1 ≤ p ∧ fld a 12 13 < p)

/-! Records in force. -/

/-- The LINK in force on a port: the lower port's, in a bonded pair (R248). -/
def Dev.link? (d : Dev) (p : Nat) : Option Link :=
  let own := (d.rec? p 1).map Link.of
  if p % 2 = 1 then
    match (d.rec? (p - 1) 1).map Link.of with
    | some k => if k.bond then some k else own
    | none => own
  else own

def Dev.bonded (d : Dev) (p : Nat) : Bool := (d.link? p).any (·.bond)

def Dev.sync (d : Dev) (p : Nat) : List (BitVec 36) := (d.rec? (if d.upperPort p then p - 1 else p) 3).getD []
def Dev.srMode (d : Dev) (p : Nat) : Nat := fld (cellOf (d.sync p) 0) 0 2
def Dev.srDly (d : Dev) (p : Nat) : Nat := fld (cellOf (d.sync p) 0) 2 4
def Dev.srWin (d : Dev) (p : Nat) : Nat := fld (cellOf (d.sync p) 0) 6 3
def Dev.release (d : Dev) (p : Nat) : Nat := fld (cellOf (d.sync p) 0) 12 13
def Dev.pSync (d : Dev) (p : Nat) : Nat := max 1 (fld (cellOf (d.sync p) 1) 0 16)

/-! Lanes (R216, R860). -/

/-- R216: a LANEMAP fits L. -/
def lanemapMeets (l : Nat) (c : List (BitVec 36)) : Bool :=
  let phy := fun j => fld (cellOf c 0) (4 * j) 4
  fld (cellOf c 0) 34 2 == 0 &&
  ((List.range 8).all fun j => if j < l then decide (phy j ≤ 8) else phy j == 15) &&
  (dedup ((List.range l).map phy)).length == l

/-- R860: the field ranges of a LANEMAP: a physical lane, or 0xF. -/
def lanemapFits (c : List (BitVec 36)) : Bool :=
  fld (cellOf c 0) 34 2 == 0 &&
    (List.range 8).all fun j => let p := fld (cellOf c 0) (4 * j) 4; decide (p ≤ 8 ∨ p = 15)

/-- R293: no logical lane on a retired lane. -/
def lanemapRetired (g : Ing) (c : List (BitVec 36)) : Bool :=
  (List.range 8).any fun j => let p := fld (cellOf c 0) (4 * j) 4; decide (p ≤ 8) && (g.lane p).retired

/-- R216, R293: a LANEMAP fits L and names no retired lane. -/
def lanemapOk (g : Ing) (l : Nat) (c : List (BitVec 36)) : Bool := lanemapMeets l c && !lanemapRetired g c

/-- The LANEMAP in force, if it still meets R216 (R860). -/
def Dev.lanemap? (d : Dev) (p : Nat) : Option (BitVec 36) :=
  match d.rec? p 2, d.link? p with
  | some c, some k => if lanemapMeets k.l c then some (cellOf c 0) else none
  | _, _ => none

/-- Physical lanes that are not retired, lowest first. -/
def Ing.sound (g : Ing) : List Nat := (List.range 9).filter fun q => !(g.lane q).retired

/-- Physical lanes that the map in force names for the logical lanes (R860). -/
def Dev.namedLanes (d : Dev) (p : Nat) : List Nat :=
  let l := (d.link? p).elim 0 (·.l)
  match d.lanemap? p with
  | some c => (List.range l).map fun j => fld c (4 * j) 4
  | none => (d.port p).sound.take l

def Dev.spareEn (d : Dev) (p : Nat) : Bool := (d.lanemap? p).any fun c => bit c 32
def Dev.spselEn (d : Dev) (p : Nat) : Bool := (d.lanemap? p).any fun c => bit c 33

/-- The spare: the lowest physical lane that no logical lane names and that is not retired. -/
def Dev.spare? (d : Dev) (p : Nat) : Option Nat :=
  let base := d.namedLanes p
  (d.port p).sound.find? fun q => !base.contains q

/-- R223, R291: the port has a usable spare. -/
def Dev.usableSpare (d : Dev) (p : Nat) : Bool :=
  d.spareEn p && d.spselEn p && !(d.port p).noSpare && (d.spare? p).isSome

/-- The first logical lane whose lane is retired, and the spare that replaces it for good (R229, R290). -/
def Dev.replaced? (d : Dev) (p : Nat) : Option (Nat × Nat) :=
  if !d.usableSpare p then none else
  match (d.namedLanes p).findIdx? fun q => ((d.port p).lane q).retired, d.spare? p with
  | some j, some sp => some (j, sp)
  | _, _ => none

/-- Physical lanes of the logical lanes at link-up; a port that has fallen back takes the lowest for half of them (R232,
R234). -/
def Dev.startMap (d : Dev) (p : Nat) : List Nat :=
  if (d.port p).fallen then (d.port p).sound.take ((d.link? p).elim 0 (·.l) / 2)
  else match d.replaced? p with
    | some (j, sp) => (d.namedLanes p).set j sp
    | none => d.namedLanes p

/-- Active logical lanes. -/
def Ing.active (g : Ing) : Nat := g.map.length

/-- Lane rate at most r kHz with the lanes now active. -/
def Dev.rateAtMost (d : Dev) (p r : Nat) : Bool :=
  (d.link? p).any fun k => k.laneAtMost (max 1 (if (d.port p).map.isEmpty then k.l else (d.port p).active)) r

/-! Calibration method (R42). -/

/-- 0 in place, 1 through the spare, 2 frozen. -/
def Dev.methodOf (d : Dev) (p : Nat) : Nat :=
  if d.rateAtMost p 16500000 ∧ !d.bonded p then 0
  else if d.usableSpare p ∧ !(d.port p).sparePerm then 1 else 2

def Ing.emits (g : Ing) : Bool := match g.st with | .run | .degraded => true | _ => false

/-- CAL_STAT METHOD (R275). -/
def Dev.method (d : Dev) (p : Nat) : Nat := if (d.port p).calEn && (d.port p).emits then d.methodOf p else 3

/-- R43, R44, R261: follow the frozen state of a port that runs. -/
def Dev.calCheck (d : Dev) (p : Nat) : Dev :=
  let g := d.port p
  if !g.emits then d.onPort p fun g => { g with frozen := false } else
  let frozen := d.methodOf p == 2
  let d := if frozen && !g.frozen then d.degraded .linkDegraded (d.portDom p) (BitVec.ofNat 8 p) else d
  d.onPort p fun g => { g with frozen, st := if g.fallen || frozen then .degraded else .run }

/-- Rate band (R269). -/
def Dev.band (d : Dev) (p : Nat) : Nat :=
  if d.rateAtMost p 8250000 then 0 else if d.rateAtMost p 16500000 then 1 else if d.rateAtMost p 24750000 then 2 else 3

/-! Trims (R268, R271, R272, R297 to R299). -/

/-- Offset of a record in the Attic by TYPE (R801). -/
def atticOffset (typ : Nat) : Nat :=
  if typ ≤ 6 then typ * 0x1000 else if typ = 7 then 0x9000 else (typ + 2) * 0x1000

/-- R802: the header of a record. -/
def atticHeader (typ : Nat) (body : List Byte) : List Byte :=
  leBytes 4 0x7C5AD964 ++ leBytes 2 typ ++ leBytes 2 1 ++ leBytes 4 body.length ++ leBytes 4 (crc32c body)

/-- Byte i of the body of a port's factory record: the anchors −20, 15, 50, 85 and 120 °C, no lane retired and every set
valid (R297). -/
def factoryByte (p i : Nat) : Byte :=
  if i < 8 then ([0xEC, 15, 50, 85, 120, 0, 0, 0][i]?).getD 0
  else byteAt (setFld ((Config.factoryTrim (p * 180 + (i - 8) / 8)).zeroExtend 64) 63 1 1) ((i - 8) % 8)

/-- An Attic byte: of a factory record that still stands, or what has been written; 0 elsewhere (log entry 5). -/
def Mem.atticByte (m : Mem) (a : Nat) : Byte :=
  let p := a / 0x1000 - 2
  let i := a % 0x1000
  if 0x2000 ≤ a ∧ p < 4 ∧ i < 16 + 1448 ∧ bit m.factory p then
    if i < 16 then ((atticHeader (2 + p) ((List.range 1448).map (factoryByte p)))[i]?).getD 0 else factoryByte p (i - 16)
  else Tbl.get 0 m.attic a

/-- A run of Attic bytes. -/
def Mem.atticRun (m : Mem) (a n : Nat) : List Byte := (List.range n).map fun i => m.atticByte (a + i)

/-- Body bytes of a record that the Attic holds as valid. -/
def State.atticBody (s : State) (typ off n : Nat) : Option (List Byte) :=
  if bit s.dev.atc.valid typ then some (s.mem.atticRun (atticOffset typ + 16 + off) n) else none

/-- The body a record will have once the writes that wait are done; zeros stand for an absent record. -/
def State.latestBody (s : State) (typ n : Nat) : List Byte :=
  match (s.dev.atc.jobs.filter fun (j, t, _) => t == typ && (match j with | .hostArea _ => false | _ => true)).getLast? with
  | some (.hostInvalidate, _, _) => List.replicate n 0
  | some (_, _, body) => body
  | none => (s.atticBody typ 0 n).getD (List.replicate n 0)

/-- R292: the port's record with its RETIRED map replaced is to be written. -/
def State.putRetired (s : State) (p : Nat) : State :=
  let body := s.latestBody (2 + p) 1448
  let map := (List.range 9).foldl (fun m i => m + (if (Tbl.get {} (Tbl.get {} s.dev.ing p).lanes i : Lane).retired then 2 ^ i else 0)) 0
  s.onDev fun d => d.atticPush (.retired p) (2 + p) (body.take 6 ++ leBytes 2 map ++ body.drop 8)

/-- Anchor temperatures of a port in units of 1/8 °C, if its record is valid and they rise. -/
def State.anchors (s : State) (p : Nat) : List Int :=
  match s.atticBody (2 + p) 0 5 with
  | none => []
  | some b =>
    let t := b.map fun x => x.toInt * 8
    if (t.zip (t.drop 1)).all fun (a, c) => a < c then t else []

/-- The stored set of a lane, band and anchor. -/
def State.storedSet (s : State) (p lane band t : Nat) : BitVec 64 :=
  match s.atticBody (2 + p) (8 + 8 * ((lane * 4 + band) * 5 + t)) 8 with
  | some b => BitVec.ofNat 64 (ofLeBytes b)
  | none => 0

/-- Fields of a trim set: low bit, width, signed. -/
def trimFields : List (Nat × Nat × Bool) :=
  [(0, 5, false), (5, 7, true), (12, 6, true), (18, 6, true), (24, 6, true), (30, 6, true), (36, 6, true), (42, 6, true), (48, 6, true)]

def trimField (w : BitVec 64) (x : Nat × Nat × Bool) : Int := if x.2.2 then sfld w x.1 x.2.1 else (fld w x.1 x.2.1 : Nat)

/-- The default set: CTLE 8, the rest 0. -/
def trimDefault : BitVec 64 := 8

/-- Valid anchors of a band, temperature and set, rising. -/
def State.validSets (s : State) (p lane band : Nat) : List (Int × BitVec 64) :=
  ((s.anchors p).zipIdx.map fun (t, i) => (t, s.storedSet p lane band i)).filter fun x => bit x.2 63

/-- R271, R272: the interpolated set. -/
def State.interpolated (s : State) (p lane : Nat) : BitVec 64 :=
  let t := (s.dev.port p).temp.toInt
  let sets := s.validSets p lane (s.dev.band p)
  match sets.filter (fun x => x.1 < t), sets.filter (fun x => t ≤ x.1) with
  | [], [] => trimDefault
  | [], h :: _ => h.2
  | lo, [] => (lo.getLast?).elim trimDefault (·.2)
  | lo, h :: _ =>
    match lo.getLast? with
    | none => h.2
    | some l =>
      let den := h.1 - l.1
      trimFields.foldl (fun w x =>
        let a := trimField l.2 x
        let b := trimField h.2 x
        let num := a * den + (b - a) * (t - l.1)
        setFld w x.1 x.2.1 (((2 * num + den) / (2 * den)) % 2 ^ x.2.1).toNat) (0x8000000000000000 : BitVec 64)

/-- A lane's applied trims change. -/
def Lane.setTrims (x : Lane) (w : BitVec 64) (now : BitVec 64) : Lane := { x with trims := w, trimTick := now }

/-- A lane starts acquiring from its interpolated set (R273, R298). -/
def State.acquire (s : State) (p lane cal : Nat) : State :=
  let w := s.interpolated p lane
  s.onDev fun d => d.onPort p fun g => g.onLane lane fun x =>
    { x.setTrims w d.tim.ticks with
      cal, cdr := false, bsync := false, emb := false, buf := [], idx := none, hdrs := 0, crcs := 0, crcGood := 0 }

end Sys2Proof.Machine
end

