-- ==== Sys2Proof/Machine/Numeric.lean ====
section
/-!
DEFINITION. Fixed functions of the sample path: sine and cosine (R304), the resampler prototype (R309) and the log power
codes (R5 to R9), in exact integer arithmetic.
-/
namespace Sys2Proof.Machine

/-- Fixed point with 192 fraction bits. -/
def fxOne : Int := 2 ^ 192
def fxMul (a b : Int) : Int := (a * b) >>> 192

/-- π with 192 fraction bits. -/
def fxPi : Int := 19720096697726538562396133364228268891463450865190089732560

/-- Σ (−1)^k x^(2k+1) / (2k+1)!, the sine series, by its terms. -/
def sinSeries (x2 : Int) : Nat → Nat → Int → Int
  | 0, _, _ => 0
  | fuel + 1, k, term => term + sinSeries x2 fuel (k + 1) (-(fxMul term x2) / ((2 * k + 2) * (2 * k + 3)))

/-- sin x for a fixed-point x. -/
def fxSin (x : Int) : Int := sinSeries (fxMul x x) 60 0 x

/-- The integer below sin(2π·a / 2^20) × 2^17. -/
def sinFloor (a : Nat) : Int :=
  -- the angle as a signed turn
  let s : Int := if a % 2 ^ 20 < 2 ^ 19 then (a % 2 ^ 20 : Nat) else (a % 2 ^ 20 : Nat) - 2 ^ 20
  (fxSin ((2 * fxPi * s) / 2 ^ 20) * 2 ^ 17) / fxOne

/-- R304: a Q1.17 sine with an error of at most 1 LSB. Which of the codes within 1 LSB stands is a free value. -/
def sinQ (a : Nat) : Int :=
  let q := a % 2 ^ 20
  if q % 2 ^ 18 = 0 then
    -- a quarter turn: the exact value is −1, 0 or 1
    let exact : Int := match q / 2 ^ 18 with | 1 => 131072 | 3 => -131072 | _ => 0
    satS 18 (exact + (Config.trigChoice q % 3 : Nat) - 1)
  else satS 18 (sinFloor q + (Config.trigChoice q % 2 : Nat))

def cosQ (a : Nat) : Int := sinQ (a + 2 ^ 18)

/-- Σ (z)^k / (k!)², the series of I0(2√z), by its terms. -/
def besselSeries (z : Int) : Nat → Nat → Int → Int
  | 0, _, _ => 0
  | fuel + 1, k, term => term + besselSeries z fuel (k + 1) (fxMul term z / ((k + 1) * (k + 1)))

/-- I0(8 √(1 − t²)) with 1 − t² = w: the argument squared over four is 16 w. -/
def fxI0 (w : Int) : Int := besselSeries (16 * w) 80 0 fxOne

/-- R309: the resampler prototype. -/
def resampH (m : Nat) : Int :=
  let u : Int := (m : Int) - 8192
  -- sinc(0.9 u / 1024)
  let x := fxPi * (9 * u) / 10240
  let sinc := if u = 0 then fxOne else fxSin x * fxOne / x
  let w := fxOne - fxOne * u * u / 67108864
  let v := 131072 * 9 * fxMul sinc (fxI0 w) * fxOne / (10 * fxI0 fxOne)
  (v + fxOne / 2) / fxOne

/-- floor(log2(a / b)) of a positive fraction. -/
def log2Ratio (a b : Nat) : Int :=
  if b ≤ a then (Nat.log2 (a / b) : Nat) else -((Nat.log2 ((b + a - 1) / a - 1) + 1 : Nat) : Int)

/-- R5, R7: the LP18 code nearest log2(a / b), rounded half up and saturated. -/
def lp18 (a b : Nat) : Int :=
  if a = 0 then -131072 else satS 18 ((log2Ratio (a ^ 2048) (b ^ 2048) + 1) / 2)

/-- A code within 2 LSB of 1024 × log2(a / b), saturated; which of them is a choice (R7, R330). -/
def lp18Near (a b choice : Nat) : Int :=
  if a = 0 then -131072 else
  let f := log2Ratio (a ^ 1024) (b ^ 1024)
  -- the fraction is the power of two itself
  let exact := if 0 ≤ f then a ^ 1024 == b ^ 1024 * 2 ^ f.toNat else a ^ 1024 * 2 ^ (-f).toNat == b ^ 1024
  satS 18 (f + 2 - (choice % (if exact then 5 else 4) : Nat))

/-- ln 2 with 192 fraction bits. -/
def fxLn2 : Int := 4350955369971217654477563090224794165364344896676135745070

/-- Σ x^k / k!, the exponential series, by its terms. -/
def expSeries (x : Int) : Nat → Nat → Int → Int
  | 0, _, _ => 0
  | fuel + 1, k, term => term + expSeries x fuel (k + 1) (fxMul term x / (k + 1))

/-- 2^(x / 1024) with 192 fraction bits: the linear power of an LP18 code (R5). -/
def fxLinear (x : Int) : Int :=
  let e := x / 1024
  let m := expSeries (fxLn2 * (x % 1024) / 1024) 60 0 fxOne
  if 0 ≤ e then m * 2 ^ e.toNat else m / 2 ^ (-e).toNat

end Sys2Proof.Machine
end

