-- ==== Sys2Proof/Machine/Chn.lean ====
section
/-!
DEFINITION. Channelisers: records and their checks (R339 to R342), the wideband and narrowband paths, coarse power,
settling and sync resets (R300 to R338).
-/
namespace Sys2Proof.Machine

/-- Unit ID of the channeliser of a port. -/
def chnUnit (p : Nat) : Nat := 0x08 + p

def Dev.chan (d : Dev) (p : Nat) : Chn := Tbl.get {} d.chn p
def Dev.onChan (d : Dev) (p : Nat) (f : Chn → Chn) : Dev := { d with chn := Tbl.upd {} d.chn p f }

/-! Records (R341). -/

/-- The WB record. -/
structure WbRec where
  k : Nat
  wbEn : Bool
  nbEn : Bool
  ph0 : Nat
  w : BitVec 48
  rstep : Nat
deriving DecidableEq, Repr

def WbRec.of (c : List (BitVec 36)) : WbRec :=
  let a := cellOf c 0
  { k := fld a 0 4, wbEn := bit a 4, nbEn := bit a 5, ph0 := fld a 6 16
    w := BitVec.ofNat 48 ((cellOf c 1).toNat + fld (cellOf c 2) 0 12 * 2 ^ 36), rstep := fld (cellOf c 3) 0 32 }

/-- A channel's group of an NBCH record. -/
structure NbRec where
  en : Bool
  set_ : Nat
  fdec : Nat
  dc : Nat
  w : BitVec 48
  ph0 : Nat
  rstep : Nat
deriving DecidableEq, Repr

def NbRec.of (c : List (BitVec 36)) : NbRec :=
  let a := cellOf c 0
  { en := bit a 6, set_ := fld a 7 3, fdec := 1 + (bit a 10).toNat, dc := fld a 11 11
    w := BitVec.ofNat 48 ((cellOf c 1).toNat + fld (cellOf c 2) 0 12 * 2 ^ 36), ph0 := fld (cellOf c 2) 12 16
    rstep := fld (cellOf c 3) 0 32 }

/-- The resampler is active (R308). -/
def resampOn (rstep : Nat) : Bool := rstep != 0x80000000
/-- σ as a fraction of 2^31; 1 when bypassed. -/
def sigma (rstep : Nat) : Nat := if resampOn rstep then rstep else 2 ^ 31

def Dev.wbRec? (d : Dev) (p : Nat) : Option WbRec := (d.rec? (chnUnit p) 1).map WbRec.of
def Dev.nbRec? (d : Dev) (p c : Nat) : Option NbRec := (d.rec? (chnUnit p) 2 c).map NbRec.of

/-- Taps of a coefficient set, and coefficient k (R317, R341). -/
def Dev.firLen? (d : Dev) (p s : Nat) : Option Nat := (d.rec? (chnUnit p) 3 s).map fun c => fld (cellOf c 0) 3 6
def firCoef (c : List (BitVec 36)) (k : Nat) : Int :=
  let x := cellOf c (1 + k / 2)
  if k % 2 = 0 then sfld x 18 18 else sfld x 0 18

/-- Length of a channeliser record by type. -/
def chnLen (typ : Nat) (c : List (BitVec 36)) : Option Nat :=
  match typ with
  | 1 => some 4 | 4 => some 1 | 5 => some 1
  | 2 => some (1 + 4 * fld (cellOf c 0) 0 7)
  | 3 => some (1 + cdiv (fld (cellOf c 0) 3 6 + 1) 4)
  | _ => none

/-- Groups of an NBCH record with their channels. -/
def nbGroups (c : List (BitVec 36)) : List (Nat × List (BitVec 36)) :=
  (List.range (fld (cellOf c 0) 0 7)).map fun i =>
    let g := (c.drop (1 + 4 * i)).take 4
    (fld (cellOf g 0) 0 6, g)

/-- Rate fp of a port for its channeliser, in kHz × 10 (R300 text). -/
def Link.fp10 (k : Link) : Nat := k.fs

/-- R320 for a set of enabled channels: 64 × fp, all sides times 20 × 2^31. -/
def capacityOk (k : Link) (wb : WbRec) (chans : List (NbRec × Nat)) : Bool :=
  let load : List (Nat × Nat) := chans.map fun (c, l) =>
    -- f_d / (Dc FDEC) × ((L + 1) / 2 + 16 ρ / σ) as a fraction
    let s := sigma c.rstep
    let num := k.f0 * ((l + 1) * s + if resampOn c.rstep then 32 * 2 ^ 31 else 0)
    (num, 2 ^ wb.k * c.dc * c.fdec * 2 * s)
  let (a, b) := load.foldl (fun (a, b) (c, d) => if b = d then (a + c, b) else (a * d + c * b, b * d)) (0, 1)
  decide (a * 10 ≤ 64 * k.fp10 * b)

/-- The bank runs at most at half the port clock (R311). -/
def bankOk (k : Link) (wbK : Nat) : Bool := decide (k.f0 * 2 * 10 ≤ k.fp10 * 2 ^ wbK)

/-- Enabled channels with their settings and tap counts. -/
def Dev.nbEnabled (d : Dev) (p : Nat) : List (Nat × NbRec) :=
  (List.range 64).filterMap fun c => match d.nbRec? p c with
    | some r => if r.en then some (c, r) else none
    | none => none

/-- Selector of an engine's input, by its committed FRAME record, when an enabled pair uses the engine (R328). -/
def Dev.pairedSel? (d : Dev) (p : Nat) : Option Nat :=
  let used := (List.range 6).any fun i =>
    (d.rec? 0x14 1 i).any fun c => bit (cellOf c 0) 3 &&
      ((([(0, 1), (0, 2), (0, 3), (1, 2), (1, 3), (2, 3)] : List (Nat × Nat))[i]?).any fun (a, b) => a == p || b == p)
  if used then (d.rec? (0x10 + p) 1).map fun c => fld (cellOf c 0) 1 8 else none

/-- What the output rate of a stream follows from; none for a stream that is off (R319, R339). -/
def chnRate (wb? : Option WbRec) (nb? : Option NbRec) (sel : Nat) : Option (List Nat) :=
  match wb? with
  | none => none
  | some w =>
    if sel = 1 then (if w.wbEn then some [w.k, w.rstep] else none)
    else match nb? with
      | some x => if w.nbEn && x.en then some [w.k, x.dc, x.fdec, x.rstep] else none
      | none => none

/-- R342: the checks at the boundary. -/
def Dev.chnCheck (d : Dev) (p : Nat) (r : Shadow) : Except Status Unit := do
  need (!d.upperPort p)
  let c := r.cells
  let zero := fun i lo n => fld (cellOf c i) lo n == 0
  match d.link? p with
  | none => .error .cfgRange
  | some k =>
    match r.typ with
    | 1 =>
      let w := WbRec.of c
      need (zero 0 22 14 && zero 2 12 24 && zero 3 32 4 && decide (1 ≤ w.k ∧ w.k ≤ 8) && decide (0x80000000 ≤ w.rstep) && (!k.bond || decide (2 ≤ w.k)))
      need (!w.nbEn || bankOk k w.k)
      need (!w.nbEn || capacityOk k w ((d.nbEnabled p).map fun (_, x) => (x, (d.firLen? p x.set_).getD 7)))
      need ((d.pairedSel? p).all fun sel => sel == 0 ||
        let nb := if sel < 0x40 then none else d.nbRec? p (sel - 0x40)
        chnRate (d.wbRec? p) nb sel == chnRate (some w) nb sel)
    | 2 =>
      let gs := nbGroups c
      need (zero 0 7 29 && decide (1 ≤ gs.length ∧ gs.length ≤ 64) && (dedup (gs.map (·.1))).length == gs.length)
      need (gs.all fun (_, g) =>
        let x := NbRec.of g
        fld (cellOf g 0) 22 14 == 0 && fld (cellOf g 2) 28 8 == 0 && fld (cellOf g 3) 32 4 == 0 &&
          decide (4 ≤ x.dc ∧ x.dc ≤ 1024) && decide (0x80000000 ≤ x.rstep) && (!x.en || (d.firLen? p x.set_).isSome))
      let after := (List.range 64).filterMap fun i =>
        let x := match gs.find? fun e => e.1 == i with
          | some (_, g) => some (NbRec.of g)
          | none => d.nbRec? p i
        x.bind fun x => if x.en then some (x, (d.firLen? p x.set_).getD 7) else none
      need (match d.wbRec? p with | some w => !w.nbEn || capacityOk k w after | none => true)
      need ((d.pairedSel? p).all fun sel => gs.all fun (i, g) => sel != 0x40 + i ||
        chnRate (d.wbRec? p) (d.nbRec? p i) sel == chnRate (d.wbRec? p) (some (NbRec.of g)) sel)
    | 3 =>
      let l := fld (cellOf c 0) 3 6
      need (zero 0 9 27 && l % 2 == 1 && decide (7 ≤ l ∧ l ≤ 63))
      let s := fld (cellOf c 0) 0 3
      need (match d.wbRec? p with
        | some w => !w.nbEn || capacityOk k w ((d.nbEnabled p).map fun (_, x) =>
            (x, if x.set_ = s then l else (d.firLen? p x.set_).getD 7))
        | none => true)
    | 4 => need (zero 0 4 32 && decide (fld (cellOf c 0) 0 2 ≤ 2))
    | _ => need (zero 0 17 19 && decide (128 ≤ fld (cellOf c 0) 1 16))

/-! Group delay and settling (R324, R325). -/

/-- GD of the WB path in decimator samples, over 2^(K+1). -/
def WbRec.gd (w : WbRec) : Nat := 10 * (2 ^ (w.k - 1) - 1) + 31 * 2 ^ w.k + (if resampOn w.rstep then 8 * 2 ^ (w.k + 1) else 0)

/-- S of the WB path. -/
def WbRec.s (w : WbRec) : Nat := cdiv (w.gd * 2 ^ 31) (2 ^ (w.k + 1) * sigma w.rstep)

/-- GD of a channel in bank samples, over 2. -/
def NbRec.gd (x : NbRec) (l : Nat) : Nat := 5 * (x.dc - 1) + (l - 1) * x.dc + (if resampOn x.rstep then 16 * x.dc * x.fdec else 0)

def NbRec.s (x : NbRec) (l : Nat) : Nat := cdiv (x.gd l * 2 ^ 31) (2 * x.dc * x.fdec * sigma x.rstep)

def ChnPath.settleFor (x : ChnPath) (s : Nat) : ChnPath := { x with settle := max x.settle s }

def Chn.onCh (g : Chn) (c : Nat) (f : ChnPath → ChnPath) : Chn := { g with ch := Tbl.upd {} g.ch c f }

/-- Every enabled channel starts settling. -/
def Dev.settleChans (d : Dev) (p : Nat) (only : NbRec → Bool := fun _ => true) : Dev :=
  (d.nbEnabled p).foldl (fun d (c, x) =>
    if only x then d.onChan p fun g => g.onCh c fun y => y.settleFor (x.s ((d.firLen? p x.set_).getD 7)) else d) d

/-! Signal processing. -/

/-- The higher-ranking of two tags (R17, R321). -/
def tagMax (a b : BitVec 4) : BitVec 4 :=
  let is := fun t => a == t || b == t
  tagRank (is tagGap || tagReserved a || tagReserved b) (is tagOverrange) (is tagSettling)

def tagsMax (l : List CSmp) : BitVec 4 := l.foldl (fun t x => tagMax t x.tag) tagValid

/-- R304: the mixed sample, narrowed by k bits from 34 fraction bits. -/
def mix (x : CSmp) (g : Int) (phase : BitVec 48) (k : Nat) : CSmp :=
  let a := (phase.toNat + 2 ^ 27) / 2 ^ 28 % 2 ^ 20
  let c := cosQ a
  let s := sinQ a
  { i := narrow (g * (x.i * c + x.q * s)) k, q := narrow (g * (x.q * c - x.i * s)) k, tag := x.tag }

/-- One half-band output; `f` takes the 63-tap filter (R306). -/
def halfBand (f : Bool) (line : List CSmp) : CSmp :=
  let mid := if f then 31 else 5
  let x := fun i : Nat => (((line)[i]?).getD ({} : CSmp))
  let n := if f then 16 else 3
  let base := if f then 3 else 0
  let sum := fun get : CSmp → Int => (List.range n).foldl (fun a k =>
    let o := 2 * k + 1
    a + (Config.hbCoef (base + k)).toInt * (get (x (mid - o)) + get (x (mid + o)))) (65536 * get (x mid))
  { i := narrow (sum (·.i)) 17, q := narrow (sum (·.q)) 17, tag := tagsMax (line.take (2 * mid + 1)) }

/-- Saturate a complex sample to w bits; OVERRANGE where it does, and whether it did. -/
def satC (w : Nat) (x : CSmp) : CSmp × Bool :=
  let i := satS w x.i
  let q := satS w x.q
  let s := i != x.i || q != x.q
  ({ i, q, tag := if s then tagMax x.tag tagOverrange else x.tag }, s)

/-- The cascade of stages st to K on sample n: the stages' lines and the last stage's output, if due. -/
def cascade (k n : Nat) : Nat → Nat → CSmp → List (List CSmp) → List (List CSmp) × Option CSmp
  | 0, _, _, ls => (ls, none)
  | fuel + 1, st, x, ls =>
    let line := (x :: (ls[st - 1]?).getD []).take 63
    let ls := ls.set (st - 1) line
    if n % 2 ^ st ≠ 0 then (ls, none)
    else
      let y := halfBand (st == k) line
      if st = k then (ls, some y) else cascade k n fuel (st + 1) y ls

/-- One input of a resampler: its state, and its output with the position of that output less the input's, over 2^31
(R308). The flag says that it saturated. -/
def Resamp.push (r : Resamp) (rstep : Nat) (x : CSmp) : Resamp × Option (CSmp × Int × Bool) :=
  let line := (x :: r.line).take 16
  let k := r.k
  let r := { r with line, k := k + 1 }
  let p0 := (r.acc + 2 ^ 20) / 2 ^ 21
  let (m, p) := if p0 = 1024 then (r.n + 1, 0) else (r.n, p0)
  if m ≠ k then (r, none) else
  let sum := fun get : CSmp → Int => (line.zipIdx).foldl (fun a (x, j) => a + resampH (p + 1024 * j) * get x) 0
  let (y, s) := satC 18 { i := narrow (sum (·.i)) 17, q := narrow (sum (·.q)) 17, tag := tagsMax line }
  let pos : Int := ((r.n : Int) - k) * 2 ^ 31 + r.acc
  let t := r.acc + rstep
  ({ r with n := r.n + t / 2 ^ 31, acc := t % 2 ^ 31 }, some (y, pos, s))

/-- An input that a bypassed resampler passes on: its position moves on by one input (R308). -/
def Resamp.pass (r : Resamp) (x : CSmp) : Resamp :=
  { r with line := (x :: r.line).take 16, k := r.k + 1, n := r.k + 1 }

/-- One input of a resampler, active or bypassed. -/
def Resamp.step (r : Resamp) (rstep : Nat) (x : CSmp) : Resamp × Option (CSmp × Int × Bool) :=
  if resampOn rstep then r.push rstep x else (r.pass x, some (x, 0, false))

/-- R310. -/
def Resamp.reset (r : Resamp) : Resamp := { r with acc := 0, n := r.k }
/-- The next output would fall where a reset puts it. -/
def Resamp.aligned (r : Resamp) : Bool := r.acc == 0 && r.n == r.k

/-- Tag an output, count down SETTLING, place a MARK that waits for an output at or after its sample, and close packets of
8 (R302, R322, R324, R18). The output lies at input sample `idx` plus `off` / 2^31 input samples. -/
def ChnPath.emit (x : ChnPath) (y : CSmp) (t : Stamp) (idx : Nat) (off : Int) : ChnPath × QCell :=
  let tag := if x.settle ≠ 0 then tagMax y.tag tagSettling else tagMax y.tag tagValid
  let marked := (x.mark.any fun m => decide (((m : Int) - idx) * 2 ^ 31 ≤ off)) && tag == tagValid
  let tag := if marked then tagMark else tag
  ({ x with settle := x.settle - 1, mark := if marked then none else x.mark, pk := (x.pk + 1) % 8 },
    { cell := Cell.ofHalves y.i y.q tag, time := t, eop := x.pk == 7 })

/-- R330: note a mixer output, and at a decimation instant form a coarse value from the last q of them; one that is not
there counts as 0 (log entry 101). `scale` is the square of full scale, `keep` the longest q. -/
def ChnPath.coarse (x : ChnPath) (u : CSmp) (due : Bool) (q keep scale : Nat) (now : BitVec 64) (ctr : Nat) : ChnPath :=
  let x := { x with hist := (u :: x.hist).take keep }
  if !due then x else
  let win := x.hist.take q
  let sum := fun get : CSmp → Int => win.foldl (fun a z => a + get z) 0
  let pw := (sum (·.i) * sum (·.i) + sum (·.q) * sum (·.q)).toNat
  let pows := ((pw, q, tagsMax win) :: x.pows).take 8
  let (a, b) := pows.foldl (fun (a, b) (n, q, _) => if b = q * q then (a + n, b) else (a * (q * q) + n * b, b * (q * q))) (0, q * q)
  let v := lp18Near a (b * 8 * scale) (Config.lpError ctr)
  let tag := pows.foldl (fun t (_, _, y) => tagMax t y) (if x.cSettle ≠ 0 then tagSettling else tagValid)
  { x with pows, cSettle := x.cSettle - 1, lp := BitVec.ofInt 18 v, lpTag := tag, lpTick := some now }

/-- The working state of one sample: the channeliser, outputs by selector and saturations. -/
structure ChnWork where
  g : Chn
  out : List (Nat × QCell) := []
  sat : Nat := 0

/-- One bank input sample in channel c (R312 to R319). -/
def ChnWork.channel (w : ChnWork) (k : Link) (wb : WbRec) (x : NbRec) (coef : List (BitVec 36)) (l c m : Nat) (b : CSmp) (t0 : Stamp) (i : Nat)
    (now : BitVec 64) (ctr : Nat) : ChnWork :=
  let y := Tbl.get {} w.g.ch c
  let (u, s0) := satC 18 (mix b 1 y.phase 17)
  let due := decide (m % x.dc = c % x.dc)
  let y := { y with phase := y.phase + x.w }
  let y := y.coarse u due x.dc 1024 (2 ^ 34) now (ctr + c)
  let add := fun (a b : BitVec 68 × BitVec 68) => (a.1 + b.1, a.2 + b.2)
  let (integ, top) := y.integ.foldl (fun (acc, v) r => let v := add r v; (acc ++ [v], v)) ([], (BitVec.ofInt 68 u.i, BitVec.ofInt 68 u.q))
  let age := fun (n : Nat) (hit : Bool) => if hit then 0 else n + 1
  let y := { y with
    integ, gapAge := age y.gapAge (u.tag == tagGap), overAge := age y.overAge (u.tag == tagOverrange)
    setAge := age y.setAge (u.tag == tagSettling) }
  let w := { w with sat := w.sat + s0.toNat }
  if !due then { w with g := w.g.onCh c fun _ => y } else
  let (comb, v) := y.comb.foldl (fun (acc, v) r => (acc ++ [v], (v.1 - r.1, v.2 - r.2))) ([], top)
  let sh := Nat.log2 (x.dc ^ 5 - 1) + 1
  let span := 5 * (x.dc - 1)
  let tag := tagRank (decide (y.gapAge ≤ span)) (decide (y.overAge ≤ span)) (decide (y.setAge ≤ span))
  let (v24, s1) := satC 24 { i := (v.1.toInt + 2 ^ (sh - 7)) >>> (sh - 6), q := (v.2.toInt + 2 ^ (sh - 7)) >>> (sh - 6), tag }
  let fir := (v24 :: y.fir).take 63
  let j := y.j
  let y := { y with comb, fir, j := j + 1 }
  let w := { w with sat := w.sat + s1.toNat }
  if j % x.fdec ≠ 0 then { w with g := w.g.onCh c fun _ => y } else
  let tap := fun i : Nat => firCoef coef (min i (l - 1 - i))
  let sum := fun get : CSmp → Int => ((fir.take l).zipIdx).foldl (fun a (z, i) => a + tap i * get z) 0
  let (f, s2) := satC 18 { i := narrow (sum (·.i)) 22, q := narrow (sum (·.q)) 22, tag := tagsMax (fir.take l) }
  let (rs, o) := y.rs.step x.rstep f
  let y := { y with rs }
  let w := { w with sat := w.sat + s2.toNat }
  match o with
  | none => { w with g := w.g.onCh c fun _ => y }
  | some (z, pos, s3) =>
    -- position in bank samples over 2^32, less the group delay
    let off := pos * (2 * x.dc * x.fdec : Nat) - (x.gd l : Int) * 2 ^ 31
    let time := k.timeAt t0 (i * 2 ^ 32 + off * 2 ^ wb.k) (2 ^ 32)
    let (y, cell) := y.emit z time w.g.idx (pos * (2 ^ wb.k * x.dc * x.fdec : Nat))
    { g := w.g.onCh c fun _ => y, out := w.out ++ (if x.en then [(0x40 + c, cell)] else []), sat := w.sat + s3.toNat }

/-- A decimator output reaches the bank, which counts it also while it is off (R311, R313). -/
def ChnWork.bank (w : ChnWork) (d : Dev) (p : Nat) (k : Link) (wb : WbRec) (b : CSmp) (t0 : Stamp) (i : Nat) : ChnWork :=
  let m := if w.g.bankOn then w.g.m else 0
  let w := { w with g := { w.g with bankOn := true, m := m + 1 } }
  if !wb.nbEn then w else
  (d.nbEnabled p).foldl (fun w (c, x) =>
    let coef := (d.rec? (chnUnit p) 3 x.set_).getD []
    w.channel k wb x coef ((d.firLen? p x.set_).getD 7) c m b t0 i d.now d.freeCtr) w

/-- Enabled channels of a bank that is on. -/
def Dev.nbOn (d : Dev) (p : Nat) (wb : WbRec) : List (Nat × NbRec) := if wb.nbEn then d.nbEnabled p else []

/-- R334: the counts, channels and NCOs that a sync resets, whatever is enabled. -/
def Dev.syncReset (d : Dev) (p : Nat) (g : Chn) : Chn :=
  let c := cellOf ((d.rec? (chnUnit p) 4).getD []) 0
  let (sNb, sNco) := (bit c 2, bit c 3)
  let wbp := { g.wb with rs := g.wb.rs.reset }
  let wbp := match sNco, d.wbRec? p with
    | true, some wb => { wbp with phase := BitVec.ofNat 48 (wb.ph0 * 2 ^ 32) }
    | _, _ => wbp
  let ch := if sNb then g.ch.map fun (i, y) => (i, { y with j := 0, rs := y.rs.reset }) else g.ch
  let g := { g with
    wb := wbp, ch, n := 0, bankOn := g.bankOn && !sNb, syncs := BitVec.ofNat 16 (satInc 16 g.syncs.toNat)
    lastPh := BitVec.ofNat 8 g.n, strobe := none, smode := if g.shot then 0 else g.smode, shot := false }
  if !sNco then g else (List.range 64).foldl (fun g i => match d.nbRec? p i with
    | some x => g.onCh i fun y => { y with phase := BitVec.ofNat 48 (x.ph0 * 2 ^ 32) }
    | none => g) g

/-- Whether a sync moves the grid of the WB path, and of a channel (R335). -/
def Chn.wbMoves (g : Chn) (wb : WbRec) : Bool := g.n % 2 ^ wb.k != 0 || (resampOn wb.rstep && !g.wb.rs.aligned)
def Chn.nbMoves (g : Chn) (wb : WbRec) (sNb : Bool) (e : Nat × NbRec) : Bool :=
  let y := Tbl.get {} g.ch e.1
  g.n % 2 ^ wb.k != 0 ||
    (sNb && !(g.m % e.2.dc == 0 && y.j % e.2.fdec == 0 && (!resampOn e.2.rstep || y.rs.aligned)))

/-- R334, R335: a sync of a channeliser with a WB record: a path whose grid moves settles, the others carry MARK. -/
def Dev.chnSync (d : Dev) (p : Nat) (wb : WbRec) (g : Chn) : Chn :=
  let sNb := bit (cellOf ((d.rec? (chnUnit p) 4).getD []) 0) 2
  let chans := d.nbOn p wb
  let moves := fun e => g.nbMoves wb sNb e
  let same := !g.wbMoves wb && !chans.any moves
  let mark := fun y : ChnPath => { y with mark := some g.idx }
  let h := d.syncReset p g
  let h := { h with
    wb := if g.wbMoves wb then { h.wb.settleFor wb.s with cSettle := 8 } else mark h.wb
    aligned := h.aligned || same, shifted := h.shifted || !same }
  chans.foldl (fun h e => h.onCh e.1 fun y =>
    if moves e then { y.settleFor (e.2.s ((d.firLen? p e.2.set_).getD 7)) with cSettle := 8 } else mark y) h

/-- The sync sample of a waiting strobe (R333). -/
def Chn.syncDue (g : Chn) (k : Link) (t0 : Stamp) (i : Nat) : Bool := g.strobe.any fun T => k.reaches t0 i T

/-- R322: a MARK on an input sample waits for the next output of every path that is on. -/
def Dev.markPaths (d : Dev) (p : Nat) (wb : WbRec) (g : Chn) : Chn :=
  (d.nbOn p wb).foldl (fun g e => g.onCh e.1 fun y => { y with mark := some (y.mark.getD g.idx) })
    { g with wb := { g.wb with mark := some (g.wb.mark.getD g.idx) } }

/-- One input sample (R303 to R307), sample i of a beat with stamp t0. -/
def ChnWork.sample (w : ChnWork) (d : Dev) (p : Nat) (k : Link) (wb : WbRec) (x : CSmp) (t0 : Stamp) (i : Nat) : ChnWork :=
  let g := if w.g.syncDue k t0 i then d.chnSync p wb w.g else w.g
  let g := if x.tag == tagMark then d.markPaths p wb g else g
  let u := mix x (if k.cplx then 1 else 2) g.wb.phase 11
  let due := decide (g.n % 2 ^ wb.k = 0) && wb.wbEn
  let n := g.n
  let wbp := { g.wb with phase := g.wb.phase + wb.w }
  let wbp := wbp.coarse u due (2 ^ wb.k) 256 (2 ^ 46) d.now d.freeCtr
  let (stages, y) := cascade wb.k n 8 1 u g.stages
  let g := { g with wb := wbp, stages, n := n + 1 }
  let w := match y with
    | none => { w with g }
    | some y =>
      let (b, s) := satC 18 { y with i := narrow y.i 6, q := narrow y.q 6 }
      let w := { w with g, sat := w.sat + s.toNat }
      let (rs, o) := g.wb.rs.step wb.rstep b
      let w := { w with g := { w.g with wb := { w.g.wb with rs } } }
      let w := match o with
        | none => w
        | some (z, pos, s) =>
          let off := pos * 2 ^ (wb.k + 1) - (wb.gd : Int) * 2 ^ 31
          let time := k.timeAt t0 (i * 2 ^ (wb.k + 32) + off * 2 ^ wb.k) (2 ^ (wb.k + 32))
          if !wb.wbEn then w else
          let (wp, cell) := w.g.wb.emit z time w.g.idx (pos * (2 ^ wb.k : Nat))
          { g := { w.g with wb := wp }, out := w.out ++ [(0x01, cell)], sat := w.sat + s.toNat }
      w.bank d p k wb b t0 i
  { w with g := { w.g with idx := w.g.idx + 1 } }

/-- An input sample of a channeliser without a WB record: it is counted, and a sync acts at it (R307, R333, R334). -/
def Chn.idleSample (g : Chn) (d : Dev) (p : Nat) (k : Link) (t0 : Stamp) (i : Nat) : Chn :=
  let g := if g.syncDue k t0 i then d.syncReset p g else g
  { g with n := g.n + 1, idx := g.idx + 1 }

/-- The samples of a beat's cells with their times (R3, R4, R260). -/
def cellSamples (k : Link) (cells : List QCell) : List (CSmp × Stamp) :=
  let t0 : Stamp := cells.head?.elim 0 (·.time)
  let at_ := fun i : Nat => k.timeAt t0 i 1
  (cells.zipIdx.map fun (c, i) =>
    if k.cplx then [({ i := c.cell.hi, q := c.cell.lo, tag := c.cell.tag }, at_ i)]
    else [({ i := c.cell.hi, tag := c.cell.tag }, at_ (2 * i)), ({ i := c.cell.lo, tag := c.cell.tag }, at_ (2 * i + 1))]).flatten

/-- R327, R323: a port resumes: counts restart and every path settles. -/
def Dev.chnResume (d : Dev) (p : Nat) : Dev :=
  let d := d.onChan p fun g => { g with on := true, n := 0, m := 0, idx := 0, bankOn := false }
  let d := match d.wbRec? p with
    | some wb => d.onChan p fun g => { g with wb := { g.wb.settleFor wb.s with cSettle := 8 } }
    | none => d
  (d.nbEnabled p).foldl (fun d (c, _) => d.onChan p fun g => g.onCh c fun y => { y with cSettle := 8 }) (d.settleChans p)

/-- One beat through the channeliser: outputs by selector. -/
def Dev.chnBeat (d : Dev) (p : Nat) (k : Link) (cells : List QCell) : Dev × List (Nat × QCell) :=
  let d := if (d.chan p).on then d else d.chnResume p
  let t0 : Stamp := cells.head?.elim 0 (·.time)
  let smp := (cellSamples k cells).zipIdx
  match d.wbRec? p with
  | none =>
    (d.onChan p fun g => let g := smp.foldl (fun g (_, i) => g.idleSample d p k t0 i) g; { g with clocks := g.clocks + 1 }, [])
  | some wb =>
    let w := smp.foldl (fun w (x, i) => w.sample d p k wb x.1 t0 i) ({ g := d.chan p } : ChnWork)
    let d := d.freed.onChan p fun _ => { w.g with clocks := w.g.clocks + 1, sat := BitVec.ofNat 32 (satInc 32 w.g.sat.toNat w.sat) }
    (d, w.out)

/-- The port emits no more: the channeliser emits nothing until it resumes. -/
def Dev.chnStop (d : Dev) (p : Nat) : Dev := d.onChan p fun g => { g with on := false }

/-- R332: one round of the coarse stream, if due. -/
def Dev.coarseRound (d : Dev) (p : Nat) : Dev × List QCell :=
  let c := cellOf ((d.rec? (chnUnit p) 5).getD []) 0
  let g := d.chan p
  if !bit c 0 ∨ !(d.port p).emits ∨ g.clocks < fld c 1 16 then (d, []) else
  let t := (d.port p).pendStamp
  let head := (stampCells t).map fun v => ({ cell := { data := v, tag := tagHeader }, time := t } : QCell)
  let cell := fun (y : ChnPath) (id : Nat) =>
    ({ cell := { data := BitVec.ofNat 36 (y.lp.toNat * 2 ^ 18 + id), tag := y.lpTag }, time := t } : QCell)
  let paths := match d.wbRec? p with
    | none => []
    | some wb => (if wb.wbEn then [cell g.wb 0xFF] else []) ++ (d.nbOn p wb).map fun (i, _) => cell (Tbl.get {} g.ch i) i
  let cells := head ++ paths
  let n := cells.length
  (d.onChan p fun g => { g with clocks := 0 }, cells.zipIdx.map fun (x, i) => { x with eop := i + 1 == n })

/-- R333, R336: a strobe reaches the channeliser. -/
def Dev.chnStrobe (d : Dev) (p : Nat) (T : Stamp) : Dev :=
  d.onChan p fun g =>
    if g.smode = 0 then g
    else if g.strobe.isSome then { g with dropped := BitVec.ofNat 8 (satInc 8 g.dropped.toNat) }
    else { g with strobe := some T, shot := g.smode == 1 }

end Sys2Proof.Machine
end

