-- ==== Sys2Proof/Machine/IngressLane.lean ====
section
/-!
DEFINITION. The receive lanes of a port: blocks into the elastic buffers and frames out of them into sample words, the
comparison of a spare's copy, lane failure, the beat counter, error bits and the spare-select code (R209 to R211, R217 to
R220, R224, R226, R239, R255).
-/
namespace Sys2Proof.Machine

/-! Error bits (R859). -/

/-- Set an ING_ERR bit; its rise writes a record, or each event does. -/
def Dev.ingErr (d : Dev) (p b : Nat) (sev : Nat := 2) (code : Status := .ok) (detail : Nat := 0) (each : Bool := false) : Dev :=
  let g := d.port p
  let d' := d.onPort p fun g => { g with err := setBit g.err b true }
  if bit g.err b && !each then d'
  else d'.log { code, sev, domain := d.portDom p, src := BitVec.ofNat 8 p, cause := b, detail }

/-! The spare-select line (R218 to R220). -/

/-- The frame of a code, bit 0 first: start bit 0, the code, odd parity, stop bit 1 (R218). -/
def codeFrame (code : BitVec 4) : BitVec 7 :=
  BitVec.ofNat 7 (code.toNat * 2 + (!parity 4 code.toNat).toNat * 32 + 64)

/-- R219: a change of the code sends a frame where the line is driven. -/
def Dev.sendCode (d : Dev) (p : Nat) (code : BitVec 4) : Dev :=
  let driven := d.spselEn p
  d.onPort p fun g => if g.code = code then g else { g with code, frame := if driven then codeFrame code else g.frame }

/-- The code of a port whose spare serves no swap and no failure: 0xE while it has fallen back, the lane that the spare
replaces for good, else 0xF (R220). -/
def Ing.restCode (g : Ing) : BitVec 4 :=
  if g.fallen then 0xE else match g.sparePerm, g.spareFor with
    | true, some j => BitVec.ofNat 4 j
    | _, _ => 0xF

/-! The beat counter and the port's LEMC (R254, R255). -/

/-- Octets of an extended multiblock on each lane (R209). -/
def Link.embOctets (k : Link) : Nat := 256 * k.e

/-- Bits of the words of a port's beat (R214), and of an LEMC on l lanes (R254). -/
def Link.beatBits (k : Link) : Nat := 10 * k.np
def Link.lemcBits (k : Link) (l : Nat) : Nat := 2048 * k.e * max l 1

/-- One port clock. -/
def Ing.tick (g : Ing) (k : Link) (pSync : Nat) : Ing :=
  match g.st with
  | .idle | .pllWait => g
  | _ =>
    if pSync ≤ g.beat + 1 then { g with beat := 0, emb0 := g.emb0 + pSync * k.beatBits / k.lemcBits g.active }
    else { g with beat := g.beat + 1 }

/-- Number of the extended multiblock that belongs to the LEMC that runs. -/
def Ing.embNow (g : Ing) (k : Link) : Nat := g.emb0 + g.beat * k.beatBits / k.lemcBits g.active

/-- Beats since that LEMC started. -/
def Ing.lemcBeat (g : Ing) (k : Link) : Nat := g.beat * k.beatBits % k.lemcBits g.active / k.beatBits

/-- R255: a SYSREF edge starts an LEMC and the lanes fill their buffers from its extended multiblock on. -/
def Ing.alignLemc (g : Ing) : Ing :=
  { g with srSeen := true, beat := 0, emb0 := 0, lanes := g.lanes.map fun (i, x) => (i, { x with buf := [], idx := none }) }

/-! Blocks of a lane (R217, R226, R239). -/

/-- Octets of the multiblock that starts at octet `lo` have failed their CRC. -/
def Lane.markBad (x : Lane) (lo : Nat) : Lane :=
  let start := x.idx.getD 0 - x.buf.length
  { x with buf := x.buf.zipIdx.map fun (o, i) => match o with
      | .data v bad => .data v (bad || decide (lo ≤ start + i ∧ start + i < lo + 256))
      | .lost => .lost }

/-- The CRC of the multiblock before the one at octet n. -/
def Lane.crcVerdict (x : Lane) (n : Nat) (bad : Bool) : Lane :=
  let x := { x with
    crcs := x.crcs <<< 1 ||| BitVec.ofNat 64 bad.toNat, crcGood := if bad then 0 else x.crcGood + 1
    crc := if bad then BitVec.ofNat 32 (satInc 32 x.crc.toNat) else x.crc }
  if bad ∧ 256 ≤ n then x.markBad (n / 256 * 256 - 256) else x

/-- A lane takes a block: `emb` numbers an extended multiblock that starts with it, `arr` is its beat in the LEMC. -/
def Lane.absorb (x : Lane) (k : Link) (emb arr : Nat) (b : LaneBlock) : Lane :=
  let x := { x with hdrs := x.hdrs <<< 1 ||| BitVec.ofNat 64 (!b.header).toNat }
  if !(x.cdr && x.bsync) then x else
  let x :=
    if !b.embStart then x else
    let x := { x with emb := true, arrival := BitVec.ofNat 12 arr }
    if x.idx.any fun n => n % k.embOctets == 0 then x else { x with buf := [], idx := some (emb * k.embOctets) }
  match x.idx with
  | none => x
  | some n =>
    let x := match b.crcBad with
      | some bad => if k.crc = 0 then x else x.crcVerdict n bad
      | none => x
    let held := (x.buf.filter fun o => o != .lost).length
    { x with
      idx := some (n + 8)
      buf := x.buf ++ (List.range 8).map fun i => if held + i < 1024 then .data (byteAt b.octets (7 - i)) false else .lost }

/-- The blocks that arrive in one port clock; those of the upper port of a pair are numbered from 9 on. -/
def Dev.absorb (d : Dev) (p : Nat) (k : Link) (blocks : List LaneBlock) : Dev :=
  blocks.foldl (fun d b =>
    let q := p + b.lane.val / 9
    let lane := b.lane.val % 9
    let g := d.port q
    if q ≠ p ∧ !k.bond then d else
    match g.st with
    | .idle | .pllWait | .fault => d
    | _ =>
      let x := (g.lane lane).absorb k (g.embNow k) (g.lemcBeat k) b
      let d := d.onPort q fun g => g.onLane lane fun _ => x
      -- R239: a failed multiblock
      if x.crc = (g.lane lane).crc then d else d.ingErr q 3 (sev := if k.crcAct then 0 else 2)) d

/-- R226: invalid sync headers or CRC failures of a lane; the loss of its alignment is an event of its own. -/
def Lane.failing (x : Lane) (k : Link) : Bool :=
  let ones := fun w : BitVec 64 => ((List.range 64).filter fun i => bit w i).length
  decide (16 ≤ ones x.hdrs) || (k.crc != 0 && decide (8 ≤ ones x.crcs))

/-! Frames (R210, R211, R217, R240). -/

/-- Octet n of a lane at its release. -/
def Lane.octet (x : Lane) (n : Nat) : RawWord :=
  if x.failed then .gone else
  match x.idx with
  | none => .missing
  | some e =>
    if n + x.buf.length < e then .missing else
    match x.buf[n + x.buf.length - e]? with
    | some (.data v bad) => .word (v.zeroExtend 16) bad
    | some .lost => .overflow
    | none => .missing

/-- Octets below n have passed their release. -/
def Lane.trim (x : Lane) (n : Nat) : Lane :=
  match x.idx with
  | none => x
  | some e => { x with buf := x.buf.drop (n + x.buf.length - e) }

/-- Position in its frame of the word with stream position t, words in stream order (R211). -/
def wordAt (k : Link) (t : Nat) : Nat :=
  let i := t % (k.m * k.s)
  if k.cplx then
    -- complex sample s × M/2 + c holds converters 2c and 2c + 1
    let x := i / 2
    let sub := x % (k.m / 2)
    (2 * sub + i % 2) * k.s + x / (k.m / 2)
  else i % k.m * k.s + i / k.m

/-- Word w of a frame's octets, converter by converter (R210); `bad` once any octet of the frame failed its CRC (R239). -/
def frameWord (k : Link) (octets : List RawWord) (bad : Bool) (w : Nat) : RawWord :=
  let lo := w * k.np / 8
  let hi := (w * k.np + k.np - 1) / 8
  let part := (octets.drop lo).take (hi + 1 - lo)
  if part.contains .gone then .gone
  else if part.contains .missing then .missing
  else if part.contains .overflow then .overflow
  else
    let v := part.foldl (fun v o => v * 256 + (match o with | .word x _ => x.toNat | _ => 0)) 0
    .word (BitVec.ofNat 16 (v / 2 ^ (8 * (hi + 1) - (w + 1) * k.np) % 2 ^ k.np)) bad

/-- The lane whose traffic a copy must equal, and the copy's lane (R224, R280): the spare until it carries the lane, then
the lane that retrains. -/
def Ing.mirror (g : Ing) : Option (Nat × Nat) :=
  match g.swap with
  | some w => if w.step ≤ 4 then some (w.p, w.s) else some (w.s, w.p)
  | none =>
    match g.spareFor, List.find? (fun p => p.2.cal == 3) g.lanes with
    | some j, some (q, _) => (g.map[j]?).map fun sp => (sp, q)
    | _, _ => none

/-- R224: compare the copy on the next f octets. -/
def Ing.compare (g : Ing) (k : Link) (f : Nat) : Ing :=
  match g.mirror with
  | none => g
  | some (a, b) =>
    let same := (List.range f).all fun i =>
      match (g.lane a).octet (g.out + i), (g.lane b).octet (g.out + i) with
      | .word v _, .word w _ => v == w
      | _, _ => false
    if same then g
    else { g with eqSince := g.out + f, mirrorBad := g.mirrorBad || decide (g.verifyFrom ≤ g.out / k.embOctets * k.embOctets) }

/-- A verification starts. -/
def Ing.startVerify (g : Ing) : Ing := { g with verifyFrom := g.out, mirrorBad := false }

/-- R224: the copy has equalled its lane over two whole consecutive extended multiblocks. -/
def Ing.copyVerified (g : Ing) (k : Link) : Bool :=
  decide (cdiv (max g.eqSince g.verifyFrom) k.embOctets + 2 ≤ g.out / k.embOctets)

/-- R224 for a lane that has failed: the spare holds block sync and its alignment and, with CRC, two clean multiblocks. -/
def Lane.spareHolds (x : Lane) (k : Link) : Bool :=
  x.cdr && x.bsync && x.emb && x.idx.isSome && (k.crc == 0 || decide (2 ≤ x.crcGood))

/-- Octets of a frame on each lane (R209). -/
def Link.frameOctets (k : Link) (l : Nat) : Nat := k.m * k.s * k.np / (8 * max l 1)

/-- The next frame leaves the elastic buffers: its words join the stream. -/
def Ing.popFrame (g : Ing) (k : Link) : Ing :=
  let f := k.frameOctets g.active
  let octets := (g.map.map fun q => (List.range f).map fun i => (g.lane q).octet (g.out + i)).flatten
  let bad := octets.any fun o => match o with | .word _ b => b | _ => false
  let g := g.compare k f
  { g with
    out := g.out + f
    stream := g.stream ++ (List.range (k.m * k.s)).map fun t => frameWord k octets bad (wordAt k t)
    lanes := g.lanes.map fun (i, x) => (i, x.trim (g.out + f)) }

/-- Release frames until the stream holds n words. -/
def Ing.unpack (k : Link) (n : Nat) : Nat → Ing → Ing
  | 0, g => g
  | fuel + 1, g => if n ≤ g.stream.length then g else (g.popFrame k).unpack k n fuel

/-- The next n words of a port's stream. -/
def Ing.takeWords (g : Ing) (k : Link) (n : Nat) : List RawWord × Ing :=
  let g := g.unpack k n n
  (g.stream.take n, { g with stream := g.stream.drop n })

/-- The 10 words of a port's beat: none while it re-links or does not run (R232, R252), and none in a realignment, where
the words it loses pass twice as fast and those it repeats wait (R256). -/
def Ing.beatWords (g : Ing) (k : Link) : List RawWord × Ing :=
  let none_ := List.replicate 10 RawWord.gone
  if !g.emits ∨ g.relinking then (none_, g)
  else if g.gapBeats = 0 then g.takeWords k 10
  else (none_, { if g.gapSkip then (g.takeWords k 20).2 else g with gapBeats := g.gapBeats - 1 })

end Sys2Proof.Machine
end

