-- ==== Sys2Proof/Machine/IngressBeat.lean ====
section
/-!
DEFINITION. One beat of a port: from transport words to corrected, tagged cells (R236 to R247, R250 to R252, R260), and
the port's error bits.
-/
namespace Sys2Proof.Machine

/-! Correction (R242 to R246). -/

/-- A correction entry (R244). -/
structure Corr where
  gain : Nat := 0x20000
  offset : Int := 0
  skew : Int := 0

/-- Entry e in use: GAIN 1, OFFSET 0 and SKEW 0 where no table applies (R860). -/
def Dev.corr (d : Dev) (p e : Nat) : Corr :=
  match d.rec? p 4 with
  | none => {}
  | some c =>
    let a := cellOf c (1 + 2 * e)
    { gain := fld a 18 18, offset := sfld a 0 18, skew := sfld (cellOf c (2 + 2 * e)) 18 18 }

/-- DGAIN, OR_MARGIN and OR_EXT; unity gain and no margins before a GAIN record commits. -/
def Dev.gainRec (d : Dev) (p : Nat) : Nat × Nat × Nat :=
  match d.rec? p 5 with
  | none => (0x8000, 0, 0)
  | some c => let a := cellOf c 0; (fld a 0 18, fld a 18 8, fld a 26 8)

/-- R236, R237: the Q1.17 half of a word, and whether it is overrange. -/
def rawHalf (k : Link) (margin : Nat) (v : BitVec 16) : Int × Bool :=
  let c := sfld (BitVec.ofNat k.np v.toNat) (k.np - k.n) k.n
  let top : Int := 2 ^ (k.n - 1)
  (c * 2 ^ (18 - k.n), decide (c ≥ top - 1 - margin ∨ c ≤ -top + margin) || (k.ovrCs && decide (1 ≤ k.cs) && bit v (k.np - k.n - k.cs)))

/-- Whether a word has no data that may pass: none at its release, or a failed multiblock's (R228, R239, R240). -/
def Link.wordGap (k : Link) : RawWord → Bool
  | .word _ bad => bad && k.crc != 0 && !k.crcAct
  | _ => true

/-- u of one component (R242). -/
def uStage (e : Corr) (x : Int) : Int × Bool :=
  let v := narrow ((x - e.offset) * e.gain) 17
  (satS 18 v, decide (satS 18 v ≠ v))

/-- Sample n of a real stream. -/
def Dev.realSmp (d : Dev) (p : Nat) (k : Link) (n : Nat) (w : RawWord) : Smp :=
  let (dgain, margin, orExt) := d.gainRec p
  let e := d.corr p (n % k.entries)
  let none_ : Smp := { n, skew := e.skew, dgain, orExt }
  if k.wordGap w then none_ else
  match w with
  | .word v _ =>
    let (x, exceeds) := rawHalf k margin v
    let (u, sat) := uStage e x
    { none_ with i := u, gap := false, exceeds, sat }
  | _ => none_

/-- Complex sample n from its I and Q words. -/
def Dev.cplxSmp (d : Dev) (p : Nat) (k : Link) (n : Nat) (wi wq : RawWord) : Smp :=
  let (dgain, margin, orExt) := d.gainRec p
  let none_ : Smp := { n, dgain, orExt }
  if k.wordGap wi || k.wordGap wq then none_ else
  match wi, wq with
  | .word a _, .word b _ =>
    let (xi, oi) := rawHalf k margin a
    let (xq, oq) := rawHalf k margin b
    let (ui, si) := uStage (d.corr p 0) xi
    let (uq, sq) := uStage (d.corr p 1) xq
    { none_ with i := ui, q := uq, gap := false, exceeds := oi || oq, sat := si || sq }
  | _, _ => none_

/-- D(u) from the four neighbours on each side (R242, R243). -/
def diffU (l : List Smp) (c : Nat) : Int :=
  let u := fun i : Nat => ((l[i]?).getD {}).i
  110592 * (u (c + 1) - u (c - 1)) - 32768 * (u (c + 2) - u (c - 2)) + 8192 * (u (c + 3) - u (c - 3)) - 1024 * (u (c + 4) - u (c - 4))

/-- An output sample: I, Q and its tag. -/
structure OutSmp where
  i : Int
  q : Int
  tag : BitVec 4
deriving DecidableEq, Repr

/-- R242, R238, R241: the output of sample c of a window, given OR_EXT still to run; the new OR_EXT count. -/
def outSmp (k : Link) (ext : Nat) (l : List Smp) (c : Nat) : OutSmp × Nat :=
  let x := (l[c]?).getD {}
  let z := fun v : Int => let w := narrow (v * x.dgain) 15; (satS 18 w, decide (satS 18 w ≠ w))
  let y := if k.cplx then (x.i, false) else
    let v := narrow (x.i * 2 ^ 37 - x.skew * diffU l c) 37
    (satS 18 v, decide (satS 18 v ≠ v))
  let (zi, si) := z y.1
  let (zq, sq) := if k.cplx then z x.q else (0, false)
  let near := (List.range 9).any fun j => ((l[c + j - 4]?).getD {}).exceeds && decide (4 ≤ c + j)
  let exceeds := near || (!x.gap && (x.sat || y.2 || si || sq))
  let tag := tagRank x.gap (exceeds || decide (ext ≠ 0)) false
  ({ i := if x.gap then 0 else zi, q := if x.gap then 0 else zq, tag }, if exceeds then x.orExt else ext - 1)

/-- Outputs of the `len` samples that start at index 4 of a window. -/
def outBeat (k : Link) (l : List Smp) (len ext : Nat) : List OutSmp × Nat :=
  (List.range len).foldl (fun (acc, ext) i => let (o, ext) := outSmp k ext l (4 + i); (acc ++ [o], ext)) ([], ext)

/-- R3, R4, R215: samples into cells. -/
def packCells (k : Link) : Nat → List OutSmp → List QCell
  | 0, _ => []
  | fuel + 1, l =>
    match l with
    | [] => []
    | a :: rest =>
      let step := if k.cplx then 1 else 2
      let c : Cell :=
        if k.cplx then Cell.ofHalves a.i a.q a.tag
        else
          let b := rest.headD { i := 0, q := 0, tag := tagGap }
          Cell.ofHalves a.i b.i (tagRank (a.tag == tagGap || b.tag == tagGap) (a.tag == tagOverrange || b.tag == tagOverrange) false)
      { cell := c } :: packCells k fuel (l.drop step)

/-- Times of cells: those of their first samples (R260). -/
def stampCellsOf (k : Link) (t0 : Stamp) (cells : List QCell) : List QCell :=
  let step := if k.cplx then 1 else 2
  cells.zipIdx.map fun (c, i) => { c with time := k.timeAt t0 (i * step : Nat) 1, idx := i * step }

/-- Words of one beat. -/
def Link.words (k : Link) : Nat := if k.bond then 20 else 10

/-- The samples of one beat. -/
def Dev.beatSmps (d : Dev) (p : Nat) (k : Link) (n : Nat) (w : Nat → RawWord) : List Smp :=
  (List.range k.perBeat).map fun i =>
    if k.cplx then d.cplxSmp p k (n + i) (w (2 * i)) (w (2 * i + 1))
    else d.realSmp p k (n + i) (w i)

/-- R237: whether a word is a raw sample that is overrange. -/
def Dev.wordOver (d : Dev) (p : Nat) (k : Link) (w : RawWord) : Bool :=
  !k.wordGap w && match w with
    | .word v _ => (rawHalf k (d.gainRec p).2.1 v).2
    | _ => false

/-- What the words that port q gives to a beat of port p do to its errors and counts (R237, R240, R252). -/
def Dev.beatErrors (d : Dev) (p : Nat) (k : Link) (q : Nat) (words : List RawWord) : Dev :=
  let d := if words.contains .missing then d.ingErr q 1 else d
  let d := if words.contains .overflow then d.ingErr q 2 else d
  let exceeds := (words.filter fun w => d.wordOver p k w).length
  d.onPort q fun g => { g with ovr := BitVec.ofNat 32 (satInc 32 g.ovr.toNat exceeds) }

/-- Ports whose lanes give a stream its words. -/
def Link.ports (k : Link) (p : Nat) : List Nat := if k.bond then [p, p + 1] else [p]

/-- Port q gives the words of its beat. -/
def Dev.takeBeat (d : Dev) (p : Nat) (k : Link) (q : Nat) : List RawWord × Dev :=
  let (words, g) := (d.port q).beatWords k
  (words, (d.onPort q fun _ => g).beatErrors p k q words)

/-- Words of a beat of the stream, in stream order: a pair's two ports take turns (R250). -/
def Dev.takeStream (d : Dev) (p : Nat) (k : Link) : List RawWord × Dev :=
  let (lo, d) := d.takeBeat p k p
  if !k.bond then (lo, d) else
  let (hi, d) := d.takeBeat p k (p + 1)
  let both := if k.swap then hi.zip lo else lo.zip hi
  ((both.map fun (a, b) => [a, b]).flatten, d)

/-- One port clock of a port that emits: release a beat, emit the beat before it (R240). A port of a pair that does not
run or is re-linking gives no samples (R252). -/
def Dev.releaseBeat (d : Dev) (p : Nat) (k : Link) : Dev × List QCell :=
  let g := d.port p
  let (words, d) := d.takeStream p k
  let new := d.beatSmps p k g.n fun i => (words[i]?).getD .gone
  let stamp := d.stamp - g.tsNext.signExtend 72
  let (outs, ext) := if g.pend.isEmpty then ([], g.ext) else outBeat k (g.before ++ g.pend ++ new) g.pend.length g.ext
  let cells := stampCellsOf k g.pendStamp (packCells k outs.length outs)
  let gaps := (cells.filter fun c => c.cell.tag == tagGap).length
  let zeros : List Smp := List.replicate 4 {}
  let d := d.onPort p fun g =>
    { g with
      tsOffset := g.tsNext, n := g.n + new.length
      before := if g.pend.isEmpty then zeros else (g.before ++ g.pend).drop (g.pend.length)
      pend := new, pendStamp := stamp, ext, gap := BitVec.ofNat 32 (satInc 32 g.gap.toNat gaps) }
  (d, cells)

/-- The beat counters of a stream's ports. -/
def Dev.tickPorts (d : Dev) (p : Nat) (k : Link) : Dev :=
  (k.ports p).foldl (fun d q => let n := d.pSync q; d.onPort q fun g => g.tick k n) d

/-! Port fault and idle. -/

/-- Sample history and OR_EXT are gone. -/
def Ing.quiet (g : Ing) : Ing := { g with before := [], pend := [], ext := 0, stream := [], gapBeats := 0, relinking := false }

/-- R283: traffic of j goes back onto p with its pre-swap set; an elastic buffer that p kept filling holds it. -/
def Ing.takeBack (g : Ing) (w : Swap) (tick : BitVec 64) : Ing :=
  { g.onLane w.p fun x => x.setTrims x.pre tick with map := g.map.set w.j w.p }

/-- R279: a FORCE held through a swap makes its lane due when the swap ends. -/
def Dev.serveForce (d : Dev) (p : Nat) : Dev :=
  d.onPort p fun g => match g.forcePend with
    | none => g
    | some j => match g.map[j]? with
      | some q => { g.onLane q fun x => { x with due := setBit x.due 1 true } with forcePend := none }
      | none => { g with forcePend := none }

/-- R283: a swap in progress is abandoned; the lane takes back its pre-swap set. At step 8 the lane is back with its new
trims and keeps them (log entry 95). -/
def Dev.abandonSwap (d : Dev) (p : Nat) : Dev :=
  match (d.port p).swap with
  | none => d
  | some w =>
    let d := d.onPort p fun g =>
      let g := if w.step = 6 ∨ w.step = 7 then g.takeBack w d.tim.ticks else g
      { (g.onLane w.p fun x => { x with cal := 0 }).onLane w.s fun x => { x with cal := 0 } with
        swap := none, spareFor := if g.sparePerm then g.spareFor else none, abandons := BitVec.ofNat 8 (satInc 8 g.abandons.toNat) }
    (d.serveForce p).sendCode p (d.port p).restCode

/-- R235, R261: enter FAULT. -/
def State.portFault (s : State) (p : Nat) : State :=
  let s := s.onDev fun d =>
    let d := (d.abandonSwap p).onPort p fun g => { g.quiet with st := .fault, frozen := false }
    d.ingErr p 6 2 .portDown (each := true)
  let low := if s.dev.upperPort p then p - 1 else p
  (List.range 16).foldl (fun s b =>
    let r := s.dev.barrel b
    if r.armed ∧ r.srcRec.port = low then
      (s.barAbort b 0x08).onDev fun d =>
        (d.onBarrel b fun r => { r with err := r.err ||| 0x04 }).degraded .portDown domCap 0x28 (cause := 2) (detail := b)
    else s) s

end Sys2Proof.Machine
end

