-- ==== Sys2Proof/Machine/Ingress.lean ====
section
/-!
DEFINITION. Ingress records at their boundaries and the port's start-up, alignment, SYSREF and lane failures
(R218 to R235, R253 to R266, R860).
-/
namespace Sys2Proof.Machine

/-! Records. -/

/-- Length of an ingress record by type (R264). -/
def ingLen (typ : Nat) (c : List (BitVec 36)) : Option Nat :=
  match typ with
  | 1 => some 3 | 2 => some 1 | 3 => some 2 | 5 => some 1
  | 4 => some (1 + 2 * fld (cellOf c 0) 0 5)
  | _ => none

/-- The LINK against which a CORR is checked when written: a waiting one, else the one in force (R860). -/
def Dev.nextLink? (d : Dev) (p : Nat) : Option Link :=
  match d.waiting? p 1 with
  | some r => some (Link.of r.cells)
  | none => d.link? p

/-- R246, R251, R264: a CORR record fits a LINK. -/
def corrOk (k : Link) (c : List (BitVec 36)) : Bool :=
  let n := fld (cellOf c 0) 0 5
  n == k.entries && fld (cellOf c 0) 5 31 == 0 &&
    (List.range n).all fun e =>
      let x := cellOf c (2 + 2 * e)
      fld x 0 18 == 0 && (!k.cplx || fld x 18 18 == 0)

def gainOk (c : List (BitVec 36)) : Bool := fld (cellOf c 0) 34 2 == 0

/-- Both ports of a pair are idle. -/
def Dev.pairIdle (d : Dev) (p : Nat) : Bool := (d.port p).st == .idle && (d.port (p / 2 * 2 + 1 - p % 2)).st == .idle

/-- R28, R860: the check of a record as it is written. -/
def Dev.ingCheck (d : Dev) (p : Nat) (r : Shadow) : Except Status Unit := do
  need (!(d.upperPort p && r.typ != 2))
  need (!(decide (r.typ ≤ 3) && (d.port p).st != .idle)) .cfgLocked
  match r.typ with
  | 1 => need (linkFits p r.cells)
  | 2 => need (lanemapFits r.cells && !lanemapRetired (d.port p) r.cells)
  | 3 => need (syncOk r.cells)
  | 4 => need ((d.nextLink? p).any fun k => corrOk k r.cells)
  | _ => need (gainOk r.cells)

/-- R36, R570, R854: a record reaches its port. A LINK, LANEMAP or SYNC is checked as it comes, so a SETUP of one is OK
once it waits; RESULT of the register path stays PENDING until it is decided. -/
def Dev.ingSubmit (d : Dev) (p : Nat) (r : Shadow) : Dev :=
  match d.ingCheck p r with
  | .error st => d.rejectRec p r st
  | .ok _ =>
    let d := d.shadowPut p r
    if r.typ ≤ 3 ∧ r.origin.isSome then d.decideRec p r .ok else d

/-- R263, R266: CORR and GAIN at a beat of a running port. -/
def Dev.ingCommit (d : Dev) (p : Nat) : Dev :=
  if !(d.port p).emits then d else
  let (rs, d) := d.takeShadow p fun x => 4 ≤ x.typ
  rs.foldl (fun d r => d.settle p r 0
    (need (if r.typ = 4 then (d.link? p).any fun k => corrOk k r.cells else gainOk r.cells))) d

/-! Start, alignment and stop (R261, R262). -/

/-- R261: EN written 0. -/
def Dev.portStop (d : Dev) (p : Nat) : Dev :=
  let d := (d.abandonSwap p).onPort p fun g =>
    { g.quiet with
      en := false, st := .idle, pllLock := false, relink := false, srSeen := false, frozen := false
      spareFor := if g.sparePerm then g.spareFor else none
      lanes := g.lanes.map fun (i, x) =>
        (i, { x with cdr := false, bsync := false, emb := false, failed := false, cal := 0, buf := [], idx := none }) }
  d.sendCode p (d.port p).restCode

/-- Every active lane starts acquiring, and is due for nothing (R273, R278). -/
def State.acquireAll (s : State) (p : Nat) : State :=
  ((s.dev.port p).map).foldl (fun s q => (s.acquire p q 1).onDev fun d => d.onPort p fun g => g.onLane q fun x => { x with due := 0 }) s

/-- R249, R705: the ports that the PLL of port p clocks; the upper PLL of a bonded pair is off. -/
def Dev.pllPorts (d : Dev) (p : Nat) : List Nat :=
  if d.upperPort p then [] else if d.upperPort (p + 1) then [p, p + 1] else [p]

/-- All active lanes hold clock recovery and block sync. -/
def Ing.synced (g : Ing) : Bool := g.map.all fun q => (g.lane q).cdr && (g.lane q).bsync

/-- All active lanes hold extended multiblock alignment. -/
def Ing.aligned (g : Ing) : Bool := g.map.all fun q => (g.lane q).emb

/-- R261: block sync on all active lanes, then extended multiblock alignment. -/
def execEmbAlignment (port : Fin 4) (s : State) : Outcome :=
  devStep s fun d =>
    let g := d.port port
    match g.st with
    | .laneSync => if g.synced then d.onPort port fun g => { g with st := .embAlign } else d
    | .embAlign => if g.synced ∧ g.aligned then d.onPort port fun g => { g with st := .sysrefWait } else d
    | _ => d

/-- R256: a realignment of a port that emits: the counter starts anew, as the nearest expected beat. A late edge repeats
samples, an early one loses them (log entry 96). -/
def Ing.realign (g : Ing) (k : Link) (pSync : Nat) : Ing :=
  let early := decide (pSync < 2 * g.beat)
  { g with
    beat := 0, emb0 := if early then g.emb0 + pSync * k.beatBits / k.lemcBits g.active else g.emb0
    gapBeats := g.gapBeats + (if early then pSync - g.beat else g.beat), gapSkip := early }

/-- R253: the main sample sees the edge that leads DCLK by `lead` steps of 25 ps, and a sample SR_WIN steps to a side does
not agree with it. -/
def edgeSeen (lead : Int) (dly : Nat) : Bool := decide (0 ≤ lead + dly)
def edgeMargin (lead : Int) (dly win : Nat) : Bool :=
  let seen := edgeSeen lead dly
  edgeSeen (lead - win) dly != seen || edgeSeen (lead + win) dly != seen

/-- R255, R256: an edge that the port samples; the upper port of a pair follows the lower port's input. -/
def Dev.sysrefEdge (d : Dev) (p : Nat) (k : Link) : Dev :=
  let g := d.port p
  match g.st with
  | .sysrefWait | .run | .degraded =>
    if !g.srSeen then d.onPort p Ing.alignLemc
    else if g.beat = 0 then d
    else match d.srMode p with
      | 1 => (d.onPort p fun g => { g with srSlip := true }).note .ok (d.portDom p) (BitVec.ofNat 8 p) (cause := 6)
      | 2 =>
        let n := d.pSync p
        if g.emits then (d.abandonSwap p).onPort p fun g => g.realign k n else d.onPort p Ing.alignLemc
      | _ => d
  | _ => d

def execSysrefEdge (port : Fin 4) (lead : BitVec 8) (s : State) : Outcome :=
  devStep s fun d =>
    let p := port.val
    if d.upperPort p then d else
    match d.link? p with
    | none => d
    | some k =>
      let d := if edgeMargin lead.toInt (d.srDly p) (d.srWin p) then d.onPort p fun g => { g with srMargin := true } else d
      if edgeSeen lead.toInt (d.srDly p) then (k.ports p).foldl (fun d q => d.sysrefEdge q k) d else d

/-- R255, R261: the beat counter reaches RELEASE: the first extended multiblock of the period is released and the port
runs. -/
def execFirstRelease (port : Fin 4) (s : State) : Outcome :=
  devStep s fun d =>
    let p := port.val
    let g := d.port p
    match d.link? p with
    | none => d
    | some k =>
      if !(g.srSeen && g.synced && g.aligned) ∨ g.beat ≠ d.release p then d else
      let start := fun g : Ing => { g with out := g.emb0 * k.embOctets, stream := [] }
      if g.st = .sysrefWait then (d.onPort p fun g => { start g with st := .run, relink := false }).calCheck p
      else if g.st = .degraded ∧ g.relinking then d.onPort p fun g => { start g with relinking := false }
      else d

/-- R262. -/
def execPortStateTimeout (port : Fin 4) (s : State) : Outcome :=
  devStep s fun d => match (d.port port).st with
    | .pllWait | .laneSync | .embAlign | .sysrefWait => d.ingErr port 7 0
    | _ => d

/-! Lane failures (R226 to R235). -/

/-- Physical lanes that are neither retired nor failed, lowest first. -/
def Ing.working (g : Ing) : List Nat := g.sound.filter fun q => !(g.lane q).failed

/-- R231. -/
def Dev.fallbackOk (d : Dev) (p : Nat) : Bool :=
  let g := d.port p
  !g.fallen && d.spselEn p && (d.link? p).any fun k =>
    k.fb && decide (2 ≤ k.l) && k.l % 2 == 0 && k.laneAtMost k.l 16250000 && decide (k.l / 2 ≤ g.working.length)

/-- R232: re-link with half the lanes, on the working physical lanes, lowest first; or FAULT. The beat counter goes on, so
that no SYSREF edge is asked for anew. -/
def State.fallback (s : State) (p : Nat) : State :=
  if !s.dev.fallbackOk p then s.portFault p else
  let l := (s.dev.link? p).elim 0 (·.l)
  let s := s.onDev fun d =>
    let d := (d.abandonSwap p).onPort p fun g =>
      { g with
        st := .degraded, fallen := true, relinking := true, spareFor := none, sparePerm := false, stream := [], gapBeats := 0
        map := g.working.take (l / 2), lanes := g.lanes.map fun (i, x) => (i, { x with failed := false }) }
    (d.sendCode p 0xE).ingErr p 5 2 .linkDegraded (each := true)
  (s.acquireAll p).onDev fun d => d.calCheck p

/-- R273, R294: the lanes of a port acquire; one short of sound lanes falls back or enters FAULT. -/
def State.linkUp (s : State) (p : Nat) : State :=
  let g := s.dev.port p
  let l := (s.dev.link? p).elim 0 fun k => if g.fallen then k.l / 2 else k.l
  if decide (g.active < l) || g.map.any fun q => (g.lane q).retired then s.fallback p else s.acquireAll p

/-- R262: restart alignment from LANE_SYNC and accept one SYSREF edge. -/
def State.relinkPort (s : State) (p : Nat) : State :=
  match (s.dev.port p).st with
  | .idle | .pllWait => s
  | _ => (s.onDev fun d => (d.abandonSwap p).onPort p fun g =>
      { g.quiet with st := .laneSync, relink := true, srSeen := false, frozen := false
                     lanes := g.lanes.map fun (i, x) => (i, { x with failed := false }) }).linkUp p

/-- The PLL that clocks a port holds lock: the port leaves PLL_WAIT (R261). -/
def State.pllLocks (s : State) (p : Nat) : State :=
  let s := s.onDev fun d => d.onPort p fun g => { g with pllLock := g.en }
  if (s.dev.port p).st = .pllWait then (s.onDev fun d => d.onPort p fun g => { g with st := .laneSync }).linkUp p else s

/-- R705: a port PLL locks. -/
def execPllLock (port : Fin 4) (s : State) : Outcome := .next ((s.dev.pllPorts port).foldl State.pllLocks s)

/-- Logical lanes that have failed and wait for the spare. -/
def Ing.failedLanes (g : Ing) : List Nat := (List.range g.map.length).filter fun j => (g.map[j]?).any fun q => (g.lane q).failed

/-- R227, R230: act on the failed logical lane j. With the spare in use for a failure of the same extended multiblock, the
lowest of the lanes is the one it was served for. -/
def State.serveFailure (s : State) (p j : Nat) : State :=
  let g := s.dev.port p
  let k? := s.dev.link? p
  let emb := k?.elim 0 fun k => g.out / k.embOctets
  match s.dev.spare? p with
  | none => s.fallback p
  | some sp =>
    if g.sparePerm ∨ !s.dev.usableSpare p then s.fallback p
    else if g.spareFor.isSome then s.fallback p
    else if 1 < g.failedLanes.length then
      (if g.failEmb = emb then s.onDev fun d => d.sendCode p (BitVec.ofNat 4 (g.failedLanes.headD j)) else s).fallback p
    else (s.onDev fun d => (d.onPort p fun g => { g with verified := false, failEmb := emb }).sendCode p (BitVec.ofNat 4 j)).acquire p sp 1

/-- Retire a lane: ROLE 0xE, a record, and the RETIRED map of the Attic record (R292). -/
def State.retireLane (s : State) (p q : Nat) : State :=
  (s.onDev fun d =>
    let d := d.onPort p fun g => g.onLane q fun x => { x with retired := true, failed := false, cal := 0, cdr := false }
    d.degraded .linkDegraded (d.portDom p) (BitVec.ofNat 8 p) (detail := q)).putRetired p

/-- R291: a spare failure counts; the third consecutive one retires the spare, and the port has no usable spare until a
retirement is cleared or a new LANEMAP names one (log entry 97). -/
def State.spareFailure (s : State) (p q : Nat) : State :=
  let n := (s.dev.port p).spareFails + 1
  if n < 3 then s.onDev fun d => d.onPort p fun g => { g with spareFails := n }
  else (s.retireLane p q).onDev fun d => (d.onPort p fun g => { g with spareFails := 0, noSpare := true }).calCheck p

/-- R283: the spare fails while it carries j: traffic goes back to p, unverified, and the spare is idle. -/
def State.spareLost (s : State) (p : Nat) (w : Swap) : State :=
  (s.onDev fun d =>
    let d := d.onPort p fun g =>
      { (g.takeBack w d.tim.ticks).onLane w.p fun x => { x with cal := 0 } with swap := none, spareFor := none, verified := false }
    ((d.serveForce p).sendCode p (d.port p).restCode).ingErr p 0 (detail := w.s)).spareFailure p w.s

/-- R226, R227, R230, R283: physical lane q fails. -/
def State.laneFail (s : State) (p q : Nat) : State :=
  let g := s.dev.port p
  let lane := fun j =>
    (s.onDev fun d => ((d.abandonSwap p).onPort p fun g => g.onLane q fun x => { x with failed := true }).ingErr p 0
      (detail := q)).serveFailure p j
  let idle := fun (_ : Unit) => match g.map.idxOf? q with
    | none => s
    | some j => lane j
  if !g.emits then s else
  match g.swap with
  | some w => if q = w.s then (if w.step = 6 ∨ w.step = 7 then s.spareLost p w else s) else idle ()
  | none => idle ()

/-- R226: a lane loses its alignment, or the blocks it delivered fail it. -/
def State.laneFails (s : State) (p q : Nat) (embLost : Bool) : State :=
  match s.dev.link? p with
  | none => s
  | some k =>
    if !embLost && !((s.dev.port p).lane q).failing k then s else
    (if embLost then s.onDev fun d => d.onPort p fun g => g.onLane q fun x => { x with emb := false, idx := none, buf := [] } else s).laneFail p q

/-- R219: the frame of the code, again. -/
def execSpareSelectFrame (port : Fin 4) (s : State) : Outcome :=
  devStep s fun d => if !d.spselEn port then d else d.onPort port fun g => { g with frame := codeFrame g.code }

/-- Count a switch onto or off the spare. -/
def Ing.countSwap (g : Ing) : Ing := { g with swaps := BitVec.ofNat 16 (satInc 16 g.swaps.toNat) }

/-- R224: a copy that differed in an extended multiblock is verified anew. -/
def Dev.mirrorFails (d : Dev) (p : Nat) : Dev :=
  if !(d.port p).mirrorBad then d else (d.onPort p fun g => { g.startVerify with verified := false }).ingErr p 4 0

/-- R224, R225, R229, R280: at an extended multiblock boundary traffic moves onto or off the spare, where the copy is
verified. The boundary is the command's moment: octets released before it came from the lane before (log entry 98). -/
def State.spareSwitch (s : State) (p : Nat) : State :=
  let g := s.dev.port p
  match s.dev.link? p with
  | none => s
  | some k =>
  if !g.emits then s else
  let bad := s.onDev fun d => d.mirrorFails p
  match g.swap with
  | some w =>
    if w.step = 4 then
      if !g.copyVerified k then bad else
      (s.onDev fun d => d.onPort p fun g =>
        { g.countSwap with map := g.map.set w.j w.s, verified := true, swap := some { w with step := 6 }, spareFor := some w.j }).acquire p w.p 3
    else if w.step = 7 then
      if !g.copyVerified k then bad else s.onDev fun d => d.onPort p fun g =>
        { (g.countSwap).onLane w.p fun x => { x with lastTemp := g.temp, due := 0, cal := 0 } with
          map := g.map.set w.j w.p, verified := false, swap := some { w with step := 8 }, spareFor := none, spareFails := 0
          cals := BitVec.ofNat 16 (satInc 16 g.cals.toNat) }
    else s
  | none =>
    match g.spareFor, g.failedLanes, s.dev.spare? p with
    | none, j :: _, some sp =>
      -- a forced switch
      if !(g.lane sp).spareHolds k then s
      else
        let old := (g.map[j]?).getD sp
        (s.onDev fun d => d.onPort p fun g =>
          { (g.countSwap.onLane old fun x => { x with failed := false, attempts := 0 }).onLane sp fun x => { x with cal := 0 } with
            map := g.map.set j sp, spareFor := some j, verified := true }).acquire p old 3
    | some j, _, _ =>
      -- the retrained lane takes its traffic back
      match g.mirror with
      | none => s
      | some (_, old) =>
        if g.sparePerm ∨ !(g.lane old).cdr then s
        else if !g.copyVerified k then bad
        else s.onDev fun d => (d.onPort p fun g =>
          { g.countSwap.onLane old fun x => { x with cal := 0 } with map := g.map.set j old, spareFor := none, verified := false }).sendCode p 0xF
    | _, _, _ => s

end Sys2Proof.Machine
end

