-- ==== Sys2Proof/Machine/UnitStops.lean ====
section
/-!
DEFINITION. What stops with a port: the engine's windows (R367), the trigger unit's conditions and envelopes (R399, R402,
R405), and the settings these read.
-/
namespace Sys2Proof.Machine

/-! Spectral engines. -/

def speUnit (p : Nat) : Nat := 0x10 + p
def Dev.eng (d : Dev) (p : Nat) : Spe := Tbl.get {} d.spe p
def Dev.onEng (d : Dev) (p : Nat) (f : Spe → Spe) : Dev := { d with spe := Tbl.upd {} d.spe p f }

/-- A count that saturates at 32 bits. -/
def sat32 (v : BitVec 32) (n : Nat := 1) : BitVec 32 := BitVec.ofNat 32 (satInc 32 v.toNat n)

/-- R344, R367: streams of the port stop: windows in progress of the grids on them are abandoned. -/
def Dev.speStop (d : Dev) (p : Nat) (off : Nat → Bool := fun _ => true) : Dev :=
  d.onEng p fun e =>
    let (gone, rest) := e.grids.partition fun g => off (fld (cellOf g.frame 0) 1 8)
    let n := (gone.map (·.wins.length)).foldl (· + ·) 0
    { e with grids := rest, discards := sat32 e.discards n, discardNext := e.discardNext || gone.any (!·.closed) }

/-! Trigger units: COND (R448). -/

/-- Unit ID of the trigger unit of a port. -/
def trgUnit (p : Nat) : Nat := 0x18 + p

def Dev.trig (d : Dev) (p : Nat) : Trg := Tbl.get {} d.trg p
def Dev.onTrig (d : Dev) (p : Nat) (f : Trg → Trg) : Dev := { d with trg := Tbl.upd {} d.trg p f }

def Trg.cond (t : Trg) (c : Nat) : TrgCond := Tbl.get {} t.conds c
def Trg.onCond (t : Trg) (c : Nat) (f : TrgCond → TrgCond) : Trg := { t with conds := Tbl.upd {} t.conds c f }

/-- Set a bit of TRG_ERR; its rise writes a record (R859). -/
def Dev.trgErr (d : Dev) (p b sev : Nat) : Dev :=
  let d := if bit (d.trig p).err b then d else
    d.log { code := .ok, sev, domain := d.portDom p, src := BitVec.ofNat 8 (trgUnit p), cause := b }
  d.onTrig p fun t => { t with err := setBit t.err b true }

structure CondRec where
  en : Bool
  typ : Nat
  mode : Nat
  env : Nat
  skip : Nat
  pol : Bool
  hys : Nat
  thr : Int
  thr2 : Int
  w1 : Nat
  w2 : Nat
  lo : Nat
  cnt : Nat
  mbase : Nat
  minBins : Nat
  minDur : Nat
  pin : Nat
  filt : Nat
  compat : Bool
  evid : BitVec 12
deriving DecidableEq, Repr

def CondRec.of (c : List (BitVec 36)) : CondRec :=
  let a := cellOf c 0
  let b := cellOf c 1
  let x := cellOf c 2
  let y := cellOf c 3
  { en := bit a 3, typ := if bit a 3 then fld a 4 4 else 0, mode := fld a 8 2, env := fld a 10 1, skip := fld a 11 3, pol := bit a 14
    hys := fld a 15 12, thr := sfld b 18 18, thr2 := sfld b 0 18, w1 := fld x 0 32, w2 := fld y 0 32, lo := fld b 0 16
    cnt := fld b 16 16 + 1, mbase := fld x 0 16, minBins := fld x 16 16 + 1, minDur := fld y 0 16, pin := fld b 0 2, filt := fld b 2 8
    compat := bit b 10, evid := BitVec.ofNat 12 b.toNat }

def Dev.condRec (d : Dev) (p c : Nat) : CondRec := CondRec.of ((d.rec? (trgUnit p) 3 c).getD [])

/-- Count a dropped candidate (R432, R435). -/
def Trg.drop (t : Trg) (inst : Nat) : Trg :=
  let t := if inst < 2 then { t with dropped := BitVec.ofNat 36 (satInc 36 t.dropped.toNat) } else t
  match inst with
  | 0 => { t with ign0 := sat32 t.ign0 }
  | 1 => { t with ign1 := sat32 t.ign1 }
  | _ => { t with ign2 := sat32 t.ign2 }

/-- A pending trigger is dropped and counted. -/
def Trg.dropPend (t : Trg) : Trg := if t.pend.isSome then { t with pend := none }.drop 0 else t

/-! Resets (R405). -/

/-- R405: crossing states unknown, measurements and runs abandoned, no edge. What it accepted from a pin stays. -/
def TrgCond.reset (x : TrgCond) : TrgCond :=
  { x with
    x1 := 0, x2 := 0, opened := none, highRunt := false, lowRunt := false, crossed := none, runSeq := none, run := 0, qual := none
    sent := false }

/-- Reset a condition at the boundary: its level falls and its results on the way are gone. -/
def Trg.resetNow (t : Trg) (c : Nat) (level : Bool := false) : Trg :=
  { t.onCond c fun x => { x.reset with value := level, sent := level } with results := t.results.filter fun r => r.cond != c }

/-- The level a condition holds right after a reset: the accepted level of a MODE 3 pin or line (R418). -/
def Dev.condLevel (d : Dev) (p c : Nat) : Bool :=
  let x := d.condRec p c
  match x.typ with
  | 7 => x.mode == 3 && !x.compat && ((d.trig p).cond c).pin
  | 8 => x.mode == 3 && d.instr.low
  | _ => false

def Dev.resetCond (d : Dev) (p c : Nat) : Dev := d.onTrig p fun t => t.resetNow c (d.condLevel p c)
def Dev.resetConds (d : Dev) (p : Nat) : Dev := (List.range 8).foldl (fun d c => d.resetCond p c) d

/-! Envelopes. -/

def Trg.env (t : Trg) (e : Nat) : TrgEnv := if e = 0 then t.env0 else t.env1
def Trg.setEnv (t : Trg) (e : Nat) (v : TrgEnv) : Trg := if e = 0 then { t with env0 := v } else { t with env1 := v }

/-- R402: an envelope's stream starts anew. -/
def Trg.envRestart (t : Trg) (e : Nat) : Trg := t.setEnv e { t.env e with since := 0, win := [] }

/-- R399: the port emits no more beats. -/
def Dev.trgStop (d : Dev) (p : Nat) : Dev := (d.resetConds p).onTrig p fun t => (t.envRestart 0).envRestart 1

/-- R778: a port reset. -/
def Dev.trgReset (d : Dev) (p : Nat) : Dev := (d.trgStop p).onTrig p Trg.dropPend

/-! A port. -/

/-- R480: the Barrels whose stream its port does not deliver note the break. -/
def Dev.pauseBarrels (d : Dev) (p : Nat) (stopped : Nat → Bool) : Dev :=
  { d with barrels := d.barrels.map fun (b, r) =>
      if r.writing ∧ r.srcRec.port = p ∧ stopped r.srcRec.sel ∧ (r.anchor.isSome ∨ !r.queue.isEmpty) then (b, { r with paused := true })
      else (b, r) }

/-- R327, R367, R399: a port that emits no more. -/
def Dev.quietPort (d : Dev) (p : Nat) : Dev :=
  let p := if d.upperPort p then p - 1 else p
  ((((d.chnStop p).speStop p).trgStop p).pauseBarrels p fun _ => true).onPort p fun g => { g with blind := true }

end Sys2Proof.Machine
end

