-- ==== Sys2Proof/Machine/Escalate.lean ====
section
/-!
DEFINITION. Error records that may escalate their domain (R777 to R784).
-/
namespace Sys2Proof.Machine

/-! Sessions (R100, R101). -/

/-- The chain of a mover ends with INTERNAL. -/
def Chain.dies (c : Chain) : Chain := if c.fin.isNone then { c with fin := some .internal, stalled := false, targets := [] } else c

/-- Chains of a session end with INTERNAL, queued ones are gone. -/
def Mov.endSession (k : Mov) (n : Nat) : Mov :=
  { k with movers := k.movers.map fun (m, v) =>
      (m, { v with queue := v.queue.filter fun a => a.session != n
                   chain := v.chain.map fun c => if c.act.session = n then c.dies else c }) }

/-- In-flight Crates of a session complete with INTERNAL; while it drains, so do those that were cancelled and whose Chit is
not formed: a Chit in the held queue keeps CANCELLED (log entry 87). -/
def Dev.endCrates (d : Dev) (n : Nat) (draining : Bool) : Dev :=
  let d := (List.range 16).foldl (fun d b =>
    if (d.barrel b).owner = some n then d.armFail b .internal else d) d
  let mine := d.hlk.live.filter fun c => c.session == n
  -- RESULT1: instances run, or descriptors completed (R125)
  let ran := fun c : Live => if c.isRun then c.started else
    ((d.mov.movers.filterMap fun (_, v) => v.chain).find? fun x => x.act.crate == some c.uid).elim 0 (·.completed)
  let d := (mine.filter fun c => !c.decided).foldl (fun d c =>
    let d := d.finish c.uid .internal 0 (ran c)
    if c.isRun then d.dropRun c.uid else d) d
  let d := if draining then
    { d with hlk := { d.hlk with live := mapIf (fun c => c.session == n && c.status == .cancelled) (fun c => { c with status := .internal }) d.hlk.live } }
  else d
  let waits := d.stk.allocWait.any fun w => mine.any fun c => c.uid == w.uid
  { d with mov := d.mov.endSession n, stk := if waits then d.stk.endAllocWait else d.stk }

/-- R100, R101: the session's domain escalates. -/
def Dev.faultSession (d : Dev) (n : Nat) : Dev :=
  match (d.session n).st with
  | .opened => (d.onSession n fun s => { s with st := .faulted }).endCrates n false
  | .draining => (d.onSession n fun s => { s with drain := s.drain.map fun r => { r with escalated := true } }).endCrates n true
  | .closed | .faulted => d

/-! The device (R779). -/

/-- A port stops until a reset. -/
def Dev.haltPort (d : Dev) (p : Nat) : Dev :=
  if (d.port p).st = .idle then d
  else ((d.abandonSwap p).onPort p fun g => { g.quiet with st := .fault, frozen := false }).quietPort p

/-- R779: the device fault. -/
def State.deviceFault (s : State) : State :=
  let s := s.onDev fun d => { d with rel := { d.rel with devFault := true } }
  let s := s.onDev fun d => (d.hlk.sessions.map (·.1)).foldl Dev.faultSession d
  let s := (List.range 16).foldl (fun s b => s.barAbort b 0x04) s
  s.onDev fun d => (List.range 4).foldl Dev.haltPort d

/-! The other domains. -/

/-- R205, R207: an SPU is retired on an error: its Crate ends. -/
def Dev.spuError (d : Dev) (k : Nat) (st : Status) : Dev :=
  match (d.spu k).runs.bind fun key => Tbl.find? d.insts key with
  | some i => (d.finish i.uid st 0 ((d.live? i.uid).elim 0 (·.started))).dropRun i.uid
  | none => d

/-- R778: a port domain reset; the domain of a bonded pair holds the units of both ports. -/
def State.resetPort (s : State) (p : Nat) : State :=
  let ports := if s.dev.upperPort (p + 1) then [p, p + 1] else [p]
  let s := s.onDev fun d => ports.foldl Dev.trgReset (d.quietPort p)
  let s := s.relinkPort p
  let clear := fun (e : Den) => { e with planes := e.planes.map fun (j, y) => (j, { y with cnt := [] }) }
  s.onDev fun d => { d with den := d.den.map fun (i, e) => (i, if ports.contains i then clear e else e) }

/-- R71, R481, R777: the writer queue of a Barrel is flushed or reset: what it held is lost, and its next cell carries GAP. -/
def Barrel.flush (r : Barrel) : Barrel :=
  if r.queue.isEmpty then { r with gapNext := true } else
  let per := if r.real then 2 else 1
  let lost := (r.gaps.map Prod.snd).foldl (· + ·) (r.queue.length * per)
  { r with queue := [], gaps := (0, lost) :: r.gaps.filter (·.2 == 0) |>.map fun (_, n) => (0, n), gapNext := true }

/-- R777: one mover. -/
def Mov.escalate (k : Mov) (m : Nat) : Mov :=
  { k with
    movers := Tbl.upd {} k.movers m fun v =>
      { v with halted := true, chain := v.chain.map Chain.dies }
    streams := k.streams.map fun (i, t) => if t.mover = m then (i, { t with lossMark := true }) else (i, t) }

/-- R66, R71: the queue of a stream is flushed or reset; a FENCE has nothing left to wait for there. Its cells count as lost,
and the next of a port stream carries GAP (log entry 85). -/
def Stream.flush (t : Stream) : Stream :=
  { t with
    queue := [], skip := 0, lost := t.lost + t.queue.length, lostFrame := t.lostFrame + t.queue.length, fences := []
    gapNext := fld t.src 0 4 == 1 }

/-- R777: one compression engine: the cells it holds are lost. -/
def Mov.dropBlock (k : Mov) (e : Nat) : Mov :=
  { k with streams := k.streams.map fun (i, t) =>
      if t.cmpe.toNat = e then (i, t.flush) else (i, t) }

/-- R777: the monitors. -/
def Dev.monEscalate (d : Dev) : Dev :=
  let held := (List.range 4).filter fun k => (d.mon.seq k).pend
  let d := held.foldl Dev.seqDrop d
  d.onMon fun m =>
    { m with
      cmps := m.cmps.map fun (k, x) => (k, x.unsettle)
      seqs := m.seqs.map fun (k, q) => (k, { q with st := .idle, pend := false, pos := 0, delay := 0 })
      accs := [], trks := [] }

/-- R777: what an escalation does to its domain. -/
def State.escalate (s : State) (domain : BitVec 16) (st : Status) : State :=
  let n := domain.toNat % 4096
  match domain.toNat / 4096 with
  | 0 => s.deviceFault
  | 1 => s.onDev fun d => d.faultSession n
  | 2 => s.onDev fun d => (d.spuError n st).retireSpu n
  | 3 => if n < 4 then s.resetPort n else s
  | 4 => s.onDev fun d => { d with xsp := { d.xsp with pairs := d.xsp.pairs.map fun (i, y) =>
      (i, { y with lo := [], hi := [], n := 0, incl := 0, acc := [], tags := [], flags := 0 }) } }
  | 5 => s.onDev fun d => { d with barrels := d.barrels.map fun (b, r) => if r.writing then (b, r.flush) else (b, r) }
  -- scan-out restarts at line 0 with the layers it latched: no state of the model changes
  | 6 => s
  | 7 => s.onDev fun d => { d with mov := d.mov.escalate n }
  | 8 => s.onDev fun d => { d with mov := d.mov.dropBlock n }
  | 9 => s.onDev Dev.monEscalate
  | 10 => (s.onDev fun d => { d with cel := { d.cel with dead := setBit d.cel.dead n true } }).deviceFault
  | _ => s

/-- R782: whether an error escalates its domain. -/
def Dev.escalates (d : Dev) (r : Report) (atOnce : Bool) : Bool :=
  r.sev == 3 && !d.rel.devFault && (atOnce || (Tbl.get {} d.rel.domains r.domain.toNat).outstanding)

/-- R781 to R784: write a record; the error may escalate its domain, which ends with OUTSTANDING clear. -/
def State.report (s : State) (r : Report) (atOnce : Bool := false) : State :=
  let esc := s.dev.escalates r atOnce
  let s := s.onDev fun d => d.log r
  if !esc then s else
  let s := s.onDev fun d => d.log { r with esc := true }
  let s := s.escalate r.domain r.code
  s.onDev fun d => { d with rel := { d.rel with domains := Tbl.upd {} d.rel.domains r.domain.toNat fun m =>
    { m with outstanding := false, escalations := BitVec.ofNat 8 (satInc 8 m.escalations.toNat) } } }

end Sys2Proof.Machine
end

