-- ==== Sys2Proof/Machine/CelOps.lean ====
section
/-!
DEFINITION. Retirement of pseudo-channels: donors, migrations and their end (R680 to R688).
-/
namespace Sys2Proof.Machine

def Dev.onCel (d : Dev) (f : Cel → Cel) : Dev := { d with cel := f d.cel }
def Cel.pc (c : Cel) (p : Nat) : CelPc := Tbl.get {} c.pcs p
def Dev.onPc (d : Dev) (p : Nat) (f : CelPc → CelPc) : Dev := d.onCel fun c => { c with pcs := Tbl.upd {} c.pcs p f }

/-- Pseudo-channels retired (CEL_STAT.RETIRED). -/
def Cel.retired (c : Cel) : Nat := (c.pcs.filter fun (_, x) => x.retired).length

/-- Set a bit of CEL_ERR; its rise writes a record (R859). -/
def Dev.celErr (d : Dev) (stack b sev detail : Nat) (code : Status := .ok) : Dev :=
  let d := if bit d.cel.err b then d else d.log { code, sev, domain := domCel stack, src := srcCel, cause := b, detail }
  d.onCel fun c => { c with err := setBit c.err b true }

/-! Donors (R682, R683). -/

/-- The `n` highest Shelves of a list. -/
def highest (n : Nat) (l : List Nat) : List Nat := ((sortBy id l).reverse).take n

/-- Free Shelves of the allocatable pool. -/
def Dev.freeList (d : Dev) : List Nat :=
  let used := d.usedShelves
  ((List.range d.poolTop).drop d.ttShelves).filter fun p => !used.contains p

/-- Order 4 of R682: an allocated Shelf is taken and its contents are lost; one record for each. -/
def State.loseShelves (s : State) (n : Nat) : State :=
  let d := s.dev
  let may := d.stk.resident.filter fun p => decide (d.ttShelves ≤ p ∧ p < d.poolTop) && !d.cel.donors.contains p
  (highest n may).foldl (fun s p =>
    let e := s.dev.stk.shelves.find? fun e => e.place == .resident p
    let s := s.onMem fun m => { m with lost := m.lost ++ [p] }
    s.onDev fun d =>
      ((d.onCel fun c => { c with donors := c.donors ++ [p], err := setBit c.err 4 true }).log
        { code := .eccUncorrected, sev := 2, domain := domDevice, src := srcStk, addr := e.elim 0 fun e => e.idx * shelfBytes
          session := e.elim 0 (·.session), detail := p })) s

/-- A page-out for the donors ended: the Shelf it freed becomes one; without another candidate a Shelf is lost. -/
def State.donorStep (s : State) (p : Option Nat) : State :=
  match s.dev.cel.mig with
  | none => s
  | some m =>
    if m.need = 0 then s else
    let less := fun d : Dev => d.onCel fun c => { c with mig := c.mig.map fun m => { m with need := m.need - 1 } }
    match p with
    | some p => s.onDev fun d => less (d.onCel fun c => { c with donors := c.donors ++ [p] })
    | none => match s.dev.pageOutOne with
      | some d => { s with dev := d }
      | none => (s.loseShelves 1).onDev less

/-- R682: N / 64 further donors for a pseudo-channel that retires. -/
def State.takeDonors (s : State) (pc : Nat) (copy : Bool) : State :=
  let n := s.dev.fittedShelves / 64
  let w := min n s.dev.cel.withheld
  let free := highest (n - w) s.dev.freeList
  let rest := n - w - free.length
  let s := s.onDev fun d => d.onCel fun c => { c with withheld := c.withheld - w, donors := c.donors ++ free }
  let (out, d) := s.dev.pageOutMany false rest
  let s := ({ s with dev := d.pageStep } : State).loseShelves (rest - out)
  s.onDev fun d =>
    let inUse := d.fittedShelves - d.cel.top - d.cel.donors.length - d.freeShelves
    d.onCel fun c => { c with mig := some { pc, total := if copy then inUse else 0, need := out, donors := n - w } }

/-! Retirement (R680, R681, R685). -/

/-- Slices in use when a pseudo-channel is lost. -/
def Dev.lostSlices (d : Dev) : Nat := d.fittedShelves - d.cel.top - d.cel.donors.length - d.freeShelves

/-- Start the retirement of a pseudo-channel. Without copies its blocks read poisoned (R685). -/
def State.startRetire (s : State) (pc : Nat) (copy : Bool) : State :=
  if 8 ≤ s.dev.cel.retired then
    s.report { code := .linkDegraded, sev := 3, domain := domCel (pc / 32), src := srcCel, cause := 1, detail := pc } true
  else
    let s := s.onDev fun d => d.onPc pc fun x => { x with migrating := true }
    let s := if copy then s else
      let n := s.dev.lostSlices
      (s.onMem fun m => { m with stuck := m.stuck ++ [pc] }).onDev fun d =>
        (d.onCel fun c => { c with err := setBit c.err 4 true }).log
          { code := .eccUncorrected, sev := 2, domain := domCel (pc / 32), src := srcCel, cause := 4, detail := n }
    s.takeDonors pc copy

/-- R680: retire a pseudo-channel; one at a time. -/
def State.celRetire (s : State) (pc : Nat) (copy : Bool) : State :=
  let x := s.dev.cel.pc pc
  if x.retired ∨ x.migrating then s
  else if s.dev.cel.mig.isSome then
    if s.dev.cel.waiting.any fun (q, _) => q == pc then s
    else s.onDev fun d => d.onCel fun c => { c with waiting := c.waiting ++ [(pc, copy)] }
  else s.startRetire pc copy

/-- R806: the body of CELMAP. -/
def Cel.mapBody (c : Cel) : List Byte :=
  mapBytes 8 (fun k => (c.pc k).retired) ++ [BitVec.ofNat 8 c.retired] ++ List.replicate 7 0

/-- R686: a migration that has copied everything ends; a retirement that waits begins. -/
def State.endMigration (s : State) : State :=
  match s.dev.cel.mig with
  | none => s
  | some m =>
    if m.need ≠ 0 ∨ m.copied < m.total then s else
    let s := s.onDev fun d =>
      let d := (d.onPc m.pc fun x => { x with retired := true, migrating := false }).onCel fun c =>
        { c with mig := none, donated := c.donated + m.donors, err := setBit c.err 1 true }
      let d := d.log { code := .linkDegraded, sev := 2, domain := domCel (m.pc / 32), src := srcCel, cause := 1, detail := m.pc }
      d.atticPush .map 14 d.cel.mapBody
    match s.dev.cel.waiting with
    | [] => s
    | (pc, copy) :: rest => (s.onDev fun d => d.onCel fun c => { c with waiting := rest }).startRetire pc copy

/-! Errors of a pseudo-channel (R687, R688). -/

/-- Ticks of an hour. -/
def hourTicks : Nat := 7372800000000

/-- Ticks of the last hour, with one more. -/
def Dev.hourAdd (d : Dev) (l : List (BitVec 64)) : List (BitVec 64) :=
  (l.filter fun t => (d.tim.ticks - t).toNat < hourTicks) ++ [d.tim.ticks]

/-- R687, R688: a corrected granule. -/
def State.celCorrected (s : State) (pc : Nat) : State :=
  let s := s.onDev fun d => d.onPc pc fun x =>
    { x with corr := BitVec.ofNat 24 (satInc 24 x.corr.toNat), ceTicks := d.hourAdd x.ceTicks }
  if s.dev.cel.autoRetire ∧ s.dev.cel.ceThr.toNat ≤ (s.dev.cel.pc pc).ceTicks.length then s.celRetire pc true else s

/-- A granule is poisoned (R794). -/
def State.poisonGranule (s : State) (g : Nat) : State :=
  s.onMem fun m => { m with poison := if m.poison.contains g then m.poison else m.poison ++ [g] }

/-- R687, R688: an uncorrected read of a granule is counted and latched. -/
def State.celUncorrected (s : State) (pc addr : Nat) : State :=
  let s := s.onDev fun d =>
    (d.onPc pc fun x => { x with uncorr := BitVec.ofNat 8 (satInc 8 x.uncorr.toNat), ueTicks := d.hourAdd x.ueTicks }).onCel fun c =>
      { c with errAddr := if bit c.err 2 then c.errAddr else BitVec.ofNat 37 addr, err := setBit c.err 2 true }
  if s.dev.cel.autoRetire ∧ 4 ≤ (s.dev.cel.pc pc).ueTicks.length then s.celRetire pc true else s

/-- CAUSE of an uncorrected read of a physical range: 3 where a granule is poisoned or lost, else 1 (R785). -/
def Mem.celCause (m : Mem) (a n : Nat) : Nat := if ({ m with celErr := [] } : Mem).poisoned a n then 3 else 1

/-- R687, R780: a granule that a requester's access corrects is counted, recorded in its domain and written back (R792). -/
def State.celFix (s : State) (gs : List Nat) (domain : BitVec 16) (session addr : Nat) : State :=
  gs.foldl (fun s g =>
    ((s.onMem fun m => { m with celErr := Tbl.erase m.celErr g }).onDev fun d =>
      d.log { code := .ok, sev := 1, domain, src := srcCel, addr, session, detail := s.mem.pcOf (g * 64) }).celCorrected (s.mem.pcOf (g * 64))) s

/-- R672: a write reads the granules that it covers in part. -/
def State.celMerge (s : State) (a n : Nat) (domain : BitVec 16) (session addr : Nat) : State :=
  s.celFix ((s.mem.fixable a n).filter fun g => decide (g * 64 < a ∨ a + n < (g + 1) * 64)) domain session addr

/-- R687, R780: what a requester's read of a physical range does besides its data: what it corrects; and an uncorrected
granule is counted and latched, which the requester's chapter records. -/
def State.celRead (s : State) (a n : Nat) (domain : BitVec 16) (session addr : Nat) : State :=
  let s := s.celFix (s.mem.fixable a n) domain session addr
  if s.mem.poisoned a n then
    let bad := ((granules a n).find? fun g => s.mem.poisoned (g * 64) 64).getD (a / 64)
    s.celUncorrected (s.mem.pcOf (bad * 64)) (bad * 64)
  else s

end Sys2Proof.Machine
end

