-- ==== Sys2Proof/Machine/Convert.lean ====
section
/-!
DEFINITION. Conversions between cells and byte formats (R21 to R24, R626, R627) and the block coder of the compression
engines (R655 to R658).
-/
namespace Sys2Proof.Machine

/-- Bytes an element takes in a byte format (R626); an element is one cell, for TS128 four cells. -/
def fmtBytes (f : Nat) : Nat :=
  match f with | 1 => 3 | 2 => 4 | 3 => 4 | 4 => 5 | 5 => 8 | 6 => 4 | 7 => 16 | _ => 0

/-- Cells of an element. -/
def fmtCells (f : Nat) : Nat := if f = 7 then 4 else 1

/-- The w low bits of a signed value. -/
def wrapU (w : Nat) (v : Int) : Nat := (v % 2 ^ w).toNat

/-- One element of cells into bytes (R21, R626). -/
def toBytes (f : Nat) (cs : List Cell) : List Byte :=
  let c := cs.headD {}
  let s16 := fun h : Int => leBytes 2 (wrapU 16 (satS 16 (narrow h 2)))
  match f with
  | 1 => leBytes 3 (wrapU 12 (satS 12 (narrow c.hi 6)) + wrapU 12 (satS 12 (narrow c.lo 6)) * 4096)
  | 2 => s16 c.hi ++ s16 c.lo
  | 3 => s16 c.hi ++ s16 c.lo
  | 4 => leBytes 5 (c.data.toNat + c.tag.toNat * 2 ^ 36)
  | 5 => leBytes 8 (c.data.toNat + c.tag.toNat * 2 ^ 36)
  | 6 => leBytes 2 (wrapU 16 (lp16 c.hi)) ++ leBytes 2 (wrapU 16 (lp16 c.lo))
  | 7 =>
    let d := fun i : Nat => (((cs[i]?).getD {} : Cell).data : BitVec 36)
    leBytes 16 ((d 0).toNat + (d 1).toNat * 2 ^ 36 + fld (d 2) 0 8 * 2 ^ 72 + fld (d 2) 8 12 * 2 ^ 80 + fld (d 2) 20 4 * 2 ^ 92)
  | _ => []

/-- The signed value of the w low bits. -/
def signOf (w v : Nat) : Int := if v % 2 ^ w < 2 ^ (w - 1) then (v % 2 ^ w : Nat) else (v % 2 ^ w : Nat) - 2 ^ w

/-- A tag restored from a stored code: EMPTY and reserved codes become GAP (R22). -/
def restoreTag (t : Nat) : BitVec 4 := if t % 16 < 6 then BitVec.ofNat 4 t else tagGap

/-- One element of bytes into cells, and whether a stored tag was replaced, which R20 reports. -/
def ofBytes (f : Nat) (b : List Byte) : List Cell × Bool :=
  let v := ofLeBytes b
  let h2 := fun k : Nat => signOf 16 (v / 2 ^ (16 * k)) * 4
  match f with
  | 1 => ([Cell.ofHalves (signOf 12 v * 64) (signOf 12 (v / 4096) * 64)], false)
  | 2 => ([Cell.ofHalves (h2 0) (h2 1)], false)
  | 3 => ([Cell.ofHalves (h2 0) (h2 1)], false)
  | 4 => ([{ data := BitVec.ofNat 36 v, tag := restoreTag (v / 2 ^ 36) }], decide (5 < v / 2 ^ 36 % 16))
  | 5 => ([{ data := BitVec.ofNat 36 v, tag := restoreTag (v / 2 ^ 36) }], decide (5 < v / 2 ^ 36 % 16))
  | 6 => ([Cell.ofHalves (h2 0) (h2 1)], false)
  | 7 =>
    let c := fun (x : Nat) => ({ data := BitVec.ofNat 36 x } : Cell)
    ([c v, c (v / 2 ^ 36 % 2 ^ 36), c (v / 2 ^ 72 % 2 ^ 24), {}], false)
  | _ => ([], false)

/-! The coder. -/

/-- Width of the k-th code (R655). -/
def codeWidth (k : Nat) : Nat := min 16 (max 9 (log2Floor 64 (256 + k) + 1))

/-- Adler-32 (R656). -/
def adler32 (b : List Byte) : Nat :=
  let (a, c) := b.foldl (fun (a, c) x => let a := (a + x.toNat) % 65521; (a, (c + a) % 65521)) (1, 0)
  c * 65536 + a

/-- The coder's progress: dictionary of (code, byte) pairs, next entry, codes written (value and width, latest first),
bits, bytes covered and the current string's code. -/
structure Coder where
  dict : List ((Nat × Nat) × Nat) := []
  next : Nat := 257
  codes : List (Nat × Nat) := []
  k : Nat := 0
  bits : Nat := 0
  used : Nat := 0
  pre : Nat := 0
  closed : Bool := false

/-- Write the current string's code, unless the block must close early; j input bytes precede the next. -/
def Coder.emit (c : Coder) (j outmax : Nat) : Coder :=
  if (c.bits + codeWidth c.k + codeWidth (c.k + 1) + 7) / 8 + 8 > outmax then { c with closed := true }
  else { c with codes := (c.pre, codeWidth c.k) :: c.codes, bits := c.bits + codeWidth c.k, k := c.k + 1, used := j }

/-- The loop of R657 over the bytes after the first. -/
def Coder.go (outmax : Nat) : Coder → Nat → List Byte → Coder
  | c, j, [] => c.emit j outmax
  | c, j, x :: t =>
    match c.dict.find? fun p => p.1 == (c.pre, x.toNat) with
    | some (_, code) => Coder.go outmax { c with pre := code } (j + 1) t
    | none =>
      let c1 := c.emit j outmax
      if c1.closed then c1 else
      let c2 := if c1.next < 65536 then { c1 with dict := ((c1.pre, x.toNat), c1.next) :: c1.dict, next := c1.next + 1 } else c1
      Coder.go outmax { c2 with pre := x.toNat } (j + 1) t

/-- Pack codes least significant bit first (R656). -/
def packCodes : List (Nat × Nat) → Nat
  | [] => 0
  | (v, w) :: t => v + 2 ^ w * packCodes t

/-- One block: its bytes and the input bytes it covers (R657). -/
def codeBlock (input : List Byte) (outmax : Nat) : List Byte × Nat :=
  match input with
  | [] => ([], 0)
  | x :: t =>
    let c := Coder.go outmax { pre := x.toNat } 1 t
    let codes := c.codes.reverse ++ [(256, codeWidth c.k)]
    let bits := c.bits + codeWidth c.k
    (leBytes ((bits + 7) / 8) (packCodes codes) ++ leBytes 4 c.used ++ leBytes 4 (adler32 (input.take c.used)), c.used)

end Sys2Proof.Machine
end

