-- ==== Sys2Proof/Machine/Movers.lean ====
section
/-!
DEFINITION. Movers: activations, descriptors and their checks, transfers element by element, stops, faults and the end
of a chain (R619 to R641).
-/
namespace Sys2Proof.Machine

def Dev.mover (d : Dev) (m : Nat) : Mover := Tbl.get {} d.mov.movers m

def Dev.onMover (d : Dev) (m : Nat) (f : Mover → Mover) : Dev :=
  { d with mov := { d.mov with movers := Tbl.upd {} d.mov.movers m f } }

def Dev.onChain (d : Dev) (m : Nat) (f : Chain → Chain) : Dev :=
  d.onMover m fun v => { v with chain := v.chain.map f }

/-- Activations on a mover, queued and running. -/
def Mover.count (v : Mover) : Nat := v.queue.length + v.chain.isSome.toNat

/-- R631: the mover that 0xFF names: not HALTED, fewest activations, lowest number. -/
def Dev.anyMover (d : Dev) : Option Nat :=
  bestBy (fun a b => (d.mover a).count < (d.mover b).count) ((List.range 16).filter fun m => !(d.mover m).halted)

/-- The Crate behind an activation: the MOVE Crate, or the RUN whose copy issued the MVGO. -/
def Activation.uid (a : Activation) : Nat := a.crate.getD (a.inst.elim 0 (· / 64))

/-- Class and deadline that order the queue (R186): those of the Crate behind the activation. -/
def Dev.actRank (d : Dev) (a : Activation) : Nat × Nat :=
  match a.crate.bind d.live? with
  | none => (a.cls, a.deadline)
  | some c => (c.cls, c.deadline)

/-- R186, R191: class, deadline, then the sessions in turn, starting after the one that the mover served last, then
admission order. -/
def moverKey (v : Mover) (cls deadline session uid : Nat) : List Nat :=
  [cls, if deadline = 0 then 1 else 0, deadline,
    if deadline ≠ 0 then 0 else (session + 4096 - Tbl.get 0 v.lastServed cls - 1) % 4096, uid]

def Dev.actKey (d : Dev) (v : Mover) (a : Activation) : List Nat :=
  let (cls, deadline) := d.actRank a
  moverKey v cls deadline a.session a.uid

def keyBefore (a b : List Nat) : Bool := decide (List.lex a b (lt := fun x y : Nat => x < y) = true)

/-- Start the next activation of an idle mover, most urgent first: a MOVE Crate that waits here counts as started for R132
(log entry 88). -/
def Dev.kick (d : Dev) (m : Nat) : Dev :=
  let v := d.mover m
  if v.chain.isSome ∨ v.halted then d else
  match bestBy (fun a b => keyBefore (d.actKey v a) (d.actKey v b)) v.queue with
  | none => d
  | some a => d.onMover m fun v =>
    { v with
      queue := v.queue.erase a, chain := some { act := a, cur := a.first }, hops := 0
      lastServed := Tbl.set v.lastServed (d.actRank a).1 a.session }

/-- A paged-out Shelf of a session. -/
def Dev.isPaged (d : Dev) (session idx : Nat) : Bool :=
  match d.stk.entry? session idx with | some { place := .paged _, .. } => true | _ => false

/-- A chain stalled on a page-in (R199), and not by the preemption of its copy (R622). -/
def Dev.pageStalled (d : Dev) (c : Chain) : Bool := c.stalled && c.targets.any fun i => d.isPaged c.act.session i

/-- R638: a stop request; a chain stalled on a page-in stops at once (R200). -/
def Dev.stopChain (d : Dev) (m : Nat) : Dev :=
  d.onChain m fun c =>
    if c.fin.isSome then c
    else if d.pageStalled c then { c with stop := true, fin := some .cancelled }
    else { c with stop := true }

/-- R101, R638: cancel what a Crate has on the movers. -/
def Dev.cancelChains (d : Dev) (uid : Nat) : Dev :=
  (List.range 16).foldl (fun d m =>
    let d := if (d.mover m).queue.any fun a => a.crate == some uid then
      d.onMover m fun v => { v with queue := v.queue.filter fun a => a.crate != some uid } else d
    match (d.mover m).chain with
    | some c => if c.act.crate == some uid then d.stopChain m else d
    | none => d) d

/-! Failures (R636, R637). -/

/-- Count a chain that ended with a status. -/
def Mov.countFail (k : Mov) (st : Status) : Mov :=
  match st with
  | .loop => { k with failLoop := BitVec.ofNat 32 (satInc 32 k.failLoop.toNat) }
  | .timeout => { k with failTimeout := BitVec.ofNat 32 (satInc 32 k.failTimeout.toNat) }
  | .busError => { k with failBus := BitVec.ofNat 32 (satInc 32 k.failBus.toNat) }
  | .compareMismatch => { k with failCompare := BitVec.ofNat 32 (satInc 32 k.failCompare.toNat) }
  | _ => k

/-- R636: a mover latches its first failure, and enters HALTED after BUS_ERROR or TIMEOUT. -/
def Dev.latchErr (d : Dev) (m : Nat) (st : Status) (write : Bool) (space addr : Nat) : Dev :=
  d.onMover m fun v =>
    { v with
      err := v.err.orElse fun _ => some { status := st, dirWrite := write, space, addr }
      halted := v.halted || decide (st = .busError ∨ st = .timeout) }

/-- A stream halts with a failure (R162, R179, R636): its mover latches it. After BUS_ERROR or TIMEOUT the mover is HALTED
and carries the stream again after RESUME; after another failure the stream writes no further frame, and no FENCE waits for
it (log entry 80). -/
def Dev.haltStream (d : Dev) (sid : Nat) (st : Status) (addr : Nat) : Dev :=
  match Tbl.find? d.mov.streams sid with
  | none => d
  | some t =>
    let d := d.latchErr t.mover st false 1 addr
    if st = .busError ∨ st = .timeout then d
    else { d with mov := { d.mov with streams := Tbl.set d.mov.streams sid { t with halt := some st, fences := [] } } }

/-- CAUSE of an uncorrected read of a space: 1 multi-bit, 2 address check, 3 poisoned (R785). -/
def State.spaceCause (s : State) (act : Activation) (space addr : Nat) : Nat :=
  let of := fun r : WordRead => match r with | .bad c => c | _ => 1
  match space with
  | 1 => match s.dev.stk.translate act.session addr with | .phys p => s.mem.celCause p 1 | _ => 1
  | 2 => of (s.mem.loftRead addr)
  | 3 => ((act.inst.bind fun k => Tbl.find? s.dev.insts k).map fun i => of (i.locRead addr)).getD 1
  | _ => 1

/-- R636: halt the chain with a failure, latch it, and enter HALTED after BUS_ERROR or TIMEOUT; R780 records. -/
def State.failChain (s : State) (m : Nat) (st : Status) (write : Bool) (space addr : Nat) : State :=
  match (s.dev.mover m).chain with
  | none => s
  | some c =>
    if c.fin.isSome then s else
    let halts := st = .busError ∨ st = .timeout
    let s := s.onDev fun d =>
      (d.latchErr m st write space addr).onChain m fun c =>
        { c with fin := some st, stalled := false, targets := [], failAddr := addr, failWrite := write, failSpace := space }
    if halts then s.onDev fun d =>
      d.log { code := st, sev := 2, domain := domMover m, src := srcMov, addr, session := c.act.session, detail := m }
    else if st = .eccUncorrected then
      s.report { code := st, sev := 3, domain := domSession c.act.session, src := srcMov, cause := s.spaceCause c.act space addr, addr
                 session := c.act.session }
    else s

/-! Descriptors (R623 to R629). -/

/-- The fields of a descriptor. -/
structure Desc where
  w : Nat → BitVec 64

def Desc.ofBits (v : BitVec 512) : Desc := { w := fun i => BitVec.ofNat 64 (v.toNat >>> (64 * i)) }
def Desc.op (x : Desc) : Nat := fld (x.w 0) 0 4
def Desc.sspace (x : Desc) : Nat := fld (x.w 0) 4 2
def Desc.dspace (x : Desc) : Nat := fld (x.w 0) 6 2
def Desc.bfmt (x : Desc) : Nat := fld (x.w 0) 8 4
def Desc.last (x : Desc) : Bool := bit (x.w 0) 12
def Desc.notag (x : Desc) : Bool := bit (x.w 0) 13
def Desc.count (x : Desc) : Nat := fld (x.w 1) 0 32
def Desc.rows (x : Desc) : Nat := fld (x.w 1) 32 16 + 1
def Desc.src (x : Desc) : Nat := (x.w 2).toNat
def Desc.dst (x : Desc) : Nat := (x.w 3).toNat
def Desc.next (x : Desc) : Nat := (x.w 4).toNat
def Desc.fillv (x : Desc) : BitVec 64 := x.w 5
def Desc.sstride (x : Desc) : Int := sfld (x.w 6) 0 32
def Desc.dstride (x : Desc) : Int := sfld (x.w 6) 32 32
def Desc.cpl (x : Desc) : Nat := fld (x.w 7) 0 24

/-- Loft and local memory are cell spaces (R625). -/
def cellSpace (k : Nat) : Bool := k ≥ 2

/-- R632: the descriptor keeps R623, R624, R626, R627 and R629. -/
def Desc.wellFormed (x : Desc) (mvgo first : Bool) : Bool :=
  let sc := if x.op = 1 then cellSpace x.dspace else cellSpace x.sspace
  let dc := cellSpace x.dspace
  let mixed := sc != dc
  decide (x.op ≤ 2) && fld (x.w 0) 14 50 == 0 && fld (x.w 1) 48 16 == 0 && fld (x.w 7) 24 40 == 0 &&
  (x.op == 2 || !x.notag) &&
  (x.cpl == 0 || (mvgo && first)) &&
  (x.last || (if mvgo then decide (x.next < 2 ^ 24) else x.next % 64 == 0)) &&
  (if x.op = 1 then
    x.bfmt == 0 && x.sspace == 0 && x.src == 0 && x.sstride == 0 &&
      (!dc || (fld x.fillv 40 24 == 0 && decide (fld x.fillv 36 4 ≤ 5)))
  else
    x.fillv == 0 && (if mixed then decide (1 ≤ x.bfmt ∧ x.bfmt ≤ 7) else x.bfmt == 0) &&
      (x.bfmt != 7 || x.count % 4 == 0))

/-! Sides. -/

/-- A side of a transfer. -/
structure Side where
  space : Nat
  act : Activation
  /-- The access it needs: 1 read, 2 write (R619). -/
  access : Nat

/-- The handle a Cellar address belongs to. -/
def Dev.handleAt (d : Dev) (session idx : Nat) : Option Nat := (d.stk.entry? session idx).map (·.handle)

/-- R90: host bytes inside the device's own CXL.mem range. -/
def Dev.inHdm (d : Dev) (a n : Nat) : Bool :=
  match d.hlk.hdmDecoder with
  | none => false
  | some (gib, base) => decide (a < base.toNat + gib * 2 ^ 30 ∧ base.toNat < a + n)

/-- R619, R620: whether n units at an address may be reached. -/
def Dev.sideOk (d : Dev) (x : Side) (a n : Nat) : Bool :=
  let mvgo := x.act.crate.isNone
  match x.space with
  | 0 => !mvgo && !d.inHdm a n
  | 1 =>
    let lo := a / shelfBytes
    (List.range ((a + n - 1) / shelfBytes - lo + 1)).all fun i =>
      match d.handleAt x.act.session (lo + i) with
      | none => false
      | some h => !mvgo || x.act.grants.any fun g =>
          fld g 60 4 == 1 && fld g 0 32 == h && (fld g 56 2) &&& x.access == x.access
  | 2 =>
    let lo := a / 16384
    decide (a + n ≤ 2 ^ 24) &&
      (List.range ((a + n - 1) / 16384 - lo + 1)).all fun i => d.ownsPage x.act.session (lo + i)
  | _ =>
    match x.act.inst with
    | none => false
    | some key => match Tbl.find? d.insts key with
      | none => false
      | some i => decide (a + n ≤ (d.program? i.session i.prog).elim 0 (·.liveCells))

/-- R619, R620: the first address of a run that a side may not reach, as the descriptor starts; an unmapped Cellar address
shows when it is reached. -/
def Dev.sideBad (d : Dev) (x : Side) (a n : Nat) : Option Nat :=
  let mvgo := x.act.crate.isNone
  if n = 0 then none else
  match x.space with
  | 0 => if mvgo then some a else if d.inHdm a n then some (max a (d.hlk.hdmDecoder.elim 0 fun y => y.2.toNat)) else none
  | 1 =>
    if !mvgo then none else
    let lo := a / shelfBytes
    (((List.range ((a + n - 1) / shelfBytes - lo + 1)).map (lo + ·)).find? fun i =>
      (d.handleAt x.act.session i).any fun h => !(x.act.grants.any fun g =>
        fld g 60 4 == 1 && fld g 0 32 == h && (fld g 56 2) &&& x.access == x.access)).map fun i => max a (i * shelfBytes)
  | 2 =>
    let lo := a / 16384
    (((List.range ((a + n - 1) / 16384 - lo + 1)).map (lo + ·)).find? fun i =>
      !(d.ownsPage x.act.session i)).map fun i => max a (i * 16384)
  | _ =>
    match x.act.inst.bind fun key => Tbl.find? d.insts key with
    | none => some a
    | some i =>
      let live := (d.program? i.session i.prog).elim 0 (·.liveCells)
      if a + n ≤ live then none else some (max a live)

/-- Shelves of a Cellar run. -/
def Side.shelves (x : Side) (a n : Nat) : List Nat := if x.space = 1 then shelfRun a n else []

/-- Bytes of a run of session Cellar, Shelf by Shelf; none on an uncorrected check error, or where a Shelf is not there. -/
def State.sessionBytes (s : State) (session a n : Nat) : Option (List Byte) :=
  ((shelfPieces a n).mapM fun (lo, k) => match s.dev.stk.translate session lo with
    | .phys p => if s.mem.poisoned p k then none else some (s.mem.cellarGet p k)
    | _ => none).map List.flatten

/-- What reading a run of session Cellar does besides its data (R687). -/
def State.sessionRead (s : State) (session a n : Nat) : State :=
  (shelfPieces a n).foldl (fun s (lo, k) => match s.dev.stk.translate session lo with
    | .phys p => s.celRead p k (domSession session) session lo
    | _ => s) s

/-- Write a run of session Cellar, Shelf by Shelf. -/
def State.sessionWrite (s : State) (session a : Nat) (b : List Byte) : State :=
  (shelfPieces a b.length).foldl (fun s (lo, k) => match s.dev.stk.translate session lo with
    | .phys p => (s.celMerge p k (domSession session) session lo).cellarStore p ((b.drop (lo - a)).take k)
    | _ => s) s

/-- Read n bytes; none on an uncorrected check error. Host bytes come with the command. -/
def State.readBytes (s : State) (x : Side) (a n : Nat) (data : List Byte) : Option (List Byte) × List Byte :=
  if x.space = 0 then (some (data.take n), data.drop n) else (s.sessionBytes x.act.session a n, data)

def State.readCells (s : State) (x : Side) (a n : Nat) : Option (List Cell) :=
  if x.space = 2 then (List.range n).mapM fun i => (s.mem.loftRead (a + i)).cell?
  else match x.act.inst.bind fun k => Tbl.find? s.dev.insts k with
    | none => none
    | some i => (List.range n).mapM fun j => (i.locRead (a + j)).cell?

/-- What a side's read does besides its data: corrected words are recorded, counted and written back (R780, R792). -/
def State.sideRead (s : State) (x : Side) (a n : Nat) : State :=
  match x.space with
  | 0 => s
  | 1 => s.sessionRead x.act.session a n
  | 2 => if s.mem.loftErr.isEmpty then s else (List.range n).foldl (fun s i => s.loftMend (a + i) x.act.session (a + i)) s
  | _ => match x.act.inst with
    | none => s
    | some key => s.onDev fun d => (List.range n).foldl (fun d j => match Tbl.find? d.insts key with
      | none => d
      | some i => match i.locRead (a + j) with
        | .corrected _ => ((d.setInst key { i with locErr := Tbl.erase i.locErr (a + j) }).eccCount false).log
            { code := .ok, sev := 1, domain := domSession i.session, src := srcSpa, addr := a + j, session := i.session }
        | _ => d) d

/-- Add a run of host bytes to those of a transfer; adjacent runs join. -/
def joinRun (out : List (Nat × List Byte)) (a : Nat) (b : List Byte) : List (Nat × List Byte) :=
  match out with
  | (a0, b0) :: rest => if a0 + b0.length = a then (a0, b0 ++ b) :: rest else (a, b) :: out
  | [] => [(a, b)]

def State.writeCells (s : State) (x : Side) (a : Nat) (cs : List Cell) : State :=
  if x.space = 2 then s.onMem fun m => m.loftPutRun a cs
  else match x.act.inst with
    | none => s
    | some key => s.onDev fun d => match Tbl.find? d.insts key with
      | none => d
      | some i => d.setInst key { i with
          loc := (cs.zipIdx).foldl (fun t (c, k) => Tbl.set t (a + k) c.stored) i.loc
          locErr := i.locErr.filter fun p => !(a ≤ p.1 && p.1 < a + cs.length) }

/-- Progress of a transfer. -/
structure Xf where
  s : State
  data : List Byte
  dest : List Byte
  /-- The mover that carries it. -/
  mover : Nat := 0
  /-- Runs of bytes written to the host, latest first. -/
  out : List (Nat × List Byte) := []
  /-- A failure: status, write, space, address. -/
  fail : Option (Status × Bool × Nat × Nat) := none

def Xf.writeBytes (t : Xf) (x : Side) (a : Nat) (b : List Byte) : Xf :=
  if x.space = 0 then { t with out := joinRun t.out a b } else { t with s := t.s.sessionWrite x.act.session a b }

/-- The writes to the host go out line by line (R86). -/
def Xf.flush (t : Xf) : State := t.s.onDev fun d => t.out.reverse.foldl (fun d (a, b) => d.hostWrite a b) d

/-- Units of one element on a side: cells of a cell space, bytes of a byte space. -/
def elemUnits (f : Nat) (cell mixed : Bool) : Nat :=
  if cell then (if mixed then fmtCells f else 1) else if mixed then fmtBytes f else 1

/-- One element of a descriptor at its source and destination addresses (R625 to R630). -/
def Xf.elem (t : Xf) (x : Desc) (sx dx : Side) (sa da : Nat) : Xf :=
  if t.fail.isSome then t else
  let sc := if x.op = 1 then cellSpace dx.space else cellSpace sx.space
  let dc := cellSpace dx.space
  let mixed := sc != dc
  let su := elemUnits x.bfmt sc mixed
  let du := elemUnits x.bfmt dc mixed
  if x.op ≠ 1 ∧ !t.s.dev.sideOk sx sa su then { t with fail := some (.grantFault, false, sx.space, sa) }
  else if !t.s.dev.sideOk dx da du then { t with fail := some (.grantFault, x.op != 2, dx.space, da) }
  else if x.op = 1 then
    if dc then { t with s := t.s.writeCells dx da [{ data := BitVec.ofNat 36 x.fillv.toNat, tag := BitVec.ofNat 4 (fld x.fillv 36 4) }] }
    else t.writeBytes dx da [byteAt x.fillv (da % 8)]
  else
    -- the converted source: cells or bytes, as the destination needs them
    let (got, data) : Option (List Cell × List Byte × Bool) × List Byte :=
      if sc then ((t.s.readCells sx sa su).map fun cs =>
        if dc then (cs, [], false) else ([], toBytes x.bfmt cs, false), t.data)
      else
        let (b, rest) := t.s.readBytes sx sa su t.data
        (b.map fun b => if dc then let (cs, odd) := ofBytes x.bfmt b; (cs, [], odd) else ([], b, false), rest)
    let t := { t with s := t.s.sideRead sx sa su }
    match got with
    | none => { t with data, fail := some (.eccUncorrected, false, sx.space, sa) }
    | some (cs, bs, odd) =>
      -- R20, R22: a stored tag that is reserved
      let s := if odd then t.s.onDev fun d =>
        d.log { code := .ok, sev := 0, domain := domMover t.mover, src := srcMov, session := sx.act.session } else t.s
      if x.op = 0 then
        if dc then { t with s := s.writeCells dx da cs, data } else { t with s, data }.writeBytes dx da bs
      else if dc then
        let got := s.readCells dx da du
        let s := s.sideRead dx da du
        match got with
        | none => { t with s, data, fail := some (.eccUncorrected, false, dx.space, da) }
        | some ds =>
          let same := if x.notag then cs.map (·.data) == ds.map (·.data) else cs == ds
          { t with s, data, fail := if same then none else some (.compareMismatch, false, dx.space, da) }
      else
        let (db, dest) := s.readBytes dx da du t.dest
        let s := s.sideRead dx da du
        match db with
        | none => { t with s, data, dest, fail := some (.eccUncorrected, false, dx.space, da) }
        | some db => { t with s, data, dest, fail := if bs = db then none else some (.compareMismatch, false, dx.space, da) }

/-- Address of a row's unit, modulo 2^64 (R625). -/
def rowAddr (base row : Nat) (stride : Int) (off : Nat) : Nat := (((base : Int) + row * stride + off) % 2 ^ 64).toNat

/-- Elements per row. -/
def Desc.elems (x : Desc) : Nat := if x.bfmt = 7 then x.count / 4 else x.count

/-- All rows of a descriptor in order. -/
def Xf.rows (t : Xf) (x : Desc) (sx dx : Side) : Xf :=
  let sc := if x.op = 1 then cellSpace dx.space else cellSpace sx.space
  let dc := cellSpace dx.space
  let su := elemUnits x.bfmt sc (sc != dc)
  let du := elemUnits x.bfmt dc (sc != dc)
  (List.range x.rows).foldl (fun t r =>
    (List.range x.elems).foldl (fun t e =>
      t.elem x sx dx (rowAddr x.src r x.sstride (e * su)) (rowAddr x.dst r x.dstride (e * du))) t) t

/-- R620: the first address of a descriptor's sides that may not be reached, with its direction and space. -/
def Dev.descBad (d : Dev) (x : Desc) (sx dx : Side) : Option (Bool × Nat × Nat) :=
  let sc := if x.op = 1 then cellSpace dx.space else cellSpace sx.space
  let dc := cellSpace dx.space
  (List.range x.rows).findSome? fun r =>
    (if x.op = 1 then none else
      (d.sideBad sx (rowAddr x.src r x.sstride 0) (x.elems * elemUnits x.bfmt sc (sc != dc))).map fun a => (false, sx.space, a)).orElse
    fun _ => (d.sideBad dx (rowAddr x.dst r x.dstride 0) (x.elems * elemUnits x.bfmt dc (sc != dc))).map fun a => (x.op != 2, dx.space, a)

/-- R641: a completion record lies in Loft pages of the chain's session. -/
def Dev.cplOk (d : Dev) (session cpl : Nat) : Bool := d.ownsPage session (cpl / 16384) && d.ownsPage session ((cpl + 3) / 16384)

/-- R640: bytes a completed descriptor counts. -/
def Desc.bytesMoved (x : Desc) : Nat :=
  let sc := if x.op = 1 then cellSpace x.dspace else cellSpace x.sspace
  let dc := cellSpace x.dspace
  x.rows * (if sc && dc then 8 * x.count else if sc != dc then x.elems * fmtBytes x.bfmt else x.count)

/-- R634: the boundary before a further descriptor: loop, or budget used up. -/
def Chain.loops (c : Chain) : Bool := c.completed != 0 && (c.cur == c.act.first || decide (c.hops ≥ c.act.budget))

/-- The descriptor a chain is at: from the command for a MOVE chain, from Loft for MVGO; or how it fails. -/
def State.fetchDesc (s : State) (c : Chain) (given : BitVec 512) : Except (Status × Nat) Desc :=
  if c.act.crate.isSome then
    if c.cur % 64 ≠ 0 then .error (.cfgRange, 0)
    else if s.dev.inHdm c.cur 64 then .error (.grantFault, 0)
    else .ok (Desc.ofBits given)
  else
    let x : Side := { space := 2, act := c.act, access := 1 }
    if !s.dev.sideOk x c.cur 16 then .error (.grantFault, 2)
    else match s.readCells x c.cur 16 with
      | none => .error (.eccUncorrected, 2)
      | some cs =>
        if cs.any fun k => fld k.data 32 4 ≠ 0 then .error (.cfgRange, 2)
        else .ok (Desc.ofBits (BitVec.ofNat 512 (cs.foldr (fun k a => fld k.data 0 32 + 2 ^ 32 * a) 0)))

/-- Execute the current descriptor of a mover's chain, of the OP the command names. Without such a descriptor, or
without the host data it needs, nothing happens. -/
def State.runDesc (s : State) (m op : Nat) (given : BitVec 512) (data dest : List Byte) : State :=
  match (s.dev.mover m).chain with
  | none => s
  | some c =>
    -- the first descriptor of an MVGO chain tells where its record goes, also when a stop waits
    let opens := c.act.crate.isNone && c.completed == 0
    if c.fin.isSome ∨ (s.dev.mover m).halted then s
    else if c.loops then s.failChain m .loop false (if c.act.crate.isSome then 0 else 2) c.cur
    else if c.stop && !opens && !c.stalled then s.onDev fun d => d.onChain m fun c => { c with fin := some .cancelled }
    else
    let read := fun (s : State) => s.onDev fun d =>
      if c.stalled then d else (d.onChain m fun c => { c with hops := c.hops + 1 }).onMover m fun v => { v with hops := v.hops + 1 }
    match s.fetchDesc c given with
    | .error (st, space) => (read s).failChain m st false space c.cur
    | .ok x =>
      if x.op ≠ op ∧ ¬ (x.op > 2 ∧ op = 0) then s else
      let s := if opens then s.onDev fun d => d.onChain m fun c => { c with cpl := x.cpl } else s
      -- a descriptor that R622 paused completes first (R638)
      if c.stop && !c.stalled then (read s).onDev fun d => d.onChain m fun c => { c with fin := some .cancelled }
      else if !x.wellFormed c.act.crate.isNone (c.completed == 0) then
        (read s).failChain m .cfgRange false (if c.act.crate.isSome then 0 else 2) c.cur
      else if opens && x.cpl != 0 && !s.dev.cplOk c.act.session x.cpl then (read s).failChain m .grantFault true 2 x.cpl
      else
      let sx : Side := { space := x.sspace, act := c.act, access := 1 }
      let dx : Side := { space := x.dspace, act := c.act, access := if x.op = 2 then 1 else 2 }
      match if x.count = 0 then none else s.dev.descBad x sx dx with
      | some (w, sp, a) => (read s).failChain m .grantFault w sp a
      | none =>
      let sc := cellSpace x.sspace
      let need := x.rows * x.elems * elemUnits x.bfmt false (sc != cellSpace x.dspace)
      if (x.op ≠ 1 ∧ x.sspace = 0 ∧ data.length < need) ∨ (x.op = 2 ∧ x.dspace = 0 ∧ dest.length < need) then s
      else
      let touched := fun (y : Side) (base : Nat) (stride : Int) (cell : Bool) =>
        dedup ((List.range x.rows).flatMap fun r =>
          y.shelves (rowAddr base r stride 0) (x.elems * elemUnits x.bfmt cell (sc != cellSpace x.dspace)))
      let shelves := if x.count = 0 then [] else
        dedup ((if x.op = 1 then [] else touched sx x.src x.sstride sc) ++ touched dx x.dst x.dstride (cellSpace x.dspace))
      let out := shelves.filter fun i => s.dev.isPaged c.act.session i
      let away := (x.sspace = 3 ∨ x.dspace = 3) ∧
        (c.act.inst.bind fun k => Tbl.find? s.dev.insts k).any fun i => match i.seat with | .saved _ => true | _ => false
      let stall := fun (d : Dev) => d.onChain m fun c => { c with stalled := true, targets := shelves }
      -- R175, R199: a paged-out Shelf stalls the mover before the descriptor starts; what it touches is pinned (R47)
      if x.count ≠ 0 ∧ !out.isEmpty then
        (read s).onDev fun d => out.foldl (fun d i => d.pageIn c.act.session i (.mover m)) (stall d)
      else if x.count ≠ 0 ∧ away then (read s).onDev stall
      else
      let s := (read s).onDev fun d => shelves.foldl (fun d i => d.touch c.act.session i) (d.onChain m fun c =>
        { c with stalled := false, targets := [] })
      let t := if x.count = 0 then { s, data, dest } else ({ s, data, dest, mover := m } : Xf).rows x sx dx
      let s := t.flush
      match t.fail with
      | some (st, w, sp, a) => s.failChain m st w sp a
      | none => s.onDev fun d => d.onChain m fun c =>
          { c with
            completed := c.completed + 1, bytes := c.bytes + x.bytesMoved, cur := x.next
            fin := if x.last then some .ok else if c.stop && !({ c with completed := 1, cur := x.next } : Chain).loops then some .cancelled else none }

/-- The end of a chain: the Crate's completion or the MVGO record and event, then the next activation (R640, R641). -/
def State.endChain (s : State) (m : Nat) : State :=
  match (s.dev.mover m).chain with
  | none => s
  | some c =>
    match c.fin with
    | none => s
    | some st =>
      let failed := st ≠ .ok ∧ st ≠ .cancelled
      let r0 := if failed then c.failAddr else c.bytes
      let s := s.onDev fun d => { d with mov := d.mov.countFail st }
      let s := match c.act.crate with
        | some uid => s.onDev fun d => d.finish uid st r0 c.completed
        | none =>
          let w0 := st.code.toNat + (failed && c.failWrite).toNat * 2 ^ 8 + (if failed then c.failSpace else 0) * 2 ^ 9 + m * 2 ^ 12
          let cells : List Nat := [w0, c.completed % 2 ^ 32, r0 % 2 ^ 32, r0 / 2 ^ 32 % 2 ^ 32]
          let s := if c.cpl ≠ 0 ∧ s.dev.cplOk c.act.session c.cpl then
            s.onMem fun mm => mm.loftPutRun c.cpl (cells.map fun v => { data := BitVec.ofNat 36 v }) else s
          s.onDev fun d => d.raise (0x700 + m) d.stamp (some c.act.session)
      s.onDev fun d => (d.onMover m fun v => { v with chain := none }).kick m

/-! Meanings. -/

/-- R186, R191: no ready MOVE Crate for the mover stands before the Crate. -/
def Dev.moveTurn (d : Dev) (m : Nat) (c : Live) : Bool :=
  let key := fun c : Live => moverKey (d.mover m) c.cls c.deadline c.session c.uid
  let mine := fun o : Live => if o.num 40 1 = 0xFF then d.anyMover == some m else o.num 40 1 == m
  !(d.hlk.live.any fun o => o.isReady && o.kind == 2 && d.startable o && mine o && keyBefore (key o) (key c))

/-- R631: a MOVE Crate joins its mover's queue in its turn, or waits in the Storekeeper while it cannot. -/
def execMove (crate : Nat) (s : State) : Outcome :=
  devStep s fun d =>
    match d.starts crate 2 with
    | none => d
    | some c =>
      let named := c.num 40 1
      match if named = 0xFF then d.anyMover else some named with
      | none => d
      | some m =>
        let v := d.mover m
        if v.halted ∨ v.queue.length ≥ 64 ∨ !d.moveTurn m c then d else
        let act : Activation :=
          { crate := some crate, session := c.session, first := c.num 32 8
            budget := if c.num 44 4 = 0 then 65536 else c.num 44 4, tmo := if c.num 48 4 = 0 then 1000 else c.num 48 4 }
        (((d.onLive crate fun c => { c with phase := .active }).onMover m fun v => { v with queue := v.queue ++ [act] })).kick m

/-- R626: OP 0. -/
def execCopy (mover : Fin 16) (desc : BitVec 512) (data : List Byte) (s : State) : Outcome :=
  .next (s.runDesc mover 0 desc data [])

/-- R629: OP 1. -/
def execFill (mover : Fin 16) (desc : BitVec 512) (s : State) : Outcome := .next (s.runDesc mover 1 desc [] [])

/-- R630: OP 2. -/
def execCompare (mover : Fin 16) (desc : BitVec 512) (data dest : List Byte) (s : State) : Outcome :=
  .next (s.runDesc mover 2 desc data dest)

/-- R634: decided before the next descriptor is read. -/
def execHopLimit (mover : Fin 16) (s : State) : Outcome :=
  .next (match (s.dev.mover mover).chain with
    | some c => if c.loops then s.failChain mover .loop false (if c.act.crate.isSome then 0 else 2) c.cur else s
    | none => s)

/-- R637: a request of a mover fails. A mover that is stalled has none outstanding, and its timeout does not count the stall
(R199, R622). -/
def State.requestFails (s : State) (m : Nat) (st : Status) (write : Bool) (space addr : Nat) : State :=
  if (s.dev.mover m).chain.any (·.stalled) then s else s.failChain m st write space addr

/-- R637: no response within the timeout. -/
def execRequestTimeout (mover : Fin 16) (write : Bool) (space : BitVec 2) (addr : BitVec 64) (s : State) : Outcome :=
  .next (s.requestFails mover .timeout write space.toNat addr.toNat)

/-- R637: answered with an error. -/
def execBusError (mover : Fin 16) (write : Bool) (space : BitVec 2) (addr : BitVec 64) (s : State) : Outcome :=
  .next (s.requestFails mover .busError write space.toNat addr.toNat)

/-- R640, R641. -/
def execChainCompletion (mover : Fin 16) (s : State) : Outcome := .next (s.endChain mover)

/-- R638: MOV_CH_CTL.STOP. -/
def execStop (mover : Fin 16) (s : State) : Outcome := hostStep s fun d => d.stopChain mover

/-- R636: MOV_CH_CTL.RESUME leaves HALTED, clears the latch and starts the next activation. -/
def execResume (mover : Fin 16) (s : State) : Outcome :=
  startStep s fun d =>
    (d.onMover mover fun v => { v with halted := false, err := none }).kick mover

end Sys2Proof.Machine
end

