-- ==== Sys2Proof/Machine/BelysOps.lean ====
section
/-!
DEFINITION. The Belys queues: doorbells, Crate format and admission (R105 to R120, R180 to R183), Chits (R125 to R133)
and coalesced vectors (R98).
-/
namespace Sys2Proof.Machine

/-! Hatches. -/

def Dev.onHatch (d : Dev) (h : Nat) (f : Hatch → Hatch) : Dev :=
  match Tbl.find? d.hlk.hatches h with
  | none => d
  | some x => { d with hlk := { d.hlk with hatches := Tbl.set d.hlk.hatches h (f x) } }

/-- Count an ignored doorbell of a Hatch, saturating (R108). -/
def Dev.badDoorbell (d : Dev) (h : Nat) : Dev :=
  { d with hlk := { d.hlk with badDb := Tbl.upd 0 d.hlk.badDb h fun c => BitVec.ofNat 32 (satInc 32 c.toNat) } }

/-- R110: write the head count back at least once per 16 Crates and when head reaches the accepted tail. -/
def Dev.writeBack (d : Dev) (h : Nat) : Dev :=
  match Tbl.find? d.hlk.hatches h with
  | none => d
  | some x =>
    if x.head = x.tail ∨ (x.head - x.wroteBack).toNat ≥ 16 then
      let d := d.onHatch h fun x => { x with wroteBack := x.head }
      { d with host := d.host ++ [.write (x.base + BitVec.ofNat 64 (2 ^ x.n * 64)) (leBytes 8 x.head.toNat)] }
    else d

/-- A Crate was read: the head advances. -/
def Dev.advance (d : Dev) (h : Nat) : Dev :=
  (d.onHatch h fun x => { x with head := x.head + 1, waiting := none }).writeBack h

/-! Crate format (R114, R115, R119). -/

/-- Bytes a to b of a Crate are zero. -/
def zeroBytes (raw : BitVec 512) (a b : Nat) : Bool := fld raw (8 * a) (8 * (b + 1 - a)) == 0

/-- A grant word keeps R119. -/
def grantFormOk (g : BitVec 64) : Bool :=
  let k := fld g 60 4
  decide (1 ≤ k ∧ k ≤ 4) && fld g 58 2 == 0 && fld g 56 2 != 0 && fld g 32 24 == 0

/-- A used dependency word keeps R118. -/
def depFormOk (w : Nat) : Bool :=
  let k := w / 2 ^ 28
  decide (1 ≤ k ∧ k ≤ 3) && w / 2 ^ 16 % 2 ^ 12 == 0 && (k != 3 || w / 2 ^ 12 % 16 == 0)

def Live.dep (c : Live) (i : Nat) : Nat := c.num (16 + 4 * i) 4
def Live.ndep (c : Live) : Nat := fld c.raw 36 3
def Live.ngrant (c : Live) : Nat := c.num 38 1
def Live.grantWord (c : Live) (i : Nat) : BitVec 64 := BitVec.ofNat 64 (c.num (48 + 8 * i) 8)

def Live.headerOk (c : Live) : Bool :=
  zeroBytes c.raw 1 1 && !bit c.raw 39 && decide (c.ndep ≤ 4) && fld c.raw 46 2 == 0 && zeroBytes c.raw 6 7 &&
    (List.range 4).all fun i => if i < c.ndep then depFormOk (c.dep i) else c.dep i == 0

/-- Payload fields, per kind; an unknown KIND or OP is out of range. -/
def Live.payloadOk (c : Live) : Bool :=
  let z := zeroBytes c.raw
  match c.kind with
  | 0x01 => decide (1 ≤ c.nspu ∧ c.nspu ≤ 64) && fld c.raw (37 * 8 + 1) 7 == 0 && decide (c.ngrant ≤ 32) && z 39 39 &&
      (c.ngrant == 2 || z 56 63) && (decide (c.ngrant ≤ 2) || c.num 48 8 % 64 == 0) &&
      (decide (c.ngrant > 2) || (List.range c.ngrant).all fun i => grantFormOk (c.grantWord i))
  | 0x02 => (decide (c.num 40 1 ≤ 15) || c.num 40 1 == 255) && z 41 43 && decide (c.num 48 4 ≤ 65536) && z 52 63
  | 0x03 => decide (c.num 32 1 ≤ 1) && (decide (c.num 33 1 ≤ 3) || c.num 33 1 == 255) && z 49 55 &&
      (c.num 32 1 == 1 || z 34 35)
  | 0x04 => decide (c.num 32 1 ≤ 2) && decide (c.num 33 1 ≤ 15) && decide (c.num 34 2 < 4096) && z 60 63
  | 0x05 => decide (c.num 32 1 ≤ 1) && decide (c.num 33 1 ≤ 1) && z 34 35 && z 48 63
  | 0x06 => z 36 63
  | 0x07 => z 44 63
  | 0x08 => decide (c.num 32 1 ≤ 1) && decide (c.num 33 1 ≤ 1) && z 34 63
  | 0x09 => z 34 35 && z 52 63
  | 0x0F => decide (1 ≤ c.num 32 1 ∧ c.num 32 1 ≤ 9) && z 33 33
  | _ => false

/-! Admission (R180). -/

/-- Unit IDs of the device. -/
def unitExists (u : Nat) : Bool :=
  [0x00, 0x01, 0x02, 0x03, 0x08, 0x09, 0x0A, 0x0B, 0x10, 0x11, 0x12, 0x13, 0x14, 0x18, 0x19, 0x1A, 0x1B, 0x20, 0x21, 0x22, 0x23,
   0x28, 0x30, 0x38, 0x40, 0x48].contains u

/-- Sessions that hold a unit with the access bits (2 write), by the grants of their RUNs. -/
def Dev.unitHolders (d : Dev) (u access : Nat) : List Nat :=
  (d.hlk.live.filter fun c => c.isRun && c.grants.any fun g =>
    fld g 60 4 == 2 && fld g 0 32 == u && (fld g 56 2) &&& access == access).map (·.session)

/-- R120: a grant names an object that the session owns or may take. -/
def Dev.grantOk (d : Dev) (n : Nat) (g : BitVec 64) : Bool :=
  let o := fld g 0 32
  match fld g 60 4 with
  | 1 => d.stk.shelves.any (fun e => e.session == n && e.handle == o && !e.freed) ||
      d.stk.loft.any fun (_, p) => p.session == n && p.handle == o && !p.freed
  | 2 => unitExists o && (d.unitHolders o 2).all (· == n)
  | 3 => decide (o < 16) && (match (d.barrel o).owner with | none => true | some m => m == n)
  | _ => match Tbl.find? d.mov.streams o with | some t => t.session == n | none => false

/-- Grant words of a list in host memory, eight bytes each. -/
def grantList (b : List Byte) : Nat → List (BitVec 64)
  | 0 => []
  | k + 1 => BitVec.ofNat 64 (ofLeBytes (b.take 8)) :: grantList (b.drop 8) k

/-- Outcome of the admission tests. -/
inductive Verdict
  | wait
  | fails (st : Status)
  | admits (grants : List (BitVec 64))
deriving DecidableEq, Repr

/-- In-flight Crates of a session (R132). -/
def Dev.inflight (d : Dev) (n : Nat) : Nat := (d.hlk.live.filter fun c => c.session == n && c.admitted).length

/-- R180: tests 1 to 6 in order. In test 5 the read of the GLIST and the form of its words come first, then PROG and the
grants (log entry 89). -/
def Dev.verdict (d : Dev) (c : Live) (glist : HostData) : Verdict :=
  let s := d.session c.session
  let dup := d.hlk.live.any fun o => o.session == c.session && o.admitted && o.tag == c.tag
  let vec := c.irq && decide (c.vec ≥ s.vecCount)
  if !c.headerOk ∨ !c.payloadOk ∨ dup ∨ vec then .fails .cfgRange
  else if c.kind = 0x0F ∧ c.hatch ≠ 0 then .fails .grantFault
  else if c.session ≠ 0 ∧ fld c.raw 32 3 < s.qPrio then .fails .quota
  else if c.session ≠ 0 ∧ d.inflight c.session ≥ s.qInflight then .wait
  else if !c.isRun then .admits []
  else if c.session ≠ 0 ∧ c.nspu > s.qSpus then .fails .quota
  else if c.nspu > d.schedulable then .fails .cfgRange
  else
    let prog := d.stk.programs.any fun p => p.session == c.session && p.handle == c.num 32 4 && !p.freed
    let check := fun gs : List (BitVec 64) =>
      if prog && gs.all (d.grantOk c.session) then Verdict.admits gs else .fails .grantFault
    if c.ngrant ≤ 2 then check ((List.range c.ngrant).map c.grantWord)
    else if d.inHdm (c.num 48 8) (8 * c.ngrant) then .fails .grantFault
    else match glist with
      | .busError => .fails .busError
      | .timeout => .fails .timeout
      | .bytes b =>
        let gs := grantList b c.ngrant
        if gs.all grantFormOk then check gs else .fails .cfgRange

/-- R183, R184: the dependencies of a Crate as it is admitted. -/
def Dev.bindDeps (d : Dev) (c : Live) : List Dep :=
  (List.range c.ndep).map fun i =>
    let w := c.dep i
    if w / 2 ^ 28 = 3 then
      let id := BitVec.ofNat 12 w
      -- an occurrence that came at this tick counts (R184)
      if d.hlk.arriveTick = d.tim.ticks ∧ d.hlk.arrivals.any (fun e => e.id == id && e.reaches c.session) then .met else .event id
    else match (d.hlk.live.filter fun o => o.session == c.session && o.admitted && o.tag == w % 65536).getLast? with
      | none => .met
      | some o => .tag o.uid (w / 2 ^ 28 == 1)

def Dev.pushLive (d : Dev) (c : Live) : Dev :=
  { d with hlk := { d.hlk with live := d.hlk.live ++ [c], nextUid := d.hlk.nextUid + 1 } }

/-- Decide a Crate that is not admitted: it only awaits its Chit. -/
def Dev.pushFailed (d : Dev) (c : Live) (st : Status) : Dev :=
  (d.pushLive { c with admitted := false }).finish c.uid st

/-- R450: the first admitted Crate that names a free Barrel makes its session the owner. -/
def Dev.claimBarrels (d : Dev) (c : Live) (grants : List (BitVec 64)) : Dev :=
  let bs := if c.kind = 4 then [c.num 33 1] else (grants.filter fun g => fld g 60 4 == 3).map fun g => fld g 0 32
  bs.foldl (fun d b => if (d.barrel b).owner.isNone then d.onBarrel b fun r => { r with owner := some c.session } else d) d

/-- Test one Crate and admit it, decide it, or hold its Hatch (R180, R181). -/
def Dev.admission (d : Dev) (h : Nat) (x : Hatch) (raw : BitVec 512) (glist : HostData) : Dev :=
  let s := d.session x.owner
  let c : Live := { uid := d.hlk.nextUid, session := x.owner, hatch := h, index := x.head, raw, cls := fld raw 32 3 }
  let c := { c with irqVec := if c.irq ∧ c.vec < s.vecCount then some (BitVec.ofNat 6 c.vec) else none }
  match s.st with
  | .draining =>
    (d.pushFailed c (if s.drain.any (·.escalated) then .internal else .cancelled)).advance h
  | .opened =>
    match d.verdict c glist with
    | .wait => d.onHatch h fun x => { x with waiting := some raw }
    | .fails st => (d.pushFailed c st).advance h
    | .admits grants =>
      let deps := d.bindDeps c
      let c := { c with grants, deps, phase := if deps.all (· == .met) then .ready d.tim.ticks else .waiting }
      let d := d.claimBarrels c grants
      let d := if c.isRun then { d with stk := d.stk.refRun c true } else d
      (d.pushLive c).advance h
  | _ => d

/-! Chits. -/

def Live.chit (c : Live) (held : Bool) : Chit :=
  { tag := BitVec.ofNat 16 c.tag, status := c.status, held, late := c.late, hatch := BitVec.ofNat 12 c.hatch, index := c.index
    result1 := c.result1, result0 := c.result0, ctime := c.ctime
    irq := c.irqVec, uid := c.uid }

/-- R125: the 32 bytes of a Chit with its free-running index. -/
def Chit.bytes (c : Chit) (index : BitVec 32) (log2 : Nat) : List Byte :=
  let phase := !(index.toNat.testBit log2)
  leBytes 2 c.tag.toNat ++ [c.status.code] ++ leBytes 1 (phase.toNat + c.held.toNat * 2 + c.late.toNat * 4) ++
  leBytes 2 c.hatch.toNat ++ leBytes 2 0 ++ leBytes 4 c.index.toNat ++ leBytes 4 c.result1.toNat ++
  leBytes 8 c.result0.toNat ++ leBytes 8 c.ctime.toNat

/-- R98: request a vector of a session's block. No vector above 2,047 exists: after a SET_VECTORS a Crate admitted before it
may name one, and then raises none (log entry 84). -/
def Dev.requestVector (d : Dev) (n vec : Nat) : Dev :=
  let s := d.session n
  let v := s.vecBase + vec
  if 2048 ≤ v then d else if s.coal = 0 then d.vector v else
  let c := Tbl.get {} d.hlk.coal v
  if c.inInterval then { d with hlk := { d.hlk with coal := Tbl.set d.hlk.coal v { c with pending := true } } }
  else ({ d with hlk := { d.hlk with coal := Tbl.set d.hlk.coal v { inInterval := true } } }).vector v

/-- R118, R201: an issued Chit settles the tag dependencies bound to its Crate. -/
def Dev.settleDeps (d : Dev) (uid : Nat) (st : Status) : Dev :=
  let bad := !(st == .ok || st == .partial_ || st == .deadlineMissed)
  let cancels := (d.hlk.live.filter fun c => c.deps.any fun x => x == .tag uid true && bad).map (·.uid)
  let d := { d with hlk := { d.hlk with live := d.hlk.live.map fun c =>
    { c with deps := c.deps.map fun x => if x == .tag uid true || x == .tag uid false then .met else x } } }
  cancels.foldl (fun d u => d.finish u .cancelled) d

/-- Free slots of a session's Chit ring. -/
def Session.chitRoom (s : Session) : Bool := decide ((s.chitCount - s.chitHead).toNat < 2 ^ s.chitLog2)

/-- R125 to R132, R140: write a Chit, raise its event and its vector, and end its Crate. -/
def Dev.writeChit (d : Dev) (n : Nat) (c : Chit) : Dev :=
  let s := d.session n
  let slot := s.chitCount.toNat % 2 ^ s.chitLog2
  let txn := HostTxn.write (s.chitBase + BitVec.ofNat 64 (slot * 32)) (c.bytes s.chitCount s.chitLog2)
  let live := d.live? c.uid
  let d := { d with host := d.host ++ [txn] }
  let d := d.onSession n fun s => { s with chitCount := s.chitCount + 1 }
  let d := { d with hlk := { d.hlk with live := d.hlk.live.filter fun x => x.uid != c.uid } }
  let d := match live with
    | some x => if x.isRun && x.admitted then { d with stk := (d.stk.refRun x false).reclaim } else d
    | none => d
  let d := d.settleDeps c.uid c.status
  let d := d.raise (0x900 + c.tag.toNat / 256) (stampOf c.ctime) (some n)
  match c.irq with
  | some v => d.requestVector n v.toNat
  | none => d

/-- R132: a decided Chit without room joins the held queue of 256, or stays with its Crate. -/
def Dev.holdChit (d : Dev) (n : Nat) (c : Chit) : Dev :=
  if (d.session n).held.length < 256 then
    (d.onSession n fun s => { s with held := s.held ++ [{ c with held := true }] }).hlkErr 4
  else d

/-- Whether a Crate's Chit is already in its session's held queue. -/
def Session.holds (s : Session) (uid : Nat) : Bool := s.held.any fun c => c.uid == uid

/-- Issue the Chit of a decided Crate (R136), or hold it (R132). -/
def Dev.issueChit (d : Dev) (uid : Nat) : Dev :=
  match d.live? uid with
  | none => d
  | some c =>
    let s := d.session c.session
    if !c.decided ∨ s.holds uid then d
    else if s.chitRoom && s.held.isEmpty then d.writeChit c.session (c.chit false)
    else d.holdChit c.session (c.chit true)

/-- The decided Crate that has waited longest outside a full held queue: statuses are decided in the order of CTIME. -/
def Dev.nextOverflow (d : Dev) (n : Nat) : Option Live :=
  bestBy (fun a b => tickBefore a.ctime b.ctime)
    (d.hlk.live.filter fun c => c.session == n && c.decided && !(d.session n).holds c.uid)

/-- Write the first held Chit once there is room; the next decided Crate enters the queue if it was full (R132). -/
def Dev.releaseHeld (d : Dev) (n : Nat) : Dev :=
  let s := d.session n
  match s.held with
  | [] => d
  | c :: rest =>
    if !s.chitRoom then d else
    let full := decide (s.held.length ≥ 256)
    let d := (d.onSession n fun s => { s with held := rest }).writeChit n c
    if full then match d.nextOverflow n with
      | some x => d.holdChit n (x.chit true)
      | none => d
    else d

end Sys2Proof.Machine
end

