-- ==== Sys2Proof/Machine/Belys.lean ====
section
/-!
DEFINITION. Commands of the Belys queues and of the link.
-/
namespace Sys2Proof.Machine

/-- R108: a doorbell is accepted, or ignored, counted and reported. -/
def execHatchTail (hatch : BitVec 12) (value : BitVec 32) (s : State) : Outcome :=
  hostStep s fun d =>
    let h := hatch.toNat
    match Tbl.find? d.hlk.hatches h with
    | none =>
      if h = 0 then (d.badDoorbell h).hlkErr 3
      else ((d.badDoorbell h).hlkErr 2).note .cfgRange domDevice srcHlk (cause := 2) (detail := h)
    | some x =>
      if (d.session x.owner).st = .closed then (d.badDoorbell h).hlkErr 3
      else if (value - x.head).toNat ≤ 2 ^ x.n ∧ (value - x.tail).toNat < 2 ^ 31 then
        d.onHatch h fun x => { x with tail := value }
      else ((d.badDoorbell h).hlkErr 2).log
        { code := .cfgRange, sev := 0, domain := domSession x.owner, src := srcHlk, cause := 2, session := x.owner, detail := h }

/-- R131: the consumed Chit count, taken when it neither passes the device's count nor moves back. -/
def execChitHead (hatch : BitVec 12) (value : BitVec 32) (s : State) : Outcome :=
  hostStep s fun d =>
    let h := hatch.toNat
    match Tbl.find? d.hlk.hatches h with
    | none => if h = 0 then (d.badDoorbell h).hlkErr 3 else (d.badDoorbell h).hlkErr 2
    | some x =>
      let n := d.session x.owner
      if n.st = .closed then (d.badDoorbell h).hlkErr 3
      else if (value - n.chitHead).toNat ≤ (n.chitCount - n.chitHead).toNat then
        d.onSession x.owner fun n => { n with chitHead := value }
      else (d.badDoorbell h).hlkErr 2

/-- R113: as many Crates are admitted as the device holds. -/
def Dev.full (d : Dev) : Bool := decide (1024 ≤ (d.hlk.live.filter (·.admitted)).length)

/-- Whether the next Crate of a Hatch may be read (R113, R779). -/
def Dev.mayRead (d : Dev) (x : Hatch) : Bool :=
  x.head != x.tail && x.waiting.isNone && !d.rel.devFault && !d.full

/-- R110, R180: read and test the next announced Crate. -/
def execCrateRead (hatch : BitVec 12) (slot : BitVec 512) (glist : HostData) (s : State) : Outcome :=
  devStep s fun d =>
    match Tbl.find? d.hlk.hatches hatch.toNat with
    | none => d
    | some x => if d.mayRead x then d.admission hatch.toNat x slot glist else d

/-- R857: a slot that cannot be read completes with BUS_ERROR or TIMEOUT, TAG 0. -/
def execHatchSlotFault (hatch : BitVec 12) (timedOut : Bool) (s : State) : Outcome :=
  devStep s fun d =>
    let h := hatch.toNat
    match Tbl.find? d.hlk.hatches h with
    | none => d
    | some x =>
      let st := (d.session x.owner).st
      if !d.mayRead x ∨ st = .closed ∨ st = .faulted then d else
      let code : Status := if timedOut then .timeout else .busError
      let c : Live := { uid := d.hlk.nextUid, session := x.owner, hatch := h, index := x.head, raw := 0 }
      ((d.pushFailed c code).log
        { code, sev := 2, domain := domSession x.owner, src := srcHlk, session := x.owner
          addr := x.base.toNat + x.head.toNat % 2 ^ x.n * 64, detail := h }).advance h

/-- R181: a Crate held at test 3 is tested again, unless the device is full (R113). -/
def execAdmissionResume (hatch : BitVec 12) (glist : HostData) (s : State) : Outcome :=
  devStep s fun d =>
    match Tbl.find? d.hlk.hatches hatch.toNat with
    | some { waiting := some raw, owner, n, base, head, tail, wroteBack } =>
      if d.rel.devFault ∨ d.full then d
      else d.admission hatch.toNat { waiting := some raw, owner, n, base, head, tail, wroteBack } raw glist
    | _ => d

/-- R182: every dependency satisfied, the Crate is ready. -/
def execDependencySatisfied (crate : Nat) (s : State) : Outcome :=
  devStep s fun d => d.onLive crate fun c =>
    if c.phase = .waiting ∧ c.deps.all (· == .met) then { c with phase := .ready d.tim.ticks } else c

/-- R136. -/
def execChitIssue (crate : Nat) (s : State) : Outcome := devStep s fun d => d.issueChit crate

/-- R132. -/
def execHeldChitRelease (session : BitVec 12) (s : State) : Outcome := devStep s fun d => d.releaseHeld session.toNat

/-- R98: a request merged inside the interval fires at its end and opens the next one. -/
def execCoalesceIntervalEnd (vector : BitVec 11) (s : State) : Outcome :=
  devStep s fun d =>
    let v := vector.toNat
    let c := Tbl.get {} d.hlk.coal v
    if !c.inInterval then d
    else if c.pending then
      ({ d with hlk := { d.hlk with coal := Tbl.set d.hlk.coal v { inInterval := true } } }).vector v
    else { d with hlk := { d.hlk with coal := Tbl.set d.hlk.coal v {} } }

/-! Session 0 and the link. -/

/-- R99: a write of HLK_ADM_CFG. HATCH_LOG2 and CHIT_LOG2 are class I while session 0 is open; EN 1 opens it. -/
def Dev.admCfgWrite (d : Dev) (v : BitVec 32) : Dev :=
  let s0 := d.session 0
  if s0.st ≠ .closed then
    if (v ^^^ d.hlk.admCfg) &&& 0x1F1F = 0 then d else d.note .cfgLocked domDevice srcHlk
  else if !bit v 16 then { d with hlk := { d.hlk with admCfg := v &&& 0x1F1F } }
  else if d.rel.devFault then { d with hlk := { d.hlk with admCfg := v &&& 0x1F1F } }
  else
    let n := fld v 0 5
    let m := fld v 8 5
    if n < 4 ∨ 16 < n ∨ m < 7 ∨ 16 < m ∨ fld d.hlk.admHatchBase 0 12 ≠ 0 ∨ fld d.hlk.admChitBase 0 12 ≠ 0 then
      d.note .cfgRange domDevice srcHlk
    else
      let d := { d with hlk := { d.hlk with
        admCfg := v &&& 0x11F1F, hatches := Tbl.set d.hlk.hatches 0 { owner := 0, n, base := d.hlk.admHatchBase } } }
      d.onSession 0 fun _ => { st := .opened, chitBase := d.hlk.admChitBase, chitLog2 := m, vecBase := 16, vecCount := 16 }

/-- R99. -/
def execAdminSessionEnable (value : BitVec 32) (s : State) : Outcome := hostStep s fun d => d.admCfgWrite (setBit value 16 true)

/-- Rate of module m: 0 down, 1 to 3. -/
def Dev.moduleRate (d : Dev) (m : Nat) : Nat := fld d.hlk.linkStat (4 + 2 * m) 2

/-- R81: the streaming cap in GB/s: 100, 150 or 200 a module, half at x32. -/
def Dev.streamCap (d : Dev) : Nat :=
  ((List.range 2).map fun m =>
    let c := match d.moduleRate m with | 1 => 100 | 2 => 150 | 3 => 200 | _ => 0
    if bit d.hlk.linkStat (2 + m) then c / 2 else c).foldl (· + ·) 0

/-- Declared rates of the open streams, MB/s. -/
def Dev.declared (d : Dev) : Nat := (d.mov.streams.map fun (_, t) => t.rate).foldl (· + ·) 0

/-- Set a module's state; a cap that falls below the declared rates sets CAP_SHORT (R83). -/
def Dev.setModule (d : Dev) (m rate : Nat) (half : Bool) : Dev :=
  let was := d.streamCap
  let st := setFld (setBit (setBit d.hlk.linkStat m (rate != 0)) (2 + m) (half && rate != 0)) (4 + 2 * m) 2 rate
  let d := { d with hlk := { d.hlk with linkStat := st } }
  if d.streamCap < was ∧ d.streamCap * 1000 < d.declared then d.hlkErr 5 else d

/-- R79: a module went to x32, or is down. -/
def Dev.moduleStep (d : Dev) (m : Nat) : Dev := (d.hlkErr 0).degraded .linkDegraded domDevice srcHlk (detail := m)

/-- The highest rate from r down that passes. -/
def passing (passes : BitVec 4) : Nat → Nat
  | 0 => 0
  | r + 1 => if bit passes (r + 1) then r + 1 else passing passes r

/-- R78, R79: train at the highest passing rate at or below MAX_RATE that both dies support. A module that DISABLE holds
down does not train. -/
def execModuleTraining (module_ : Fin 2) (supported : BitVec 2) (passes : BitVec 4) (repaired : BitVec 8) (half : Bool)
    (s : State) : Outcome :=
  devStep s fun d =>
    let m := module_.val
    -- R817 to R819: a halted boot trains no link
    if d.hkc.stage.toNat < 4 then d else
    let d := { d with hlk := { d.hlk with linkCtl := setBit d.hlk.linkCtl (2 + m) false } }
    if bit d.hlk.linkCtl (4 + m) then d else
    let top := fld d.hlk.linkCtl 0 2
    let r := passing passes (min top supported.toNat)
    let d := d.setModule m r half
    let d := { d with hlk := { d.hlk with linkStat := setFld d.hlk.linkStat (8 + 8 * m) 8 repaired.toNat } }
    let d := if half ∨ r = 0 then d.moduleStep m else d
    if r ≠ 0 ∧ r < top then d.hlkErr 1 else d

/-- R143: the module is down until its training ends. -/
def Dev.retrain (d : Dev) (m : Nat) : Dev :=
  ({ d with hlk := { d.hlk with linkCtl := setBit d.hlk.linkCtl (2 + m) true } }).setModule m 0 false

def execRetrain0 (s : State) : Outcome := hostStep s fun d => d.retrain 0
def execRetrain1 (s : State) : Outcome := hostStep s fun d => d.retrain 1

/-- R79: to x32, or down when it cannot run at x32. -/
def execModuleDegrade (module_ : Fin 2) (down : Bool) (s : State) : Outcome :=
  devStep s fun d =>
    let m := module_.val
    if !bit d.hlk.linkStat m then d else
    let d := if down ∨ bit d.hlk.linkStat (2 + m) then d.setModule m 0 false else d.setModule m (d.moduleRate m) true
    d.moduleStep m

/-- R80: DISABLE holds a module down, or releases it to train. -/
def Dev.disableWrite (d : Dev) (v : Nat) : Dev :=
  let d := { d with hlk := { d.hlk with linkCtl := setFld d.hlk.linkCtl 4 2 v } }
  (List.range 2).foldl (fun d m =>
    if v.testBit m ∧ bit d.hlk.linkStat m then (d.setModule m 0 false).hlkErr 0 else d) d

def execDisable (value : BitVec 2) (s : State) : Outcome := hostStep s fun d => d.disableWrite value.toNat

/-- R87. -/
def execSnoop (s : State) : Outcome := devStep s fun d => { d with host := d.host ++ [.snoopInvalid] }

/-- R91: a decoder larger than the reserve fails. -/
def execHdmDecoderCommit (gib : BitVec 7) (base : BitVec 64) (s : State) : Outcome :=
  hostStep s fun d =>
    let ok := decide (gib.toNat ≤ d.hlk.hdmGib)
    let d := if ok then { d with hlk := { d.hlk with hdmDecoder := if gib = 0 then none else some (gib.toNat, base) } } else d
    { d with host := d.host ++ [.hdmResult ok] }

end Sys2Proof.Machine
end

