-- ==== Sys2Proof/Machine/Flags.lean ====
section
/-!
DEFINITION. Tags and sticky FLAGS of the SPU's arithmetic (R547 to R550, R603, R604).
-/
namespace Sys2Proof.Machine

/-- FLAGS bits (R550). -/
def flagSat : BitVec 6 := 0x01
def flagAov : BitVec 6 := 0x02
def flagTagx : BitVec 6 := 0x04
def flagQempty : BitVec 6 := 0x08
def flagQdrop : BitVec 6 := 0x10
def flagEvovf : BitVec 6 := 0x20

/-- R549: the tag of an arithmetic result: the highest-ranking of GAP, OVERRANGE and SETTLING among the sources.
R20: a reserved tag counts as GAP. -/
def arithTag (tags : List (BitVec 4)) : BitVec 4 :=
  tagRank (tags.any fun t => t == tagGap || tagReserved t) (tags.any (· == tagOverrange)) (tags.any (· == tagSettling))

/-- The TAGX flag of a result tag. -/
def tagxFlag (t : BitVec 4) : BitVec 6 := if t = tagValid then 0 else flagTagx

/-- Saturation of a component to 18 bits, with the SAT flag (R548). -/
def sat18 (v : Int) : Int × BitVec 6 := (satS 18 v, if satS 18 v = v then 0 else flagSat)

/-- R604: narrowing of a component by 17 − SH bits, rounded under R15 and saturated. -/
def narrow18 (v : Int) (sh : Nat) : Int × BitVec 6 := sat18 (narrow v (17 - sh))

/-- R547: an accumulation modulo 2^48, with AOV when the exact sum leaves the range. -/
def acc48 (sum : Int) : BitVec 48 × BitVec 6 :=
  (BitVec.ofInt 48 sum, if -(2 ^ 47) ≤ sum ∧ sum < 2 ^ 47 then 0 else flagAov)

/-- A lane result: the cell and the flags it sets. -/
def laneResult (i q : Int × BitVec 6) (tags : List (BitVec 4)) : Cell × BitVec 6 :=
  let t := arithTag tags
  (Cell.ofHalves i.1 q.1 t, i.2 ||| q.2 ||| tagxFlag t)

end Sys2Proof.Machine
end

