-- ==== Sys2Proof/Machine/Operands.lean ====
section
/-!
DEFINITION. Operand forms of the SPU: registers, guards, the address operand with its post-modify, regions of the
address map, and local, image and Loft accesses.
-/
namespace Sys2Proof.Machine

/-! Registers (R533, R534). -/

def Regs.gs (r : Regs) (n : Nat) : BitVec 32 := Tbl.get 0 r.s n
def Regs.ga (r : Regs) (n : Nat) : BitVec 24 := Tbl.get 0 r.a n
def Regs.gm (r : Regs) (n : Nat) : BitVec 24 := Tbl.get 0 r.m n
def Regs.gc (r : Regs) (n lane : Nat) : Cell := Tbl.get {} r.c (8 * n + lane)
def Regs.gq (r : Regs) (n lane : Nat) : QLane := Tbl.get {} r.q (8 * n + lane)
/-- R534: p0 reads as 0xFF. -/
def Regs.gp (r : Regs) (n : Nat) : BitVec 8 := if n = 0 then 0xFF else Tbl.get 0 r.p n
def Regs.glc (r : Regs) (n : Nat) : BitVec 24 := Tbl.get 0 r.lc n

def Regs.ss (r : Regs) (n : Nat) (v : BitVec 32) : Regs := { r with s := Tbl.set r.s n v }
def Regs.sa (r : Regs) (n : Nat) (v : BitVec 24) : Regs := { r with a := Tbl.set r.a n v }
def Regs.sm (r : Regs) (n : Nat) (v : BitVec 24) : Regs := { r with m := Tbl.set r.m n v }
def Regs.sc (r : Regs) (n lane : Nat) (v : Cell) : Regs := { r with c := Tbl.set r.c (8 * n + lane) v }
def Regs.sq (r : Regs) (n lane : Nat) (v : QLane) : Regs := { r with q := Tbl.set r.q (8 * n + lane) v }
/-- R534: a write to p0 is ignored. -/
def Regs.sp (r : Regs) (n : Nat) (v : BitVec 8) : Regs := if n = 0 then r else { r with p := Tbl.set r.p n v }

/-- The lanes a guard enables, ascending. -/
def lanesOf (g : BitVec 8) : List Nat := (List.range 8).filter fun i => bit g i

/-- R586: the guard, read at issue. -/
def Regs.guard (r : Regs) (h : Slot) : BitVec 8 :=
  let p := r.gp h.pred.toNat
  if h.neg then ~~~ p else p

/-! Faults and work in progress. -/

/-- A program fault: cause and faulting address (R573, R574). -/
structure Trap where
  cause : Nat
  addr : Nat := 0
deriving DecidableEq, Repr

/-- A bundle being issued: the machine, the copy and its issue record. -/
structure Work where
  st : State
  key : Nat
  inst : Inst
  iss : Issue

/-- Source registers: all slots read at issue (R537). -/
def Work.src (w : Work) : Regs := w.iss.snap

def Work.onRegs (w : Work) (f : Regs → Regs) : Work := { w with inst := { w.inst with regs := f w.inst.regs } }

/-- FLAGS bits this bundle sets. -/
def Work.flag (w : Work) (b : BitVec 6) : Work := { w with iss := { w.iss with sets := w.iss.sets ||| b } }

def Work.stage (w : Work) (e : Staged) : Work := { w with iss := { w.iss with staged := w.iss.staged ++ [e] } }

/-! Address operands (R607, R539, R540). -/

/-- An address block uses its fields as R584 and R607 allow; `lane` says whether the K field is used. -/
def addrLegal (ad : AddrOp) (lane : Bool) : Bool :=
  (match ad.pm.toNat with
    | 0 => ad.off == 0
    | 1 => fld ad.off 0 4 == 0
    | 2 => true
    | _ => false) && (lane || ad.k == 0)

/-- The register a post-modify writes. -/
def addrWrites (ad : AddrOp) : List RName := if ad.pm = 0 then [] else [.a ad.a.toNat]

/-- The post-modified address, in the circular region of a0 to a3 when one is on (R540). -/
def addrModified (ad : AddrOp) (r : Regs) : BitVec 24 :=
  let ai := r.ga ad.a.toNat
  let off : BitVec 24 := if ad.pm = 1 then r.gm (fld ad.off 4 4) else ad.off.signExtend 24
  let len := if ad.a.toNat < 4 then Tbl.get 0 r.cbLen ad.a.toNat else 0
  let base := Tbl.get 0 r.cbBase ad.a.toNat
  if len = 0 then ai + off
  else base + BitVec.ofInt 24 ((((ai.toNat : Int) + off.toInt - base.toNat) % (len.toNat : Int)))

/-- Apply the post-modify of an access that executes (R541). -/
def addrPost (ad : AddrOp) (w : Work) : Work :=
  if ad.pm = 0 then w else w.onRegs fun r => r.sa ad.a.toNat (addrModified ad w.src)

def addrBase (ad : AddrOp) (r : Regs) : Nat := (r.ga ad.a.toNat).toNat

/-! Regions (R524 to R527). -/

/-- A cell's place. -/
inductive Loc
  | loc (i : Nat)
  | image (a : Nat)
  | loft (a : Nat)
deriving DecidableEq, Repr

def Work.prog (w : Work) : Program :=
  (w.st.dev.program? w.inst.session w.inst.prog).getD
    { session := 0, handle := 0, base := 0, pages := 0, codeBundles := 0, dataCells := 0, liveCells := 0, entry := 0 }

/-- R526: the Loft cell behind a window address. -/
def windowCell (lwin : BitVec 10) (addr : Nat) : Nat :=
  let o := addr - 0x800000
  ((lwin.toNat + o / 16384) % 1024) * 16384 + o % 16384

/-- R524, R542, R611: n consecutive cells lie in one region that allows the access. -/
def Work.checkRun (w : Work) (addr n : Nat) (write : Bool) : Except Trap Unit :=
  if addr < 0x20000 then
    if addr + n ≤ w.prog.liveCells then .ok () else .error ⟨0x10, addr⟩
  else if addr < 0x400000 then .error ⟨0x10, addr⟩
  else if addr < 0x800000 then
    if 0x800000 < addr + n then .error ⟨0x10, addr⟩
    else if write then .error ⟨0x11, addr⟩
    else if addr - 0x400000 + n ≤ w.prog.dataCells then .ok () else .error ⟨0x10, addr⟩
  else if addr + n ≤ 0x1000000 then .ok () else .error ⟨0x10, addr⟩

/-- The place of one cell whose region was checked. -/
def Work.place (w : Work) (addr : Nat) : Except Trap Loc :=
  if addr < 0x20000 then .ok (.loc addr)
  else if addr < 0x800000 then .ok (.image (w.prog.base + 4 * w.prog.codeBundles + (addr - 0x400000)))
  else
    let a := windowCell w.src.lwin addr
    if w.st.dev.ownsPage w.inst.session (a / 16384) then .ok (.loft a) else .error ⟨0x12, addr⟩

/-- Read one cell; an uncorrected check error is cause 0x20 (R573). -/
def Work.readCell (w : Work) (addr : Nat) : Except Trap Cell := do
  match ← w.place addr with
  | .loc i => (w.inst.locRead i).cell?.elim (.error ⟨0x20, addr⟩) .ok
  | .image a | .loft a => (w.st.mem.loftRead a).cell?.elim (.error ⟨0x20, addr⟩) .ok

/-- What reading a cell does besides its value: a corrected word is recorded in the session's domain, counted where it is
local memory, and written back in the same access (R780, R792). -/
def Work.mendCell (w : Work) (addr : Nat) : Work :=
  match w.place addr with
  | .error _ => w
  | .ok (.loc i) =>
    match w.inst.locRead i with
    | .corrected _ =>
      { w with
        inst := { w.inst with locErr := Tbl.erase w.inst.locErr i }
        st := w.st.onDev fun d => (d.eccCount false).log
          { code := .ok, sev := 1, domain := domSession w.inst.session, src := srcSpa, addr, session := w.inst.session } }
    | _ => w
  | .ok (.image a) | .ok (.loft a) => { w with st := w.st.loftMend a w.inst.session addr }

/-- The cells that a slot has read. -/
def Work.mend (w : Work) (addrs : List Nat) : Work := addrs.foldl Work.mendCell w

/-- Write one cell of local memory or Loft; EMPTY and reserved tags become GAP (R609, R19). -/
def Work.writeCell (w : Work) (addr : Nat) (c : Cell) : Except Trap Work := do
  match ← w.place addr with
  | .loc i =>
    .ok { w with
      inst := { w.inst with loc := Tbl.set w.inst.loc i c.stored, locErr := Tbl.erase w.inst.locErr i } }
  | .image _ => .error ⟨0x11, addr⟩
  | .loft a => .ok { w with st := w.st.onMem fun m => m.loftPut a c }

/-- Write a list of addressed cells, after every address was checked. -/
def Work.writeAll (w : Work) (l : List (Nat × Cell)) : Except Trap Work := do
  let _ ← l.mapM fun (a, _) => w.place a
  l.foldlM (fun w (a, c) => w.writeCell a c) w

/-- R549: the cell of a scalar store. -/
def scalarCell (v : BitVec 32) : Cell := { data := v.signExtend 36 &&& 0xFFFFFFFFF, tag := tagValid }

/-- The scalar of a cell (R549). -/
def cellScalar (c : Cell) : BitVec 32 := c.data.truncate 32

/-! Plans. -/

/-- What one slot does: its place in the bundle, its legality and destinations (R616), and its effect. -/
structure Plan where
  /-- 0 S, 1 A, 2 M, 3 L. -/
  slot : Nat
  /-- Lane guarded, or guarded by bit 0 (R586). -/
  lanes : Bool := false
  legal : Bool := true
  writes : List RName := []
  transfer : Bool := false
  isExit : Bool := false
  nop : Bool := false
  /-- REP and REPI: bundles to skip when the guard disables them (R596). -/
  skip : Option Nat := none
  /-- Whether the wait for `ready` is one of R588; the others only stall issue (R571). -/
  waits : Bool := true
  /-- Whether the operation can proceed, or a fault of its own check (R571, R588). -/
  ready : BitVec 8 → Work → Except Trap Bool := fun _ _ => .ok true
  run : BitVec 8 → Work → Except Trap Work

end Sys2Proof.Machine
end

