-- ==== Sys2Proof/Machine/RelnexA.lean ====
section
/-!
DEFINITION. The A slot of Relnex: addresses and offsets modulo 2^24 (R600, R601).
-/
namespace Sys2Proof.Machine

def planAddr (d : BitVec 4) (f : Regs → BitVec 24) : Plan :=
  { slot := 1, writes := [.a d.toNat], run := fun _ w => .ok (w.onRegs fun r => r.sa d.toNat (f w.src)) }

def planOff (d : BitVec 4) (f : Regs → BitVec 24) : Plan :=
  { slot := 1, writes := [.m d.toNat], run := fun _ w => .ok (w.onRegs fun r => r.sm d.toNat (f w.src)) }

def planToS (d : BitVec 5) (f : Regs → BitVec 32) : Plan :=
  { slot := 1, writes := [.s d.toNat], run := fun _ w => .ok (w.onRegs fun r => r.ss d.toNat (f w.src)) }

def planAadd (d x y : BitVec 4) : Plan := planAddr d fun r => r.ga x.toNat + r.gm y.toNat
def planAaddi (d x : BitVec 4) (imm : BitVec 14) : Plan := planAddr d fun r => r.ga x.toNat + imm.signExtend 24
def planAadds (d x : BitVec 4) (y : BitVec 5) : Plan := planAddr d fun r => r.ga x.toNat + (r.gs y.toNat).truncate 24
def planAli (d : BitVec 4) (imm : BitVec 18) : Plan := planAddr d fun _ => imm.zeroExtend 24
/-- R600: the high six bits replaced, the low eighteen kept. -/
def planAhi (d : BitVec 4) (imm : BitVec 6) : Plan := planAddr d fun r => setFld (r.ga d.toNat) 18 6 imm.toNat
def planAfs (d : BitVec 4) (x : BitVec 5) : Plan := planAddr d fun r => (r.gs x.toNat).truncate 24
def planAts (d : BitVec 5) (x : BitVec 4) : Plan := planToS d fun r => (r.ga x.toNat).zeroExtend 32
def planMset (d : BitVec 4) (imm : BitVec 18) : Plan := planOff d fun _ => imm.signExtend 24
def planMfs (d : BitVec 4) (x : BitVec 5) : Plan := planOff d fun r => (r.gs x.toNat).truncate 24
def planMts (d : BitVec 5) (x : BitVec 4) : Plan := planToS d fun r => (r.gm x.toNat).signExtend 32

end Sys2Proof.Machine
end

