-- ==== Sys2Proof/Machine/RelnexS.lean ====
section
/-!
DEFINITION. The S slot of Relnex: scalar arithmetic, predicates, register moves, control flow, block repeats and
services (R590 to R599), each as a plan.
-/
namespace Sys2Proof.Machine

/-- A plan of the S slot that writes one scalar from the sources. -/
def planScalar (d : BitVec 5) (f : Regs → BitVec 32) : Plan :=
  { slot := 0, writes := [.s d.toNat],
    run := fun _ w => .ok (w.onRegs fun r => r.ss d.toNat (f w.src)) }

/-- A plan that writes one predicate; a write to p0 counts for none (R616). -/
def planPred (pd : BitVec 3) (f : Regs → BitVec 8) (legal : Bool := true) : Plan :=
  { slot := 0, legal, writes := if pd = 0 then [] else [.p pd.toNat],
    run := fun _ w => .ok (w.onRegs fun r => r.sp pd.toNat (f w.src)) }

/-- Two scalar sources. -/
def planRR (d x y : BitVec 5) (f : BitVec 32 → BitVec 32 → BitVec 32) : Plan :=
  planScalar d fun r => f (r.gs x.toNat) (r.gs y.toNat)

/-- One scalar source and a constant. -/
def planRI (d x : BitVec 5) (k : BitVec 32) (f : BitVec 32 → BitVec 32 → BitVec 32) : Plan :=
  planScalar d fun r => f (r.gs x.toNat) k

def opMulh (x y : BitVec 32) : BitVec 32 := BitVec.ofInt 32 ((x.toInt * y.toInt) >>> 32)
def opMulhu (x y : BitVec 32) : BitVec 32 := BitVec.ofNat 32 ((x.toNat * y.toNat) >>> 32)
def opMin (x y : BitVec 32) : BitVec 32 := if x.slt y then x else y
def opMax (x y : BitVec 32) : BitVec 32 := if x.slt y then y else x

/-- R592: condition codes; 6 and 7 are reserved. -/
def condHolds (c : BitVec 3) (x y : BitVec 32) : Bool :=
  match c.toNat with
  | 0 => x == y
  | 1 => x != y
  | 2 => x.slt y
  | 3 => !x.slt y
  | 4 => x.ult y
  | 5 => !x.ult y
  | _ => false

/-- R591: a predicate is 0xFF when true. -/
def predOf (b : Bool) : BitVec 8 := if b then 0xFF else 0

def planCmp (pd cond : BitVec 3) (x y : BitVec 5) : Plan :=
  planPred pd (fun r => predOf (condHolds cond (r.gs x.toNat) (r.gs y.toNat))) (legal := cond.toNat < 6)

def planCmpi (pd cond : BitVec 3) (x : BitVec 5) (imm : BitVec 11) : Plan :=
  planPred pd (fun r => predOf (condHolds cond (r.gs x.toNat) (imm.signExtend 32))) (legal := cond.toNat < 6)

/-- R591: bit i of pd is fn[2·px[i] + py[i]]. -/
def plogBits (fn : BitVec 4) (px py : BitVec 8) : BitVec 8 :=
  BitVec.ofNat 8 ((List.range 8).foldl
    (fun a i => a + (bit fn (2 * (bit px i).toNat + (bit py i).toNat)).toNat * 2 ^ i) 0)

def planPlog (pd px py : BitVec 3) (fn : BitVec 4) : Plan :=
  planPred pd fun r => plogBits fn (r.gp px.toNat) (r.gp py.toNat)

/-! Control registers (R535). -/

/-- The queue state word of R560. -/
def qinfo (q : InQueue) : BitVec 32 :=
  BitVec.ofNat 32 (min q.cells.length 4095 + q.drops.toNat * 2 ^ 12 + q.overrun.toNat * 2 ^ 31)

def Inst.inq (i : Inst) (k : Nat) : InQueue := Tbl.get {} i.iq k
def Inst.outq (i : Inst) (k : Nat) : OutQueue := Tbl.get {} i.oq k
def Inst.entry (i : Inst) (k : Nat) : EvEntry := Tbl.get {} i.ev k

/-- R560: time of the head cell of the queue named by QTSEL, zero for a peer binding or an empty queue. -/
def Inst.headTime (i : Inst) (k : Nat) : Stamp :=
  let q := i.inq k
  if fld q.bind 0 2 = 1 then q.cells.head?.elim 0 (·.time) else 0

/-- R572: SETSTAT: first result other than OK with its issue index, and the undecided count. -/
def Inst.setstat (i : Inst) : BitVec 32 :=
  let bad := i.setups.find? fun e => match e.result with | some r => r != .ok | none => false
  let undecided := (i.setups.filter fun e => e.result.isNone).length
  let first := bad.elim 0 fun e => (e.result.elim 0 fun r => r.code.toNat) + (e.idx % 16) * 256
  BitVec.ofNat 32 (first + undecided * 65536)

/-- The first result other than OK, or 0 (R572). -/
def Inst.setwValue (i : Inst) : BitVec 32 := BitVec.ofNat 32 (fld i.setstat 0 8)

def Work.deadline (w : Work) : Nat := ((w.st.dev.live? w.inst.uid).elim 0 Live.deadline)

/-- The value MFC reads; reading TIME0 or QTIME0 latches its companions. -/
def Work.readCr (w : Work) (cr : Nat) : BitVec 32 × Work :=
  let r := w.src
  let i := w.inst
  if cr = 0x00 then (r.flags.zeroExtend 32, w)
  else if cr = 0x01 then (r.lwin.zeroExtend 32, w)
  else if cr = 0x02 then (BitVec.ofNat 32 (i.num % 64), w)
  else if cr = 0x03 then (BitVec.ofNat 32 i.session, w)
  else if cr = 0x04 then (r.cyc.truncate 32, w)
  else if cr = 0x05 then (BitVec.ofNat 32 (r.cyc.toNat >>> 32), w)
  else if cr = 0x06 then
    (BitVec.ofNat 32 w.st.dev.stamp.toNat, w.onRegs fun r => { r with timeLatch := w.st.dev.stamp })
  else if cr = 0x07 then (BitVec.ofNat 32 (r.timeLatch.toNat >>> 32), w)
  else if cr = 0x08 then (BitVec.ofNat 32 (r.timeLatch.toNat >>> 64), w)
  else if cr = 0x09 then (BitVec.ofNat 32 w.deadline, w)
  else if cr = 0x0A then (BitVec.ofNat 32 (w.deadline >>> 32), w)
  else if 0x0C ≤ cr ∧ cr ≤ 0x0F then ((Tbl.get 0 r.cbBase (cr - 0x0C)).zeroExtend 32, w)
  else if 0x10 ≤ cr ∧ cr ≤ 0x13 then ((Tbl.get 0 r.cbLen (cr - 0x10)).zeroExtend 32, w)
  else if 0x14 ≤ cr ∧ cr ≤ 0x17 then ((i.inq (cr - 0x14)).bind, w)
  else if 0x18 ≤ cr ∧ cr ≤ 0x19 then ((i.outq (cr - 0x18)).bind, w)
  else if 0x1A ≤ cr ∧ cr ≤ 0x1D then (qinfo (i.inq (cr - 0x1A)), w)
  else if cr = 0x1E then (r.qtsel.zeroExtend 32, w)
  else if cr = 0x1F then
    let t := i.headTime r.qtsel.toNat
    (BitVec.ofNat 32 t.toNat, w.onRegs fun r => { r with qtimeLatch := t })
  else if cr = 0x20 then (BitVec.ofNat 32 (r.qtimeLatch.toNat >>> 32), w)
  else if cr = 0x21 then (BitVec.ofNat 32 (r.qtimeLatch.toNat >>> 64), w)
  else if 0x22 ≤ cr ∧ cr ≤ 0x29 then ((i.entry (cr - 0x22)).sel.zeroExtend 32, w)
  else if cr = 0x2A ∨ cr = 0x2B then
    let b := 4 * (cr - 0x2A)
    (BitVec.ofNat 32 (ofLeBytes ((List.range 4).map fun k => (i.entry (b + k)).count)), w)
  else if cr = 0x2C then (BitVec.ofNat 32 r.evt.toNat, w)
  else if cr = 0x2D then (BitVec.ofNat 32 (r.evt.toNat >>> 32), w)
  else if cr = 0x2E then (BitVec.ofNat 32 (r.evt.toNat >>> 64), w)
  else if cr = 0x2F then (i.setstat, w)
  else (0, w)

def planMfc (d : BitVec 5) (cr : BitVec 6) : Plan :=
  { slot := 0, writes := [.s d.toNat],
    run := fun _ w =>
      let (v, w') := w.readCr cr.toNat
      .ok (w'.onRegs fun r => r.ss d.toNat v) }

/-- The stream selectors of R300. -/
def selValid (sel : Nat) : Bool := sel ≤ 2 || (0x40 ≤ sel && sel ≤ 0x7F)

/-- Whether the copy's RUN holds a grant of the kind on the object with the access bits (R119). -/
def Work.granted (w : Work) (kind obj access : Nat) : Bool :=
  match w.st.dev.live? w.inst.uid with
  | none => false
  | some c => c.grants.any fun g => fld g 60 4 == kind && fld g 0 32 == obj && (fld g 56 2) &&& access == access

def Work.nspu (w : Work) : Nat := (w.st.dev.live? w.inst.uid).elim 0 Live.nspu

/-- R556, R557: a legal QSRC value. -/
def Work.qsrcOk (w : Work) (v : BitVec 32) (upper : Nat → Bool) : Bool :=
  match fld v 0 2 with
  | 0 => v == 0
  | 1 =>
    let port := fld v 2 2
    let sel := fld v 4 8
    fld v 12 20 == 0 && selValid sel && !upper port && w.granted 2 (if sel = 0 then port else 0x08 + port) 1
  | 2 => fld v 2 10 == 0 && fld v 19 13 == 0 && decide (fld v 12 6 < w.nspu)
  | _ => false

/-- R561: a legal QDST value. -/
def Work.qdstOk (w : Work) (v : BitVec 32) : Bool :=
  match fld v 0 2 with
  | 0 => v == 0
  | 1 => fld v 18 14 == 0 && w.granted 4 (fld v 2 16) 2
  | 2 => fld v 10 22 == 0 && decide (fld v 2 6 < w.nspu)
  | _ => false

def planMtc (x : BitVec 5) (cr : BitVec 6) (upper : Dev → Nat → Bool) : Plan :=
  { slot := 0,
    run := fun _ w =>
      let v := w.src.gs x.toNat
      let n := cr.toNat
      if 0x14 ≤ n ∧ n ≤ 0x17 ∧ ¬ w.qsrcOk v (upper w.st.dev) then .error ⟨0x15, 0⟩
      else if (n = 0x18 ∨ n = 0x19) ∧ ¬ w.qdstOk v then .error ⟨0x15, 0⟩
      else .ok (w.stage (.mtc n v)) }

def planMflc (d : BitVec 5) (n : BitVec 2) : Plan := planScalar d fun r => (r.glc n.toNat).zeroExtend 32

/-! Control flow (R594, R595). -/

/-- A taken transfer; a target at or beyond CODE_BUNDLES is cause 0x13. -/
def Work.jump (w : Work) (t : Nat) : Except Trap Work :=
  if t ≥ w.prog.codeBundles then .error ⟨0x13, 0⟩ else .ok { w with iss := { w.iss with target := some t } }

def planBr (target : BitVec 18) : Plan :=
  { slot := 0, transfer := true, run := fun _ w => w.jump target.toNat }

/-- R594: s31 takes the index of the bundle after the CALL. -/
def planCall (target : BitVec 18) : Plan :=
  { slot := 0, transfer := true, writes := [.s 31],
    run := fun _ w => (w.onRegs fun r => r.ss 31 (BitVec.ofNat 32 (w.src.pc + 1))).jump target.toNat }

def planRet : Plan := { slot := 0, transfer := true, run := fun _ w => w.jump (w.src.gs 31).toNat }

def planBrx (x : BitVec 5) : Plan := { slot := 0, transfer := true, run := fun _ w => w.jump (w.src.gs x.toNat).toNat }

/-- R596, R544: open a level, or skip the block when COUNT is 0. -/
def Work.openLevel (w : Work) (count : BitVec 24) (fin : Nat) : Except Trap Work :=
  let pc := w.src.pc
  if count = 0 then .ok { w with iss := { w.iss with skipTo := some (pc + fin + 1) } }
  else if w.src.levels.length ≥ 4 ∨ w.src.levels.any (fun l => pc + fin > l.last) then .error ⟨0x14, 0⟩
  else .ok { w with iss := { w.iss with opened := some ({ first := pc + 1, last := pc + fin }, count) } }

def planRep (x : BitVec 5) (fin : BitVec 12) : Plan :=
  { slot := 0, legal := fin != 0, skip := some fin.toNat,
    run := fun _ w => w.openLevel ((w.src.gs x.toNat).truncate 24) fin.toNat }

def planRepi (count : BitVec 10) (fin : BitVec 12) : Plan :=
  { slot := 0, legal := fin != 0, skip := some fin.toNat, run := fun _ w => w.openLevel (count.zeroExtend 24) fin.toNat }

/-! Services (R598). -/

/-- Enabled entries of the mask with a nonzero count, lowest first (R563). -/
def Inst.evReady (i : Inst) (mask : BitVec 8) : Option Nat :=
  (lanesOf mask).find? fun k => bit (i.entry k).sel 12 && (i.entry k).count != 0

def planWaitev (d : BitVec 5) (mask : BitVec 8) : Plan :=
  { slot := 0, writes := [.s d.toNat],
    ready := fun _ w =>
      if (lanesOf mask).any fun k => bit (w.inst.entry k).sel 12 then .ok (w.inst.evReady mask).isSome
      else .error ⟨0x16, 0⟩
    run := fun _ w =>
      match w.inst.evReady mask with
      | none => .ok w
      | some k =>
        .ok ((w.onRegs fun r => { r.ss d.toNat (BitVec.ofNat 32 k) with evt := (w.inst.entry k).last }).stage (.waitev k)) }

def planSigev (reg : Bool) (x : BitVec 5) (index : BitVec 8) : Plan :=
  { slot := 0, legal := if reg then index == 0 else x == 0,
    run := fun _ w => .ok (w.stage (.sigev (if reg then fld (w.src.gs x.toNat) 0 8 else index.toNat))) }

def planSetw (d : BitVec 5) : Plan :=
  { slot := 0, writes := [.s d.toNat],
    ready := fun _ w => .ok (w.inst.setups.all fun e => e.result.isSome)
    run := fun _ w => .ok ((w.onRegs fun r => r.ss d.toNat w.inst.setwValue).stage (.setw w.inst.nextSetup)) }

/-- R577: EXIT waits until every SETUP is decided and the output queues are empty. -/
def planExit : Plan :=
  { slot := 0, isExit := true,
    ready := fun _ w =>
      .ok (w.inst.setups.all (fun e => e.result.isSome) && (w.inst.outq 0).cells.isEmpty && (w.inst.outq 1).cells.isEmpty)
    run := fun _ w => .ok (w.stage .exit_) }

def planBkpt : Plan :=
  { slot := 0, run := fun _ w => .ok (if w.st.dev.spa.dbgEn then w.stage .bkpt else w) }

/-- R584: a NOP slot. -/
def planNop (slot : Nat) (h : Slot) : Plan :=
  { slot, nop := true, legal := h.pred == 0 && !h.neg, run := fun _ w => .ok w }

end Sys2Proof.Machine
end

