-- ==== Sys2Proof/Machine/RelnexL.lean ====
section
/-!
DEFINITION. The L slot of Relnex: loads, stores, queue transfers and Loft operations (R607 to R614).
-/
namespace Sys2Proof.Machine

/-- Loads: check the run, read the cells a lane needs, write lanes, post-modify. -/
def planLds (d : BitVec 5) (ad : AddrOp) : Plan :=
  { slot := 3, legal := addrLegal ad false, writes := .s d.toNat :: addrWrites ad,
    run := fun _ w => do
      let b := addrBase ad w.src
      w.checkRun b 1 false
      let c ← w.readCell b
      return addrPost ad ((w.mend [b]).onRegs fun r => r.ss d.toNat (cellScalar c)) }

def planSts (ad : AddrOp) (x : BitVec 5) : Plan :=
  { slot := 3, legal := addrLegal ad false, writes := addrWrites ad,
    run := fun _ w => do
      let b := addrBase ad w.src
      w.checkRun b 1 true
      return addrPost ad (← w.writeCell b (scalarCell (w.src.gs x.toNat))) }

/-- R541, R542: the whole run of 8 cells is checked, only the enabled lanes move. -/
def planLdv (d : BitVec 5) (ad : AddrOp) : Plan :=
  { slot := 3, lanes := true, legal := addrLegal ad false, writes := .c d.toNat :: addrWrites ad,
    run := fun g w => do
      let b := addrBase ad w.src
      w.checkRun b 8 false
      let cells ← (lanesOf g).mapM fun i => do return (i, ← w.readCell (b + i))
      return addrPost ad (cells.foldl (fun w (i, c) => w.onRegs fun r => r.sc d.toNat i c) (w.mend ((lanesOf g).map (b + ·)))) }

def planStv (ad : AddrOp) (x : BitVec 5) : Plan :=
  { slot := 3, lanes := true, legal := addrLegal ad false, writes := addrWrites ad,
    run := fun g w => do
      let b := addrBase ad w.src
      w.checkRun b 8 true
      return addrPost ad (← w.writeAll ((lanesOf g).map fun i => (b + i, w.src.gc x.toNat i))) }

def planLd1 (d : BitVec 5) (ad : AddrOp) : Plan :=
  { slot := 3, legal := addrLegal ad true, writes := .c d.toNat :: addrWrites ad,
    run := fun _ w => do
      let b := addrBase ad w.src
      w.checkRun b 1 false
      let c ← w.readCell b
      return addrPost ad ((w.mend [b]).onRegs fun r => r.sc d.toNat ad.k.toNat c) }

def planSt1 (ad : AddrOp) (x : BitVec 5) : Plan :=
  { slot := 3, legal := addrLegal ad true, writes := addrWrites ad,
    run := fun _ w => do
      let b := addrBase ad w.src
      w.checkRun b 1 true
      return addrPost ad (← w.writeCell b (w.src.gc x.toNat ad.k.toNat)) }

/-- R610: the three cells of a q lane. -/
def qlaneCells (v : QLane) : List Cell :=
  [{ data := v.i.truncate 36, tag := v.tag }, { data := v.q.truncate 36, tag := v.tag },
   { data := BitVec.ofNat 36 (fld v.i 36 12 + fld v.q 36 12 * 2 ^ 12), tag := v.tag }]

/-- R610: LDQ ignores bits [35:24] of the third cell and takes the tag of the first. -/
def qlaneOf (a b c : Cell) : QLane :=
  { i := BitVec.ofNat 48 (a.data.toNat + fld c.data 0 12 * 2 ^ 36),
    q := BitVec.ofNat 48 (b.data.toNat + fld c.data 12 12 * 2 ^ 36), tag := a.tag }

def planLdq (d : BitVec 3) (ad : AddrOp) : Plan :=
  { slot := 3, lanes := true, legal := addrLegal ad false, writes := .q d.toNat :: addrWrites ad,
    run := fun g w => do
      let b := addrBase ad w.src
      w.checkRun b 24 false
      let vals ← (lanesOf g).mapM fun i => do
        return (i, qlaneOf (← w.readCell (b + 3 * i)) (← w.readCell (b + 3 * i + 1)) (← w.readCell (b + 3 * i + 2)))
      let read := (lanesOf g).flatMap fun i => [b + 3 * i, b + 3 * i + 1, b + 3 * i + 2]
      return addrPost ad (vals.foldl (fun w (i, v) => w.onRegs fun r => r.sq d.toNat i v) (w.mend read)) }

def planStq (ad : AddrOp) (x : BitVec 3) : Plan :=
  { slot := 3, lanes := true, legal := addrLegal ad false, writes := addrWrites ad,
    run := fun g w => do
      let b := addrBase ad w.src
      w.checkRun b 24 true
      let l := (lanesOf g).flatMap fun i =>
        (qlaneCells (w.src.gq x.toNat i)).zipIdx.map fun (c, k) => (b + 3 * i + k, c)
      return addrPost ad (← w.writeAll l) }

/-! Queues (R612, R613). -/

/-- Take up to n cells from an input queue. -/
def Work.takeIq (w : Work) (q n : Nat) : List Cell × Work :=
  let iq := w.inst.inq q
  ((iq.cells.take n).map (·.cell),
    { w with inst := { w.inst with iq := Tbl.set w.inst.iq q { iq with cells := iq.cells.drop n } } })

/-- Fill the lanes from the cells taken; a lane without a cell is EMPTY and sets QEMPTY (R613). -/
def Work.fillLanes (w : Work) (d : Nat) (lanes : List Nat) (cells : List Cell) : Work :=
  let w' := (lanes.zipIdx).foldl (fun w (i, k) => w.onRegs fun r => r.sc d i ((cells[k]?).getD Cell.empty)) w
  if cells.length < lanes.length then w'.flag flagQempty else w'

def planQrd (d : BitVec 5) (n : BitVec 2) (nb : Bool) (lanes : Bool) (sel : BitVec 8 → List Nat) : Plan :=
  { slot := 3, lanes, writes := [.c d.toNat],
    ready := fun g w => .ok (nb || decide ((sel g).length ≤ (w.inst.inq n.toNat).cells.length))
    run := fun g w =>
      let (cells, w') := w.takeIq n.toNat (sel g).length
      .ok (w'.fillLanes d.toNat (sel g) cells) }

def planQrd1 (d : BitVec 5) (n : BitVec 2) (nb : Bool) (k : BitVec 3) : Plan :=
  planQrd d n nb false fun _ => [k.toNat]
def planQrd8 (d : BitVec 5) (n : BitVec 2) (nb : Bool) : Plan := planQrd d n nb true lanesOf

/-- The copy of a RUN with the given number. -/
def Dev.peer? (d : Dev) (uid num : Nat) : Option (Nat × Inst) :=
  List.find? (fun p => p.2.uid == uid && p.2.num == num) d.insts

/-- R561: an output queue's destination exists and matches. `streamOk` says whether a stream takes this queue. -/
def Dev.oqBound (d : Dev) (i : Inst) (n : Nat) (streamOk : Nat → Nat → Bool) : Bool :=
  let b := (i.outq n).bind
  match fld b 0 2 with
  | 1 => streamOk (fld b 2 16) n
  | 2 => match d.peer? i.uid (fld b 2 6) with
    | none => false
    | some (_, p) =>
      let pb := (p.inq (fld b 8 2)).bind
      fld pb 0 2 == 2 && fld pb 12 6 == i.num && fld pb 18 1 == n
  | _ => false

def planQwr (x : BitVec 5) (n : BitVec 1) (wt eop : Bool) (lanes : Bool) (sel : BitVec 8 → List Nat)
    (streamOk : Dev → Nat → Nat → Nat → Bool) : Plan :=
  { slot := 3, lanes,
    ready := fun g w =>
      .ok (!wt || !w.st.dev.oqBound w.inst n.toNat (streamOk w.st.dev w.key) ||
        decide ((w.inst.outq n.toNat).cells.length + (sel g).length ≤ 1024))
    run := fun g w =>
      let oq := w.inst.outq n.toNat
      let ls := sel g
      if !w.st.dev.oqBound w.inst n.toNat (streamOk w.st.dev w.key) ∨ oq.cells.length + ls.length > 1024 then
        .ok (w.flag flagQdrop)
      else
        let qs := ls.zipIdx.map fun (i, k) =>
          ({ cell := w.src.gc x.toNat i, eop := eop && k + 1 == ls.length } : QCell)
        .ok { w with inst := { w.inst with oq := Tbl.set w.inst.oq n.toNat { oq with cells := oq.cells ++ qs } } } }

/-- R69 to R72: a flush or reset: the packet being written is cut, and the status states the cells discarded. After it the
next cell of a queue that carries samples or spectra carries GAP: the queues bound to a port stream (log entry 85). -/
def InQueue.flush (q : InQueue) : InQueue :=
  { q with cells := [], gapNext := fld q.bind 0 2 == 1, cut := q.mid, discarded := q.cells.length }

def planQflush (n : BitVec 2) : Plan :=
  { slot := 3,
    run := fun _ w =>
      .ok { w with inst := { w.inst with iq := Tbl.set w.inst.iq n.toNat (w.inst.inq n.toNat).flush } } }

/-! Loft operations (R614). -/

/-- R552: every store of the model is visible at once, so a fence has nothing to wait for. -/
def planLfence : Plan := { slot := 3, run := fun _ w => .ok w }

def atomNew (op : BitVec 3) (old y d : BitVec 32) : BitVec 32 :=
  match op.toNat with
  | 0 => old + y
  | 1 => y
  | 2 => old &&& y
  | 3 => old ||| y
  | 4 => if old.slt y then y else old
  | _ => if old = d then y else old

def planAtom (d : BitVec 5) (ax : BitVec 4) (y : BitVec 5) (op : BitVec 3) : Plan :=
  { slot := 3, legal := op.toNat ≤ 5, writes := [.s d.toNat],
    run := fun _ w => do
      let a := (w.src.ga ax.toNat).toNat
      if a < 0x800000 then throw ⟨0x10, a⟩
      let old := cellScalar (← w.readCell a)
      let w ← (w.mend [a]).writeCell a (scalarCell (atomNew op old (w.src.gs y.toNat) (w.src.gs d.toNat)))
      return w.onRegs fun r => r.ss d.toNat old }

end Sys2Proof.Machine
end

