-- ==== Sys2Proof/Machine/RelnexM.lean ====
section
/-!
DEFINITION. The M slot of Relnex: vectors and accumulators, lane by lane (R602 to R606).
-/
namespace Sys2Proof.Machine

/-- A lane-guarded plan that writes a c register. -/
def planVec (d : BitVec 5) (f : Regs → Nat → Cell × BitVec 6) (legal : Bool := true) : Plan :=
  { slot := 2, lanes := true, legal, writes := [.c d.toNat],
    run := fun g w => .ok ((lanesOf g).foldl (fun w i =>
      let (v, fl) := f w.src i
      (w.onRegs fun r => r.sc d.toNat i v).flag fl) w) }

/-- A lane-guarded plan that writes a q register. -/
def planAcc (d : BitVec 3) (f : Regs → Nat → QLane × BitVec 6) : Plan :=
  { slot := 2, lanes := true, writes := [.q d.toNat],
    run := fun g w => .ok ((lanesOf g).foldl (fun w i =>
      let (v, fl) := f w.src i
      (w.onRegs fun r => r.sq d.toNat i v).flag fl) w) }

/-- Componentwise arithmetic on two cells (VADD, VSUB). -/
def vecArith (f : Int → Int → Int) (x y : Cell) : Cell × BitVec 6 :=
  laneResult (sat18 (f x.hi y.hi)) (sat18 (f x.lo y.lo)) [x.tag, y.tag]

def planVadd (d x y : BitVec 5) : Plan :=
  planVec d fun r i => vecArith (· + ·) (r.gc x.toNat i) (r.gc y.toNat i)
def planVsub (d x y : BitVec 5) : Plan :=
  planVec d fun r i => vecArith (· - ·) (r.gc x.toNat i) (r.gc y.toNat i)
def planVmov (d x : BitVec 5) : Plan := planVec d fun r i => (r.gc x.toNat i, 0)
def planVconj (d x : BitVec 5) : Plan :=
  planVec d fun r i => let c := r.gc x.toNat i; laneResult (c.hi, 0) (sat18 (-c.lo)) [c.tag]

/-- R603: the exact product of two lanes, conjugated as asked; RE takes only the I component of y. -/
def lanesProduct (x y : Cell) (cx cy re : Bool) : Int × Int :=
  let xi := x.hi
  let xq := if cx then -x.lo else x.lo
  let yi := y.hi
  let yq := if cy then -y.lo else y.lo
  if re then (xi * yi, xq * yi) else (xi * yi - xq * yq, xi * yq + xq * yi)

def planVcmul (d x y : BitVec 5) (cx cy : Bool) (sh : BitVec 5) : Plan :=
  planVec d (fun r i =>
    let a := r.gc x.toNat i
    let b := r.gc y.toNat i
    let p := lanesProduct a b cx cy false
    laneResult (narrow18 p.1 sh.toNat) (narrow18 p.2 sh.toNat) [a.tag, b.tag]) (legal := sh.toNat ≤ 16)

def planVcmac (d : BitVec 3) (x y : BitVec 5) (m : MacMod) : Plan :=
  planAcc d fun r i =>
    let a := r.gc x.toNat i
    let b := r.gc y.toNat i
    let p := lanesProduct a b m.cx m.cy m.re
    let p := if m.sub then (-p.1, -p.2) else p
    let acc : QLane := if m.clr then {} else r.gq d.toNat i
    let si := acc48 (acc.i.toInt + p.1)
    let sq := acc48 (acc.q.toInt + p.2)
    let t := arithTag [acc.tag, a.tag, b.tag]
    ({ i := si.1, q := sq.1, tag := t }, si.2 ||| sq.2 ||| tagxFlag t)

def planVnarrow (d : BitVec 5) (x : BitVec 3) (sh : BitVec 5) : Plan :=
  planVec d (fun r i =>
    let v := r.gq x.toNat i
    laneResult (narrow18 v.i.toInt sh.toNat) (narrow18 v.q.toInt sh.toNat) [v.tag]) (legal := sh.toNat ≤ 16)

def planVqclr (d : BitVec 3) : Plan := planAcc d fun _ _ => ({}, 0)

def planVqadd (d x : BitVec 3) : Plan :=
  planAcc d fun r i =>
    let a := r.gq d.toNat i
    let b := r.gq x.toNat i
    let si := acc48 (a.i.toInt + b.i.toInt)
    let sq := acc48 (a.q.toInt + b.q.toInt)
    let t := arithTag [a.tag, b.tag]
    ({ i := si.1, q := sq.1, tag := t }, si.2 ||| sq.2 ||| tagxFlag t)

def planVbcast (d x : BitVec 5) (k : BitVec 3) : Plan := planVec d fun r _ => (r.gc x.toNat k.toNat, 0)

def planVspls (d x : BitVec 5) : Plan :=
  planVec d fun r _ => ({ data := (r.gs x.toNat).signExtend 36, tag := tagValid }, 0)

def planVext (d x : BitVec 5) (k : BitVec 3) : Plan :=
  { slot := 2, writes := [.s d.toNat],
    run := fun _ w => .ok (w.onRegs fun r => r.ss d.toNat (cellScalar (w.src.gc x.toNat k.toNat))) }

def planVtags (d x : BitVec 5) (tag : BitVec 4) : Plan :=
  planVec d (fun r i => ({ r.gc x.toNat i with tag }, 0)) (legal := tag.toNat ≤ 5)

def planVtagg (d x : BitVec 5) : Plan :=
  planVec d fun r i => ({ data := (r.gc x.toNat i).tag.zeroExtend 36, tag := tagValid }, 0)

/-- R605. -/
def vcmpHolds (cond : BitVec 3) (x y : Cell) : Bool :=
  match cond.toNat with
  | 0 => x.data == y.data
  | 1 => x.data != y.data
  | 2 => x.hi < y.hi
  | 3 => x.hi ≥ y.hi
  | _ => x.tag != tagValid

def planVcmp (pd : BitVec 3) (x y : BitVec 5) (cond : BitVec 3) : Plan :=
  { slot := 2, lanes := true, legal := cond.toNat ≤ 4 && (cond != 4 || y == 0),
    writes := if pd = 0 then [] else [.p pd.toNat],
    run := fun g w =>
      let v := (lanesOf g).foldl
        (fun p i => setBit p i (vcmpHolds cond (w.src.gc x.toNat i) (w.src.gc y.toNat i))) (w.src.gp pd.toNat)
      .ok (w.onRegs fun r => r.sp pd.toNat v) }

end Sys2Proof.Machine
end

