-- ==== Sys2Proof/Machine/Alloc.lean ====
section
/-!
DEFINITION. Shelves, Loft pages, programs and the overflow pool: ALLOC, FREE, LOAD, POOL_GRANT, SET_HDM, SET_QUOTA,
SET_VECTORS and Shelf transfers.
-/
namespace Sys2Proof.Machine

/-! Handles (R861). -/

def Dev.newHandle (d : Dev) (n : Nat) : Nat × Dev :=
  ((d.session n).nextHandle, d.onSession n fun s => { s with nextHandle := s.nextHandle + 1 })

/-! Shelves. -/

/-- Session addresses start at Shelf 1 (R150) and end at 2^48. -/
def shelfSpace : Nat := 134217728

/-- R150: the lowest unmapped range of n Shelves. -/
def Stk.lowestRange (k : Stk) (session n : Nat) : Option Nat :=
  let used := k.mapped session
  let fits := fun b => decide (b + n ≤ shelfSpace) && !used.any fun i => b ≤ i && i < b + n
  bestBy (fun a b : Nat => a < b) ((1 :: used.map (· + 1)).filter fits)

/-- The fields of an ALLOC. -/
def Live.count (c : Live) : Nat := c.num 36 4
def Live.hint (c : Live) : Nat := c.num 40 8
def Live.spill (c : Live) : Bool := bit c.raw (8 * 33)

/-- Shelves that count against the session's quota (R153). -/
def Stk.held (k : Stk) (session : Nat) : Nat := (k.shelves.filter fun e => e.session == session).length

/-- The base index of an ALLOC, by hint or the lowest range. -/
def Dev.shelfBase (d : Dev) (c : Live) : Option Nat :=
  if c.hint ≠ 0 then
    let b := c.hint / shelfBytes
    if b + c.count ≤ shelfSpace ∧ !(d.stk.mapped c.session).any (fun i => b ≤ i && i < b + c.count) then some b else none
  else d.stk.lowestRange c.session c.count

/-- R151: tests 1 to 4. -/
def Dev.allocShelfTest (d : Dev) (c : Live) : Status :=
  if c.count < 1 ∨ 49152 < c.count ∨ c.hint % shelfBytes ≠ 0 ∨ 2 ^ 48 ≤ c.hint ∨ (c.hint ≠ 0 ∧ (d.shelfBase c).isNone) then .cfgRange
  else if c.session ≠ 0 ∧ d.stk.held c.session + c.count > (d.session c.session).qShelves then .quota
  else if d.freeShelves + d.pageable < c.count then .noShelves
  else match d.shelfBase c with
    | none => .noShelves
    | some b =>
      let was := d.stk.mapped c.session
      let now := was ++ (List.range c.count).map (b + ·)
      if d.framesUsed - framesOf was + framesOf now > d.framesMax then .noShelves else .ok

/-- Map the Shelves of an ALLOC and complete it (R148). -/
def Dev.mapShelves (d : Dev) (c : Live) : Dev :=
  match d.shelfBase c with
  | none => d.finish c.uid .noShelves
  | some b =>
    let d := { d with stk := { d.stk with allocWait := none } }
    let phys := d.takeShelves c.count
    let (h, d) := d.newHandle c.session
    let new := phys.zipIdx.map fun (p, i) =>
      { session := c.session, idx := b + i, handle := h, place := .resident p, spill := c.spill, since := d.tim.ticks : ShelfEntry }
    let d := d.addTables c.session (new.map (·.idx))
    ({ d with stk := { d.stk with shelves := d.stk.shelves ++ new } }).finish c.uid .ok (b * shelfBytes) h

/-- R151, R172: map at once, or page out first. -/
def execAllocShelves (crate : Nat) (s : State) : Outcome :=
  devStep s fun d =>
    match d.starts crate 5 (fun c => c.num 32 1 == 0) with
    | none => d
    | some c =>
      match d.allocShelfTest c with
      | .ok =>
        if c.count ≤ d.freeShelves then d.mapShelves c
        else
          let (_, d) := d.pageOutMany true (c.count + fld d.stk.pageCfg 12 12 - d.freeShelves)
          ({ d.onLive crate fun c => { c with phase := .active } with
            stk := { d.stk with allocWait := some { uid := crate, reserved := [] } } }).pageStep
      | st => d.finish crate st

/-- R865: a page-out for the waiting ALLOC ended; p is the Shelf it freed, if any. Another victim replaces one that freed
none. Without a victim, a failure ends the ALLOC with NO_SHELVES. -/
def Dev.allocStep (d : Dev) (p : Option Nat) (failed : Bool := false) : Dev :=
  match d.stk.allocWait with
  | none => d
  | some w =>
    let (n, d) := if p.isNone then d.pageOutMany true 1 else (0, d)
    if failed && n == 0 then ({ d with stk := d.stk.endAllocWait }).finish w.uid .noShelves else
    let w := { w with reserved := w.reserved ++ p.toList }
    let d := { d with stk := { d.stk with allocWait := some w } }
    if d.stk.xfers.any (·.forAlloc) then d else
    match d.live? w.uid with
    | none => { d with stk := d.stk.endAllocWait }
    | some c =>
      if c.count ≤ d.freeShelves + w.reserved.length then d.mapShelves c
      else
        let (n, d) := d.pageOutMany true (c.count - d.freeShelves - w.reserved.length)
        if n = 0 then ({ d with stk := d.stk.endAllocWait }).finish w.uid .noShelves else d

/-! Loft pages. -/

/-- Allocatable pages that are free (R145). -/
def Dev.loftFree (d : Dev) (p : Nat) : Bool :=
  decide (d.progPages + d.ctxPages ≤ p ∧ p < 1024) && (Tbl.find? d.stk.loft p).isNone

/-- A run of n free allocatable pages from p. -/
def Dev.loftRun (d : Dev) (p n : Nat) : Bool := (List.range n).all fun i => d.loftFree (p + i)

/-- R154, R155. -/
def execAllocLoft (crate : Nat) (s : State) : Outcome :=
  devStep s fun d =>
    match d.starts crate 5 (fun c => c.num 32 1 == 1) with
    | none => d
    | some c =>
      let n := c.count
      let held := (d.stk.loft.filter fun (_, g) => g.session == c.session).length
      if n < 1 ∨ 1024 < n ∨ c.spill then d.finish crate .cfgRange
      else if c.session ≠ 0 ∧ held + n > (d.session c.session).qLoft then d.finish crate .quota
      else
        let at_ := if c.hint ≠ 0 then (if d.loftRun c.hint n then some c.hint else none)
          else (List.range 1024).find? fun p => d.loftRun p n
        match at_ with
        | none => d.finish crate .noLoft
        | some p =>
          let (h, d) := d.newHandle c.session
          let loft := (List.range n).foldl (fun t i => Tbl.set t (p + i) { session := c.session, handle := h }) d.stk.loft
          ({ d with stk := { d.stk with loft } }).finish crate .ok (p * 16384) h

/-! FREE and LOAD. -/

/-- R165, R166. -/
def execFree (crate : Nat) (s : State) : Outcome :=
  devStep s fun d =>
    match d.starts crate 6 with
    | none => d
    | some c =>
      let h := c.num 32 4
      let mine := fun (n g : Nat) (freed : Bool) => n == c.session && g == h && !freed
      let k := d.stk
      if k.shelves.any (fun e => mine e.session e.handle e.freed) || k.loft.any (fun (_, g) => mine g.session g.handle g.freed) ||
          k.programs.any (fun p => mine p.session p.handle p.freed) then
        let k : Stk := { k with
          shelves := mapIf (fun e => mine e.session e.handle e.freed) (fun e => { e with freed := true }) k.shelves
          loft := k.loft.map fun (a, g) => if mine g.session g.handle g.freed then (a, { g with freed := true }) else (a, g)
          programs := mapIf (fun p => mine p.session p.handle p.freed) (fun p => { p with freed := true }) k.programs }
        ({ d with stk := k.reclaim }).finish crate .ok
      else d.finish crate .cfgRange

/-- Program store pages in use. -/
def Stk.progUsed (k : Stk) : List Nat := (k.programs.map fun p => (List.range p.pages).map (p.base / 16384 + ·)).flatten

/-- R529: header fields of a binary, or none where it breaks the layout. -/
def binaryHeader (b : List Byte) : Option (Nat × Nat × Nat × Nat) :=
  let f := fun lo n : Nat => ofLeBytes ((b.drop lo).take n)
  let code := f 8 4
  let data := f 12 4
  let live := f 16 4
  let entry := f 20 4
  if 64 ≤ b.length ∧ f 0 4 = 0xD9640B1E ∧ f 4 2 = 1 ∧ f 6 2 = 0 ∧ 1 ≤ code ∧ code ≤ 262144 ∧ data ≤ 4194304 ∧
      live % 128 = 0 ∧ 128 ≤ live ∧ live ≤ 131072 ∧ entry < code ∧ f 24 40 = 0 ∧ b.length = 64 + 16 * code + 8 * data
  then some (code, data, live, entry) else none

/-- Cells of n items of k bytes each. -/
def chunks (k : Nat) : Nat → List Byte → List (List Byte)
  | 0, _ => []
  | n + 1, b => b.take k :: chunks k n (b.drop k)

/-- R531: the cells of an image, and whether a data tag was replaced (R20). -/
def imageCells (code data : Nat) (b : List Byte) : List Cell × Bool :=
  let cs := (chunks 4 (4 * code) (b.drop 64)).map fun w => ({ data := BitVec.ofNat 36 (ofLeBytes w) } : Cell)
  let ds := (chunks 8 data (b.drop (64 + 16 * code))).map (ofBytes 5)
  (cs ++ (ds.map (·.1)).flatten, ds.any (·.2))

/-- R530, R531: the image as the host's memory gives it, or how its read failed. -/
def execLoad (crate : Nat) (image : HostData) (s : State) : Outcome :=
  .next <|
    match s.dev.starts crate 7 with
    | none => s
    | some c =>
      let fail := fun st => s.onDev fun d => d.finish crate st
      let len := c.num 40 4
      if s.dev.inHdm (c.num 32 8) len then fail .grantFault else
      match image with
      | .busError => fail .busError
      | .timeout => fail .timeout
      | .bytes b =>
        if b.length < len then s else
        match binaryHeader (b.take len) with
        | none => fail .cfgRange
        | some (code, data, live, entry) =>
          let pages := cdiv (4 * code + data) 16384
          let used := s.dev.stk.progUsed
          let run := (List.range (s.dev.progPages + 1 - pages)).find? fun p =>
            (List.range pages).all fun i => !used.contains (p + i)
          if s.dev.progPages < pages then fail .noLoft else
          match run with
          | none => fail .noLoft
          | some p =>
            let base := p * 16384
            let (cells, odd) := imageCells code data (b.take len)
            (s.onMem fun m => m.loftPutRun base cells).onDev fun d =>
              let (h, d) := d.newHandle c.session
              let prog : Program :=
                { session := c.session, handle := h, base, pages, codeBundles := code, dataCells := data, liveCells := live, entry }
              let d := { d with stk := { d.stk with programs := d.stk.programs ++ [prog] } }
              let d := if odd then d.log { code := .ok, sev := 0, domain := domDevice, src := srcStk, session := c.session } else d
              d.finish crate .ok base h

/-! ADMIN operations on resources. -/

/-- Target session of an ADMIN operation. -/
def Live.target (c : Live) : Nat := c.num 34 2

/-- R856: a session from 1 to 4,095 in OPEN or FAULTED. -/
def Dev.liveTarget (d : Dev) (n : Nat) : Bool :=
  decide (1 ≤ n ∧ n ≤ 4095) && ((d.session n).st == .opened || (d.session n).st == .faulted)

/-- The ADMIN Crate of an OP that may start. -/
def Dev.admin (d : Dev) (crate op : Nat) (p : Live → Bool := fun _ => true) : Option Live :=
  d.starts crate 0x0F fun c => c.num 32 1 == op && p c

/-- Slot numbers granted. -/
def Stk.slotsGranted (k : Stk) : List Nat := (k.pool.map fun (_, r) => r.slots).flatten

/-- R167, R168: add a region; its slots take the lowest free numbers in order. Which free region number it gets is a
free value. -/
def execPoolGrantAdd (crate : Nat) (s : State) : Outcome :=
  devStep s fun d =>
    match d.admin crate 6 (fun c => c.num 48 1 != 1) with
    | none => d
    | some c =>
      let n := c.num 36 4
      let granted := d.stk.slotsGranted
      let region := d.pick ((List.range 16).filter fun r => (Tbl.find? d.stk.pool r).isNone)
      match region with
      | none => d.finish crate .cfgRange
      | some r =>
        if c.target ≠ 0 ∨ c.num 48 1 ≠ 0 ∨ n < 1 ∨ 524288 < n ∨ c.num 40 8 % shelfBytes ≠ 0 ∨ granted.length + n > 1048576 then
          d.finish crate .cfgRange
        else if d.inHdm (c.num 40 8) (n * shelfBytes) then d.finish crate .grantFault
        else
          let slots := lowestFree granted 1048576 (granted.length + n) 0 n
          let d := { d with stk := { d.stk with
            pool := Tbl.set d.stk.pool r { base := BitVec.ofNat 64 (c.num 40 8), slots } } }
          (d.freed.finish crate .ok 0 r).pageStep

/-- Shelves paged out to a region. -/
def Stk.inRegion (k : Stk) (r : PoolRegion) : List ShelfEntry :=
  k.shelves.filter fun e => match e.place with | .paged s => r.slots.contains s | _ => false

/-- R169: go on with a withdraw: page in what is still out, or complete. -/
def Dev.withdrawStep (d : Dev) (i : Nat) : Dev :=
  match Tbl.find? d.stk.pool i with
  | none => d
  | some r =>
    match r.withdrawing with
    | none => d
    | some uid =>
      if d.stk.xfers.any fun x => x.requester == .withdraw i || (!x.inward && r.slots.contains x.slot) then d else
      match r.failure, d.stk.inRegion r with
      | none, [] =>
        ({ d with stk := { d.stk with
            pool := Tbl.erase d.stk.pool i, badSlots := d.stk.badSlots.filter fun s => !r.slots.contains s } }).finish uid .ok
      | none, es => es.foldl (fun d e => d.pageIn e.session e.idx (.withdraw i)) d
      | some st, _ =>
        ({ d with stk := { d.stk with
            pool := Tbl.set d.stk.pool i { r with withdrawing := none, failure := none } } }).finish uid st

def execPoolGrantWithdraw (crate : Nat) (s : State) : Outcome :=
  devStep s fun d =>
    match d.admin crate 6 (fun c => c.num 48 1 == 1) with
    | none => d
    | some c =>
      let i := c.num 49 1
      match Tbl.find? d.stk.pool i with
      | none => d.finish crate .cfgRange
      | some r =>
        if c.target ≠ 0 then d.finish crate .cfgRange
        else if (d.stk.inRegion r).length > d.freeShelves then d.finish crate .noShelves
        else
          let d := d.onLive crate fun c => { c with phase := .active }
          ({ d with stk := { d.stk with
              pool := Tbl.set d.stk.pool i { r with withdrawing := some crate } } }).withdrawStep i

/-- R202: the quotas in their ranges. -/
def quotaOk (shelves loft spus prio pool inflight : Nat) : Bool :=
  decide (shelves ≤ 49152 ∧ loft ≤ 1024 ∧ spus ≤ 64 ∧ prio ≤ 7 ∧ pool ≤ 1048576 ∧ 1 ≤ inflight ∧ inflight ≤ 1024)

/-- R203. -/
def execSetQuota (crate : Nat) (s : State) : Outcome :=
  devStep s fun d =>
    match d.admin crate 5 with
    | none => d
    | some c =>
      let (sh, lo, sp, pr, po, inf) := (c.num 36 4, c.num 40 2, c.num 42 1, c.num 43 1, c.num 44 4, c.num 48 2)
      if !d.liveTarget c.target ∨ !quotaOk sh lo sp pr po inf then d.finish crate .cfgRange
      else
        (d.onSession c.target fun s =>
          { s with qShelves := sh, qLoft := lo, qSpus := sp, qPrio := pr, qPool := po, qInflight := inf }).finish crate .ok

/-- R95, R96: a session block that overlaps no other session's. -/
def Dev.vecBlockOk (d : Dev) (n base count : Nat) : Bool :=
  decide (1 ≤ count ∧ count ≤ 64 ∧ 32 ≤ base ∧ base + count ≤ 2048) &&
    d.hlk.sessions.all fun (m, s) => m == n || s.st == .closed || decide (base + count ≤ s.vecBase ∨ s.vecBase + s.vecCount ≤ base)

/-- R96. -/
def execSetVectors (crate : Nat) (s : State) : Outcome :=
  devStep s fun d =>
    match d.admin crate 7 with
    | none => d
    | some c =>
      let (base, count) := (c.num 48 2, c.num 50 1)
      if !d.liveTarget c.target ∨ !d.vecBlockOk c.target base count then d.finish crate .cfgRange
      else (d.onSession c.target fun s => { s with vecBase := base, vecCount := count }).finish crate .ok

/-- R124: the reserve grows over free Shelves only; a committed decoder keeps it from shrinking below it. -/
def execSetHdm (crate : Nat) (s : State) : Outcome :=
  devStep s fun d =>
    match d.admin crate 9 with
    | none => d
    | some c =>
      let g := c.num 36 2
      let top := d.fittedShelves - d.cel.top
      let enter : List Int := (List.range ((g - d.hlk.hdmGib) * 512)).map fun i : Nat => (top : Int) - (g : Int) * 512 + (i : Int)
      let used := d.usedShelves
      if 64 < g then d.finish crate .cfgRange
      else if d.hlk.hdmDecoder.any fun (k, _) => decide (g < k) then d.finish crate .cfgLocked
      else if enter.any fun p => decide (p < d.ttShelves) || used.contains p.toNat then d.finish crate .noShelves
      else ({ d with hlk := { d.hlk with hdmGib := g } }).finish crate .ok

/-! Shelf transfers (R172 to R179). -/

/-- R172: once free Shelves are below LOW, page out until HIGH are free or no Shelf may go. -/
def Dev.background (d : Dev) : Dev :=
  let high := fld d.stk.pageCfg 12 12
  let run := (d.stk.bgRun || decide (d.freeShelves < fld d.stk.pageCfg 0 12)) && decide (d.freeShelves < high)
  if !run then { d with stk := { d.stk with bgRun := false } } else
  let due := (d.stk.xfers.filter fun x => !x.inward && !x.forAlloc).length
  let (n, d) := d.pageOutMany false (high - d.freeShelves - due)
  ({ d with stk := { d.stk with bgRun := n != 0 || due != 0 } }).pageStep

def execPageOut (s : State) : Outcome := devStep s Dev.background

/-- R175. -/
def execPageIn (session : BitVec 12) (shelf : BitVec 27) (requester : Requester) (s : State) : Outcome :=
  devStep s fun d => d.pageIn session.toNat shelf.toNat requester

/-- A mover's chain is stalled on a Shelf (R199). -/
def Dev.stalledOn (d : Dev) (m session idx : Nat) : Bool :=
  (d.mover m).chain.any fun c => c.stalled && c.act.session == session && c.targets.contains idx

/-- R179: a page-in for a layer fails: its LAYER record ends with the failure, and the old buffer stays in use (log entry
81). -/
def Dev.layerFailed (d : Dev) (l : Nat) (st : Status) : Dev :=
  match (Tbl.get {} d.sco.layers l).pend with
  | none => d
  | some (_, r) => ({ d with sco := { d.sco with layers := Tbl.upd {} d.sco.layers l fun y => { y with pend := none } } }).decideRec 0x30 r st

/-- Tell a requester that its page-in ended, well or with a failure (R179). -/
def State.pageInEnded (s : State) (x : Xfer) (st : Status) : State :=
  match x.requester with
  | .mover m => if st = .ok ∨ !s.dev.stalledOn m x.session x.idx then s else s.failChain m st false 1 (x.idx * shelfBytes)
  | .armBarrel b => if st = .ok then s.armDone b else s.onDev fun d => d.armFail b st
  | .withdraw i => s.onDev fun d => if st = .ok then d else
      { d with stk := { d.stk with pool := match Tbl.find? d.stk.pool i with
        | some r => Tbl.set d.stk.pool i { r with failure := r.failure.orElse fun _ => some st }
        | none => d.stk.pool } }
  | .stream sid => if st = .ok then s else s.onDev fun d => d.haltStream sid st (x.idx * shelfBytes)
  | .layer l => if st = .ok then s else s.onDev fun d => d.layerFailed l st
  | .none_ => s

/-- Drop the queued page-ins of a Shelf and tell their requesters. -/
def State.pageInsOver (s : State) (x : Xfer) (st : Status) : State :=
  let same := fun y : Xfer => y.inward && y.sameShelf x
  let exceeds := s.dev.stk.xfers.filter same
  let s := s.onDev fun d => { d with stk := { d.stk with xfers := d.stk.xfers.filter fun y => !same y } }
  exceeds.foldl (fun s y => s.pageInEnded y st) s

/-- R178, R175: a page-in ends in the physical Shelf it took; it is marked ACC, its cached entry is gone, and its slot is
free. -/
def State.pageInDone (s : State) (x : Xfer) (slot : Nat) : State :=
  let from_ := s.dev.stk.slotAddr slot
  let bytes := Tbl.getRun 0 s.mem.pool from_ shelfBytes
  let s := s.onMem fun m =>
    { m.cellarPut (x.shelf * shelfBytes) bytes with pool := Tbl.putRun 0 m.pool from_ (List.replicate shelfBytes 0) }
  let s := s.onDev fun d => { d with stk := { d.stk with
    shelves := mapIf (fun y => y.session == x.session && y.idx == x.idx)
      (fun y => { y with place := .resident x.shelf, acc := true, since := d.tim.ticks }) d.stk.shelves
    tlb := d.stk.tlb.filter (· != (x.session, x.idx))
    pageIns := BitVec.ofNat 32 (satInc 32 d.stk.pageIns.toNat) } }
  s.pageInsOver x .ok

/-- R172, R179: a page-out ends well: the host holds the Shelf in its slot, and the Shelf is free, or reserved to the waiting
ALLOC. -/
def State.pageOutDone (s : State) (x : Xfer) (p : Nat) : State :=
  let dst := s.dev.stk.slotAddr x.slot
  let bytes := Tbl.getRun 0 s.mem.cellar (p * shelfBytes) shelfBytes
  let s := s.onMem fun m => { m with pool := Tbl.putRun 0 m.pool dst bytes }
  let s := s.onDev fun d => { d.hostWrite dst bytes with stk := { d.stk with
      shelves := mapIf (fun y => y.session == x.session && y.idx == x.idx) (fun y => { y with place := .paged x.slot }) d.stk.shelves
      tlb := d.stk.tlb.filter (· != (x.session, x.idx))
      pageOuts := BitVec.ofNat 32 (satInc 32 d.stk.pageOuts.toNat) } }
  if x.forAlloc then s.onDev fun d => d.allocStep (some p) else s.donorStep (some p)

/-- A page-out that frees no Shelf: the Shelf is gone or was pinned meanwhile, or the transfer failed. -/
def State.pageOutVoid (s : State) (x : Xfer) (failed : Bool) : State :=
  if x.forAlloc then s.onDev fun d => d.allocStep none failed else s.donorStep none

/-- R179: a page-out fails: the Shelf stays resident and its slot is bad. -/
def State.pageOutFailed (s : State) (x : Xfer) : State :=
  (s.onDev fun d => { d with stk := { d.stk with badSlot := true, badSlots := d.stk.badSlots ++ [x.slot] } }).pageOutVoid x true

/-- The record of a failed transfer (R780). -/
def Dev.xferRecord (d : Dev) (x : Xfer) (st : Status) : Dev :=
  d.log { code := st, sev := 2, domain := domDevice, src := srcStk, addr := x.idx * shelfBytes, session := x.session }

/-- A running page-in ends. -/
def State.endPageIn (s : State) (x : Xfer) (slot : Nat) (ack : HostAck) : State :=
  match ack with
  | .done => s.pageInDone x slot
  | .busError => (s.onDev fun d => d.xferRecord x .busError).pageInsOver x .busError
  | .timeout => (s.onDev fun d => d.xferRecord x .timeout).pageInsOver x .timeout

/-- A running page-out ends; a Shelf that was pinned meanwhile stays (R171). -/
def State.endPageOut (s : State) (x : Xfer) (e : ShelfEntry) (p : Nat) (ack : HostAck) : State :=
  if s.dev.pinned e then s.pageOutVoid x false
  else
    let a := p * shelfBytes
    let t := s.celRead a shelfBytes (domSession x.session) x.session (x.idx * shelfBytes)
    if s.mem.poisoned a shelfBytes then
      (t.pageOutFailed x).report
        { code := .eccUncorrected, sev := 3, domain := domSession x.session, src := srcStk, cause := s.mem.celCause a shelfBytes
          addr := x.idx * shelfBytes, session := x.session }
    else match ack with
      | .done => t.pageOutDone x p
      | .busError => (t.onDev fun d => d.xferRecord x .busError).pageOutFailed x
      | .timeout => (t.onDev fun d => d.xferRecord x .timeout).pageOutFailed x

/-- R177, R178: one of the transfers that run ends. One whose Shelf is no longer the session's ends without effect on it. -/
def execShelfTransferDone (which : Nat) (ack : HostAck) (s : State) : Outcome :=
  .next <|
    let s := s.onDev Dev.pageStep
    match s.dev.stk.running[which]? with
    | none => s
    | some x =>
      let off := s.onDev fun d => { d with stk := { d.stk with xfers := d.stk.xfers.erase x } }
      let entry := (s.dev.stk.entry? x.session x.idx).filter fun e => e.handle == x.handle
      let s := match x.inward, entry.map fun e => (e, e.place) with
        | true, some (_, .paged slot) => s.endPageIn x slot ack
        | false, some (e, .resident p) => off.endPageOut x e p ack
        | true, _ => off
        | false, _ => off.pageOutVoid x false
      s.onDev fun d =>
        let d := (List.range 16).foldl Dev.withdrawStep d
        if d.stk.bgRun then d.background else d.pageStep

/-- R174; an entry that changes leaves the translation cache (R160). -/
def execAgeingSweep (s : State) : Outcome :=
  devStep s fun d => { d with stk := { d.stk with
    shelves := d.stk.shelves.map fun e => { e with acc := false }
    tlb := d.stk.tlb.filter fun p => !d.stk.shelves.any fun e => e.session == p.1 && e.idx == p.2 && e.acc } }

/-! Configuration (R146, R862). -/

/-- Sessions but 0 that are open (not CLOSED). -/
def Dev.othersOpen (d : Dev) : Bool := d.hlk.sessions.any fun (n, s) => n != 0 && s.st != .closed

/-- R146: would this layout move a page or a Shelf in use into another pool? -/
def Dev.crosses (d : Dev) (prog ctx tt : Nat) : Bool :=
  let kind := fun (pr cx p : Nat) => if p < pr then 0 else if p < pr + cx then 1 else 2
  let moved := fun p => kind prog ctx p != kind d.progPages d.ctxPages p
  let ctxPages := d.ctxUsed.map fun sl => d.progPages + sl / 16
  let top := d.poolTop
  (d.stk.progUsed ++ ctxPages ++ d.stk.loft.map (·.1)).any moved ||
    d.stk.tables.any (fun t => decide (tt * 512 ≤ t.frame)) || d.usedShelves.any (fun p => decide (p < tt)) ||
    (d.hlk.hdmGib != 0 && decide (top < tt))

/-- R146: a write of STK_POOL_CFG or STK_TT_CFG. -/
def Dev.poolCfgWrite (d : Dev) (tt : Bool) (v : BitVec 32) : Dev :=
  if bit d.stk.ctl 31 then d
  else if d.othersOpen then d.note .cfgLocked domDevice srcStk
  else if tt then
    let t := fld v 0 16
    if t < 16 ∨ 1024 < t then d.note .cfgRange domDevice srcStk
    else if d.crosses d.progPages d.ctxPages t then d.note .cfgLocked domDevice srcStk
    else { d with stk := { d.stk with ttCfg := v &&& 0xFFFF } }
  else
    let (p, c) := (fld v 0 10, fld v 16 10)
    if p < 16 ∨ 512 < p ∨ c < 16 ∨ 512 < c then d.note .cfgRange domDevice srcStk
    else if d.crosses p c d.ttShelves then d.note .cfgLocked domDevice srcStk
    else { d with stk := { d.stk with poolCfg := v &&& 0x03FF03FF } }

def execStkPoolCfgWrite (ttCfg : Bool) (value : BitVec 32) (s : State) : Outcome := hostStep s fun d => d.poolCfgWrite ttCfg value

/-- R862. -/
def Dev.pageCfgWrite (d : Dev) (v : BitVec 32) : Dev :=
  let bw := fld v 24 7
  if fld v 12 12 ≤ fld v 0 12 ∨ bw < 4 ∨ 64 < bw then d.note .cfgRange domDevice srcStk
  else { d with stk := { d.stk with pageCfg := v &&& 0x7FFFFFFF } }

def execStkPageCfgWrite (value : BitVec 32) (s : State) : Outcome := hostStep s fun d => d.pageCfgWrite value

/-- R146: STK_CTL.LOCK. -/
def Dev.stkLock (d : Dev) : Dev := { d with stk := { d.stk with ctl := setBit d.stk.ctl 31 true } }

def execLock (s : State) : Outcome := startStep s Dev.stkLock

end Sys2Proof.Machine
end

