-- ==== Sys2Proof/Machine/Sched.lean ====
section
/-!
DEFINITION. Scheduling on the SPUs: ready RUN Crates, their order, gangs, ageing, preemption, resumption, retirement
and deferred frequency lowering (R186 to R208, R575, R576, R58).
-/
namespace Sys2Proof.Machine

/-! Entry of a program copy (R575, R576). -/

def u32 (n : Nat) : BitVec 32 := BitVec.ofNat 32 n

/-- The four cells of a grant's table entry. -/
def Dev.grantCells (d : Dev) (n : Nat) (g : BitVec 64) : List Cell :=
  let h := fld g 0 32
  let es := (d.stk.shelves.filter fun e => e.session == n && e.handle == h).map (·.idx)
  let ps := (d.stk.loft.filter fun (_, p) => p.session == n && p.handle == h).map (·.1)
  let low := fun l : List Nat => (bestBy (fun a b : Nat => a < b) l).getD 0
  let (c2, c3) :=
    if fld g 60 4 ≠ 1 then (0, 0)
    else if !es.isEmpty then (low es, es.length)
    else (low ps, ps.length)
  [h, fld g 32 32, c2, c3].map fun v => { data := BitVec.ofNat 36 v }

/-- First page of the first grant that names a Loft handle. -/
def Dev.firstLoft (d : Dev) (c : Live) : Nat :=
  let pages := fun g : BitVec 64 =>
    if fld g 60 4 = 1 then
      bestBy (fun a b : Nat => a < b)
        ((d.stk.loft.filter fun (_, p) => p.session == c.session && p.handle == fld g 0 32).map (·.1))
    else none
  (c.grants.findSome? pages).getD 0

/-- A program copy at its entry. -/
def Dev.entryInst (d : Dev) (c : Live) (num k : Nat) : Inst :=
  let prog := c.num 32 4
  let entry := (d.program? c.session prog).elim 0 (·.entry)
  let table := (c.grants.map (d.grantCells c.session)).flatten
  { uid := c.uid, num, session := c.session, prog, seat := .onSpu k, startedAt := d.now
    regs :=
      { s := [(0, u32 num), (1, u32 c.nspu), (2, u32 (c.num 40 4)), (3, u32 (c.num 44 4)), (4, u32 c.session), (5, u32 c.ngrant)]
        lwin := BitVec.ofNat 10 (d.firstLoft c), pc := entry }
    loc := table.zipIdx.map fun (x, i) => (i, x) }

/-- Start one copy of a Crate on an SPU; its number is the count started so far. -/
def Dev.startOn (d : Dev) (uid k : Nat) : Dev :=
  match d.live? uid with
  | none => d
  | some c =>
    let key := uid * 64 + c.started
    let d := d.setInst key (d.entryInst c c.started k)
    let d := d.onSpu k fun u => { u with runs := some key, heldFor := [] }
    d.onLive uid fun c => { c with started := c.started + 1, phase := .active, hold := false }

/-! The order of ready RUN Crates. -/

/-- R188: SPUs a start takes: all of a gang, else one. -/
def Live.needs (c : Live) : Nat := if c.gang then c.nspu else 1

/-- A RUN Crate that waits for SPUs: queued and startable, or with copies still to start. -/
def Dev.waitsForSpu (d : Dev) (c : Live) : Bool :=
  c.isRun && c.admitted && ((c.isQueued && d.startable c) ||
    (c.phase == .active && decide (c.started < c.nspu) && c.pendingStatus.isNone && (d.session c.session).st == .opened && !d.rel.devFault))

/-- R188: it can start now. -/
def Dev.canStart (d : Dev) (c : Live) : Bool :=
  d.waitsForSpu c && decide (c.needs ≤ (d.freeFor c).length ∧ c.needs ≤ d.spuRoom c.session)

/-- Turn of a session within a class: the one after the session served last comes first (R186). -/
def Dev.turnRank (d : Dev) (cls n : Nat) : Nat := (n + 4096 - Tbl.get 0 d.stk.lastServed cls - 1) % 4096

/-- R186: a before b. A Crate whose copies have begun to start keeps its turn. -/
def Dev.before (d : Dev) (a b : Live) : Bool :=
  let key := fun c : Live =>
    [c.cls, if c.deadline = 0 then 1 else 0, c.deadline,
      if c.started ≠ 0 ∨ c.deadline ≠ 0 then 0 else d.turnRank c.cls c.session + 1, c.uid]
  decide (List.lex (key a) (key b) (lt := fun x y : Nat => x < y) = true)

/-- Start a Crate on free SPUs: a whole gang, or one copy. -/
def Dev.startCrate (d : Dev) (c : Live) : Dev :=
  let d := if c.started = 0 then
    { d with stk := { d.stk with lastServed := Tbl.set d.stk.lastServed c.cls c.session } } else d
  (List.range c.needs).foldl (fun d _ => match d.bestSpu c with
    | some k => d.startOn c.uid k
    | none => d) d

/-- R188: a RUN Crate joins the scheduler's queue. -/
def execRun (crate : Nat) (s : State) : Outcome :=
  devStep s fun d =>
    match d.starts crate 1 with
    | none => d
    | some _ => d.onLive crate fun c => { c with phase := .queued d.tim.ticks }

/-- R186 to R190: start the first RUN Crate in order that can start. -/
def execInstanceStart (s : State) : Outcome :=
  devStep s fun d =>
    match bestBy d.before (d.hlk.live.filter d.canStart) with
    | none => d
    | some c => d.startCrate c

/-- Ticks of a time in units of 1 ms and of 1 µs: 2,048 ticks a µs (R10). -/
def ticksMs (n : Nat) : Nat := n * 2048000
def ticksUs (n : Nat) : Nat := n * 2048

/-- R189: a gang that has waited more than 100 µs and cannot start gets freed SPUs held for it. -/
def execGangHold (crate : Nat) (s : State) : Outcome :=
  devStep s fun d =>
    match d.live? crate with
    | some c =>
      match c.phase with
      | .queued since =>
        if c.gang && d.startable c && !d.canStart c && decide ((d.tim.ticks - since).toNat > ticksUs 100) then
          d.onLive crate fun c => { c with hold := true }
        else d
      | _ => d
    | none => d

/-- Whether a Crate is ordered by class: RUN waiting for SPUs, for all or for its further copies, MOVE and STREAM waiting
for a mover (R187). -/
def Dev.ordered (d : Dev) (c : Live) : Bool :=
  c.admitted && !c.decided && ((c.isRun && (c.isQueued || (c.phase == .active && decide (c.started < c.nspu)))) || ((c.kind == 2 || c.kind == 3) && (c.isReady ||
    (List.range 16).any fun m => (d.mover m).queue.any fun a => a.crate == some c.uid)))

/-- R187: one class more urgent, never below 4; the interval starts anew. -/
def execCrateAgeing (crate : Nat) (s : State) : Outcome :=
  devStep s fun d =>
    match d.live? crate with
    | none => d
    | some c =>
      if d.ordered c ∧ 4 < c.cls ∧ fld d.stk.ctl 8 8 ≠ 0 then d.onLive crate fun c => { c with cls := c.cls - 1 } else d

/-! Preemption (R192 to R197). -/

/-- Running copies of a class numerically greater, worst first (R193). -/
def Dev.victims (d : Dev) (cls : Nat) : List (Nat × Inst × Live) :=
  let all := d.insts.filterMap fun (k, i) =>
    match d.live? i.uid, i.seat with
    | some c, .onSpu _ => if cls < c.cls ∧ !d.anyHalted (d.group k) then some (k, i, c) else none
    | _, _ => none
  let key := fun (v : Nat × Inst × Live) =>
    [7 - v.2.2.cls, if v.2.2.deadline = 0 then 0 else 1, 2 ^ 64 - v.2.2.deadline, 2 ^ 64 - v.2.1.startedAt.toNat]
  all.foldl (fun l v => insertLex key v l) []
where
  insertLex (key : Nat × Inst × Live → List Nat) (x : Nat × Inst × Live) : List (Nat × Inst × Live) → List (Nat × Inst × Live)
    | [] => [x]
    | y :: t => if List.lex (key x) (key y) (lt := fun a b : Nat => a < b) then x :: y :: t else y :: insertLex key x t

/-- Copies to preempt so that n SPUs become free; a gang leaves whole. -/
def Dev.pickVictims (d : Dev) (n : Nat) : List (Nat × Inst × Live) → List Nat → List Nat
  | [], acc => acc
  | v :: t, acc =>
    if n ≤ acc.length then acc
    else if acc.contains v.1 then d.pickVictims n t acc
    else d.pickVictims n t (acc ++ d.group v.1)

/-- R192: preempt as many copies as a Crate needs and start it. A Crate that its SPU quota stops needs copies of its own
session to leave. None where the copies that may be preempted are too few; a refusal for want of context slots counts. -/
def Dev.preemptFor (d : Dev) (c : Live) : Option (Bool × Dev) :=
  let vs := d.victims c.cls
  let own := d.pickVictims (c.needs - d.spuRoom c.session) (vs.filter fun v => v.2.1.session == c.session) []
  let need := c.needs - (d.freeFor c).length
  let keys := d.pickVictims need vs own
  if own.length < c.needs - d.spuRoom c.session ∨ keys.length < need then none
  else match d.saveAll keys with
    | none => some (false, d.countNoSlot)
    | some d' =>
      -- the SPUs pass to the Crate at once: none of them is held for another (R189)
      let spus := keys.filterMap fun k => (Tbl.find? d.insts k).bind fun i => match i.seat with | .onSpu j => some j | _ => none
      let d' := spus.foldl (fun d j => d.onSpu j fun u => { u with heldFor := [] }) d'
      some (true, (d'.countPreempt keys.length).startCrate c)

/-- A list in the order that a comparison gives, as it stands where it gives none. -/
def orderBy {α : Type} (lt : α → α → Bool) (l : List α) : List α := l.foldl (fun l x => ins x l) []
where
  ins (x : α) : List α → List α
    | [] => [x]
    | y :: t => if lt x y then x :: y :: t else y :: ins x t

/-- R192: the ready RUN Crates that cannot start, most urgent first: the first that can preempt what it needs does so and
starts. -/
def Dev.preempt (d : Dev) : Dev :=
  let stuck := d.hlk.live.filter fun c =>
    c.isQueued && d.waitsForSpu c && !d.canStart c && decide (c.cls ≤ fld d.stk.ctl 0 3)
  if !bit d.stk.ctl 3 then d else
  ((orderBy d.before stuck).foldl (fun (r : Bool × Dev) c =>
    if r.1 then r else (r.2.preemptFor c).getD r) (false, d)).2

def execPreemption (s : State) : Outcome := devStep s Dev.preempt

/-- R196: a saved copy resumes on free SPUs, a gang together. -/
def execInstanceResume (crate : Nat) (num : Nat) (s : State) : Outcome :=
  devStep s fun d =>
    match d.live? crate with
    | none => d
    | some c =>
      let saved := (d.insts.filter fun (_, i) =>
        i.uid == crate && (c.gang || i.num == num) && (match i.seat with | .saved _ => true | _ => false)).map (·.1)
      if d.rel.devFault ∨ saved.length > (d.freeFor c).length ∨ saved.length > d.spuRoom c.session then d
      else saved.foldl (fun d key => match d.bestSpu c with
        | some k => d.seatInst key k
        | none => d) d

/-- R206: retire an SPU after its copy has been resumed elsewhere, or has left; without context slots the retirement waits. -/
def Dev.retireRequest (d : Dev) (k : Nat) : Dev :=
  if 68 ≤ k then d.note .cfgRange domDevice srcStk
  else match (d.spu k).runs with
    | none => d.retireSpu k
    | some key =>
      if (d.spu k).retireWait then d
      else
        let wait := fun d : Dev => d.onSpu k fun u => { u with retireWait := true }
        if d.anyHalted (d.group key) then wait d
        else (d.evict k key).getD (wait d).countNoSlot

def execStkSpuRetire (spu : BitVec 7) (s : State) : Outcome := startStep s fun d => d.retireRequest spu.toNat

/-! SPU frequency (R57, R58). -/

/-- R57, R58: an admitted Crate with a deadline would miss it with the SPUs at a frequency in MHz, or at the lower of that and
the two of a ramp. What the Crate still needs is a free value. -/
def Dev.wouldMiss (d : Dev) (mhz : Nat) : Bool :=
  let x := d.spa.cs0
  let f := x.ramp.elim mhz fun g => min mhz (min x.current.toNat g.toNat)
  d.hlk.live.any fun c => c.admitted && !c.decided && c.deadline != 0 &&
    tickBefore (BitVec.ofNat 64 c.deadline) (d.now + BitVec.ofNat 64 (Config.clocksLeft c.uid d.tim.ticks * 2048 / f))

end Sys2Proof.Machine
end

