-- ==== Sys2Proof/Machine/SpuOps.lean ====
section
/-!
DEFINITION. How a bundle issues: its slots one after another, the bundle rules, commit, program faults, loops, output
queues, halting and the end of a program copy (R536 to R546, R555 to R561, R573 to R581, R616, R617).
-/
namespace Sys2Proof.Machine

/-! Output queues (R561, R645). -/

/-- A stream that takes an output queue: an open SKIND 2 stream of the session. -/
def Dev.streamTakes (d : Dev) (_key sid _oq : Nat) : Bool :=
  match Tbl.find? d.mov.streams sid with
  | some t => fld t.src 0 4 == 2 && t.closing.isNone
  | none => false

def Dev.onInst (d : Dev) (key : Nat) (f : Inst → Inst) : Dev :=
  match Tbl.find? d.insts key with
  | none => d
  | some i => d.setInst key (f i)

def Inst.setOq (i : Inst) (n : Nat) (q : OutQueue) : Inst := { i with oq := Tbl.set i.oq n q }
def Inst.setIq (i : Inst) (n : Nat) (q : InQueue) : Inst := { i with iq := Tbl.set i.iq n q }

/-- Cells that lose their destination are dropped and set QDROP (R561). -/
def Inst.dropOq (i : Inst) (n : Nat) : Inst :=
  if (i.outq n).cells.isEmpty then i
  else { i.setOq n { i.outq n with cells := [], fences := [] } with regs := { i.regs with flags := i.regs.flags ||| flagQdrop } }

/-- Accept a cell into an input queue with room (R20, R68, R71, R72): the next cell after a loss carries GAP, and the end of
a packet that was not cut is noticed. -/
def InQueue.accept (q : InQueue) (c : QCell) : InQueue :=
  let c := c.clean
  let cut := q.cut && !c.eop
  if q.cells.length ≥ 2048 then
    { q with drops := BitVec.ofNat 16 (satInc 16 q.drops.toNat), overrun := true, gapNext := true, mid := !c.eop, cut }
  else
    let c := if q.gapNext then { c with cell := { c.cell with tag := tagGap } } else c
    { q with cells := q.cells ++ [c], gapNext := false, notices := q.notices + (c.eop && !q.cut).toNat, mid := !c.eop, cut }

/-- Move what one output queue can deliver. -/
def Dev.pumpOq (d : Dev) (key n : Nat) : Dev :=
  match Tbl.find? d.insts key with
  | none => d
  | some i =>
    let q := i.outq n
    if q.cells.isEmpty then d
    else if !d.oqBound i n (d.streamTakes key) then d.onInst key fun i => i.dropOq n
    else if fld q.bind 0 2 = 2 then
      match d.peer? i.uid (fld q.bind 2 6) with
      | none => d
      | some (pk, p) =>
        let k := fld q.bind 8 2
        let room := 2048 - (p.inq k).cells.length
        let d := (d.onInst pk fun p => p.setIq k ((q.cells.take room).foldl InQueue.accept (p.inq k))).noteTags (q.cells.take room)
          p.domain srcSpa p.session
        d.onInst key fun i => i.setOq n { q with cells := q.cells.drop room }
    else
      let sid := fld q.bind 2 16
      match Tbl.find? d.mov.streams sid with
      | none => d
      | some t =>
        let me := key * 2 + n
        if t.from_.any (· != me) then d else
        let upto := match q.cells.findIdx? (·.eop) with | some j => j + 1 | none => q.cells.length
        let k := min upto (16384 - t.queue.length)
        let ended := (q.cells.take k).any (·.eop)
        -- FENCEs whose cells of this queue are all in the stream wait for the stream from here on (R122)
        let (here, ahead) := q.fences.partition fun f => decide (f.2 ≤ k)
        let t := { t with
          queue := t.queue ++ (q.cells.take k).map QCell.clean, from_ := if ended then none else if k = 0 then t.from_ else some me
          fences := t.fences ++ here.map fun f => (f.1, t.queue.length + f.2) }
        let d := ({ d with mov := { d.mov with streams := Tbl.set d.mov.streams sid t } } : Dev).noteTags (q.cells.take k)
          (domMover t.mover) srcMov t.session
        d.onInst key fun i => i.setOq n { q with cells := q.cells.drop k, fences := ahead.map fun f => (f.1, f.2 - k) }

/-- Deliver what can be delivered, over all copies and queues. -/
def Dev.pump (d : Dev) : Dev :=
  (d.insts.map (·.1)).foldl (fun d k => (d.pumpOq k 0).pumpOq k 1) d

/-! The end of a copy. -/

/-- CAUSE of the record of an uncorrected read by a copy: of a cell, or of its bundle where no address is given (R785). -/
def State.checkCause (s : State) (i : Inst) (addr : Nat) (inLocal : Bool) : Nat :=
  let cells := match s.dev.program? i.session i.prog with
    | none => []
    | some p =>
      if addr = 0 then (List.range 4).map fun j => p.base + 4 * i.regs.pc + j
      else if addr < 0x800000 then [p.base + 4 * p.codeBundles + (addr - 0x400000)]
      else [windowCell i.regs.lwin addr]
  let reads := if inLocal then [i.locRead addr] else cells.map s.mem.loftRead
  (reads.findSome? fun r => match r with | .bad c => some c | _ => none).getD 1

/-- R573, R574: a program fault ends the Crate. A check error in local memory also counts (R797). -/
def State.fault (s : State) (key : Nat) (bundle : Nat) (cause addr : Nat) (inLocal : Bool := decide (addr < 0x20000)) : State :=
  match Tbl.find? s.dev.insts key with
  | none => s
  | some i =>
    let st : Status := if cause ≤ 0x02 then .illegalBundle else if cause = 0x20 then .eccUncorrected else .programFault
    let r0 := bundle % 2 ^ 18 + i.num * 2 ^ 18 + cause * 2 ^ 24 + addr % 2 ^ 24 * 2 ^ 32
    let ran := (s.dev.live? i.uid).elim 0 (·.started)
    let s := s.onDev fun d => ((d.finish i.uid st r0 ran).dropRun i.uid).pump
    if cause = 0x20 then
      let check := s.checkCause i addr inLocal
      let s := if inLocal then s.onDev fun d => d.eccCount true else s
      s.report { code := .eccUncorrected, sev := 3, domain := domSession i.session, src := srcSpa, cause := check, addr, session := i.session }
    else s

/-- R577, R578: a copy exits; the Crate completes with the last. -/
def Dev.exitInst (d : Dev) (key : Nat) (value : Nat) : Dev :=
  match Tbl.find? d.insts key with
  | none => d
  | some i =>
    let d := (d.dropInst key).onLive i.uid fun c =>
      { c with ended := c.ended + 1, result0 := if i.num = 0 then BitVec.ofNat 64 value else c.result0 }
    let d := d.pump
    match d.live? i.uid with
    | none => d
    | some c => if c.ended = c.nspu then d.finish i.uid .ok c.result0.toNat c.nspu else d

/-! Commit. -/

/-- Whether a level holds a bundle. -/
def Level.holds (l : Level) (t : Nat) : Bool := l.first ≤ t && t ≤ l.last

/-- R545: the levels that survive a transfer: those outside which every enclosing level also holds the target. -/
def keepLevels (t : Nat) : List Level → List Level
  | [] => []
  | l :: ls => if l.holds t then l :: keepLevels t ls else []

/-- R543, R544: leave bundle pc by its end: loop back, or end levels and go on. Levels come innermost first. -/
def loopEnd (pc : Nat) (r : Regs) : List Level → Regs
  | [] => { r with levels := [], pc := pc + 1 }
  | l :: outer =>
    if l.last ≠ pc then { r with levels := (l :: outer).reverse, pc := pc + 1 }
    else
      let n := outer.length
      let c := r.glc n
      if 1 < c.toNat then { r with lc := Tbl.set r.lc n (c - 1), levels := (l :: outer).reverse, pc := l.first }
      else loopEnd pc { r with lc := Tbl.set r.lc n 0 } outer

/-- Where the copy goes after the bundle. -/
def Issue.next (e : Issue) (r : Regs) : Regs :=
  let pc := e.snap.pc
  match e.target, e.opened, e.skipTo with
  | some t, _, _ => { r with levels := keepLevels t e.snap.levels, pc := t }
  | none, some (l, c), _ =>
    { r with lc := Tbl.set r.lc e.snap.levels.length c, levels := e.snap.levels ++ [l], pc := pc + 1 }
  | none, none, some t => { r with levels := keepLevels t e.snap.levels, pc := t }
  | none, none, none => loopEnd pc r e.snap.levels.reverse

/-- R535, R556, R560 to R562, R589: a write of a control register. -/
def Inst.writeCr (i : Inst) (cr : Nat) (v : BitVec 32) : Inst :=
  let r := i.regs
  if cr = 0x00 then { i with regs := { r with flags := r.flags &&& ~~~ (v.truncate 6) } }
  else if cr = 0x01 then { i with regs := { r with lwin := v.truncate 10 } }
  else if 0x0C ≤ cr ∧ cr ≤ 0x0F then { i with regs := { r with cbBase := Tbl.set r.cbBase (cr - 0x0C) (v.truncate 24) } }
  else if 0x10 ≤ cr ∧ cr ≤ 0x13 then { i with regs := { r with cbLen := Tbl.set r.cbLen (cr - 0x10) (v.truncate 24) } }
  else if 0x14 ≤ cr ∧ cr ≤ 0x17 then
    let q := i.inq (cr - 0x14)
    let q := if q.bind = v then q else { q.flush with bind := v, gapNext := fld v 0 2 == 1, notices := 0, mid := false, cut := false }
    i.setIq (cr - 0x14) { q with drops := 0, overrun := false }
  else if cr = 0x18 ∨ cr = 0x19 then i.setOq (cr - 0x18) { i.outq (cr - 0x18) with bind := v }
  else if cr = 0x1E then { i with regs := { r with qtsel := v.truncate 2 } }
  else if 0x22 ≤ cr ∧ cr ≤ 0x29 then
    { i with ev := Tbl.set i.ev (cr - 0x22) { i.entry (cr - 0x22) with sel := v.truncate 13, count := 0 } }
  else i

/-- A staged effect on the copy. -/
def Staged.apply (i : Inst) : Staged → Inst
  | .mtc cr v => i.writeCr cr v
  | .waitev k => { i with ev := Tbl.set i.ev k { i.entry k with count := (i.entry k).count - 1 } }
  | .setw n => { i with setups := i.setups.filter fun e => n ≤ e.idx }
  | .bkpt => { i with halted := true }
  | .sigev _ | .exit_ => i

/-- Note one bundle issued on an SPU, for its load count of the last 1 ms (R190). -/
def Dev.countIssue (d : Dev) (k : Nat) : Dev :=
  d.onSpu k fun u => { u with issues := (u.issues.filter fun t => (d.tim.ticks - t).toNat < 2048000) ++ [d.tim.ticks] }

/-- R581: at a bundle boundary, a HALT request takes effect. -/
def Dev.haltAt (d : Dev) (key k : Nat) : Dev :=
  if bit (d.spu k).dbgCtl 0 then
    (d.onInst key fun i => { i with halted := true }).onSpu k fun u => { u with dbgCtl := setBit u.dbgCtl 0 false }
  else d

/-- Give a bundle up that cannot issue yet: the copy keeps the registers of the issue, but for flags that cells and events
set meanwhile, and shows WAITING where a waiting operation holds it (R566, R588). -/
def Work.wait (w : Work) (k : Nat) : State :=
  let cyc := w.iss.snap.cyc + 1 + BitVec.ofNat 64 (Config.stallClocks w.st.dev.freeCtr)
  let i := { w.inst with regs := { w.iss.snap with cyc, flags := w.inst.regs.flags }, issue := none, waiting := w.iss.waits }
  w.st.onDev fun d => (d.freed.setInst w.key i).haltAt w.key k

/-- Commit a bundle whose slots all ran. -/
def Work.commit (w : Work) (k : Nat) : State :=
  let e := w.iss
  let i := e.staged.foldl Staged.apply w.inst
  let clocks := 1 + (if e.target.isSome then 2 else 0) + Config.stallClocks w.st.dev.freeCtr
  let r := e.next { i.regs with flags := i.regs.flags ||| e.sets, cyc := i.regs.cyc + BitVec.ofNat 64 clocks }
  let i := { i with regs := r, issue := none, waiting := false }
  let s := w.st.onDev fun d =>
    let d := (d.freed.setInst w.key i).countIssue k
    let d := e.staged.foldl (fun d x => match x with
      | .sigev n => d.raise (0xA00 + n) d.stamp (some i.session)
      | _ => d) d
    (d.haltAt w.key k).pump
  if e.isExit && e.staged.contains .exit_ then
    s.onDev fun d => d.exitInst w.key ((e.snap.gs 2).toNat + (e.snap.gs 3).toNat * 2 ^ 32)
  else if r.pc ≥ w.prog.codeBundles then s.fault w.key w.prog.codeBundles 0x13 0
  else s

/-- The last slot is in: the bundle rules, then the waits, then the faults of its slots, then commit (R616 to R618). -/
def Work.close (w : Work) (k : Nat) : State :=
  let e := w.iss
  let pc := e.snap.pc
  if e.illegal ∨ (e.isExit ∧ e.others) then w.st.fault w.key pc 0x01 0
  else if e.badTransfer then w.st.fault w.key pc 0x02 0
  else if e.stalled then w.wait k
  else match e.trap with
    | some (c, a) => w.st.fault w.key pc c a
    | none => w.commit k

/-! Slots. -/

/-- R586, R596: run one slot of the plan under its guard. -/
def Work.runPlan (w : Work) (h : Slot) (p : Plan) : Work :=
  let g := w.src.guard h
  let on := if p.lanes then g != 0 else bit g 0
  if !on then
    match p.skip with
    | some n => { w with iss := { w.iss with skipTo := some (w.src.pc + n + 1) } }
    | none => w
  else match p.ready g w with
    | .error t => { w with iss := { w.iss with trap := w.iss.trap.orElse fun _ => some (t.cause, t.addr) } }
    | .ok false => { w with iss := { w.iss with stalled := true, waits := w.iss.waits || p.waits } }
    | .ok true =>
      -- a store must not happen in a bundle that will not issue
      if w.iss.illegal ∨ w.iss.badTransfer ∨ w.iss.stalled ∨ w.iss.trap.isSome ∨ (w.iss.isExit ∧ w.iss.others) then w
      else match p.run g w with
        | .ok w => w
        | .error t => { w with iss := { w.iss with trap := some (t.cause, t.addr) } }

/-- One slot of the bundle that a copy issues. Slots come in the order S, A, M, L; the last one closes the bundle. -/
def State.slot (s : State) (h : Slot) (p : Plan) (stepping : Bool := false) : State :=
  let k := h.spu.val
  match (s.dev.spu k).runs with
  | none => s
  | some key =>
    match Tbl.find? s.dev.insts key with
    | none => s
    | some i =>
      if i.halted ∧ !stepping then s else
      let e := i.issue.getD { snap := i.regs, slot := 4 }
      if i.issue.isSome ∧ p.slot ≤ e.slot then s else
      let e := { e with
        slot := p.slot
        written := e.written ++ p.writes
        isExit := e.isExit || p.isExit
        others := e.others || (p.slot != 0 && !p.nop)
        illegal := e.illegal || !p.legal || p.writes.any e.written.contains || decide (dedup p.writes ≠ p.writes)
        badTransfer := e.badTransfer || (p.transfer && e.snap.levels.any fun l => l.last == e.snap.pc) }
      let w := ({ st := s, key, inst := i, iss := e } : Work).runPlan h p
      if h.last ∨ p.slot = 3 then w.close k
      else w.st.onDev fun d => d.setInst key { w.inst with issue := some w.iss }

def runSlot (h : Slot) (p : Plan) (s : State) : Outcome := .next (s.slot h p)

end Sys2Proof.Machine
end

