-- ==== Sys2Proof/Machine/Streams.lean ====
section
/-!
DEFINITION. Streams: opening and closing, their input queues, record rings as sources, frames and the coder's blocks
(R642 to R659).
-/
namespace Sys2Proof.Machine

/-! The source word. -/

def Stream.kind (t : Stream) : Nat := fld t.src 0 4
def Stream.bfmt (t : Stream) : Nat := fld t.src 4 4

/-- A DEST block in Loft (R392). -/
structure Dest where
  kind : Nat
  ovw : Bool
  nrec : Nat
  /-- Loft cell address or Cellar session address. -/
  base : Nat
  /-- Loft address of the index pair. -/
  idx : Nat
deriving DecidableEq, Repr

/-- The DEST block of three cells, and whether its unlisted bits are 0. -/
def destOf (c0 c1 c2 : BitVec 36) : Dest × Bool :=
  let kind := fld c0 0 2
  ({ kind, ovw := bit c0 2, nrec := fld c0 3 20
     base := if kind = 2 then c1.toNat + fld c2 0 12 * 2 ^ 36 else fld c1 0 24, idx := fld c2 12 24 },
    fld c0 23 13 == 0 && (kind == 2 || (fld c1 24 12 == 0 && fld c2 0 12 == 0)) && decide (kind ≤ 2))

/-- A run of Loft cells lies in pages of the session. -/
def Dev.loftOwned (d : Dev) (session a n : Nat) : Bool :=
  decide (a + n ≤ 2 ^ 24) &&
    (List.range ((a + n - 1) / 16384 - a / 16384 + 1)).all fun i => d.ownsPage session (a / 16384 + i)

/-- A run of Cellar bytes lies in mapped Shelves of the session. -/
def Dev.cellarMapped (d : Dev) (session a n : Nat) : Bool :=
  decide (a + n ≤ 2 ^ 48) && (shelfRun a n).all fun i => (d.stk.entry? session i).isSome

/-- The ring of a SKIND 3 source: its DEST block, if the session owns the block and it is well formed. It is read again at
every frame and at the close (log entry 92). -/
def State.streamRing (s : State) (session dblk : Nat) : Except Status Dest :=
  if !s.dev.loftOwned session dblk 3 then .error .grantFault else
  match (List.range 3).mapM fun i => (s.mem.loftRead (dblk + i)).cell? with
  | some [a, b, c] =>
    let (q, ok) := destOf a.data b.data c.data
    if !ok ∨ q.kind = 0 ∨ q.nrec = 0 then .error .cfgRange else .ok q
  | _ => .error .eccUncorrected

/-- Bytes or cells of a slot in the ring's own units. -/
def Stream.rsize (t : Stream) : Nat := fld t.src 32 16
def Stream.dblk (t : Stream) : Nat := fld t.src 8 24

/-- R643 tests 1 and 2 on the source. -/
def State.streamSrc (s : State) (session : Nat) (src : BitVec 64) (upper : Dev → Nat → Bool) : Status :=
  let f := fld src 4 4
  match fld src 0 4 with
  | 1 =>
    if fld src 18 46 = 0 ∧ selValid (fld src 10 8) ∧ !upper s.dev (fld src 8 2) ∧ 1 ≤ f ∧ f ≤ 7 then .ok else .cfgRange
  | 2 => if fld src 8 56 = 0 ∧ f ≤ 7 then .ok else .cfgRange
  | 3 =>
    if fld src 48 16 ≠ 0 ∨ fld src 32 16 = 0 ∨ 7 < f then .cfgRange else
    match s.streamRing session (fld src 8 24) with
    | .error e => e
    | .ok q =>
      let size := q.nrec * fld src 32 16
      if (q.kind = 2) ≠ (f = 0) then .cfgRange
      else if !s.dev.loftOwned session q.idx 2 then .grantFault
      else if q.kind = 1 then (if s.dev.loftOwned session q.base size then .ok else .grantFault)
      else if s.dev.cellarMapped session q.base (size * 64) then .ok else .grantFault
  | _ => .cfgRange

/-- Shelf indices of the Cellar ring that a SKIND 3 source names at its open (R163). -/
def State.streamShelves (s : State) (session : Nat) (src : BitVec 64) : List Nat :=
  if fld src 0 4 ≠ 3 then [] else
  match s.streamRing session (fld src 8 24) with
  | .error _ => []
  | .ok q => if q.kind ≠ 2 then [] else shelfRun q.base (q.nrec * fld src 32 16 * 64)

/-- Take or release the references of a stream on the Shelves it named at its open (R163). -/
def Dev.refStream (d : Dev) (t : Stream) (up : Bool) : Dev :=
  if t.shelves.isEmpty then d else
  let k := d.stk.onEntries (fun e => e.session == t.session && t.shelves.contains e.idx)
    fun e => { e with refs := if up then e.refs + 1 else e.refs - 1 }
  { d with stk := if up then k else k.reclaim }

/-- Free stream ID at or after n, in turn (R644). -/
def Mov.freeSid (k : Mov) : Nat → Nat → Nat
  | 0, n => n
  | fuel + 1, n =>
    let n := if n = 0 ∨ 65535 < n then 1 else n
    if (Tbl.find? k.streams n).isSome then k.freeSid fuel (n + 1) else n

/-- Streams on a mover. -/
def Mov.streamsOn (k : Mov) (m : Nat) : Nat := (k.streams.filter fun (_, t) => t.mover == m).length

/-- The mover that the next stream runs on: the one with the fewest open streams. -/
def Mov.streamMover (k : Mov) : Nat := (bestBy (fun a b => k.streamsOn a < k.streamsOn b) (List.range 16)).getD 0

/-- R186, R191: no STREAM Crate that may open, and no activation queued on the mover, stands before the Crate. -/
def Dev.streamTurn (d : Dev) (m : Nat) (c : Live) : Bool :=
  let v := d.mover m
  let key := fun c : Live => moverKey v c.cls c.deadline c.session c.uid
  !(d.hlk.live.any fun o => o.isReady && o.kind == 3 && o.num 32 1 == 0 && d.startable o && keyBefore (key o) (key c)) &&
  !(v.queue.any fun a => keyBefore (d.actKey v a) (key c))

/-- R642, R643. `upper` says which ports are upper ports of bonded pairs. -/
def State.openStream (s : State) (crate : Nat) (upper : Dev → Nat → Bool) : State :=
  match s.dev.starts crate 3 (fun c => c.num 32 1 == 0) with
  | none => s
  | some c =>
    let m := s.dev.mov.streamMover
    if !s.dev.streamTurn m c then s else
    let done := fun (st : Status) => s.onDev fun d => d.finish crate st
    let cmpe := c.num 33 1
    let rate := c.num 36 4
    let src := BitVec.ofNat 64 (c.num 56 8)
    let rlog2 := c.num 48 1
    let engine := ((s.dev.mov.streams.filter fun (_, t) => t.cmpe.toNat == cmpe).map fun (_, t) => t.rate).foldl (· + ·) 0
    let st1 := s.streamSrc c.session src upper
    if rlog2 < 16 ∨ 32 < rlog2 ∨ c.num 40 8 % 4096 ≠ 0 ∨ rate = 0 ∨ (3 < cmpe ∧ cmpe ≠ 255) then done .cfgRange
    else if st1 ≠ .ok then done st1
    else if s.dev.inHdm (c.num 40 8) (2 ^ rlog2 + 64) then done .grantFault
    else if s.dev.mov.streams.length ≥ 256 then done .quota
    else if s.dev.declared + rate > s.dev.streamCap * 1000 then done .quota
    else if cmpe ≠ 255 ∧ engine + rate > 16000 then done .quota
    else
      let sid := s.dev.mov.freeSid 257 s.dev.mov.nextSid
      let t : Stream :=
        { session := c.session, src, cmpe := BitVec.ofNat 8 cmpe, rate, rbase := BitVec.ofNat 64 (c.num 40 8), rlog2, mover := m
          shelves := s.streamShelves c.session src }
      s.onDev fun d =>
        let d := (d.refStream t true).onMover m fun v => { v with lastServed := Tbl.set v.lastServed c.cls c.session }
        ({ d with mov := { d.mov with streams := Tbl.set d.mov.streams sid t, nextSid := sid + 1 } }).finish crate .ok 0 sid

def Dev.onStream (d : Dev) (sid : Nat) (f : Stream → Stream) : Dev :=
  match Tbl.find? d.mov.streams sid with
  | none => d
  | some t => { d with mov := { d.mov with streams := Tbl.set d.mov.streams sid (f t) } }

/-- R654: a close stops the stream taking cells. -/
def Dev.startClose (d : Dev) (sid uid : Nat) : Dev :=
  (d.onStream sid fun t => if t.closing.isSome then t else { t with closing := some uid }).pump

def State.closeStream (s : State) (crate : Nat) : State :=
  match s.dev.starts crate 3 (fun c => c.num 32 1 == 1) with
  | none => s
  | some c =>
    let sid := c.num 34 2
    match Tbl.find? s.dev.mov.streams sid with
    | none => s.onDev fun d => d.finish crate .cfgRange
    | some t =>
      if t.session ≠ c.session ∨ t.closing.isSome then s.onDev fun d => d.finish crate .cfgRange
      else s.onDev fun d => (d.onLive crate fun c => { c with phase := .active }).startClose sid crate

/-! The input queue (R645). -/

/-- Offer cells to the streams that copy a port's selector; a full queue loses cells, and the first loss writes one
record (R68, R71). -/
def Stream.accept (t : Stream) (cells : List QCell) : Stream :=
  cells.foldl (fun t c =>
    if t.queue.length ≥ 16384 then
      { t with overrun := true, gapNext := true, lost := t.lost + 1, lostFrame := t.lostFrame + 1 }
    else
      let c := if t.gapNext then { c with cell := { c.cell with tag := tagGap } } else c.clean
      { t with queue := t.queue ++ [c], gapNext := false }) t

def Dev.deliverStreams (d : Dev) (port sel : Nat) (cells : List QCell) : Dev :=
  d.mov.streams.foldl (fun d (sid, t) =>
    if t.kind = 1 ∧ fld t.src 8 2 = port ∧ fld t.src 10 8 = sel ∧ t.closing.isNone then
      let t' := t.accept cells
      let d := d.onStream sid fun _ => t'
      if t'.overrun ∧ !t.overrun then
        d.log { code := .ok, sev := 2, domain := domMover t.mover, src := srcMov, session := t.session, detail := sid }
      else d
    else d) d

/-! Frames (R650 to R653). -/

/-- Payload limit of a frame (R650). -/
def Stream.fmax (t : Stream) : Nat := min 65536 (2 ^ (t.rlog2 - 1) - 64)

/-- Bytes and cells of one element. BFMT 0 on an output queue packs the low byte of each cell. -/
def Stream.elemBytes (t : Stream) : Nat := if t.bfmt = 0 then 1 else fmtBytes t.bfmt
def Stream.elemCells (t : Stream) : Nat := fmtCells t.bfmt

def Stream.convert (t : Stream) (cells : List Cell) : List Byte :=
  if t.bfmt = 0 then cells.map fun c => BitVec.ofNat 8 c.data.toNat
  else (go (cells.length + 1) cells).flatten
where
  go : Nat → List Cell → List (List Byte)
    | 0, _ => []
    | fuel + 1, cs => if cs.isEmpty then [] else toBytes t.bfmt (cs.take t.elemCells) :: go fuel (cs.drop t.elemCells)

/-- The next frame of a stream: its cells and bytes and how it ended. -/
structure Frame where
  /-- Cells whose bytes begin in the frame. -/
  cells : List QCell
  cellCount : Nat
  /-- Payload as written. -/
  payload : List Byte
  /-- Converted bytes it stands for. -/
  ulen : Nat
  comp : Bool
  short : Bool
  last : Bool
  /-- Cells to take from the queue, or slots from the ring, and the new `skip`. -/
  take : Nat
  skip : Nat
  /-- The block closed early (R658). -/
  early : Bool := false

/-- Cells of the queue up to and including the first packet end, FENCE or close boundary, and whether there is one. -/
def Stream.bounded (t : Stream) : Nat × Bool :=
  let n := t.queue.length
  let eop := if t.kind = 2 then (t.queue.findIdx? (·.eop)).map (· + 1) else none
  let fence := bestBy (fun a b : Nat => a < b) ((t.fences.map (·.2)).filter (fun k => k != 0))
  let cands := eop.toList ++ fence.toList ++ (if t.closing.isSome then [n] else [])
  match bestBy (fun a b : Nat => a < b) cands with
  | some k => (min k n, decide (k ≤ n))
  | none => (n, false)

/-- The next frame from the input queue, if one is due. -/
def Stream.queueFrame (t : Stream) : Option Frame :=
  let (n, ends) := t.bounded
  let b := t.elemBytes
  let ec := t.elemCells
  if t.cmpe = 255 then
    let most := t.fmax / b * ec
    if n ≥ most ∨ ends then
      let k := min n most
      let cs := t.queue.take k
      let bytes := t.convert (cs.map (·.cell))
      some { cells := cs, cellCount := k, payload := bytes, ulen := bytes.length, comp := false, short := decide (k < most)
             last := t.closing.isSome && k == t.queue.length, take := k, skip := 0 }
    else none
  else
    let input := ((t.convert ((t.queue.take n).map (·.cell))).drop t.skip).take 65536
    let (block, used) := codeBlock input t.fmax
    let early := decide (used < input.length)
    if early ∨ input.length = 65536 ∨ ends then
      let done := t.skip + used
      let first := (t.skip + b - 1) / b
      let upto := (done + b - 1) / b
      let take := if n * b ≤ done * ec then n else done / b * ec
      let cs := (t.queue.take (upto * ec)).drop (first * ec)
      some { cells := cs, cellCount := cs.length, payload := block, ulen := used, comp := !block.isEmpty
             short := ends && !early && decide (used < 65536)
             last := t.closing.isSome && take == t.queue.length, take, skip := if take = n then 0 else done % b, early }
    else none

/-- Write and read counts of a ring's index pair (R378). -/
def State.ringCounts (s : State) (idx : Nat) : Nat × Nat :=
  ((s.mem.loftGet idx).data.toNat, (s.mem.loftGet (idx + 1)).data.toNat)

/-- Session bytes of the next k slots of a Cellar ring. -/
def Dest.slots (q : Dest) (r k slotBytes : Nat) : List Nat := (List.range k).map fun i => q.base + (r + i) % q.nrec * slotBytes

/-- How a stream stands with the slots of its next frame: it can go on, waits for Shelves, or fails (R162, R175). -/
inductive SlotEnd
  | ok
  | paged (idxs : List Nat)
  | failed (st : Status) (addr : Nat)
deriving DecidableEq, Repr

/-- The Shelves of slots of session Cellar. -/
def State.slotsEnd (s : State) (session : Nat) (slots : List Nat) (n : Nat) : SlotEnd :=
  let idxs := dedup (slots.flatMap fun a => shelfRun a n)
  match idxs.find? fun i => (s.dev.stk.entry? session i).isNone with
  | some i => .failed .grantFault (i * shelfBytes)
  | none =>
    let out := idxs.filter fun i => s.dev.isPaged session i
    if !out.isEmpty then .paged out else
    match slots.find? fun a => (s.sessionBytes session a n).isNone with
    | some a => .failed .eccUncorrected a
    | none => .ok

/-- The next frame of a record ring, if one is due (R645, R653), and how its slots can be read. Cells at the end of a slot that
do not fill an element are left out (log entry 106). -/
def State.ringFrame (s : State) (t : Stream) : Option Frame × SlotEnd :=
  match s.streamRing t.session t.dblk with
  | .error st => (if t.closing.isSome then some (empty t) else none, if t.closing.isSome then .ok else .failed st t.dblk)
  | .ok q =>
    let (w, r) := s.ringCounts q.idx
    let have_ := (w + 2 ^ 36 - r) % 2 ^ 36
    let slotBytes := if q.kind = 2 then t.rsize * 64 else (t.rsize / max t.elemCells 1) * t.elemBytes
    let most := max 1 (t.fmax / max slotBytes 1)
    let (n, ends) := match bestBy (fun a b : Nat => a < b)
        (((t.fences.map (·.2)).filter (fun k => k != 0)) ++ (if t.closing.isSome then [have_] else [])) with
      | some k => (min k have_, decide (k ≤ have_))
      | none => (have_, false)
    if n < most ∧ !ends then (none, .ok) else
    let k := min n most
    let slot := fun i : Nat => (r + i) % q.nrec
    -- whole slots only: with compression, as many as one block holds, and at least one
    let out := fun (cells : List QCell) (bytes : List Byte) =>
      let part := fun j : Nat => bytes.take (j * slotBytes)
      let j := if t.cmpe = 255 then k else
        (((List.range k).map (k - ·)).find? fun j => (codeBlock (part j) t.fmax).2 = (part j).length).getD 1
      let cells := if cells.isEmpty then [] else cells.take (j * t.rsize)
      let payload := if t.cmpe = 255 ∨ j = 0 then part j else (codeBlock (part j) (2 ^ 32)).1
      some { cells, cellCount := cells.length, payload, ulen := (part j).length, comp := t.cmpe != 255 && j != 0
             short := decide (j = k ∧ k < most), last := t.closing.isSome && j == have_, take := j, skip := 0 : Frame }
    if q.kind = 2 then
      let slots := q.slots r k slotBytes
      match s.slotsEnd t.session slots slotBytes, slots.mapM fun a => s.sessionBytes t.session a slotBytes with
      | .ok, some bs => (out [] bs.flatten, .ok)
      | e, _ => (none, e)
    else
      let a := fun i => q.base + slot i * t.rsize
      match ((List.range k).flatMap fun i => (List.range t.rsize).map (a i + ·)).find? fun x => s.mem.loftBad x with
      | some x => (none, .failed .eccUncorrected x)
      | none =>
        let cs := (List.range k).map fun i => Tbl.getRun ({} : Cell) s.mem.loft (a i) t.rsize
        (out (cs.flatten.map fun c => { cell := c }) (cs.map t.convert).flatten, .ok)
where
  empty (_t : Stream) : Frame :=
    { cells := [], cellCount := 0, payload := [], ulen := 0, comp := false, short := true, last := true, take := 0, skip := 0 }

/-- R651: the 64 bytes of a frame header. `cells` is CELLS. -/
def Stream.header (t : Stream) (sid : Nat) (f : Frame) (cells : Nat) : List Byte :=
  let tag := fun x => f.cells.any fun c => c.cell.tag == x
  let loss := t.lostFrame ≠ 0 ∨ t.lossMark
  let flags := f.comp.toNat + (tag tagGap).toNat * 2 + (tag tagOverrange).toNat * 4 + (tag tagSettling).toNat * 8 +
    (tag tagMark).toNat * 16 + (decide loss).toNat * 32 + f.last.toNat * 64 + f.short.toNat * 128
  let time := if t.kind = 1 then f.cells.head?.elim 0 (·.time) else (0 : Stamp)
  let tagIdx := (f.cells.findIdx? fun c => !(c.cell.tag == tagValid || c.cell.tag == tagHeader || c.cell.tag == tagMark)).getD 0xFFFFFFFF
  leBytes 4 0x5F57D964 ++ leBytes 2 sid ++ leBytes 1 flags ++ leBytes 1 t.bfmt ++ leBytes 8 t.seq.toNat ++
  leBytes 8 t.bpos.toNat ++ leBytes 8 (time.toNat / 256) ++ leBytes 1 time.toNat ++ leBytes 3 0 ++ leBytes 4 cells ++
  leBytes 4 f.payload.length ++ leBytes 4 f.ulen ++ leBytes 8 t.lostFrame ++ leBytes 4 tagIdx ++ leBytes 4 0

/-- Write bytes into the host ring at the free-running count w, wrapping at its end. -/
def Dev.ringWrite (d : Dev) (t : Stream) (w : Nat) (b : List Byte) : Dev :=
  let size := 2 ^ t.rlog2
  let o := w % size
  let first := b.take (size - o)
  let d := d.hostWrite (t.rbase.toNat + o) first
  if b.length ≤ size - o then d else d.hostWrite t.rbase.toNat (b.drop (size - o))

/-- R655 to R659: count a block of an engine. -/
def Mov.countBlock (k : Mov) (e : Nat) (early : Bool) : Mov :=
  { k with engines := Tbl.upd {} k.engines e fun g =>
      { blocks := BitVec.ofNat 32 (satInc 32 g.blocks.toNat)
        early := if early then BitVec.ofNat 32 (satInc 32 g.early.toNat) else g.early } }

/-- The end of a closed stream: its references go, its Crate completes, with the failure of a stream that was halted. -/
def Dev.endStream (d : Dev) (sid : Nat) (t : Stream) : Dev :=
    let d := ({ d.refStream t false with mov := { d.mov with streams := Tbl.erase d.mov.streams sid } }).pump
    match t.closing.bind d.live? with
    | some c => if c.kind = 3 then d.finish c.uid (t.halt.getD .ok) else d
    | none => d

/-- What reading the slots of a frame does besides their bytes (R161, R687). -/
def State.ringRead (s : State) (t : Stream) (k : Nat) : State :=
  match s.streamRing t.session t.dblk with
  | .error _ => s
  | .ok q =>
    let (_, r) := s.ringCounts q.idx
    if q.kind = 2 then
      (q.slots r k (t.rsize * 64)).foldl (fun s a =>
        (s.onDev fun d => d.touchRun t.session a (t.rsize * 64)).sessionRead t.session a (t.rsize * 64)) s
    else if s.mem.loftErr.isEmpty then s else
      ((List.range k).flatMap fun i => (List.range t.rsize).map fun j => q.base + (r + i) % q.nrec * t.rsize + j).foldl
        (fun s a => s.loftMend a t.session a) s

/-- Write one frame, if one is due and it fits (R648). -/
def State.streamFrame (s : State) (sid : Nat) : State :=
  match Tbl.find? s.dev.mov.streams sid with
  | none => s
  | some t =>
    -- a HALTED mover carries no stream (R636); a halted stream that is closed ends
    if t.halt.isSome then (if t.closing.isSome then s.onDev fun d => d.endStream sid t else s)
    else if (s.dev.mover t.mover).halted then s else
    let (fr, e) := if t.kind = 3 then s.ringFrame t else (t.queueFrame, .ok)
    match e with
    | .paged idxs => s.onDev fun d => idxs.foldl (fun d i => d.pageIn t.session i (.stream sid)) d
    | .failed st addr =>
      let s' := s.onDev fun d => d.haltStream sid st addr
      if st = .eccUncorrected then
        let cause := match s.dev.stk.translate t.session addr with | .phys p => s.mem.celCause p 1 | _ => 1
        s'.report { code := st, sev := 3, domain := domSession t.session, src := srcMov, cause, addr, session := t.session, detail := sid }
      else s'
    | .ok =>
    match fr with
    | none => s
    | some f =>
      let pad := (64 - f.payload.length % 64) % 64
      let size := 64 + f.payload.length + pad
      if (t.write - t.read).toNat + size > 2 ^ t.rlog2 then s.onDev fun d => d.onStream sid fun t => { t with wait := true }
      else
      let cellar := t.kind = 3 ∧ f.cells.isEmpty ∧ !f.payload.isEmpty
      -- CELLS of a Cellar ring's frame is not stated: a free value
      let cells := if cellar then fld s.dev.free 0 32 else f.cellCount
      let head := t.header sid f cells
      let s := if cellar then s.onDev Dev.freed else s
      let s := if t.kind = 3 then s.ringRead t f.take else s
      let s := s.onDev fun d =>
        let d := d.ringWrite t t.write.toNat (head ++ f.payload ++ List.replicate pad 0)
        let w := t.write + BitVec.ofNat 64 size
        let d := { d with host := d.host ++
          [HostTxn.write (t.rbase + BitVec.ofNat 64 (2 ^ t.rlog2)) (leBytes 8 w.toNat),
           HostTxn.write (t.rbase + BitVec.ofNat 64 (2 ^ t.rlog2 + 16)) (leBytes 8 t.lost)] }
        let d := if f.comp then { d with mov := d.mov.countBlock t.cmpe.toNat f.early } else d
        (d.onStream sid fun t => { t with
          write := w, wait := false, seq := t.seq + 1, bpos := t.bpos + BitVec.ofNat 64 f.ulen, lostFrame := 0, lossMark := false
          queue := if t.kind = 3 then t.queue else t.queue.drop f.take, skip := f.skip
          fences := (t.fences.map fun (u, k) => (u, k - f.take)).filter fun (_, k) => k != 0 }).pump
      let s := match t.kind, s.streamRing t.session t.dblk with
        | 3, .ok q =>
          let (_, r) := s.ringCounts q.idx
          s.onMem fun m => m.loftPut (q.idx + 1) { data := BitVec.ofNat 36 (r + f.take) }
        | _, _ => s
      if f.last then s.onDev fun d => d.endStream sid t else s

/-- R650: write one frame. -/
def execStreamFrame (stream : BitVec 16) (s : State) : Outcome := .next (s.streamFrame stream.toNat)

/-- R648: re-read READ while waiting for ring space. -/
def execReadReread (stream : BitVec 16) (read : BitVec 64) (s : State) : Outcome :=
  devStep s fun d =>
    match Tbl.find? d.mov.streams stream.toNat with
    | none => d
    | some t =>
      if !t.wait then d
      else if (read - t.read).toNat ≤ (t.write - t.read).toNat then d.onStream stream.toNat fun t => { t with read }
      else (d.onStream stream.toNat fun t => { t with badRead := true }).log
        { code := .ok, sev := 0, domain := domMover t.mover, src := srcMov, cause := 31, session := t.session, detail := stream.toNat }

/-- Data a FENCE with STREAMS waits for: cells queued, or slots in the ring. -/
def State.unsent (s : State) (t : Stream) : Nat :=
  if t.kind ≠ 3 then t.queue.length else
  match s.streamRing t.session t.dblk with
  | .ok q => let (w, r) := s.ringCounts q.idx; (w + 2 ^ 36 - r) % 2 ^ 36
  | .error _ => 0

/-- R122, R654: mark every stream of the session with the data produced so far; for a SKIND 2 stream also the cells that wait
in output queues bound to it. All streams of the Crate's session, whatever SCOPE says, and none of another (DESIGN CHOICE,
log entry 82). -/
def State.fenceStreams (s : State) (crate session : Nat) : State :=
  s.dev.mov.streams.foldl (fun s (sid, t) =>
    if t.session ≠ session ∨ t.halt.isSome then s else
    let n := s.unsent t
    let s := if t.kind ≠ 2 then s else s.onDev fun d => d.insts.foldl (fun d (key, i) =>
      (List.range 2).foldl (fun d n =>
        let q := i.outq n
        if fld q.bind 0 2 = 1 ∧ fld q.bind 2 16 = sid ∧ !q.cells.isEmpty then
          d.onInst key fun i => i.setOq n { i.outq n with fences := (i.outq n).fences ++ [(crate, q.cells.length)] }
        else d) d) d
    if n = 0 then s else s.onDev fun d => d.onStream sid fun t => { t with fences := t.fences ++ [(crate, n)] }) s

end Sys2Proof.Machine
end

