-- ==== Sys2Proof/Machine/Admin.lean ====
section
/-!
DEFINITION. FENCE, QUERY and the ADMIN operations on sessions and Hatches (R99 to R104, R121 to R124, R855, R856).
-/
namespace Sys2Proof.Machine

/-! FENCE (R121, R122). -/

/-- Crates of a FENCE's scope read before it that have no Chit yet. -/
def Dev.earlier (d : Dev) (c : Live) : Bool :=
  d.hlk.live.any fun o => o.uid < c.uid && o.session == c.session && (c.num 32 1 == 1 || o.hatch == c.hatch)

/-- A ready FENCE with STREAMS marks the streams; a FENCE completes once what it waits for is done. -/
def State.fence (s : State) (crate : Nat) : State :=
  match s.dev.live? crate with
  | none => s
  | some c =>
    if c.kind ≠ 8 ∨ !c.admitted ∨ !(c.isReady || c.phase == .active) ∨ (c.isReady ∧ !s.dev.startable c) then s else
    let s := if c.isReady then
      let s := s.onDev fun d => d.onLive crate fun c => { c with phase := .active }
      if c.num 33 1 = 1 then s.fenceStreams crate c.session else s
    else s
    if s.dev.earlier c ∨ s.dev.mov.streams.any (fun (_, t) => t.fences.any fun (u, _) => u == crate) ∨
      s.dev.insts.any (fun (_, i) => i.oq.any fun (_, q) => q.fences.any fun (u, _) => u == crate) then s
    else s.onDev fun d => d.finish crate .ok

def execFence (crate : Nat) (s : State) : Outcome := .next (s.fence crate)

/-! QUERY (R123, R855). -/

/-- The 8 bytes of a Shelf entry (R159). -/
def ShelfEntry.bytes (e : ShelfEntry) : List Byte := leBytes 8 e.bits.toNat

/-- The result of a QUERY, or why there is none. A stream that is closing still is an open stream (log entry 90). -/
def Dev.queryResult (d : Dev) (c : Live) : Except Status (List Byte) :=
  let what := c.num 32 2
  let i := c.num 36 4
  let free := Config.queryBytes what d.freeCtr
  match what with
  | 1 => .ok free
  | 2 => if 15 < i then .error .cfgRange
    else if (d.barrel i).owner.any (· != c.session) then .error .grantFault else .ok free
  | 3 =>
    let es := d.stk.shelves.filter fun e => e.session == c.session && e.handle == i && !e.freed
    if es.isEmpty then .error .cfgRange else .ok ((sortBy (·.idx) es).map ShelfEntry.bytes).flatten
  | 4 => .ok free
  | 5 => .ok (leBytes 16 d.stamp.toNat)
  | 6 => match Tbl.find? d.mov.streams i with
    | some t => if t.session = c.session then .ok free else .error .cfgRange
    | none => .error .cfgRange
  | _ => .error .cfgRange

def execQuery (crate : Nat) (ack : HostAck) (s : State) : Outcome :=
  devStep s fun d =>
    match d.starts crate 9 with
    | none => d
    | some c =>
      let (buf, len) := (c.num 40 8, c.num 48 4)
      if c.num 32 2 < 1 ∨ 6 < c.num 32 2 ∨ buf % 64 ≠ 0 then d.finish crate .cfgRange
      else match d.queryResult c with
        | .error st => d.finish crate st
        | .ok b =>
          let out := b.take len
          if d.inHdm buf out.length then d.finish crate .grantFault
          else match ack with
            | .busError => d.freed.finish crate .busError
            | .timeout => d.freed.finish crate .timeout
            | .done =>
              ((d.hostWrite buf out).freed).finish crate
                (if len < b.length then .partial_ else .ok) (ofLeBytes (b.take 8)) out.length

/-! Sessions. -/

/-- The default quotas (R202). -/
def Dev.defaultQuotas (d : Dev) (s : Session) : Session :=
  { s with
    qShelves := fld d.stk.defq0 0 16, qLoft := fld d.stk.defq0 16 11, qSpus := fld d.stk.defq1 0 7, qPrio := fld d.stk.defq1 8 3
    qInflight := fld d.stk.defq1 11 11, qPool := fld d.stk.defq2 0 21 }

/-- R856, R96, R90. -/
def execOpenSession (crate : Nat) (s : State) : Outcome :=
  devStep s fun d =>
    match d.admin crate 1 with
    | none => d
    | some c =>
      let closed := fun n => (d.session n).st == .closed
      let pick : Except Status Nat :=
        if c.target = 0 then match (List.range 4095).find? fun i => closed (i + 1) with
          | some i => .ok (i + 1)
          | none => .error .quota
        else if c.target ≤ 4095 ∧ closed c.target then .ok c.target else .error .cfgRange
      match pick with
      | .error st => d.finish crate st
      | .ok n =>
        let (log2, base, vb, vc) := (c.num 36 1, c.num 40 8, c.num 48 2, c.num 50 1)
        if log2 < 7 ∨ 16 < log2 ∨ base % 4096 ≠ 0 ∨ !d.vecBlockOk n vb vc then d.finish crate .cfgRange
        else if d.inHdm base (2 ^ log2 * 32) then d.finish crate .grantFault
        else
          let new : Session :=
            { st := .opened, chitBase := BitVec.ofNat 64 base, chitLog2 := log2, coal := BitVec.ofNat 16 (c.num 38 2)
              vecBase := vb, vecCount := vc }
          (d.onSession n fun _ => d.defaultQuotas new).finish crate .ok 0 n

/-- R124, R90. -/
def execAddHatch (crate : Nat) (s : State) : Outcome :=
  devStep s fun d =>
    match d.admin crate 3 with
    | none => d
    | some c =>
      let (h, n, base) := (c.num 36 2, c.num 38 1, c.num 40 8)
      if c.target < 1 ∨ 4095 < c.target ∨ (d.session c.target).st ≠ .opened then d.finish crate .cfgRange
      else if h < 1 ∨ 4095 < h ∨ (Tbl.find? d.hlk.hatches h).isSome ∨ n < 4 ∨ 16 < n ∨ base % 4096 ≠ 0 then d.finish crate .cfgRange
      else if d.inHdm base (2 ^ n * 64 + 64) then d.finish crate .grantFault
      else
        ({ d with hlk := { d.hlk with
            hatches := Tbl.set d.hlk.hatches h { owner := c.target, n, base := BitVec.ofNat 64 base } } }).finish crate .ok

/-- Every announced Crate of a Hatch has its Chit. -/
def Dev.hatchIdle (d : Dev) (h : Nat) : Bool :=
  (match Tbl.find? d.hlk.hatches h with
    | some x => x.head == x.tail && x.waiting.isNone
    | none => true) && !d.hlk.live.any fun c => c.hatch == h

/-- An ADMIN Crate of an OP that waits for something: it has started. -/
def Dev.adminActive (d : Dev) (crate op : Nat) : Option Live :=
  match d.live? crate with
  | some c => if c.kind = 0x0F ∧ c.num 32 1 = op ∧ c.phase = .active then some c else none
  | none => none

/-- R124: remove the Hatch once its announced Crates have completed; until then the Crate waits. -/
def Dev.removeHatch (d : Dev) (c : Live) : Dev :=
  let h := c.num 36 2
  if d.hatchIdle h then
    ({ d with hlk := { d.hlk with hatches := Tbl.erase d.hlk.hatches h } }).finish c.uid .ok
  else d.onLive c.uid fun c => { c with phase := .active }

def execRemoveHatch (crate : Nat) (s : State) : Outcome :=
  devStep s fun d =>
    match d.admin crate 4, d.adminActive crate 4 with
    | some c, _ =>
      if !d.liveTarget c.target then d.finish crate .cfgRange
      else if (Tbl.find? d.hlk.hatches (c.num 36 2)).any (·.owner == c.target) then d.removeHatch c
      else d.finish crate .cfgRange
    | none, some c => d.removeHatch c
    | none, none => d

/-- R101: what the Crates of a session do on entering DRAINING. -/
def Dev.cancelSession (d : Dev) (n : Nat) : Dev :=
  (d.hlk.live.filter fun c => c.session == n && c.admitted && !c.decided).foldl (fun d c =>
    if c.phase ≠ .active ∨ c.kind = 8 then d.finish c.uid .cancelled
    else if c.isRun then (d.finish c.uid .cancelled 0 c.started).dropRun c.uid
    else if c.kind = 2 then
      let queued := (List.range 16).any fun m => (d.mover m).queue.any fun a => a.crate == some c.uid
      let d := d.cancelChains c.uid
      if queued then d.finish c.uid .cancelled else d
    else d) d

/-- R101: CLOSE_SESSION and RESET_SESSION enter DRAINING. -/
def Dev.enterDrain (d : Dev) (c : Live) (reset : Bool) : Dev :=
  let n := c.target
  let d := d.onLive c.uid fun c => { c with phase := .active }
  let d := d.onSession n fun s => { s with st := .draining, drain := some { uid := c.uid, reset } }
  let d := (d.cancelSession n).pump
  if reset then d
  else (d.mov.streams.filter fun (_, t) => t.session == n).foldl (fun d (sid, _) => d.startClose sid c.uid) d

def execCloseSession (crate : Nat) (s : State) : Outcome :=
  devStep s fun d =>
    match d.admin crate 2 with
    | none => d
    | some c => if d.liveTarget c.target then d.enterDrain c false else d.finish crate .cfgRange

def execResetSession (crate : Nat) (s : State) : Outcome :=
  devStep s fun d =>
    match d.admin crate 8 with
    | none => d
    | some c => if d.liveTarget c.target then d.enterDrain c true else d.finish crate .cfgRange

/-- R103: what CLOSE_SESSION releases. -/
def State.releaseSession (s : State) (n : Nat) : State :=
  let s := (List.range 16).foldl (fun s b =>
    if (s.dev.barrel b).owner = some n then
      (s.barAbort b 0x04).onDev fun d => d.onBarrel b fun r => { r with owner := none, st := .idle }
    else s) s
  s.onDev fun d =>
    let k := d.stk
    let k : Stk := { k with
      shelves := mapIf (fun e => e.session == n) (fun e => { e with freed := true }) k.shelves
      loft := k.loft.map fun (a, g) => if g.session = n then (a, { g with freed := true }) else (a, g)
      programs := mapIf (fun p => p.session == n) (fun p => { p with freed := true }) k.programs }
    { d with
      stk := k.reclaim
      hlk := { d.hlk with hatches := d.hlk.hatches.filter fun (_, x) => x.owner != n } }

/-- The drain of a session has nothing left to do. -/
def Dev.drained (d : Dev) (n : Nat) (r : Drain) : Bool :=
  !d.hlk.live.any (fun c => c.session == n) && (d.session n).held.isEmpty &&
    d.hlk.hatches.all (fun (_, x) => x.owner != n || (x.head == x.tail && x.waiting.isNone)) &&
    (r.reset || !d.mov.streams.any fun (_, t) => t.session == n)

/-- R101 to R103: the drain ends. -/
def State.drainEnd (s : State) (n : Nat) : State :=
  let ses := s.dev.session n
  match ses.st, ses.drain with
  | .draining, some r =>
    if !s.dev.drained n r then s
    else if r.reset then s.onDev fun d =>
      (d.onSession n fun s => { s with st := if r.escalated then .faulted else .opened, drain := none }).finish r.uid
        (if r.escalated then .internal else .ok)
    else (s.releaseSession n).onDev fun d => (d.onSession n fun _ => {}).finish r.uid .ok
  | _, _ => s

def execDrainEnd (session : BitVec 12) (s : State) : Outcome := .next (s.drainEnd session.toNat)

end Sys2Proof.Machine
end

