-- ==== Sys2Proof/Machine/Cal.lean ====
section
/-!
DEFINITION. Lane calibration: acquisition, in-place steps, swaps through the spare, eye scans, learned sets and
retirement (R269 to R299).
-/
namespace Sys2Proof.Machine

/-- Logical lane on a physical lane. -/
def Ing.logical (g : Ing) (q : Nat) : Option Nat := g.map.idxOf? q

/-- R285, R286: the run of passing points around the data sampler's setting; a point passes when the samplers agree on all
of its bits. -/
def eyeRun (centre : Nat) (up down : List Nat) : Nat :=
  let run := fun l : List Nat => ((l.take 127).takeWhile (· == 0)).length
  if centre ≠ 0 then 0 else min 255 (1 + run up + run down)

/-- EYE_W and EYE_H of a scan (R286). -/
def scanW (e : EyePoints) : Nat := eyeRun e.centre e.right e.left
def scanH (e : EyePoints) : Nat := eyeRun e.centre e.up e.down

/-- R286: a scan ends. -/
def Lane.scanned (x : Lane) (e : EyePoints) (now : BitVec 64) : Lane :=
  { x with eyeW := BitVec.ofNat 8 (scanW e), eyeH := BitVec.ofNat 8 (scanH e), scanTick := some now }

/-- R273, R280 to R282, R291: a lane that adapts holds lock and sync, with an eye at or above the minimum. In a swap its
verification follows. -/
def execLaneAcquisition (port : Fin 4) (lane : Fin 9) (trims : BitVec 64) (eye : EyePoints) (s : State) : Outcome :=
  devStep s fun d =>
    let g := d.port port
    let x := g.lane lane
    if x.cal = 0 ∨ x.retired ∨ scanW eye < fld g.eyeCfg 0 8 ∨ scanH eye < fld g.eyeCfg 8 8 then d else
    let x : Lane := { (x.setTrims (setFld (setFld trims 54 9 0) 63 1 1) d.tim.ticks).scanned eye d.now with
      cdr := true, bsync := true, attempts := 0 }
    let x := if x.cal = 3 then x else { x with cal := 0, lastTemp := g.temp }
    let step := g.swap.map fun w =>
      if w.step = 3 ∧ w.s = lane.val then { w with step := 4 } else if w.step = 6 ∧ w.p = lane.val then { w with step := 7 } else w
    d.onPort port fun g =>
      let g := { g.onLane lane fun _ => x with swap := step }
      if g.mirror.any fun m => m.2 == lane.val then g.startVerify else g

/-- The swap in progress ends: its lane is idle, and a FORCE held through it is served (R279). -/
def Dev.endSwap (d : Dev) (p : Nat) (w : Swap) : Dev :=
  (d.onPort p fun g => { g.onLane w.p fun x => { x with cal := 0 } with swap := none }).serveForce p

/-- R290: the spare that carries logical lane j replaces its lane for good. -/
def Dev.keepSpare (d : Dev) (p j : Nat) : Dev :=
  (d.onPort p fun g => { g with sparePerm := true, spareFor := some j }).calCheck p

/-- R289 to R291: physical lane q has failed three attempts in a row and is retired. -/
def State.laneGivenUp (s : State) (p q : Nat) : State :=
  let g := s.dev.port p
  let s := s.retireLane p q
  match g.swap with
  | some w =>
    if q = w.p then s.onDev fun d => (d.endSwap p w).keepSpare p w.j
    else s.onDev fun d =>
      let d := d.onPort p fun g => { g with spareFails := 0, noSpare := true }
      ((d.endSwap p w).sendCode p (d.port p).restCode).calCheck p
  | none =>
    match g.logical q, g.spareFor with
    | some j, _ =>
      -- at link-up: the spare takes the lane's place, or the port falls short of lanes
      match s.dev.spare? p with
      | some sp =>
        if s.dev.usableSpare p ∧ !g.sparePerm then
          (s.onDev fun d => (d.onPort p fun g =>
            { g with map := g.map.set j sp, sparePerm := true, spareFor := some j }).sendCode p (BitVec.ofNat 4 j)).acquire p sp 1
        else s.fallback p
      | none => s.fallback p
    -- the retraining after a forced switch
    | none, some j => s.onDev fun d => d.keepSpare p j
    -- the spare that a failed lane waits for
    | none, none => if g.failedLanes.isEmpty then s else (s.onDev fun d => d.sendCode p (d.port p).restCode).fallback p

/-- R274, R282, R289 to R291: a failed attempt; the third in a row retires the lane, as does the spare's third failure in a
row at step 3 of a swap. -/
def State.attemptFails (s : State) (p q : Nat) : State :=
  let g := s.dev.port p
  let x := g.lane q
  if x.cal = 0 ∨ x.cdr ∨ x.retired then s else
  let spare := g.swap.any fun w => w.step == 3 && w.s == q
  let fails := if spare then g.spareFails + 1 else g.spareFails
  let s := s.onDev fun d => d.onPort p fun g =>
    { g.onLane q fun x => { x with attempts := x.attempts + 1 } with spareFails := fails }
  if 3 ≤ x.attempts.toNat + 1 ∨ spare ∧ 3 ≤ fails then s.laneGivenUp p q else s.acquire p q x.cal

/-- R276: one code of one field per 1 µs, within its range. -/
def execInPlaceTrimStep (port : Fin 4) (lane : Fin 9) (field : Fin 9) (up : Bool) (s : State) : Outcome :=
  devStep s fun d =>
    let g := d.port port
    if d.method port ≠ 0 ∨ (g.logical lane).isNone then d else
    match trimFields[field.val]? with
    | none => d
    | some f =>
      let w := (g.lane lane).trims
      let v := trimField w f + (if up then 1 else -1)
      let lo : Int := if f.2.2 then -(2 ^ (f.2.1 - 1)) else 0
      let hi : Int := if f.2.2 then 2 ^ (f.2.1 - 1) - 1 else 2 ^ f.2.1 - 1
      if v < lo ∨ hi < v then d
      else d.onPort port fun g => g.onLane lane fun x => x.setTrims (setFld w f.1 f.2.1 (v % 2 ^ f.2.1).toNat) d.tim.ticks

/-- In the through-spare method, a logical lane becomes due for a cause (R278). -/
def Dev.markDue (d : Dev) (p j cause : Nat) : Dev :=
  if d.method p ≠ 1 then d else
  d.onPort p fun g => match g.map[j]? with
    | some q => if g.swap.any (·.j == j) then g else g.onLane q fun x => { x with due := setBit x.due cause true }
    | none => g

/-- R270, R278 order 3, R283: the mean that input 16 + port of the housekeeping converter gave last (R763). -/
def execLaneTemperatureUpdate (port : Fin 4) (s : State) : Outcome :=
  devStep s fun d =>
    let p := port.val
    let temp := Tbl.get 0 d.mon.temps (16 + p)
    let d := d.onPort p fun g => { g with temp }
    let g := d.port p
    (List.range g.active).foldl (fun d j =>
      match g.map[j]? with
      | some q => if ((temp.toInt - (g.lane q).lastTemp.toInt).natAbs ≥ g.tempStep.toNat) then d.markDue p j 2 else d
      | none => d) d

/-- R278 order 4. -/
def execCalibrationPeriod (port : Fin 4) (lane : Fin 8) (s : State) : Outcome := devStep s fun d => d.markDue port lane 3

/-- R279: in a swap a FORCE is held, or dropped if one is held already; else its lane is due, or the in-place method ignores
it. -/
def execForce (port : Fin 4) (lane : BitVec 4) (s : State) : Outcome :=
  startStep s fun d =>
    let p := port.val
    let d := d.onPort p fun g => { g with forceLane := lane }
    let g := d.port p
    if 7 < lane.toNat then d
    else if g.swap.isSome then
      if g.forcePend.isSome then d.onPort p fun g => { g with dropped := BitVec.ofNat 8 (satInc 8 g.dropped.toNat) }
      else d.onPort p fun g => { g with forcePend := some lane.toNat }
    else d.markDue p lane.toNat 1

/-- The lane due first: by cause, then by logical lane (R278). -/
def Ing.nextDue (g : Ing) : Option Nat :=
  let due := fun c => (List.range g.active).find? fun j => (g.map[j]?).any fun q => bit (g.lane q).due c && !(g.lane q).retired
  (due 0).orElse fun _ => (due 1).orElse fun _ => (due 2).orElse fun _ => due 3

/-- R280: the steps of a swap that are the port's own: 1 start, 2 copy, 9 end. Acquisitions and switches are events of
their own. -/
def State.swapStep (s : State) (p : Nat) : State :=
  let g := s.dev.port p
  match g.swap with
  | none =>
    if s.dev.method p ≠ 1 ∨ !g.failedLanes.isEmpty ∨ g.spareFor.isSome then s else
    match g.nextDue, s.dev.spare? p with
    | some j, some sp =>
      let q := (g.map[j]?).getD 0
      s.onDev fun d => (d.onPort p fun g =>
        { g.onLane q fun x => { x with pre := x.trims } with swap := some { j, p := q, s := sp, step := 1 } }).sendCode p (BitVec.ofNat 4 j)
    | _, _ => s
  | some w =>
    if w.step = 1 then
      (s.onDev fun d => d.onPort p fun g => { g with swap := some { w with step := 3 } }).acquire p w.s 1
    else if w.step = 8 then
      s.onDev fun d => (d.endSwap p w).sendCode p 0xF
    else s

def execSpareSwap (port : Fin 4) (s : State) : Outcome := .next (s.swapStep port)

/-- R287, R288: a scan ends; an eye of an active lane below an alarm threshold is an event of its own (R859). -/
def execEyeScan (port : Fin 4) (lane : Fin 9) (eye : EyePoints) (s : State) : Outcome :=
  devStep s fun d =>
    let p := port.val
    let g := d.port p
    let was := g.lane lane
    let w0 := fld g.eyeCfg 16 8
    let h0 := fld g.eyeCfg 24 8
    let d := d.onPort p fun g => g.onLane lane fun x => x.scanned eye d.now
    match g.logical lane with
    | none => d
    | some j =>
      if g.emits ∧ (scanW eye < w0 ∨ scanH eye < h0) then
        -- it falls below where the last scan stood at or above it
        let fell := was.scanTick.isNone ∨ scanW eye < w0 ∧ w0 ≤ was.eyeW.toNat ∨ scanH eye < h0 ∧ h0 ≤ was.eyeH.toNat
        let d := if fell ∨ !g.eyeAlarm then
            (d.onPort p fun g => { g with eyeAlarm := true }).log
              { code := .ok, sev := 1, domain := d.portDom p, src := BitVec.ofNat 8 p, cause := 10, detail := lane.val }
          else d
        d.markDue p j 0
      else d

/-- R295: applied trims enter the learned table at every anchor within 2.5 °C. -/
def execLearnedEntry (port : Fin 4) (lane : Fin 9) (s : State) : Outcome :=
  .next <|
    let p := port.val
    let g := s.dev.port p
    let x := g.lane lane
    let near := (List.range 5).filter fun i => ((s.anchors p)[i]?).any fun t => decide ((g.temp.toInt - t).natAbs ≤ 20)
    let steady := s.dev.method p = 0 ∧ (s.dev.tim.ticks - x.trimTick).toNat ≥ 20480000
    let swapped := g.swap.any fun w => w.step == 8 && w.p == lane.val
    if (g.logical lane).isNone ∨ ¬ (steady ∨ swapped) then s
    else s.onDev fun d => d.onPort p fun g => g.onLane lane fun x =>
      { x with learned := near.foldl (fun l t => Tbl.set l (d.band p * 5 + t) (setFld x.trims 63 1 1)) x.learned }

/-- R296: the record with every learned entry in place of the stored one. -/
def State.calBody (s : State) (p : Nat) : List Byte :=
  let body := s.latestBody (2 + p) 1448
  (List.range 9).foldl (fun b lane =>
    ((s.dev.port p).lane lane).learned.foldl (fun b (k, w) =>
      let at_ := 8 + 8 * (lane * 20 + k)
      b.take at_ ++ leBytes 8 w.toNat ++ b.drop (at_ + 8)) b) body

def execSave (port : Fin 4) (s : State) : Outcome :=
  startState s fun s =>
    let p := port.val
    if (s.dev.port p).saving then s else
    let body := s.calBody p
    s.onDev fun d => (d.onPort p fun g => { g with saving := true }).atticPush (.calSave p) (2 + p) body

/-- R292, R294: ING_CAL_RETIRE, class I. -/
def State.calRetire (s : State) (p q : Nat) (retire : Bool) : State :=
  let g := s.dev.port p
  let note := fun st => s.onDev fun d => d.note st (d.portDom p) (BitVec.ofNat 8 p)
  if g.st ≠ .idle then note .cfgLocked
  else if 8 < q then note .cfgRange
  else if retire then (if (g.lane q).retired then s else s.retireLane p q)
  else if !(g.lane q).retired then s
  else
    (s.onDev fun d => d.onPort p fun g =>
      { g.onLane q fun x => { retired := false, crc := x.crc, learned := x.learned } with
        sparePerm := false, spareFor := none, noSpare := false, spareFails := 0 }).putRetired p

def execRetire (port : Fin 4) (lane : BitVec 4) (s : State) : Outcome := hostState s fun s => s.calRetire port lane.toNat true
def execClear (port : Fin 4) (lane : BitVec 4) (s : State) : Outcome := hostState s fun s => s.calRetire port lane.toNat false

end Sys2Proof.Machine
end

