-- ==== Sys2Proof/Machine/Attic.lean ====
section
/-!
DEFINITION. The Attic: its records, host commands, the CRC check and the end of a write (R798, R801 to R807).
-/
namespace Sys2Proof.Machine

def Dev.onAtc (d : Dev) (f : Atc → Atc) : Dev := { d with atc := f d.atc }

/-- Body bytes by TYPE (R801). -/
def atticLen (typ : Nat) : Nat :=
  if typ = 0 then 64 else if typ = 1 then 256 else if typ ≤ 5 then 1448 else if typ = 6 then 11556 else if typ = 7 then 20
  else if typ = 8 then 32 else if typ ≤ 12 then 212 else if typ = 13 then 12 else if typ = 14 then 16 else if typ = 15 then 2056
  else 0

/-- R802: a record is valid when all five fields of its header match; those of a factory record do. -/
def Mem.atticValid (m : Mem) (typ : Nat) : Bool :=
  let off := atticOffset typ
  (decide (2 ≤ typ ∧ typ ≤ 5) && bit m.factory (typ - 2)) ||
    m.atticRun off 16 == atticHeader typ (m.atticRun (off + 16) (atticLen typ))

/-- R804: start of the integrator area. -/
def areaStart : Nat := 0x12000

/-- Bytes that a job writes: where, how many. -/
def atticSpan (job : AtticJob) (typ : Nat) (body : List Byte) : Nat × Nat :=
  match job with
  | .hostArea off => (areaStart + off, body.length)
  | _ => (atticOffset typ, 16 + atticLen typ)

/-- Sectors that hold bytes of a range. -/
def sectorsOf (a n : Nat) : List Nat := (List.range ((a + n + 4095) / 4096 - a / 4096)).map (a / 4096 + ·)

/-- R803 step 1: the sectors are erased. -/
def Mem.atticErase (m : Mem) (sectors : List Nat) : Mem :=
  { m with
    attic := m.attic.filter fun (a, _) => !sectors.contains (a / 4096)
    factory := (List.range 4).foldl (fun f p => if sectors.contains (2 + p) then setBit f p false else f) m.factory }

/-! Host commands (R804). -/

/-- A command starts, or ends at once with its RESULT. -/
def Dev.atticHost (d : Dev) (op : BitVec 2) (ok : Bool) (job : AtticJob) (typ : Nat) (body : List Byte) : Dev :=
  if d.atc.busy then d else
  let d := d.onAtc fun a => { a with op }
  if d.atc.wlock then d.onAtc fun a => { a with result := 2 }
  else if !ok then d.onAtc fun a => { a with result := 1 }
  else (d.onAtc fun a => { a with busy := true }).atticPush job typ body

/-- The staged bytes. -/
def Atc.staged (a : Atc) : List Byte := Tbl.getRun 0 a.stage 0 (fld a.rec_ 16 15)

def execWriteRecord (s : State) : Outcome :=
  keptStep s fun d =>
    let typ := fld d.atc.rec_ 0 8
    d.atticHost 0 (decide (1 ≤ typ ∧ typ ≤ 14 ∧ fld d.atc.rec_ 16 15 = atticLen typ)) .hostWrite typ d.atc.staged

/-- IDENTITY takes no host write (R801). -/
def execInvalidateRecord (s : State) : Outcome :=
  keptStep s fun d =>
    let typ := fld d.atc.rec_ 0 8
    d.atticHost 1 (decide (1 ≤ typ ∧ typ ≤ 15)) .hostInvalidate typ []

def execWriteIntegratorArea (s : State) : Outcome :=
  keptStep s fun d =>
    let off := d.atc.ofs.toNat * 4096
    let len := fld d.atc.rec_ 16 15
    d.atticHost 2 (decide (1 ≤ len ∧ len ≤ 16384 ∧ d.atc.ofs.toNat ≤ 109 ∧ areaStart + off + len ≤ 524288)) (.hostArea off) 0 d.atc.staged

def execWlock (s : State) : Outcome := keptStep s fun d => d.onAtc fun a => { a with wlock := true }

/-! The end of a write (R296, R745, R773, R803). -/

/-- A failed SAVE leaves the stored record as it was. -/
def AtticJob.isSave : AtticJob → Bool
  | .calSave _ | .tdcSave | .monSave => true
  | _ => false

/-- Set a SAVE_ERR bit; its rise writes a record (R859). -/
def Dev.saveErr (d : Dev) (was : Bool) (domain : BitVec 16) (src cause : Nat) : Dev :=
  if was then d else d.log { code := .ok, sev := 0, domain, src := BitVec.ofNat 8 src, cause }

/-- What the requester of a write sees of its end; `more` when another record of the same SAVE waits. -/
def Dev.atticEnd (d : Dev) (job : AtticJob) (typ : Nat) (ok more : Bool) : Dev :=
  match job with
  | .calSave p =>
    let d := d.onPort p fun g => { g with saving := false }
    if ok then d else (d.saveErr (d.port p).saveErr (d.portDom p) p 8).onPort p fun g => { g with saveErr := true }
  | .tdcSave =>
    let d := { d with tim := { d.tim with tdcCtl := setBit d.tim.tdcCtl 2 false } }
    if ok then d else
      let d := d.saveErr d.tim.saveErr domDevice 0x38 9
      { d with tim := { d.tim with saveErr := true } }
  | .monSave =>
    let d := d.onMon fun m => { m with save := more }
    if ok then d else (d.saveErr d.mon.saveErr domMon monUnit 2).onMon fun m => { m with saveErr := true }
  | .retired _ | .map | .errlog =>
    if ok then d else d.log { code := .ok, sev := 2, domain := domDevice, src := srcAtc, detail := typ }
  | .hostWrite | .hostInvalidate | .hostArea _ => d.onAtc fun a => { a with busy := false, result := if ok then 0 else 3 }

/-- R803: the first write that waits ends. A write that fails leaves the record invalid, but for a SAVE. -/
def State.atticDone (s : State) (ok : Bool) : State :=
  match s.dev.atc.jobs with
  | [] => s
  | (job, typ, body) :: rest =>
    let (a, n) := atticSpan job typ body
    let sectors := sectorsOf a n
    let keep := !ok && job.isSave
    let mem := if keep then s.mem else s.mem.atticErase sectors
    let bytes := match job with
      | .hostArea _ => body
      | .hostInvalidate => []
      | _ => atticHeader typ body ++ body
    let mem := if ok then { mem with attic := Tbl.putRun 0 mem.attic a bytes } else mem
    let isRec := match job with | .hostArea _ => false | _ => true
    let valid := ok && (match job with | .hostInvalidate => false | _ => true)
    { s with
      mem
      dev := (s.dev.onAtc fun x =>
        { x with
          jobs := rest
          erases := if keep then x.erases else sectors.foldl (fun e k => Tbl.upd 0 e k (· + 1)) x.erases
          valid := if isRec && !keep then setBit x.valid typ valid else x.valid }).atticEnd job typ ok (rest.any fun (j, _) => j == .monSave) }

/-! The log (R789, R807). -/

/-- R785: the eight words of a record. -/
def ErrRec.words (r : ErrRec) : List Nat :=
  [r.code.toNat + r.sev.toNat * 2 ^ 8 + r.ovf.toNat * 2 ^ 10 + r.esc.toNat * 2 ^ 11 + r.domain.toNat * 2 ^ 12,
   r.src.toNat + r.cause.toNat * 2 ^ 8 + r.seq.toNat * 2 ^ 16, r.addr.toNat % 2 ^ 32, r.addr.toNat / 2 ^ 32, r.session.toNat,
   r.time.toNat % 2 ^ 32, r.time.toNat / 2 ^ 32, r.detail.toNat]

def ErrRec.bytes (r : ErrRec) : List Byte := (r.words.map (leBytes 4)).flatten

/-- R807: the log with one more entry and `lost` more lost. -/
def logBody (b : List Byte) (r : ErrRec) (lost : Nat) : List Byte :=
  let j := ofLeBytes (b.take 4)
  let at_ := 8 + 32 * (j % 64)
  let b := b.take at_ ++ r.bytes ++ b.drop (at_ + 32)
  leBytes 4 (j + 1) ++ leBytes 4 (ofLeBytes ((b.drop 4).take 4) + lost) ++ b.drop 8

/-- R789: one record is copied a second; the others of that second are lost. -/
def execErrlogCopy (s : State) : Outcome :=
  .next <|
    match s.dev.rel.errlogWait with
    | [] => s
    | r :: rest =>
      let body := logBody (s.latestBody 15 2056) r rest.length
      s.onDev fun d => ({ d with rel := { d.rel with errlogWait := [] } }).atticPush .errlog 15 body

/-- R798: records whose header or CRC does not match any more, and those the check names as gone bad. -/
def execAtticCrcCheck (bad : BitVec 16) (s : State) : Outcome :=
  devStep s fun d => (List.range 16).foldl (fun d t =>
    if bit d.atc.valid t && (bit bad t || !s.mem.atticValid t) then
      (d.onAtc fun a => { a with valid := setBit a.valid t false }).degraded .eccUncorrected domDevice srcAtc 0 t
    else d) d

end Sys2Proof.Machine
end

