-- ==== Sys2Proof/Machine/Cel.lean ====
section
/-!
DEFINITION. The Cellar controllers: arbitration and page policy (R665 to R669), refresh, self-refresh and retraining (R673
to R680), retirements (R680 to R686), and the host's windows onto the Cellar (R88, R94, R779).
-/
namespace Sys2Proof.Machine

/-! Arbitration (R665 to R667). -/

/-- R666: T of a port. -/
def Cel.target (c : Cel) (port : Nat) : Nat := (Tbl.get 0 c.targets port).toNat

/-- R51, R665: rank of a request. -/
def CelEntry.rank (e : CelEntry) : Nat :=
  if e.req.port = 0 ∧ e.tokens then 1 else if e.req.port = 1 ∧ e.req.below then 2 else 3

/-- Age in ns at a tick of the block. -/
def CelEntry.age (e : CelEntry) (now : BitVec 64) : Nat := (now - e.tick).toNat * 125 / 256

/-- R665, R666: urgency of a rank 3 request. -/
def Cel.urgency (c : Cel) (now : BitVec 64) (e : CelEntry) : Nat :=
  let t := c.target e.req.port
  let a := e.age now
  if e.req.port = 0 then 3 else if 2 * a < t then 0 else if a < t then 1 else if a < 2 * t then 2 else 3

def CelPc.bank (x : CelPc) (b : Nat) : CelBank := Tbl.get {} x.banks b

/-- The request hits the open row of its bank. -/
def CelPc.hits (x : CelPc) (r : CelReq) : Bool := (x.bank r.bank.toNat).row == some r.row.toNat

/-- R667: what orders requests, better is greater. -/
def Cel.order (c : Cel) (now : BitVec 64) (x : CelPc) (e : CelEntry) : List Nat :=
  [3 - e.rank, if e.rank = 3 then c.urgency now e else 0, (x.hits e.req).toNat, (now - e.tick).toNat]

def Cel.choose (c : Cel) (now : BitVec 64) (x : CelPc) (l : List CelEntry) : Option CelEntry :=
  bestBy (fun a b => List.lex (c.order now x b) (c.order now x a) (lt := fun m n : Nat => m < n)) l

/-! The write queue (R670, R671). -/

def CelEntry.granule (e : CelEntry) : Nat := e.req.addr.toNat / 64

/-- Two requests for a byte in common. -/
def CelEntry.meets (a b : CelEntry) : Bool := a.granule == b.granule && a.req.mask &&& b.req.mask != 0

/-- The 64 entries of the write queue. -/
def CelPc.queue (x : CelPc) : List CelEntry := x.writes.take 64

/-- R670: a request arrives. A write enters the queue when it has room. A read is served from the queue when every byte
it requests is held there, unless an older read of its port to the granule still waits (R671); one that is partly covered
promotes the matching writes to the front. -/
def CelPc.arrive (x : CelPc) (e : CelEntry) : CelPc :=
  let x := { x with nextReq := x.nextReq + 1 }
  if e.req.write then { x with writes := x.writes ++ [e] }
  else
    let held := x.queue.filter e.meets
    let cover := held.foldl (fun m w => m ||| w.req.mask) 0
    if e.req.mask &&& ~~~cover = 0 ∧ !(x.reads.any fun r => r.granule == e.granule && r.req.port == e.req.port) then x
    else { x with reads := x.reads ++ [e], writes := held ++ x.writes.filter fun w => !held.contains w }

/-- A read waits behind the writes that it must see and the older reads of its port to its granule (R670, R671). -/
def CelPc.readReady (x : CelPc) (e : CelEntry) : Bool :=
  !(x.writes.any fun w => decide (w.n < e.n) && (w.meets e || (w.granule == e.granule && w.req.port == e.req.port))) &&
  !(x.reads.any fun r => decide (r.n < e.n) && r.granule == e.granule && r.req.port == e.req.port)

/-- A write of the queue waits behind the older writes to its granule and the older reads of its port to it (R671). -/
def CelPc.writeReady (x : CelPc) (e : CelEntry) : Bool :=
  !(x.writes.any fun w => decide (w.n < e.n) && w.granule == e.granule) &&
  !(x.reads.any fun r => decide (r.n < e.n) && r.granule == e.granule && r.req.port == e.req.port)

/-- Requests ready to issue: the reads, and of the queue the promoted writes, or all where none is promoted. -/
def CelPc.ready (x : CelPc) : List CelEntry :=
  let front := x.queue.filter fun w => x.reads.any fun r => decide (w.n < r.n) && w.meets r
  x.reads.filter x.readReady ++ ((if front.isEmpty then x.queue else front).filter x.writeReady)

/-- R665: fill a Barrel's bucket; a write that finds 64 bytes there takes them. -/
def Dev.takeTokens (d : Dev) (b : Nat) : Bool × Dev :=
  let r := (Tbl.get {} d.barrels b).res
  let unit := r.den * 2048000000
  let (level, at_) := Tbl.get (0, d.tim.ticks) d.cel.buckets b
  let level := min (4096 * unit) (level + (d.tim.ticks - at_).toNat * r.num)
  let takes := decide (r.num ≠ 0 ∧ 64 * unit ≤ level)
  (takes, d.onCel fun c => { c with buckets := Tbl.set c.buckets b (if takes then level - 64 * unit else level, d.tim.ticks) })

/-- A request arrives at a pseudo-channel. -/
def Dev.celArrive (d : Dev) (pc : Nat) (r : CelReq) : Dev :=
  let (tokens, d) := if r.port = 0 ∧ r.write then d.takeTokens r.barrel.val else (false, d)
  d.onPc pc fun x => x.arrive { req := r, tokens, tick := d.tim.ticks, n := x.nextReq }

/-- The controller domain's clock in MHz at the pin speed in use (R661). -/
def Cel.mhz (c : Cel) : Nat := match c.speed.toNat with | 0 => 800 | 1 => 1000 | 2 => 1100 | _ => 1200

/-- R669: the rows that no queued request targets are open for at most 64 clocks after the last access. -/
def CelPc.settle (x : CelPc) (now : BitVec 64) (mhz : Nat) : CelPc :=
  { x with banks := x.banks.map fun (k, b) =>
      if ((x.reads ++ x.queue).any fun q => q.req.bank.toNat == k && b.row == some q.req.row.toNat) ∨
        (now - b.last).toNat * mhz ≤ 64 * 2048 then (k, b) else (k, { b with row := none }) }

def Dev.celSettle (d : Dev) (pc : Nat) : Dev :=
  d.onCel fun c => { c with pcs := c.pcs.map fun (p, x) => if p = pc then (p, x.settle d.tim.ticks c.mhz) else (p, x) }

/-- R669: counter C and the open row after an access. -/
def CelBank.access (b : CelBank) (row : Nat) (wanted : Bool) (now : BitVec 64) : CelBank :=
  let c := match b.row with
    | some r => if r = row then min 3 (b.c + 1) else b.c - 1
    | none => b.c
  { b with c, last := now, row := if wanted || decide (2 ≤ c) then some row else none }

/-- A request issues: the bank, CEL_QOS.MAXAGE, and the request leaves (R666, R669). -/
def Dev.celIssue (d : Dev) (pc : Nat) (e : CelEntry) : Dev :=
  let b := e.req.bank.toNat
  (d.onPc pc fun x =>
    let x := { x with reads := x.reads.filter (·.n != e.n), writes := x.writes.filter (·.n != e.n) }
    let wanted := (x.reads ++ x.queue).any fun q => q.req.bank == e.req.bank && q.req.row == e.req.row
    { x with banks := Tbl.set x.banks b ((x.bank b).access e.req.row.toNat wanted d.tim.ticks) }).onCel fun c =>
      let old := Tbl.get 0 c.maxAge e.req.port
      let new := BitVec.ofNat 16 (satU 16 (e.age d.tim.ticks / 100))
      if old.toNat < new.toNat then { c with maxAge := Tbl.set c.maxAge e.req.port new } else c

/-- Symbols in error as the code takes them. -/
def symbols (l : List (Fin 72 × Byte)) : List (Nat × Nat) := l.map fun (i, v) => (i.val, v.toNat)

/-- R672, R687: the stack is read for a request, with symbols in error: corrected and written back, or returned poisoned
and reported by one record. -/
def State.celCheck (s : State) (pc : Nat) (r : CelReq) (errors : List (Fin 72 × Byte)) : State :=
  let a := r.addr.toNat / 64 * 64
  let s := if errors.isEmpty then s else s.onMem fun m => m.granuleHit (a / 64) (symbols errors)
  let s := if (s.mem.fixable a 64).isEmpty then s else
    ((s.onMem fun m => { m with celErr := Tbl.erase m.celErr (a / 64) }).onDev fun d => d.log
      { code := .ok, sev := 1, domain := r.domain, src := srcCel, addr := r.addr.toNat, session := r.session.toNat, detail := pc }).celCorrected pc
  if !s.mem.poisoned a 64 then s else
  -- a session's data is unsound, and a table frame escalates at once; others lose data
  let own := r.domain.toNat / 4096 == 1
  (s.celUncorrected pc r.addr.toNat).report
    { code := .eccUncorrected, sev := if own then 3 else 2, domain := r.domain, src := srcCel, cause := s.mem.celCause a 64
      addr := r.addr.toNat, session := r.session.toNat, detail := pc } (own && r.port == 4)

/-- R667, R669, R670, R687: requests arrive, and the next command of a pseudo-channel issues; `errors` are the symbols in
error of the granule it reads. A stack in self-refresh, untrained, or a retired pseudo-channel issues none. -/
def State.celRequest (s : State) (pc : Nat) (arrivals : List CelReq) (errors : List (Fin 72 × Byte)) : State :=
  let s := s.onDev fun d => arrivals.foldl (fun d r => d.celArrive pc r) (d.celSettle pc)
  let c := s.dev.cel
  let x := c.pc pc
  if x.retired ∨ !bit c.trained (pc / 32) ∨ bit c.selfref (pc / 32) then s else
  match c.choose s.dev.tim.ticks x x.ready with
  | none => s
  | some e =>
    let s := s.onDev fun d => d.celIssue pc e
    if e.req.write ∧ e.req.mask = BitVec.allOnes 64 then s else s.celCheck pc e.req errors

def execCellarRequest (pc : Fin 64) (arrivals : List CelReq) (errors : List (Fin 72 × Byte)) (s : State) : Outcome :=
  .next (s.celRequest pc arrivals errors)

/-! Refresh, self-refresh, retraining (R673 to R680). -/

/-- R673: a refresh interval of a bank ends: refreshed in an idle slot, or postponed, at most 8 times. -/
def execRefresh (pc : Fin 64) (bank : BitVec 6) (idle : Bool) (s : State) : Outcome :=
  devStep s fun d =>
    if bit d.cel.selfref (pc.val / 32) then d else
    d.onPc pc fun x =>
      let b := x.bank bank.toNat
      let b := if idle ∨ 8 ≤ b.postponed then { b with row := none, postponed := 0 } else { b with postponed := b.postponed + 1 }
      { x with banks := Tbl.set x.banks bank.toNat b }

/-- R674: a stack that has been idle for SR_IDLE may enter. -/
def Dev.mayRest (d : Dev) : Bool :=
  d.cel.srEn && !(d.barrels.any fun (_, r) => r.armed) && !d.sco.run && !d.sco.en && d.cel.mig.isNone

/-- A read waits for a pseudo-channel of the stack. -/
def Cel.wanted (c : Cel) (stack : Nat) : Bool := c.pcs.any fun (p, x) => p / 32 == stack && !x.reads.isEmpty

/-- R675: the write queues are drained and all banks of the stack are precharged; a request that waits aborts the entry. -/
def execSelfRefreshEntry (stack : Fin 2) (s : State) : Outcome :=
  devStep s fun d =>
    if !d.mayRest ∨ !bit d.cel.trained stack ∨ d.cel.wanted stack then d else
    d.onCel fun c =>
      { c with
        selfref := setBit c.selfref stack true
        pcs := c.pcs.map fun (p, x) =>
          if p / 32 = stack.val then (p, { x with writes := [], banks := x.banks.map fun (b, y) => (b, { y with row := none }) }) else (p, x) }

/-- R675, R676: requests are served again, and the ARMs that met self-refresh complete. -/
def execSelfRefreshExit (stack : Fin 2) (s : State) : Outcome :=
  .next <| (s.onDev fun d => d.onCel fun c => { c with selfref := setBit c.selfref stack false }).armsAwake

/-- R679, R680: a retraining ends; the third failure in a row retires the pseudo-channel without copies. -/
def execPeriodicRetraining (pc : Fin 64) (pass : Bool) (s : State) : Outcome :=
  .next <|
    let x := s.dev.cel.pc pc
    if x.retired ∨ bit s.dev.cel.selfref (pc.val / 32) then s
    else if pass then s.onDev fun d => d.onPc pc fun x => { x with attempts := 0 }
    else
      let s := s.onDev fun d => d.onPc pc fun x => { x with attempts := min 3 (x.attempts + 1) }
      if 3 ≤ (s.dev.cel.pc pc).attempts then s.celRetire pc false else s

/-- CEL_RETIRE.GO is ignored while a migration runs. -/
def execCelRetire (pc : Fin 64) (s : State) : Outcome := hostState s fun s => if s.dev.cel.mig.isSome then s else s.celRetire pc true

/-- R684: one slice is in its slot; `bad` are the granules of the Shelf's slice that could not be read. -/
def execSliceMigration (bad : List (BitVec 31)) (s : State) : Outcome :=
  .next <|
    match s.dev.cel.mig with
    | none => s
    | some m =>
      if m.total ≤ m.copied then s else
      let s := s.onDev fun d => d.onCel fun c => { c with mig := some { m with copied := m.copied + 1 } }
      bad.foldl (fun s g => s.poisonGranule g.toNat) s

def execMigrationEnd (s : State) : Outcome := .next s.endMigration

/-- R27: CEL_CTL.LOCK. -/
def execCelCtlLock (s : State) : Outcome := hostStep s fun d => d.onCel fun c => { c with lock := true }

/-! The host's windows. -/

/-- R779: a block of a stack whose CEL domain escalated. -/
def State.blockDead (s : State) (a : Nat) : Bool := s.dev.cel.dead ≠ 0 && bit s.dev.cel.dead (s.mem.pcOf a / 32)

/-- Add an answer to what the host sees. -/
def State.answer (s : State) (t : HostTxn) : State := s.onDev fun d => { d with host := d.host ++ [t] }

/-- A read of physical Cellar by the host: an uncorrected read is answered poisoned (R687). -/
def State.hostRead (s : State) (a n : Nat) : State :=
  if (List.range ((a + n + 255) / 256 - a / 256)).any fun i => s.blockDead ((a / 256 + i) * 256) then s.answer .poisoned
  else
    let domain := domCel (s.mem.pcOf a / 32)
    let t := s.celRead a n domain 0 a
    if s.mem.poisoned a n then
      (t.onDev fun d => d.log { code := .eccUncorrected, sev := 2, domain, src := srcCel, cause := s.mem.celCause a n, addr := a }).answer .poisoned
    else t.answer (.reply (s.physGet a n))

/-- A write of physical Cellar by the host, block by block. One into a table frame in use changes nothing (log entry 105). -/
def State.hostWrite (s : State) : Nat → Nat → List Byte → State
  | 0, _, _ => s
  | fuel + 1, a, b =>
    if b.isEmpty then s else
    let room := 256 - a % 256
    let part := b.take room
    let s' := if s.blockDead a || (s.dev.stk.tableAt? a).isSome then s
      else (s.celMerge a part.length (domCel (s.mem.pcOf a / 32)) 0 a).cellarStore a part
    s'.hostWrite fuel (a + room) (b.drop room)

/-- R94: BAR4. -/
def execBar4Access (offset : BitVec 30) (access : BusAccess) (s : State) : Outcome :=
  hostState s fun s =>
    let win := s.dev.hlk.cwin
    let a := fld win 0 7 * 512 * shelfBytes + offset.toNat
    let reaches := fun n => bit win 31 && decide (a + n ≤ s.dev.fittedShelves * shelfBytes)
    match access with
    | .read n => if reaches n then s.hostRead a n else s.answer (.reply (List.replicate n 0xFF))
    | .write b => if reaches b.length then s.hostWrite (b.length + 1) a b else s

/-- R88, R91: an access through the committed decoder; an address outside it does not reach the device. Offset 0 names the
lowest reserved Shelf (log entry 93). -/
def execCxlMemAccess (offset : BitVec 36) (access : BusAccess) (s : State) : Outcome :=
  hostState s fun s =>
    match s.dev.hlk.hdmDecoder with
    | none => s
    | some (gib, _) =>
      let a := s.dev.poolTop * shelfBytes + offset.toNat
      let reaches := fun n => decide (offset.toNat + n ≤ gib * 2 ^ 30)
      match access with
      | .read n => if reaches n then s.hostRead a n else s
      | .write b => if reaches b.length then s.hostWrite (b.length + 1) a b else s

end Sys2Proof.Machine
end

