-- ==== Sys2Proof/Machine/Rings.lean ====
section
/-!
DEFINITION. Record rings of the units in Loft and in the Cellar (R377 to R382): where a DEST may lie, and writing one
record.
-/
namespace Sys2Proof.Machine

/-- The session of a program copy that sent a record, or session 0 for the register path. -/
def Dev.originSession (d : Dev) (o : Option (Nat × Nat)) : Nat :=
  match o with
  | some (key, _) => (Tbl.find? d.insts key).elim 0 (·.session)
  | none => 0

/-- Bytes of a Cellar record slot (R377). -/
def slotBytes (n : Nat) : Nat := (n + 63) / 64 * 64

/-- A DEST that records of `cells` Loft cells or `bytes` Cellar bytes fit (R378, R380, R392, R394). -/
def Dev.destOk (d : Dev) (origin : Option (Nat × Nat)) (q : Dest) (cells bytes : Nat) : Bool :=
  match q.kind with
  | 0 => true
  | 1 => decide (1 ≤ q.nrec ∧ q.base + q.nrec * cells ≤ 2 ^ 24 ∧ q.idx + 2 ≤ 2 ^ 24)
  | 2 =>
    let n := d.originSession origin
    origin.isSome && decide (1 ≤ q.nrec ∧ q.idx + 2 ≤ 2 ^ 24 ∧ q.base + q.nrec * slotBytes bytes ≤ 2 ^ 48) &&
      (shelfRun q.base (q.nrec * slotBytes bytes)).all fun i => (d.stk.entry? n i).any fun e => !e.spill
  | _ => false

/-- How the write of one record ended. -/
inductive RingEnd | written | full | fault
deriving DecidableEq, Repr

/-- Bytes of a run of cells as C64 words. -/
def c64Bytes (l : List Cell) : List Byte := (l.map fun c => leBytes 8 (c.data.toNat + c.stored.tag.toNat * 2 ^ 36)).flatten

/-- Write bytes at a session address, Shelf by Shelf; none where a Shelf is not mapped. A paged-out Shelf takes the bytes
in the pool slot that holds it. -/
def State.sessionPut (s : State) (session : Nat) : Nat → Nat → List Byte → Option State
  | 0, _, b => if b.isEmpty then some s else none
  | fuel + 1, a, b =>
    if b.isEmpty then some s else
    let room := shelfBytes - a % shelfBytes
    match s.dev.stk.entry? session (a / shelfBytes) with
    | none => none
    | some e =>
      let part := b.take room
      let s := s.onDev fun d => d.touch session (a / shelfBytes)
      let s := match e.place with
        | .resident p => s.onMem fun m => m.cellarPut (p * shelfBytes + a % shelfBytes) part
        | .paged k =>
          let at_ := s.dev.stk.slotAddr k + a % shelfBytes
          (s.onMem fun m => { m with pool := Tbl.putRun 0 m.pool at_ part }).onDev fun d => d.hostWrite at_ part
      s.sessionPut session fuel (a + room) (b.drop room)

/-- Write 32-bit words at session addresses, in order, up to the first address that is not mapped (R499): the state after
the words written, and whether all were. -/
def State.putWords (s : State) (session : Nat) : List (Nat × Nat) → State × Bool
  | [] => (s, true)
  | (a, w) :: l =>
    match s.sessionPut session 2 a (leBytes 4 w) with
    | none => (s, false)
    | some s => s.putWords session l

/-- R378, R379: put one record into its ring: its body, then the write count. -/
def State.ringPut (s : State) (session : Nat) (q : Dest) (cells : List Cell) (bytes : List Byte) : State × RingEnd :=
  if q.kind = 0 then (s, .written) else
  let (w, r) := s.ringCounts q.idx
  if (w + 2 ^ 36 - r) % 2 ^ 36 ≥ q.nrec ∧ !q.ovw then (s, .full) else
  let slot := w % (max q.nrec 1)
  let done := fun (s : State) => s.onMem fun m => m.loftPut q.idx { data := BitVec.ofNat 36 (w + 1) }
  if q.kind = 1 then (done (s.onMem fun m => m.loftPutRun (q.base + slot * cells.length) cells), .written)
  else
    let n := slotBytes bytes.length
    match s.sessionPut session 64 (q.base + slot * n) (bytes ++ List.replicate (n - bytes.length) 0) with
    | some s => (done s, .written)
    | none => (s, .fault)

/-- The higher-ranking tag of GAP, OVERRANGE and SETTLING in header flags (R377). -/
def flagsTag (f : BitVec 4) : BitVec 4 := tagRank (bit f 0) (bit f 1) (bit f 2)

/-- R25: the four header cells of a stored spectrum. -/
def specHeader (time : Stamp) (seq : BitVec 36) (exp : Int) (det src : Nat) (flags : BitVec 4) : List Cell :=
  (stampCells time ++ [seq, BitVec.ofNat 36 ((exp % 256).toNat * 2 ^ 28 + det * 2 ^ 24 + src * 2 ^ 16 + flags.toNat)]).map
    fun v => { data := v, tag := tagHeader }

/-- C40 bytes of cells (R21). -/
def c40Bytes (l : List Cell) : List Byte := (l.map fun c => leBytes 5 (c.data.toNat + c.stored.tag.toNat * 2 ^ 36)).flatten

end Sys2Proof.Machine
end

