-- ==== Sys2Proof/Machine/SpeOps.lean ====
section
/-!
DEFINITION. The arithmetic of a spectral engine: windows (R351 to R354), the transform (R355 to R358) and log power
(R359, R360).
-/
namespace Sys2Proof.Machine

/-! Windows. -/

/-- Coefficients a0 to a4 over 10^9 (R352). -/
def winCoefs (win : Nat) : List Int :=
  match win with
  | 0 => [1000000000, 0, 0, 0, 0]
  | 1 => [500000000, 500000000, 0, 0, 0]
  | 2 => [358750000, 488290000, 141280000, 11680000, 0]
  | _ => [215578950, 416631580, 277263158, 83578947, 6947368]

/-- cos(2π n / w), fixed point. -/
def fxCosTurn (n w : Nat) : Int :=
  let m := (4 * (n % w) + w) % (4 * w)
  let s : Int := if m < 2 * w then m else (m : Int) - 4 * w
  fxSin (2 * fxPi * s / (4 * w))

/-- R352: a built-in coefficient, within 1 LSB of the exact value; which code is a free value. The rectangular window is 1
everywhere (log entry 102). -/
def winBuilt (win w i : Nat) : Nat :=
  if win = 0 then 131072 else
  let sum := ((winCoefs win).zipIdx).foldl (fun a (c, m) => a + (if m % 2 = 0 then c else -c) * fxCosTurn (m * i) w) 0
  -- the exact value in units of 2^-40 LSB; an integer has a code on either side within 1 LSB
  let v := sum * 131072 * 2 ^ 40 / 1000000000 / fxOne
  let near := (v + 2 ^ 10) / 2 ^ 40
  let choice := Config.winChoice (win * 65536 + i) w
  let c : Int := if (v - near * 2 ^ 40).natAbs ≤ 2 ^ 10 then near - 1 + (choice % 3 : Nat) else v / 2 ^ 40 + (choice % 2 : Nat)
  (max 0 (min 262143 c)).toNat

/-- Coefficients of a window of length w; `table` holds the entries of WIN 7 (R353). -/
def winList (win w : Nat) (table : List Nat) : List Nat :=
  if win = 7 then (List.range w).map fun i => (table[min i (w - i)]?).getD 0
  else (List.range w).map fun i => winBuilt win w i

/-- 1024 × log2(a / b), rounded half up. -/
def round1024 (a b : Nat) : Int := if a = 0 ∨ b = 0 then 0 else (log2Ratio (a ^ 2048) (b ^ 2048) + 1) / 2

/-- R354: NORM_LP and ENBW_LP. A window that sums to 0 has neither; `ctr` numbers the reading of the free values. -/
def normOf (coef : List Nat) (g ctr : Nat) : Int × Int :=
  let sw := coef.foldl (· + ·) 0
  if sw = 0 then (Config.normFree ctr, Config.normFree (ctr + 1)) else
  let s2 := coef.foldl (fun a c => a + c * c) 0
  (round1024 (g * 2 ^ 34) (sw * sw), round1024 (coef.length * s2) (sw * sw))

/-! The transform. -/

/-- A stage result: narrowed by its schedule bit, saturated to 30 bits (R356, R357). -/
def stage (narrowed : Nat) (re im : Int) (bad : Bool) : Cx :=
  let r := narrow re narrowed
  let i := narrow im narrowed
  let sr := satS 30 r
  let si := satS 30 i
  { re := sr, im := si, bad := bad || r != sr || i != si }

/-- The product with the twiddle e^(−j2πk/n), narrowed to the data's units (R355). -/
def twiddle (n k : Nat) (z : Int × Int) : Int × Int :=
  let a := k * 2 ^ 20 / n
  let c := cosQ a
  let s := sinQ a
  (narrow (z.1 * c + z.2 * s) 17, narrow (z.2 * c - z.1 * s) 17)

def evens : List Cx → List Cx
  | [] => []
  | [x] => [x]
  | x :: _ :: t => x :: evens t

def odds : List Cx → List Cx
  | [] => []
  | [_] => []
  | _ :: y :: t => y :: odds t

def interleave : List Cx → List Cx → List Cx
  | [], l => l
  | x :: t, l => x :: match l with
    | [] => t
    | y :: u => y :: interleave t u

/-- Decimation in time: stage s joins transforms of half its size. -/
def fftDit (sh : Nat → Nat) : Nat → List Cx → List Cx
  | 0, x => x
  | s + 1, x =>
    let n := 2 ^ (s + 1)
    let pairs := ((fftDit sh s (evens x)).zip (fftDit sh s (odds x))).zipIdx.map fun ((u, v), k) =>
      let t := twiddle n k (v.re, v.im)
      let bad := u.bad || v.bad
      (stage (sh (s + 1)) (u.re + t.1) (u.im + t.2) bad, stage (sh (s + 1)) (u.re - t.1) (u.im - t.2) bad)
    -- a saturation in either output marks both (R357)
    (pairs.map fun (a, b) => { a with bad := a.bad || b.bad }) ++ pairs.map fun (a, b) => { b with bad := a.bad || b.bad }

/-- Decimation in frequency: stage s splits a transform into two of half its size. -/
def fftDif (sh : Nat → Nat) : Nat → Nat → List Cx → List Cx
  | 0, _, x => x
  | m + 1, s, x =>
    let n := 2 ^ (m + 1)
    let pairs := ((x.take (n / 2)).zip (x.drop (n / 2))).zipIdx.map fun ((u, v), k) =>
      let t := twiddle n k (u.re - v.re, u.im - v.im)
      let bad := u.bad || v.bad
      (stage (sh s) (u.re + v.re) (u.im + v.im) bad, stage (sh s) t.1 t.2 bad)
    let top := pairs.map fun (a, b) => { a with bad := a.bad || b.bad : Cx }
    let low := pairs.map fun (a, b) => { b with bad := a.bad || b.bad : Cx }
    interleave (fftDif sh m (s + 1) top) (fftDif sh m (s + 1) low)

/-- R355: the transform of P = 2^size points; the spec does not say in which of the two radix-2 orders it runs. -/
def fft (sh : Nat → Nat) (size : Nat) (x : List Cx) : List Cx := if Config.fftInTime then fftDit sh size x else fftDif sh size 1 x

/-- R355: the split of a real transform, with its halving and its schedule bit in one narrowing. -/
def split (narrowed : Nat) (z : List Cx) : List Cx :=
  let p := z.length
  let rev := z.take 1 ++ (z.drop 1).reverse
  (z.zip rev).zipIdx.map fun ((a, b), m) =>
    let t := twiddle (2 * p) m (a.re - b.re, a.im + b.im)
    stage (1 + narrowed) (a.re + b.re + t.2) (a.im - b.im - t.1) (a.bad || b.bad)

/-! FRAME (R392). -/

structure FrameRec where
  en : Bool
  insel : Nat
  size : Nat
  ovl : Nat
  win : Nat
  sched : BitVec 16
  schedDef : Bool
deriving DecidableEq, Repr

def FrameRec.of (c : List (BitVec 36)) : FrameRec :=
  let a := cellOf c 0
  let b := cellOf c 1
  { en := bit a 0, insel := fld a 1 8, size := fld a 9 4, ovl := fld a 13 2, win := fld a 15 3
    sched := BitVec.ofNat 16 b.toNat, schedDef := bit b 16 }

/-- P, the number of bins (R346). -/
def FrameRec.p (f : FrameRec) : Nat := 2 ^ f.size
/-- W, the window length in input samples (R346). -/
def FrameRec.w (f : FrameRec) (real : Bool) : Nat := if real then 2 * f.p else f.p
/-- The hop H (R348). -/
def FrameRec.h (f : FrameRec) (real : Bool) : Nat := f.w real / 2 ^ f.ovl

/-- R356: bits by which the output of stage s is narrowed. -/
def FrameRec.shift (f : FrameRec) (s : Nat) : Nat := if f.schedDef then (decide (12 < s)).toNat else (bit f.sched (s - 1)).toNat

/-- A, the number of narrowed stages. -/
def FrameRec.narrowed (f : FrameRec) (real : Bool) : Nat :=
  (List.range (f.size + real.toNat)).foldl (fun a s => a + f.shift (s + 1)) 0

/-- R389, R390: L_full and L_cplx. -/
def FrameRec.lFull (f : FrameRec) (real bonded : Bool) : Nat := 72 + 3 * f.size + 4 * real.toNat + cdiv f.p (if bonded then 20 else 10)
def FrameRec.lCplx (f : FrameRec) (real bonded : Bool) : Nat := f.lFull real bonded + cdiv f.p (if bonded then 40 else 20) + 8

/-- Flags of a header over the samples of a window (R26, R363); a reserved tag counts as GAP (R20). -/
def flagsOf (l : List SpeSmp) : BitVec 4 :=
  let is := fun t : BitVec 4 => l.any fun x => x.x.tag == t
  let v := (l.any fun x => x.x.tag == tagGap || tagReserved x.x.tag).toNat + (is tagOverrange).toNat * 2 + (is tagSettling).toNat * 4 + (is tagMark).toNat * 8
  BitVec.ofNat 4 v

/-- Pairs of consecutive samples of a real window as complex points. -/
def pairUp : List Int → List Cx
  | a :: b :: t => { re := a, im := b } :: pairUp t
  | _ => []

/-- R359, R360: the LP18 value of a bin; the code of |Y|² lies within 1 LSB of the exact value, which is a free choice. -/
def lpBin (y : Cx) (a : Nat) (norm : Int) (choice : Nat) : Int :=
  let n := (y.re * y.re + y.im * y.im).toNat
  if n = 0 then -131072 else
  let fl := log2Ratio (n ^ 1024) 1
  let lp := if isPow2 n then fl + (choice % 3 : Nat) - 1 else fl + (choice % 2 : Nat)
  satS 18 (lp + 2048 * ((a : Int) - 17) + norm)

/-- R351 to R359: the spectrum of a complete window. `ctr` numbers the readings of free values. -/
def SpeDone.spectrum (x : SpeDone) (ctr : Nat) : Spectrum :=
  let f := FrameRec.of (x.frame.take 1 ++ [x.win.sched])
  let coef := winList f.win (f.w x.real) x.table
  let wnd := fun get : CSmp → Int => (x.smp.zip coef).map fun (s, c) => satS 18 (narrow (get s.x * c) 17)
  let pts := if x.real then pairUp (wnd (·.i)) else ((wnd (·.i)).zip (wnd (·.q))).map fun (i, q) => { re := i, im := q }
  let z := fft f.shift f.size pts
  -- R347: complex bins in ascending frequency
  let y := if x.real then split (f.shift (f.size + 1)) z else z.drop (f.p / 2) ++ z.take (f.p / 2)
  let a := f.narrowed x.real
  let g := if x.real then 4 else 1
  let norm := (normOf coef g ctr).1
  { seq := x.win.seq, time := x.smp.head?.elim 0 (·.time), last := x.smp.getLast?.elim 0 (·.time), flags := flagsOf x.smp
    lp := y.zipIdx.map fun (b, k) => lpBin b a norm (Config.lpError (ctr * 65536 + k))
    y, a, sw := coef.foldl (· + ·) 0, g }

/-- R358: the smallest narrowing that fits every component into 18 bits; 13 bits always do. -/
def fitBits (l : List (Int × Int)) : Nat :=
  ((List.range 13).find? fun r => l.all fun (a, b) =>
    satS 18 (narrow a r) == narrow a r && satS 18 (narrow b r) == narrow b r).getD 13

/-- R358: the complex bins of a spectrum and their block exponent. -/
def Spectrum.complex (x : Spectrum) : List (BitVec 36) × Nat :=
  let r := fitBits (x.y.map fun b => (b.re, b.im))
  (x.y.map fun b => (Cell.ofHalves (satS 18 (narrow b.re r)) (satS 18 (narrow b.im r))).data, x.a + r)

/-- P of a bin as a fraction (R359): |Y|² 4^A g / (2^34 S_w²), with S_w in units of 2^-17. -/
def Spectrum.power (x : Spectrum) (b : Cx) : Nat × Nat :=
  ((b.re * b.re + b.im * b.im).toNat * 4 ^ x.a * x.g, max 1 (x.sw * x.sw))

end Sys2Proof.Machine
end

