-- ==== Sys2Proof/Machine/SpeGrid.lean ====
section
/-!
DEFINITION. Spectral engines: records and their checks (R37 to R40, R344 to R349, R364 to R370, R380, R382, R392 to
R394), window grids and their boundaries (R348, R362 to R369).
-/
namespace Sys2Proof.Machine

/-- Unit ID of the engine of a port. -/
def xspUnit : Nat := 0x14

/-- A fraction, for rates in kHz. -/
abbrev Frac := Nat × Nat

def Frac.le (a b : Frac) : Bool := decide (a.1 * b.2 ≤ b.1 * a.2)
def Frac.eq (a b : Frac) : Bool := decide (a.1 * b.2 = b.1 * a.2)
def Frac.add (a b : Frac) : Frac := if a.2 = b.2 then (a.1 + b.1, a.2) else (a.1 * b.2 + b.1 * a.2, a.2 * b.2)

/-- Sample rate of a stream of a port in kHz (R260, R329); none if its settings do not exist. -/
def Dev.sampleRate (d : Dev) (p sel : Nat) : Option Frac :=
  match d.link? p with
  | none => none
  | some k =>
    if sel = 0 then some (k.f0, 1) else
    (d.wbRec? p).bind fun w =>
      if sel = 1 then some (k.f0 * 2 ^ 31, 2 ^ w.k * sigma w.rstep)
      else (d.nbRec? p (sel - 0x40)).map fun x => (k.f0 * 2 ^ 31, 2 ^ w.k * x.dc * x.fdec * sigma x.rstep)

/-- The input of an engine is real (R345). -/
def Dev.realInput (d : Dev) (p sel : Nat) : Bool := sel == 0 && (d.link? p).any fun k => !k.cplx

/-- fsc of a selected stream in kHz (R38). -/
def Dev.fsc (d : Dev) (p sel : Nat) : Option Frac :=
  (d.sampleRate p sel).map fun r => if d.realInput p sel then (r.1, 2 * r.2) else r

def frameCells (c : Option (List (BitVec 36))) : List (BitVec 36) := c.getD [0, 0]

def Dev.frame (d : Dev) (p : Nat) : FrameRec := FrameRec.of (frameCells (d.rec? (speUnit p) 1))

/-- Selectors an engine or an envelope may name (R344, R400). -/
def engineSel (s : Nat) : Bool := s ≤ 1 || (0x40 ≤ s && s ≤ 0x7F)

/-- Spectra per second of a FRAME, in kHz (R349). -/
def Dev.specRate (d : Dev) (p : Nat) (f : FrameRec) : Frac :=
  match d.fsc p f.insel with
  | some r => if f.en then (r.1 * 2 ^ f.ovl, r.2 * f.p) else (0, 1)
  | none => (0, 1)

/-! Planes of the density unit (R38, R502). -/

def denUnit (p : Nat) : Nat := 0x20 + p

/-- A PLANE record. -/
structure PlaneRec where
  plane : Nat
  en : Bool
  clear : Bool
  cdet : Bool
  edge : Nat
  skip : Nat
  bpc : Nat
  cols : Nat
  lo : Nat
  rows : Nat
  row0 : Int
  rstep : Nat
  spd : Nat
  dbase : Bool
  dsh : Nat
  dper : Nat
deriving DecidableEq, Repr

def PlaneRec.of (c : List (BitVec 36)) : PlaneRec :=
  let a := cellOf c 0
  let b := cellOf c 1
  let x := cellOf c 2
  let y := cellOf c 3
  { plane := fld a 0 2, en := bit a 2, clear := bit a 3, cdet := bit a 4, edge := fld a 5 2, skip := fld a 7 3, bpc := fld a 10 3
    cols := fld a 13 12, lo := fld b 0 16, rows := fld b 16 11, row0 := sfld x 0 16, rstep := fld x 16 12, spd := fld y 0 16 + 1
    dbase := bit y 16, dsh := fld y 17 4, dper := fld (cellOf c 4) 0 32 }

def PlaneRec.bins (x : PlaneRec) : Nat := x.cols * 2 ^ x.bpc

def Dev.planeRec? (d : Dev) (p i : Nat) : Option PlaneRec := (d.rec? (denUnit p) 1 i).map PlaneRec.of

def fracSum (l : List Frac) : Frac := l.foldl Frac.add (0, 1)

/-- R38: the update load of a density unit under a FRAME, with one plane as given. -/
def Dev.denLoadOk (d : Dev) (p : Nat) (f : FrameRec) (x : Option PlaneRec) : Bool :=
  let r := d.specRate p f
  let all := (List.range 4).filterMap fun i => match x with
    | some y => if i = y.plane then some y else d.planeRec? p i
    | none => d.planeRec? p i
  let load := (all.filter (·.en)).map fun y => ((r.1 * y.cols, r.2 * y.spd) : Frac)
  (fracSum load).le (81920000, 1)

/-- R38, R344 to R346, R349, R352: a FRAME on its own. Without a LINK there is no rate that could break a limit. -/
def Dev.frameOk (d : Dev) (p : Nat) (c : List (BitVec 36)) : Bool :=
  let f := FrameRec.of c
  let bonded := d.bonded p
  fld (cellOf c 0) 18 18 == 0 && fld (cellOf c 1) 17 19 == 0 && engineSel f.insel && decide (5 ≤ f.size) &&
  [0, 1, 2, 3, 7].contains f.win &&
  match d.fsc p f.insel with
  | none => true
  | some r =>
    let x : Frac := (r.1 * 2 ^ f.ovl, r.2)
    x.le ((if bonded then 40 else 20) * 2048000, 1) && (f.ovl != 3 || Frac.le r (if bonded then 10240000 else 5120000, 1)) &&
    Frac.le (x.1, x.2 * f.p) (if bonded then 160000 else 80000, 1) && (d.realInput p f.insel || Frac.le r (10240000, 1))

/-! STORE and INTEG (R392). -/

structure StoreRec where
  en : Bool
  det : Nat
  kt : Nat
  kf : Nat
  avgSh : Nat
  avgLin : Bool
  skip : Nat
  lo : Nat
  cnt : Nat
  dest : Dest
  ok : Bool
deriving DecidableEq, Repr

def StoreRec.of (c : List (BitVec 36)) : StoreRec :=
  let a := cellOf c 0
  let b := cellOf c 1
  let (dest, ok) := destOf (cellOf c 2) (cellOf c 3) (cellOf c 4)
  { en := bit a 0, det := fld a 1 4, kt := fld a 5 16 + fld b 32 4 * 65536 + 1, kf := 2 ^ fld a 21 3, avgSh := fld a 24 4
    avgLin := bit a 28, skip := fld a 29 3, lo := fld b 0 16, cnt := fld b 16 16 + 1, dest, ok := ok && fld a 32 4 == 0 && decide (fld a 1 4 ≤ 6) }

/-- Output bins. -/
def StoreRec.bins (x : StoreRec) : Nat := x.cnt / x.kf

/-- Cells and bytes of a record of n bins (R376, R377). -/
def recCells (det n : Nat) : Nat := 4 + if det ≤ 5 then n / 2 else if det = 7 then n + 1 else n
def recBytes (det n : Nat) : Nat := 32 + if det ≤ 5 then 2 * n else if det = 7 then 8 * (n + 1) else 5 * n

/-- Size in the terms of R382, twice the bytes. -/
def recSize2 (kind det n : Nat) : Nat := if kind = 2 then 2 * slotBytes (recBytes det n) else if kind = 1 then 9 * recCells det n else 0

structure IntegRec where
  en : Bool
  skip : Nat
  lo : Nat
  cnt : Nat
  count : Nat
  dest : Dest
  ok : Bool
deriving DecidableEq, Repr

def IntegRec.of (c : List (BitVec 36)) : IntegRec :=
  let a := cellOf c 0
  let (dest, ok) := destOf (cellOf c 3) (cellOf c 4) (cellOf c 5)
  { en := bit a 0, skip := fld a 1 3, lo := fld a 4 16, cnt := fld (cellOf c 1) 0 16 + 1, count := fld (cellOf c 2) 0 32, dest
    ok := ok && fld a 20 16 == 0 && fld (cellOf c 1) 16 20 == 0 && fld (cellOf c 2) 32 4 == 0 }

/-- A record with where it came from, as a DEST needs it. -/
structure OutRec where
  cells : List (BitVec 36)
  origin : Option (Nat × Nat)
  /-- Committed before: its DEST was checked then. -/
  old : Bool

/-- Twice the bytes per second of an output, in kHz. -/
def Dev.storeLoad (d : Dev) (p : Nat) (f : FrameRec) (x : StoreRec) : Frac :=
  let r := d.specRate p f
  if x.en then (r.1 * recSize2 x.dest.kind x.det x.bins, r.2 * x.kt) else (0, 1)

def Dev.integLoad (d : Dev) (p : Nat) (f : FrameRec) (x : IntegRec) : Frac :=
  let r := d.specRate p f
  if x.en then (r.1 * recSize2 x.dest.kind 7 x.cnt, r.2 * max 1 x.count) else (0, 1)

def Dev.destFits (d : Dev) (o : OutRec) (q : Dest) (cells bytes : Nat) : Bool := o.old || d.destOk o.origin q cells bytes

/-- R370, R372, R373, R380 of a STORE under a FRAME. -/
def Dev.storeOk (d : Dev) (f : FrameRec) (o : OutRec) : Bool :=
  let x := StoreRec.of o.cells
  x.ok && (!x.en || (x.cnt % x.kf == 0 && x.bins % 2 == 0 && decide (x.lo + x.cnt ≤ f.p) && (x.det != 6 || (x.kf == 1 && x.avgSh == 0)) &&
    d.destFits o x.dest (recCells x.det x.bins) (recBytes x.det x.bins)))

def Dev.integOk (d : Dev) (f : FrameRec) (o : OutRec) : Bool :=
  let x := IntegRec.of o.cells
  x.ok && (!x.en || (decide (1 ≤ x.count) && decide (x.lo + x.cnt ≤ f.p) && d.destFits o x.dest (recCells 7 x.cnt) (recBytes 7 x.cnt)))

/-- R382: both outputs together stay within 8 GB/s. -/
def Dev.outLoadOk (d : Dev) (p : Nat) (f : FrameRec) (st ig : Option OutRec) : Bool :=
  let a := st.elim ((0, 1) : Frac) fun o => d.storeLoad p f (StoreRec.of o.cells)
  let b := ig.elim ((0, 1) : Frac) fun o => d.integLoad p f (IntegRec.of o.cells)
  (Frac.add a b).le (16000000, 1)

/-! Pairs (R383). -/

def pairEngines : Nat → Nat × Nat
  | 0 => (0, 1) | 1 => (0, 2) | 2 => (0, 3) | 3 => (1, 2) | 4 => (1, 3) | _ => (2, 3)

/-- A pair is enabled. -/
def Dev.pairOn (d : Dev) (i : Nat) : Bool := (d.rec? xspUnit 1 i).any fun c => bit (cellOf c 0) 3

/-- R368: the engine belongs to an enabled pair. -/
def Dev.paired (d : Dev) (p : Nat) : Bool :=
  (List.range 6).any fun i => d.pairOn i && ((pairEngines i).1 == p || (pairEngines i).2 == p)

/-! Lengths. -/

def speLen (typ : Nat) (c : List (BitVec 36)) : Option Nat :=
  match typ with
  | 1 => some 2 | 3 => some 5 | 4 => some 6 | 5 => some 1
  | 2 => some (if bit (cellOf c 0) 17 then 1 else 1 + cdiv (fld (cellOf c 0) 0 17 / 2 + 1) 2)
  | _ => none

/-- R39, R394: the checks when a record is written. -/
def Dev.speCheck (d : Dev) (p : Nat) (r : Shadow) : Except Status Unit := do
  need (!d.upperPort p)
  need (r.origin.isSome || (match r.typ with
    | 2 => bit (cellOf r.cells 0) 17
    | 3 => fld (cellOf r.cells 2) 0 2 != 2
    | 4 => fld (cellOf r.cells 3) 0 2 != 2
    | _ => true))

/-! Commit (R364 to R368, R393). -/

/-- Entries of a WINLOAD, if its length fits (R353). -/
def Dev.winTable (d : Dev) (p : Nat) (c : List (BitVec 36)) (w : Nat) : Option (List Nat) :=
  let a := cellOf c 0
  let m := fld a 0 17
  if m ≠ w ∨ fld a 18 18 ≠ 0 ∨ !isPow2 m ∨ m < 32 then none else
  some ((List.range (m / 2 + 1)).map fun i =>
    if bit a 17 then (Tbl.get 0 (d.eng p).winShadow i).toNat
    else let x := cellOf c (1 + i / 2); if i % 2 = 0 then fld x 18 18 else fld x 0 18)

/-- What a commit of an engine's records does to its grid. -/
structure SpeCommitted where
  d : Dev
  /-- SIZE, OVL, WIN, INSEL or the user table changed (R365). -/
  restart : Bool

/-- Whether a FRAME changes what R365 names. -/
def FrameRec.differs (a b : FrameRec) : Bool := a.size != b.size || a.ovl != b.ovl || a.win != b.win || a.insel != b.insel

/-- The waiting record of a type, to be taken now. -/
def Dev.takeTyp (d : Dev) (u typ : Nat) (take : Bool) : Option Shadow × Dev :=
  if !take then (none, d) else
  let (l, d) := d.takeShadow u fun x => x.typ == typ
  (l.head?, d)

def decideAll (d : Dev) (u : Nat) (r : Option Shadow) (ok : Bool) : Dev :=
  match r with
  | some r => if ok then d.decideRec u r .ok else d.rejectRec u r .cfgRange
  | none => d

/-- Commit the waiting FRAME, WINLOAD and SYNC, and STORE and INTEG where `withStore` and `withInteg` say that they are
at a boundary, checked together (R393). A STORE commit that changes what R374 names restarts the average; its bucket is
closed by the caller. -/
def Dev.speCommit (d : Dev) (p : Nat) (withStore withInteg : Bool) : SpeCommitted :=
  let u := speUnit p
  let (fr, d) := d.takeTyp u 1 true
  let (wl, d) := d.takeTyp u 2 true
  let (sy, d) := d.takeTyp u 5 true
  let (st, d) := d.takeTyp u 3 withStore
  let (ig, d) := d.takeTyp u 4 withInteg
  let old := d.frame p
  let paired := d.paired p
  let com := fun typ => (d.rec? u typ).map fun c => ({ cells := c, origin := none, old := true } : OutRec)
  let new := fun (r : Option Shadow) => r.map fun r => ({ cells := r.cells, origin := r.origin, old := false } : OutRec)
  -- which records would stand under a FRAME: table, STORE, INTEG, and whether the whole is sound
  let judge := fun (f : FrameRec) =>
    let w := f.w (d.realInput p f.insel)
    let tab := wl.bind fun r => d.winTable p r.cells w
    let tabOk := tab.isSome && !(paired && tab != some (d.eng p).table)
    let table := if tabOk then tab.getD [] else (d.eng p).table
    let s1 := (new st).filter fun o => d.storeOk f o && d.outLoadOk p f (some o) (com 4)
    let s := s1.orElse fun _ => com 3
    let i1 := (new ig).filter fun o => d.integOk f o && d.outLoadOk p f s (some o)
    let i := i1.orElse fun _ => com 4
    let sound := d.denLoadOk p f none && (f.win != 7 || table.length == w / 2 + 1) && s.all (d.storeOk f) && i.all (d.integOk f) && d.outLoadOk p f s i
    (tabOk, table, s1.isSome, i1.isSome, sound)
  let cand := fr.filter fun r => d.frameOk p r.cells && !(paired && (FrameRec.of r.cells).differs old)
  let frameTaken := cand.any fun r => (judge (FrameRec.of r.cells)).2.2.2.2
  let f := if frameTaken then cand.elim old fun r => FrameRec.of r.cells else old
  let (tabOk, table, sOk, iOk, _) := judge f
  let restart := f.differs old || (tabOk && table != (d.eng p).table)
  let d := match fr, frameTaken with
    | some r, true => (d.setRec u 1 0 r.cells).decideRec u r .ok
    | r, _ => decideAll d u r false
  let d := if tabOk then d.onEng p fun e => { e with table } else d
  let d := decideAll d u wl tabOk
  let d := match sy with
    | some r =>
      let ok := fld (cellOf r.cells 0) 2 34 == 0 && decide (fld (cellOf r.cells 0) 0 2 ≤ 2)
      let d := if ok then (d.setRec u 5 0 r.cells).onEng p fun e => { e with smode := fld (cellOf r.cells 0) 0 2, shot := false } else d
      decideAll d u sy ok
    | none => d
  let d := match st, sOk with
    | some r, true =>
      let x := StoreRec.of r.cells
      let o := (d.rec? u 3).map StoreRec.of
      let same := o.any fun o => o.det == x.det && o.kt == x.kt && o.kf == x.kf && o.lo == x.lo && o.cnt == x.cnt && o.avgSh == x.avgSh && o.avgLin == x.avgLin
      ((d.setRec u 3 0 r.cells).onEng p fun e => { e with
        avg := if same then e.avg else [], storeOwner := d.originSession r.origin, storeStopped := e.storeStopped && !x.en }).decideRec u r .ok
    | r, _ => decideAll d u r false
  let d := match ig, iOk with
    | some r, true =>
      ((d.setRec u 4 0 r.cells).onEng p fun e => { e with
        integ := {}, integOwner := d.originSession r.origin, integStopped := e.integStopped && !bit (cellOf r.cells 0) 0 }).decideRec u r .ok
    | r, _ => decideAll d u r false
  let d := if frameTaken || tabOk then
      let real := d.realInput p f.insel
      let (norm, enbw) := normOf (winList f.win (f.w real) table) (if real then 4 else 1) d.freeCtr
      d.freed.freed.onEng p fun e => { e with norm, enbw }
    else d
  { d := if restart then d.onEng p fun e => { e with discardNext := true } else d, restart }

/-! Grids. -/

/-- An output that is on and neither stopped. -/
def Dev.storeOn (d : Dev) (p : Nat) : Bool := (d.rec? (speUnit p) 3).any fun c => bit (cellOf c 0) 0
def Dev.integOn (d : Dev) (p : Nat) : Bool := (d.rec? (speUnit p) 4).any fun c => bit (cellOf c 0) 0

/-- The grid in which windows start. -/
def Spe.open? (e : Spe) : Option SpeGrid := e.grids.find? fun g => !g.closed

def Spe.closeGrid (e : Spe) : Spe :=
  { e with grids := (e.grids.map fun g => { g with closed := true }).filter fun g => !g.wins.isEmpty }

/-- Open a grid at the next sample. -/
def Dev.openGrid (d : Dev) (p : Nat) : Dev :=
  let c := frameCells (d.rec? (speUnit p) 1)
  let f := FrameRec.of c
  d.onEng p fun e => { e with grids := e.grids ++ [{ frame := c, real := d.realInput p f.insel, table := e.table }] }

/-- R369: the sync sample passes; the grid of a running engine restarts. -/
def Dev.speSync (d : Dev) (p : Nat) : Dev :=
  let d := d.onEng p fun e => { e with strobe := none, smode := if e.shot then 0 else e.smode, shot := false }
  if !(d.frame p).en then d else
  let same := (d.eng p).open?.all fun g => g.count == g.next
  (d.onEng p fun e => { e.closeGrid with aligned := e.aligned || same, shifted := e.shifted || !same }).openGrid p

/-- Whether a record waits that commits at a window start. -/
def Dev.speWaits (d : Dev) (p : Nat) : Bool := !(d.unit (speUnit p)).shadow.isEmpty

/-- The boundary at a window start or at the start of a stopped engine: commits, and a new grid where one is due.
The flag says that the current bucket and integration are closed (R374). -/
def Dev.speBoundary (d : Dev) (p : Nat) : Dev × Bool :=
  let x := if d.speWaits p then d.speCommit p (!d.storeOn p) (!d.integOn p) else { d, restart := false }
  let d := x.d
  let f := d.frame p
  let c := frameCells (d.rec? (speUnit p) 1)
  let d := if x.restart ∨ !f.en then d.onEng p Spe.closeGrid
    else d.onEng p fun e => { e with grids := e.grids.map fun g => if g.closed then g else { g with frame := c } }
  (if f.en ∧ (d.eng p).open?.isNone then d.openGrid p else d, x.restart)

/-- The selector of a grid's input. -/
def SpeGrid.insel (g : SpeGrid) : Nat := (FrameRec.of g.frame).insel

/-- Start a window where one is due at a sample of the selector `sel`. -/
def Spe.startWindow (e : Spe) (sel : Nat) : Spe :=
  match e.open? with
  | none => e
  | some g =>
    if g.count ≠ g.next ∨ g.insel ≠ sel then e else
    let w : SpeWin := { start := g.next, seq := e.seq, discard := e.discardNext, sched := cellOf g.frame 1 }
    let h := max 1 ((FrameRec.of g.frame).h g.real)
    { e with
      seq := e.seq + 1, discardNext := false
      grids := e.grids.map fun g => if g.closed then g else { g with wins := g.wins ++ [w], next := g.next + h } }

/-- Append a sample to a grid: what it completes, and the grid without what it no longer needs. -/
def SpeGrid.push (g : SpeGrid) (x : SpeSmp) : SpeGrid × List SpeDone :=
  let w := (FrameRec.of g.frame).w g.real
  let g := { g with buf := g.buf ++ [x], count := g.count + 1 }
  let (fin, rest) := g.wins.partition fun v => v.start + w ≤ g.count
  let done := fin.map fun v =>
    ({ frame := g.frame, real := g.real, table := g.table, win := v, smp := (g.buf.drop (v.start - g.base)).take w } : SpeDone)
  let keep := (rest.head?).elim g.count (·.start)
  ({ g with wins := rest, buf := g.buf.drop (keep - g.base), base := max g.base keep }, done)

/-- One sample of the stream `sel`; `at_` says which targets its time has reached (R260, R329). The grid in which windows
start sets the boundaries; a grid that only completes its windows still takes its own stream (R365). The first sample after
a reset of the queue carries GAP (R71). The flag says that the current bucket and integration are closed. -/
def Dev.speSample (d : Dev) (p sel : Nat) (x : SpeSmp) (at_ : Stamp → Bool) : Dev × Bool :=
  let lead := (d.eng p).open?.elim (d.frame p).insel SpeGrid.insel == sel
  let x := if lead && (d.eng p).gapNext then { x with x := { x.x with tag := tagGap } } else x
  let d := if lead then d.onEng p fun e => { e with gapNext := false } else d
  let d := if lead && (d.eng p).strobe.any at_ then d.speSync p else d
  let atStart := lead && (d.eng p).open?.all fun g => g.count == g.next
  let (d, cut) := if atStart then d.speBoundary p else (d, false)
  let e := (d.eng p).startWindow sel
  let (gs, dn) := e.grids.foldl (fun (gs, dn) g =>
    if g.insel ≠ sel then (gs ++ [g], dn) else let (g, l) := g.push x; (gs ++ [g], dn ++ l)) ([], [])
  let gone := (dn.filter (·.win.discard)).length
  let e := { e with
    grids := gs.filter fun g => !(g.closed && g.wins.isEmpty), done := e.done ++ dn.filter (!·.win.discard)
    discards := sat32 e.discards gone }
  (d.onEng p fun _ => e, cut)

/-- R369: a strobe reaches the engine. -/
def Dev.speStrobe (d : Dev) (p : Nat) (T : Stamp) : Dev :=
  let e := d.eng p
  if e.smode = 0 then d
  else if e.strobe.isSome then
    let d := if bit e.err 5 then d else d.note .ok (d.portDom p) (BitVec.ofNat 8 (speUnit p)) (cause := 5)
    d.onEng p fun e => { e with err := setBit e.err 5 true }
  else d.onEng p fun e => { e with strobe := some T, shot := e.smode == 1 }

end Sys2Proof.Machine
end

