-- ==== Sys2Proof/Machine/TimOps.lean ====
section
/-!
DEFINITION. The time base: reference PLL (R689 to R697), count and adjustments (R698 to R704), strobes, alarms and PPS
(R723 to R729).
-/
namespace Sys2Proof.Machine

def timUnit : Nat := 0x38
def Dev.onTim (d : Dev) (f : Tim → Tim) : Dev := { d with tim := f d.tim }

/-- A record of the time base; its domain is DEVICE. -/
def Dev.timRecord (d : Dev) (sev : Nat) (cause : Nat := 0) (detail : Nat := 0) (code : Status := .ok) : Dev :=
  d.log { code, sev, domain := domDevice, src := BitVec.ofNat 8 timUnit, cause, detail }

/-! Reference PLL (R691, R692). -/

def Tim.ovenIgn (t : Tim) : Bool := bit t.refCtl 5

/-- R691: each change of state raises event 0x202. -/
def Dev.setRef (d : Dev) (r : RefState) : Dev :=
  if d.tim.ref = r then d else (d.onTim fun t => { t with ref := r }).raise 0x202 d.stamp

/-- LOCKED, or WARMUP while the oven is neither ready nor ignored. -/
def Tim.lockState (t : Tim) : RefState := if t.oven || t.ovenIgn then .locked else .warmup

/-- R692: LOCKED and WARMUP follow OVEN_READY. -/
def Dev.followOven (d : Dev) : Dev :=
  match d.tim.ref with
  | .locked | .warmup => d.setRef d.tim.lockState
  | _ => d

/-- R690, R691: each loss writes one record. -/
def Dev.refLost (d : Dev) (r : RefState) : Dev :=
  ((d.onTim fun t => { t with loss := true, losses := BitVec.ofNat 16 (satInc 16 t.losses.toNat) }).setRef r).timRecord 0 5

def execRefinLoss (s : State) : Outcome :=
  devStep s fun d => match d.tim.ref with
    | .free | .holdover => d
    | .acquire => d.refLost .free
    | .locked | .warmup | .recover => d.refLost .holdover

/-- R689, R691, R695: the offset is what the PLL measures on entering RECOVER. -/
def execRefinValid (ref100 : Bool) (offset : BitVec 32) (s : State) : Outcome :=
  devStep s fun d => match d.tim.ref with
    | .free => (d.onTim fun t => { t with ref100 }).setRef .acquire
    | .holdover =>
      (d.onTim fun t =>
        { t with ref100, ret := true, pbo := offset, pboSum := BitVec.ofInt 32 (satS 32 (t.pboSum.toInt + offset.toInt)) }).setRef .recover
    | _ => d

/-- R691, R692. -/
def execPllLocked (s : State) : Outcome :=
  devStep s fun d => match d.tim.ref with
    | .acquire | .recover => d.setRef d.tim.lockState
    | _ => d

def execOvenReady (level : Bool) (s : State) : Outcome :=
  devStep s fun d => (d.onTim fun t => { t with oven := level }).followOven

/-! Adjusting the time base (R700 to R704). -/

/-- R701: a slew of the phase by `v` fine ticks at `rate` ppb replaces any other; none is left when `v` is 0. -/
def Tim.slew (t : Tim) (v : Int) (rate : Nat) : Tim := { t with rem := v, slewRate := rate, slewAcc := 0 }

/-- R701: the end of a slew. -/
def Dev.slewEnd (d : Dev) : Dev := (d.onTim fun t => t.slew 0 0).raise 0x204 d.stamp

def Dev.slew (d : Dev) (v : Int) (rate : Nat) : Dev :=
  if v = 0 then d.slewEnd else d.onTim fun t => t.slew v rate

/-- R703: the count takes a new value. Intervals that run keep their length; targets keep their value (R704). -/
def Dev.setCount (d : Dev) (v : BitVec 64) : Dev :=
  let δ : Stamp := stampOf v - stampOf d.now
  let d := d.onTim fun t =>
    { t with count := v, ppsLast := t.ppsLast.map (· + δ), steps := BitVec.ofNat 16 (satInc 16 t.steps.toNat) }
  (d.raise 0x203 d.stamp).timRecord 0

/-- R700, R702: STEP by a count of fine ticks; its remainder is slewed at 1,000 ppb. -/
def Dev.stepTime (d : Dev) (v : Int) : Dev :=
  (d.setCount (d.now + BitVec.ofInt 64 (v / 256))).onTim fun t => t.slew (v % 256) 1000

/-- R699, R700: SET. -/
def Dev.setTime (d : Dev) (v : BitVec 64) : Dev := (d.setCount v).onTim fun t => { t with unset := false }

/-- R700: the operation that TIM_ADJ_CTL and TIM_ADJ_VAL spell. -/
def Dev.adjust (d : Dev) : Dev :=
  let t := d.tim
  let d := d.onTim fun t => { t with adjCtl := setBit t.adjCtl 2 false }
  match fld t.adjCtl 0 2 with
  | 1 => d.stepTime t.adjVal.toInt
  | 2 => d.slew t.adjVal.toInt (fld t.adjCtl 4 10)
  | 3 => d.setTime t.adjVal
  | _ => d

/-- An operation written to the registers with its value, at its tick. -/
def Dev.adjustWith (d : Dev) (op : Nat) (v : BitVec 64) : Dev :=
  (d.onTim fun t => { t with adjVal := v, adjCtl := setFld t.adjCtl 0 2 op }).adjust

def execStepTime (val : BitVec 64) (s : State) : Outcome := startStep s fun d => d.adjustWith 1 val
def execSlew (val : BitVec 64) (s : State) : Outcome := startStep s fun d => d.adjustWith 2 val
def execSet (val : BitVec 64) (s : State) : Outcome := startStep s fun d => d.adjustWith 3 val

/-- R701: nothing ends while no slew runs. -/
def execSlewComplete (s : State) : Outcome := devStep s fun d => if d.tim.rem = 0 then d else d.slewEnd

/-- One tick of a slew: in a tick of the time base run at (1 ± r) the phase moves 256 r / (1 ± r) fine ticks. -/
def Dev.slewTick (d : Dev) : Dev :=
  let t := d.tim
  if t.rem = 0 then d else
  let acc := t.slewAcc + 256 * t.slewRate
  let unit := if 0 < t.rem then 1000000000 + t.slewRate else 1000000000 - t.slewRate
  if acc < unit then d.onTim fun t => { t with slewAcc := acc }
  else
    let rem := if 0 < t.rem then t.rem - 1 else t.rem + 1
    if rem = 0 then d.slewEnd else d.onTim fun t => { t with rem, slewAcc := acc - unit }

/-! Strobes (R727, R728). -/

/-- R728: a strobe that is formed reaches the units; it is late less than 256 ticks before T. -/
def Dev.strobe (d : Dev) (c : TimCmd) : Dev :=
  let d := (List.range 4).foldl (fun d p => (d.chnStrobe p (stampOf c.t)).speStrobe p (stampOf c.t)) d
  let d := if (c.t - d.now).toInt < 256 then (d.onTim fun t => { t with lateStrobe := true }).timRecord 0 2 else d
  d.onTim fun t => { t with atT := t.atT ++ [c] }

/-- R727: the sync pin is first sampled high. -/
def execSyncPinEdge (s : State) : Outcome :=
  devStep s fun d =>
    if !bit d.tim.syncCfg 0 then d else
    let t := d.now - 2 + BitVec.ofNat 64 (fld d.tim.syncCfg 16 16)
    d.strobe { t := BitVec.ofNat 64 ((t.toNat + 63) / 64 * 64), index := 0, ring := false }

/-- R741: what a strobe or command does at T. -/
def Dev.atCmd (d : Dev) (c : TimCmd) : Dev :=
  let d := d.raise (0x600 + c.index.toNat) d.stamp
  if !c.ring then d else
  let d := d.onTim fun t => { t with ring := { t.ring with arg := c.arg } }
  if c.index = 1 then (d.stepTime (-(d.tim.ring.off.toInt))).onTim fun t => { t with unset := false } else d

/-- The strobes and commands that are due. -/
def Dev.fireWhere (d : Dev) (due : TimCmd → Bool) : Dev :=
  (d.tim.atT.filter due).foldl Dev.atCmd (d.onTim fun t => { t with atT := t.atT.filter fun c => !due c })

/-- The strobes and commands whose T has come. -/
def Dev.fireDue (d : Dev) : Dev :=
  let now := d.now
  d.fireWhere fun c => !tickBefore now c.t

def execRingCommandAtT (s : State) : Outcome := devStep s Dev.fireDue

/-! Alarms (R726). -/

def Tim.alarm (t : Tim) (k : Nat) : TimAlarm := Tbl.get {} t.alarms k

/-- R704, R726: an armed alarm whose T has come fires; one that T has passed is late. -/
def Dev.fireAlarm (d : Dev) (k : Nat) : Dev :=
  let a := d.tim.alarm k
  if !a.en ∨ tickBefore d.now a.t then d else
  let a' : TimAlarm :=
    { a with
      late := a.late || decide (a.t ≠ d.now), fires := BitVec.ofNat 16 (satInc 16 a.fires.toNat)
      t := a.t + a.period.zeroExtend 64, en := a.period != 0 }
  (d.onTim fun t => { t with alarms := Tbl.set t.alarms k a' }).raise (0x208 + k) d.stamp

def execTickAlarm (alarm : Fin 8) (s : State) : Outcome := devStep s fun d => d.fireAlarm alarm

/-! PPS (R723 to R725). -/

/-- Fine ticks of a second. -/
def fineSecond : Nat := 524288000000

def Tim.ppsMode (t : Tim) : Nat := fld t.ppsCfg 0 2

/-- R723: whether an edge is accepted. -/
def Tim.ppsAccepts (t : Tim) (time : Stamp) : Bool :=
  (t.ppsMode == 1 || t.ppsMode == 2) && match t.ppsLast with
    | none => true
    | some l => decide ((stampDiff time l - fineSecond).natAbs ≤ fld t.ppsCfg 2 14 * 2048 * 256)

/-- R723: the signed distance to the nearest whole second. -/
def ppsOffset (time : Stamp) : Int := (time.toNat : Int) - (time.toNat + fineSecond / 2) / fineSecond * fineSecond

def execPpsEdge (time : BitVec 72) (s : State) : Outcome :=
  devStep s fun d =>
    if !d.tim.ppsAccepts time then d else
    let d := (d.onTim fun t => { t with ppsLast := some time, ppsOff := BitVec.ofInt 32 (satS 32 (ppsOffset time)) }).raise 0x200 time
    if d.tim.ppsMode ≠ 2 then d else
    let at_ := d.tim.ppsSec.toNat * fineSecond
    (d.stepTime ((at_ : Int) - time.toNat)).onTim fun t =>
      { t with unset := false, ppsCfg := setFld t.ppsCfg 0 2 1, ppsLast := some (BitVec.ofNat 72 at_) }

/-- R724. -/
def execPpsMissing (s : State) : Outcome :=
  devStep s fun d =>
    if d.tim.ppsLast.isNone ∨ d.tim.ppsMode = 0 then d else
    (d.onTim fun t =>
      { t with ppsLast := none, ppsMissing := true, ppsMissed := BitVec.ofNat 16 (satInc 16 t.ppsMissed.toNat) }).raise 0x201 d.stamp

/-- R723: a write of TIM_PPS_CFG.MODE; the next edge is a first edge. 3 is no mode (R38). -/
def Dev.ppsSetMode (d : Dev) (mode : Nat) : Dev :=
  if mode = 3 then d.timRecord 0 (code := .cfgRange)
  else d.onTim fun t => { t with ppsCfg := setFld t.ppsCfg 0 2 mode, ppsLast := none }

def execMode (mode : BitVec 2) (s : State) : Outcome := hostStep s fun d => d.ppsSetMode mode.toNat

end Sys2Proof.Machine
end

