-- ==== Sys2Proof/Machine/TimStamp.lean ====
section
/-!
DEFINITION. Stamp inputs and TDC lines (R709 to R718), their calibration and Attic record (R712 to R714, R744, R745), and
the statistics units (R719 to R722).
-/
namespace Sys2Proof.Machine

def Tim.input (t : Tim) (i : Nat) : TsIn := Tbl.get {} t.inputs i
def Dev.onInput (d : Dev) (i : Nat) (f : TsIn → TsIn) : Dev := d.onTim fun t => { t with inputs := Tbl.upd {} t.inputs i f }
def Tim.stat (t : Tim) (u : Nat) : TimStat := Tbl.get {} t.stats u
def Dev.onStat (d : Dev) (u : Nat) (f : TimStat → TimStat) : Dev := d.onTim fun t => { t with stats := Tbl.upd {} t.stats u f }

/-! Setup records (R743). -/

structure TsiRec where
  en : Bool
  edge : Nat
  evt : Bool
  dest : Dest
  ok : Bool

def TsiRec.of (c : List (BitVec 36)) : TsiRec :=
  let a := cellOf c 0
  let (dest, ok) := destOf (cellOf c 1) (cellOf c 2) (cellOf c 3)
  { en := bit a 4, edge := fld a 5 2, evt := bit a 7, dest, ok }

structure StatsRec where
  en : Bool
  mode : Bool
  start : Nat
  stop : Nat
  win : Nat
  n : Nat
  dest : Dest
  ok : Bool

def StatsRec.of (c : List (BitVec 36)) : StatsRec :=
  let a := cellOf c 0
  let (dest, ok) := destOf (cellOf c 3) (cellOf c 4) (cellOf c 5)
  { en := bit a 2, mode := bit a 3, start := fld a 4 4, stop := fld a 8 4, win := fld (cellOf c 1) 0 27, n := fld (cellOf c 2) 0 32, dest, ok }

def Dev.tsiRec? (d : Dev) (i : Nat) : Option TsiRec := (d.rec? timUnit 1 i).map TsiRec.of
def Dev.statsRec? (d : Dev) (u : Nat) : Option StatsRec := (d.rec? timUnit 2 u).map StatsRec.of
def Dev.inputEn (d : Dev) (i : Nat) : Bool := (d.tsiRec? i).any (·.en)

/-! Edges. -/

/-- R711: the table of a line without a valid one. -/
def identityF (c : Nat) : Nat := (c * 512 + 320) / 640

/-- The line in service of an input (R744). -/
def Tim.lineOf (t : Tim) (i : Nat) : Nat := 2 * i + (t.input i).line.toNat

/-- R709, R711: the stamp of an edge in this tick, and whether its line has no valid table. -/
def Tim.edgeStamp (t : Tim) (i code : Nat) : Stamp × Bool :=
  match Tbl.find? t.tables (t.lineOf i) with
  | some f => (BitVec.ofNat 72 (t.count.toNat * 256 + ((f[code]?).getD 0).toNat), false)
  | none => (BitVec.ofNat 72 (t.count.toNat * 256 + identityF code), true)

/-- Whether an input detects an edge of a polarity (R710, R723). -/
def Dev.detects (d : Dev) (i : Nat) (rising : Bool) : Bool :=
  (match d.tsiRec? i with
    | some x => x.en && (x.edge == 2 || (x.edge == 0) == rising)
    | none => false) || (i == 8 && rising && d.tim.ppsMode != 0)

def TsIn.dropped (x : TsIn) : TsIn := { x with drop := BitVec.ofNat 32 (satInc 32 x.drop.toNat), lost := true }

/-- R710: at most one edge in 41 ticks. -/
def execStampEdge (input : Fin 9) (rising : Bool) (code : Fin 320) (s : State) : Outcome :=
  devStep s fun d =>
    let i := input.val
    if !d.detects i rising then d else
    let d := d.onInput i fun x => { x with cnt := x.cnt + 1 }
    let x := d.tim.input i
    if x.last.any fun t => (d.tim.ticks - t).toNat < 41 then d.onInput i TsIn.dropped
    else
      let (time, cal) := d.tim.edgeStamp i code
      d.onInput i fun x =>
        { x with last := some d.tim.ticks, lost := false
                 flight := x.flight ++ [{ time, seq := x.cnt.toNat % 4096, cal, lost := x.lost }] }

/-- R627, R717, R718: a stamp's four cells. -/
def Tim.stampSlot (t : Tim) (source : Nat) (x : TimStamp) : List Cell :=
  let flags := (t.ref != .locked).toNat + 2 * t.unset.toNat + 4 * x.lost.toNat + 8 * x.cal.toNat
  (stampCells x.time ++ [BitVec.ofNat 36 (source + x.seq * 2 ^ 8 + flags * 2 ^ 20), 0]).map fun v => { data := v }

/-- Units that evaluate an input take its stamp (R719, R720). -/
def Dev.statTake (d : Dev) (i : Nat) (time : Stamp) (lost : Bool) : Dev :=
  (List.range 4).foldl (fun d u => match d.statsRec? u with
    | some x =>
      if !x.en then d else
      let d := if x.start = i then
        d.onStat u fun e => { e with starts := insertBy (fun p => stampKey d.now p.1) (time, lost) e.starts } else d
      if !x.mode ∧ x.stop = i then d.onStat u fun e => { e with stops := insertBy (stampKey d.now) time e.stops } else d
    | none => d) d

/-- R710, R715: a stamp is not written: the next one carries LOST. -/
def TsIn.carry (x : TsIn) : TsIn :=
  match x.flight with
  | [] => { x with lost := true }
  | e :: rest => { x with flight := { e with lost := true } :: rest }

/-- R715: the oldest stamp of an input is ready. -/
def State.stampReady (s : State) (i : Nat) : State :=
  let x := s.dev.tim.input i
  match x.flight with
  | [] => s
  | e :: rest =>
    let s := s.onDev fun d => d.onInput i fun x => { x with flight := rest }
    match (s.dev.tsiRec? i).filter (·.en) with
    | none => if e.lost then s.onDev fun d => d.onInput i TsIn.carry else s
    | some r =>
      let (s, w) := s.ringPut 0 r.dest (s.dev.tim.stampSlot i e) []
      s.onDev fun d =>
        let d := if w = .full then
            let d := d.onInput i fun x => { x.carry with drop := BitVec.ofNat 32 (satInc 32 x.drop.toNat), ringFull := true }
            if x.ringFull then d else d.timRecord 2 2 i
          else d.statTake i e.time e.lost
        if r.evt ∧ i < 8 then d.raise (0x300 + i) e.time else d

def execStampReady (input : Fin 9) (s : State) : Outcome := .next (s.stampReady input)

/-! Calibration (R712 to R714). -/

/-- Hits of a calibration. -/
def tdcHits : Nat := 4194304

/-- R713. -/
def hitsValid (h : List Nat) : Bool :=
  h.headD 0 != 0 && (h.dropWhile (· != 0)).all (· == 0) && h.all fun x => x * 50 ≤ tdcHits

/-- R712: F[c] from the hits of each code. -/
def tableGo (sum : Nat) : List Nat → List (BitVec 9)
  | [] => []
  | h :: t => BitVec.ofNat 9 ((256 * (2 * sum + h) + tdcHits) / (2 * tdcHits)) :: tableGo (sum + h) t

/-- R712: the idle line of an input starts to collect hits. -/
def Dev.tdcStart (d : Dev) (i : Nat) : Dev := d.onInput i fun x => { x with calibrating := true }

def execTdcCalibrationDue (input : Fin 9) (s : State) : Outcome :=
  devStep s fun d => if bit d.tim.tdcCtl 0 then d.tdcStart input else d

/-- R714: CAL. -/
def Dev.tdcCal (d : Dev) : Dev :=
  (List.range 9).foldl Dev.tdcStart (d.onTim fun t => { t with tdcCtl := setBit t.tdcCtl 1 true })

def execTdcCal (s : State) : Outcome := startStep s Dev.tdcCal

/-- TIM_TDC_STAT [11] BUSY. -/
def Tim.tdcBusy (t : Tim) : Bool := t.inputs.any fun (_, x) => x.calibrating

/-- R712, R713: the idle line has its hits; `temp` is the die temperature. -/
def Dev.tdcFinish (d : Dev) (i : Nat) (temp : BitVec 16) (h : List Nat) : Dev :=
  if !(d.tim.input i).calibrating ∨ h.length ≠ 320 ∨ h.foldl (· + ·) 0 ≠ tdcHits then d else
  let line := 2 * i + (!(d.tim.input i).line).toNat
  let d := d.onInput i fun x => { x with calibrating := false }
  let d := if hitsValid h then
      (d.onTim fun t => { t with tables := Tbl.set t.tables line (tableGo 0 h), calTemps := Tbl.set t.calTemps line temp }).onInput i
        fun x => { x with swap := true }
    else (d.onTim fun t => { t with calErr := true }).timRecord 0 10 i
  if d.tim.tdcBusy then d else d.onTim fun t => { t with tdcCtl := setBit t.tdcCtl 1 false }

def execTdcCalibration (input : Fin 9) (temp : BitVec 16) (hits : List (BitVec 23)) (s : State) : Outcome :=
  devStep s fun d => d.tdcFinish input temp (hits.map BitVec.toNat)

/-- R714: the lines swap while no edge of the input is in flight and the idle line is not detached. -/
def execLineSwap (input : Fin 9) (s : State) : Outcome :=
  devStep s fun d =>
    let x := d.tim.input input
    if x.swap ∧ x.flight.isEmpty ∧ !x.calibrating then d.onInput input fun x => { x with line := !x.line, swap := false } else d

/-! The TDC record (R744, R745). -/

def Tim.tdcBody (t : Tim) : List Byte :=
  ((List.range 18).map fun l => leBytes 2 (Tbl.get 0 t.calTemps l).toNat).flatten ++
  ((List.range 18).map fun l => match Tbl.find? t.tables l with
    | some f => (f.map fun v => leBytes 2 v.toNat).flatten
    | none => List.replicate 640 0xFF).flatten

/-- R745: the tables of a record body. -/
def Tim.loadTdc (t : Tim) (b : List Byte) : Tim :=
  let w := fun i : Nat => ofLeBytes ((b.drop i).take 2)
  (List.range 18).foldl (fun t l =>
    let base := 36 + 640 * l
    let t := { t with calTemps := Tbl.set t.calTemps l (BitVec.ofNat 16 (w (2 * l))) }
    if w base = 0xFFFF then t
    else { t with tables := Tbl.set t.tables l ((List.range 320).map fun c => BitVec.ofNat 9 (w (base + 2 * c))) }) t

/-- R745: SAVE starts the write of the record. -/
def Dev.tdcSave (d : Dev) : Dev :=
  if bit d.tim.tdcCtl 2 then d else
  ({ d with tim := { d.tim with tdcCtl := setBit d.tim.tdcCtl 2 true } }).atticPush .tdcSave 6 d.tim.tdcBody

def execTdcSave (s : State) : Outcome := startStep s Dev.tdcSave

/-! Statistics (R719 to R722). -/

/-- A value joins the block. -/
def TimStat.include (e : TimStat) (v : Int) : TimStat :=
  { e with
    n := e.n + 1, s1 := e.s1 + v, s2 := e.s2 + (v * v).toNat
    min_ := if e.n = 0 then v else min e.min_ v, max_ := if e.n = 0 then v else max e.max_ v
    unresolved := if v = 0 then satInc 12 e.unresolved else e.unresolved }

/-- R722: MEAN and DEV of N values, in 1/256 fine LSB. -/
def statMean (n : Nat) (s1 : Int) : Int := (512 * s1 + n) / (2 * n)
def statDev (n : Nat) (s1 : Int) (s2 : Nat) : Nat := (isqrt (262144 * ((n * s2 : Nat) - s1 * s1 : Int).toNat) + n) / (2 * n)

/-- R722: the cells of a block's record. -/
def TimStat.cells (e : TimStat) : List Cell :=
  let w := fun v : Int => BitVec.ofInt 36 v
  (stampCells (e.first.getD 0) ++ [BitVec.ofNat 36 e.n, w (statMean e.n e.s1), BitVec.ofNat 36 (statDev e.n e.s1 e.s2), w e.min_, w e.max_,
    BitVec.ofNat 36 (e.orphan + e.unpaired * 2 ^ 12 + e.unresolved * 2 ^ 24)]).map fun v => { data := v }

/-- A block that holds nothing. -/
def TimStat.fresh (e : TimStat) : TimStat :=
  { e with n := 0, s1 := 0, s2 := 0, min_ := 0, max_ := 0, first := none, orphan := 0, unpaired := 0, unresolved := 0 }

/-- R722: a full block writes its record and starts again. -/
def State.statClose (s : State) (u : Nat) (x : StatsRec) : State :=
  let e := s.dev.tim.stat u
  if e.n < x.n then s else
  let (s, w) := s.ringPut 0 x.dest e.cells []
  s.onDev fun d =>
    let d := d.onStat u fun e => { e.fresh with blk := if w = .written then e.blk + 1 else e.blk, ringFull := e.ringFull || w == .full }
    (if w = .full ∧ !e.ringFull then d.timRecord 2 1 (16 + u) else d).raise (0x210 + u) d.stamp

/-- R719: a stamp whose last possible partner has been seen. -/
def Tim.final (t : Tim) (win : Nat) (x : Stamp) : Bool := decide (win + 64 * 256 ≤ stampDiff (stampOf t.count) x)

/-- Whether two stamps lie within a window. -/
def within (win : Nat) (a b : Stamp) : Bool := decide ((stampDiff a b).natAbs ≤ win)

/-- R719: the earliest final start pairs or closes; a stop that no start can claim is an orphan. -/
def TimStat.pair (e : TimStat) (t : Tim) (win : Nat) : TimStat :=
  let start := e.starts.head?.filter fun p => t.final win p.1
  let orphan := e.stops.find? fun y => t.final win y && e.starts.all fun p => !within win p.1 y
  match start, orphan with
  | none, none => e
  | some (a, _), o =>
    if o.any fun y => stampDiff y a < 0 then
      { e with orphan := satInc 12 e.orphan, stops := (takeFirst (fun z => some z == o) e.stops).elim e.stops Prod.snd }
    else
      let e := { e with starts := e.starts.tail, first := e.first.orElse fun _ => some a }
      match takeFirst (within win a) e.stops with
      | some (y, stops) => { e with stops }.include (stampDiff y a)
      | none => { e with unpaired := satInc 12 e.unpaired }
  | none, some y => { e with orphan := satInc 12 e.orphan, stops := (takeFirst (· == y) e.stops).elim e.stops Prod.snd }

/-- R720: consecutive stamps of one input. -/
def TimStat.follow (e : TimStat) (t : Tim) (win : Nat) : TimStat :=
  match e.starts with
  | [] => e
  | (a, lost) :: rest =>
    if !t.final win a then e else
    let e' := { e with starts := rest, prev := some a, first := e.first.orElse fun _ => some a }
    match e.prev with
    | none => e'
    | some p =>
      let v := stampDiff a p
      if lost ∨ 2 ^ 27 ≤ v then { e' with unpaired := satInc 12 e'.unpaired } else e'.include v

/-- One stamp of a unit is treated. -/
def State.statStep (s : State) (u : Nat) : State :=
  match s.dev.statsRec? u with
  | none => s
  | some x =>
    if !x.en then s else
    let t := s.dev.tim
    (s.onDev fun d => d.onStat u fun e => if x.mode then e.follow t x.win else e.pair t x.win).statClose u x

def execStatsPairing (unit_ : Fin 4) (s : State) : Outcome := .next (s.statStep unit_)

end Sys2Proof.Machine
end

