-- ==== Sys2Proof/Machine/Power.lean ====
section
/-!
DEFINITION. Frequencies of the core synthesisers, throttling, and the supply rails (R57, R58, R63, R707, R808, R812,
R830, R831).
-/
namespace Sys2Proof.Machine

def Dev.onHkc (d : Dev) (f : Hkc → Hkc) : Dev := { d with hkc := f d.hkc }

/-! Synthesisers: 0 CS0 of CD12, 1 CS1 of CD13, 2 CS2 of CD25. -/

def Dev.syn (d : Dev) (k : Nat) : Syn := match k with | 0 => d.spa.cs0 | 1 => d.tim.cs1 | _ => d.tim.cs2

def Dev.onSyn (d : Dev) (k : Nat) (f : Syn → Syn) : Dev :=
  match k with
  | 0 => { d with spa := { d.spa with cs0 := f d.spa.cs0 } }
  | 1 => { d with tim := { d.tim with cs1 := f d.tim.cs1 } }
  | _ => { d with tim := { d.tim with cs2 := f d.tim.cs2 } }

/-- Lowest and highest frequency in MHz, on a grid of 25 MHz (R705). -/
def synRange (k : Nat) : Nat × Nat := match k with | 0 => (800, 1600) | 1 => (900, 1800) | _ => (750, 1500)

def synOk (k mhz : Nat) : Bool := decide ((synRange k).1 ≤ mhz ∧ mhz ≤ (synRange k).2 ∧ mhz % 25 = 0)

/-- The frequency a synthesiser is to run at: its target, limited by the speed grade (R822) and by throttling (R831). -/
def Dev.synAim (d : Dev) (k : Nat) : BitVec 11 :=
  if d.hkc.throttled then BitVec.ofNat 11 (synRange k).1
  else if k = 0 ∧ d.glb.grade ∧ (d.syn 0).target.toNat > 1400 then 1400
  else (d.syn k).target

/-- R812: operating points of a domain: MHz and mV. -/
def supplyPoints (k : Nat) : List (Nat × Nat) :=
  match k with
  | 0 => [(800, 600), (1000, 650), (1200, 700), (1400, 760), (1600, 820)]
  | 1 => [(900, 620), (1350, 700), (1800, 800)]
  | _ => [(750, 600), (1125, 680), (1500, 780)]

/-- R812: the voltage of the lowest operating point at or above a frequency. -/
def supplyMv (k mhz : Nat) : Nat := ((supplyPoints k).find? fun p => decide (mhz ≤ p.1)).elim 0 (·.2)

/-- A regulator takes a target; it is ready again once its output has settled there (R812). -/
def Syn.supply (x : Syn) (mv : Nat) : Syn := { x with mv, supplyReady := x.supplyReady && x.mv == mv }

/-! Bands and legs (R706 to R708). -/

/-- MON_TEMP of the four die sensors, in units of 0.125 °C (R763). -/
def Dev.dieTemps (d : Dev) : List Int := (List.range 4).map fun i => (Tbl.get 0 d.mon.temps (20 + i)).toInt

/-- Highest of the die sensors, in units of 0.125 °C (R763, R830). -/
def Dev.dieTemp (d : Dev) : Int := (bestBy (fun a b : Int => b < a) d.dieTemps).getD 0

/-- The entry of the idle VCO for a frequency: the temperature and the reading of its search. -/
def Syn.entry (x : Syn) (t : Int) (ctr mhz : Nat) : Int × Nat :=
  ((Tbl.find? x.found ((!x.vcoB).toNat * 2048 + mhz)).orElse fun _ => x.filled).getD (t, ctr)

/-- R706: an entry from which the die temperature has moved 20 °C is searched again, on the idle VCO. -/
def Syn.search (x : Syn) (t : Int) (ctr mhz : Nat) : Syn × Nat :=
  if 160 ≤ (t - (x.entry t ctr mhz).1).natAbs then
    ({ x with found := Tbl.set x.found ((!x.vcoB).toNat * 2048 + mhz) (t, ctr) }, ctr + 1)
  else (x, ctr)

/-- The next grid point from a frequency towards another. -/
def gridStep (f g : Nat) : Nat := if f < g then f + 25 else f - 25

/-- The furthest grid point from f towards g for which the idle VCO has a band that covers f as well; `fuel` bounds the points. -/
def Syn.reach (x : Syn) (k : Nat) (t : Int) (ctr f : Nat) : Nat → Nat → Nat
  | 0, g => g
  | fuel + 1, g =>
    if gridStep g f = f ∨ Config.bandCovers k (!x.vcoB) (Config.vcoBand k (!x.vcoB) g (x.entry t ctr g).2) f then g
    else x.reach k t ctr f fuel (gridStep g f)

/-- R707 steps 3 to 5 once for each leg from f to g: the idle VCO takes a band and the output stage switches to it; `fuel`
bounds the legs. -/
def Syn.legs (k : Nat) (t : Int) (g : Nat) : Nat → Nat → Syn × Nat → Syn × Nat
  | 0, _, p => p
  | fuel + 1, f, (x, ctr) =>
    if f = g then (x, ctr) else
    let h := x.reach k t ctr f 64 g
    let (x, ctr) := x.search t ctr h
    Syn.legs k t g fuel h ({ x with vcoB := !x.vcoB }, ctr)

def Dev.defer (d : Dev) (b : Bool) : Dev := { d with spa := { d.spa with deferred := b } }

/-- R58: a lowering of CS0 from a frequency is held, unless the device throttles (R831). -/
def Dev.holdsLowering (d : Dev) (from_ aim : BitVec 11) : Bool :=
  decide (aim.toNat < from_.toNat) && !d.hkc.throttled && d.wouldMiss aim.toNat

/-- Steps 1 and 2 of R707: the change begins, and for a rise the supply is raised first (R63). What is asked during a ramp
begins after it. -/
def Dev.retune (d : Dev) (k : Nat) : Dev :=
  let x := d.syn k
  let aim := d.synAim k
  match x.ramp with
  | some f => if k = 0 then d.defer (d.holdsLowering f aim) else d
  | none =>
    if aim = x.current then (if k = 0 then d.defer false else d)
    else if k = 0 ∧ d.holdsLowering x.current aim then d.defer true
    else
      let d := d.onSyn k fun x =>
        { (if x.current.toNat < aim.toNat then x.supply (supplyMv k aim.toNat) else x) with ramp := some aim }
      if k = 0 then d.defer false else d

def Dev.retuneAll (d : Dev) : Dev := ((d.retune 0).retune 1).retune 2

/-- A write of SPA_FREQ.TARGET or TIM_SYN.TARGET. -/
def execTarget (which : Fin 3) (mhz : BitVec 11) (s : State) : Outcome :=
  hostStep s fun d =>
    let k := which.val
    if !synOk k mhz.toNat then (if k = 0 then d.note .cfgRange domDevice srcSpa else d.note .cfgRange domDevice (BitVec.ofNat 8 timUnit))
    else (d.onSyn k fun x => { x with target := mhz }).retune k

/-- R812: a regulator has settled at its target; a rise that waits for it goes on (step 2 of R707). -/
def execRegulatorReady (which : Fin 3) (s : State) : Outcome :=
  devStep s fun d => d.onSyn which fun x => { x with supplyReady := true }

/-- Steps 3 to 6 of R707, in legs (R708): the ramp ends, after a fall the supply is lowered (R63), and a change requested
meanwhile begins. -/
def execRampDone (which : Fin 3) (s : State) : Outcome :=
  devStep s fun d =>
    let x := d.syn which
    match x.ramp with
    | none => d
    | some f =>
      if x.current.toNat < f.toNat ∧ !x.supplyReady then d
      else
        let (x, ctr) := Syn.legs which d.dieTemp f.toNat 64 x.current.toNat (x, d.freeCtr)
        let x := { x.supply (supplyMv which f.toNat) with current := f, ramp := none }
        (({ d with freeCtr := ctr } : Dev).onSyn which fun _ => x).retune which

/-- R58: a deferred lowering begins once no admitted Crate would miss its deadline at the new frequency. -/
def execDvfsLoweringApply (s : State) : Outcome :=
  devStep s fun d => if d.spa.deferred ∧ d.spa.cs0.ramp.isNone then d.retune 0 else d

/-! Throttling (R830, R831). -/

def Dev.stackTemps (d : Dev) : List Int := (List.range 2).map fun i => (Tbl.get 0 d.cel.temps i).toInt

def Dev.hot (d : Dev) : Bool := d.dieTemps.any (fun t => decide (840 < t)) || d.stackTemps.any fun t => decide (105 < t)
def Dev.cool (d : Dev) : Bool := d.dieTemps.all (fun t => decide (t < 800)) && d.stackTemps.all fun t => decide (t < 100)

def Dev.throttle (d : Dev) : Dev :=
  if d.hkc.throttled ∨ !d.hot then d else
  let d := d.onHkc fun h => { h with throttled := true }
  (((d.defer false).retuneAll).log { code := .ok, sev := 0, domain := domDevice, src := srcHkc }).hkcEvt 2

def execThrottleEntry (s : State) : Outcome := devStep s Dev.throttle

/-- The command stands for 1 s below the release limits. -/
def execThrottleRelease (s : State) : Outcome :=
  devStep s fun d =>
    if !d.hkc.throttled ∨ !d.cool then d
    else ((d.onHkc fun h => { h with throttled := false }).retuneAll).hkcEvt 2

/-- R673: a stack reports its temperature in °C. Above 105 °C one record is written and the device throttles. -/
def execStackTemperature (stack : Fin 2) (temp : BitVec 8) (s : State) : Outcome :=
  devStep s fun d =>
    let d := d.onCel fun c => { c with temps := Tbl.set c.temps stack temp }
    if temp.toInt ≤ 105 then d else (d.celErr stack 3 0 stack).throttle

/-! Rails (R808). -/

/-- Ranges of the sense points 0 VDD18, 1 VDD_CORE, 2 VDD_DVS and 3 VDDA_SDS, in units of 0.1 mV. -/
def railOk (k mv10 : Nat) : Bool :=
  match k with
  | 0 => decide (17100 ≤ mv10 ∧ mv10 ≤ 18900)
  | 1 => decide (7275 ≤ mv10 ∧ mv10 ≤ 7725)
  | 2 => decide (9215 ≤ mv10 ∧ mv10 ≤ 9785)
  | _ => decide (8730 ≤ mv10 ∧ mv10 ≤ 9270)

/-- A RAIL_OK bit takes a value; when it clears, HKC_EVT_STAT.RAIL is set. -/
def Dev.rail (d : Dev) (k : Nat) (ok : Bool) : Dev :=
  let was := bit d.hkc.railOk k
  let d := d.onHkc fun h => { h with railOk := setBit h.railOk k ok }
  if was && !ok then d.hkcEvt 3 else d

def execRailOutOfRange (rail : Fin 4) (s : State) : Outcome := devStep s fun d => d.rail rail false

end Sys2Proof.Machine
end

