-- ==== Sys2Proof/Machine/Reset.lean ====
section
/-!
DEFINITION. Resets, standby and wake (R813 to R816, R823 to R825, R829, R832, R758).
-/
namespace Sys2Proof.Machine

/-- Hot-plug levels are pins: a reset leaves them. -/
def Sco.pins (x : Sco) : Tbl ScoOut := x.outs.map fun (k, o) => (k, { hpd := o.hpd })

/-- R813: everything outside the always-on domain takes its reset value. Kept are the standby wake latches, TRIPPED, host
writes to CEL_CFG and GLB_SCRATCH, the wear of the Attic, the levels of pins, and what the host has received. -/
def Dev.warmed (d : Dev) (cause : BitVec 3) : Dev :=
  let f := State.reset.dev
  { f with
    glb := { f.glb with
      scratch0 := d.glb.scratch0, scratch1 := d.glb.scratch1, scratch2 := d.glb.scratch2, scratch3 := d.glb.scratch3
      gpioIn := d.glb.gpioIn }
    atc := { f.atc with erases := d.atc.erases }
    hkc := { f.hkc with
      wake := d.hkc.wake, wakeCmp := d.hkc.wakeCmp, tripped := d.hkc.tripped, thermtrip := d.hkc.thermtrip, cause }
    cel := { f.cel with
      maxSpeed := if d.cel.maxSpeedSet then d.cel.maxSpeed else f.cel.maxSpeed, maxSpeedSet := d.cel.maxSpeedSet
      retResv := if d.cel.retResvSet then d.cel.retResv else f.cel.retResv, retResvSet := d.cel.retResvSet }
    tim := { f.tim with oven := d.tim.oven }
    mon := { f.mon with cmps := ((List.range 8).filter fun k => bit d.hkc.wakeCmp k).map fun k => (k, { latch := true }) }
    sco := { f.sco with outs := d.sco.pins }
    instr := { f.instr with low := d.instr.low, pins := d.instr.pins }
    host := d.host
    freeCtr := d.freeCtr }

/-- R813: everything takes its reset value but the Attic. -/
def Dev.poweredOn (d : Dev) : Dev :=
  let f := State.reset.dev
  { f with
    glb := { f.glb with gpioIn := d.glb.gpioIn }
    atc := { f.atc with erases := d.atc.erases }
    tim := { f.tim with oven := d.tim.oven }
    sco := { f.sco with outs := d.sco.pins }
    instr := { f.instr with low := d.instr.low, pins := d.instr.pins }
    host := d.host
    freeCtr := d.freeCtr }

/-- What a reset that runs the boot sequence leaves in the memories (R664, R813). -/
def Mem.booted (m : Mem) : Mem := { attic := m.attic, factory := m.factory }

/-- R803: a write in progress when power or a pin resets the device leaves its record erased and invalid. -/
def State.atticBroken (s : State) : State :=
  match s.dev.atc.jobs with
  | [] => s
  | (job, typ, body) :: _ =>
    let (a, n) := atticSpan job typ body
    let sectors := sectorsOf a n
    (s.onMem fun m => m.atticErase sectors).onDev fun d => d.onAtc fun x =>
      { x with erases := sectors.foldl (fun e k => Tbl.upd 0 e k (· + 1)) x.erases }

def State.warm (s : State) (cause : BitVec 3) : State := (s.onMem Mem.booted).onDev fun d => d.warmed cause

/-- PORST_N low, or VDD_AON below 0.65 V. -/
def execPorstN (s : State) : Outcome := .next ((s.atticBroken.onMem Mem.booted).onDev Dev.poweredOn)

/-- RST_N low for 1 µs: a pin acts at once (R816). -/
def execRstN (s : State) : Outcome := .next (s.atticBroken.warm 1)

/-- R816: a WARM reset of the mailbox or the SMBus waits for an Attic write in progress. -/
def State.warmRequest (s : State) (cause : BitVec 3) : State :=
  if s.dev.atc.jobs.isEmpty then s.warm cause
  else s.onDev fun d => d.onHkc fun h => { h with resetWait := some (h.resetWait.getD cause) }

/-! FUNCTION (R813, R814). -/

def Ing.functioned (g : Ing) : Ing :=
  { temp := g.temp, adcDone := g.adcDone, lanes := g.lanes.map fun (k, x) => (k, { retired := x.retired }) }

def Cel.functioned (c : Cel) : Cel :=
  { height := c.height, speed := c.speed, maxSpeed := c.maxSpeed, retResv := c.retResv, maxSpeedSet := c.maxSpeedSet
    retResvSet := c.retResvSet, trained := c.trained, pcs := c.pcs, temps := c.temps, top := c.top, withheld := c.withheld
    donors := c.donors, donated := c.donated, mig := c.mig, waiting := c.waiting, dead := c.dead }

def Tim.functioned (t : Tim) : Tim :=
  { started := t.started, count := t.count, ticks := t.ticks, refCtl := t.refCtl, ref := t.ref, ref100 := t.ref100
    oven := t.oven, loss := t.loss, ret := t.ret, losses := t.losses, pbo := t.pbo, pboSum := t.pboSum, unset := t.unset
    cs1 := t.cs1, cs2 := t.cs2, coreLock := t.coreLock, celLock := t.celLock, tables := t.tables, calTemps := t.calTemps }

def Mon.functioned (m : Mon) : Mon :=
  { slices := m.slices, calTemp := m.calTemp, temps := m.temps, cmps := m.cmps.map fun (k, x) => (k, { trims := x.trims }) }

/-- Sessions close without Chits, Barrels disarm, ports and scan-out stop, and the pools are rebuilt. Kept are Cellar
training and contents, the count and the reference PLL, trained links, retirements, frequencies, calibrations that boot
loads, DEV_FAULT, and the blocks GLB, REL, ATC and HKC but for the error queue. -/
def Dev.functioned (d : Dev) (mailbox : Bool) : Dev :=
  { glb := d.glb
    rel := { d.rel with queue := [], overflow := 0, dropped := false }
    atc := d.atc
    hkc := { d.hkc with ready := false, cause := 5, funcReset := some mailbox }
    hlk := { linkStat := d.hlk.linkStat, linkCtl := d.hlk.linkCtl, retry0 := d.hlk.retry0, retry1 := d.hlk.retry1 }
    stk := { spus := d.stk.spus.map fun (k, u) => (k, { retired := u.retired, spare := u.spare }) }
    spa := { cs0 := d.spa.cs0 }
    cel := d.cel.functioned
    tim := d.tim.functioned
    mon := d.mon.functioned
    ing := d.ing.map fun (k, g) => (k, g.functioned)
    sco := { outs := d.sco.pins }
    instr := { low := d.instr.low, pins := d.instr.pins }
    host := d.host
    freeCtr := d.freeCtr }

/-- Before boot step 9, in standby and after a trip there is nothing that it would reset (R815). -/
def State.function (s : State) (mailbox : Bool) : State :=
  if !s.dev.servedKept then s
  else (s.onMem fun m => { m with pool := [] }).onDev fun d => d.functioned (mailbox || d.hkc.funcReset == some true)

/-- A function level reset, hot reset or secondary bus reset of CXL. -/
def execFunctionReset (s : State) : Outcome := .next (s.function false)

/-! Mailbox (R826). -/

/-- The HKC takes a command; one that arrives while another runs is counted. -/
def mailbox (s : State) (cmd : BitVec 8) (f : State → State) : Outcome :=
  .next <|
    if !s.dev.servedKept then s
    else if s.dev.hkc.busy then s.onDev fun d => d.onHkc fun h => { h with ignored := BitVec.ofNat 16 (satInc 16 h.ignored.toNat) }
    else f (s.onDev fun d => d.onHkc fun h => { h with cmd, busy := true })

/-- A command completes with a status code, and with its results where it has some. -/
def Dev.mailboxEnd (d : Dev) (status : BitVec 8) (res : List Reg := []) : Dev :=
  (d.onHkc fun h =>
    { h with status, busy := false, done := true
             res := res.zipIdx.foldl (fun t (v, i) => Tbl.set t i v) h.res }).hkcEvt 0

/-! Standby (R823 to R825). -/

/-- The command that entered standby gets its status, and with it a STANDBY that the mailbox took meanwhile: a mailbox command
that has completed keeps DONE. -/
def Dev.standbyStatus (d : Dev) (st : Status) : Dev :=
  let d := if d.hkc.stbyMailbox then d else d.onHkc fun h => { h with smbStatus := st.code }
  if d.hkc.busy && d.hkc.cmd == 0x03 then d.mailboxEnd st.code
  else if d.hkc.stbyMailbox then d.onHkc fun h => { h with status := st.code }
  else d

/-- Step 2, once no Attic write is in progress. -/
def Dev.standbyStep2 (d : Dev) : Dev :=
  if !d.hkc.stbyReq ∨ d.hkc.stbyAt.isSome ∨ !d.atc.jobs.isEmpty then d
  else (d.onHkc fun h => { h with stbyAt := some d.tim.ticks }).standbyStatus .ok

/-- STANDBY of the mailbox or the SMBus. -/
def Dev.standbyStart (d : Dev) (mailbox : Bool) : Dev :=
  if d.hkc.stbyReq then d else
  let d := d.onHkc fun h => { h with stbyMailbox := mailbox }
  if d.hlk.sessions.any fun (k, x) => k != 0 && x.st != .closed then d.standbyStatus .cfgLocked
  else (d.onHkc fun h => { h with stbyReq := true, stbyAt := none }).standbyStep2

/-- Ticks of 1 ms. -/
def msTicks : Nat := 2048000

/-- Steps 3 and 4: every domain outside the always-on domain stops. A comparator with WAKE set keeps its thresholds and
its state (R758). -/
def State.standbyEnter (s : State) : State :=
  let d := s.dev
  let w := d.warmed d.hkc.cause
  let wakes := (List.range 8).filter fun k => (d.cmpRec k).en && (d.cmpRec k).wake
  let m := Tbl.get {} d.units monUnit
  { s with
    mem := s.mem.booted
    dev := { w with
      hkc := { w.hkc with standby := true, booting := false, pwrReq := false, smbStatus := d.hkc.smbStatus, smbAddr := d.hkc.smbAddr }
      units := [(monUnit, { com := m.com.filter fun (k, _) => wakes.any fun c => k == 256 + c })]
      mon := { w.mon with
        cmps := (List.range 8).filterMap fun k =>
          if wakes.contains k then some (k, d.mon.cmp k)
          else if (d.mon.cmp k).latch && bit d.hkc.wakeCmp k then some (k, { latch := true }) else none } } }

/-- Step 3 of R823 comes 1 ms after step 2. -/
def State.standbyTick (s : State) : State :=
  match s.dev.hkc.stbyAt with
  | some t => if msTicks ≤ (s.dev.tim.ticks - t).toNat then s.standbyEnter else s
  | none => s

/-- R825: a wake request by `cause`, from a comparator or the SMBus. -/
def State.wakeRequest (s : State) (cause : BitVec 3) (cmp : Option Nat) : State :=
  if s.dev.hkc.standby then
    (s.onDev fun d => d.onHkc fun h =>
      { h with pwrReq := true, wake := cause, wakeCmp := match cmp with | some k => setBit 0 k true | none => 0 }).warm 4
  else if s.dev.hkc.stbyReq then
    s.onDev fun d => (d.standbyStatus .cancelled).onHkc fun h => { h with stbyReq := false, stbyAt := none }
  else s

/-! SMBus (R829). -/

/-- The HKC executes a command of the SMBus. -/
def State.smbRun (s : State) : SmbCmd → State
  | .reset => s.warmRequest 3
  | .standby => s.onDev fun d => if d.hkc.ready then d.standbyStart false else d
  | .wake => s.wakeRequest 2 none

/-- The commands that waited for a mailbox command run after it, one by one; `fuel` bounds their number. -/
def State.smbDrain : Nat → State → State
  | 0, s => s
  | fuel + 1, s =>
    if s.dev.hkc.busy ∨ s.dev.hkc.resetWait.isSome then s else
    match s.dev.hkc.smbWait with
    | [] => s
    | c :: rest => State.smbDrain fuel ((s.onDev fun d => d.onHkc fun h => { h with smbWait := rest }).smbRun c)

def State.smbNext (s : State) : State := State.smbDrain (s.dev.hkc.smbWait.length) s

/-- R829: one command at a time, in order of arrival; a WAKE reaches a STANDBY that is under way (R825). -/
def State.smbTake (s : State) (c : SmbCmd) : State :=
  if s.dev.hkc.busy ∧ ¬(c = .wake ∧ s.dev.hkc.stbyReq) then
    s.onDev fun d => d.onHkc fun h => { h with smbWait := h.smbWait ++ [c] }
  else (s.smbRun c).smbNext

/-- A request of a comparator, or of the SMBus. -/
def execWakeRequest (cmp : Option (Fin 8)) (s : State) : Outcome :=
  .next (match cmp with
    | some k => (s.wakeRequest 1 (some k)).smbNext
    | none => (s.wakeRequest 2 none).smbNext)

/-- SMBus WAKE. -/
def execWake (s : State) : Outcome := .next (s.smbTake .wake)

def execSmbusReset (s : State) : Outcome := .next (s.smbTake .reset)

def execSmbusStandby (s : State) : Outcome := .next (s.smbTake .standby)

/-- R758: raw samples of a comparator with WAKE set while the device is in standby; its first edge wakes the device. -/
def State.wakeSample (s : State) (k : Nat) (raw : BitVec 4) : State :=
  let r := s.dev.cmpRec k
  if !s.dev.hkc.standby ∨ !r.en ∨ !r.wake then s else
  let (x, e) := (s.dev.mon.cmp k).sample r false raw
  let s := s.onDev fun d => d.onCmp k fun _ => x
  if r.test ≠ 0 then s else
  match e with
  | .edge => s.wakeRequest 1 (some k)
  | _ => s

def execStandbyWakeEdge (channel : Fin 8) (raw : List (BitVec 4)) (s : State) : Outcome :=
  .next (raw.foldl (fun s x => s.wakeSample channel x) s)

/-! Thermal trip (R832). -/

/-- A die sensor above 125 °C: every clock outside CD00 stops until a reset. -/
def execThermalTrip (s : State) : Outcome :=
  .next <|
    if !s.dev.dieTemps.any (fun t => decide (1000 < t)) ∨ s.dev.hkc.standby then s else
    (s.atticBroken.onMem Mem.booted).onDev fun d =>
      (d.warmed d.hkc.cause).onHkc fun h =>
        { h with booting := false, tripped := true, thermtrip := true, smbAddr := d.hkc.smbAddr }

end Sys2Proof.Machine
end

