-- ==== Sys2Proof/Machine/Boot.lean ====
section
/-!
DEFINITION. The boot sequence and its end (R817 to R822, R664, R677, R678, R799).
-/
namespace Sys2Proof.Machine

/-- What step 5 and step 6 find: SPUs that fail self-test, the height of both stacks if they agree, and for a pin speed
the pseudo-channels that fail training at it. -/
structure BootFinds where
  spus : List Nat
  height : Option Nat
  failing : List (Nat × List Nat)
  repaired : List (Nat × BitVec 5)

/-- R821: the body of BOOT in force. -/
def State.bootBody (s : State) : List Byte :=
  (s.atticBody 1 0 256).getD ([0x03, 3, 3, 0] ++ leBytes 2 1600 ++ leBytes 2 1800 ++ leBytes 2 1500 ++ [0x5A] ++ List.replicate 245 0)

def word16 (b : List Byte) (i : Nat) : Nat := ofLeBytes ((b.drop i).take 2)
def byteOf (b : List Byte) (i : Nat) : Nat := ((b[i]?).getD 0).toNat

/-- A target of BOOT; one outside the synthesiser's grid gives way to the default. -/
def bootTarget (b : List Byte) (k : Nat) : BitVec 11 :=
  let v := word16 b (4 + 2 * k)
  BitVec.ofNat 11 (if synOk k v then v else (synRange k).2)

/-- Step 2. -/
def Dev.bootClocks (d : Dev) : Dev := d.onTim fun t => { t with started := true, count := 0, coreLock := 0x8 }

/-- Step 4: the records are checked, and IDENTITY and BOOT are applied. -/
def State.bootAttic (s : State) : State :=
  let s := s.onDev fun d => d.onAtc fun a =>
    { a with valid := (List.range 16).foldl (fun v t => setBit v t (s.mem.atticValid t)) 0 }
  let b := s.bootBody
  let s := s.onDev fun d =>
    { d with
      glb := match s.atticBody 0 0 24 with
        | some i => { d.glb with
            stepping := BitVec.ofNat 8 (byteOf i 4), grade := byteOf i 5 == 1, idValid := true
            serial := BitVec.ofNat 128 (ofLeBytes ((i.drop 8).take 16)) }
        | none => d.glb
      hlk := { d.hlk with linkCtl := setFld d.hlk.linkCtl 0 2 (byteOf b 1) }
      hkc := { d.hkc with smbAddr := BitVec.ofNat 7 (byteOf b 10) }
      cel := { d.cel with
        maxSpeed := if d.cel.maxSpeedSet then d.cel.maxSpeed else BitVec.ofNat 2 (byteOf b 2)
        retResv := if d.cel.retResvSet then d.cel.retResv else BitVec.ofNat 2 (byteOf b 3) } }
  -- R292, R297: a retired lane stays retired across resets
  (List.range 4).foldl (fun s p =>
    match s.atticBody (2 + p) 6 2 with
    | some m =>
      let map : BitVec 16 := BitVec.ofNat 16 (ofLeBytes m)
      (List.range 9).foldl (fun s q =>
        if bit map q then s.onDev fun d => d.onPort p fun g => g.onLane q fun x => { x with retired := true } else s) s
    | none => s) s

/-- The SPUs that a map marks retire, and spares take their places; no record is rewritten. -/
def Dev.bootSpuMap (d : Dev) (map : BitVec 96) : Dev :=
  (List.range 68).foldl (fun d k => if bit map k then { d.retireSpu k with atc := d.atc } else d) d

/-- Step 5. More than 4 failing SPUs are recorded in FAIL. -/
def State.bootSpus (s : State) (failing : List Nat) : State :=
  let s := match s.atticBody 13 0 12 with
    | some b => s.onDev fun d => d.bootSpuMap (BitVec.ofNat 96 (ofLeBytes b))
    | none => s
  s.onDev fun d =>
    let d := failing.foldl Dev.retireSpu d
    if 4 < (dedup failing).length then d.onHkc fun h => { h with fail := 0x05 } else d

/-- R678: the speed at which both stacks pass, from `v` downward, and the pseudo-channels that fail even at the lowest;
each lowering writes a record. -/
def Dev.trainSpeed (d : Dev) (bad : Nat → List Nat) : Nat → Dev × List Nat
  | 0 => (d.onCel fun c => { c with speed := 0 }, bad 0)
  | v + 1 =>
    match bad (v + 1) with
    | [] => (d.onCel fun c => { c with speed := BitVec.ofNat 2 (v + 1) }, [])
    | q :: _ =>
      let d := d.log { code := .linkDegraded, sev := 2, domain := domCel (q / 32), src := srcCel, cause := 0, detail := q }
      (d.onCel fun c => { c with err := setBit c.err 0 true }).trainSpeed bad v

/-- Retire one pseudo-channel in training; a ninth fails the training (R681). -/
def State.trainRetire (s : State) (pc : Nat) : State :=
  if (s.dev.cel.pc pc).retired then s
  else if 8 ≤ s.dev.cel.retired then
    s.report { code := .linkDegraded, sev := 3, domain := domCel (pc / 32), src := srcCel, cause := 1, detail := pc } true
  else s.onDev fun d =>
    let d := (d.onPc pc fun x => { x with retired := true }).onCel fun c => { c with err := setBit c.err 1 true }
    let d := d.log { code := .linkDegraded, sev := 2, domain := domCel (pc / 32), src := srcCel, cause := 1, detail := pc }
    d.atticPush .map 14 d.cel.mapBody

/-- Step 6. -/
def State.bootCellar (s : State) (x : BootFinds) : State :=
  -- the boot key is drawn (R664)
  let s : State := { s with mem := { s.mem with key := s.dev.free }, dev := s.dev.freed }
  match x.height with
  | none =>
    -- R660: the stacks differ, or one is not supported
    (List.range 2).foldl (fun s i => s.report { code := .linkDegraded, sev := 3, domain := domCel i, src := srcCel } true) s
  | some h =>
    let s := match s.atticBody 14 0 8 with
      | some b =>
        let map : BitVec 64 := BitVec.ofNat 64 (ofLeBytes b)
        s.onDev fun d => (List.range 64).foldl (fun d p => if bit map p then d.onPc p fun y => { y with retired := true } else d) d
      | none => s
    let s := s.onDev fun d => x.repaired.foldl (fun d (p, n) => d.onPc p fun y => { y with repaired := n }) d
    let live := fun d : Dev => fun v => (x.failing.filterMap fun (w, l) => if w = v then some l else none).flatten.filter fun p => !(d.cel.pc p).retired
    let (d, bad) := s.dev.trainSpeed (live s.dev) s.dev.cel.maxSpeed.toNat
    let s := (dedup bad).foldl State.trainRetire { s with dev := d }
    if s.dev.cel.dead ≠ 0 then s else
    s.onDev fun d =>
      let gib := 48 + 24 * min h 2
      let per := gib * 512 / 64
      { d with
        glb := { d.glb with cellarGib := BitVec.ofNat 8 gib }
        tim := { d.tim with celLock := 3 }
        cel := { d.cel with
          height := BitVec.ofNat 2 h, trained := 3
          top := (d.cel.retired + d.cel.retResv.toNat) * per, withheld := d.cel.retResv.toNat * per } }

/-- Step 8: calibration records, frequencies, and the calibrations that BOOT asks for. -/
def State.bootLoad (s : State) : State :=
  let b := s.bootBody
  let tdc := s.atticBody 6 0 11556
  let hka := s.atticBody 7 0 20
  let cmpt := s.atticBody 8 0 32
  s.onDev fun d =>
    let d := match tdc with | some t => d.onTim fun x => x.loadTdc t | none => d
    let d := d.monLoad hka cmpt
    let d := (List.range 3).foldl (fun d k => d.onSyn k fun x => { x with target := bootTarget b k }) d
    let d := if bit (BitVec.ofNat 8 (byteOf b 0)) 2 then d.onSyn 0 fun x => { x with target := 800 } else d
    -- R706: the band tables
    let d := (List.range 3).foldl (fun d k => d.onSyn k fun x => { x with filled := some (d.dieTemp, d.freeCtr + k), found := [] }) d
    let d := (({ d with freeCtr := d.freeCtr + 3 } : Dev).onTim fun t => { t with coreLock := 0xF }).retuneAll
    let d := if bit (BitVec.ofNat 8 (byteOf b 0)) 0 then d.onMon fun m => { m with cal := true } else d
    let d := if bit (BitVec.ofNat 8 (byteOf b 0)) 1 then d.tdcCal else d
    d.onHkc fun h => { h with stage := 8 }

/-- Steps 1 to 8. A failure of step 1 or step 3 halts the boot (R819). -/
def execBoot (rails : BitVec 4) (digestOk : Bool) (failedSpus : List (Fin 68)) (height : Option (Fin 3))
    (failing : List (Fin 4 × List (Fin 64))) (repaired : List (Fin 64 × BitVec 5)) (s : State) : Outcome :=
  .next <|
    if !s.dev.hkc.booting ∨ s.dev.hkc.stage ≠ 0 then s else
    let s := s.onDev fun d => d.onHkc fun h => { h with railOk := rails, stage := 1 }
    if rails ≠ 0xF then s.onDev fun d => d.onHkc fun h => { h with fail := 0x01 } else
    let s := s.onDev Dev.bootClocks
    if !digestOk then s.onDev fun d => d.onHkc fun h => { h with fail := 0x03, stage := 3 } else
    let s := s.onDev fun d => { d with glb := { d.glb with fw := Config.fwVersion, rom := Config.romVersion } }
    let x : BootFinds :=
      { spus := failedSpus.map (·.val), height := height.map (·.val)
        failing := failing.map fun (v, l) => (v.val, l.map (·.val)), repaired := repaired.map fun (p, n) => (p.val, n) }
    ((s.bootAttic.bootSpus x.spus).bootCellar x).bootLoad

/-- Step 9, or the end of a FUNCTION reset; `ms` is the time since the release of the reset, saturating. -/
def execReady (ms : BitVec 16) (s : State) : Outcome :=
  .next <| (s.onDev fun d =>
    match d.hkc.funcReset with
    | some mb =>
      let d := d.onHkc fun h => { h with ready := true, funcReset := none }
      if mb then d.mailboxEnd Status.ok.code else d
    | none =>
      if d.hkc.booting ∧ d.hkc.stage = 8 then
        d.onHkc fun h => { h with ready := true, booting := false, stage := 9, bootMs := ms }
      else d).smbNext

/-- R818: a configuration request, answered with Retry Status until step 9. With both modules down none arrives. -/
def execConfigurationRequest (s : State) : Outcome :=
  devStep s fun d => if fld d.hlk.linkStat 0 2 = 0 then d else { d with host := d.host ++ [.config (!d.hkc.booting)] }

end Sys2Proof.Machine
end

