-- ==== Sys2Proof/Machine/Spe.lean ====
section
/-!
DEFINITION. Detectors, stored spectra and linear integration (R370 to R379), and the emission of full-rate spectra
(R361, R362).
-/
namespace Sys2Proof.Machine

/-- Set a bit of SPE_ERR; its rise writes a record (R859). -/
def Dev.speErr (d : Dev) (p bitNo sev : Nat) (code : Status := .ok) : Dev :=
  let d := if bit (d.eng p).err bitNo then d else
    d.log { code, sev, domain := d.portDom p, src := BitVec.ofNat 8 (speUnit p), cause := bitNo }
  d.onEng p fun e => { e with err := setBit e.err bitNo true }

/-- What R379 and R380 do with the end of a record's write. -/
def Dev.speRingEnd (d : Dev) (p : Nat) (integ : Bool) (owner : Nat) (r : RingEnd) : Dev :=
  match r with
  | .written => d
  | .full =>
    let d := d.onEng p fun e =>
      if integ then { e with dropInteg := sat32 e.dropInteg } else { e with dropStore := sat32 e.dropStore }
    d.speErr p (if integ then 3 else 2) 2
  | .fault =>
    let d := d.onEng p fun e =>
      { e with integStopped := e.integStopped || integ, storeStopped := e.storeStopped || !integ, err := setBit e.err 4 true }
    d.log { code := .grantFault, sev := 2, domain := d.portDom p, src := BitVec.ofNat 8 (speUnit p), cause := 4, session := owner }

/-! Buckets. -/

/-- Values and powers of the bins of output bin o. -/
def StoreRec.span (x : StoreRec) {α : Type} (l : List α) (o : Nat) : List α := (l.drop (x.lo + o * x.kf)).take x.kf

def maxInt (l : List Int) : Int := (l.head?).elim 0 fun h => l.foldl max h
def minInt (l : List Int) : Int := (l.head?).elim 0 fun h => l.foldl min h

/-- Linear powers in a bucket are sums of |Y|² 4^A g over S_w², with 64 more fraction bits. -/
def Spectrum.power64 (x : Spectrum) (b : Cx) : Int :=
  let (n, d) := x.power b
  (n * 2 ^ 64 / d : Nat)

/-- The value a spectrum gives an output bin, joined with what the bucket holds (R372). -/
def StoreRec.join (x : StoreRec) (s : Spectrum) (o : Nat) (acc : Option Int) : Int :=
  let lp := x.span s.lp o
  match x.det, acc with
  | 0, none => lp.head?.getD (-131072)
  | 0, some a => a
  | 1, none => maxInt lp
  | 1, some a => max a (maxInt lp)
  | 2, none => minInt lp
  | 2, some a => min a (minInt lp)
  | 4, a => a.getD 0 + lp.foldl (· + ·) 0
  | _, a => a.getD 0 + ((x.span s.y o).map s.power64).foldl (· + ·) 0

/-- R25, R371, R377: a spectrum enters the bucket, or is left out of it. The number is that of the last included; a bucket
without any keeps the last counted (log entry 94). -/
def StoreRec.take (x : StoreRec) (b : SpeBucket) (s : Spectrum) : SpeBucket :=
  let b := { b with n := b.n + 1, seq := if b.incl = 0 then s.seq else b.seq, time := if b.n = 0 then s.time else b.time }
  if fld s.flags 0 3 &&& x.skip ≠ 0 ∨ s.lp.length < x.lo + x.cnt then b else
  let first := b.incl = 0
  let outs := List.range x.bins
  let (cb, e) := if x.det = 6 ∧ first then s.complex else ([], b.exp)
  { b with
    incl := b.incl + 1, seq := s.seq, time := if first then s.time else b.time, flags := b.flags ||| s.flags, exp := e
    acc := outs.map fun o => x.join s o (if first then none else b.acc[o]?)
    cells := if x.det = 6 ∧ first then (cb.drop x.lo).take x.cnt else b.cells
    tags := outs.map fun o =>
      let bad := (x.span s.y o).any (·.bad)
      tagMax ((b.tags[o]?).getD tagValid) (tagMax (flagsTag s.flags) (if bad then tagOverrange else tagValid)) }

/-- LP18 of a power with 64 fraction bits over n, within 2 LSB (R372, R373). -/
def lpMean (v : Int) (n : Nat) (ctr o : Nat) : Int := lp18Near v.toNat (2 ^ 64 * max 1 n) (Config.lpError (ctr * 65536 + o))

/-- Detector results of a bucket in LP18 (R372). -/
def StoreRec.results (x : StoreRec) (b : SpeBucket) (ctr : Nat) : List Int :=
  let n := b.incl * x.kf
  b.acc.zipIdx.map fun (a, o) =>
    match x.det with
    | 3 => lpMean a n ctr o
    | 5 => satS 18 (lpMean a n ctr o - b.enbw)
    | 4 => (2 * a + n) / (2 * (max 1 n : Nat))
    | _ => a

/-- R373: average across records; the new averages and the values stored. With AVG_LIN the averages are linear powers
with 192 fraction bits, otherwise codes with 16. -/
def StoreRec.average (x : StoreRec) (avg vals : List Int) (ctr : Nat) : List Int × List Int :=
  if x.avgSh = 0 then (avg, vals) else
  let d := vals.map fun v => if x.avgLin then fxLinear v else v * 65536
  let a := if avg.length = d.length then (avg.zip d).map fun (a, v) => a + narrow (v - a) x.avgSh else d
  let out := a.zipIdx.map fun (v, o) =>
    if x.avgLin then lp18Near v.toNat (2 ^ 192) (Config.lpError (ctr * 65536 + o)) else narrow v 16
  (a, out)

/-- Two LP18 values of bins in one cell as R376 stores them, with the higher-ranking tag. -/
def storePairs : List (Int × BitVec 4) → List Cell
  | (a, s) :: (b, t) :: r => Cell.ofHalves (4 * lp16 a) (4 * lp16 b) (tagMax s t) :: storePairs r
  | _ => []

/-- R371, R374, R376, R377: write the bucket of the STORE output and start a new one. A bucket cut short is written only if
it holds a spectrum; a full one without any carries GAP and −131,072 throughout. -/
def State.closeBucket (s : State) (p : Nat) (cut : Bool) : State :=
  let d := s.dev
  let e := d.eng p
  let b := e.bucket
  let s := s.onDev fun d => d.onEng p fun e => { e with bucket := {} }
  match d.rec? (speUnit p) 3 with
  | none => s
  | some c =>
    let x := StoreRec.of c
    if b.n = 0 ∨ (cut ∧ b.incl = 0) ∨ !x.en ∨ e.storeStopped then s else
    let outs := List.range x.bins
    let head := specHeader b.time b.seq (if x.det = 6 then b.exp else 0) x.det (speUnit p) b.flags
    let (avg, vals, tags) :=
      if b.incl = 0 then (e.avg, outs.map fun _ => (-131072 : Int), outs.map fun _ => tagGap)
      else if x.det = 6 then (e.avg, [], b.tags)
      else let (a, v) := x.average e.avg (x.results b d.freeCtr) (d.freeCtr + 1); (a, v, b.tags)
    let body := if x.det = 6 then
        outs.map fun o => ({ data := (b.cells[o]?).getD (Cell.ofHalves (-131072) (-131072)).data, tag := (tags[o]?).getD tagGap } : Cell)
      else storePairs (vals.zip tags)
    let bytes := c64Bytes head ++ if x.det = 6 then c40Bytes body else (vals.map fun v => leBytes 2 (lp16 v % 65536).toNat).flatten
    let s := s.onDev fun d => (d.freed.freed).onEng p fun e => { e with avg }
    let (s, r) := s.ringPut e.storeOwner x.dest (head ++ body) bytes
    s.onDev fun d => d.speRingEnd p false e.storeOwner r

/-- R364: the STORE record commits at the end of the bucket. -/
def State.storeBoundary (s : State) (p : Nat) : State :=
  if ((s.dev.unit (speUnit p)).shadow.any fun r => r.typ == 3) then
    -- FRAME, WINLOAD and SYNC keep waiting for a window start
    let u := speUnit p
    let (rest, d) := s.dev.takeShadow u fun r => r.typ != 3
    let x := d.speCommit p true false
    { s with dev := x.d.onUnit u fun i => { i with shadow := rest ++ i.shadow } }
  else s

/-! Integration. -/

/-- Bins of R375: t = P × 2^(44 − XA), narrowed. -/
def Spectrum.term (x : Spectrum) (b : Cx) (xa : Nat) : Nat :=
  let (n, d) := x.power b
  (2 * n * 2 ^ 44 + d * 2 ^ xa) / (2 * d * 2 ^ xa)

def IntegRec.take (x : IntegRec) (g : SpeInteg) (s : Spectrum) : SpeInteg :=
  let g := { g with n := g.n + 1, seq := if g.incl = 0 then s.seq else g.seq, time := if g.n = 0 then s.time else g.time }
  if fld s.flags 0 3 &&& x.skip ≠ 0 ∨ s.lp.length < x.lo + x.cnt then g else
  let first := g.incl = 0
  let (xa, acc) := if g.acc.any fun v => 2 ^ 47 ≤ v then (g.xa + 1, g.acc.map fun v => (v + 1) / 2) else (g.xa, g.acc)
  let ys := (s.y.drop x.lo).take x.cnt
  { g with
    incl := g.incl + 1, seq := s.seq, time := if first then s.time else g.time, flags := g.flags ||| s.flags, xa
    acc := ys.zipIdx.map fun (b, o) => (acc[o]?).getD 0 + s.term b xa
    tags := ys.zipIdx.map fun (b, o) =>
      tagMax ((g.tags[o]?).getD tagValid) (tagMax (flagsTag s.flags) (if b.bad then tagOverrange else tagValid)) }

/-- The end of an integration: its record. -/
def State.closeInteg (s : State) (p : Nat) : State :=
  let e := s.dev.eng p
  let g := e.integ
  let s := s.onDev fun d => d.onEng p fun e => { e with integ := {} }
  match s.dev.rec? (speUnit p) 4 with
  | none => s
  | some c =>
    let x := IntegRec.of c
    if g.n = 0 ∨ !x.en ∨ e.integStopped then s else
    let head := specHeader g.time g.seq ((g.xa : Int) - 32) 7 (speUnit p) g.flags
    let count : Cell := { data := BitVec.ofNat 36 g.incl }
    let body := count :: (List.range x.cnt).map fun o =>
      ({ data := BitVec.ofNat 36 (min ((((g.acc[o]?).getD 0) + 2 ^ 11) / 2 ^ 12) (2 ^ 36 - 1))
         tag := if g.incl = 0 then tagGap else (g.tags[o]?).getD tagValid } : Cell)
    let (s, r) := s.ringPut e.integOwner x.dest (head ++ body) (c64Bytes (head ++ body))
    s.onDev fun d => d.speRingEnd p true e.integOwner r

def State.integBoundary (s : State) (p : Nat) : State :=
  if ((s.dev.unit (speUnit p)).shadow.any fun r => r.typ == 4) then
    let u := speUnit p
    let (rest, d) := s.dev.takeShadow u fun r => r.typ != 4
    let x := d.speCommit p false true
    { s with dev := x.d.onUnit u fun i => { i with shadow := rest ++ i.shadow } }
  else s

/-! Emission. -/

/-- The outputs of an engine take a spectrum. -/
def State.speStore (s : State) (p : Nat) (x : Spectrum) : State :=
  let s := match s.dev.rec? (speUnit p) 3 with
    | none => s
    | some c =>
      let q := StoreRec.of c
      if !q.en then s else
      let e := s.dev.eng p
      let b := q.take (if e.bucket.n = 0 then { e.bucket with enbw := e.enbw } else e.bucket) x
      let s := s.onDev fun d => d.onEng p fun e => { e with bucket := b }
      if b.n ≥ q.kt then (s.closeBucket p false).storeBoundary p else s
  match s.dev.rec? (speUnit p) 4 with
  | none => s
  | some c =>
    let q := IntegRec.of c
    if !q.en then s else
    let g := q.take (s.dev.eng p).integ x
    let s := s.onDev fun d => d.onEng p fun e => { e with integ := g }
    if g.n ≥ q.count then (s.closeInteg p).integBoundary p else s

/-- The next full-rate spectrum of an engine (R361, R362, R357). -/
def Dev.speEmit (d : Dev) (p : Nat) : Option (Spectrum × Dev) :=
  match (d.eng p).done with
  | [] => none
  | x :: rest =>
    let sp := x.spectrum d.freeCtr
    let d := d.freed.onEng p fun e => { e with done := rest, lastSeq := sp.seq }
    some (sp, if sp.y.any (·.bad) then (d.onEng p fun e => { e with sat := sat32 e.sat }).speErr p 0 0 else d)

/-- Samples of a port's streams, with their selectors and the targets they reach. A commit that restarts the grid closes
the bucket (R374). -/
def State.speInput (s : State) (p : Nat) (xs : List (Nat × SpeSmp × (Stamp → Bool))) : State :=
  xs.foldl (fun s (sel, x, at_) =>
    let (d, cut) := s.dev.speSample p sel x at_
    if cut then ((({ s with dev := d } : State).closeBucket p true).storeBoundary p).onDev fun d => d.onEng p fun e => { e with avg := [] }
    else { s with dev := d }) s

/-- A sample by its rounded time (R329). -/
def SpeSmp.reaches (x : SpeSmp) (T : Stamp) : Bool := decide (0 ≤ stampDiff x.time T)

/-- R66, R71: the input queue of an engine resets. The engine takes each beat as it comes, so no cell is lost. -/
def Dev.speQueueReset (d : Dev) (p : Nat) : Dev := d.onEng p fun e => { e with gapNext := true, err := setBit e.err 1 true }

/-- A cell written to the input queue of an engine, which takes it at once. -/
def State.speWrite (s : State) (p : Nat) (c : QCell) : State :=
  let sel := (s.dev.frame p).insel
  let smp := fun (x : CSmp) => let v : SpeSmp := { x, time := c.time, tick := s.dev.now }; (sel, v, v.reaches)
  s.speInput p (if s.dev.realInput p sel then [smp { i := c.cell.hi, tag := c.cell.tag }, smp { i := c.cell.lo, tag := c.cell.tag }]
    else [smp { i := c.cell.hi, q := c.cell.lo, tag := c.cell.tag }])

/-- R364: a stopped engine commits at the next tick; an output that is on closes its bucket first. -/
def State.speCommitStopped (s : State) (p : Nat) : State :=
  if !(s.dev.eng p).grids.isEmpty ∨ !s.dev.speWaits p then s else
  let s := if (s.dev.unit (speUnit p)).shadow.any fun r => r.typ == 3 then s.closeBucket p true else s
  let s := if (s.dev.unit (speUnit p)).shadow.any fun r => r.typ == 4 then s.closeInteg p else s
  let x := s.dev.speCommit p true true
  if x.restart then (({ s with dev := x.d } : State).closeBucket p true).onDev fun d => d.onEng p fun e => { e with avg := [] }
  else { s with dev := x.d }

/-- A write of SPE_WIN_DATA (R353): the entry at INDEX, which then increments. INDEX names entries 0 to 32,768. -/
def execSpeWinData (port : Fin 4) (coef : BitVec 18) (s : State) : Outcome :=
  hostStep s fun d => d.onEng port fun e =>
    { e with
      winShadow := if e.winPtr.toNat ≤ 32768 then Tbl.put 0 e.winShadow e.winPtr.toNat coef else e.winShadow
      winPtr := e.winPtr + 1 }

end Sys2Proof.Machine
end

