-- ==== Sys2Proof/Machine/Xsp.lean ====
section
/-!
DEFINITION. The cross-spectrum unit (R383 to R387).
-/
namespace Sys2Proof.Machine

structure PairRec where
  pair : Nat
  en : Bool
  k : Nat
  skip : Nat
  lo : Nat
  cnt : Nat
  dest : Dest
  ok : Bool
deriving DecidableEq, Repr

def PairRec.of (c : List (BitVec 36)) : PairRec :=
  let a := cellOf c 0
  let b := cellOf c 1
  let (dest, ok) := destOf (cellOf c 2) (cellOf c 3) (cellOf c 4)
  { pair := fld a 0 3, en := bit a 3, k := fld a 4 8 + 1, skip := fld a 12 3, lo := fld b 0 16, cnt := fld b 16 16 + 1, dest
    ok := ok && fld a 15 21 == 0 && fld b 32 4 == 0 && decide (fld a 0 3 ≤ 5) }

def Dev.xpair (d : Dev) (i : Nat) : XPair := Tbl.get {} d.xsp.pairs i
def Dev.onXpair (d : Dev) (i : Nat) (f : XPair → XPair) : Dev := { d with xsp := { d.xsp with pairs := Tbl.upd {} d.xsp.pairs i f } }

/-- The committed pairs with one replaced. -/
def Dev.pairsWith (d : Dev) (x : PairRec) : List PairRec :=
  (List.range 6).filterMap fun i => if i = x.pair then some x else (d.rec? xspUnit 1 i).map PairRec.of

/-- Load of an enabled pair in kHz bin-products (R38). -/
def Dev.pairLoad (d : Dev) (x : PairRec) : Frac :=
  let p := (pairEngines x.pair).1
  let f := d.frame p
  match d.fsc p f.insel with
  | some r => if x.en then (r.1 * 2 ^ f.ovl, r.2 * x.k) else (0, 1)
  | none => (0, 1)

/-- XSP_LOAD: in units of 10 M bin-products/s, rounded up. -/
def Dev.xspLoad (d : Dev) : Nat :=
  let (a, b) := fracSum ((List.range 6).filterMap fun i => (d.rec? xspUnit 1 i).map fun c => d.pairLoad (PairRec.of c))
  cdiv a (b * 10000)

/-- Twice the bytes per second of a pair's records, in kHz (R382, R387). -/
def Dev.pairBytes (d : Dev) (x : PairRec) : Frac :=
  let p := (pairEngines x.pair).1
  let r := d.specRate p (d.frame p)
  if x.en then (r.1 * recSize2 x.dest.kind 8 x.cnt, r.2 * x.k) else (0, 1)

/-- R383: which pairs bonding leaves. -/
def Dev.pairAllowed (d : Dev) (i : Nat) : Bool :=
  match d.bonded 0, d.bonded 2 with
  | false, false => true
  | true, true => i == 1
  | _, _ => false

/-- R38, R383, R384: an enabled pair suits its engines; an engine without a LINK has no rate yet. -/
def Dev.pairFits (d : Dev) (x : PairRec) : Bool :=
  let (i, j) := pairEngines x.pair
  let a := d.frame i
  let b := d.frame j
  let rates := match d.fsc i a.insel, d.fsc j b.insel with
    | some r, some s => r.eq s && d.realInput i a.insel == d.realInput j b.insel
    | _, _ => true
  d.pairAllowed x.pair && decide (x.lo + x.cnt ≤ a.p) && rates &&
    a.insel == b.insel && a.size == b.size && a.win == b.win && a.ovl == b.ovl && (d.eng i).table == (d.eng j).table

/-- R38, R382: the loads of the pairs together. -/
def Dev.pairLoadsOk (d : Dev) (l : List PairRec) : Bool :=
  (fracSum (l.map d.pairLoad)).le (81920000, 1) && (fracSum (l.map d.pairBytes)).le (16000000, 1)

/-- R382 to R384, R387, R392. -/
def Dev.pairOk (d : Dev) (r : Shadow) : Bool :=
  let x := PairRec.of r.cells
  x.ok && (!x.en || (d.pairFits x && x.cnt % 2 == 0 && d.pairLoadsOk (d.pairsWith x) &&
    d.destOk r.origin x.dest (recCells 8 x.cnt) (recBytes 8 x.cnt)))

/-- The committed pairs. -/
def Dev.pairs (d : Dev) : List PairRec := (List.range 6).filterMap fun i => (d.rec? xspUnit 1 i).map PairRec.of

def xspLen (typ : Nat) (_ : List (BitVec 36)) : Option Nat := if typ = 1 then some 5 else none

/-- R394: a Cellar DEST needs a program. -/
def Dev.xspCheck (_d : Dev) (r : Shadow) : Except Status Unit := need (r.origin.isSome || fld (cellOf r.cells 2) 0 2 != 2)

/-- R387: the record of a pair commits at the start of its next group, or while it is disabled. -/
def Dev.xspCommit (d : Dev) : Dev :=
  let (rs, d) := d.takeShadow xspUnit fun r =>
    let i := fld (cellOf r.cells 0) 0 3
    !d.pairOn i || (d.xpair i).n == 0
  rs.foldl (fun d r =>
    if !d.pairOk r then d.rejectRec xspUnit r .cfgRange else
    let x := PairRec.of r.cells
    let d := (d.setRec xspUnit 1 x.pair r.cells).onXpair x.pair fun y =>
      { y with n := 0, incl := 0, acc := [], tags := [], flags := 0, owner := d.originSession r.origin, stopped := y.stopped && !x.en
               lo := if x.en then y.lo else [], hi := if x.en then y.hi else [] }
    d.decideRec xspUnit r .ok) d

/-- A spectrum of an engine goes to the enabled pairs that use it. -/
def Dev.xspTake (d : Dev) (p : Nat) (x : Spectrum) : Dev :=
  if !d.paired p then d else
  let (bins, exp) := x.complex
  let v : XSpec := { seq := x.seq, time := x.time, flags := x.flags, exp, bins, bad := x.y.map (·.bad) }
  (List.range 6).foldl (fun d i =>
    if !d.pairOn i then d
    else if (pairEngines i).1 = p then d.onXpair i fun y => { y with lo := y.lo ++ [v] }
    else if (pairEngines i).2 = p then d.onXpair i fun y => { y with hi := y.hi ++ [v] }
    else d) d

/-- Set a bit of XSP_ERR; its rise writes a record (R859). -/
def Dev.xspErr (d : Dev) (b sev : Nat) (code : Status := .ok) (detail : Nat := 0) (session : Nat := 0) : Dev :=
  let d := if bit d.xsp.err b then d else
    d.log { code, sev, domain := domXsp, src := BitVec.ofNat 8 xspUnit, cause := b, detail, session }
  { d with xsp := { d.xsp with err := setBit d.xsp.err b true } }

/-- X_i conj(X_j) of two C36 bins, over 2^34 (R386). -/
def crossBin (a b : BitVec 36) (e : Nat) : Int × Int :=
  let x : Cell := { data := a }
  let y : Cell := { data := b }
  ((x.hi * y.hi + x.lo * y.lo) * 2 ^ e, (x.lo * y.hi - x.hi * y.lo) * 2 ^ e)

/-- A matched pair of spectra joins the open group (R386, R387). -/
def XPair.join (y : XPair) (x : PairRec) (a b : XSpec) : XPair :=
  let y := { y with n := y.n + 1 }
  if (fld a.flags 0 3 ||| fld b.flags 0 3) &&& x.skip ≠ 0 then y else
  let at_ := fun k => x.lo + k
  let t := tagMax (flagsTag a.flags) (flagsTag b.flags)
  { y with
    incl := y.incl + 1, flags := y.flags ||| a.flags ||| b.flags
    acc := (List.range x.cnt).map fun k =>
      let (u, v) := crossBin ((a.bins[at_ k]?).getD 0) ((b.bins[at_ k]?).getD 0) (a.exp + b.exp)
      let (c, d) := (y.acc[k]?).getD (0, 0)
      (c + u, d + v)
    tags := (List.range x.cnt).map fun k =>
      let bad := (a.bad[at_ k]?).getD false || (b.bad[at_ k]?).getD false
      tagMax ((y.tags[k]?).getD tagValid) (tagMax t (if bad then tagOverrange else tagValid)) }

/-- The mean of a sum over 2^34 and n products, in units of 2^(E − 17). -/
def crossMean (v : Int) (n e : Nat) : Int := roundDiv v (2 ^ 17 * n * 2 ^ e)

/-- The exponent of a record's means, as in R358. -/
def crossExp (acc : List (Int × Int)) (n : Nat) : Nat :=
  ((List.range 160).find? fun e => acc.all fun (a, b) =>
    satS 18 (crossMean a n e) == crossMean a n e && satS 18 (crossMean b n e) == crossMean b n e).getD 160

/-- The group of a pair is complete: its record (R386, R387). `a` is the lower engine's last spectrum. -/
def State.closeGroup (s : State) (i : Nat) (x : PairRec) (a : XSpec) : State :=
  let y := s.dev.xpair i
  let s := s.onDev fun d => d.onXpair i fun y => { y with n := 0, incl := 0, acc := [], tags := [], flags := 0 }
  if y.stopped then s else
  let e := if y.incl = 0 then 0 else crossExp y.acc y.incl
  let head := specHeader a.time a.seq e 8 xspUnit y.flags
  let body := (List.range x.cnt).map fun k =>
    if y.incl = 0 then ({ data := 0, tag := tagGap } : Cell) else
    let (u, v) := (y.acc[k]?).getD (0, 0)
    Cell.ofHalves (satS 18 (crossMean u y.incl e)) (satS 18 (crossMean v y.incl e)) ((y.tags[k]?).getD tagValid)
  let (s, r) := s.ringPut y.owner x.dest (head ++ body) (c64Bytes head ++ c40Bytes body)
  match r with
  | .written => s
  | .full => s.onDev fun d => d.xspErr 0 2 (detail := i)
  | .fault => s.onDev fun d =>
    let d := d.onXpair i fun y => { y with stopped := true }
    let d : Dev := { d with xsp := { d.xsp with err := setBit d.xsp.err 1 true } }
    d.log { code := .grantFault, sev := 2, domain := domXsp, src := BitVec.ofNat 8 xspUnit, cause := 1, session := y.owner, detail := i }

/-- R385: two times differ by less than H / 2 input samples of rate r (kHz). -/
def matched (a b : Stamp) (h : Nat) (r : Frac) : Bool :=
  decide ((stampDiff a b).natAbs * 2 * r.1 < h * 524288000 * r.2)

/-- R385 to R387: one decision of a pair: the oldest two spectra match, or the older one has no partner. -/
def State.crossMatch (s : State) (i : Nat) : State :=
  let y := s.dev.xpair i
  match y.lo, y.hi, s.dev.rec? xspUnit 1 i with
  | a :: lo, b :: hi, some c =>
    let x := PairRec.of c
    let p := (pairEngines i).1
    let f := s.dev.frame p
    let h := f.h (s.dev.realInput p f.insel)
    if matched a.time b.time h ((s.dev.sampleRate p f.insel).getD (0, 1)) then
      let s := s.onDev fun d => d.onXpair i fun y => { y.join x a b with lo, hi }
      if (s.dev.xpair i).n ≥ x.k then (s.closeGroup i x a).onDev Dev.xspCommit else s
    else
      let old := stampDiff a.time b.time < 0
      s.onDev fun d => d.onXpair i fun y =>
        { y with lo := if old then lo else y.lo, hi := if old then y.hi else hi, unpaired := BitVec.ofNat 16 (satInc 16 y.unpaired.toNat) }
  | _, _, _ => s

def execCrossSpectrumMatch (pair : Fin 6) (s : State) : Outcome := .next (s.crossMatch pair)

end Sys2Proof.Machine
end

