-- ==== Sys2Proof/Machine/Limits.lean ====
section
/-!
DEFINITION. The cross-block limits on rates, lanes and spectral work (R37 to R40), and the records of channelisers and ports
that must keep them as they commit (R265, R339, R340, R860).
-/
namespace Sys2Proof.Machine

/-- R38, R40: the committed settings keep the limits that the stream of port p bears on. -/
def Dev.limitsOk (d : Dev) (p : Nat) : Bool :=
  let f := d.frame p
  let com := fun typ => (d.rec? (speUnit p) typ).map fun c => ({ cells := c, origin := none, old := true } : OutRec)
  let on := d.pairs.filter (·.en)
  (!d.bonded p || (d.wbRec? p).all fun w => decide (2 ≤ w.k)) && (d.rec? (speUnit p) 1).all (d.frameOk p) &&
    d.outLoadOk p f (com 3) (com 4) && d.denLoadOk p f none && on.all d.pairFits && d.pairLoadsOk on

/-! Channeliser records (R340). -/

/-- The channeliser's records with one more committed. -/
def Dev.withChn (d : Dev) (p : Nat) (r : Shadow) : Dev :=
  let u := chnUnit p
  match r.typ with
  | 2 => (nbGroups r.cells).foldl (fun d (c, g) => d.setRec u 2 c g) d
  | 3 => d.setRec u 3 (fld (cellOf r.cells 0) 0 3) r.cells
  | t => d.setRec u t 0 r.cells

/-- Commit one record, with what R323 and R331 attach to a change. -/
def Dev.chnCommit1 (d : Dev) (p : Nat) (r : Shadow) : Dev :=
  let u := chnUnit p
  match d.chnCheck p r, (d.withChn p r).limitsOk p with
  | .error st, _ => d.rejectRec u r st
  | .ok _, false => d.rejectRec u r .cfgRange
  | .ok _, true =>
    let d1 := d.decideRec u r .ok
    match r.typ with
    | 1 =>
      let old := d.wbRec? p
      let w := WbRec.of r.cells
      let d1 := d1.setRec u 1 0 r.cells
      let kChanged := old.all fun o => o.k != w.k
      -- the bank's enable is each of its channels' (log entry 100)
      let bankOn := w.nbEn && old.all fun o => !o.nbEn
      let enChanged := old.all fun o => o.wbEn != w.wbEn
      let d1 := if kChanged ∨ enChanged ∨ old.all (fun o => o.rstep != w.rstep) then
        d1.onChan p fun g => { g with wb := g.wb.settleFor w.s } else d1
      let d1 := if kChanged ∨ enChanged then d1.onChan p fun g => { g with wb := { g.wb with cSettle := 8 } } else d1
      if kChanged ∨ bankOn then
        (d1.nbEnabled p).foldl (fun d (c, _) => d.onChan p fun g => g.onCh c fun y => { y with cSettle := 8 }) (d1.settleChans p)
      else d1
    | 2 => (nbGroups r.cells).foldl (fun d1 (c, g) =>
        let old := d.nbRec? p c
        let x := NbRec.of g
        let d1 := d1.setRec u 2 c g
        let same := old.any fun o => o.dc == x.dc && o.fdec == x.fdec && o.set_ == x.set_ && o.rstep == x.rstep && o.en == x.en
        let d1 := if same then d1 else d1.onChan p fun h => h.onCh c fun y => y.settleFor (x.s ((d.firLen? p x.set_).getD 7))
        if old.any fun o => o.dc == x.dc && o.en == x.en then d1 else d1.onChan p fun h => h.onCh c fun y => { y with cSettle := 8 }) d1
    | 3 =>
      let s := fld (cellOf r.cells 0) 0 3
      let d2 := d1.setRec u 3 s r.cells
      if d.rec? u 3 s = some r.cells then d2 else d2.settleChans p fun x => x.set_ == s
    | 4 => (d1.setRec u 4 0 r.cells).onChan p fun g => { g with smode := fld (cellOf r.cells 0) 0 2, shot := false }
    | _ => d1.setRec u 5 0 r.cells

/-- R340: the waiting records commit at a beat of the port. -/
def Dev.chnCommit (d : Dev) (p : Nat) : Dev :=
  let (rs, d) := d.takeShadow (chnUnit p) fun _ => true
  rs.foldl (fun d r => d.chnCommit1 p r) d

/-! Records of a port (R248, R860). -/

/-- R39, R248, R398, R483: a pair forms, and the units of its upper port reject what waits there. -/
def Dev.rejectUpper (d : Dev) (p : Nat) : Dev :=
  [p, 0x08 + p, 0x10 + p, 0x18 + p, 0x20 + p].foldl (fun d u =>
    let (rs, d) := d.takeShadow u fun x => u != p || x.typ != 2
    rs.foldl (fun d r => d.rejectRec u r .cfgRange) d) d

/-- R860: the records waiting and committed, checked together in order at the start of a port. -/
def Dev.startRecords (d : Dev) (p : Nat) : Dev :=
  let was := d.link? p
  let (ls, d) := d.takeShadow p fun x => x.typ == 1
  let sync? := fun d : Dev => match d.waiting? p 3 with
    | some r => if syncOk r.cells then some r.cells else d.rec? p 3
    | none => d.rec? p 3
  let d := ls.foldl (fun d r =>
    let k := Link.of r.cells
    let lemc := (sync? d).all fun c => lemcOk k (fld (cellOf c 1) 0 16)
    let ok := linkOk p r.cells && lemc && (!k.bond || d.pairIdle p) && (d.setRec p 1 0 r.cells).limitsOk p
    -- R234: a new LINK returns a port, or a pair, to all its lanes
    let d := if ok then (k.ports p).foldl (fun d q => d.onPort q fun g => { g with fallen := false }) d else d
    d.settle p r 0 (need ok)) d
  let d := if d.upperPort (p + 1) then d.rejectUpper (p + 1) else d
  let (ms, d) := d.takeShadow p fun x => x.typ == 2
  let d := ms.foldl (fun d r =>
    let ok := (d.link? p).any fun k => lanemapOk (d.port p) k.l r.cells
    -- a new map names a spare anew (R291)
    (if ok then d.onPort p fun g => { g with noSpare := false } else d).settle p r 0 (need ok)) d
  let (ss, d) := d.takeShadow p fun x => x.typ == 3
  let d := ss.foldl (fun d r => d.settle p r 0
    (need (syncOk r.cells && (d.link? p).all fun k => lemcOk k (fld (cellOf r.cells 1) 0 16)))) d
  -- a correction table made for another K, CPLX or BOND is discarded
  match was, d.link? p with
  | some o, some k => if o.k = k.k ∧ o.cplx = k.cplx ∧ o.bond = k.bond then d else d.dropRec p 4 0
  | _, _ => d

/-- R261, R860: EN written 1. -/
def Dev.portStart (d : Dev) (p : Nat) : Dev :=
  if (d.port p).st ≠ .idle ∨ d.rel.devFault then d else
  let d := d.startRecords p
  match d.link? p with
  | none => (d.onPort p fun g => { g with en := false }).note .cfgRange (d.portDom p) (BitVec.ofNat 8 p)
  | some _ =>
    let map := d.startMap p
    let perm := if (d.port p).fallen then none else d.replaced? p
    let d := d.onPort p fun g =>
      { g with
        en := true, st := .pllWait, n := 0, beat := 0, emb0 := 0, srSeen := false, map
        sparePerm := perm.isSome, spareFor := perm.map (·.1) }
    d.sendCode p (d.port p).restCode

end Sys2Proof.Machine
end

