-- ==== Sys2Proof/Machine/TrgCond.lean ====
section
/-!
DEFINITION. Trigger units: records and their checks (R400, R406, R422, R431, R436, R442, R448, R449), envelopes (R401 to
R403), thresholds and conditions (R404 to R423), latencies (R441 to R446).
-/
namespace Sys2Proof.Machine

/-- The condition evaluates an envelope. -/
def CondRec.onEnv (x : CondRec) : Bool := 2 ≤ x.typ && x.typ ≤ 6

/-- R406, R411, R414, R416, R422, R449: the fields of a COND of a port. -/
def condOk (p : Nat) (c : List (BitVec 36)) : Bool :=
  let a := cellOf c 0
  let b := cellOf c 1
  let x := cellOf c 2
  let y := cellOf c 3
  let r := CondRec.of c
  fld a 27 9 == 0 &&
  match fld a 4 4 with
  | 0 => b == 0 && x == 0 && y == 0
  | 1 => fld b 32 4 == 0 && fld x 32 4 == 0 && fld y 16 20 == 0 && decide (r.minBins ≤ r.cnt) && decide (1 ≤ r.minDur) && decide (r.mbase + r.cnt ≤ 65536)
  | 7 => fld b 11 25 == 0 && x == 0 && y == 0 && decide (r.pin ≤ 2)
  | 8 => b == 0 && x == 0 && y == 0 && (r.mode == 0 || r.mode == 3)
  | 9 => fld b 12 24 == 0 && x == 0 && y == 0 && r.mode == 0 && !(decide (r.evid.toNat / 256 = 0) && decide (r.evid.toNat / 16 = p))
  | n => decide (n ≤ 6) && fld x 32 4 == 0 && fld y 32 4 == 0 && decide (r.w1 ≤ r.w2) &&
      ((n != 4 && n != 6) || decide (r.thr2 < r.thr)) && ((n != 4 && n != 5) || decide (r.mode ≤ 2))

/-! ENV, UNIT, OUT. -/

structure EnvRec where
  en : Bool
  sel : Nat
  esh : Nat
deriving DecidableEq, Repr

def EnvRec.of (c : List (BitVec 36)) (e : Nat) : EnvRec :=
  let a := cellOf c 0
  { en := bit a (18 * e), sel := fld a (18 * e + 1) 8, esh := fld a (18 * e + 9) 4 }

def Dev.envRec (d : Dev) (p e : Nat) : EnvRec := EnvRec.of ((d.rec? (trgUnit p) 4).getD []) e

def envOk (c : List (BitVec 36)) : Bool :=
  fld (cellOf c 0) 13 5 == 0 && fld (cellOf c 0) 31 5 == 0 &&
  [0, 1].all fun e => let r := EnvRec.of c e; engineSel r.sel && decide (r.esh ≤ 8)

structure UnitRec where
  en : Bool
  seq : Bool
  rearm : Bool
  aMask : BitVec 4
  bMask : BitVec 4
  hMode : Nat
  hev : BitVec 12
  win : Nat
  hold : Nat
deriving DecidableEq, Repr

def UnitRec.of (c : List (BitVec 36)) : UnitRec :=
  let a := cellOf c 0
  { en := bit a 0, seq := bit a 1, rearm := bit a 2, aMask := BitVec.ofNat 4 (fld a 3 4), bMask := BitVec.ofNat 4 (fld a 7 4)
    hMode := fld a 11 2, hev := BitVec.ofNat 12 (fld a 13 12), win := fld (cellOf c 1) 0 32, hold := fld (cellOf c 2) 0 32 }

def Dev.unitRec (d : Dev) (p : Nat) : UnitRec := UnitRec.of ((d.rec? (trgUnit p) 1).getD [])

def unitOk (p : Nat) (c : List (BitVec 36)) : Bool :=
  let r := UnitRec.of c
  fld (cellOf c 0) 25 11 == 0 && fld (cellOf c 1) 32 4 == 0 && fld (cellOf c 2) 32 4 == 0 && decide (r.hMode ≤ 2) &&
  decide (1 ≤ r.win) && decide (1 ≤ r.hold) && r.hev.toNat != p * 16 + 13 && r.hev.toNat != p * 16 + 14

structure OutCfg where
  oen : Bool
  omode : Bool
  pol : Bool
  instr : Bool
  owid : Nat
  odly : Nat
deriving DecidableEq, Repr

def OutCfg.of (c : List (BitVec 36)) : OutCfg :=
  let a := cellOf c 0
  { oen := bit a 0, omode := bit a 1, pol := bit a 2, instr := bit a 3, owid := fld a 4 16, odly := fld (cellOf c 1) 0 32 }

def Dev.outRec (d : Dev) (p : Nat) : OutCfg := OutCfg.of ((d.rec? (trgUnit p) 6).getD [])

/-! Latencies (R441, R442, R444, R446). -/

/-- L_chn + G of a channeliser output, in port clocks; 0 where its path is not set up. -/
def Dev.chnDelay (d : Dev) (p sel : Nat) : Nat :=
  match d.link? p, d.wbRec? p with
  | some k, some w =>
    if sel = 0 then 0
    else if sel = 1 then 6 + 3 * w.k + 6 * (resampOn w.rstep).toNat + cdiv (w.gd * k.fs) (20 * k.f0)
    else match d.nbRec? p (sel - 0x40) with
      | some x => 19 + 3 * w.k + 6 * (resampOn x.rstep).toNat + cdiv (x.gd ((d.firLen? p x.set_).getD 7) * 2 ^ w.k * k.fs) (20 * k.f0)
      | none => 0
  | _, _ => 0

/-- L_full of a port's engine (R389), 0 before a FRAME. -/
def Dev.lFull (d : Dev) (p : Nat) : Nat :=
  let f := d.frame p
  if f.size < 5 then 0 else f.lFull (d.realInput p f.insel) (d.bonded p)

/-- λ of a condition. -/
def Dev.lambda (d : Dev) (p : Nat) (x : CondRec) (env : Nat → EnvRec) : Nat :=
  match x.typ with
  | 0 => 0
  | 1 => cdiv ((d.lFull p + 6) * (d.link? p).elim 0 (·.fs)) 20480000 + 3 + d.chnDelay p (d.frame p).insel
  | 7 => 2 | 8 => 2 | 9 => 2
  | _ => 11 + d.chnDelay p (env x.env).sel

/-- ALIGN over the conditions as they would stand. -/
def Dev.alignWith (d : Dev) (p : Nat) (cond : Nat → CondRec) (env : Nat → EnvRec) : Nat :=
  (List.range 8).foldl (fun a c => max a (d.lambda p (cond c) env)) 2

def Dev.align (d : Dev) (p : Nat) : Nat := d.alignWith p (d.condRec p) (d.envRec p)

/-- SRC in port clocks (R444). -/
def Dev.srcClocks (d : Dev) (p : Nat) : Nat := d.align p + 3 + cdiv (17 * (d.link? p).elim 0 (·.fs)) 20480000

/-- The total of R258: real 12, complex 9, bonded 14 port clocks. -/
def Link.latency (k : Link) : Nat := if k.bond then 14 else if k.cplx then 9 else 12

/-- MIN_ODLY in ticks (R446). -/
def Dev.minOdly (d : Dev) (p : Nat) : Int :=
  match d.link? p with
  | none => 0
  | some k => (cdiv ((k.latency + d.align p + 3) * 20480000) k.fs : Nat) + 9 - (-(d.port p).tsOffset.toInt) / 256

/-! Lengths and checks. -/

def trgLen (typ : Nat) (c : List (BitVec 36)) : Option Nat :=
  match typ with
  | 1 => some 3 | 2 => some 2 | 3 => some 4 | 4 => some 1 | 6 => some 2 | 7 => some 3 | 8 => some 1
  | 5 => some (if bit (cellOf c 0) 33 then 1 else 1 + fld (cellOf c 0) 16 17)
  | _ => none

/-- R398, R442, R449: the check of a record as it is written. -/
def Dev.trgCheck (d : Dev) (p : Nat) (r : Shadow) : Except Status Unit := do
  need (!d.upperPort p)
  let c := r.cells
  let a := cellOf c 0
  match r.typ with
  | 1 => need (unitOk p c)
  | 2 => need (fld a 32 4 == 0 && fld (cellOf c 1) 32 4 == 0)
  | 3 =>
    let i := fld a 0 3
    need (condOk p c && decide (d.alignWith p (fun j => if j = i then CondRec.of c else d.condRec p j) (d.envRec p) ≤ 16383))
  | 4 => need (envOk c && decide (d.alignWith p (d.condRec p) (EnvRec.of c) ≤ 16383))
  | 5 => need (fld a 34 2 == 0 && decide (1 ≤ fld a 16 17 ∧ fld a 16 17 ≤ 65536) && (bit a 33 || r.origin.isSome))
  | 6 => need (fld a 20 16 == 0 && fld (cellOf c 1) 32 4 == 0 && decide (1 ≤ fld a 4 16))
  | 7 =>
    let (q, ok) := destOf a (cellOf c 1) (cellOf c 2)
    need (ok && decide (q.kind ≤ 1) && d.destOk r.origin q 8 0)
  | _ => need (fld a 1 35 == 0)

/-! Results on their way to the combiner. -/

/-- Place a result; a level is sent only when it changes. -/
def Trg.place (t : Trg) (c : Nat) (time : Stamp) (level value : Bool) (late : Bool := false) : Trg :=
  if level && (t.cond c).sent == value then t else
  { (if level then t.onCond c fun x => { x with sent := value } else t) with
    results := t.results ++ [{ cond := c, time, level, value, late }] }

/-- R399, R423: a result of a pin, the line or an event, with its reference time. -/
def Dev.placeOuter (d : Dev) (p c : Nat) (time : Stamp) (level value : Bool) : Dev :=
  let count := fun d : Dev => d.onTrig p fun t => { t with lost2 := sat32 t.lost2 }
  if !(d.port p).emits then (count d).trgErr p 5 0 else
  let late := (d.trig p).lastTime.any fun l => 0 ≤ stampDiff l time
  let d := if late then (count d).trgErr p 3 0 else d
  d.onTrig p fun t => t.place c time level value late

/-! Envelopes (R401 to R403). -/

/-- R407: the comparison codes. -/
def compareCode (mode w w1 w2 : Nat) : Bool :=
  match mode with
  | 0 => w < w1
  | 1 => w1 < w
  | 2 => w1 ≤ w && w ≤ w2
  | _ => w < w1 || w2 < w

/-- R404: the next crossing state. -/
def crossing (x : Nat) (e thr : Int) (hys : Nat) : Nat := if thr ≤ e then 2 else if e < thr - hys then 1 else x

/-- R415: a timeout that is due fires. `at_` is the last source sample seen. -/
def Trg.fireTimeout (t : Trg) (c : Nat) (r : CondRec) : Trg :=
  let x := t.cond c
  let v := t.env r.env
  match r.typ, x.crossed with
  | 5, some k =>
    if v.n < k + r.w1 then t else
    let t := t.onCond c fun x => { x with crossed := none }
    if r.mode = 2 ∨ x.x1 = (if r.mode = 0 then 2 else 1) then t.place c v.last false true else t
  | _, _ => t

/-- One envelope sample in a condition (R412 to R417). `n` numbers the source sample. -/
def Trg.envCond (t : Trg) (c : Nat) (r : CondRec) (n : Nat) (time : Stamp) (e : Int) (tag : BitVec 4) : Trg :=
  let skipped := (tag == tagGap && bit (BitVec.ofNat 3 r.skip) 0) || (tag == tagOverrange && bit (BitVec.ofNat 3 r.skip) 1) ||
    (tag == tagSettling && bit (BitVec.ofNat 3 r.skip) 2)
  if skipped then
    -- a level falls with the reset (R405, R407)
    (t.place c time true false).onCond c fun x => { x.reset with sent := false }
  else
  let x := t.cond c
  let x1 := crossing x.x1 e r.thr r.hys
  let x2 := if r.typ = 4 ∨ r.typ = 6 then crossing x.x2 e r.thr2 r.hys else x.x2
  let up1 := x.x1 = 1 ∧ x1 = 2
  let dn1 := x.x1 = 2 ∧ x1 = 1
  let up2 := x.x2 = 1 ∧ x2 = 2
  let dn2 := x.x2 = 2 ∧ x2 = 1
  let y := { x with x1, x2 }
  let set := fun (t : Trg) (y : TrgCond) => t.onCond c fun _ => y
  let pulse := fun (t : Trg) (b : Bool) => if b then t.place c time false true else t
  match r.typ with
  | 2 =>
    match r.mode with
    | 0 => (set t y).place c time true (x1 == 2)
    | 1 => (set t y).place c time true (x1 == 1)
    | 2 => pulse (set t y) (decide up1)
    | _ => pulse (set t y) (decide dn1)
  | 3 =>
    let (op, cl) := if r.pol then (decide dn1, decide up1) else (decide up1, decide dn1)
    match cl, x.opened with
    | true, some k =>
      let w := n - k
      pulse (set t { y with meas := BitVec.ofNat 32 w, opened := none }) (compareCode r.mode w r.w1 r.w2)
    | _, _ => set t (if op then { y with opened := some n } else y)
  | 4 =>
    -- rising passes THR2 before THR, falling THR before THR2
    let hi := if up2 then r.mode != 1 else x.highRunt
    let hi := hi && !decide up1
    let fireLow := x.lowRunt && decide up1
    let lo := if dn1 then r.mode != 0 else x.lowRunt && !decide up1
    let lo := lo && !decide dn2
    let fireHigh := hi && decide dn2
    pulse (set t { y with highRunt := hi && !decide dn2, lowRunt := lo }) (fireLow || fireHigh)
  | 5 =>
    let t := set t { y with crossed := if up1 ∨ dn1 then some n else x.crossed }
    t
  | _ =>
    let (op, cl, cancel) := if r.pol then (decide dn1, decide dn2, decide up1) else (decide up2, decide up1, decide dn2)
    let opened := if cancel then none else if op then some n else x.opened
    match cl, opened with
    | true, some k =>
      let w := n - k
      pulse (set t { y with meas := BitVec.ofNat 32 w, opened := none }) (compareCode r.mode w r.w1 r.w2)
    | _, _ => set t { y with opened }

/-- One source sample of an envelope: its value (R401, R402) and what it does to its conditions. -/
def Dev.envSample (d : Dev) (p e : Nat) (real : Bool) (x : CSmp) (time : Stamp) : Dev :=
  let r := d.envRec p e
  let t := d.trig p
  let v := t.env e
  let conds := (List.range 8).filter fun c => let q := d.condRec p c; q.onEnv && q.env == e
  let t := conds.foldl (fun t c => t.fireTimeout c (d.condRec p c)) t
  let pw := ((x.i * x.i + x.q * x.q) * (if real then 2 else 1)).toNat
  let tag := tagMax x.tag tagValid
  let win := ((pw, tag) :: v.win).take 256
  let span := win.take (2 ^ r.esh)
  let sum := span.foldl (fun a y => a + y.1) 0
  let top := span.foldl (fun a y => tagMax a y.2) (if v.since + 1 < 2 ^ r.esh then tagSettling else tagValid)
  let lp :=
    -- a span that reaches before the stream: its mean is not stated
    if span.length < 2 ^ r.esh then sfld (Config.freeWord (d.freeCtr + e)) 0 18
    else lp18Near sum (2 ^ (34 + r.esh)) (Config.lpError (d.freeCtr + e))
  let n := v.n + 1
  let t := t.setEnv e { n, since := v.since + 1, last := time, win }
  let t := conds.foldl (fun t c => t.envCond c (d.condRec p c) n time lp top) t
  (d.onTrig p fun _ => t).freed

/-! Frequency mask (R408 to R411). -/

/-- The run of a mask condition after a spectrum, and its result. -/
def Dev.maskCond (d : Dev) (p c : Nat) (s : Spectrum) : Dev :=
  let r := d.condRec p c
  let t := d.trig p
  let x := t.cond c
  let run0 := if x.runSeq = some (s.seq - 1) then x.run else 0
  let x := { x with runSeq := some s.seq }
  let short := s.lp.length < r.lo + r.cnt
  if short ∨ fld s.flags 0 3 &&& r.skip ≠ 0 then
    let d := d.onTrig p fun t => let t := t.onCond c fun _ => { x with run := 0 }; if r.mode < 2 then t.place c s.last true false else t
    if short then d.trgErr p 4 0 else d
  else
  let hits := (((s.lp.drop r.lo).take r.cnt).zipIdx.filter fun (v, i) =>
    let m := Tbl.get 0 t.mask (r.mbase + i)
    decide (4 * sfld m 18 18 < v) || decide (v < 4 * sfld m 0 18)).length
  let viol := decide (r.minBins ≤ hits)
  let run := if run0 ≠ 0 ∧ x.runIn = viol then run0 + 1 else 1
  let qual := if r.minDur ≤ run then some viol else x.qual
  let y := { x with run, runIn := viol, qual, meas := BitVec.ofNat 32 run }
  match r.mode with
  | 0 | 1 =>
    let v := qual == some (r.mode == 0)
    let y := if v && !y.sent then { y with sseq := s.seq } else y
    d.onTrig p fun t => (t.onCond c fun _ => y).place c s.last true v
  | m =>
    let edge := x.qual.isSome && x.qual != qual && qual == some (m == 2)
    let y := if edge then { y with sseq := s.seq } else y
    d.onTrig p fun t => let t := t.onCond c fun _ => y; if edge then t.place c s.last false true else t

/-- A spectrum in the mask conditions of a unit. -/
def Dev.trgSpectrum (d : Dev) (p : Nat) (s : Spectrum) : Dev :=
  let d := ((List.range 8).filter fun c => (d.condRec p c).typ == 1).foldl (fun d c => d.maskCond p c s) d
  d.onTrig p fun t => { t with lastSeq := s.seq }

end Sys2Proof.Machine
end

