-- ==== Sys2Proof/Machine/Trg.lean ====
section
/-!
DEFINITION. Trigger units: the combiner with terms, sequencer and hold-off (R424 to R433), records and events (R434 to
R436), outputs (R437 to R440), commits (R447), pins, the instrument line and events (R418 to R422).
-/
namespace Sys2Proof.Machine

/-! Commits (R447). -/

/-- Entries of a MASKLOAD from its base on; entry numbers are modulo 65,536. -/
def Trg.loadMask (t : Trg) (c : List (BitVec 36)) : Trg :=
  let a := cellOf c 0
  let base := fld a 0 16
  { t with mask := (List.range (fld a 16 17)).foldl (fun m i =>
      let k := (base + i) % 65536
      Tbl.put 0 m k (if bit a 33 then Tbl.get 0 t.maskShadow k else cellOf c (1 + i))) t.mask }

/-- Commit one record at the boundary, the first sample of the next beat to be combined, at `time`. It must still suit the
records committed before it (R442, R449). -/
def Dev.trgCommit1 (d : Dev) (p : Nat) (time : Stamp) (r : Shadow) : Dev :=
  let u := trgUnit p
  match d.trgCheck p r with
  | .error st => d.rejectRec u r st
  | .ok _ =>
  let d := d.decideRec u r .ok
  match r.typ with
  | 1 =>
    let o := d.unitRec p
    let x := UnitRec.of r.cells
    let d := d.setRec u 1 0 r.cells
    let d := if x.en ∧ !o.en then d.resetConds p else d
    -- output 14 (R434)
    let d := if !x.en ∧ (d.trig p).hold.isSome then d.raise (p * 16 + 14) time else d
    d.onTrig p fun t =>
      let t := { t with first := true }
      if !x.en then ({ t with hold := none, window := none }).dropPend
      else if !o.en ∨ o.seq ≠ x.seq ∨ o.aMask ≠ x.aMask ∨ o.bMask ≠ x.bMask ∨ o.win ≠ x.win then { t with window := none }
      else t
  | 2 => (d.setRec u 2 0 r.cells).onTrig p fun t => { t with first := true }
  | 3 =>
    let i := fld (cellOf r.cells 0) 0 3
    let o := d.condRec p i
    let x := CondRec.of r.cells
    let d := d.setRec u 3 i r.cells
    -- a condition that turns to a pin starts from the pin's level (R418)
    let d := if x.typ = 7 ∧ (o.typ ≠ 7 ∨ o.pin ≠ x.pin) then
      d.onTrig p fun t => t.onCond i fun y => { y with pin := bit d.instr.pins x.pin } else d
    d.resetCond p i
  | 4 =>
    let same := fun e => let o := d.envRec p e; let n := EnvRec.of r.cells e; o.en && n.en && o.sel == n.sel
    let d := d.setRec u 4 0 r.cells
    let d := [0, 1].foldl (fun d e => d.onTrig p fun t =>
      if same e then t.setEnv e { t.env e with since := 0 } else t.envRestart e) d
    ((List.range 8).filter fun c => (d.condRec p c).onEnv).foldl (fun d c => d.resetCond p c) d
  | 5 => d.onTrig p fun t => t.loadMask r.cells
  | t => d.setRec u t 0 r.cells

def Dev.trgCommit (d : Dev) (p : Nat) (time : Stamp) : Dev :=
  let (rs, d) := d.takeShadow (trgUnit p) fun _ => true
  rs.foldl (fun d r => d.trgCommit1 p time r) d

/-! Outputs (R437 to R440, R419). -/

/-- A TRGO pulse starts, or extends the one that runs (R440). -/
def Dev.pulse (d : Dev) (p : Nat) : Dev :=
  d.onTrig p fun t => { t with pulse := some (d.now + BitVec.ofNat 64 (d.outRec p).owid) }

/-- R439: the first tick at or after the trigger time plus ODLY ticks. -/
def startTick (time : Stamp) (odly : Nat) : BitVec 64 := BitVec.ofNat 64 ((time.toNat + 255) / 256 + odly)

/-- A trigger event reaches its outputs: TRGO and, with INSTR set, the instrument line, whose pull takes its settings. -/
def Dev.trgOut (d : Dev) (p : Nat) (time : Stamp) : Dev :=
  let o := d.outRec p
  let d :=
    if !o.oen then d
    else if !o.omode then d.pulse p
    else
      let at_ := startTick time o.odly
      if tickBefore at_ d.now then
        ((d.onTrig p fun t => { t with lost1 := sat32 t.lost1 }).trgErr p 1 0).pulse p
      else if 16 ≤ (d.trig p).starts.length then
        (d.onTrig p fun t => { t with lost1 := sat32 t.lost1 }).trgErr p 2 0
      else d.onTrig p fun t => { t with starts := insertBy (tickKey d.now) at_ t.starts }
  if !o.instr then d else
  let w := if bit d.instr.cfg 31 then 410 else fld d.instr.cfg 0 12
  { d with instr := { d.instr with
      force := d.instr.cfg
      pulls := insertBy (tickKey d.now) (d.now + BitVec.ofNat 64 w) d.instr.pulls
      began := if d.instr.pulls.isEmpty then some d.now else d.instr.began } }

/-! The combiner. -/

/-- Terms over condition values (R424). -/
def Dev.termBits (d : Dev) (p : Nat) (v : BitVec 8) : BitVec 4 :=
  let c := (d.rec? (trgUnit p) 2).getD []
  let term := fun k : Nat =>
    let w := cellOf c (k / 2)
    let sel := BitVec.ofNat 8 (fld w (16 * (k % 2)) 8)
    let inv := BitVec.ofNat 8 (fld w (16 * (k % 2) + 8) 8)
    sel != 0 && ((v ^^^ inv) &&& sel) == sel
  BitVec.ofNat 4 ((term 0).toNat + (term 1).toNat * 2 + (term 2).toNat * 4 + (term 3).toNat * 8)

/-- What the combiner gathers over one beat. -/
structure Beat where
  t : Trg
  /-- Conditions and terms true at some sample, and whether a late result took part. -/
  cb : BitVec 8 := 0
  tb : BitVec 4 := 0
  late : Bool := false
  issued : Option TrgCand := none
  /-- A candidate of this beat became pending. -/
  newPend : Bool := false
  /-- Events raised: output and time. -/
  evs : List (Nat × Stamp) := []

/-- Results due at a sample: condition values, and the outputs that rise (R407, R434). -/
def Beat.results (b : Beat) (time : Stamp) : Beat × BitVec 8 :=
  let (now, later) := b.t.results.partition fun r => stampDiff r.time time ≤ 0
  let (t, pulses, evs, late) := now.foldl (fun (t, pulses, evs, late) r =>
    let hit := r.value && (!r.level || !(t.cond r.cond).value)
    let t := if r.level then t.onCond r.cond fun x => { x with value := r.value } else t
    let t := if hit then t.onCond r.cond fun x => { x with fires := BitVec.ofNat 16 (satInc 16 x.fires.toNat) } else t
    (t, if !r.level && r.value then setBit pulses r.cond true else pulses, if hit then evs ++ [(r.cond, time)] else evs,
      late || r.late)) ({ b.t with results := later }, (0 : BitVec 8), b.evs, b.late)
  let v := (List.range 8).foldl (fun v c => setBit v c (bit pulses c || (t.cond c).value)) (0 : BitVec 8)
  ({ b with t, evs, late }, v)

/-- R426: the sequencer at a sample with rises ra and rb: the candidate with its ADELTA, if any. -/
def Beat.sequence (b : Beat) (u : UnitRec) (n : Nat) (time : Stamp) (ra rb : Bool) : Beat × Option (Bool × Nat) :=
  if !u.seq then (b, if ra then some (false, 0) else none) else
  let w := b.t.window.filter fun a => n ≤ a + u.win
  let (w, c) := match w with
    | some a => if rb && decide (a < n) then (none, some (true, n - a)) else (w, none)
    | none => (none, none)
  let open_ := fun (b : Beat) => { b with t := { b.t with window := some n }, evs := b.evs ++ [(12, time)] }
  let b := { b with t := { b.t with window := w } }
  if !ra then (b, c)
  else if w.isNone ∨ u.rearm then (open_ b, c)
  else ({ b with t := b.t.drop 2 }, c)

/-- An issued or released trigger starts a hold-off (R432 step 5). -/
def Trg.startHold (t : Trg) (u : UnitRec) (n : Nat) : Trg :=
  if u.hMode = 0 then t else { t with hold := some { mode := u.hMode, last := n + u.hold, ev := u.hev, need := u.hold } }

/-- One timeline sample (R424 to R433). -/
def Dev.combineSample (d : Dev) (p : Nat) (u : UnitRec) (b : Beat) (time : Stamp) (force : Bool) : Beat :=
  let n := b.t.n
  let (b, v) := b.results time
  let tm := d.termBits p v
  let b := { b with cb := b.cb ||| v, tb := b.tb ||| tm }
  let rise := fun k : Nat => bit tm k && !bit b.t.terms k && !b.t.first
  let b := { b with evs := b.evs ++ ((List.range 4).filter rise).map fun k => (8 + k, time) }
  let a := (tm &&& u.aMask) != 0
  let bb := (tm &&& u.bMask) != 0
  let ra := a && !b.t.stA && !b.t.first
  let rb := bb && !b.t.stB && !b.t.first
  let b := { b with t := { b.t with vals := v, terms := tm, stA := a, stB := bb, first := false, n := n + 1, lastTime := some time } }
  -- step 1
  let exceeds := b.t.hold.any fun h => h.exceeds || (h.mode == 1 && decide (h.last < n))
  let b := if exceeds then { b with t := { b.t with hold := none }, evs := b.evs ++ [(14, time)] } else b
  let (b, rel) := match b.t.pend, b.t.hold, b.issued with
    | some c, none, none =>
      let c := { c with pended := true, pDelta := n - c.n, time, ign := b.t.dropped }
      ({ b with t := { b.t with pend := none, dropped := 0 }, issued := some c, evs := b.evs ++ [(13, time)] }, true)
    | _, _, _ => (b, false)
  -- step 2
  let (b, cand) := b.sequence u n time ra rb
  let seq := cand.any (·.1)
  let aDelta := cand.elim 0 (·.2)
  if cand.isNone ∧ !force then
    if rel then { b with t := b.t.startHold u n } else b
  -- step 3
  else if rel then
    let merged := b.issued.map fun c =>
      { c with forced := c.forced || force, seq := c.seq || seq, aDelta := if seq then aDelta else c.aDelta }
    { b with issued := merged, t := b.t.startHold u n }
  -- step 4
  else
    let c : TrgCand := { n, time, seq, forced := force, aDelta }
    if b.issued.isSome then { b with t := b.t.drop 1 }
    else if b.t.hold.isSome ∧ !force then
      if b.t.pend.isNone then { b with t := { b.t with pend := some c }, newPend := true } else { b with t := b.t.drop 0 }
    else
      let b := { b with issued := some { c with ign := b.t.dropped }, t := { b.t with dropped := 0 }, evs := b.evs ++ [(13, time)] }
      if force then b else { b with t := b.t.startHold u n }

/-- Times of the samples of a beat (R396): from its stamp. -/
def beatTimes (k : Link) (cells : List QCell) : List Stamp :=
  let t0 : Stamp := cells.head?.elim 0 (·.time)
  let n := if k.cplx then cells.length else 2 * cells.length
  (List.range n).map fun i : Nat => k.timeAt t0 i 1

/-- Samples of a beat's cells in order. -/
def beatSamples (k : Link) (cells : List QCell) : List CSmp :=
  (cells.map fun c =>
    if k.cplx then [({ i := c.cell.hi, q := c.cell.lo, tag := c.cell.tag } : CSmp)]
    else [{ i := c.cell.hi, tag := c.cell.tag }, { i := c.cell.lo, tag := c.cell.tag }]).flatten

/-- R435: the eight cells of a record. -/
def Dev.trgRecord (d : Dev) (p : Nat) (c : TrgCand) : List Cell :=
  let t := d.trig p
  let first := (List.range 8).find? fun i => bit c.cBits i
  let sseq := match first with
    | some i => if (d.condRec p i).typ = 1 then (t.cond i).sseq else t.lastSeq
    | none => t.lastSeq
  let word3 := first.getD 0 * 2 ^ 33 + first.isSome.toNat * 2 ^ 32 + c.cBits.toNat * 2 ^ 24 + trgUnit p * 2 ^ 16 + c.tBits.toNat * 2 ^ 12 +
    c.late.toNat * 64 + c.forced.toNat * 32 + c.pended.toNat * 16 + c.seq.toNat * 8
  let data : List (BitVec 36) := stampCells c.time ++
    [t.num, BitVec.ofNat 36 word3, BitVec.ofNat 36 (c.aDelta % 2 ^ 32), BitVec.ofNat 36 (c.pDelta % 2 ^ 32), sseq, c.ign]
  data.zipIdx.map fun (v, i) => { data := v, tag := if i = 0 then tagHeader else tagValid }

/-- A trigger event: record, counters and outputs (R435 to R437). -/
def State.trgIssue (s : State) (p : Nat) (c : TrgCand) : State :=
  let cells := s.dev.trgRecord p c
  let s := s.onDev fun d => d.onTrig p fun t => { t with num := t.num + 1, cnt := sat32 t.cnt, lastTs := c.time }
  let r := (s.dev.rec? (trgUnit p) 7).getD []
  let (s, e) := s.ringPut 0 (destOf (cellOf r 0) (cellOf r 1) (cellOf r 2)).1 cells []
  s.onDev fun d =>
    let d := if e = .full then (d.onTrig p fun t => { t with lost0 := sat32 t.lost0 }).trgErr p 0 2 else d
    d.trgOut p c.time

/-- The part of the waiting samples that lies up to a time, stream by stream in order, and the rest. -/
def dueFeed (l : List (Nat × Option QCell)) (last : Stamp) : List (Nat × Option QCell) × List (Nat × Option QCell) :=
  l.foldl (fun (due, later) (sel, x) =>
    if !(later.any fun o => o.1 == sel) && x.all fun c => stampDiff c.time last ≤ 0 then (due ++ [(sel, x)], later)
    else (due, later ++ [(sel, x)])) ([], [])

/-- The envelopes take what reaches them up to a time. -/
def Dev.trgFeed (d : Dev) (p : Nat) (k : Link) (cells : List QCell) (last : Stamp) : Dev :=
  let raw := (beatSamples k cells).zip (beatTimes k cells)
  let t := d.trig p
  let (due, later) := dueFeed t.feed last
  let d := d.onTrig p fun t => { t with feed := later }
  [0, 1].foldl (fun d e =>
    let r := d.envRec p e
    if !r.en then d
    else if r.sel = 0 then raw.foldl (fun d (x, time) => d.envSample p e (!k.cplx) x time) d
    else (due.filter fun (s, _) => s == r.sel).foldl (fun d (_, x) =>
      match x with
      | some c => d.envSample p e false { i := c.cell.hi, q := c.cell.lo, tag := c.cell.tag } c.time
      | none => d.onTrig p fun t => t.envRestart e) d) d

/-- R395, R442: the combiner evaluates the next beat. A beat waits while its engine still owes a spectrum of it. -/
def State.trgCombine (s : State) (p : Nat) : State :=
  match (s.dev.trig p).beats, s.dev.link? p with
  | cells :: rest, some k =>
    let times := beatTimes k cells
    let last : Stamp := times.getLast?.getD 0
    let owed := (s.dev.eng p).done.any fun x => x.smp.getLast?.any fun y => stampDiff y.time last ≤ 0
    if owed then s else
    let d := (s.dev.onTrig p fun t => { t with beats := rest }).trgCommit p (times.head?.getD 0)
    let (due, later) := (d.trig p).specs.partition fun x => stampDiff x.last last ≤ 0
    let d := due.foldl (fun d x => d.trgSpectrum p x) (d.onTrig p fun t => { t with specs := later })
    let d := d.trgFeed p k cells last
    let d := d.onTrig p fun t => (List.range 8).foldl (fun t c => t.fireTimeout c (d.condRec p c)) t
    let u := d.unitRec p
    if !u.en then
      -- an idle unit evaluates nothing
      { s with dev := d.onTrig p fun t => { t with n := t.n + times.length, lastTime := some last, results := [] } }
    else
    let t := d.trig p
    let t := { t with hold := t.hold.map fun h => { h with exceeds := h.exceeds || (h.mode == 2 && decide (h.need ≤ h.count)) } }
    let b := (times.zipIdx).foldl (fun b (time, i) => d.combineSample p u b time (i == 0 && t.force)) ({ t } : Beat)
    let t := { b.t with force := false }
    let t := if b.newPend then { t with pend := t.pend.map fun c => { c with cBits := b.cb, tBits := b.tb, late := b.late } } else t
    let d := d.onTrig p fun _ => t
    let d := b.evs.foldl (fun d (o, time) => d.raise (p * 16 + o) time) d
    let s := { s with dev := d }
    match b.issued with
    | none => s
    | some c => s.trgIssue p { c with cBits := c.cBits ||| b.cb, tBits := c.tBits ||| b.tb, late := c.late || b.late }
  | _, _ => s

def execTriggerCombine (port : Fin 4) (s : State) : Outcome := .next (s.trgCombine port)

/-! Pins, the instrument line and events. -/

/-- R418, R421: a level of TRGI that has held for `held` ticks up to now. -/
def execExternalInputEdge (pin : Fin 3) (level : Bool) (held : BitVec 16) (s : State) : Outcome :=
  devStep s fun d =>
    let time := stampOf (d.now - BitVec.ofNat 64 held.toNat + 1 - 2)
    let d : Dev := { d with instr := { d.instr with pins := setBit d.instr.pins pin level } }
    (List.range 4).foldl (fun d p => (List.range 8).foldl (fun d c =>
      let r := d.condRec p c
      let x := (d.trig p).cond c
      let hold := if r.compat then 41 else r.filt + 1
      if r.typ ≠ 7 ∨ r.pin ≠ pin.val ∨ x.pin = level ∨ held.toNat < hold then d else
      let d := d.onTrig p fun t => t.onCond c fun x => { x with pin := level }
      match (if r.compat then 0 else r.mode) with
      | 0 => if level then d.placeOuter p c time false true else d
      | 1 => if level then d else d.placeOuter p c time false true
      | 2 => d.placeOuter p c time false true
      | _ => d.placeOuter p c time true level) d) d

/-- R420, R421: a level of INSTR that has held for `held` ticks up to now; low is asserted. -/
def execInstrAssertion (low : Bool) (held : BitVec 16) (s : State) : Outcome :=
  devStep s fun d =>
    -- R28: BLANK and COMPAT change at a pull, FILT at once
    let compat := bit d.instr.force 31
    let hold := if compat then 41 else fld d.instr.cfg 12 8 + 1
    let blank := if compat then 4096 else fld d.instr.force 20 11 * 4
    let start := d.now - BitVec.ofNat 64 held.toNat + 1
    if held.toNat < hold ∨ d.instr.low = low then d
    else if low ∧ d.instr.began.any (fun b => (start - b).toNat < blank) then d
    else
      let d : Dev := { d with instr := { d.instr with low } }
      (List.range 4).foldl (fun d p => (List.range 8).foldl (fun d c =>
        let r := d.condRec p c
        if r.typ ≠ 8 then d
        else if r.mode = 3 then d.placeOuter p c (stampOf (start - 2)) true low
        else if low then d.placeOuter p c (stampOf (start - 2)) false true
        else d) d) d

/-- R415: a timeout that is due fires. -/
def execTimeoutCondition (port : Fin 4) (cond : Fin 8) (s : State) : Outcome :=
  devStep s fun d => d.onTrig port fun t => t.fireTimeout cond (d.condRec port cond)

/-- R426: a window whose last sample has been combined expires. -/
def execSequencerWindowExpiry (port : Fin 4) (s : State) : Outcome :=
  devStep s fun d => d.onTrig port fun t => { t with window := t.window.filter fun a => t.n ≤ a + (d.unitRec port).win }

/-- R430: hold-off whose samples are combined, or whose occurrences have come, ends; the next sample combined releases a
pending trigger. -/
def execHoldoffEnd (port : Fin 4) (s : State) : Outcome :=
  devStep s fun d =>
    let t := d.trig port
    if t.hold.any fun h => (h.mode == 1 && decide (h.last < t.n)) || (h.mode == 2 && decide (h.need ≤ h.count)) then
      (d.onTrig port fun t => { t with hold := none }).raise (port * 16 + 14) (t.lastTime.getD d.stamp)
    else d

/-- R427, R35: TRG_CTL.FORCE. -/
def execTrgForce (port : Fin 4) (s : State) : Outcome :=
  startStep s fun d =>
    if d.writeHeld (trgUnit port) then d.note .cfgLocked (d.portDom port) (BitVec.ofNat 8 (trgUnit port))
    else if d.upperPort port then d
    else d.onTrig port fun t => { t with force := true }

/-- TRG_CTL.CLR_PEND. -/
def execClrPend (port : Fin 4) (s : State) : Outcome := hostStep s fun d => d.onTrig port Trg.dropPend

/-- R439: the earliest scheduled start is due. -/
def execTrgoScheduledStart (port : Fin 4) (s : State) : Outcome :=
  devStep s fun d => match (d.trig port).starts with
    | [] => d
    | _ :: rest => (d.onTrig port fun t => { t with starts := rest }).pulse port

/-- R437: the pulse ends. -/
def execTrgoPulseEnd (port : Fin 4) (s : State) : Outcome := devStep s fun d => d.onTrig port fun t => { t with pulse := none }

/-- R419: the pull that ends first ends; the line is released with the last one. -/
def execInstrPullEnd (s : State) : Outcome := devStep s fun d => { d with instr := { d.instr with pulls := d.instr.pulls.drop 1 } }

/-- R408: a write of TRG_MASK_DATA. -/
def execTrgMaskData (port : Fin 4) (lower upper : BitVec 16) (s : State) : Outcome :=
  hostStep s fun d => d.onTrig port fun t =>
    { t with
      maskShadow := Tbl.put 0 t.maskShadow t.maskPtr.toNat
        (BitVec.ofNat 36 (((upper.toInt % 2 ^ 18).toNat) * 2 ^ 18 + (lower.toInt % 2 ^ 18).toNat))
      maskPtr := t.maskPtr + 1 }

/-- The session that holds the unit for writing. -/
def Dev.unitSession (d : Dev) (u : Nat) : Option Nat :=
  (d.hlk.live.find? fun c => c.isRun && c.admitted && c.grants.any fun g => fld g 60 4 == 2 && fld g 0 32 == u && bit g 57).map (·.session)

/-- R422, R430: an occurrence of an event reaches the units. -/
def Dev.trgEvent (d : Dev) (id : BitVec 12) (reach : Option Nat) : Dev :=
  (List.range 4).foldl (fun d p =>
    if reach.any fun n => !(d.unitSession (trgUnit p)).all (· == n) then d else
    let d := (List.range 8).foldl (fun d c =>
      let r := d.condRec p c
      if r.typ = 9 ∧ r.evid = id then d.placeOuter p c d.stamp false true else d) d
    d.onTrig p fun t => { t with hold := t.hold.map fun h => if h.mode = 2 ∧ h.ev = id then { h with count := h.count + 1 } else h }) d

end Sys2Proof.Machine
end

