-- ==== Sys2Proof/Machine/Dataflow.lean ====
section
/-!
DEFINITION. One beat of a port through everything that takes its samples: input queues, streams, Barrels, the
channeliser, the spectral engine and the trigger unit (R32, R240, R302, R332, R361), and the ends of a port's output.
-/
namespace Sys2Proof.Machine

/-! Copies of a stream. -/

/-- Input queues bound to a port's selector take cells; the first loss of a queue is reported (R68, R558). -/
def Dev.deliverIqs (d : Dev) (p sel : Nat) (cells : List QCell) : Dev :=
  d.insts.foldl (fun d (key, i) => (List.range 4).foldl (fun d k =>
    let q := i.inq k
    if fld q.bind 0 2 ≠ 1 ∨ fld q.bind 2 2 ≠ p ∨ fld q.bind 4 8 ≠ sel then d else
    let q' := cells.foldl InQueue.accept q
    let d := d.onInst key fun i => i.setIq k q'
    if q'.overrun ∧ !q.overrun then
      d.log { code := .ok, sev := 2, domain := d.portDom p, src := BitVec.ofNat 8 (if sel = 0 then p else 0x08 + p)
              session := i.session, detail := key * 4 + k }
    else d) d) d

/-- R68, R71, R481: cells enter a Barrel's writer queue; those that find it full are lost in their place. -/
def Barrel.offer (r : Barrel) (cells : List QCell) : Barrel :=
  let r := if r.paused ∧ !cells.isEmpty then { r with paused := false, gaps := r.gaps ++ [(r.queue.length, 0)] } else r
  let room := 32768 - r.queue.length
  let kept := match cells.take room with
    | c :: l => if r.gapNext then { c with cell := { c.cell with tag := tagGap } } :: l else c :: l
    | [] => []
  let q := r.queue ++ kept.map QCell.clean
  let r := { r with gapNext := r.gapNext && kept.isEmpty }
  let lost := (cells.length - room) * r.perCell
  if lost = 0 then { r with queue := q } else
  let gaps := match r.gaps.getLast? with
    | some (i, n) => if i = q.length ∧ n ≠ 0 then r.gaps.dropLast ++ [(i, n + lost)] else r.gaps ++ [(q.length, lost)]
    | none => [(q.length, lost)]
  { r with queue := q, gaps, err := r.err ||| 0x10 }

/-- R68: a Barrel's queue takes cells; the first that finds it full after OVERRUN was cleared writes a record. -/
def Dev.offerBarrel (d : Dev) (b : Nat) (cells : List QCell) : Dev :=
  let r := d.barrel b
  let d := d.onBarrel b fun r => r.offer cells
  if bit (d.barrel b).err 4 ∧ !bit r.err 4 then d.degraded .ok domCap 0x28 (cause := 4) (detail := b) else d

/-- The Barrels that capture a port's selector take cells. -/
def Dev.deliverBarrels (d : Dev) (p sel : Nat) (cells : List QCell) : Dev :=
  d.barrels.foldl (fun d (b, r) =>
    if r.writing ∧ r.srcRec.port = p ∧ r.srcRec.sel = sel then d.offerBarrel b cells else d) d

/-- Copies of one stream's cells. -/
def Dev.deliver (d : Dev) (p sel : Nat) (cells : List QCell) : Dev :=
  ((d.deliverIqs p sel cells).deliverStreams p sel cells).deliverBarrels p sel cells

/-- Whether a selector's path is off (R326, R480). -/
def Dev.pathOff (d : Dev) (p sel : Nat) : Bool :=
  if sel = 0 then false else
  match d.wbRec? p with
  | none => true
  | some w => if sel = 1 then !w.wbEn else !w.nbEn || (d.nbRec? p (sel - 0x40)).all fun x => !x.en

/-! One beat. -/

/-- Samples for a port's engine, with their selectors: the raw stream, then the channeliser's outputs as they come. -/
def Dev.speSamples (d : Dev) (k : Link) (raw : List QCell) (outs : List (Nat × QCell)) : List (Nat × SpeSmp × (Stamp → Bool)) :=
  let t0 : Stamp := raw.head?.elim 0 (·.time)
  ((cellSamples k raw).zipIdx.map fun ((x, t), i) => (0, { x, time := t, tick := d.now }, k.reaches t0 i)) ++
  outs.map fun (sel, c) =>
    let v : SpeSmp := { x := { i := c.cell.hi, q := c.cell.lo, tag := c.cell.tag }, time := c.time, tick := d.now }
    (sel, v, v.reaches)

/-- Streams that the envelopes of a port name and whose path is off (R400, R402). -/
def Dev.envBreaks (d : Dev) (p : Nat) : List (Nat × Option QCell) :=
  [0, 1].filterMap fun e => let r := d.envRec p e; if r.en && d.pathOff p r.sel then some (r.sel, none) else none

/-- R240: a beat leaves the port: its cells and the channeliser's outputs reach everything that takes them. -/
def State.emitBeat (s : State) (p : Nat) (k : Link) (raw : List QCell) : State :=
  let d := s.dev.deliver p 0 raw
  let (d, outs) := d.chnBeat p k raw
  let d := outs.foldl (fun d (sel, c) => d.deliver p sel [c]) d
  let d := d.pauseBarrels p (d.pathOff p)
  let d := d.speStop p (d.pathOff p)
  let d := d.onTrig p fun t => { t with
    beats := t.beats ++ [raw], feed := t.feed ++ outs.map (fun (sel, c) => (sel, some c)) ++ d.envBreaks p }
  ({ s with dev := d } : State).speInput p (d.speSamples k raw outs)

/-- One port clock of a port: blocks arrive on its lanes, and a port that emits releases a beat (R217, R240, R255, R263,
R340). The FAULT of an upper port ends the stream of its pair (R252). -/
def State.beatRelease (s : State) (p : Nat) (blocks : List LaneBlock) : State :=
  if s.dev.upperPort p then s else
  match s.dev.link? p with
  | none => s
  | some k =>
    let d := s.dev.absorb p k blocks
    if !(d.port p).emits ∨ d.streamDown p then { s with dev := d.tickPorts p k } else
    let (d, raw) := ((d.ingCommit p).chnCommit p).releaseBeat p k
    let d := d.tickPorts p k
    let d := d.onPort p fun g => { g with blind := raw.all fun c => c.cell.tag == tagGap }
    if raw.isEmpty then { s with dev := d.pauseBarrels p fun _ => true } else ({ s with dev := d } : State).emitBeat p k raw

def execBeatRelease (port : Fin 4) (blocks : List LaneBlock) (s : State) : Outcome := .next (s.beatRelease port blocks)

/-- R332: a round of the coarse stream. -/
def execCoarseRound (port : Fin 4) (s : State) : Outcome :=
  devStep s fun d =>
    let (d, cells) := d.coarseRound port
    d.deliver port 2 cells

/-- R333, R369: a strobe reaches the channelisers and engines. -/
def execSyncStrobe (target : BitVec 72) (s : State) : Outcome :=
  devStep s fun d => (List.range 4).foldl (fun d p => (d.chnStrobe p target).speStrobe p target) d

/-! The end of a port's output. -/

/-- A command of a port: where it ends the port's output, the units that take it stop. -/
def State.portStep (s : State) (p : Nat) (f : State → State) : State :=
  let was := (s.dev.port p).emits
  let t := f s
  if was ∧ !(t.dev.port p).emits ∧ (!t.dev.upperPort p ∨ (t.dev.port p).st = .fault) then t.onDev fun d => d.quietPort p else t

end Sys2Proof.Machine
end

