-- ==== Sys2Proof/Machine/Cap.lean ====
section
/-!
DEFINITION. The capture unit: SRC records (R452 to R454), arming and disarming (R450, R451, R456, R458 to R462), and the
Barrels' events (R464, R465, R457, R468).
-/
namespace Sys2Proof.Machine

def capUnit : Nat := 0x28

/-! SRC records. -/

def capLen (typ : Nat) (_ : List (BitVec 36)) : Option Nat := if typ = 1 then some 4 else none

def BarSrc.of (c : List (BitVec 36)) : BarSrc :=
  let a := cellOf c 0
  { port := fld a 4 2, sel := fld a 6 8, fmt := fld a 14 3, segwrap := bit a 17, early := bit a 18
    tmapBase := fld (cellOf c 1) 0 24, tmap := fld (cellOf c 2) 0 17, dirBase := fld (cellOf c 3) 0 24 }

/-- R455: the stream is real. A raw stream of a port without a LINK may become either. -/
def Dev.fmtOk (d : Dev) (x : BarSrc) : Bool :=
  if x.sel = 0 ∧ (d.link? x.port).isNone then (unitOf x.fmt true).isSome || (unitOf x.fmt false).isSome
  else (unitOf x.fmt (d.realInput x.port x.sel)).isSome

/-- R37, R453, R454. -/
def Dev.capCheck (d : Dev) (r : Shadow) : Except Status Unit := do
  let c := r.cells
  let b := d.barrel (fld (cellOf c 0) 0 4)
  let x := BarSrc.of c
  let z := fun i lo n => fld (cellOf c i) lo n == 0
  need (!b.armed) .cfgLocked
  need (z 0 19 17 && z 1 24 12 && z 2 17 19 && z 3 24 12)
  need (engineSel x.sel && !d.upperPort x.port && d.fmtOk x && decide (256 ≤ x.tmap ∧ x.tmap ≤ 65536) && isPow2 x.tmap)
  need (d.loftOwned (d.originSession r.origin) x.tmapBase (4 + 4 * x.tmap))

/-- A record is of class I: it commits as it is accepted. -/
def Dev.capSubmit (d : Dev) (r : Shadow) : Dev :=
  let i := fld (cellOf r.cells 0) 0 4
  match d.capCheck r with
  | .error st => d.rejectRec capUnit r st
  | .ok _ => (d.settle capUnit r i (.ok ())).onBarrel i fun b => { b with src := some (BarSrc.of r.cells) }

/-- R452: a session holds Barrel b, or the unit, for writing. -/
def Dev.barrelHeld (d : Dev) (b : Nat) : Bool :=
  d.writeHeld capUnit || d.hlk.live.any fun c => c.isRun && c.admitted &&
    c.grants.any fun g => fld g 60 4 == 3 && fld g 0 32 == b && bit g 57

/-! Arming (R456, R458 to R460). -/

/-- R458: LAT, or none for a class that cannot trigger. The rate of a unit whose port has no LINK is not stated. -/
def Dev.armLat (d : Dev) (tsrc : Nat) (fb : Rate) : Option Nat :=
  let cls := tsrc / 256
  if cls = 0 then
    let q := tsrc / 16 % 16
    match d.link? q with
    | some k => some (cdiv (d.srcClocks q * fb.num) (fb.den * k.fs * 100))
    | none => some d.free.toNat
  else if [2, 3, 4, 6, 0xA, 0xB].contains cls then some (cdiv (512 * fb.num) (fb.den * 2048000000))
  else none

/-- R661: 20 % of peak at the pin speed in use, bytes/s. -/
def Cel.barrelLimit (c : Cel) : Nat :=
  match c.speed.toNat with | 0 => 327680000000 | 1 => 409600000000 | 2 => 450560000000 | _ => 491520000000

def Rate.add (a b : Rate) : Rate :=
  if a.den = b.den then { num := a.num + b.num, den := a.den } else { num := a.num * b.den + b.num * a.den, den := a.den * b.den }

/-- R460: the sum of the reservations held (CAP_RES.SUM). -/
def Dev.reserved (d : Dev) : Rate := (d.barrels.map fun (_, r) => r.res).foldl Rate.add {}

/-- The Barrel as an ARM with these parameters sets it up (R455, R456). -/
def Dev.armed? (d : Dev) (b : Nat) (a : ArmParams) (x : BarSrc) : Option Barrel :=
  let r := d.barrel b
  let real := d.realInput x.port x.sel
  match unitOf x.fmt real, d.sampleRate x.port x.sel with
  | some (u, su), some f =>
    let mine := d.stk.shelves.filter fun e => e.session == r.owner.getD 0 && e.handle == a.handle
    let bytes := mine.length * shelfBytes
    let per := bytes / u / max a.nseg 1
    some { r with
      arm := some a, real, fb := { num := f.1 * 1000, den := f.2 }, unitsPerRegion := per, segcap := per * su
      base := ((bestBy (fun m n : Nat => m < n) (mine.map (·.idx))).getD 0) * shelfBytes }
  | _, _ => none

/-- R459: the tests in order, and the Barrel as the ARM sets it up. -/
def Dev.armTests (d : Dev) (session b : Nat) (a : ArmParams) : Except Status Barrel := do
  let r := d.barrel b
  let k := d.stk
  need (r.owner == some session && k.shelves.any fun e => e.session == session && e.handle == a.handle && !e.freed) .grantFault
  need (!r.armed && !d.barrels.any fun (i, o) => i != b && o.armed && o.owner == some session && o.params.handle == a.handle) .armBusy
  match r.src with
  | none => .error .cfgRange
  | some x =>
    need (decide (a.pre + a.post ≠ 0 ∧ a.nseg ≤ 65536) && d.loftOwned session x.dirBase (8 * max a.nseg 1) &&
      (d.armLat a.tsrc {}).isSome)
    need (!d.streamDown x.port) .portDown
    match d.armed? b a x with
    | none => .error .cfgRange
    | some y =>
      let lat := (d.armLat a.tsrc y.fb).getD 0
      need (decide (a.pre + a.post + lat ≤ y.segcap)) .armCapacity
      let sum := d.reserved.add y.rate
      need (decide (sum.num ≤ d.cel.barrelLimit * sum.den)) .armCapacity
      .ok { y with lat }

/-- R49, R459 test 7: page in and pin. -/
def Dev.armBegin (d : Dev) (c : Live) (b : Nat) (a : ArmParams) (r : Barrel) : Dev :=
  let d := d.freed.onLive c.uid fun c => { c with phase := .active }
  let d := d.onBarrel b fun o => { r with st := .arming, armUid := some c.uid, before := some o.setup, caps := 0, pos := 0, anchor := none }
  let d := { d with stk := d.stk.pinHandle c.session a.handle true }
  (d.stk.shelves.filter fun e => e.session == c.session && e.handle == a.handle).foldl
    (fun d e => d.pageIn c.session e.idx (.armBarrel b)) d

/-- An ARM with its parameters; it completes once every Shelf is resident. -/
def State.armStart (s : State) (crate b : Nat) (a : ArmParams) : State :=
  match s.dev.live? crate with
  | none => s
  | some c =>
    match s.dev.armTests c.session b a with
    | .error st => s.onDev fun d => d.freed.finish crate st 0 b
    | .ok r => (s.onDev fun d => d.armBegin c b a r).armDone b

/-- The Barrel an ARM Crate names. -/
def Live.barrelNo (c : Live) : Nat := c.num 33 1

def execArm (crate : Nat) (s : State) : Outcome :=
  .next <|
    match s.dev.starts crate 4 (fun c => c.num 32 1 == 0) with
    | none => s
    | some c => s.armStart crate c.barrelNo
        { tsrc := c.num 34 2, handle := c.num 36 4, pre := c.num 40 8, post := c.num 48 8, nseg := c.num 56 4 }

/-- R450, R462. -/
def execRearm (crate : Nat) (s : State) : Outcome :=
  .next <|
    match s.dev.starts crate 4 (fun c => c.num 32 1 == 2) with
    | none => s
    | some c =>
      if (s.dev.barrel c.barrelNo).owner ≠ some c.session then s.onDev fun d => d.finish crate .grantFault 0 c.barrelNo else
      match (s.dev.barrel c.barrelNo).arm with
      | some a => if zeroBytes c.raw 34 59 then s.armStart crate c.barrelNo a else s.onDev fun d => d.finish crate .cfgRange 0 c.barrelNo
      | none => s.onDev fun d => d.finish crate .cfgRange 0 c.barrelNo

/-- R451, R469. -/
def execDisarm (crate : Nat) (s : State) : Outcome :=
  .next <|
    match s.dev.starts crate 4 (fun c => c.num 32 1 == 1) with
    | none => s
    | some c =>
      let b := c.barrelNo
      let r := s.dev.barrel b
      if r.owner ≠ some c.session then s.onDev fun d => d.finish crate .grantFault 0 b
      else if r.armed then (s.barAbort b 0x04).onDev fun d => d.finish crate .ok 0 b
      else s.onDev fun d => (d.onBarrel b fun r => { r with owner := none, st := .idle }).finish crate .ok 0 b

/-! The Barrels' own events. -/

/-- R464, R465: an occurrence of a Barrel's trigger source. Before the stream's first sample it waits for it. -/
def Dev.barOccurrence (d : Dev) (b : Nat) (e : EventOcc) : Dev :=
  let r := d.barrel b
  if r.params.tsrc ≠ e.id.toNat ∨ !r.writing ∨ (e.reach.any fun n => r.owner != some n) then d
  else match r.anchor with
    | none => d.onBarrel b fun r => { r with wait := r.wait ++ [e.time] }
    | some _ => d.barTake b (r.sampleAt e.time) e.time

/-- An occurrence of the Barrel's source, with its time. -/
def execBarrelTrigger (barrel : Fin 16) (time : BitVec 72) (s : State) : Outcome :=
  devStep s fun d => d.barOccurrence barrel { id := BitVec.ofNat 12 (d.barrel barrel).params.tsrc, time }

/-- R457: the writer stores the samples of its next cells. -/
def execBarrelWrite (barrel : Fin 16) (cells : BitVec 16) (s : State) : Outcome :=
  .next (iterate (fun s => s.barCell barrel) cells.toNat s)

/-- R468: position E has been written. -/
def execCaptureClose (barrel : Fin 16) (s : State) : Outcome :=
  .next <|
    let r := s.dev.barrel barrel
    if r.st = .post ∧ r.lastPos < r.pos then s.barClose barrel else s

end Sys2Proof.Machine
end

