-- ==== Sys2Proof/Machine/Den.lean ====
section
/-!
DEFINITION. Density units: records and their checks (R483 to R503), planes with decay, occupancy tallies and renders.
-/
namespace Sys2Proof.Machine

def Dev.dens (d : Dev) (p : Nat) : Den := Tbl.get {} d.den p
def Dev.onDen (d : Dev) (p : Nat) (f : Den → Den) : Dev := { d with den := Tbl.upd {} d.den p f }

def Den.plane (e : Den) (i : Nat) : DenPlane := Tbl.get {} e.planes i
def Den.onPlane (e : Den) (i : Nat) (f : DenPlane → DenPlane) : Den := { e with planes := Tbl.upd {} e.planes i f }
def Dev.onPlane (d : Dev) (p i : Nat) (f : DenPlane → DenPlane) : Dev := d.onDen p fun e => e.onPlane i f

/-- Set a bit of DEN_ERR; its rise writes a record (R859). -/
def Dev.denErr (d : Dev) (p b sev : Nat) : Dev :=
  let d := if bit (d.dens p).err b then d else
    d.log { code := .ok, sev, domain := d.portDom p, src := BitVec.ofNat 8 (denUnit p), cause := b }
  d.onDen p fun e => { e with err := setBit e.err b true }

/-! Records (R502). -/

/-- Geometry whose change clears the counters (R489). -/
def PlaneRec.geo (x : PlaneRec) : List Int := [x.lo, x.bpc, x.cols, x.rows, x.row0, x.rstep]

structure OccRec where
  en : Bool
  skip : Nat
  lo : Nat
  othr : Int
  cnt : Nat
  spd : Nat
  count : Nat
  dest : Dest
  ok : Bool
deriving DecidableEq, Repr

def OccRec.of (c : List (BitVec 36)) : OccRec :=
  let a := cellOf c 0
  let (dest, ok) := destOf (cellOf c 3) (cellOf c 4) (cellOf c 5)
  { en := bit a 0, skip := fld a 1 3, lo := fld a 4 16, othr := sfld a 20 16, cnt := fld (cellOf c 1) 0 16 + 1
    spd := fld (cellOf c 1) 16 16 + 1, count := fld (cellOf c 2) 0 32, dest, ok := ok }

structure RenderRec where
  plane : Nat
  mode : Nat
  hrep : Nat
  vrep : Nat
  x0 : Nat
  y0 : Nat
  base : Nat
  pitch : Nat
  rgain : Nat
  done : Nat
deriving DecidableEq, Repr

def RenderRec.of (c : List (BitVec 36)) : RenderRec :=
  let a := cellOf c 0
  { plane := fld a 0 2, mode := fld a 2 2, hrep := fld a 4 3 + 1, vrep := fld a 7 3 + 1, x0 := fld a 10 12, y0 := fld a 22 12
    base := (cellOf c 1).toNat + fld (cellOf c 2) 0 12 * 2 ^ 36, pitch := fld (cellOf c 2) 12 10 * 64, rgain := fld (cellOf c 3) 0 24
    done := fld (cellOf c 4) 0 24 }

/-- Length of a density record by type (R501). -/
def denLen (typ : Nat) (c : List (BitVec 36)) : Option Nat :=
  match typ with
  | 1 => some 5 | 2 => some 6 | 3 => some 5
  | 4 => some (1 + fld (cellOf c 0) 10 11)
  | _ => none

/-- R38: counters held by all planes of the device. -/
def Dev.denUsed (d : Dev) : Nat :=
  ((d.den.flatMap fun (_, e) => e.planes).map fun (_, x) => x.used).foldl (· + ·) 0

/-- A byte range lies in mapped Shelves of the session that are not SPILLABLE (R499). -/
def Dev.frameMapped (d : Dev) (session a n : Nat) : Bool :=
  decide (a + n ≤ 2 ^ 48) && (shelfRun a n).all fun i => (d.stk.entry? session i).any fun e => !e.spill

/-- R483 to R485, R492, R495, R499, R502, R503. -/
def Dev.denCheck (d : Dev) (p : Nat) (r : Shadow) : Except Status Unit := do
  need (!d.upperPort p)
  let c := r.cells
  let z := fun i lo n => fld (cellOf c i) lo n == 0
  let pBins := (d.frame p).p
  match r.typ with
  | 1 =>
    let x := PlaneRec.of c
    need (z 0 25 11 && z 1 27 9 && z 2 28 8 && z 3 21 15 && z 4 32 4 && decide (256 ≤ x.cols ∧ x.cols ≤ 2048 ∧ 64 ≤ x.rows ∧ x.rows ≤ 1024) &&
      decide (1 ≤ x.rstep ∧ 1 ≤ x.dsh ∧ x.dsh ≤ 12) && decide (x.lo + x.bins ≤ pBins) && decide (x.row0 + x.rows * x.rstep ≤ 32768))
    let used := if !x.en && x.clear then 0 else x.cols * x.rows
    need (decide (d.denUsed - ((d.dens p).plane x.plane).used + used ≤ 8388608) && d.denLoadOk p (d.frame p) (some x))
  | 2 =>
    let x := OccRec.of c
    need (r.origin.isSome || x.dest.kind != 2)
    need (x.ok && z 1 32 4 && z 2 32 4 && decide (1 ≤ x.count ∧ x.cnt ≤ 32768 ∧ x.lo + x.cnt ≤ pBins))
    need (!x.en || (x.dest.kind != 0 && d.destOk r.origin x.dest (4 + x.cnt) (8 * (4 + x.cnt))))
  | 3 =>
    let x := RenderRec.of c
    need (z 0 34 2 && z 2 22 14 && z 3 24 12 && z 4 24 12 && decide (x.mode ≤ 2 ∧ 64 ≤ x.pitch) && x.base % 64 == 0 && r.origin.isSome)
    match d.planeRec? p x.plane with
    | none => .error .cfgRange
    | some q =>
      let lines := if x.mode = 2 then q.rows else x.y0 + q.rows * x.vrep
      need (q.en && d.frameMapped (d.originSession r.origin) x.base (lines * x.pitch) &&
        (if x.mode = 2 then decide (4 * q.cols ≤ x.pitch)
         else decide (x.x0 + q.cols * x.hrep ≤ x.pitch / 4 ∧ x.y0 + q.rows * x.vrep ≤ 4096)))
  | _ =>
    let n := fld (cellOf c 0) 10 11
    need (z 0 21 15 && decide (1 ≤ n ∧ fld (cellOf c 0) 0 10 + n ≤ 1024) && (List.range n).all fun i => z (1 + i) 30 6)

/-! Occupancy (R492 to R494). -/

/-- Close the tally's record. -/
def State.closeOcc (s : State) (p : Nat) : State :=
  let e := s.dev.dens p
  let s := s.onDev fun d => d.onDen p fun e => { e with oN := 0, oTally := [] }
  match s.dev.rec? (denUnit p) 2 with
  | none => s
  | some c =>
    let x := OccRec.of c
    if e.oN = 0 ∨ e.oStopped then s else
    let head := (stampCells e.oTime ++ [e.oSeq, BitVec.ofNat 36 e.oN]).map fun v => ({ data := v, tag := tagHeader } : Cell)
    let cells := head ++ (List.range x.cnt).map fun i => ({ data := BitVec.ofNat 36 ((e.oTally[i]?).getD 0) } : Cell)
    let (s, r) := s.ringPut e.oOwner x.dest cells (c64Bytes cells)
    match r with
    | .written => s
    | .full => s.onDev fun d => d.denErr p 1 2
    | .fault => s.onDev fun d =>
      (d.onDen p fun e => { e with oStopped := true, err := setBit e.err 2 true }).log
        { code := .grantFault, sev := 2, domain := d.portDom p, src := BitVec.ofNat 8 (denUnit p), cause := 2, session := e.oOwner }

/-- A spectrum whose flags SKIP selects is left out (R486). -/
def skipped (skip : Nat) (x : Spectrum) : Bool := fld x.flags 0 3 &&& skip != 0

/-- One spectrum of the tally. -/
def State.occTake (s : State) (p : Nat) (x : Spectrum) : State :=
  match s.dev.rec? (denUnit p) 2 with
  | none => s
  | some c =>
    let q := OccRec.of c
    if !q.en then s else
    let e := s.dev.dens p
    let taken := e.oRecv % q.spd == 0
    let s := s.onDev fun d => d.onDen p fun e => { e with oRecv := e.oRecv + 1 }
    if !taken ∨ skipped q.skip x ∨ x.lp.length < q.lo + q.cnt then s else
    let hits := ((x.lp.drop q.lo).take q.cnt).map fun v => if 4 * q.othr < v then 1 else 0
    let tally := if e.oN = 0 then hits else (e.oTally.zip hits).map fun (a, b) => (a + b) % 2 ^ 36
    let s := s.onDev fun d => d.onDen p fun e =>
      { e with oN := e.oN + 1, oTally := tally, oTime := if e.oN = 0 then x.time else e.oTime, oSeq := x.seq }
    if e.oN + 1 ≥ q.count then s.closeOcc p else s

/-! Planes (R486 to R491). -/

/-- R490: one decay of every counter. -/
def decayOnce (dsh : Nat) (t : Tbl Nat) : Tbl Nat :=
  (t.map fun (k, c) => (k, c - max 1 ((c + 2 ^ (dsh - 1)) / 2 ^ dsh))).filter fun (_, c) => c != 0

/-- n decays. -/
def DenPlane.decay (y : DenPlane) (dsh n : Nat) : DenPlane :=
  { y with cnt := iterate (fun t => if t.isEmpty then t else decayOnce dsh t) n y.cnt, decays := y.decays + BitVec.ofNat 32 n }

/-- Fine ticks of a period of DPER µs. -/
def PlaneRec.perLen (x : PlaneRec) : Nat := x.dper * 524288

/-- R491: the end of the period under way at `now`, where periods count from `on`. -/
def PlaneRec.periodEnd (x : PlaneRec) (on now : Stamp) : Stamp :=
  on + BitVec.ofNat 72 (((stampDiff now on).toNat / x.perLen + 1) * x.perLen)

/-- R491: the decays due before an accepted spectrum of time t, or up to time t. -/
def DenPlane.decayTo (y : DenPlane) (x : PlaneRec) (t : Stamp) : DenPlane :=
  if x.dper = 0 then y
  else if !x.dbase then (if x.dper ≤ y.per then { y.decay x.dsh 1 with per := 0 } else y)
  else
    let exceeds := stampDiff t y.perEnd
    if exceeds < 0 then y else
    let n := exceeds.toNat / x.perLen + 1
    { y.decay x.dsh n with perEnd := y.perEnd + BitVec.ofNat 72 (n * x.perLen) }

/-- R487: the row of a column's value, or none where it is dropped. -/
def PlaneRec.row (x : PlaneRec) (v : Int) : Option Nat :=
  let r := (lp16 v - x.row0) / (x.rstep : Int)
  if r < 0 then (if x.edge % 2 = 1 then some 0 else none)
  else if (x.rows : Int) ≤ r then (if x.edge / 2 = 1 then some (x.rows - 1) else none)
  else some r.toNat

/-- R487: the value of column j. -/
def PlaneRec.value (x : PlaneRec) (lp : List Int) (j : Nat) : Int :=
  let l := (lp.drop (x.lo + j * 2 ^ x.bpc)).take (2 ^ x.bpc)
  if x.cdet then minInt l else maxInt l

/-- One spectrum of a plane: whether it saturated a counter. -/
def DenPlane.take (y : DenPlane) (x : PlaneRec) (s : Spectrum) : DenPlane × Bool :=
  let taken := y.recv % x.spd == 0
  let y := { y with recv := y.recv + 1 }
  if !taken ∨ skipped x.skip s ∨ s.lp.length < x.lo + x.bins then (y, false) else
  let y := y.decayTo x s.time
  let (cnt, sat) := (List.range x.cols).foldl (fun (t, sat) j =>
    match x.row (x.value s.lp j) with
    | none => (t, sat)
    | some r =>
      let c := Tbl.get 0 t (j * 1024 + r)
      if c = 16777215 then (t, true) else (Tbl.set t (j * 1024 + r) (c + 1), sat)) (y.cnt, false)
  ({ y with cnt, acc := y.acc + 1, per := y.per + 1 }, sat)

/-- A spectrum reaches the density unit (R361, R483). -/
def State.denTake (s : State) (p : Nat) (x : Spectrum) : State :=
  let (d, sat) := (List.range 4).foldl (fun (d, sat) i =>
    match d.planeRec? p i with
    | some q =>
      if !q.en then (d, sat) else
      let (y, k) := ((d.dens p).plane i).take q x
      (d.onPlane p i fun _ => y, sat || k)
    | none => (d, sat)) (s.dev, false)
  let d := if sat then (d.onDen p fun e => { e with sat := sat32 e.sat }).denErr p 0 0 else d
  ({ s with dev := d } : State).occTake p x

/-- R490, R491: the decays of a plane that are due. A time-based decay waits for spectra whose time lies before the end of
the period. -/
def Dev.decayDue (d : Dev) (p i : Nat) : Dev :=
  match d.planeRec? p i with
  | none => d
  | some x =>
    if !x.en then d else
    let owed := (d.eng p).done.any fun z => z.smp.head?.any fun h => stampDiff h.time ((d.dens p).plane i).perEnd < 0
    if x.dbase ∧ owed then d else d.onPlane p i fun y => y.decayTo x d.stamp

def execDecay (port : Fin 4) (plane : Fin 4) (s : State) : Outcome := devStep s fun d => d.decayDue port plane

/-! Renders (R495 to R500). -/

/-- R496: L(c). -/
def logIndex (c : Nat) : Nat := Nat.log2 ((c + 1) ^ 1024)

/-- R496: the pixel word of a counter in RMODE 0 and 1. -/
def Den.pixel (e : Den) (mode rgain c : Nat) : Nat :=
  let v := if mode = 0 then c else logIndex c
  (Tbl.get 0 e.cmap (min 1023 ((v * rgain + 2 ^ 15) / 2 ^ 16))).toNat

/-- Words of a column: address and value. -/
def Den.columnWords (e : Den) (r : DenRender) (cnt : Tbl Nat) (j : Nat) : List (Nat × Nat) :=
  let x := RenderRec.of r.cells
  ((List.range r.rows).map fun i =>
    let c := Tbl.get 0 cnt (j * 1024 + i)
    if x.mode = 2 then [(x.base + (r.rows - 1 - i) * x.pitch + 4 * j, c)]
    else
      let w := e.pixel x.mode x.rgain c
      ((List.range x.vrep).map fun b => (List.range x.hrep).map fun a =>
        (x.base + (x.y0 + (r.rows - 1 - i) * x.vrep + b) * x.pitch + 4 * (x.x0 + j * x.hrep + a), w)).flatten).flatten

/-- Whether a CMAP waits. -/
def Dev.cmapWaits (d : Dev) (p : Nat) : Bool := (d.waiting? (denUnit p) 4).isSome

/-- A plane's render ended: a pending one starts unless a CMAP waits. -/
def Dev.renderEnds (d : Dev) (p i : Nat) : Dev :=
  if d.cmapWaits p then d.onPlane p i fun y => { y with run := none }
  else d.onPlane p i fun y => { y with run := y.pend, pend := none }

/-- The next column of a render, read after the decays that are due (R497). -/
def State.renderColumn (s : State) (p i : Nat) : State :=
  let s := s.onDev fun d => d.decayDue p i
  let e := s.dev.dens p
  match (e.plane i).run with
  | none => s
  | some r =>
    match s.putWords r.session (e.columnWords r (e.plane i).cnt r.col) with
    | (s, false) => s.onDev fun d =>
      let d := (d.renderEnds p i).onDen p fun e => { e with err := setBit e.err 2 true }
      d.log { code := .grantFault, sev := 2, domain := d.portDom p, src := BitVec.ofNat 8 (denUnit p), cause := 2, session := r.session }
    | (s, true) =>
      if r.col + 1 < r.cols then s.onDev fun d => d.onPlane p i fun y => { y with run := some { r with col := r.col + 1 } }
      else
        let a := (RenderRec.of r.cells).done
        let s := s.onMem fun m => m.loftPut a { (m.loftGet a) with data := (m.loftGet a).data + 1 }
        s.onDev fun d => d.renderEnds p i

/-- R497, R498: a render draws its next columns; the last one advances DONE. -/
def execRender (port : Fin 4) (plane : Fin 4) (columns : BitVec 12) (s : State) : Outcome :=
  .next (iterate (fun s => s.renderColumn port plane) columns.toNat s)

/-! Commits (R501). -/

/-- Start, hold or drop a RENDER (R500). -/
def Dev.startRender (d : Dev) (p : Nat) (r : Shadow) : Dev :=
  let x := RenderRec.of r.cells
  let q := d.planeRec? p x.plane
  let job : DenRender := { cells := r.cells, cols := q.elim 0 (·.cols), rows := q.elim 0 (·.rows), session := d.originSession r.origin }
  let y := (d.dens p).plane x.plane
  if y.run.isNone ∧ !d.cmapWaits p then d.onPlane p x.plane fun y => { y with run := some job }
  else if y.pend.isNone then d.onPlane p x.plane fun y => { y with pend := some job }
  else (d.onPlane p x.plane fun y => { y with rdrop := BitVec.ofNat 8 (satInc 8 y.rdrop.toNat) }).denErr p 3 0

/-- R489: a PLANE commits. -/
def Dev.planeCommit (d : Dev) (p : Nat) (c : List (BitVec 36)) : Dev :=
  let x := PlaneRec.of c
  let old := d.planeRec? p x.plane
  let on := x.en && !old.any (·.en)
  let wipe := x.clear || on || old.all fun o => o.geo != x.geo
  let used := if !x.en && x.clear then 0 else x.cols * x.rows
  (d.setRec (denUnit p) 1 x.plane c).onPlane p x.plane fun y =>
    let y := { y with cnt := if wipe then [] else y.cnt, used }
    let y := if on then { y with recv := 0, acc := 0, decays := 0, per := 0, onAt := d.stamp } else y
    if x.dper ≠ 0 ∧ (on ∨ old.all fun o => o.dper != x.dper || o.dbase != x.dbase) then
      { y with per := 0, perEnd := x.periodEnd y.onAt d.stamp } else y

/-- R493: an OCC commits. -/
def State.occCommit (s : State) (p : Nat) (r : Shadow) : State :=
  let old := s.dev.rec? (denUnit p) 2
  let changed := old.all fun o => { OccRec.of o with dest := (OccRec.of r.cells).dest, ok := true } != { OccRec.of r.cells with ok := true }
  let s := if changed then s.closeOcc p else s
  s.onDev fun d => (d.setRec (denUnit p) 2 0 r.cells).onDen p fun e =>
    { e with
      oOwner := d.originSession r.origin, oStopped := e.oStopped && !bit (cellOf r.cells 0) 0
      oRecv := if old.any fun o => (OccRec.of o).en then e.oRecv else 0 }

/-- The records that wait commit at the boundary; a CMAP stays until its own event (R500, R501). -/
def State.denCommit (s : State) (p : Nat) : State :=
  let u := denUnit p
  let (rs, d) := s.dev.takeShadow u fun x => x.typ != 4
  rs.foldl (fun s r =>
    match s.dev.denCheck p r with
    | .error st => s.onDev fun d => d.rejectRec u r st
    | .ok _ =>
      let s := s.onDev fun d => d.decideRec u r .ok
      match r.typ with
      | 1 => s.onDev fun d => d.planeCommit p r.cells
      | 2 => s.occCommit p r
      | _ => s.onDev fun d => d.startRender p r) { s with dev := d }

/-- R500: a CMAP commits once no render of the unit runs; then the pending renders start. -/
def Dev.cmapCommit (d : Dev) (p : Nat) : Dev :=
  let u := denUnit p
  if (List.range 4).any fun i => ((d.dens p).plane i).run.isSome then d else
  match d.waiting? u 4 with
  | none => d
  | some r =>
    let ok := d.denCheck p r
    let (_, d) := d.takeShadow u fun x => x.typ == 4
    let d := match ok with
      | .ok _ =>
        let base := fld (cellOf r.cells 0) 0 10
        (d.decideRec u r .ok).onDen p fun e =>
          { e with cmap := Tbl.putRun 0 e.cmap base ((r.cells.drop 1).map fun v => v.truncate 30) }
      | .error st => d.rejectRec u r st
    (List.range 4).foldl (fun d i => d.onPlane p i fun y => { y with run := y.pend, pend := none }) d

def execCmapCommit (port : Fin 4) (s : State) : Outcome := devStep s fun d => d.cmapCommit port

/-- R493: a tally that holds OCOUNT spectra writes its record. -/
def execOccupancyRecord (port : Fin 4) (s : State) : Outcome :=
  .next (match s.dev.rec? (denUnit port) 2 with
    | some c => if (OccRec.of c).count ≤ (s.dev.dens port).oN then s.closeOcc port else s
    | none => s)

/-! Full-rate spectra. -/

/-- R361: an engine emits its next spectrum to its outputs, the cross-spectrum unit, its trigger unit and its density unit. -/
def State.fullRate (s : State) (p : Nat) : State :=
  match s.dev.speEmit p with
  | none => s
  | some (x, d) =>
    let s := (({ s with dev := d } : State).denCommit p).speStore p x
    (s.onDev fun d => (d.xspTake p x).onTrig p fun t => { t with specs := t.specs ++ [x] }).denTake p x

def execFullRateSpectrum (port : Fin 4) (s : State) : Outcome := .next (s.fullRate port)

end Sys2Proof.Machine
end

