-- ==== Sys2Proof/Machine/Sco.lean ====
section
/-!
DEFINITION. Scan-out: records (R504 to R523), layers and the latch line (R514 to R520), underruns (R513), DisplayPort
outputs (R508 to R511), and the composition of a pixel (R505, R506).
-/
namespace Sys2Proof.Machine

def scoUnit : Nat := 0x30

def Dev.onSco (d : Dev) (f : Sco → Sco) : Dev := { d with sco := f d.sco }
def Sco.layer (e : Sco) (l : Nat) : ScoLayer := Tbl.get {} e.layers l
def Dev.onLayer (d : Dev) (l : Nat) (f : ScoLayer → ScoLayer) : Dev := d.onSco fun e => { e with layers := Tbl.upd {} e.layers l f }
def Sco.out (e : Sco) (o : Nat) : ScoOut := Tbl.get {} e.outs o
def Dev.onOut (d : Dev) (o : Nat) (f : ScoOut → ScoOut) : Dev := d.onSco fun e => { e with outs := Tbl.upd {} e.outs o f }

/-- Set a bit of SCO_ERR; its rise writes a record (R859). -/
def Dev.scoErr (d : Dev) (b sev : Nat) (detail : Nat := 0) : Dev :=
  let d := if bit d.sco.err b then d else d.log { code := .ok, sev, domain := domSco, src := BitVec.ofNat 8 scoUnit, cause := b, detail }
  d.onSco fun e => { e with err := setBit e.err b true }

/-! Records (R521, R522). -/

structure Timing where
  hact : Nat
  hfp : Nat
  hsync : Nat
  hbp : Nat
  vact : Nat
  vfp : Nat
  vsync : Nat
  vbp : Nat
  pclk : Nat
deriving DecidableEq, Repr

def Timing.of (c : List (BitVec 36)) : Timing :=
  let a := cellOf c 0
  let b := cellOf c 1
  let x := cellOf c 2
  { hact := fld a 0 12, hfp := fld a 12 12, hsync := fld a 24 12, hbp := fld b 0 12, vact := fld b 12 12, vfp := fld b 24 12
    vsync := fld x 0 12, vbp := fld x 12 12, pclk := fld (cellOf c 3) 0 20 }

/-- R507. -/
def timingOk (c : List (BitVec 36)) : Bool :=
  let t := Timing.of c
  let pos := fun v => decide (1 ≤ v)
  fld (cellOf c 2) 26 10 == 0 && fld (cellOf c 3) 20 16 == 0 && decide (640 ≤ t.hact ∧ t.hact ≤ 3840) && t.hact % 8 == 0 &&
    pos t.hfp && pos t.hsync && pos t.hbp && decide (t.hact + t.hfp + t.hsync + t.hbp ≤ 8191) &&
    decide (480 ≤ t.vact ∧ t.vact ≤ 2160) && pos t.vfp && pos t.vsync && pos t.vbp &&
    decide (t.vact + t.vfp + t.vsync + t.vbp ≤ 4095 ∧ 25000 ≤ t.pclk ∧ t.pclk ≤ 594000)

structure OutSet where
  en : Bool
  lanes : Nat
  rate : Nat
deriving DecidableEq, Repr

def OutSet.of (c : List (BitVec 36)) : OutSet := { en := bit (cellOf c 0) 1, lanes := fld (cellOf c 0) 2 2, rate := fld (cellOf c 0) 4 2 }

/-- Mbit/s a lane, in units of 10. -/
def OutSet.rate10 (o : OutSet) : Nat := match o.rate with | 0 => 162 | 1 => 270 | 2 => 540 | _ => 810

def Dev.outSet? (d : Dev) (o : Nat) : Option OutSet := (d.rec? scoUnit 2 o).map OutSet.of
def Dev.timing? (d : Dev) : Option Timing := (d.rec? scoUnit 1).map Timing.of

/-- R509: PCLK × 30 ≤ LANES × RATE × 0.8. -/
def outFits (o : OutSet) (pclk : Nat) : Bool := decide (pclk * 30 ≤ 2 ^ o.lanes * o.rate10 * 10000 * 8 / 10)

structure LayerRec where
  en : Bool
  pitch : Nat
  base : Nat
deriving DecidableEq, Repr

def LayerRec.of (c : List (BitVec 36)) : LayerRec :=
  { en := bit (cellOf c 0) 1, pitch := fld (cellOf c 0) 2 10 * 64, base := (cellOf c 1).toNat + fld (cellOf c 2) 0 12 * 2 ^ 36 }

def scoLen (typ : Nat) (_ : List (BitVec 36)) : Option Nat :=
  match typ with | 1 => some 4 | 2 => some 1 | 3 => some 3 | 4 => some 2 | 5 => some 1 | _ => none

/-- Shelves of a layer's buffer under the TIMING in force. -/
def Dev.layerShelves (d : Dev) (c : List (BitVec 36)) : List Nat :=
  let x := LayerRec.of c
  if x.en then shelfRun x.base (d.timing?.elim 0 (·.vact) * x.pitch) else []

/-- The buffer lies in mapped Shelves (R518). -/
def Dev.layerMapped (d : Dev) (session : Nat) (c : List (BitVec 36)) : Bool :=
  (d.layerShelves c).all fun i => (d.stk.entry? session i).isSome

/-- R504, R507, R509, R518, R523, and R520 for update class I. -/
def Dev.scoCheck (d : Dev) (r : Shadow) : Except Status Unit := do
  let c := r.cells
  let z := fun i lo n => fld (cellOf c i) lo n == 0
  need (!(decide (r.typ ≤ 2) && (d.sco.en || d.sco.run))) .cfgLocked
  match r.typ with
  | 1 =>
    need (timingOk c)
    need ((List.range 2).all fun o => (d.outSet? o).all fun x => !x.en || outFits x (Timing.of c).pclk)
  | 2 =>
    let x := OutSet.of c
    let other := d.outSet? (1 - fld (cellOf c 0) 0 1)
    need (z 0 7 29 && decide (x.lanes ≤ 2) && (!x.en || (d.timing?.all (fun t => outFits x t.pclk) && other.all fun y => !y.en || y.rate == x.rate)))
  | 3 =>
    let x := LayerRec.of c
    need (z 0 12 24 && z 2 12 24)
    need (!x.en || (r.origin.isSome && x.base % 64 == 0 && d.timing?.any (fun t => decide (4 * t.hact ≤ x.pitch ∧ x.base + t.vact * x.pitch ≤ 2 ^ 48)) &&
      d.layerMapped (d.originSession r.origin) c))
  | 4 => need (z 0 30 6 && z 1 30 6)
  | _ => need (z 0 13 23 && decide (64 ≤ fld (cellOf c 0) 0 13) && d.timing?.all fun t => decide (fld (cellOf c 0) 0 13 ≤ t.hact))

/-- R514: the frame that will use a LAYER record whose shadow write completes now. -/
def Sco.nextUse (e : Sco) : BitVec 16 := if e.latched then e.frame + 2 else 1

/-- R514, R515, R517: a checked LAYER record waits for the latch line; its paged-out Shelves begin to come in. -/
def Dev.layerSubmit (d : Dev) (r : Shadow) : Dev :=
  let l := fld (cellOf r.cells 0) 0 1
  let n := d.originSession r.origin
  let d := match (d.sco.layer l).pend with
    | some (_, o) =>
      -- what still comes in for the replaced record has no requester
      ({ d with stk := { d.stk with xfers := mapIf (fun x => x.requester == Requester.layer l) (fun x => { x with requester := .none_ }) d.stk.xfers } }).decideRec
        scoUnit o .cancelled
    | none => d
  let d := d.onLayer l fun y => { y with pend := some (n, r), target := d.sco.nextUse }
  (d.layerShelves r.cells).foldl (fun d i => d.pageIn n i (.layer l)) d

/-- A record reaches scan-out. -/
def Dev.scoSubmit (d : Dev) (r : Shadow) : Dev :=
  match d.scoCheck r with
  | .error st => d.rejectRec scoUnit r st
  | .ok _ => if r.typ = 3 then d.layerSubmit r else d.shadowPut scoUnit r

/-- R510: an OUT record sets its output's state. -/
def Dev.outCommit (d : Dev) (c : List (BitVec 36)) : Dev :=
  let o := fld (cellOf c 0) 0 1
  let same := d.rec? scoUnit 2 o == some c
  let d := d.setRec scoUnit 2 o c
  if same then d else d.onOut o fun y => { y with st := if !(OutSet.of c).en then 0 else if y.hpd then 2 else 1 }

/-- Records of class I commit while scan-out is idle; those of class B at the latch line. -/
def Dev.scoCommit (d : Dev) (latch : Bool) : Dev :=
  let (rs, d) := d.takeShadow scoUnit fun x => if x.typ ≤ 2 then !d.sco.en && !d.sco.run else latch
  rs.foldl (fun d r => match d.scoCheck r with
    | .error st => d.rejectRec scoUnit r st
    | .ok _ =>
      let d := d.decideRec scoUnit r .ok
      if r.typ = 2 then d.outCommit r.cells else d.setRec scoUnit r.typ 0 r.cells) d

/-! The latch line (R514 to R520). -/

/-- R516: references and pins on a buffer's Shelves. -/
def Stk.refShelves (k : Stk) (session : Nat) (idxs : List Nat) (up : Bool) : Stk :=
  let f := fun n : Nat => if up then n + 1 else n - 1
  k.onEntries (fun e => e.session == session && idxs.contains e.idx) fun e => { e with refs := f e.refs, pins := f e.pins }

/-- Release a layer's references. -/
def Dev.layerRelease (d : Dev) (l : Nat) : Dev :=
  match (d.sco.layer l).cur with
  | none => d
  | some (n, c) =>
    let d : Dev := { d with stk := (d.stk.refShelves n (d.layerShelves c) false).reclaim }
    d.onLayer l fun y => { y with cur := none }

/-- One layer at the latch line. -/
def Dev.layerLatch (d : Dev) (l : Nat) : Dev :=
  match (d.sco.layer l).pend with
  | none => d
  | some (n, r) =>
    let idxs := d.layerShelves r.cells
    if !d.layerMapped n r.cells then
      let d := d.onLayer l fun y => { y with pend := none }
      let d := (d.decideRec scoUnit r .cfgRange).onSco fun e => { e with err := setBit e.err 2 true }
      d.log { code := .grantFault, sev := 0, domain := domSco, src := BitVec.ofNat 8 scoUnit, cause := 2, session := n, detail := l }
    else if idxs.any fun i => match d.stk.translate n (i * shelfBytes) with | .phys _ => false | _ => true then
      -- a Shelf that went out since the shadow write comes in as well (R175)
      let d := idxs.foldl (fun d i => d.pageIn n i (.layer l)) d
      (d.onLayer l fun y => { y with defers := sat32 y.defers, target := y.target + 1 }).scoErr 3 0 l
    else
      let d : Dev := { d with stk := d.stk.refShelves n idxs true }
      let d := d.layerRelease l
      let d := idxs.foldl (fun d i => d.touch n i) d
      let d := d.decideRec scoUnit r .ok
      d.onLayer l fun y => { y with pend := none, cur := if (LayerRec.of r.cells).en then some (n, r.cells) else none }

/-- R520: scan-out stops. -/
def Dev.scoStop (d : Dev) : Dev := ((d.layerRelease 0).layerRelease 1).onSco fun e => { e with run := false, latched := false, frame := 0 }

/-- R514, R516 to R520: the first pixel clock of line VACT. -/
def Dev.latchLine (d : Dev) : Dev :=
  if !d.sco.run then d else
  let d := d.onSco fun e => { e with frame := if e.latched then e.frame + 1 else e.frame, latched := true }
  let d := (d.onLayer 0 fun y => { y with lost := [] }).onLayer 1 fun y => { y with lost := [] }
  if !d.sco.en then d.scoStop else
  let d := ((d.scoCommit true).layerLatch 0).layerLatch 1
  (List.range 2).foldl (fun d o => if (d.outSet? o).any (·.en) then d.raise (0x800 + o) d.stamp else d) d

def execLatchLine (s : State) : Outcome := devStep s Dev.latchLine

/-- R520: a write of SCO_CTL.EN. -/
def Dev.scoEnable (d : Dev) (v : Bool) : Dev :=
  let d := d.scoCommit false
  d.onSco fun e => { e with en := v, run := e.run || v }

def execScoEnable (value : Bool) (s : State) : Outcome := 
  hostStep s fun d => if value ∧ !d.sco.en ∧ d.rel.devFault then d else d.scoEnable value

/-- R513: pixel x of a line is due and its layer has not fetched it. A line counts once. -/
def execUnderrun (layer : Fin 2) (line x : BitVec 12) (s : State) : Outcome :=
  devStep s fun d =>
    let y := d.sco.layer layer
    let seen := d.timing?.any fun t => decide (line.toNat < t.vact ∧ x.toNat < t.hact)
    if !d.sco.run ∨ y.cur.isNone ∨ !seen ∨ y.lost.any (fun l => l.1 == line.toNat) then d
    else (d.onLayer layer fun y => { y with under := sat32 y.under, lost := y.lost ++ [(line.toNat, x.toNat)] }).scoErr layer 1

/-! Outputs (R510, R511). -/

def Dev.outOn (d : Dev) (o : Nat) : Bool := (d.outSet? o).any (·.en)

def execPlug (output : Fin 2) (s : State) : Outcome :=
  devStep s fun d => d.onOut output fun y => { y with hpd := true, seen := setBit y.seen 0 true, st := if d.outOn output then 2 else y.st }

def execUnplug (output : Fin 2) (s : State) : Outcome :=
  devStep s fun d => d.onOut output fun y => { y with hpd := false, seen := setBit y.seen 1 true, st := if d.outOn output then 1 else y.st }

/-- IRQ_HPD; `lost` is the link status read from the sink. -/
def execIrqHpd (output : Fin 2) (lost : Bool) (s : State) : Outcome :=
  devStep s fun d => d.onOut output fun y =>
    if !y.hpd then y else { y with seen := setBit y.seen 2 true, st := if (y.st = 3 ∨ y.st = 4) ∧ lost then 2 else y.st }

def execLinkTrainingDone (output : Fin 2) (pass : Bool) (s : State) : Outcome :=
  devStep s fun d => d.onOut output fun y =>
    if y.st ≠ 2 then y else if pass then { y with st := 3 } else { y with st := 4, seen := setBit y.seen 3 true }

/-- R511: a host AUX transaction starts. -/
def execAuxGo (output : Fin 2) (s : State) : Outcome := startStep s fun d => d.onOut output fun y => { y with busy := true }

/-- An AUX transaction ends; while the output trains it still waits. `data` is what a read returned. -/
def execAuxReply (output : Fin 2) (result : BitVec 2) (data : List Byte) (s : State) : Outcome :=
  devStep s fun d => d.onOut output fun y =>
    if !y.busy ∨ y.st = 2 then y else
    let n := fld y.aux 24 4 + 1
    { y with busy := false, result
             data := ((data.take n).zipIdx).foldl (fun v (b, i) => setFld v (8 * i) 8 b.toNat) y.data }

/-! Pixels (R504 to R506). -/

/-- A component of the output: overlay o of weight a over density d. -/
def blend (o d a : Nat) : Nat := (o * a + d * (4 - a) + 2) / 4

/-- The weight of an overlay pixel. -/
def overlayWeight (w : BitVec 32) : Nat := match fld w 30 2 with | 0 => 0 | 1 => 1 | 2 => 2 | _ => 4

/-- A layer's pixel word at (x, y), none where the layer is disabled. After an underrun layer 0 shows UCOLOR and layer 1 is
transparent for the rest of the line (R513). -/
def State.layerPixel (s : State) (l x y : Nat) : Option (BitVec 32) :=
  match (s.dev.sco.layer l).cur with
  | none => none
  | some (n, c) =>
    let r := LayerRec.of c
    if (s.dev.sco.layer l).lost.any fun (v, u) => v == y && decide (u ≤ x) then
      if l = 0 then some ((cellOf ((s.dev.rec? scoUnit 4).getD []) 1).truncate 32) else none
    else some (BitVec.ofNat 32 (ofLeBytes (s.shelfGet n (r.base + y * r.pitch + 4 * x) 4)))

/-- R506: the output pixel at (x, y), blue lowest. -/
def State.scoPixel (s : State) (x y : Nat) : BitVec 30 :=
  let bg : BitVec 32 := (cellOf ((s.dev.rec? scoUnit 4).getD []) 0).truncate 32
  let d := (s.layerPixel 0 x y).getD bg
  let o := (s.layerPixel 1 x y).getD 0
  let a := overlayWeight o
  let f := fun i : Nat => blend (fld o (10 * i) 10) (fld d (10 * i) 10) a
  BitVec.ofNat 30 (f 0 + f 1 * 2 ^ 10 + f 2 * 2 ^ 20)

end Sys2Proof.Machine
end

