-- ==== Sys2Proof/Machine/TimRing.lean ====
section
/-!
DEFINITION. The sync ring (R730 to R742), the setup records of the time base (R743) and its tick (R698, R700, R701).
-/
namespace Sys2Proof.Machine

def Dev.onRing (d : Dev) (f : Ring → Ring) : Dev := d.onTim fun t => { t with ring := f t.ring }

/-! Frames (R732). -/

structure RingFrame where
  typ : Nat
  hops : Nat := 0
  gen : Nat
  seq : Nat
  mid : Nat
  w1 : Nat := 0
  w2 : Nat := 0
  w3 : Nat := 0
deriving DecidableEq

def RingFrame.word0 (f : RingFrame) : Nat := f.typ % 256 + f.hops % 256 * 2 ^ 8 + f.gen % 256 * 2 ^ 16 + f.seq % 256 * 2 ^ 24 + f.mid % 2 ^ 16 * 2 ^ 32

/-- What the CRC covers. -/
def RingFrame.low (f : RingFrame) : Nat := f.word0 + f.w1 % 2 ^ 64 * 2 ^ 64 + f.w2 % 2 ^ 64 * 2 ^ 128 + f.w3 % 2 ^ 32 * 2 ^ 192

def RingFrame.enc (f : RingFrame) : BitVec 256 := BitVec.ofNat 256 (f.low + crc32c (leBytes 28 f.low) * 2 ^ 224)

/-- A frame whose CRC holds. -/
def RingFrame.dec (x : BitVec 256) : Option RingFrame :=
  let v := x.toNat
  if crc32c (leBytes 28 v) ≠ fld x 224 32 then none
  else some { typ := fld x 0 8, hops := fld x 8 8, gen := fld x 16 8, seq := fld x 24 8, mid := fld x 32 16, w1 := fld x 64 64,
              w2 := fld x 128 64, w3 := fld x 192 32 }

/-- Put a frame on SR_TX of a direction. -/
def Dev.ringTx (d : Dev) (dir : Nat) (f : RingFrame) : Dev := d.onRing fun r => { r with sent := r.sent ++ [(dir, f.enc)] }

/-- Send a frame of this device's own. -/
def Dev.ringSend (d : Dev) (dir typ : Nat) (w1 w2 w3 : Nat := 0) : Dev :=
  let r := d.tim.ring
  let mid := if r.master then r.mid else r.following.getD 0
  let d := d.ringTx dir { typ, gen := r.gen.toNat, seq := r.seq.toNat, mid := mid.toNat, w1, w2, w3 }
  d.onRing fun r =>
    let own := r.own ++ [(typ, r.seq)]
    { r with seq := r.seq + 1, own := if r.master ∨ (typ ≠ 4 ∧ typ ≠ 8) then r.own else own.drop (own.length - 16) }

/-- R733: forward a frame. -/
def Dev.ringForward (d : Dev) (dir : Nat) (f : RingFrame) : Dev := d.ringTx dir { f with hops := f.hops + 1 }

/-- The link towards the next device of a direction: the neighbour's other link is received. -/
def Ring.down (r : Ring) (dir : Nat) : Bool := if dir = 0 then !r.rx1 else !r.rx0

/-! Commands (R739 to R741). -/

/-- R741: a command is taken; a sync strobe reaches the units at once (R728). -/
def Dev.ringAccept (d : Dev) (c : TimCmd) (seq : BitVec 16) : Dev :=
  let d := d.onRing fun r =>
    let seen := r.seen ++ [seq]
    { r with seen := seen.drop (seen.length - 16) }
  if c.index = 0 then d.strobe c else d.onTim fun t => { t with atT := t.atT ++ [c] }

/-- R739: the master sends each command three times in both directions, and acts on it itself. -/
def Dev.ringIssue (d : Dev) (c : TimCmd) : Dev :=
  let seq := d.tim.ring.cmdSeq
  let d := d.onRing fun r => { r with cmdSeq := r.cmdSeq + 1 }
  let d := (List.range 3).foldl (fun d k => (List.range 2).foldl (fun d dir =>
    d.ringSend dir 2 c.t.toNat (c.index.toNat + k * 2 ^ 8 + c.arg.toNat * 2 ^ 32) seq.toNat) d) d
  d.ringAccept c seq

/-- R739: whether T lies far enough ahead. -/
def Dev.farEnough (d : Dev) (t : BitVec 64) : Bool := decide ((max 8192 d.tim.ring.lead.toNat : Int) ≤ (t - d.now).toInt)

/-! Enumeration (R737, R740). -/

/-- The enumeration ends: DONE, event 0x205, and the commands that were held. -/
def Dev.ringFinish (d : Dev) (size : Nat) (whole : Bool) : Dev :=
  let d := d.onRing fun r => { r with enumerating := none, size := BitVec.ofNat 8 size, whole }
  let d := (List.range 2).foldl (fun d dir => d.ringSend dir 5 (size % 256 + whole.toNat * 256)) d
  let d := d.raise 0x205 d.stamp
  let held := d.tim.ring.held
  let late := held.filter fun c => !d.farEnough c.t
  let d := (held.filter fun c => d.farEnough c.t).foldl Dev.ringIssue (d.onRing fun r => { r with held := [] })
  if late.isEmpty then d else
  (d.onRing fun r => { r with cmdDrop := BitVec.ofNat 8 (satInc 8 r.cmdDrop.toNat late.length) }).timRecord 0 (detail := late.length)

/-- R737: both directions end at a break. -/
def Dev.ringEnds (d : Dev) : Dev :=
  match d.tim.ring.enumerating with
  | some (some a, some b) => d.ringFinish (1 + a + b) false
  | _ => d

/-- R737: the master enumerates. -/
def Dev.ringEnum (d : Dev) : Dev :=
  let r := d.tim.ring
  if !r.en ∨ !r.master then d else
  let e := fun dir => if r.down dir then some 0 else none
  let d := d.onRing fun r => { r with gen := r.gen + 1, pos0 := 0, pos1 := 0, enumerating := some (e 0, e 1) }
  ((List.range 2).foldl (fun d dir => if r.down dir then d else d.ringSend dir 3 1) d).ringEnds

def execEnum (s : State) : Outcome := devStep s Dev.ringEnum

/-! Receiving (R732 to R742). -/

/-- Hop delay of a direction (R734). -/
def Ring.hop (r : Ring) (dir : Nat) : Nat := (if dir = 0 then r.hop0 else r.hop1).toNat

/-- R734: the answer to an echo; the mean's rounding is a free value. -/
def Dev.ringEcho (d : Dev) (dir : Nat) (f : RingFrame) (arrival : Stamp) : Dev :=
  let rt : Nat := (arrival.toNat + 2 ^ 40 - f.w1 % 2 ^ 40) % 2 ^ 40
  let hop : Int := ((rt : Int) - (f.w2 % 2 ^ 32 : Nat) + 1) >>> 1
  let up := bit d.free 0
  d.freed.onRing fun r =>
    let l := (if dir = 0 then r.echo0 else r.echo1) ++ [hop]
    let l := l.drop (l.length - 16)
    let m := BitVec.ofInt 32 (meanOf l up)
    if dir = 0 then { r with echo0 := l, hop0 := m } else { r with echo1 := l, hop1 := m }

/-- Ticks without beacons after which a direction is silent (R738). -/
def beaconLimit : Nat := 2048000

def Dev.beaconFresh (d : Dev) (t : Option (BitVec 64)) : Bool := t.any fun t => (d.tim.ticks - t).toNat < beaconLimit

/-- R735, R736: a beacon reaches a device that follows it. -/
def Dev.ringBeacon (d : Dev) (dir : Nat) (f : RingFrame) (arrival : Stamp) (residence : Nat) : Dev :=
  let hop := d.tim.ring.hop dir
  let corr := f.w2 % 2 ^ 40
  let d := d.onRing fun r =>
    let r := { r with isolated := false }
    if dir = 0 then { r with beacon0 := some d.tim.ticks } else { r with beacon1 := some d.tim.ticks }
  let d := d.ringForward dir { f with w2 := (corr + hop + residence) % 2 ^ 40 }
  let src := if d.tim.ring.rx0 ∧ d.beaconFresh d.tim.ring.beacon0 then 0 else 1
  let d := d.onRing fun r => { r with srcdir := src == 1 }
  if src ≠ dir then d else
  let sample := stampDiff arrival (BitVec.ofNat 72 (f.w1 * 256 + corr + hop))
  let up := bit d.free 0
  let d := d.freed.onRing fun r =>
    let l := r.offs ++ [sample]
    let l := l.drop (l.length - 16)
    { r with offs := l, off := BitVec.ofInt 32 (satS 32 (meanOf l up)) }
  let off := d.tim.ring.off.toInt
  if d.tim.ring.follow ∧ (off ≠ 0 ∨ d.tim.rem ≠ 0) then d.slew (-off) 1000 else d

/-- What a device other than the master does with a frame of the MID it follows. -/
def Dev.ringSlave (d : Dev) (dir : Nat) (f : RingFrame) (arrival : Stamp) (residence : Nat) : Dev :=
  match f.typ with
  | 1 => d.ringBeacon dir f arrival residence
  | 2 =>
    let seq := BitVec.ofNat 16 f.w3
    let d := d.ringForward dir f
    if d.tim.ring.isolated ∨ d.tim.ring.seen.contains seq then d
    else d.ringAccept { t := BitVec.ofNat 64 f.w1, index := BitVec.ofNat 8 f.w2, arg := BitVec.ofNat 32 (f.w2 / 2 ^ 32) } seq
  | 3 =>
    let next := f.w1 % 256
    let d := d.onRing fun r =>
      let r := { r with gen := BitVec.ofNat 8 f.gen, following := some (BitVec.ofNat 16 f.mid) }
      if dir = 0 then { r with pos0 := BitVec.ofNat 8 next } else { r with pos1 := BitVec.ofNat 8 next }
    if d.tim.ring.down dir then d.ringSend (1 - dir) 4 next
    else d.ringForward dir { f with w1 := f.w1 / 256 * 256 + (next + 1) % 256 }
  | 5 =>
    let d := d.onRing fun r => { r with size := BitVec.ofNat 8 f.w1, whole := f.w1.testBit 8 }
    (d.raise 0x205 d.stamp).ringForward dir f
  | _ => d.ringForward dir f

/-- What the master does with a frame of its MID. -/
def Dev.ringMaster (d : Dev) (dir : Nat) (f : RingFrame) : Dev :=
  match f.typ with
  | 1 =>
    let delay := f.w2 % 2 ^ 40 + d.tim.ring.hop dir
    d.onRing fun r => { r with lead := BitVec.ofNat 32 (cdiv delay 256 + 8192) }
  | 2 | 5 => d
  | 3 => if d.tim.ring.enumerating.isSome ∧ dir = 0 ∧ f.gen = d.tim.ring.gen.toNat then d.ringFinish (f.w1 % 256) true else d
  | 4 =>
    let d := if f.gen ≠ d.tim.ring.gen.toNat then d else d.onRing fun r =>
      { r with enumerating := r.enumerating.map fun (a, b) => if dir = 1 then (some (f.w1 % 256), b) else (a, some (f.w1 % 256)) }
    d.ringEnds.ringForward dir f
  | 8 => (d.ringForward dir f).ringEnum
  | _ => d.ringForward dir f

/-- A frame arrives on SR_RX of a direction. -/
def Dev.ringReceive (d : Dev) (dir : Nat) (x : BitVec 256) (arrival : Stamp) (residence : Nat) : Dev :=
  if !d.tim.ring.en then d else
  match RingFrame.dec x with
  | none =>
    let d := d.onRing fun r => { r with crc := BitVec.ofNat 16 (satInc 16 r.crc.toNat), crcRun := r.crcRun + 1 }
    if 16 ≤ d.tim.ring.crcRun ∧ d.tim.ring.master then (d.onRing fun r => { r with crcRun := 0 }).ringEnum else d
  | some f =>
    let d := d.onRing fun r => { r with crcRun := 0 }
    let r := d.tim.ring
    if f.typ = 6 then d.ringSend (1 - dir) 7 f.w1 (residence % 2 ^ 32)
    else if f.typ = 7 then d.ringEcho dir f arrival
    else if r.master then
      if f.mid = r.mid.toNat ∨ (f.mid = 0 ∧ (f.typ = 4 ∨ f.typ = 8)) then d.ringMaster dir f
      else if r.conflict then d
      else (d.onRing fun r => { r with conflict := true }).timRecord 0 27
    else
      let d := if f.typ = 1 ∧ r.following.isNone then d.onRing fun r => { r with following := some (BitVec.ofNat 16 f.mid) } else d
      if d.tim.ring.following.any fun m => m.toNat != f.mid then d
      else if r.own.contains (f.typ, BitVec.ofNat 8 f.seq) then d
      else d.ringSlave dir f arrival residence

def execRingFrameReceive (dir : Fin 2) (frame : BitVec 256) (arrival : BitVec 72) (residence : BitVec 32) (s : State) : Outcome :=
  devStep s fun d => d.ringReceive dir frame arrival residence.toNat

/-- R733: the master's beacon of this microsecond. -/
def execBeacon (s : State) : Outcome :=
  devStep s fun d =>
    if !d.tim.ring.en ∨ !d.tim.ring.master then d else
    let flags := (d.tim.ref != .locked).toNat + 2 * d.tim.unset.toNat
    (List.range 2).foldl (fun d dir => d.ringSend dir 1 d.now.toNat 0 flags) d

/-- R734: the echo requests of this millisecond, with their departure times. -/
def execEchoReq (depart0 depart1 : BitVec 72) (s : State) : Outcome :=
  devStep s fun d =>
    if !d.tim.ring.en then d else
    (d.ringSend 0 6 (depart0.toNat % 2 ^ 40)).ringSend 1 6 (depart1.toNat % 2 ^ 40)

/-- R737: the receive links are up or down. -/
def execChange (rx0 rx1 : Bool) (s : State) : Outcome :=
  devStep s fun d =>
    let r := d.tim.ring
    if !r.en ∨ (r.rx0 = rx0 ∧ r.rx1 = rx1) then d else
    let d := d.onRing fun r => { r with rx0, rx1 }
    if r.master then d.ringEnum
    else (List.range 2).foldl (fun d dir => d.ringSend dir 8 (rx0.toNat + 2 * rx1.toNat)) d

/-- R738. -/
def execIsolated (s : State) : Outcome :=
  devStep s fun d => if d.tim.ring.en && !d.tim.ring.master then d.onRing fun r => { r with isolated := true } else d

/-- TIM_RING_CFG (R730, R732, R737): MASTER is fixed while EN is 1; setting it draws an identifier. -/
def Dev.ringCfg (d : Dev) (en master follow : Bool) : Dev :=
  let r := d.tim.ring
  if r.en ∧ master ≠ r.master then d.timRecord 0 (code := .cfgLocked)
  else
    let d := if master ∧ !r.master then d.freed.onRing fun r => { r with mid := d.free.truncate 16 } else d
    let d := d.onRing fun r =>
      { r with en, master, follow, rx0 := r.rx0 && en, rx1 := r.rx1 && en, following := if en && !r.en then none else r.following }
    if en ∧ !r.en then d.ringEnum else d

/-! Setup records (R743). -/

def timLen (typ : Nat) (_ : List (BitVec 36)) : Option Nat :=
  match typ with
  | 1 | 3 | 4 => some 4
  | 2 => some 6
  | _ => none

/-- R739, R743. -/
def Dev.timCheck (d : Dev) (r : Shadow) : Except Status Unit :=
  let c := r.cells
  let z := fun i lo n => fld (cellOf c i) lo n == 0
  match r.typ with
  | 1 =>
    let x := TsiRec.of c
    let i := fld (cellOf c 0) 0 4
    need (z 0 8 28 && x.ok && decide (i ≤ 8 ∧ x.edge ≤ 2 ∧ (i = 8 → x.edge = 0)) && decide (x.dest.kind ≤ 1) && d.destOk r.origin x.dest 4 0)
  | 2 =>
    let x := StatsRec.of c
    need (z 0 12 24 && z 1 27 9 && z 2 32 4 && x.ok && decide (x.dest.kind ≤ 1) && d.destOk r.origin x.dest 8 0 &&
      (!x.en || (decide (x.start ≤ 8 ∧ x.stop ≤ 8 ∧ 1 ≤ x.win ∧ 1 ≤ x.n ∧ x.dest.kind = 1) && d.inputEn x.start && (x.mode || d.inputEn x.stop))))
  | 3 => need (z 0 4 32 && z 2 28 8 && z 3 32 4)
  | _ =>
    need (z 0 8 28 && z 2 28 8 && z 3 32 4 && d.tim.ring.en && d.tim.ring.master &&
      d.farEnough (BitVec.ofNat 64 ((cellOf c 1).toNat + (cellOf c 2).toNat * 2 ^ 36)))

/-- The T of an ALARM or RCMD record. -/
def timT (c : List (BitVec 36)) : BitVec 64 := BitVec.ofNat 64 ((cellOf c 1).toNat + (cellOf c 2).toNat * 2 ^ 36)

/-- What a record does when it commits. -/
def Dev.timApply (d : Dev) (r : Shadow) : Dev :=
  let c := r.cells
  let a := cellOf c 0
  match r.typ with
  | 2 => d.onStat (fld a 0 2) fun e => { e.fresh with starts := [], stops := [], prev := none }
  | 3 => d.onTim fun t =>
    { t with alarms := Tbl.upd {} t.alarms (fld a 0 3) fun y => { y with en := bit a 3, t := timT c, period := (cellOf c 3).truncate 32 } }
  | 4 =>
    let x : TimCmd := { t := timT c, index := a.truncate 8, arg := (cellOf c 3).truncate 32 }
    if d.tim.ring.enumerating.isSome then d.onRing fun r => { r with held := r.held ++ [x] } else d.ringIssue x
  | _ => d

/-- The sub-index of a record: the input, the unit or the alarm. -/
def timSub (r : Shadow) : Nat :=
  match r.typ with
  | 1 => fld (cellOf r.cells 0) 0 4
  | 2 => fld (cellOf r.cells 0) 0 2
  | 3 => fld (cellOf r.cells 0) 0 3
  | _ => 0

/-- R743: the records that wait commit at a tick. -/
def Dev.timCommit (d : Dev) : Dev :=
  let (l, d) := d.takeShadow timUnit fun _ => true
  l.foldl (fun d r =>
    let ok := d.timCheck r
    let d := d.settle timUnit r (timSub r) ok
    match ok with
    | .ok _ => d.timApply r
    | .error _ => d) d

/-! The tick. -/

/-- One tick of CD02, once the reference PLL runs (R698 to R701, R726, R741, R743). Targets whose T is the count fire, and those
that a step or commit of the tick before passed (R704). -/
def Dev.timTick (d : Dev) : Dev :=
  if !d.tim.started then d else
  let was := d.now
  let passed := fun k => (d.tim.alarm k).en && !tickBefore was (d.tim.alarm k).t
  let held := d.tim.atT
  let d := (d.onTim fun t => { t with count := t.count + 1, ticks := t.ticks + 1 }).slewTick
  let d := if bit d.tim.adjCtl 2 then d.adjust else d
  let d := d.timCommit
  let now := d.now
  let d := (List.range 8).foldl (fun d k => if passed k || (d.tim.alarm k).t == now then d.fireAlarm k else d) d
  d.fireWhere fun c => c.t == now || (held.contains c && !tickBefore was c.t && !tickBefore now c.t)

end Sys2Proof.Machine
end

