-- ==== Sys2Proof/Machine/Records.lean ====
section
/-!
DEFINITION. Setup records of every unit: length by type, the path into shadow storage, the register path, and the units'
boundaries (R35 to R37, R567, R569, R854).
-/
namespace Sys2Proof.Machine

/-- The port of a unit that stands once per port. -/
def unitPort (u : Nat) : Nat := u % 4

/-- The unit's kind: the first ID of its group. -/
def unitKind (u : Nat) : Nat := if 0x28 ≤ u ∨ u = 0x14 then u else u / 4 * 4

/-- Length in cells of a record by unit, type and count fields; none where the unit has no such type or does not
exist (R567). -/
def recLen (u typ : Nat) (c : List (BitVec 36)) : Option Nat :=
  match unitKind u with
  | 0x00 => ingLen typ c
  | 0x08 => chnLen typ c
  | 0x10 => speLen typ c
  | 0x14 => xspLen typ c
  | 0x18 => trgLen typ c
  | 0x20 => denLen typ c
  | 0x28 => capLen typ c
  | 0x30 => scoLen typ c
  | 0x38 => timLen typ c
  | 0x40 => monLen typ c
  | _ => none

/-- A FORCE record of a trigger unit acts as it is taken (R427, R447, R448). -/
def Dev.forceRec (d : Dev) (p : Nat) (r : Shadow) : Dev :=
  match d.trgCheck p r with
  | .error st => d.rejectRec (trgUnit p) r st
  | .ok _ =>
    let d := d.decideRec (trgUnit p) r .ok
    if bit (cellOf r.cells 0) 0 then d.onTrig p fun t => { t with force := true } else d

/-- A record reaches its unit: the unit checks it as its chapter says, and takes it into shadow storage. -/
def Dev.submitRec (d : Dev) (u : Nat) (r : Shadow) : Dev :=
  let p := unitPort u
  match unitKind u with
  | 0x00 => d.ingSubmit p r
  | 0x08 | 0x20 => d.submit u r (need (!d.upperPort p))
  | 0x10 => d.submit u r (d.speCheck p r)
  | 0x14 => d.submit u r (d.xspCheck r)
  | 0x18 => if r.typ = 8 then d.forceRec p r else d.submit u r (d.trgCheck p r)
  | 0x28 => d.capSubmit r
  | 0x30 => d.scoSubmit r
  | 0x38 => d.submit u r (d.timCheck r)
  | _ => d.monSubmit r

/-! The register path (R854). -/

/-- R35, R452: a session holds what the record of a unit would change. -/
def Dev.pathHeld (d : Dev) (u : Nat) (cells : List (BitVec 36)) : Bool :=
  if u = capUnit then d.barrelHeld (fld (cellOf cells 0) 0 4) else d.writeHeld u

/-- A write of REC_CTL.GO. -/
def Dev.recGo (d : Dev) (u : Nat) : Dev :=
  let i := d.unit u
  let cells := (List.range i.len).map fun k => Tbl.get 0 i.buf k
  let r : Shadow := { typ := i.typ, cells, go := i.gos + 1 }
  let d := d.onUnit u fun i => { i with gos := i.gos + 1, result := 0xF }
  if i.len = 0 ∨ 64 < i.len ∨ recLen u i.typ cells ≠ some i.len then d.decideRec u r .cfgRange
  else if d.pathHeld u cells then d.rejectRec u r .cfgLocked
  else d.submitRec u r

/-- Units that have a record interface. -/
def recUnit (u : Nat) : Bool := unitExists u && u != 0x48

def execGo (unit_ : BitVec 8) (s : State) : Outcome :=
  startStep s fun d => if recUnit unit_.toNat then d.recGo unit_.toNat else d

/-! Boundaries. -/

/-- What waits at a unit whose boundary has come: the next beat of a running port, the next window or tick of an engine,
the next group of a pair, the next tick. Trigger units commit with the beat they combine, scan-out's class B records at
the latch line. -/
def State.boundary (s : State) (u : Nat) : State :=
  let p := unitPort u
  match unitKind u with
  | 0x00 => s.onDev fun d => d.ingCommit p
  | 0x08 => if (s.dev.port p).emits then s.onDev fun d => d.chnCommit p else s
  | 0x10 => s.speCommitStopped p
  | 0x14 => s.onDev Dev.xspCommit
  | 0x20 => if (s.dev.eng p).grids.isEmpty ∧ (s.dev.eng p).done.isEmpty then s.denCommit p else s
  | 0x30 => s.onDev fun d => d.scoCommit false
  | 0x38 => if s.dev.tim.started then s.onDev Dev.timCommit else s
  | 0x40 => if s.dev.tim.started then s.onDev Dev.monCommit else s
  | _ => s

def execRecordCommit (unit_ : BitVec 8) (s : State) : Outcome := .next (s.boundary unit_.toNat)

/-- Units whose boundary is the next tick while nothing else sets it. -/
def tickUnits : List Nat := [0x10, 0x11, 0x12, 0x13, 0x14, 0x20, 0x21, 0x22, 0x23, 0x30]

end Sys2Proof.Machine
end

