-- ==== Sys2Proof/Machine/SpuUnits.lean ====
section
/-!
DEFINITION. The Relnex operations that reach fixed units and movers (R567 to R571, R615, R866), and stream Crates.
-/
namespace Sys2Proof.Machine

/-- Let an operation act on the device and see the copy as the device then holds it. -/
def Work.through (w : Work) (f : Dev → Dev) : Work :=
  let d := f (w.st.dev.setInst w.key w.inst)
  { w with st := { w.st with dev := d }, inst := (Tbl.find? d.insts w.key).getD w.inst }

/-! SETUP. -/

/-- SETUPs whose results are undecided (R571). -/
def Inst.undecided (i : Inst) : Nat := (i.setups.filter fun e => e.result.isNone).length

/-- Number the SETUP, with its result if it is decided at once. -/
def Work.addSetup (w : Work) (result : Option Status) : Work :=
  { w with inst := { w.inst with
      setups := w.inst.setups ++ [{ idx := w.inst.nextSetup, result }]
      nextSetup := w.inst.nextSetup + 1 } }

/-- R569, R452: the RUN may write the unit; for unit 0x28 a grant on the record's Barrel serves as well. -/
def Work.maySetup (w : Work) (u : Nat) (cells : List (BitVec 36)) : Bool :=
  w.granted 2 u 2 || (u == capUnit && w.granted 3 (fld (cellOf cells 0) 0 4) 2)

/-- Data of a run of cells in the Loft window; beyond the window is cause 0x16 (R568). -/
def Work.windowRun (w : Work) (a n : Nat) : Except Trap (List (BitVec 36)) :=
  if a < 0x800000 ∨ 0x1000000 < a + n then .error ⟨0x16, a⟩
  else (List.range n).mapM fun i => do return (← w.readCell (a + i)).data

def planSetup (unit_ : BitVec 8) (ax typ : BitVec 4) : Plan :=
  { slot := 3, waits := false,
    ready := fun _ w => .ok (decide (w.inst.undecided < 16))
    run := fun _ w => do
      let u := unit_.toNat
      let t := typ.toNat
      let a := (w.src.ga ax.toNat).toNat
      -- a record without a defined length reads nothing (R567); lengths follow from the first two cells
      if (recLen u t []).isNone then return w.addSetup (some .cfgRange)
      let c0 ← w.windowRun a 1
      let n1 := (recLen u t c0).getD 1
      let c1 ← w.windowRun a (min n1 2)
      let n := (recLen u t c1).getD 1
      if 0x1000000 < a + n then throw ⟨0x16, a⟩
      let cells ← w.windowRun a n
      let w := w.mend ((List.range n).map (a + ·))
      if !w.maySetup u cells then return w.addSetup (some .grantFault)
      let idx := w.inst.nextSetup
      return (w.addSetup none).through fun d => d.submitRec u { typ := t, cells, origin := some (w.key, idx) } }

/-! Movers. -/

/-- The mover that takes a chain named by sy, or the status of the refusal (R615, R631). -/
def Dev.moverFor (d : Dev) (sy : BitVec 32) : Except Status Nat :=
  if fld sy 8 24 ≠ 0 then .error .cfgRange
  else
    let named := fld sy 0 8
    let latched := fun m => ((d.mover m).err.map (·.status)).getD .internal
    if named ≠ 0xFF ∧ 16 ≤ named then .error .cfgRange
    else match if named = 0xFF then d.anyMover else some named with
      | none => .error (latched 0)
      | some m =>
        if (d.mover m).halted then .error (latched m)
        else if (d.mover m).queue.length ≥ 64 then .error .quota
        else .ok m

def planMvgo (d : BitVec 5) (ax : BitVec 4) (y : BitVec 5) : Plan :=
  { slot := 3, writes := [.s d.toNat],
    run := fun _ w =>
      let a := (w.src.ga ax.toNat).toNat
      if a < 0x800000 ∨ 0x1000000 < a + 16 then .error ⟨0x16, a⟩
      else match w.st.dev.moverFor (w.src.gs y.toNat) with
        | .error st => .ok (w.onRegs fun r => r.ss d.toNat (BitVec.ofNat 32 (0x100 + st.code.toNat)))
        | .ok m =>
          let run := w.st.dev.live? w.inst.uid
          let act : Activation :=
            { crate := none, session := w.inst.session, inst := some w.key, cls := run.elim 7 (·.cls), deadline := run.elim 0 (·.deadline)
              grants := run.elim [] (·.grants), first := windowCell w.src.lwin a }
          let w := w.onRegs fun r => r.ss d.toNat (BitVec.ofNat 32 m)
          .ok (w.through fun d => (d.onMover m fun v => { v with queue := v.queue ++ [act] }).kick m) }

def planMvstop (x : BitVec 5) : Plan :=
  { slot := 3,
    run := fun _ w =>
      let m := fld (w.src.gs x.toNat) 0 4
      let mine := ((w.st.dev.mover m).chain).any fun c => c.act.inst == some w.key
      .ok (if mine then w.through fun d => d.stopChain m else w) }

def execSetup (h : Slot) (unit_ : BitVec 8) (ax : BitVec 4) (type_ : BitVec 4) (s : State) : Outcome :=
  runSlot h (planSetup unit_ ax type_) s
def execMvgo (h : Slot) (d : BitVec 5) (ax : BitVec 4) (y : BitVec 5) (s : State) : Outcome := runSlot h (planMvgo d ax y) s
def execMvstop (h : Slot) (x : BitVec 5) (s : State) : Outcome := runSlot h (planMvstop x) s

/-! STREAM Crates. -/

/-- R643. -/
def execStreamOpen (crate : Nat) (s : State) : Outcome := .next (s.openStream crate Dev.upperPort)

/-- R654. -/
def execStreamClose (crate : Nat) (s : State) : Outcome := .next (s.closeStream crate)

end Sys2Proof.Machine
end

