-- ==== Sys2Proof/Machine/Bundle.lean ====
section
/-!
DEFINITION. The words of a bundle as plans (R582 to R585 and the encodings of R590 to R615), and the debug commands of an
SPU (R579 to R581).
-/
namespace Sys2Proof.Machine

/-- A field of a slot word, as wide as its use. -/
def wf (w : BitVec 32) (lo : Nat) {n : Nat} : BitVec n := BitVec.ofNat n (fld w lo n)

/-- R584: operand bits outside the mask are 0. -/
def Plan.only (p : Plan) (w : BitVec 32) (mask : BitVec 32) : Plan :=
  { p with legal := p.legal && (w &&& 0x3FFFFF &&& ~~~ mask) == 0 }

/-- A reserved opcode (R584). -/
def planReserved (slot : Nat) : Plan := { slot, legal := false, run := fun _ w => .ok w }

/-- The operand block of an access (R607). -/
def addrOf (w : BitVec 32) : AddrOp := { a := wf w 13, pm := wf w 11, off := wf w 3, k := wf w 0 }

def slotOp (w : BitVec 32) : Nat := fld w 26 6

/-- The S slot (R590 to R598). -/
def decodeS (h : Slot) (w : BitVec 32) : Plan :=
  let d : BitVec 5 := wf w 17
  let x : BitVec 5 := wf w 12
  let y : BitVec 5 := wf w 7
  let rr := fun f => (planRR d x y f).only w 0x3FFF80
  let imm := (wf w 0 : BitVec 12).signExtend 32
  let ri := fun f => planRI d x imm f
  let sh := fun (f : BitVec 32 → Nat → BitVec 32) => (planRI d x 0 fun a _ => f a (fld w 0 5)).only w 0x3FF01F
  match slotOp w with
  | 0x00 => (planNop 0 h).only w 0
  | 0x01 => rr (· + ·)
  | 0x02 => rr (· - ·)
  | 0x03 => rr (· &&& ·)
  | 0x04 => rr (· ||| ·)
  | 0x05 => rr (· ^^^ ·)
  | 0x06 => rr fun a b => a <<< fld b 0 5
  | 0x07 => rr fun a b => a >>> fld b 0 5
  | 0x08 => rr fun a b => a.sshiftRight (fld b 0 5)
  | 0x09 => rr (· * ·)
  | 0x0A => rr opMulh
  | 0x0B => rr opMulhu
  | 0x0C => rr opMin
  | 0x0D => rr opMax
  | 0x10 => ri (· + ·)
  | 0x11 => ri (· &&& ·)
  | 0x12 => ri (· ||| ·)
  | 0x13 => ri (· ^^^ ·)
  | 0x14 => sh (· <<< ·)
  | 0x15 => sh (· >>> ·)
  | 0x16 => sh BitVec.sshiftRight
  | 0x18 => (planScalar d fun _ => (wf w 0 : BitVec 16).signExtend 32).only w 0x3EFFFF
  | 0x19 => (planScalar d fun r => setFld (r.gs d.toNat) 16 16 (fld w 0 16)).only w 0x3EFFFF
  | 0x1C => (planCmp (wf w 19) (wf w 16) (wf w 11) (wf w 6)).only w 0x3FFFC0
  | 0x1D => planCmpi (wf w 19) (wf w 16) (wf w 11) (wf w 0)
  | 0x1E => (planPlog (wf w 19) (wf w 16) (wf w 13) (wf w 0)).only w 0x3FE00F
  | 0x1F => (planScalar d fun r => (r.gp (fld w 14 3)).zeroExtend 32).only w 0x3FC000
  | 0x20 => (planPred (wf w 19) fun r => (r.gs x.toNat).truncate 8).only w 0x39F000
  | 0x22 => (planMfc d (wf w 0)).only w 0x3E003F
  | 0x23 => (planMtc x (wf w 0) Dev.upperPort).only w 0x1F03F
  | 0x24 => (planMflc d (wf w 0)).only w 0x3E0003
  | 0x28 => (planBr (wf w 0)).only w 0x3FFFF
  | 0x29 => (planCall (wf w 0)).only w 0x3FFFF
  | 0x2A => planRet.only w 0
  | 0x2B => (planBrx x).only w 0x1F000
  | 0x2C => (planRep x (wf w 0)).only w 0x1FFFF
  | 0x2D => planRepi (wf w 12) (wf w 0)
  | 0x30 => (planWaitev d (wf w 0)).only w 0x3E00FF
  | 0x31 => (planSigev (bit w 8) x (wf w 0)).only w 0x1F1FF
  | 0x32 => (planSetw d).only w 0x3E0000
  | 0x33 => planExit.only w 0
  | 0x34 => planBkpt.only w 0
  | _ => planReserved 0

/-- The A slot (R600). -/
def decodeA (h : Slot) (w : BitVec 32) : Plan :=
  let ad : BitVec 4 := wf w 18
  match slotOp w with
  | 0x00 => (planNop 1 h).only w 0
  | 0x01 => (planAadd ad (wf w 14) (wf w 10)).only w 0x3FFC00
  | 0x02 => planAaddi ad (wf w 14) (wf w 0)
  | 0x03 => (planAadds ad (wf w 14) (wf w 9)).only w 0x3FFE00
  | 0x04 => planAli ad (wf w 0)
  | 0x05 => (planAhi ad (wf w 0)).only w 0x3C003F
  | 0x06 => (planAfs ad (wf w 13)).only w 0x3FE000
  | 0x07 => (planAts (wf w 17) (wf w 13)).only w 0x3FE000
  | 0x08 => planMset ad (wf w 0)
  | 0x09 => (planMfs ad (wf w 13)).only w 0x3FE000
  | 0x0A => (planMts (wf w 17) (wf w 13)).only w 0x3FE000
  | _ => planReserved 1

/-- The M slot (R602). -/
def decodeM (h : Slot) (w : BitVec 32) : Plan :=
  let d : BitVec 5 := wf w 17
  let x : BitVec 5 := wf w 12
  let y : BitVec 5 := wf w 7
  let q : BitVec 3 := wf w 17
  match slotOp w with
  | 0x00 => (planNop 2 h).only w 0
  | 0x01 => (planVadd d x y).only w 0x3FFF80
  | 0x02 => (planVsub d x y).only w 0x3FFF80
  | 0x03 => (planVmov d x).only w 0x3FF000
  | 0x04 => (planVconj d x).only w 0x3FF000
  | 0x05 => planVcmul d x y (bit w 0) (bit w 1) (wf w 2)
  | 0x06 => (planVcmac q x y { cx := bit w 0, cy := bit w 1, sub := bit w 2, clr := bit w 3, re := bit w 4 }).only w 0xFFF9F
  | 0x07 => (planVnarrow d (wf w 12) (wf w 0)).only w 0x3E701F
  | 0x08 => (planVqclr q).only w 0xE0000
  | 0x09 => (planVqadd q (wf w 12)).only w 0xE7000
  | 0x0A => (planVbcast d x (wf w 0)).only w 0x3FF007
  | 0x0B => (planVspls d x).only w 0x3FF000
  | 0x0C => (planVext d x (wf w 0)).only w 0x3FF007
  | 0x0D => (planVtags d x (wf w 0)).only w 0x3FF00F
  | 0x0E => (planVtagg d x).only w 0x3FF000
  | 0x0F => (planVcmp (wf w 19) x y (wf w 0)).only w 0x39FF87
  | _ => planReserved 2

/-- The L slot (R608, R612, R614, R615). -/
def decodeL (h : Slot) (w : BitVec 32) : Plan :=
  let d : BitVec 5 := wf w 17
  let q : BitVec 3 := wf w 17
  let ad := addrOf w
  match slotOp w with
  | 0x00 => (planNop 3 h).only w 0
  | 0x01 => planLds d ad
  | 0x02 => planSts ad d
  | 0x03 => planLdv d ad
  | 0x04 => planStv ad d
  | 0x05 => planLd1 d ad
  | 0x06 => planSt1 ad d
  | 0x07 => (planLdq q ad).only w 0xFFFFF
  | 0x08 => (planStq ad q).only w 0xFFFFF
  | 0x0A => (planQrd1 d (wf w 15) (bit w 14) (wf w 0)).only w 0x3FC007
  | 0x0B => (planQrd8 d (wf w 15) (bit w 14)).only w 0x3FC000
  | 0x0C => (planQwr d (wf w 16) (bit w 14) (bit w 13) false (fun _ => [fld w 0 3]) Dev.streamTakes).only w 0x3F6007
  | 0x0D => (planQwr d (wf w 16) (bit w 14) (bit w 13) true lanesOf Dev.streamTakes).only w 0x3F6000
  | 0x0E => (planQflush (wf w 15)).only w 0x18000
  | 0x10 => planLfence.only w 0
  | 0x11 => (planAtom d (wf w 13) (wf w 8) (wf w 0)).only w 0x3FFF07
  | 0x12 => (planSetup (wf w 14) (wf w 10) (wf w 6)).only w 0x3FFFC0
  | 0x13 => (planMvgo d (wf w 13) (wf w 8)).only w 0x3FFF00
  | 0x14 => (planMvstop (wf w 12)).only w 0x1F000
  | _ => planReserved 3

/-- The plan of a slot word (R582, R583). -/
def slotPlan (k : Nat) (h : Slot) (w : BitVec 32) : Plan :=
  match k with
  | 0 => decodeS h w
  | 1 => decodeA h w
  | 2 => decodeM h w
  | _ => decodeL h w

/-- Issue a whole bundle on an SPU, slot words in S, A, M, L order. -/
def State.bundle (s : State) (spu : Fin 68) (words : List (BitVec 32)) : State :=
  (words.zipIdx).foldl (fun s (w, k) =>
    let h : Slot := { spu, pred := wf w 22, neg := bit w 25, last := k == 3 }
    s.slot h (slotPlan k h w) true) s

/-! Debug (R579, R581). -/

/-- The copy that sits on an SPU. -/
def Dev.copyOn (d : Dev) (k : Nat) : Option (Nat × Inst) :=
  (d.spu k).runs.bind fun key => (Tbl.find? d.insts key).map fun i => (key, i)

/-- The next bundle of a copy, from the program store (R531). -/
def State.nextBundle (s : State) (i : Inst) : List (BitVec 32) :=
  match s.dev.program? i.session i.prog with
  | none => []
  | some p => (List.range 4).map fun j => (s.mem.loftGet (p.base + 4 * i.regs.pc + j)).data.truncate 32

/-- Whether a cell of the bundle holds an uncorrected check error (R573). -/
def State.bundleBad (s : State) (i : Inst) : Bool :=
  match s.dev.program? i.session i.prog with
  | none => false
  | some p => (List.range 4).any fun j => s.mem.loftBad (p.base + 4 * i.regs.pc + j)

/-- Cells of the bundle that are read with a corrected error (R780). -/
def State.mendBundle (s : State) (i : Inst) : State :=
  match s.dev.program? i.session i.prog with
  | none => s
  | some p => (List.range 4).foldl (fun s j => s.loftMend (p.base + 4 * i.regs.pc + j) i.session 0) s

/-- SPA_DBG_CTL.HALT: at a bundle boundary at once, else at the next one. -/
def execHalt (spu : Fin 68) (s : State) : Outcome :=
  startStep s fun d =>
    match d.copyOn spu with
    | none => d
    | some (key, i) =>
      if !d.spa.dbgEn ∨ i.halted ∨ (d.spu spu).moving ≠ 0 then d
      else
        let d := d.onSpu spu fun u => { u with dbgCtl := setBit u.dbgCtl 0 true }
        if i.issue.isSome then d else d.haltAt key spu

/-- SPA_DBG_CTL.STEP: one bundle of a halted copy. -/
def execStep (spu : Fin 68) (s : State) : Outcome :=
  .next <|
    if !s.dev.served ∨ s.dev.rel.devFault then s else
    match s.dev.copyOn spu with
    | none => s
    | some (key, i) =>
      if !i.halted then s
      else if s.bundleBad i then s.fault key i.regs.pc 0x20 0 false
      else (s.mendBundle i).bundle spu (s.nextBundle i)

/-- SPA_DBG_CTL.RESUME: a retirement that waited for the copy goes ahead. -/
def execDebugResume (spu : Fin 68) (s : State) : Outcome :=
  startStep s fun d =>
    match d.copyOn spu with
    | none => d
    | some (key, i) => if i.halted then (d.onInst key fun i => { i with halted := false }).pokeRetire else d

end Sys2Proof.Machine
end

