-- ==== Sys2Proof/Machine/Events.lean ====
section
/-!
DEFINITION. The arrival of an event at its receivers (R118, R422, R430, R464, R562 to R565, R746, R765, R858), and a
producer's write of a queue (R68).
-/
namespace Sys2Proof.Machine

/-! Receivers. -/

/-- R562: an occurrence at a program copy. -/
def Inst.event (i : Inst) (e : EventOcc) : Inst :=
  (List.range 8).foldl (fun i k =>
    let x := i.entry k
    if !bit x.sel 12 ∨ fld x.sel 0 12 ≠ e.id.toNat then i
    else if x.count = 255 then { i with regs := { i.regs with flags := i.regs.flags ||| flagEvovf } }
    else { i with ev := Tbl.set i.ev k { x with count := x.count + 1, last := e.time } }) i

/-- R858: whether an occurrence reaches a unit: by the session that holds it for writing, or, without one, in any case. -/
def Dev.reachesUnit (d : Dev) (e : EventOcc) (u : Nat) : Bool := (d.unitSession u).all e.reaches

/-- R118, R184: event dependencies of Crates that wait, and of Crates admitted later in this tick. -/
def Dev.eventDeps (d : Dev) (e : EventOcc) : Dev :=
  let same := if d.hlk.arriveTick = d.tim.ticks then d.hlk.arrivals else []
  let settle := fun c : Live => { c with deps := c.deps.map fun x => if x = Dep.event e.id then Dep.met else x }
  { d with hlk := { d.hlk with
      live := mapIf (fun c => e.reaches c.session && c.phase == Phase.waiting) settle d.hlk.live
      arrivals := same ++ [e], arriveTick := d.tim.ticks } }

/-- R746, R765: sequences that start by an event, and timers that it restarts at the second CD30 clock after. -/
def Dev.monEvent (d : Dev) (e : EventOcc) : Dev :=
  if !d.reachesUnit e monUnit then d else
  let d := (List.range 4).foldl (fun d k => match d.timerRec? k with
    | some r => if r.en ∧ r.revEn ∧ r.revid = e.id then d.onMon fun m => { m with restarts := m.restarts ++ [(k, 2)] } else d
    | none => d) d
  (List.range 4).foldl (fun d k => match d.seqRec? k with
    | some r => if r.src ∧ r.evid = e.id then d.seqStart k else d
    | none => d) d

/-- An occurrence reaches everything that takes it. -/
def Dev.arrive (d : Dev) (e : EventOcc) : Dev :=
  let d : Dev := { d with insts := d.insts.map fun x => (x.1, if e.reaches x.2.session then x.2.event e else x.2) }
  let d := (d.eventDeps e).trgEvent e.id e.reach
  let d := d.monEvent e
  (List.range 16).foldl (fun d b => d.barOccurrence b e) d

/-- R562: the occurrence with the given place among those raised. -/
def execEventArrival (index : BitVec 16) (s : State) : Outcome :=
  devStep s fun d => match d.raised[index.toNat]? with
    | none => d
    | some e => ({ d with raised := d.raised.eraseIdx index.toNat }).arrive e

/-! Queues (R68). -/

/-- A producer writes one cell; a full queue ignores it, is marked OVERRUN, and reports the first loss; a
reserved tag is reported (R20). -/
def Dev.queueWrite (d : Dev) (q : QueueName) (c : QCell) : Dev :=
  match q with
  | .input crate num queue =>
    match d.peer? crate num with
    | none => d
    | some (key, i) =>
      let q := i.inq queue
      if 4 ≤ queue ∨ fld q.bind 0 2 = 0 then d else
      let q' := q.accept c
      let d := (d.onInst key fun i => i.setIq queue q').noteTags [c] i.domain srcSpa i.session
      if q'.overrun ∧ !q.overrun then
        d.log { code := .ok, sev := 2, domain := domSession i.session, src := srcSpa, session := i.session, detail := key * 4 + queue }
      else d
  | .stream sid =>
    match Tbl.find? d.mov.streams sid with
    | none => d
    | some t =>
      let t' := t.accept [c]
      let d := (d.onStream sid fun _ => t').noteTags [c] (domMover t.mover) srcMov t.session
      if t'.overrun ∧ !t.overrun then
        d.log { code := .ok, sev := 2, domain := domMover t.mover, src := srcMov, session := t.session, detail := sid }
      else d
  | .engine _ => d
  | .barrel b => if (d.barrel b).writing then (d.offerBarrel b [c]).noteTags [c] domCap 0x28 0 else d

/-- R66, R71, R780: the pointer copies of a queue differ: it resets to empty, and one record in its consumer's domain states
the cells discarded. -/
def State.pointerMismatch (s : State) (q : QueueName) : State :=
  match q with
  | .input crate num queue =>
    match s.dev.peer? crate num with
    | none => s
    | some (key, i) =>
      if 4 ≤ queue then s else
      (s.onDev fun d => d.onInst key fun i => i.setIq queue (i.inq queue).flush).report
        { code := .internal, sev := 3, domain := i.domain, src := srcSpa, session := i.session, detail := (i.inq queue).cells.length }
  | .stream sid =>
    match Tbl.find? s.dev.mov.streams sid with
    | none => s
    | some t => (s.onDev fun d => d.onStream sid Stream.flush).report
        { code := .internal, sev := 3, domain := domMover t.mover, src := srcMov, session := t.session, detail := t.queue.length }
  | .engine p => (s.onDev fun d => d.speQueueReset p).report
      { code := .internal, sev := 3, domain := s.dev.portDom p, src := BitVec.ofNat 8 (speUnit p), cause := 1 }
  | .barrel b =>
    let r := s.dev.barrel b
    if !r.writing then s else
    (s.onDev fun d => d.onBarrel b Barrel.flush).report
      { code := .internal, sev := 3, domain := domCap, src := 0x28, detail := r.queue.length }

/-- R66, R68: the write meets a queue whose pointers agree, or that was just reset. -/
def execQueueWrite (queue : QueueName) (mismatch : Bool) (cell : Cell) (time : BitVec 72) (eop : Bool) (s : State) : Outcome :=
  let s := if mismatch then s.pointerMismatch queue else s
  let c : QCell := { cell, time, eop }
  .next (match queue with
    | .engine p => s.speWrite p c
    | _ => s.onDev fun d => d.queueWrite queue c)

end Sys2Proof.Machine
end

