-- ==== Sys2Proof/Machine/Mailbox.lean ====
section
/-!
DEFINITION. Commands of the HKC mailbox and the SMBus, and the end of an Attic write (R803, R816, R823, R826, R827, R829).
-/
namespace Sys2Proof.Machine

/-! VERSION, RESET, STANDBY, SENSORS and unknown commands. -/

def execVersion (s : State) : Outcome :=
  mailbox s 0x01 fun s => s.onDev fun d =>
    d.mailboxEnd Status.ok.code [Config.fwVersion.zeroExtend 32, Config.romVersion.zeroExtend 32, 0x9640, d.glb.stepping.zeroExtend 32]

/-- A WARM reset does not complete; a FUNCTION reset completes with READY. -/
def execReset (s : State) : Outcome :=
  mailbox s 0x02 fun s =>
    match (Tbl.get 0 s.dev.hkc.args 0).toNat with
    | 1 => s.warmRequest 2
    | 2 => s.function true
    | _ => s.onDev fun d => d.mailboxEnd Status.cfgRange.code

def execStandby (s : State) : Outcome := mailbox s 0x03 fun s => s.onDev fun d => d.standbyStart true

/-- The four rail sense points in units of 0.1 mV; the results are in mV, rounded down. -/
def execSensors (vdd18 vddCore vddDvs vddaSds : BitVec 16) (s : State) : Outcome :=
  mailbox s 0x04 fun s => s.onDev fun d =>
    let rails := [vdd18, vddCore, vddDvs, vddaSds].map BitVec.toNat
    let d := rails.zipIdx.foldl (fun d (mv, k) => d.rail k (railOk k mv)) d
    d.mailboxEnd Status.ok.code
      (((List.range 4).map fun i => (Tbl.get 0 d.mon.temps (20 + i)).zeroExtend 32) ++ rails.map fun mv => BitVec.ofNat 32 (mv / 10))

/-- The range of codes that no command has. -/
def execUnknownMailboxCommand (cmd : BitVec 8) (s : State) : Outcome :=
  if 1 ≤ cmd.toNat ∧ cmd.toNat ≤ 5 then .next s
  else mailbox s cmd fun s => s.onDev fun d => d.mailboxEnd Status.cfgRange.code

/-! CALIBRATE. -/

/-- The statuses other than OK. -/
def failCodes : List (BitVec 8) :=
  [Status.partial_, .cancelled, .grantFault, .noShelves, .noLoft, .quota, .deadlineMissed, .busError, .timeout, .loop,
    .compareMismatch, .armCapacity, .armBusy, .programFault, .illegalBundle, .cfgLocked, .cfgRange, .linkDegraded, .portDown,
    .eccUncorrected, .internal].map Status.code

/-- The status of a calibration or a SAVE that fails: a free value among those that are not OK. -/
def Dev.failCode (d : Dev) : BitVec 8 × Dev := ((failCodes[d.free.toNat % failCodes.length]?).getD 0xFF, d.freed)

/-- Keep the first failing status. -/
def Dev.calFail (d : Dev) (fails : Bool) : Dev :=
  match d.hkc.calWait, fails with
  | some 0, true => let (c, d) := d.failCode; d.onHkc fun h => { h with calWait := some c }
  | _, _ => d

/-- CALIBRATE completes once no record that it saves is still to be written. -/
def Dev.calEnd (d : Dev) : Dev :=
  match d.hkc.calWait with
  | some c => if d.atc.jobs.any fun (j, _) => j.isSave then d else (d.onHkc fun h => { h with calWait := none }).mailboxEnd c
  | none => d

/-- SAVE of every calibration record. -/
def State.saveAllRecords (s : State) : State :=
  let s := (List.range 4).foldl (fun s p =>
    if (s.dev.port p).saving then s else
    let body := s.calBody p
    s.onDev fun d => (d.onPort p fun g => { g with saving := true }).atticPush (.calSave p) (2 + p) body) s
  s.onDev fun d => d.tdcSave.monSave

/-- `sums`, `trims`, `temp` and `hits` are what the calibrations that ARG0 names measure: per slice, per comparator, and per
stamp input. A TDC calibration needs the hits of all nine. -/
def execCalibrate (sums : List (BitVec 24 × BitVec 24)) (trims : List (BitVec 32)) (temp : BitVec 16)
    (hits : List (List (BitVec 23))) (s : State) : Outcome :=
  mailbox s 0x05 fun s =>
    let a := Tbl.get 0 s.dev.hkc.args 0
    let s := s.onDev fun d =>
      let d := d.onHkc fun h => { h with calWait := some 0 }
      let d := if bit a 0 then (let (d, bad) := d.monCalibrate sums; d.calFail bad) else d
      let d := if bit a 1 then d.monTrim trims else d
      if !bit a 2 then d else
      let d := d.tdcCal
      (List.range 9).foldl (fun d i =>
        let h := ((hits[i]?).getD []).map BitVec.toNat
        (d.tdcFinish i temp h).calFail (!hitsValid h)) d
    let s := if bit a 3 then s.saveAllRecords else s
    s.onDev Dev.calEnd

/-! The end of an Attic write. -/

/-- R803, R816, R823: the write ends, and what waited for it goes on. -/
def execAtticWriteDone (ok : Bool) (s : State) : Outcome :=
  .next <|
    let save := (s.dev.atc.jobs.head?).any fun (j, _) => j.isSave
    let s := s.atticDone ok
    match s.dev.hkc.resetWait with
    | some c => s.warm c
    | none => (s.onDev fun d => (d.calFail (save && !ok)).calEnd.standbyStep2).smbNext

/-! SMBus (R829). -/

/-- HKC_BOOT_STAT. -/
def Hkc.bootStat (h : Hkc) : Reg :=
  BitVec.ofNat 32 (h.stage.toNat + h.ready.toNat * 2 ^ 4 + h.cause.toNat * 2 ^ 5 + h.fail.toNat * 2 ^ 8 + h.bootMs.toNat * 2 ^ 16)

/-- HKC_PWR_STAT. -/
def Hkc.pwrStat (h : Hkc) : Reg :=
  BitVec.ofNat 32 (h.railOk.toNat + h.throttled.toNat * 2 ^ 4 + h.tripped.toNat * 2 ^ 5 + h.stbyReq.toNat * 2 ^ 6 + h.wake.toNat * 2 ^ 8 +
    h.wakeCmp.toNat * 2 ^ 11)

/-- A block read: 0 IDENTITY bytes 0 to 35, 1 HKC_BOOT_STAT, 2 HKC_PWR_STAT. -/
def execSmbusRead (what : Fin 3) (s : State) : Outcome :=
  devStep s fun d =>
    let b := match what with
      | 0 => s.mem.atticRun (atticOffset 0 + 16) 36
      | 1 => leBytes 4 d.hkc.bootStat.toNat
      | 2 => leBytes 4 d.hkc.pwrStat.toNat
    { d with host := d.host ++ [.reply b] }

end Sys2Proof.Machine
end

