-- ==== Sys2Proof/Machine/Ports.lean ====
section
/-!
DEFINITION. Commands of a port that may start or end its output (R227, R261, R262, R274, R705, R805).
-/
namespace Sys2Proof.Machine

/-- R805: the correction table of the Attic's ADC record, as the cells of a CORR record. -/
def adcCells (b : List Byte) : List (BitVec 36) :=
  let n := (b.headD 0).toNat % 32
  let w := fun i : Nat => ofLeBytes ((b.drop (20 + 4 * i)).take 4)
  BitVec.ofNat 36 n :: ((List.range n).map fun e =>
    [BitVec.ofNat 36 (w (3 * e) % 2 ^ 18 * 2 ^ 18 + w (3 * e + 1) % 2 ^ 18), BitVec.ofNat 36 (w (3 * e + 2) % 2 ^ 18 * 2 ^ 18)]).flatten

/-- R805: at a port's first start after boot the HKC commits the ADC record, if it asks for it and fits. -/
def State.adcLoad (s : State) (p : Nat) : State :=
  if (s.dev.port p).adcDone ∨ (s.dev.port p).st ≠ .pllWait then s else
  let s := s.onDev fun d => d.onPort p fun g => { g with adcDone := true }
  match s.atticBody (9 + p) 0 212 with
  | none => s
  | some b =>
    if !bit ((b[1]?).getD 0) 0 then s else
    s.onDev fun d => match d.link? p with
      | some k =>
        if (b.headD 0).toNat = k.entries then d.setRec p 4 0 (adcCells b)
        else d.note .cfgRange (d.portDom p) srcHkc (detail := p)
      | none => d

/-- R249, R261: EN 1 starts a port; the upper port of a pair finds the lower port's PLL locked or waits for it. -/
def State.enable (s : State) (p : Nat) : State :=
  let t := (s.onDev fun d => d.portStart p).adcLoad p
  if t.dev.upperPort p ∧ (t.dev.port (p - 1)).pllLock ∧ (t.dev.port p).st = .pllWait then t.pllLocks p else t

/-- R705, R261: the PLL that clocks a port loses lock; in RUN or DEGRADED that is a FAULT. -/
def State.pllLost (s : State) (p : Nat) : State := s.portStep p fun s =>
  let s := s.onDev fun d => d.onPort p fun g => { g with pllLock := false }
  if (s.dev.port p).emits then s.portFault p else s

/-- R249, R261: EN 0 stops a port, and with a lower port of a pair the PLL that clocks the upper one. -/
def State.disable (s : State) (p : Nat) : State :=
  let t := s.portStep p fun s => s.onDev fun d => d.portStop p
  if s.dev.upperPort (p + 1) then t.pllLost (p + 1) else t

/-- R261: ING_CTL.EN. -/
def execEn (port : Fin 4) (value : Bool) (s : State) : Outcome :=
  hostState s fun s => if value then s.portStep port fun s => s.enable port else s.disable port

/-- R262: ING_CTL.RELINK. -/
def execRelink (port : Fin 4) (s : State) : Outcome :=
  startState s fun s => s.portStep port fun s => s.relinkPort port

/-- R705, R261. -/
def execPllLockLost (port : Fin 4) (s : State) : Outcome := .next ((s.dev.pllPorts port).foldl State.pllLost s)

/-- R226 to R235. -/
def execLaneFail (port : Fin 4) (lane : Fin 9) (embLost : Bool) (s : State) : Outcome :=
  .next (s.portStep port fun s => s.laneFails port lane embLost)

/-- R224, R225, R229. -/
def execSpareSwitch (port : Fin 4) (s : State) : Outcome := .next (s.portStep port fun s => s.spareSwitch port)

/-- R274. -/
def execAttemptLimitExpiry (port : Fin 4) (lane : Fin 9) (s : State) : Outcome :=
  .next (s.portStep port fun s => s.attemptFails port lane)

end Sys2Proof.Machine
end

