-- ==== Sys2Proof/Machine/Rel.lean ====
section
/-!
DEFINITION. Error reporting: records of detected errors, the queue, acknowledgement, the patrol and the count of lost
analysis (R777 to R800).
-/
namespace Sys2Proof.Machine

def Dev.onRel (d : Dev) (f : Rel → Rel) : Dev := { d with rel := f d.rel }

/-! Errors (R780). -/

/-- R780: an uncorrected word of a spectral engine's own memory; the spectrum it belongs to carries GAP. -/
def Spe.badWord (e : Spe) : Spe :=
  let gap : SpeSmp → SpeSmp := fun x => { x with x := { x.x with tag := tagGap } }
  match e.done with
  | w :: rest => { e with done := { w with smp := match w.smp with | [] => [] | x :: t => gap x :: t } :: rest }
  | [] => { e with grids := e.grids.map fun g => { g with buf := match g.buf.reverse with | [] => [] | x :: t => (gap x :: t).reverse } }

/-- R780: an uncorrected counter of a density unit; its plane is cleared. -/
def Den.badWord (e : Den) (j : Nat) : Den := { e with planes := Tbl.upd {} e.planes j fun y => { y with cnt := [] } }

/-- R780: what an uncorrected error does besides its record: an SPU's instance ends, a unit's own memory taints what it
derives from it. -/
def State.errorAction (s : State) (r : Report) : State :=
  let u := r.src.toNat
  if r.sev ≠ 3 then s
  else if r.domain.toNat / 4096 = 2 then s.onDev fun d => d.spuError (r.domain.toNat % 4096) .internal
  else if 0x10 ≤ u ∧ u < 0x14 then s.onDev fun d => d.onEng (u - 0x10) Spe.badWord
  else if 0x20 ≤ u ∧ u < 0x24 then s.onDev fun d => { d with den := Tbl.upd {} d.den (u - 0x20) fun e => e.badWord (r.detail % 4) }
  else s

def execErrorRecord (code : Status) (sev : BitVec 2) (domain : BitVec 16) (src cause : BitVec 8) (addr : BitVec 64)
    (session : BitVec 12) (detail : BitVec 32) (atOnce : Bool) (s : State) : Outcome :=
  let r : Report := { code, sev := sev.toNat, domain, src, cause := cause.toNat, addr := addr.toNat, session := session.toNat
                      detail := detail.toNat }
  .next ((s.errorAction r).report r (atOnce && sev == 3))

/-! The queue and acknowledgement (R781, R786, R788). -/

/-- R786. -/
def execPop (s : State) : Outcome := keptStep s fun d => d.onRel fun r => { r with queue := r.queue.drop 1 }

/-- R781: clear OUTSTANDING; a domain without any keeps none. -/
def execRelAck (domain : BitVec 16) (s : State) : Outcome :=
  keptStep s fun d => d.onRel fun r =>
    { r with domains := r.domains.map fun (k, m) => if k = domain.toNat then (k, { m with outstanding := false }) else (k, m) }

/-- R788: an interval ends and the next begins, with the CE_INT in force then. -/
def execCeIntervalEnd (s : State) : Outcome :=
  devStep s fun d =>
    if !d.hkc.ready then d else
    let d := if d.rel.ceSeen then d.vector 1 else d
    d.onRel fun r => { r with ceSeen := false, ceRunning := r.ceInt }

/-! Patrol (R795 to R797). -/

/-- One more uncorrected word found. -/
def Dev.patrolFound (d : Dev) : Dev :=
  d.onRel fun r => { r with scrubFound := BitVec.ofNat 16 (satInc 16 r.scrubFound.toNat) }

/-- The session that owns a physical Shelf. -/
def Dev.shelfOwner (d : Dev) (p : Nat) : Option Nat := (d.stk.shelves.find? fun e => e.place == .resident p).map (·.session)

/-- The session that owns a Loft page. -/
def Dev.pageOwner (d : Dev) (page : Nat) : Option Nat := (Tbl.find? d.stk.loft page).map (·.session)

/-- Hold a corrected word for its write-back. -/
def State.holdScrub (s : State) (h : ScrubHold) : State := s.onMem fun m => { m with scrub := some h }

/-- R795: one granule is read, with the symbols in error. A stack in self-refresh is left there (R796). -/
def State.patrolCellar (s : State) (a : Nat) (errors : List (Fin 72 × Byte)) : State :=
  let pc := s.mem.pcOf a
  let g := a / 64
  let owner := s.dev.shelfOwner (a / shelfBytes)
  if a / shelfBytes ≥ s.dev.fittedShelves ∨ (s.dev.cel.pc pc).retired ∨ !bit s.dev.cel.trained (pc / 32) ∨ bit s.dev.cel.selfref (pc / 32) then s else
  let s := if errors.isEmpty then s else s.onMem fun m => m.granuleHit g (symbols errors)
  if s.mem.poisoned (g * 64) 64 then
    let cause := s.mem.celCause (g * 64) 64
    ((s.celUncorrected pc a).poisonGranule g).onDev fun d =>
      (d.log { code := .eccUncorrected, sev := 2, domain := domCel (pc / 32), src := srcCel, cause, addr := a, session := owner.getD 0, detail := pc }).patrolFound
  else if (s.mem.fixable (g * 64) 64).isEmpty then s
  else
    ((s.holdScrub (.granule g)).onDev fun d => d.log
      { code := .ok, sev := 1, domain := owner.elim (domCel (pc / 32)) domSession, src := srcCel, addr := a, session := owner.getD 0, detail := pc }).celCorrected pc

/-- R797: one Loft word is read, with its inverted bits. -/
def State.patrolLoft (s : State) (a : Nat) (flips : BitVec 48) : State :=
  let owner := s.dev.pageOwner (a / 16384)
  let s := s.onMem fun m => m.loftFlip a flips
  match s.mem.loftRead a with
  | .good _ => s
  | .corrected _ => (s.holdScrub (.loft a (s.mem.loftWord a))).onDev fun d =>
    d.log { code := .ok, sev := 1, domain := owner.elim domDevice domSession, src := srcLoft, addr := a, session := owner.getD 0 }
  | .bad cause => s.onDev fun d =>
    (d.log { code := .eccUncorrected, sev := 2, domain := domDevice, src := srcLoft, cause, addr := a, session := owner.getD 0 }).patrolFound

/-- R797: one local memory word of an SPU is read, with its inverted bits. An SPU without a copy holds no data. -/
def State.patrolLocal (s : State) (k a : Nat) (flips : BitVec 48) : State :=
  match (s.dev.spu k).runs.bind fun key => (Tbl.find? s.dev.insts key).map fun i => (key, i) with
  | none => s
  | some (key, i) =>
    let i := i.locFlip a flips
    let s := s.onDev fun d => d.setInst key i
    match i.locRead a with
    | .good _ => s
    | .corrected _ => (s.holdScrub (.loc k a (i.locWord a))).onDev fun d =>
      (d.eccCount false).log { code := .ok, sev := 1, domain := domSession i.session, src := srcSpa, addr := a, session := i.session, detail := k }
    | .bad cause => s.onDev fun d =>
      ((d.eccCount true).log
        { code := .eccUncorrected, sev := 2, domain := domSpu k, src := srcSpa, cause, addr := a, session := i.session, detail := k }).patrolFound

/-- R792, R795: the corrected word is written back only if the cell still holds the word that was read, or no write to the
granule was accepted since. -/
def State.scrubBack (s : State) : State :=
  let s' := s.onMem fun m => { m with scrub := none }
  match s.mem.scrub with
  | none => s
  | some (.loft a w) => if s.mem.loftWord a = w then s'.onMem fun m => { m with loftErr := Tbl.erase m.loftErr a } else s'
  | some (.granule g) => s'.onMem fun m => { m with celErr := Tbl.erase m.celErr g }
  | some (.loc k a w) => s'.onDev fun d =>
    match (d.spu k).runs.bind fun key => (Tbl.find? d.insts key).map fun i => (key, i) with
    | none => d
    | some (key, i) => if i.locWord a = w then d.setInst key { i with locErr := Tbl.erase i.locErr a } else d

/-- R792, R795 to R797: the patrol reads one word, or writes back the one it corrected last. `pct` is the progress of the
Cellar pass and `late` the passes that overran. -/
def execPatrolScrub (read : Patrol) (pct : BitVec 7) (late : BitVec 3) (s : State) : Outcome :=
  .next <|
    if !bit s.dev.rel.scrubCfg 24 then s else
    let s := s.onDev fun d => d.onRel fun r => { r with scrubPct := pct.zeroExtend 8, scrubLate := r.scrubLate ||| late }
    match read with
    | .granule addr errors => s.patrolCellar addr.toNat errors
    | .loft addr flips => s.patrolLoft addr.toNat flips
    | .loc spu addr flips => s.patrolLocal spu addr.toNat flips
    | .writeBack => s.scrubBack

/-! Lost analysis (R800). -/

/-- R800: one tick of every port. -/
def Dev.lostTick (d : Dev) : Dev :=
  d.onRel fun r => { r with lostTicks := (List.range 4).foldl (fun t p =>
    let g := d.port p
    if g.en && (!g.emits || g.blind) then Tbl.upd 0 t p (· + 1) else t) r.lostTicks }

/-- REL_LOST of a port, µs. -/
def Rel.lost (r : Rel) (p : Nat) : Nat := Tbl.get 0 r.lostTicks p / 2048

def execLostAnalysisTick (s : State) : Outcome := devStep s Dev.lostTick

end Sys2Proof.Machine
end

