-- ==== Sys2Proof/Machine/Spu.lean ====
section
/-!
DEFINITION. The slots of Relnex (R582 to R614): each command issues one slot of the bundle that an SPU's program copy
issues. SETUP, MVGO and MVSTOP stand in SpuUnits.lean.
-/
namespace Sys2Proof.Machine

def execNop (h : Slot) (slot : Fin 4) (s : State) : Outcome := runSlot h (planNop slot.val h) s
def execAdd (h : Slot) (d : BitVec 5) (x : BitVec 5) (y : BitVec 5) (s : State) : Outcome := runSlot h (planRR d x y (· + ·)) s
def execSub (h : Slot) (d : BitVec 5) (x : BitVec 5) (y : BitVec 5) (s : State) : Outcome := runSlot h (planRR d x y (· - ·)) s
def execAnd (h : Slot) (d : BitVec 5) (x : BitVec 5) (y : BitVec 5) (s : State) : Outcome := runSlot h (planRR d x y (· &&& ·)) s
def execOr (h : Slot) (d : BitVec 5) (x : BitVec 5) (y : BitVec 5) (s : State) : Outcome := runSlot h (planRR d x y (· ||| ·)) s
def execXor (h : Slot) (d : BitVec 5) (x : BitVec 5) (y : BitVec 5) (s : State) : Outcome := runSlot h (planRR d x y (· ^^^ ·)) s
def execShl (h : Slot) (d : BitVec 5) (x : BitVec 5) (y : BitVec 5) (s : State) : Outcome := runSlot h (planRR d x y fun a b => a <<< fld b 0 5) s
def execShr (h : Slot) (d : BitVec 5) (x : BitVec 5) (y : BitVec 5) (s : State) : Outcome := runSlot h (planRR d x y fun a b => a >>> fld b 0 5) s
def execSra (h : Slot) (d : BitVec 5) (x : BitVec 5) (y : BitVec 5) (s : State) : Outcome := runSlot h (planRR d x y fun a b => a.sshiftRight (fld b 0 5)) s
def execMul (h : Slot) (d : BitVec 5) (x : BitVec 5) (y : BitVec 5) (s : State) : Outcome := runSlot h (planRR d x y (· * ·)) s
def execMulh (h : Slot) (d : BitVec 5) (x : BitVec 5) (y : BitVec 5) (s : State) : Outcome := runSlot h (planRR d x y opMulh) s
def execMulhu (h : Slot) (d : BitVec 5) (x : BitVec 5) (y : BitVec 5) (s : State) : Outcome := runSlot h (planRR d x y opMulhu) s
def execMin (h : Slot) (d : BitVec 5) (x : BitVec 5) (y : BitVec 5) (s : State) : Outcome := runSlot h (planRR d x y opMin) s
def execMax (h : Slot) (d : BitVec 5) (x : BitVec 5) (y : BitVec 5) (s : State) : Outcome := runSlot h (planRR d x y opMax) s
def execAddi (h : Slot) (d : BitVec 5) (x : BitVec 5) (imm : BitVec 12) (s : State) : Outcome := runSlot h (planRI d x (imm.signExtend 32) (· + ·)) s
def execAndi (h : Slot) (d : BitVec 5) (x : BitVec 5) (imm : BitVec 12) (s : State) : Outcome := runSlot h (planRI d x (imm.signExtend 32) (· &&& ·)) s
def execOri (h : Slot) (d : BitVec 5) (x : BitVec 5) (imm : BitVec 12) (s : State) : Outcome := runSlot h (planRI d x (imm.signExtend 32) (· ||| ·)) s
def execXori (h : Slot) (d : BitVec 5) (x : BitVec 5) (imm : BitVec 12) (s : State) : Outcome := runSlot h (planRI d x (imm.signExtend 32) (· ^^^ ·)) s
def execShli (h : Slot) (d : BitVec 5) (x : BitVec 5) (imm : BitVec 5) (s : State) : Outcome := runSlot h (planRI d x 0 fun a _ => a <<< imm.toNat) s
def execShri (h : Slot) (d : BitVec 5) (x : BitVec 5) (imm : BitVec 5) (s : State) : Outcome := runSlot h (planRI d x 0 fun a _ => a >>> imm.toNat) s
def execSrai (h : Slot) (d : BitVec 5) (x : BitVec 5) (imm : BitVec 5) (s : State) : Outcome := runSlot h (planRI d x 0 fun a _ => a.sshiftRight imm.toNat) s
def execMovi (h : Slot) (d : BitVec 5) (imm : BitVec 16) (s : State) : Outcome := runSlot h (planScalar d fun _ => imm.signExtend 32) s
def execMovhi (h : Slot) (d : BitVec 5) (imm : BitVec 16) (s : State) : Outcome := runSlot h (planScalar d fun r => setFld (r.gs d.toNat) 16 16 imm.toNat) s
def execCmp (h : Slot) (pd : BitVec 3) (cond : BitVec 3) (x : BitVec 5) (y : BitVec 5) (s : State) : Outcome := runSlot h (planCmp pd cond x y) s
def execCmpi (h : Slot) (pd : BitVec 3) (cond : BitVec 3) (x : BitVec 5) (imm : BitVec 11) (s : State) : Outcome := runSlot h (planCmpi pd cond x imm) s
def execPlog (h : Slot) (pd : BitVec 3) (px : BitVec 3) (py : BitVec 3) (fn : BitVec 4) (s : State) : Outcome := runSlot h (planPlog pd px py fn) s
def execPrd (h : Slot) (d : BitVec 5) (px : BitVec 3) (s : State) : Outcome := runSlot h (planScalar d fun r => (r.gp px.toNat).zeroExtend 32) s
def execPwr (h : Slot) (pd : BitVec 3) (x : BitVec 5) (s : State) : Outcome := runSlot h (planPred pd fun r => (r.gs x.toNat).truncate 8) s
def execMfc (h : Slot) (d : BitVec 5) (cr : BitVec 6) (s : State) : Outcome := runSlot h (planMfc d cr) s
def execMtc (h : Slot) (x : BitVec 5) (cr : BitVec 6) (s : State) : Outcome := runSlot h (planMtc x cr Dev.upperPort) s
def execMflc (h : Slot) (d : BitVec 5) (n : BitVec 2) (s : State) : Outcome := runSlot h (planMflc d n) s
def execBr (h : Slot) (target : BitVec 18) (s : State) : Outcome := runSlot h (planBr target) s
def execCall (h : Slot) (target : BitVec 18) (s : State) : Outcome := runSlot h (planCall target) s
def execRet (h : Slot) (s : State) : Outcome := runSlot h (planRet) s
def execBrx (h : Slot) (x : BitVec 5) (s : State) : Outcome := runSlot h (planBrx x) s
def execRep (h : Slot) (x : BitVec 5) (fin : BitVec 12) (s : State) : Outcome := runSlot h (planRep x fin) s
def execRepi (h : Slot) (count : BitVec 10) (fin : BitVec 12) (s : State) : Outcome := runSlot h (planRepi count fin) s
def execWaitev (h : Slot) (d : BitVec 5) (mask : BitVec 8) (s : State) : Outcome := runSlot h (planWaitev d mask) s
def execSigev (h : Slot) (reg : Bool) (x : BitVec 5) (index : BitVec 8) (s : State) : Outcome := runSlot h (planSigev reg x index) s
def execSetw (h : Slot) (d : BitVec 5) (s : State) : Outcome := runSlot h (planSetw d) s
def execExit (h : Slot) (s : State) : Outcome := runSlot h (planExit) s
def execBkpt (h : Slot) (s : State) : Outcome := runSlot h (planBkpt) s
def execAadd (h : Slot) (d : BitVec 4) (x : BitVec 4) (y : BitVec 4) (s : State) : Outcome := runSlot h (planAadd d x y) s
def execAaddi (h : Slot) (d : BitVec 4) (x : BitVec 4) (imm : BitVec 14) (s : State) : Outcome := runSlot h (planAaddi d x imm) s
def execAadds (h : Slot) (d : BitVec 4) (x : BitVec 4) (y : BitVec 5) (s : State) : Outcome := runSlot h (planAadds d x y) s
def execAli (h : Slot) (d : BitVec 4) (imm : BitVec 18) (s : State) : Outcome := runSlot h (planAli d imm) s
def execAhi (h : Slot) (d : BitVec 4) (imm : BitVec 6) (s : State) : Outcome := runSlot h (planAhi d imm) s
def execAfs (h : Slot) (d : BitVec 4) (x : BitVec 5) (s : State) : Outcome := runSlot h (planAfs d x) s
def execAts (h : Slot) (d : BitVec 5) (x : BitVec 4) (s : State) : Outcome := runSlot h (planAts d x) s
def execMset (h : Slot) (d : BitVec 4) (imm : BitVec 18) (s : State) : Outcome := runSlot h (planMset d imm) s
def execMfs (h : Slot) (d : BitVec 4) (x : BitVec 5) (s : State) : Outcome := runSlot h (planMfs d x) s
def execMts (h : Slot) (d : BitVec 5) (x : BitVec 4) (s : State) : Outcome := runSlot h (planMts d x) s
def execVadd (h : Slot) (d : BitVec 5) (x : BitVec 5) (y : BitVec 5) (s : State) : Outcome := runSlot h (planVadd d x y) s
def execVsub (h : Slot) (d : BitVec 5) (x : BitVec 5) (y : BitVec 5) (s : State) : Outcome := runSlot h (planVsub d x y) s
def execVmov (h : Slot) (d : BitVec 5) (x : BitVec 5) (s : State) : Outcome := runSlot h (planVmov d x) s
def execVconj (h : Slot) (d : BitVec 5) (x : BitVec 5) (s : State) : Outcome := runSlot h (planVconj d x) s
def execVcmul (h : Slot) (d : BitVec 5) (x : BitVec 5) (y : BitVec 5) (cx : Bool) (cy : Bool) (sh : BitVec 5) (s : State) : Outcome := runSlot h (planVcmul d x y cx cy sh) s
def execVcmac (h : Slot) (d : BitVec 3) (x : BitVec 5) (y : BitVec 5) (m : MacMod) (s : State) : Outcome := runSlot h (planVcmac d x y m) s
def execVnarrow (h : Slot) (d : BitVec 5) (x : BitVec 3) (sh : BitVec 5) (s : State) : Outcome := runSlot h (planVnarrow d x sh) s
def execVqclr (h : Slot) (d : BitVec 3) (s : State) : Outcome := runSlot h (planVqclr d) s
def execVqadd (h : Slot) (d : BitVec 3) (x : BitVec 3) (s : State) : Outcome := runSlot h (planVqadd d x) s
def execVbcast (h : Slot) (d : BitVec 5) (x : BitVec 5) (k : BitVec 3) (s : State) : Outcome := runSlot h (planVbcast d x k) s
def execVspls (h : Slot) (d : BitVec 5) (x : BitVec 5) (s : State) : Outcome := runSlot h (planVspls d x) s
def execVext (h : Slot) (d : BitVec 5) (x : BitVec 5) (k : BitVec 3) (s : State) : Outcome := runSlot h (planVext d x k) s
def execVtags (h : Slot) (d : BitVec 5) (x : BitVec 5) (tag : BitVec 4) (s : State) : Outcome := runSlot h (planVtags d x tag) s
def execVtagg (h : Slot) (d : BitVec 5) (x : BitVec 5) (s : State) : Outcome := runSlot h (planVtagg d x) s
def execVcmp (h : Slot) (pd : BitVec 3) (x : BitVec 5) (y : BitVec 5) (cond : BitVec 3) (s : State) : Outcome := runSlot h (planVcmp pd x y cond) s
def execLds (h : Slot) (d : BitVec 5) (ad : AddrOp) (s : State) : Outcome := runSlot h (planLds d ad) s
def execSts (h : Slot) (ad : AddrOp) (x : BitVec 5) (s : State) : Outcome := runSlot h (planSts ad x) s
def execLdv (h : Slot) (d : BitVec 5) (ad : AddrOp) (s : State) : Outcome := runSlot h (planLdv d ad) s
def execStv (h : Slot) (ad : AddrOp) (x : BitVec 5) (s : State) : Outcome := runSlot h (planStv ad x) s
def execLd1 (h : Slot) (d : BitVec 5) (ad : AddrOp) (s : State) : Outcome := runSlot h (planLd1 d ad) s
def execSt1 (h : Slot) (ad : AddrOp) (x : BitVec 5) (s : State) : Outcome := runSlot h (planSt1 ad x) s
def execLdq (h : Slot) (d : BitVec 3) (ad : AddrOp) (s : State) : Outcome := runSlot h (planLdq d ad) s
def execStq (h : Slot) (ad : AddrOp) (x : BitVec 3) (s : State) : Outcome := runSlot h (planStq ad x) s
def execQrd1 (h : Slot) (d : BitVec 5) (n : BitVec 2) (nb : Bool) (k : BitVec 3) (s : State) : Outcome := runSlot h (planQrd1 d n nb k) s
def execQrd8 (h : Slot) (d : BitVec 5) (n : BitVec 2) (nb : Bool) (s : State) : Outcome := runSlot h (planQrd8 d n nb) s
def execQwr1 (h : Slot) (x : BitVec 5) (n : BitVec 1) (wt : Bool) (eop : Bool) (k : BitVec 3) (s : State) : Outcome := runSlot h (planQwr x n wt eop false (fun _ => [k.toNat]) Dev.streamTakes) s
def execQwr8 (h : Slot) (x : BitVec 5) (n : BitVec 1) (wt : Bool) (eop : Bool) (s : State) : Outcome := runSlot h (planQwr x n wt eop true lanesOf Dev.streamTakes) s
def execQflush (h : Slot) (n : BitVec 2) (s : State) : Outcome := runSlot h (planQflush n) s
def execLfence (h : Slot) (s : State) : Outcome := runSlot h (planLfence) s
def execAtom (h : Slot) (d : BitVec 5) (ax : BitVec 4) (y : BitVec 5) (op : BitVec 3) (s : State) : Outcome := runSlot h (planAtom d ax y op) s

end Sys2Proof.Machine
end

