-- ==== Sys2Proof/Machine/RegMap.lean ====
section
/-!
DEFINITION. BAR0 writes by block: the fields of each register, or none where no chapter assigns the offset (R27, R839,
R841, R845, and the field tables of every chapter). A field of type W1S or a field named GO acts as its own command does;
where that command needs what the device then measures, only the field is set.
-/
namespace Sys2Proof.Machine

/-- Instance and inner offset within an array of registers (R839). -/
def arr (off base stride n : Nat) : Option (Nat × Nat) :=
  if base ≤ off ∧ off < base + stride * n then some ((off - base) / stride, (off - base) % stride) else none

/-- A counter field that writing all ones clears (R845). -/
def cnt {n : Nat} (old : BitVec n) (v : Reg) (lo : Nat := 0) : BitVec n := if fld v lo n = 2 ^ n - 1 then 0 else old

/-- Bits of type W1C. -/
def w1c {n : Nat} (old : BitVec n) (v : Reg) (lo : Nat := 0) : BitVec n := old &&& ~~~ BitVec.ofNat n (fld v lo n)

/-- A flag of type W1C. -/
def w1cBit (old : Bool) (v : Reg) (b : Nat) : Bool := old && !bit v b

/-- RW bits of a register that is stored whole. -/
def rw (old v mask : Reg) : Reg := (old &&& ~~~ mask) ||| (v &&& mask)

/-- What another command leaves of a state. -/
def State.also (s : State) (f : State → Outcome) : State := match f s with | .next t => t | _ => s

def State.alsoIf (s : State) (c : Bool) (f : State → Outcome) : State := if c then s.also f else s

/-- A mapped register that a write changes nothing of. -/
def State.ro (s : State) : Option State := some s

def State.dev_ (s : State) (f : Dev → Dev) : Option State := some (s.onDev f)

/-- R844, R854: REC_CTL and REC_BUF of a unit, at offsets 0x20 and 0x200 of its group. -/
def State.regRec (s : State) (u off : Nat) (v : Reg) : Option State :=
  if off = 0x20 then
    some ((s.onDev fun d => d.onUnit u fun i => { i with typ := fld v 0 4, len := fld v 8 7 }).alsoIf (bit v 16) (execGo (BitVec.ofNat 8 u)))
  else match arr off 0x200 8 64 with
  | some (k, 0) => s.dev_ fun d => d.onUnit u fun i => { i with buf := Tbl.set i.buf k (setFld (Tbl.get 0 i.buf k) 0 32 v.toNat) }
  | some (k, 4) => s.dev_ fun d => d.onUnit u fun i => { i with buf := Tbl.set i.buf k (setFld (Tbl.get 0 i.buf k) 32 4 (fld v 0 4)) }
  | _ => none

/-! GLB. -/

/-- R838: the three locks of the register space. -/
def Dev.lockAll (d : Dev) : Dev :=
  let d := d.onAtc fun a => { a with wlock := true }
  if d.served then (d.onCel fun c => { c with lock := true }).stkLock else d

def State.regGlb (s : State) (off : Nat) (v : Reg) : Option State :=
  let on := fun (f : Glb → Glb) => s.dev_ fun d => { d with glb := f d.glb }
  match off with
  | 0x1C => on fun g => { g with scratch0 := v }
  | 0x20 => on fun g => { g with scratch1 := v }
  | 0x24 => on fun g => { g with scratch2 := v }
  | 0x28 => on fun g => { g with scratch3 := v }
  | 0x30 => s.dev_ fun d => if bit v 0 then d.lockAll else d
  | 0x3C => on fun g => { g with accPartial := w1cBit g.accPartial v 0, accUnmapped := w1cBit g.accUnmapped v 1, accCount := cnt g.accCount v 16 }
  | 0x50 => on fun g => { g with gpioDir := v.truncate 16 }
  | 0x54 => on fun g => { g with gpioOut := v.truncate 16 }
  | 0x5C => on fun g => { g with gpioEvsel := v }
  | 0x60 => on fun g => { g with gpioDrop := cnt g.gpioDrop v }
  | 0x34 | 0x38 | 0x40 | 0x58 => s.ro
  | _ => if off ≤ 0x18 then s.ro else none

/-! HLK. -/

/-- Half of a 64-bit base that is fixed once session 0 is open (R28, R99). -/
def Dev.admBase (d : Dev) (f : Hlk → Hlk) : Dev :=
  if (d.session 0).st ≠ .closed then d.note .cfgLocked domDevice srcHlk else { d with hlk := f d.hlk }

def State.regHlk (s : State) (off : Nat) (v : Reg) : Option State :=
  let on := fun (f : Hlk → Hlk) => s.dev_ fun d => { d with hlk := f d.hlk }
  match off with
  | 0x04 => some <|
      (((s.onDev fun d => { d with hlk := { d.hlk with linkCtl := setFld d.hlk.linkCtl 0 2 (fld v 0 2) } }).also
        (execDisable (BitVec.ofNat 2 (fld v 4 2)))).alsoIf (bit v 2) execRetrain0).alsoIf (bit v 3) execRetrain1
  | 0x0C => on fun h => { h with errStat := w1c h.errStat (v &&& 0x3F) }
  | 0x10 => s.dev_ fun d => d.admBase fun h => { h with admHatchBase := setFld h.admHatchBase 0 32 v.toNat }
  | 0x14 => s.dev_ fun d => d.admBase fun h => { h with admHatchBase := setFld h.admHatchBase 32 32 v.toNat }
  | 0x18 => s.dev_ fun d => d.admBase fun h => { h with admChitBase := setFld h.admChitBase 0 32 v.toNat }
  | 0x1C => s.dev_ fun d => d.admBase fun h => { h with admChitBase := setFld h.admChitBase 32 32 v.toNat }
  | 0x20 => s.dev_ fun d => d.admCfgWrite v
  | 0x24 => on fun h => { h with cwin := v &&& 0x8000007F }
  | 0x30 => on fun h => { h with sel := v &&& 0x0FFF0FFF }
  | 0x40 => on fun h => { h with retry0 := cnt h.retry0 v }
  | 0x44 => on fun h => { h with retry1 := cnt h.retry1 v }
  | 0x00 | 0x08 | 0x34 | 0x38 | 0x3C => s.ro
  | _ => none

/-! STK. -/

/-- R202: a default quota outside its range is not taken: the write is ignored and reported (log entry 83). -/
def Dev.stkRange (d : Dev) (ok : Bool) (f : Stk → Stk) : Dev :=
  if ok then { d with stk := f d.stk } else d.note .cfgRange domDevice srcStk

def State.regStk (s : State) (off : Nat) (v : Reg) : Option State :=
  let on := fun (f : Stk → Stk) => s.dev_ fun d => { d with stk := f d.stk }
  match off with
  | 0x00 => some ((s.onDev fun d => { d with stk := { d.stk with ctl := rw d.stk.ctl v 0xFF0F } }).alsoIf (bit v 31) execLock)
  | 0x04 => some (s.also (execStkPoolCfgWrite false v))
  | 0x08 => some (s.also (execStkPoolCfgWrite true v))
  | 0x14 => some (s.also (execStkPageCfgWrite v))
  | 0x18 => on fun k => { k with badSlot := w1cBit k.badSlot v 31 }
  | 0x1C => on fun k => { k with pageIns := cnt k.pageIns v }
  | 0x20 => on fun k => { k with pageOuts := cnt k.pageOuts v }
  | 0x28 => some (s.alsoIf (bit v 31) (execStkSpuRetire (v.truncate 7)))
  | 0x2C => s.dev_ fun d => d.stkRange (decide (fld v 0 16 ≤ 49152 ∧ fld v 16 11 ≤ 1024)) fun k => { k with defq0 := v &&& 0x07FFFFFF }
  | 0x30 => s.dev_ fun d => d.stkRange (decide (fld v 0 7 ≤ 64 ∧ 1 ≤ fld v 11 11 ∧ fld v 11 11 ≤ 1024)) fun k =>
      { k with defq1 := v &&& 0x003FFF7F }
  | 0x34 => s.dev_ fun d => d.stkRange (decide (fld v 0 21 ≤ 1048576)) fun k => { k with defq2 := v &&& 0x001FFFFF }
  | 0x40 => on fun k => { k with sel := v.truncate 12 }
  | 0x60 => on fun k => { k with preempts := cnt k.preempts v, noSlot := cnt k.noSlot v 16 }
  | 0x64 => on fun k => { k with tlbMisses := cnt k.tlbMisses v }
  | 0x70 => on fun k => { k with refSel := v &&& 0x8000FFFF }
  | 0x0C | 0x10 | 0x24 | 0x44 | 0x48 | 0x4C | 0x50 | 0x54 | 0x58 | 0x74 => s.ro
  | _ => (arr off 0x100 4 68).bind fun _ => s.ro

/-! REL. -/

def Dev.relRange (d : Dev) (ok : Bool) (f : Rel → Rel) : Dev := if ok then d.onRel f else d.note .cfgRange domDevice srcRel

/-- R864: each field of REL_SCRUB_CFG stands for itself. -/
def Dev.scrubField (d : Dev) (lo len : Nat) (v : Reg) : Dev :=
  d.relRange (fld v lo len != 0) fun r => { r with scrubCfg := setFld r.scrubCfg lo len (fld v lo len) }

def State.regRel (s : State) (off : Nat) (v : Reg) : Option State :=
  match off with
  | 0x04 => s.dev_ fun d => d.onRel fun r => { r with overflow := cnt r.overflow v 16 }
  | 0x08 => some (s.alsoIf (bit v 0) execPop)
  | 0x40 => some (s.alsoIf (bit v 31) (execRelAck (v.truncate 16)))
  | 0x44 => s.dev_ fun d => d.onRel fun r => { r with domSel := v.truncate 16 }
  | 0x4C => s.dev_ fun d => d.onRel fun r =>
      { r with domains := r.domains.map fun (k, m) => if k = r.domSel.toNat then (k, { m with corr := cnt m.corr v }) else (k, m) }
  | 0x50 => s.dev_ fun d => d.relRange (fld v 0 16 != 0) fun r => { r with ceInt := v.truncate 16 }
  | 0x60 => s.dev_ fun d =>
      (((d.scrubField 0 8 v).scrubField 8 8 v).scrubField 16 8 v).onRel fun r => { r with scrubCfg := setBit r.scrubCfg 24 (bit v 24) }
  | 0x64 => s.dev_ fun d => d.onRel fun r => { r with scrubLate := w1c r.scrubLate v, scrubFound := cnt r.scrubFound v 16 }
  | 0x00 | 0x48 => s.ro
  | _ => ((arr off 0x10 4 8).orElse fun _ => arr off 0x100 4 8).bind fun _ => s.ro

/-! TIM. -/

/-- A field of TIM whose value must lie in a range. -/
def Dev.timRange (d : Dev) (ok : Bool) (f : Tim → Tim) : Dev := if ok then d.onTim f else d.timRecord 0 (code := .cfgRange)

/-- TIM_ADJ_CTL: a rate out of range is not taken; GO applies OP (R700). -/
def Dev.adjCtlWrite (d : Dev) (v : Reg) : Dev :=
  let rate := fld v 4 10
  let d := d.onTim fun t => { t with adjCtl := setFld t.adjCtl 0 2 (fld v 0 2) }
  let d := d.timRange (decide (1 ≤ rate ∧ rate ≤ 1000)) fun t => { t with adjCtl := setFld t.adjCtl 4 10 rate }
  if bit v 2 && !d.rel.devFault then d.adjust else d

def Dev.ppsWrite (d : Dev) (v : Reg) : Dev :=
  let win := fld v 2 14
  let d := d.timRange (decide (1 ≤ win ∧ win ≤ 10000)) fun t => { t with ppsCfg := setFld t.ppsCfg 2 14 win }
  if fld v 0 2 = d.tim.ppsMode then d else d.ppsSetMode (fld v 0 2)

def State.regTim (s : State) (off : Nat) (v : Reg) : Option State :=
  let on := fun (f : Tim → Tim) => s.dev_ fun d => d.onTim f
  match off with
  | 0x00 => s.dev_ fun d => (d.onTim fun t => { t with refCtl := rw t.refCtl v 0x3E }).followOven
  | 0x04 => on fun t => { t with loss := w1cBit t.loss v 5, ret := w1cBit t.ret v 6 }
  | 0x1C => on fun t => { t with lateStrobe := w1cBit t.lateStrobe v 2 }
  | 0x24 => s.dev_ fun d => d.adjCtlWrite v
  | 0x28 => on fun t => { t with adjVal := setFld t.adjVal 0 32 v.toNat }
  | 0x2C => on fun t => { t with adjVal := setFld t.adjVal 32 32 v.toNat }
  | 0x40 => s.dev_ fun d => d.ppsWrite v
  | 0x44 => on fun t => { t with ppsMissing := w1cBit t.ppsMissing v 0 }
  | 0x4C => on fun t => { t with ppsSec := v }
  | 0x50 => s.dev_ fun d =>
      let d := d.onTim fun t => { t with syncCfg := setBit t.syncCfg 0 (bit v 0) }
      d.timRange (decide (256 ≤ fld v 16 16)) fun t => { t with syncCfg := setFld t.syncCfg 16 16 (fld v 16 16) }
  | 0x60 => some (s.also (execTarget 1 (v.truncate 11)))
  | 0x64 => some (s.also (execTarget 2 (v.truncate 11)))
  | 0x68 => s.dev_ fun d => d.timRange (decide (1 ≤ fld v 0 7 ∧ fld v 0 7 ≤ 100)) fun t => { t with rampCfg := BitVec.ofNat 32 (fld v 0 7) }
  | 0x80 => some <|
      ((s.onDev fun d =>
        let d := d.onTim fun t => { t with tdcCtl := setBit t.tdcCtl 0 (bit v 0) }
        d.timRange (fld v 8 8 != 0) fun t => { t with tdcCtl := setFld t.tdcCtl 8 8 (fld v 8 8) }).alsoIf (bit v 1) execTdcCal).alsoIf
          (bit v 2) execTdcSave
  | 0x84 => on fun t => { t with saveErr := w1cBit t.saveErr v 9, calErr := w1cBit t.calErr v 10 }
  | 0x800 => s.dev_ fun d => d.ringCfg (bit v 0 && (d.tim.ring.en || !d.rel.devFault)) (bit v 1) (bit v 2)
  | 0x804 => s.dev_ fun d => d.onRing fun r => { r with conflict := w1cBit r.conflict v 27 }
  | 0x81C => s.dev_ fun d => d.onRing fun r => { r with cmdDrop := cnt r.cmdDrop v 8, crc := cnt r.crc v 16 }
  | 0x08 | 0x0C | 0x10 | 0x14 | 0x18 | 0x30 | 0x34 | 0x48 | 0x70 | 0x808 | 0x80C | 0x810 | 0x814 | 0x818 => s.ro
  | _ =>
    match arr off 0x400 4 8, arr off 0x500 0x10 9, arr off 0x600 0x10 4 with
    | some (k, _), _, _ => on fun t => { t with alarms := Tbl.upd {} t.alarms k fun a => { a with late := w1cBit a.late v 1, fires := cnt a.fires v 16 } }
    | _, some (i, 0), _ => s.dev_ fun d => d.onInput i fun x => { x with ringFull := w1cBit x.ringFull v 2 }
    | _, some (i, 4), _ => s.dev_ fun d => d.onInput i fun x => { x with drop := cnt x.drop v }
    | _, some (_, 8), _ => s.ro
    | _, _, some (u, 0) => s.dev_ fun d => d.onStat u fun x => { x with ringFull := w1cBit x.ringFull v 1 }
    | _, _, some (_, 4) | _, _, some (_, 8) => s.ro
    | _, _, _ => s.regRec timUnit off v

/-! ING. -/

/-- A field of a port whose value must lie in a range. -/
def Dev.portRange (d : Dev) (p : Nat) (ok : Bool) (f : Ing → Ing) : Dev :=
  if ok then d.onPort p f else d.note .cfgRange (d.portDom p) (BitVec.ofNat 8 p)

def State.regCal (s : State) (port : Fin 4) (off : Nat) (v : Reg) : Option State :=
  let p := port.val
  let on := fun (f : Ing → Ing) => s.dev_ fun d => d.onPort p f
  match off with
  | 0x4000 => some <|
      ((s.onDev fun d =>
        let d := d.onPort p fun g => { g with calEn := bit v 0 && (g.calEn || !d.rel.devFault), forceLane := BitVec.ofNat 4 (fld v 24 4) }
        let d := d.portRange p (fld v 8 8 != 0) fun g => { g with period := BitVec.ofNat 8 (fld v 8 8) }
        d.portRange p (fld v 16 8 != 0) fun g => { g with tempStep := BitVec.ofNat 8 (fld v 16 8) }).alsoIf (bit v 1) (execSave port)).alsoIf
          (bit v 28) (execForce port (BitVec.ofNat 4 (fld v 24 4)))
  | 0x4004 => on fun g => { g with saveErr := w1cBit g.saveErr v 8, eyeAlarm := w1cBit g.eyeAlarm v 10 }
  | 0x400C => s.dev_ fun d => d.portRange p (decide (fld v 0 8 ≤ fld v 16 8 ∧ fld v 8 8 ≤ fld v 24 8)) fun g => { g with eyeCfg := v }
  | 0x4010 => s.dev_ fun d => d.portRange p (decide (300 ≤ fld v 0 12)) fun g => { g with tmo := v.truncate 12 }
  | 0x4014 => on fun g => { g with cals := cnt g.cals v, abandons := cnt g.abandons v 16, dropped := cnt g.dropped v 24 }
  | 0x4018 => some ((s.alsoIf (bit v 8) (execRetire port (v.truncate 4))).alsoIf (bit v 9) (execClear port (v.truncate 4)))
  | 0x4008 => s.ro
  | _ => (arr off 0x4100 0x20 9).bind fun (_, o) => if o ≤ 0x0C then s.ro else none

def State.regIng (s : State) (port : Fin 4) (off : Nat) (v : Reg) : Option State :=
  let p := port.val
  let on := fun (f : Ing → Ing) => s.dev_ fun d => d.onPort p f
  match off with
  | 0x00 => some ((s.also (execEn port (bit v 0))).alsoIf (bit v 1) (execRelink port))
  | 0x04 => on fun g => { g with srMargin := w1cBit g.srMargin v 5, srSlip := w1cBit g.srSlip v 6 }
  | 0x08 => on fun g => { g with err := w1c g.err v }
  | 0x10 => on fun g => { g with ovr := cnt g.ovr v }
  | 0x14 => on fun g => { g with gap := cnt g.gap v }
  | 0x1C => on fun g => { g with tsNext := v }
  | 0x18 => s.ro
  | _ =>
    match arr off 0x100 4 9, arr off 0x140 4 9 with
    | some _, _ => s.ro
    | _, some (q, _) => on fun g => g.onLane q fun x => { x with crc := cnt x.crc v }
    | _, _ => (s.regRec p off v).orElse fun _ => s.regCal port off v

/-! CHN, SPE and XSP. -/

def State.regChn (s : State) (p off : Nat) (v : Reg) : Option State :=
  let on := fun (f : Chn → Chn) => s.dev_ fun d => d.onChan p f
  match off with
  | 0x04 => on fun g => { g with aligned := w1cBit g.aligned v 11, shifted := w1cBit g.shifted v 12 }
  | 0x08 => on fun g => { g with dropped := cnt g.dropped v 24 }
  | 0x0C => on fun g => { g with sat := cnt g.sat v }
  | _ =>
    match ((arr off 0x400 4 65).orElse fun _ => arr off 0x600 4 64).orElse fun _ => arr off 0x800 4 19 with
    | some _ => s.ro
    | none => s.regRec (chnUnit p) off v

def State.regSpe (s : State) (port : Fin 4) (off : Nat) (v : Reg) : Option State :=
  let p := port.val
  let on := fun (f : Spe → Spe) => s.dev_ fun d => d.onEng p f
  match off with
  | 0x04 => on fun e => { e with aligned := w1cBit e.aligned v 22, shifted := w1cBit e.shifted v 23 }
  | 0x08 => on fun e => { e with err := w1c e.err v }
  | 0x1C => on fun e => { e with sat := cnt e.sat v }
  | 0x24 => on fun e => { e with discards := cnt e.discards v }
  | 0x28 => on fun e => { e with dropStore := cnt e.dropStore v }
  | 0x2C => on fun e => { e with dropInteg := cnt e.dropInteg v }
  | 0x40 => on fun e => { e with winPtr := v.truncate 16 }
  | 0x44 => some (s.also (execSpeWinData port (v.truncate 18)))
  | 0x10 | 0x14 | 0x18 | 0x30 => s.ro
  | _ => s.regRec (speUnit p) off v

def State.regXsp (s : State) (off : Nat) (v : Reg) : Option State :=
  match off with
  | 0x0C => s.dev_ fun d => { d with xsp := { d.xsp with err := w1c d.xsp.err v } }
  | 0x04 | 0x08 => s.ro
  | _ =>
    match arr off 0x100 4 6 with
    | some (k, _) => s.dev_ fun d =>
        { d with xsp := { d.xsp with pairs := Tbl.upd {} d.xsp.pairs k fun x => { x with unpaired := cnt x.unpaired v 16 } } }
    | none => s.regRec 0x14 off v

/-! TRG. -/

def State.regTrg (s : State) (port : Fin 4) (off : Nat) (v : Reg) : Option State :=
  let p := port.val
  let on := fun (f : Trg → Trg) => s.dev_ fun d => d.onTrig p f
  match off with
  | 0x00 => some ((s.alsoIf (bit v 0) (execTrgForce port)).alsoIf (bit v 1) (execClrPend port))
  | 0x08 => on fun t => { t with err := w1c t.err v }
  | 0x10 => on fun t => { t with cnt := cnt t.cnt v }
  | 0x14 => on fun t => { t with ign0 := cnt t.ign0 v }
  | 0x18 => on fun t => { t with ign1 := cnt t.ign1 v }
  | 0x1C => on fun t => { t with ign2 := cnt t.ign2 v }
  | 0x24 => on fun t => { t with lost0 := cnt t.lost0 v }
  | 0x28 => on fun t => { t with lost1 := cnt t.lost1 v }
  | 0x2C => on fun t => { t with lost2 := cnt t.lost2 v }
  | 0x44 => on fun t => { t with maskPtr := v.truncate 16 }
  | 0x48 => some (s.also (execTrgMaskData port (BitVec.ofNat 16 (fld v 0 16)) (BitVec.ofNat 16 (fld v 16 16))))
  | 0x60 =>
    -- it serves all units from TRG0; in the other windows a write is ignored (R841)
    if p ≠ 0 then s.ro
    else s.dev_ fun d =>
      if fld v 0 12 = 0 then d.note .cfgRange domDevice (BitVec.ofNat 8 (trgUnit 0)) else { d with instr := { d.instr with cfg := v } }
  | 0x04 | 0x0C | 0x30 | 0x34 | 0x38 | 0x40 => s.ro
  | _ =>
    match arr off 0x100 8 8 with
    | some (c, 0) => on fun t => { t with conds := Tbl.upd {} t.conds c fun x => { x with fires := cnt x.fires v 16 } }
    | some (_, 4) => s.ro
    | some _ => none
    | none => s.regRec (trgUnit p) off v

/-! CAP, DEN and SCO. -/

def State.regCap (s : State) (off : Nat) (v : Reg) : Option State :=
  let on := fun (b : Nat) (f : Barrel → Barrel) => s.dev_ fun d => d.onBarrel b f
  match off with
  | 0x00 | 0x04 => s.ro
  | _ =>
    match arr off 0x1000 0x40 16 with
    | some (b, 0x10) => on b fun x => { x with ign := cnt x.ign v }
    | some (b, 0x14) => on b fun x => { x with err := w1c x.err v }
    | some (_, o) => if o ≤ 0x24 then s.ro else none
    | none => s.regRec capUnit off v

def State.regDen (s : State) (p off : Nat) (v : Reg) : Option State :=
  match off with
  | 0x08 => s.dev_ fun d => d.onDen p fun e => { e with err := w1c e.err v }
  | 0x0C => s.dev_ fun d => d.onDen p fun e => { e with sat := cnt e.sat v }
  | 0x04 => s.ro
  | _ =>
    match arr off 0x400 0x10 4 with
    | some (i, 0) => s.dev_ fun d => d.onPlane p i fun x => { x with rdrop := cnt x.rdrop v 8 }
    | some (_, 4) | some (_, 8) => s.ro
    | some _ => none
    | none => s.regRec (denUnit p) off v

def State.regSco (s : State) (off : Nat) (v : Reg) : Option State :=
  match off with
  | 0x00 => some (s.also (execScoEnable (bit v 0)))
  | 0x08 => s.dev_ fun d => d.onSco fun e => { e with err := w1c e.err v }
  | 0x04 => s.ro
  | _ =>
    match arr off 0x100 0x10 2, arr off 0x180 0x20 2 with
    | some (_, 0), _ => s.ro
    | some (l, 4), _ => s.dev_ fun d => d.onLayer l fun y => { y with under := cnt y.under v }
    | some (l, 8), _ => s.dev_ fun d => d.onLayer l fun y => { y with defers := cnt y.defers v }
    | _, some (o, 0) => s.dev_ fun d => d.onOut o fun y => { y with seen := w1c y.seen v 4 }
    | _, some (o, 4) => some ((s.onDev fun d => d.onOut o fun y => { y with aux := v.truncate 28 }).alsoIf (bit v 28) (execAuxGo (Fin.ofNat 2 o)))
    | _, some (o, r) =>
      if 0x08 ≤ r ∧ r ≤ 0x14 ∧ r % 4 = 0 then s.dev_ fun d => d.onOut o fun y => { y with data := setFld y.data (8 * (r - 8)) 32 v.toNat } else none
    | _, _ => s.regRec 0x30 off v

/-- The window shared by the density units and scan-out. -/
def State.regDenSco (s : State) (off : Nat) (v : Reg) : Option State :=
  if 0x8000 ≤ off then s.regSco (off - 0x8000) v
  else if off = 0x7000 then s.ro
  else (arr off 0 0x1000 4).bind fun (p, o) => s.regDen p o v

/-! SPA, MOV and CMP. -/

def State.regSpa (s : State) (off : Nat) (v : Reg) : Option State :=
  match off with
  | 0x00 => s.dev_ fun d => { d with spa := { d.spa with dbgEn := bit v 0 } }
  | 0x04 => some (s.also (execTarget 0 (v.truncate 11)))
  | 0x08 => s.dev_ fun d => { d with spa := { d.spa with eccCorr := cnt d.spa.eccCorr v, eccUncorr := cnt d.spa.eccUncorr v 16 } }
  | _ =>
    match arr off 0x100 0x10 68 with
    | some (k, 0) =>
      let spu := Fin.ofNat 68 k
      some (((s.alsoIf (bit v 0) (execHalt spu)).alsoIf (bit v 1) (execStep spu)).alsoIf (bit v 2) (execDebugResume spu))
    | some (k, 8) => s.dev_ fun d => d.onSpu k fun u => { u with dbgSel := v &&& 0xFF }
    | some (_, 4) | some (_, 12) => s.ro
    | _ => none

def State.regMov (s : State) (off : Nat) (v : Reg) : Option State :=
  let on := fun (f : Mov → Mov) => s.dev_ fun d => { d with mov := f d.mov }
  match off with
  | 0x10 => on fun m => { m with failLoop := cnt m.failLoop v }
  | 0x14 => on fun m => { m with failTimeout := cnt m.failTimeout v }
  | 0x18 => on fun m => { m with failBus := cnt m.failBus v }
  | 0x1C => on fun m => { m with failCompare := cnt m.failCompare v }
  | 0x40 => on fun m => { m with strmSel := v.truncate 16 }
  | 0x44 => on fun m => { m with streams := m.streams.map fun (k, x) => if k = m.strmSel.toNat then (k, { x with badRead := w1cBit x.badRead v 31 }) else (k, x) }
  | 0x48 => s.ro
  | _ =>
    match arr off 0x1000 0x40 16 with
    | some (m, 0) =>
      let k := Fin.ofNat 16 m
      some ((s.alsoIf (bit v 0) (execStop k)).alsoIf (bit v 1) (execResume k))
    | some (m, 8) => s.dev_ fun d => d.onMover m fun x => { x with err := if bit v 31 then none else x.err }
    | some (_, o) => if o ≤ 0x14 then s.ro else none
    | none => none

def State.regCmp (s : State) (off : Nat) (v : Reg) : Option State :=
  let on := fun (e : Nat) (f : CmpEng → CmpEng) => s.dev_ fun d => { d with mov := { d.mov with engines := Tbl.upd {} d.mov.engines e f } }
  match arr off 0 0x10 4 with
  | some (_, 0) => s.ro
  | some (e, 4) => on e fun x => { x with blocks := cnt x.blocks v }
  | some (e, 8) => on e fun x => { x with early := cnt x.early v }
  | _ => none

/-! CEL. -/

def Dev.celRange (d : Dev) (ok : Bool) (f : Cel → Cel) : Dev := if ok then d.onCel f else d.note .cfgRange domDevice srcCel

def State.regCel (s : State) (off : Nat) (v : Reg) : Option State :=
  match off with
  | 0x00 => s.dev_ fun d => if d.cel.lock then d else d.onCel fun c =>
      { c with maxSpeed := BitVec.ofNat 2 (fld v 8 2), maxSpeedSet := true, retResv := BitVec.ofNat 2 (fld v 12 2), retResvSet := true }
  | 0x04 => some ((s.onDev fun d => d.onCel fun c => { c with srEn := bit v 0, autoRetire := bit v 1 }).alsoIf (bit v 31) execCelCtlLock)
  | 0x0C => s.dev_ fun d => d.celRange (decide (10 ≤ fld v 0 16)) fun c => { c with srIdle := v.truncate 16 }
  | 0x10 => s.dev_ fun d => d.celRange (fld v 0 8 != 0 && fld v 8 8 != 0) fun c => { c with rtCfg := v &&& 0xFFFF }
  | 0x14 => s.dev_ fun d => d.celRange (decide (4 ≤ fld v 0 7 ∧ fld v 0 7 ≤ 64)) fun c => { c with migBw := v.truncate 7 }
  | 0x18 => s.dev_ fun d => d.onCel fun c => { c with err := w1c c.err v }
  | 0x1C => s.dev_ fun d => d.onCel fun c => { c with ceThr := v.truncate 16 }
  | 0x20 => some (s.alsoIf (bit v 31) (execCelRetire (Fin.ofNat 64 (fld v 0 6))))
  | 0x08 | 0x24 | 0x28 => s.ro
  | _ =>
    match arr off 0x100 4 7, arr off 0x400 8 64 with
    | some (q, _), _ => s.dev_ fun d =>
        let d := d.onCel fun c => { c with maxAge := Tbl.upd 0 c.maxAge q fun a => cnt a v 16 }
        if q = 0 then d else d.celRange (decide (100 ≤ fld v 0 16)) fun c => { c with targets := Tbl.set c.targets q (v.truncate 16) }
    | _, some (_, 0) => s.ro
    | _, some (p, 4) => s.dev_ fun d => d.onPc p fun x => { x with corr := cnt x.corr v, uncorr := cnt x.uncorr v 24 }
    | _, _ => none

/-! MON. -/

/-- R828: HKC_EVT_STAT.MON is set while an enabled interrupt stands. -/
def Dev.monLevel (d : Dev) : Dev := if d.mon.intStat &&& d.mon.intEn = 0 then d else d.hkcEvt 1

/-- MON_CTL: CAL and CTRIM start, and end with the commands that bring what they measure; SAVE. -/
def Dev.monCtl (d : Dev) (v : Reg) : Dev :=
  if d.rel.devFault then d else d.onMon fun m => { m with cal := m.cal || bit v 0, ctrim := m.ctrim || bit v 1 }

def State.regMon (s : State) (off : Nat) (v : Reg) : Option State :=
  let on := fun (f : Mon → Mon) => s.dev_ fun d => d.onMon f
  match off with
  | 0x00 => some ((s.onDev fun d => d.monCtl v).alsoIf (bit v 2) execMonSave)
  | 0x04 => on fun m => { m with calErr := w1cBit m.calErr v 1, saveErr := w1cBit m.saveErr v 2 }
  | 0x08 => on fun m => { m with intStat := w1c m.intStat (v &&& 0x7FFFF) }
  | 0x0C => s.dev_ fun d =>
      let was := d.mon.intStat &&& d.mon.intEn
      let d := d.onMon fun m => { m with intEn := v &&& (if d.rel.devFault then m.intEn else 0x7FFFF) }
      if was = 0 then d.monLevel else d
  | _ =>
    match arr off 0x400 0x10 8, arr off 0x500 4 4, arr off 0x600 4 4, arr off 0x700 4 8, arr off 0x800 0x10 32, arr off 0xC00 8 32 with
    | some (k, 0), _, _, _, _, _ => s.dev_ fun d => d.onCmp k fun x =>
        { x with latch := w1cBit x.latch v 5, capValid := w1cBit x.capValid v 6, capOvr := w1cBit x.capOvr v 7 }
    | some (_, 4), _, _, _, _, _ => s.ro
    | some (k, 8), _, _, _, _, _ => s.dev_ fun d => d.onCmp k fun x => { x with edges := cnt x.edges v }
    | _, some _, _, _, _, _ => s.ro
    | _, _, some (k, _), _, _, _ => s.dev_ fun d => d.onSeq k fun q => { q with dropped := cnt q.dropped v 16 }
    | _, _, _, some _, _, _ => s.ro
    | _, _, _, _, some (a, 12), _ => some ((s.onDev fun d => d.onAcc a fun x => { x with sat := w1cBit x.sat v 1 }).alsoIf (bit v 0) (execAccClr (Fin.ofNat 32 a)))
    | _, _, _, _, some _, _ => s.ro
    | _, _, _, _, _, some (_, 0) => s.ro
    | _, _, _, _, _, some (k, 4) => some ((s.onDev fun d => d.onTrk k fun x => { x with limit := w1cBit x.limit v 2 }).alsoIf (bit v 0) (execTrkClr (Fin.ofNat 32 k)))
    | _, _, _, _, _, _ => s.regRec monUnit off v

/-! ATC. -/

/-- ATC_CTL.GO runs OP; OP 3 is reserved. -/
def State.atticGo (s : State) : State :=
  match s.dev.atc.op.toNat with
  | 0 => s.also execWriteRecord
  | 1 => s.also execInvalidateRecord
  | 2 => s.also execWriteIntegratorArea
  | _ => s.onDev fun d => d.atticHost 3 false .hostWrite 0 []

def State.regAtc (s : State) (off : Nat) (v : Reg) : Option State :=
  let on := fun (f : Atc → Atc) => s.dev_ fun d => d.onAtc f
  match off with
  | 0x00 =>
    let s := s.onDev fun d => d.onAtc fun a => if a.busy then a else { a with op := BitVec.ofNat 2 (fld v 0 2) }
    some ((if bit v 4 then s.atticGo else s).alsoIf (bit v 31) execWlock)
  | 0x04 => on fun a => { a with rec_ := v &&& 0x7FFF00FF }
  | 0x08 => on fun a => { a with ofs := v.truncate 7 }
  | 0x18 => on fun a => { a with page := v.truncate 4 }
  | 0x0C | 0x10 | 0x14 => s.ro
  | _ =>
    match arr off 0x4000 4 4096, arr off 0x8000 4 8192 with
    | some (k, _), _ => on fun a => { a with stage := Tbl.putRun 0 a.stage (4 * k) (leBytes 4 v.toNat) }
    | _, some _ => s.ro
    | _, _ => none

/-! HKC. -/

/-- A write of HKC_EVT_STAT: MON stays set while its source stands, and raises the vector again (R828, R845, R853). -/
def Dev.evtClear (d : Dev) (v : Reg) : Dev :=
  let d := d.onHkc fun h => { h with evtStat := w1c h.evtStat v }
  if bit v 1 then d.monLevel else d

/-- HKC_MB_CMD with GO (R826, R827). SENSORS and CALIBRATE run with the commands that bring what they measure; here CMD takes
their code. -/
def State.mailboxGo (s : State) (cmd : BitVec 8) : State :=
  match cmd.toNat with
  | 1 => s.also execVersion
  | 2 => s.also execReset
  | 3 => s.also execStandby
  | 4 | 5 =>
    if s.dev.hkc.busy then s.onDev fun d => d.onHkc fun h => { h with ignored := BitVec.ofNat 16 (satInc 16 h.ignored.toNat) }
    else s.onDev fun d => d.onHkc fun h => { h with cmd }
  | _ => s.also (execUnknownMailboxCommand cmd)

/-- A write of HKC_MB_CMD without GO sets CMD alone. -/
def State.regHkc (s : State) (off : Nat) (v : Reg) : Option State :=
  let on := fun (f : Hkc → Hkc) => s.dev_ fun d => d.onHkc f
  match off with
  | 0x00 => if bit v 31 then some (s.mailboxGo (v.truncate 8)) else on fun h => if h.busy then h else { h with cmd := v.truncate 8 }
  | 0x04 => on fun h => { h with done := w1cBit h.done v 9, ignored := cnt h.ignored v 16 }
  | 0x104 => on fun h => { h with tripped := w1cBit h.tripped v 5 }
  | 0x108 => s.dev_ fun d => d.evtClear v
  | 0x10C => on fun h => { h with evtEn := v.truncate 4 }
  | 0x100 => s.ro
  | _ =>
    match arr off 0x10 4 8, arr off 0x30 4 8 with
    | some (k, _), _ => on fun h => { h with args := Tbl.set h.args k v }
    | _, some _ => s.ro
    | _, _ => none

end Sys2Proof.Machine
end

