-- ==== Sys2Proof/Machine/Writes.lean ====
section
/-!
DEFINITION. The host's access to BAR0: writes, the latching read of the time, the locks, the MSI-X table, and GPIO
(R838 to R852).
-/
namespace Sys2Proof.Machine

/-! Access errors (R840, R841). -/

/-- An ignored write sets PARTIAL or UNMAPPED; the first while both are clear leaves its offset. -/
def Dev.accErr (d : Dev) (partial_ : Bool) (off : Nat) : Dev :=
  let g := d.glb
  { d with
    glb := { g with
      accAddr := if g.accPartial || g.accUnmapped then g.accAddr else BitVec.ofNat 32 (off % 2 ^ 21 + 2 ^ 31)
      accPartial := g.accPartial || partial_
      accUnmapped := g.accUnmapped || !partial_
      accCount := BitVec.ofNat 16 (satInc 16 g.accCount.toNat) } }

/-! MSI-X (R842, R852). -/

/-- Vector Control: unmasking a vector sends the message that waits. -/
def Dev.vectorMask (d : Dev) (v : Nat) (masked : Bool) : Dev :=
  let d := { d with hlk := { d.hlk with unmasked := Tbl.put false d.hlk.unmasked v (!masked) } }
  if !masked ∧ Tbl.get false d.hlk.msiPending v then
    { d with hlk := { d.hlk with msiPending := Tbl.put false d.hlk.msiPending v false }, host := d.host ++ [.msix v] }
  else d

def execMsixVectorUnmask (vector : BitVec 11) (s : State) : Outcome := hostStep s fun d => d.vectorMask vector.toNat false

/-- A write of the table, by word. -/
def Dev.msiTableWrite (d : Dev) (k : Nat) (v : Reg) : Dev :=
  if k % 4 = 3 then d.vectorMask (k / 4) (bit v 0) else { d with hlk := { d.hlk with msiTable := Tbl.put 0 d.hlk.msiTable k v } }

/-! Writes (R838 to R843, R847). -/

/-- The block of an offset. -/
def State.regBlock (s : State) (blk o : Nat) (v : Reg) : Option State :=
  match blk with
  | 0x00 => s.regGlb o v
  | 0x01 =>
    if 0x8000 ≤ o then s.dev_ fun d => d.msiTableWrite ((o - 0x8000) / 4) v
    else if 0x7000 ≤ o ∧ o < 0x7100 then s.ro
    else s.regHlk o v
  | 0x02 => s.regStk o v
  | 0x03 => s.regRel o v
  | 0x04 => s.regTim o v
  | 0x05 | 0x06 | 0x07 | 0x08 => s.regIng (Fin.ofNat 4 (blk - 5)) o v
  | 0x09 | 0x0A | 0x0B | 0x0C => s.regChn (blk - 9) o v
  | 0x0D | 0x0E | 0x0F | 0x10 => s.regSpe (Fin.ofNat 4 (blk - 13)) o v
  | 0x11 | 0x12 | 0x13 | 0x14 => s.regTrg (Fin.ofNat 4 (blk - 17)) o v
  | 0x15 => s.regCap o v
  | 0x16 => s.regDenSco o v
  | 0x17 => s.regSpa o v
  | 0x18 => s.regMov o v
  | 0x19 => s.regCmp o v
  | 0x1A => s.regCel o v
  | 0x1B => s.regMon o v
  | 0x1C => s.regAtc o v
  | 0x1D => s.regHkc o v
  | 0x1E => s.regXsp o v
  | _ => none

/-- GLB, REL, ATC and HKC, which a FUNCTION reset leaves served (R847). -/
def keptBlock (blk : Nat) : Bool := blk == 0x00 || blk == 0x03 || blk == 0x1C || blk == 0x1D

/-- One aligned 32-bit write. -/
def State.write32 (s : State) (off : Nat) (v : Reg) : State :=
  let blk := off / 65536
  if !(s.dev.served || s.dev.servedKept && keptBlock blk) then s
  else match s.regBlock blk (off % 65536) v with
  | some t => t
  | none => s.onDev fun d => d.accErr false off

/-- The MSI-X table and pending bits follow PCIe: R840 and R841 do not apply (R842). -/
def msiArea (off : Nat) : Bool := (decide (0x17000 ≤ off ∧ off < 0x17100)) || decide (0x18000 ≤ off ∧ off < 0x20000)

def State.partialWrite (s : State) (off : Nat) : State :=
  if !s.dev.servedKept ∨ msiArea off then s else s.onDev fun d => d.accErr true off

/-- R840: an aligned 64-bit write is two 32-bit writes, the lower address first; any other shape is ignored. -/
def execRegisterWrite (offset : BitVec 21) (data : BarWrite) (s : State) : Outcome :=
  .next <|
    let off := offset.toNat
    match data with
    | .w32 v => if off % 4 = 0 then s.write32 off v else s.partialWrite off
    | .w64 v => if off % 8 = 0 then (s.write32 off (v.truncate 32)).write32 (off + 4) (BitVec.ofNat 32 (fld v 32 32)) else s.partialWrite off
    | .irregular => s.partialWrite off

/-- R844: a read of TIM_NOW instance 0 latches the count. -/
def execTimNowRead (s : State) : Outcome :=
  hostStep s fun d =>
    { (d.onTim fun t => { t with nowLatch := t.count }) with host := d.host ++ [.reply (leBytes 4 d.now.toNat)] }

/-- R838: GLB_CTL.LOCK_ALL. -/
def execLockAll (s : State) : Outcome := keptStep s Dev.lockAll

/-! GPIO (R849, R850). -/

/-- The selected edge of a pin: bit 0 rising, bit 1 falling. -/
def execGpioEdge (pin : Fin 16) (level : Bool) (s : State) : Outcome :=
  devStep s fun d =>
    let p := pin.val
    if bit d.glb.gpioIn p = level then d else
    let d := { d with glb := { d.glb with gpioIn := setBit d.glb.gpioIn p level } }
    let selected := bit d.glb.gpioEvsel (2 * p + (!level).toNat)
    if !d.tim.started ∨ !selected then d
    else if (Tbl.find? d.glb.gpioLast p).any fun t => decide ((d.tim.ticks - t).toNat < 8) then
      { d with glb := { d.glb with gpioDrop := BitVec.ofNat 32 (satInc 32 d.glb.gpioDrop.toNat) } }
    else
      ({ d with glb := { d.glb with gpioLast := Tbl.set d.glb.gpioLast p d.tim.ticks } }).raise (0xB00 + p) (stampOf (d.now - 2))

end Sys2Proof.Machine
end

