-- ==== Sys2Proof/Machine/Dispatch.lean ====
section
/-!
DEFINITION. One arm per command.
-/
namespace Sys2Proof.Machine

def exec (i : Instr) (s : State) : Host.Outcome State Fault Refusal :=
  match i with
  | .hatchTail hatch value => Sys2Proof.Machine.execHatchTail hatch value s
  | .chitHead hatch value => Sys2Proof.Machine.execChitHead hatch value s
  | .crateRead hatch slot glist => Sys2Proof.Machine.execCrateRead hatch slot glist s
  | .hatchSlotFault hatch timedOut => Sys2Proof.Machine.execHatchSlotFault hatch timedOut s
  | .admissionResume hatch glist => Sys2Proof.Machine.execAdmissionResume hatch glist s
  | .dependencySatisfied crate => Sys2Proof.Machine.execDependencySatisfied crate s
  | .chitIssue crate => Sys2Proof.Machine.execChitIssue crate s
  | .heldChitRelease session => Sys2Proof.Machine.execHeldChitRelease session s
  | .coalesceIntervalEnd vector => Sys2Proof.Machine.execCoalesceIntervalEnd vector s
  | .run crate => Sys2Proof.Machine.execRun crate s
  | .instanceStart => Sys2Proof.Machine.execInstanceStart s
  | .gangHold crate => Sys2Proof.Machine.execGangHold crate s
  | .crateAgeing crate => Sys2Proof.Machine.execCrateAgeing crate s
  | .move crate => Sys2Proof.Machine.execMove crate s
  | .streamOpen crate => Sys2Proof.Machine.execStreamOpen crate s
  | .streamClose crate => Sys2Proof.Machine.execStreamClose crate s
  | .arm crate => Sys2Proof.Machine.execArm crate s
  | .disarm crate => Sys2Proof.Machine.execDisarm crate s
  | .rearm crate => Sys2Proof.Machine.execRearm crate s
  | .allocShelves crate => Sys2Proof.Machine.execAllocShelves crate s
  | .allocLoft crate => Sys2Proof.Machine.execAllocLoft crate s
  | .free crate => Sys2Proof.Machine.execFree crate s
  | .load crate image => Sys2Proof.Machine.execLoad crate image s
  | .fence crate => Sys2Proof.Machine.execFence crate s
  | .query crate ack => Sys2Proof.Machine.execQuery crate ack s
  | .openSession crate => Sys2Proof.Machine.execOpenSession crate s
  | .closeSession crate => Sys2Proof.Machine.execCloseSession crate s
  | .addHatch crate => Sys2Proof.Machine.execAddHatch crate s
  | .removeHatch crate => Sys2Proof.Machine.execRemoveHatch crate s
  | .setQuota crate => Sys2Proof.Machine.execSetQuota crate s
  | .poolGrantAdd crate => Sys2Proof.Machine.execPoolGrantAdd crate s
  | .poolGrantWithdraw crate => Sys2Proof.Machine.execPoolGrantWithdraw crate s
  | .setVectors crate => Sys2Proof.Machine.execSetVectors crate s
  | .resetSession crate => Sys2Proof.Machine.execResetSession crate s
  | .setHdm crate => Sys2Proof.Machine.execSetHdm crate s
  | .drainEnd session => Sys2Proof.Machine.execDrainEnd session s
  | .adminSessionEnable value => Sys2Proof.Machine.execAdminSessionEnable value s
  | .moduleTraining module_ supported passes repaired half => Sys2Proof.Machine.execModuleTraining module_ supported passes repaired half s
  | .retrain0 => Sys2Proof.Machine.execRetrain0 s
  | .retrain1 => Sys2Proof.Machine.execRetrain1 s
  | .moduleDegrade module_ down => Sys2Proof.Machine.execModuleDegrade module_ down s
  | .bar4Access offset access => Sys2Proof.Machine.execBar4Access offset access s
  | .cxlMemAccess offset access => Sys2Proof.Machine.execCxlMemAccess offset access s
  | .hdmDecoderCommit gib base => Sys2Proof.Machine.execHdmDecoderCommit gib base s
  | .snoop => Sys2Proof.Machine.execSnoop s
  | .registerWrite offset data => Sys2Proof.Machine.execRegisterWrite offset data s
  | .timNowRead => Sys2Proof.Machine.execTimNowRead s
  | .monAccSumLoRead acc => Sys2Proof.Machine.execMonAccSumLoRead acc s
  | .stkPoolCfgWrite ttCfg value => Sys2Proof.Machine.execStkPoolCfgWrite ttCfg value s
  | .stkPageCfgWrite value => Sys2Proof.Machine.execStkPageCfgWrite value s
  | .lock => Sys2Proof.Machine.execLock s
  | .lockAll => Sys2Proof.Machine.execLockAll s
  | .pageOut => Sys2Proof.Machine.execPageOut s
  | .pageIn session shelf requester => Sys2Proof.Machine.execPageIn session shelf requester s
  | .shelfTransferDone which ack => Sys2Proof.Machine.execShelfTransferDone which ack s
  | .ageingSweep => Sys2Proof.Machine.execAgeingSweep s
  | .preemption => Sys2Proof.Machine.execPreemption s
  | .instanceResume crate num => Sys2Proof.Machine.execInstanceResume crate num s
  | .stkSpuRetire spu => Sys2Proof.Machine.execStkSpuRetire spu s
  | .dvfsLoweringApply => Sys2Proof.Machine.execDvfsLoweringApply s
  | .en port value => Sys2Proof.Machine.execEn port value s
  | .relink port => Sys2Proof.Machine.execRelink port s
  | .pllLock port => Sys2Proof.Machine.execPllLock port s
  | .pllLockLost port => Sys2Proof.Machine.execPllLockLost port s
  | .embAlignment port => Sys2Proof.Machine.execEmbAlignment port s
  | .sysrefEdge port lead => Sys2Proof.Machine.execSysrefEdge port lead s
  | .firstRelease port => Sys2Proof.Machine.execFirstRelease port s
  | .beatRelease port blocks => Sys2Proof.Machine.execBeatRelease port blocks s
  | .portStateTimeout port => Sys2Proof.Machine.execPortStateTimeout port s
  | .laneFail port lane embLost => Sys2Proof.Machine.execLaneFail port lane embLost s
  | .spareSelectFrame port => Sys2Proof.Machine.execSpareSelectFrame port s
  | .spareSwitch port => Sys2Proof.Machine.execSpareSwitch port s
  | .go unit_ => Sys2Proof.Machine.execGo unit_ s
  | .recordCommit unit_ => Sys2Proof.Machine.execRecordCommit unit_ s
  | .laneAcquisition port lane trims eye => Sys2Proof.Machine.execLaneAcquisition port lane trims eye s
  | .attemptLimitExpiry port lane => Sys2Proof.Machine.execAttemptLimitExpiry port lane s
  | .inPlaceTrimStep port lane field up => Sys2Proof.Machine.execInPlaceTrimStep port lane field up s
  | .laneTemperatureUpdate port => Sys2Proof.Machine.execLaneTemperatureUpdate port s
  | .calibrationPeriod port lane => Sys2Proof.Machine.execCalibrationPeriod port lane s
  | .force port lane => Sys2Proof.Machine.execForce port lane s
  | .spareSwap port => Sys2Proof.Machine.execSpareSwap port s
  | .eyeScan port lane eye => Sys2Proof.Machine.execEyeScan port lane eye s
  | .learnedEntry port lane => Sys2Proof.Machine.execLearnedEntry port lane s
  | .save port => Sys2Proof.Machine.execSave port s
  | .retire port lane => Sys2Proof.Machine.execRetire port lane s
  | .clear port lane => Sys2Proof.Machine.execClear port lane s
  | .syncStrobe target => Sys2Proof.Machine.execSyncStrobe target s
  | .coarseRound port => Sys2Proof.Machine.execCoarseRound port s
  | .fullRateSpectrum port => Sys2Proof.Machine.execFullRateSpectrum port s
  | .speWinData port coef => Sys2Proof.Machine.execSpeWinData port coef s
  | .crossSpectrumMatch pair => Sys2Proof.Machine.execCrossSpectrumMatch pair s
  | .triggerCombine port => Sys2Proof.Machine.execTriggerCombine port s
  | .externalInputEdge pin level held => Sys2Proof.Machine.execExternalInputEdge pin level held s
  | .instrAssertion low held => Sys2Proof.Machine.execInstrAssertion low held s
  | .timeoutCondition port cond => Sys2Proof.Machine.execTimeoutCondition port cond s
  | .sequencerWindowExpiry port => Sys2Proof.Machine.execSequencerWindowExpiry port s
  | .holdoffEnd port => Sys2Proof.Machine.execHoldoffEnd port s
  | .trgForce port => Sys2Proof.Machine.execTrgForce port s
  | .clrPend port => Sys2Proof.Machine.execClrPend port s
  | .trgoScheduledStart port => Sys2Proof.Machine.execTrgoScheduledStart port s
  | .trgoPulseEnd port => Sys2Proof.Machine.execTrgoPulseEnd port s
  | .instrPullEnd => Sys2Proof.Machine.execInstrPullEnd s
  | .trgMaskData port lower upper => Sys2Proof.Machine.execTrgMaskData port lower upper s
  | .barrelTrigger barrel time => Sys2Proof.Machine.execBarrelTrigger barrel time s
  | .barrelWrite barrel cells => Sys2Proof.Machine.execBarrelWrite barrel cells s
  | .captureClose barrel => Sys2Proof.Machine.execCaptureClose barrel s
  | .decay port plane => Sys2Proof.Machine.execDecay port plane s
  | .occupancyRecord port => Sys2Proof.Machine.execOccupancyRecord port s
  | .render port plane columns => Sys2Proof.Machine.execRender port plane columns s
  | .cmapCommit port => Sys2Proof.Machine.execCmapCommit port s
  | .latchLine => Sys2Proof.Machine.execLatchLine s
  | .underrun layer line x => Sys2Proof.Machine.execUnderrun layer line x s
  | .plug output => Sys2Proof.Machine.execPlug output s
  | .unplug output => Sys2Proof.Machine.execUnplug output s
  | .irqHpd output lost => Sys2Proof.Machine.execIrqHpd output lost s
  | .linkTrainingDone output pass => Sys2Proof.Machine.execLinkTrainingDone output pass s
  | .auxGo output => Sys2Proof.Machine.execAuxGo output s
  | .auxReply output result data => Sys2Proof.Machine.execAuxReply output result data s
  | .scoEnable value => Sys2Proof.Machine.execScoEnable value s
  | .nop h slot => Sys2Proof.Machine.execNop h slot s
  | .add h d x y => Sys2Proof.Machine.execAdd h d x y s
  | .sub h d x y => Sys2Proof.Machine.execSub h d x y s
  | .and_ h d x y => Sys2Proof.Machine.execAnd h d x y s
  | .or_ h d x y => Sys2Proof.Machine.execOr h d x y s
  | .xor_ h d x y => Sys2Proof.Machine.execXor h d x y s
  | .shl h d x y => Sys2Proof.Machine.execShl h d x y s
  | .shr h d x y => Sys2Proof.Machine.execShr h d x y s
  | .sra h d x y => Sys2Proof.Machine.execSra h d x y s
  | .mul h d x y => Sys2Proof.Machine.execMul h d x y s
  | .mulh h d x y => Sys2Proof.Machine.execMulh h d x y s
  | .mulhu h d x y => Sys2Proof.Machine.execMulhu h d x y s
  | .min_ h d x y => Sys2Proof.Machine.execMin h d x y s
  | .max_ h d x y => Sys2Proof.Machine.execMax h d x y s
  | .addi h d x imm => Sys2Proof.Machine.execAddi h d x imm s
  | .andi h d x imm => Sys2Proof.Machine.execAndi h d x imm s
  | .ori h d x imm => Sys2Proof.Machine.execOri h d x imm s
  | .xori h d x imm => Sys2Proof.Machine.execXori h d x imm s
  | .shli h d x imm => Sys2Proof.Machine.execShli h d x imm s
  | .shri h d x imm => Sys2Proof.Machine.execShri h d x imm s
  | .srai h d x imm => Sys2Proof.Machine.execSrai h d x imm s
  | .movi h d imm => Sys2Proof.Machine.execMovi h d imm s
  | .movhi h d imm => Sys2Proof.Machine.execMovhi h d imm s
  | .cmp h pd cond x y => Sys2Proof.Machine.execCmp h pd cond x y s
  | .cmpi h pd cond x imm => Sys2Proof.Machine.execCmpi h pd cond x imm s
  | .plog h pd px py fn => Sys2Proof.Machine.execPlog h pd px py fn s
  | .prd h d px => Sys2Proof.Machine.execPrd h d px s
  | .pwr h pd x => Sys2Proof.Machine.execPwr h pd x s
  | .mfc h d cr => Sys2Proof.Machine.execMfc h d cr s
  | .mtc h x cr => Sys2Proof.Machine.execMtc h x cr s
  | .mflc h d n => Sys2Proof.Machine.execMflc h d n s
  | .br h target => Sys2Proof.Machine.execBr h target s
  | .call h target => Sys2Proof.Machine.execCall h target s
  | .ret h => Sys2Proof.Machine.execRet h s
  | .brx h x => Sys2Proof.Machine.execBrx h x s
  | .rep h x fin => Sys2Proof.Machine.execRep h x fin s
  | .repi h count fin => Sys2Proof.Machine.execRepi h count fin s
  | .waitev h d mask => Sys2Proof.Machine.execWaitev h d mask s
  | .sigev h reg x index => Sys2Proof.Machine.execSigev h reg x index s
  | .setw h d => Sys2Proof.Machine.execSetw h d s
  | .exit h => Sys2Proof.Machine.execExit h s
  | .bkpt h => Sys2Proof.Machine.execBkpt h s
  | .aadd h d x y => Sys2Proof.Machine.execAadd h d x y s
  | .aaddi h d x imm => Sys2Proof.Machine.execAaddi h d x imm s
  | .aadds h d x y => Sys2Proof.Machine.execAadds h d x y s
  | .ali h d imm => Sys2Proof.Machine.execAli h d imm s
  | .ahi h d imm => Sys2Proof.Machine.execAhi h d imm s
  | .afs h d x => Sys2Proof.Machine.execAfs h d x s
  | .ats h d x => Sys2Proof.Machine.execAts h d x s
  | .mset h d imm => Sys2Proof.Machine.execMset h d imm s
  | .mfs h d x => Sys2Proof.Machine.execMfs h d x s
  | .mts h d x => Sys2Proof.Machine.execMts h d x s
  | .vadd h d x y => Sys2Proof.Machine.execVadd h d x y s
  | .vsub h d x y => Sys2Proof.Machine.execVsub h d x y s
  | .vmov h d x => Sys2Proof.Machine.execVmov h d x s
  | .vconj h d x => Sys2Proof.Machine.execVconj h d x s
  | .vcmul h d x y cx cy sh => Sys2Proof.Machine.execVcmul h d x y cx cy sh s
  | .vcmac h d x y m => Sys2Proof.Machine.execVcmac h d x y m s
  | .vnarrow h d x sh => Sys2Proof.Machine.execVnarrow h d x sh s
  | .vqclr h d => Sys2Proof.Machine.execVqclr h d s
  | .vqadd h d x => Sys2Proof.Machine.execVqadd h d x s
  | .vbcast h d x k => Sys2Proof.Machine.execVbcast h d x k s
  | .vspls h d x => Sys2Proof.Machine.execVspls h d x s
  | .vext h d x k => Sys2Proof.Machine.execVext h d x k s
  | .vtags h d x tag => Sys2Proof.Machine.execVtags h d x tag s
  | .vtagg h d x => Sys2Proof.Machine.execVtagg h d x s
  | .vcmp h pd x y cond => Sys2Proof.Machine.execVcmp h pd x y cond s
  | .lds h d ad => Sys2Proof.Machine.execLds h d ad s
  | .sts h ad x => Sys2Proof.Machine.execSts h ad x s
  | .ldv h d ad => Sys2Proof.Machine.execLdv h d ad s
  | .stv h ad x => Sys2Proof.Machine.execStv h ad x s
  | .ld1 h d ad => Sys2Proof.Machine.execLd1 h d ad s
  | .st1 h ad x => Sys2Proof.Machine.execSt1 h ad x s
  | .ldq h d ad => Sys2Proof.Machine.execLdq h d ad s
  | .stq h ad x => Sys2Proof.Machine.execStq h ad x s
  | .qrd1 h d n nb k => Sys2Proof.Machine.execQrd1 h d n nb k s
  | .qrd8 h d n nb => Sys2Proof.Machine.execQrd8 h d n nb s
  | .qwr1 h x n wt eop k => Sys2Proof.Machine.execQwr1 h x n wt eop k s
  | .qwr8 h x n wt eop => Sys2Proof.Machine.execQwr8 h x n wt eop s
  | .qflush h n => Sys2Proof.Machine.execQflush h n s
  | .lfence h => Sys2Proof.Machine.execLfence h s
  | .atom h d ax y op => Sys2Proof.Machine.execAtom h d ax y op s
  | .setup h unit_ ax type_ => Sys2Proof.Machine.execSetup h unit_ ax type_ s
  | .mvgo h d ax y => Sys2Proof.Machine.execMvgo h d ax y s
  | .mvstop h x => Sys2Proof.Machine.execMvstop h x s
  | .eventArrival index => Sys2Proof.Machine.execEventArrival index s
  | .queueWrite queue mismatch cell time eop => Sys2Proof.Machine.execQueueWrite queue mismatch cell time eop s
  | .target which mhz => Sys2Proof.Machine.execTarget which mhz s
  | .regulatorReady which => Sys2Proof.Machine.execRegulatorReady which s
  | .rampDone which => Sys2Proof.Machine.execRampDone which s
  | .halt spu => Sys2Proof.Machine.execHalt spu s
  | .step spu => Sys2Proof.Machine.execStep spu s
  | .debugResume spu => Sys2Proof.Machine.execDebugResume spu s
  | .copy mover desc data => Sys2Proof.Machine.execCopy mover desc data s
  | .fill mover desc => Sys2Proof.Machine.execFill mover desc s
  | .compare mover desc data dest => Sys2Proof.Machine.execCompare mover desc data dest s
  | .hopLimit mover => Sys2Proof.Machine.execHopLimit mover s
  | .requestTimeout mover write space addr => Sys2Proof.Machine.execRequestTimeout mover write space addr s
  | .busError mover write space addr => Sys2Proof.Machine.execBusError mover write space addr s
  | .chainCompletion mover => Sys2Proof.Machine.execChainCompletion mover s
  | .stop mover => Sys2Proof.Machine.execStop mover s
  | .resume mover => Sys2Proof.Machine.execResume mover s
  | .streamFrame stream => Sys2Proof.Machine.execStreamFrame stream s
  | .readReread stream read => Sys2Proof.Machine.execReadReread stream read s
  | .cellarRequest pc arrivals errors => Sys2Proof.Machine.execCellarRequest pc arrivals errors s
  | .refresh pc bank idle => Sys2Proof.Machine.execRefresh pc bank idle s
  | .selfRefreshEntry stack => Sys2Proof.Machine.execSelfRefreshEntry stack s
  | .selfRefreshExit stack => Sys2Proof.Machine.execSelfRefreshExit stack s
  | .periodicRetraining pc pass => Sys2Proof.Machine.execPeriodicRetraining pc pass s
  | .celRetire pc => Sys2Proof.Machine.execCelRetire pc s
  | .sliceMigration bad => Sys2Proof.Machine.execSliceMigration bad s
  | .migrationEnd => Sys2Proof.Machine.execMigrationEnd s
  | .stackTemperature stack temp => Sys2Proof.Machine.execStackTemperature stack temp s
  | .refinLoss => Sys2Proof.Machine.execRefinLoss s
  | .refinValid ref100 offset => Sys2Proof.Machine.execRefinValid ref100 offset s
  | .pllLocked => Sys2Proof.Machine.execPllLocked s
  | .ovenReady level => Sys2Proof.Machine.execOvenReady level s
  | .stepTime val => Sys2Proof.Machine.execStepTime val s
  | .slew val => Sys2Proof.Machine.execSlew val s
  | .set_ val => Sys2Proof.Machine.execSet val s
  | .slewComplete => Sys2Proof.Machine.execSlewComplete s
  | .stampEdge input rising code => Sys2Proof.Machine.execStampEdge input rising code s
  | .stampReady input => Sys2Proof.Machine.execStampReady input s
  | .tdcCalibration input temp hits => Sys2Proof.Machine.execTdcCalibration input temp hits s
  | .tdcCalibrationDue input => Sys2Proof.Machine.execTdcCalibrationDue input s
  | .tdcCal => Sys2Proof.Machine.execTdcCal s
  | .tdcSave => Sys2Proof.Machine.execTdcSave s
  | .lineSwap input => Sys2Proof.Machine.execLineSwap input s
  | .statsPairing unit_ => Sys2Proof.Machine.execStatsPairing unit_ s
  | .ppsEdge time => Sys2Proof.Machine.execPpsEdge time s
  | .ppsMissing => Sys2Proof.Machine.execPpsMissing s
  | .mode mode => Sys2Proof.Machine.execMode mode s
  | .tickAlarm alarm => Sys2Proof.Machine.execTickAlarm alarm s
  | .syncPinEdge => Sys2Proof.Machine.execSyncPinEdge s
  | .beacon => Sys2Proof.Machine.execBeacon s
  | .ringFrameReceive dir frame arrival residence => Sys2Proof.Machine.execRingFrameReceive dir frame arrival residence s
  | .echoReq depart0 depart1 => Sys2Proof.Machine.execEchoReq depart0 depart1 s
  | .enum => Sys2Proof.Machine.execEnum s
  | .change rx0 rx1 => Sys2Proof.Machine.execChange rx0 rx1 s
  | .ringCommandAtT => Sys2Proof.Machine.execRingCommandAtT s
  | .isolated => Sys2Proof.Machine.execIsolated s
  | .monitorTimerWrap timer restart => Sys2Proof.Machine.execMonitorTimerWrap timer restart s
  | .comparatorEdge channel raw => Sys2Proof.Machine.execComparatorEdge channel raw s
  | .comparatorResolve channel raw => Sys2Proof.Machine.execComparatorResolve channel raw s
  | .standbyWakeEdge channel raw => Sys2Proof.Machine.execStandbyWakeEdge channel raw s
  | .temperatureService raws => Sys2Proof.Machine.execTemperatureService raws s
  | .sequenceStart seq => Sys2Proof.Machine.execSequenceStart seq s
  | .sequenceDelayEnd seq => Sys2Proof.Machine.execSequenceDelayEnd seq s
  | .sequenceRunEnd slot raws => Sys2Proof.Machine.execSequenceRunEnd slot raws s
  | .accumulatorWindow slot raws => Sys2Proof.Machine.execAccumulatorWindow slot raws s
  | .trackerLimit slot raws => Sys2Proof.Machine.execTrackerLimit slot raws s
  | .accClr acc => Sys2Proof.Machine.execAccClr acc s
  | .trkClr trk => Sys2Proof.Machine.execTrkClr trk s
  | .cal sums => Sys2Proof.Machine.execCal sums s
  | .ctrim trims => Sys2Proof.Machine.execCtrim trims s
  | .monSave => Sys2Proof.Machine.execMonSave s
  | .errorRecord code sev domain src cause addr session detail atOnce => Sys2Proof.Machine.execErrorRecord code sev domain src cause addr session detail atOnce s
  | .pop => Sys2Proof.Machine.execPop s
  | .relAck domain => Sys2Proof.Machine.execRelAck domain s
  | .ceIntervalEnd => Sys2Proof.Machine.execCeIntervalEnd s
  | .errlogCopy => Sys2Proof.Machine.execErrlogCopy s
  | .patrolScrub read pct late => Sys2Proof.Machine.execPatrolScrub read pct late s
  | .atticCrcCheck bad => Sys2Proof.Machine.execAtticCrcCheck bad s
  | .lostAnalysisTick => Sys2Proof.Machine.execLostAnalysisTick s
  | .writeRecord => Sys2Proof.Machine.execWriteRecord s
  | .invalidateRecord => Sys2Proof.Machine.execInvalidateRecord s
  | .writeIntegratorArea => Sys2Proof.Machine.execWriteIntegratorArea s
  | .wlock => Sys2Proof.Machine.execWlock s
  | .atticWriteDone ok => Sys2Proof.Machine.execAtticWriteDone ok s
  | .porstN => Sys2Proof.Machine.execPorstN s
  | .rstN => Sys2Proof.Machine.execRstN s
  | .functionReset => Sys2Proof.Machine.execFunctionReset s
  | .boot rails digestOk failedSpus height failing repaired => Sys2Proof.Machine.execBoot rails digestOk failedSpus height failing repaired s
  | .ready ms => Sys2Proof.Machine.execReady ms s
  | .version => Sys2Proof.Machine.execVersion s
  | .reset => Sys2Proof.Machine.execReset s
  | .standby => Sys2Proof.Machine.execStandby s
  | .sensors vdd18 vddCore vddDvs vddaSds => Sys2Proof.Machine.execSensors vdd18 vddCore vddDvs vddaSds s
  | .calibrate sums trims temp hits => Sys2Proof.Machine.execCalibrate sums trims temp hits s
  | .unknownMailboxCommand cmd => Sys2Proof.Machine.execUnknownMailboxCommand cmd s
  | .smbusRead what => Sys2Proof.Machine.execSmbusRead what s
  | .smbusReset => Sys2Proof.Machine.execSmbusReset s
  | .smbusStandby => Sys2Proof.Machine.execSmbusStandby s
  | .wake => Sys2Proof.Machine.execWake s
  | .wakeRequest cmp => Sys2Proof.Machine.execWakeRequest cmp s
  | .throttleEntry => Sys2Proof.Machine.execThrottleEntry s
  | .throttleRelease => Sys2Proof.Machine.execThrottleRelease s
  | .thermalTrip => Sys2Proof.Machine.execThermalTrip s
  | .gpioEdge pin level => Sys2Proof.Machine.execGpioEdge pin level s
  | .configurationRequest => Sys2Proof.Machine.execConfigurationRequest s
  | .msixVectorUnmask vector => Sys2Proof.Machine.execMsixVectorUnmask vector s
  | .disable value => Sys2Proof.Machine.execDisable value s
  | .railOutOfRange rail => Sys2Proof.Machine.execRailOutOfRange rail s
  | .celCtlLock => Sys2Proof.Machine.execCelCtlLock s

end Sys2Proof.Machine
end

