-- ==== Sys2Proof/Machine/Tick.lean ====
section
/-!
DEFINITION. One tick of the time base: what happens when no command waits.
-/
namespace Sys2Proof.Machine

/-- The boundaries that come with a tick. -/
def State.tickBoundaries (s : State) : State := tickUnits.foldl State.boundary s

/-- One coarse tick (R698): the count and what is due at it, the monitors' clock, the analysis time lost, records whose
boundary is a tick, and the entry into standby. Before boot starts the time base nothing happens (R699). -/
def State.tick (s : State) : State :=
  if !s.dev.tim.started then s
  else ((s.onDev fun d => d.timTick.monTick.lostTick).tickBoundaries).standbyTick

end Sys2Proof.Machine
end

