-- ==== Sys2Proof/Machine/Regs.lean ====
section
/-!
DEFINITION. What a read of BAR0 shows, part 1: GLB, HLK, STK, REL, TIM and ING (R156, R166, R838 to R844, R863, and the field
tables of those chapters). A register that no chapter assigns has none.
-/
namespace Sys2Proof.Machine

/-- A register from its fields: lowest bit, width and value. -/
def pack (l : List (Nat × Nat × Nat)) : Reg := BitVec.ofNat 32 (l.foldl (fun a (lo, n, v) => a + v % 2 ^ n * 2 ^ lo) 0)

/-- One bit as a field. -/
def flag (lo : Nat) (b : Bool) : Nat × Nat × Nat := (lo, 1, b.toNat)

/-- A value that saturates in its field. -/
def satf (lo n v : Nat) : Nat × Nat × Nat := (lo, n, satU n v)

def boolBits (n : Nat) (p : Nat → Bool) : Nat := ((List.range n).filter p).foldl (fun a i => a + 2 ^ i) 0

/-- A word of a value that spans several registers. -/
def wordOf {n : Nat} (v : BitVec n) (i : Nat) : Reg := BitVec.ofNat 32 (v.toNat >>> (32 * i))

/-- REC_CTL and REC_BUF of a unit (R839, R854). -/
def Dev.readRec (d : Dev) (u off : Nat) : Option Reg :=
  let i := d.unit u
  if off = 0x20 then some (pack [(0, 4, i.typ), (8, 7, i.len), (20, 4, i.result)])
  else (arr off 0x200 8 64).bind fun (k, o) =>
    let c := Tbl.get 0 i.buf k
    if o = 0 then some (wordOf c 0) else if o = 4 then some (wordOf c 1) else none

/-! GLB. -/

/-- GLB_ERR_SUM. -/
def Dev.errSum (d : Dev) : Reg :=
  pack [flag 0 (d.hlk.errStat != 0), (1, 4, boolBits 4 fun p => (d.port p).err != 0), (5, 4, boolBits 4 fun p => (d.eng p).err != 0),
    (9, 4, boolBits 4 fun p => (d.trig p).err != 0), (13, 4, boolBits 4 fun p => (d.dens p).err != 0), flag 17 (d.xsp.err != 0),
    flag 18 (d.barrels.any fun (_, b) => b.err != 0), flag 19 (d.sco.err != 0), flag 20 (d.mov.movers.any fun (_, m) => m.err.isSome),
    flag 21 (d.cel.err != 0), flag 22 (d.mon.calErr || d.mon.saveErr), flag 23 (d.tim.loss || d.tim.calErr || d.tim.saveErr),
    flag 24 (d.hkc.fail != 0)]

/-- GLB_INT_SUM. -/
def Dev.intSum (d : Dev) : Reg :=
  pack [flag 0 (d.rel.queue.any fun r => 2 ≤ r.sev.toNat), flag 1 (d.rel.queue.any fun r => r.sev.toNat < 2),
    flag 2 (d.hkc.evtStat &&& d.hkc.evtEn != 0), flag 3 (d.hlk.errStat != 0), flag 4 d.rel.devFault]

def Dev.readGlb (d : Dev) (off : Nat) : Option Reg :=
  let g := d.glb
  match off with
  | 0x00 => some (pack [(0, 16, 0x9640), (16, 8, g.stepping.toNat), flag 24 g.grade, flag 25 g.idValid])
  | 0x14 => some (pack [(0, 16, g.fw.toNat), (16, 16, g.rom.toNat)])
  | 0x18 => some (pack [(0, 4, 4), (4, 7, 68), (11, 5, 16), (16, 8, g.cellarGib.toNat)])
  | 0x1C => some g.scratch0
  | 0x20 => some g.scratch1
  | 0x24 => some g.scratch2
  | 0x28 => some g.scratch3
  | 0x30 => some (pack [flag 0 (bit d.stk.ctl 31 && d.cel.lock && d.atc.wlock)])
  | 0x34 => some d.intSum
  | 0x38 => some d.errSum
  | 0x3C => some (pack [flag 0 g.accPartial, flag 1 g.accUnmapped, (16, 16, g.accCount.toNat)])
  | 0x40 => some g.accAddr
  | 0x50 => some (g.gpioDir.zeroExtend 32)
  | 0x54 => some (g.gpioOut.zeroExtend 32)
  | 0x58 => some (g.gpioIn.zeroExtend 32)
  | 0x5C => some g.gpioEvsel
  | 0x60 => some g.gpioDrop
  | _ => (arr off 0x04 4 4).map fun (i, _) => wordOf g.serial i

/-! HLK. -/

def SessState.code : SessState → Nat
  | .closed => 0
  | .opened => 1
  | .faulted => 2
  | .draining => 3

def Dev.readHlk (d : Dev) (off : Nat) : Option Reg :=
  let h := d.hlk
  let n := fld h.sel 0 12
  let x := Tbl.find? h.hatches (fld h.sel 16 12)
  match off with
  | 0x00 => some h.linkStat
  | 0x04 => some h.linkCtl
  | 0x08 => some (pack [(0, 16, d.streamCap), (16, 16, cdiv d.declared 1000)])
  | 0x0C => some h.errStat
  | 0x10 => some (wordOf h.admHatchBase 0)
  | 0x14 => some (wordOf h.admHatchBase 1)
  | 0x18 => some (wordOf h.admChitBase 0)
  | 0x1C => some (wordOf h.admChitBase 1)
  | 0x20 => some h.admCfg
  | 0x24 => some h.cwin
  | 0x30 => some h.sel
  | 0x34 => some (pack [(0, 2, (d.session n).st.code), (2, 11, d.inflight n), (13, 9, (d.session n).held.length)])
  | 0x38 => some (x.elim 0 fun x => pack [(0, 17, (x.tail - x.head).toNat), (17, 12, x.owner), flag 29 true])
  | 0x3C => some (Tbl.get 0 h.badDb (fld h.sel 16 12))
  | 0x40 => some h.retry0
  | 0x44 => some h.retry1
  | _ => none

/-- The MSI-X table: address and data words, and the mask bit of Vector Control (R842). -/
def Hlk.msiWord (h : Hlk) (k : Nat) : Reg :=
  if k % 4 = 3 then pack [flag 0 (!Tbl.get false h.unmasked (k / 4))] else Tbl.get 0 h.msiTable k

/-- A word of the pending-bit array (R842, R852). -/
def Hlk.pbaWord (h : Hlk) (k : Nat) : Reg := BitVec.ofNat 32 (boolBits 32 fun i => Tbl.get false h.msiPending (32 * k + i))

/-! STK. -/

/-- Free allocatable Loft pages, and the longest run of them (R156, STK_LOFT_STAT). -/
def Dev.loftFreeCount (d : Dev) : Nat := ((List.range 1024).filter d.loftFree).length
def Dev.loftLargest (d : Dev) : Nat :=
  ((List.range 1024).foldl (fun (best, run) p => let run := if d.loftFree p then run + 1 else 0; (max best run, run)) ((0, 0) : Nat × Nat)).1

/-- STK_QUSE0 to STK_QUSE2 of a session that is not CLOSED (R153, R202, R863). -/
def Dev.quotaUse (d : Dev) (n i : Nat) : Reg :=
  match i with
  | 0 => pack [(0, 16, d.stk.held n), (16, 11, (d.stk.loft.filter fun (_, p) => p.session == n).length)]
  | 1 => pack [(0, 7, d.sessionSpus n), (8, 11, d.inflight n)]
  | _ => pack [(0, 21, d.stk.poolUse n)]

/-- STK_QLIM0 to STK_QLIM2 of a session that is not CLOSED: session 0 shows the values that limit nothing (R863). -/
def Dev.quotaLimit (d : Dev) (n i : Nat) : Reg :=
  let s := d.session n
  let s := if n = 0 then { s with qShelves := 49152, qLoft := 1024, qSpus := 64, qPrio := 0, qInflight := 1024, qPool := 1048576 } else s
  match i with
  | 0 => pack [(0, 16, s.qShelves), (16, 11, s.qLoft)]
  | 1 => pack [(0, 7, s.qSpus), (8, 3, s.qPrio), (11, 11, s.qInflight)]
  | _ => pack [(0, 21, s.qPool)]

/-- STK_REFSTAT of a physical Shelf: the session's hold counts as one reference until FREE (R144, R163, R166). -/
def Dev.refShelf (d : Dev) (p : Nat) : Reg :=
  let place := [flag 29 (decide (d.fittedShelves - d.cel.top - d.hlk.hdmGib * 512 ≤ p ∧ p < d.fittedShelves - d.cel.top)),
    flag 30 (decide (p < d.ttShelves ∧ d.fittedShelves ≠ 0))]
  match d.stk.shelves.find? fun e => e.place == .resident p with
  | some e => pack ([(0, 12, e.session), (12, 11, e.refs + (!e.freed).toNat), flag 27 e.freed, flag 28 (d.pinned e), flag 31 true] ++ place)
  | none => pack place

/-- STK_REFSTAT of a Loft page. A page is never paged out, so none is pinned. -/
def Dev.refPage (d : Dev) (p : Nat) : Reg :=
  match Tbl.find? d.stk.loft p with
  | some e => pack [(0, 12, e.session), (12, 11, e.refs + (!e.freed).toNat), flag 27 e.freed, flag 31 true]
  | none => match d.stk.programs.find? fun g => g.base / 16384 ≤ p && p < g.base / 16384 + g.pages with
    | some g => pack [(0, 12, g.session), (12, 11, g.refs + (!g.freed).toNat), flag 27 g.freed, flag 31 true]
    | none => 0

/-- STK_SPU_STATE (R190, R566). LOAD counts issued bundles in units of 1,024. -/
def Dev.spuState (d : Dev) (k : Nat) : Reg :=
  let u := d.spu k
  let i := u.runs.bind fun key => Tbl.find? d.insts key
  let st := if u.retired then 6 else if u.spare then 5 else if u.moving ≠ 0 then u.moving
    else i.elim 0 fun i => if i.waiting then 2 else 1
  pack [(0, 3, st), (4, 12, i.elim 0 (·.session)), satf 16 16 (d.load k / 1024)]

def Dev.readStk (d : Dev) (off : Nat) : Option Reg :=
  let k := d.stk
  let n := k.sel.toNat
  let opened := fun (v : Reg) => if (d.session n).st = .closed then 0 else v
  match off with
  | 0x00 => some k.ctl
  | 0x04 => some k.poolCfg
  | 0x08 => some k.ttCfg
  | 0x0C => some (if d.fittedShelves = 0 then 0 else pack [(0, 16, d.usableShelves), (16, 16, d.freeShelves)])
  | 0x10 => some (if d.fittedShelves = 0 then 0 else pack [(0, 11, d.loftFreeCount), (16, 11, d.loftLargest)])
  | 0x14 => some k.pageCfg
  | 0x18 => some (pack [(0, 21, k.slotsFree.length), (21, 10, (k.waitingIns.length + (k.running.filter (·.inward)).length)), flag 31 k.badSlot])
  | 0x1C => some k.pageIns
  | 0x20 => some k.pageOuts
  | 0x24 => some (pack [(0, 7, d.goodSpus), (8, 7, d.schedulable), (16, 7, d.goodSpus - d.schedulable), (24, 7, 68 - d.goodSpus)])
  | 0x28 => some 0
  | 0x2C => some k.defq0
  | 0x30 => some k.defq1
  | 0x34 => some k.defq2
  | 0x40 => some (k.sel.zeroExtend 32)
  | 0x44 => some (opened (d.quotaUse n 0))
  | 0x48 => some (opened (d.quotaUse n 1))
  | 0x4C => some (opened (d.quotaUse n 2))
  | 0x50 => some (opened (d.quotaLimit n 0))
  | 0x54 => some (opened (d.quotaLimit n 1))
  | 0x58 => some (opened (d.quotaLimit n 2))
  | 0x60 => some (pack [(0, 16, k.preempts.toNat), (16, 16, k.noSlot.toNat)])
  | 0x64 => some k.tlbMisses
  | 0x70 => some k.refSel
  | 0x74 => some (if bit k.refSel 31 then d.refPage (fld k.refSel 0 16) else d.refShelf (fld k.refSel 0 16))
  | _ => (arr off 0x100 4 68).map fun (i, _) => d.spuState i

/-! REL. -/

def Dev.readRel (d : Dev) (off : Nat) : Option Reg :=
  let r := d.rel
  let m := Tbl.get {} r.domains r.domSel.toNat
  match off with
  | 0x00 => some (pack [flag 0 r.devFault, flag 1 (!r.queue.isEmpty)])
  | 0x04 => some (pack [(0, 7, r.queue.length), (16, 16, r.overflow.toNat)])
  | 0x08 | 0x40 => some 0
  | 0x44 => some (r.domSel.zeroExtend 32)
  | 0x48 => some (pack [flag 0 m.outstanding, flag 1 m.escalating, (8, 8, m.escalations.toNat), (16, 16, m.uncorr.toNat)])
  | 0x4C => some m.corr
  | 0x50 => some (r.ceInt.zeroExtend 32)
  | 0x60 => some r.scrubCfg
  | 0x64 => some (pack [(0, 3, r.scrubLate.toNat), (8, 8, r.scrubPct.toNat), (16, 16, r.scrubFound.toNat)])
  | _ =>
    match arr off 0x10 4 8, arr off 0x100 4 8 with
    | some (i, _), _ => some (r.queue.head?.elim 0 fun x => BitVec.ofNat 32 ((x.words[i]?).getD 0))
    | _, some (i, _) => some (BitVec.ofNat 32 (r.lost (i / 2) >>> (32 * (i % 2))))
    | _, _ => none

/-! TIM. -/

def RefState.code : RefState → Nat
  | .free => 0
  | .acquire => 1
  | .locked => 2
  | .warmup => 3
  | .holdover => 4
  | .recover => 5

/-- TIM_SYN, and SPA_FREQ less DEFERRED. -/
def Syn.reg (x : Syn) : List (Nat × Nat × Nat) := [(0, 11, x.target.toNat), (16, 11, x.current.toNat), flag 27 x.ramp.isSome]

/-- TIM_PLL_STAT. The display PLLs are locked while scan-out runs (log entry 76). -/
def Dev.pllStat (d : Dev) : Reg :=
  let t := d.tim
  pack [flag 0 (t.ref == .locked || t.ref == .warmup), (1, 4, boolBits 4 fun p => (d.port p).pllLock), (5, 5, t.coreLock.toNat),
    (10, 2, t.celLock.toNat), (12, 2, boolBits 2 fun o => d.sco.run && d.outOn o)]

def Dev.readTimer (d : Dev) (off : Nat) : Option Reg :=
  let t := d.tim
  match arr off 0x400 4 8, arr off 0x500 0x10 9, arr off 0x600 0x10 4 with
  | some (k, _), _, _ => let a := t.alarm k; some (pack [flag 0 a.en, flag 1 a.late, (16, 16, a.fires.toNat)])
  | _, some (i, 0), _ => some (pack [flag 0 (d.inputEn i), flag 1 (t.input i).line, flag 2 (t.input i).ringFull])
  | _, some (i, 4), _ => some (t.input i).drop
  | _, some (i, 8), _ => some (t.input i).cnt
  | _, _, some (u, 0) => some (pack [flag 0 ((d.statsRec? u).any (·.en)), flag 1 (t.stat u).ringFull])
  | _, _, some (u, 4) => some (BitVec.ofNat 32 (t.stat u).n)
  | _, _, some (u, 8) => some (t.stat u).blk
  | _, _, _ => d.readRec timUnit off

def Ring.stat (r : Ring) : Reg :=
  pack [(0, 8, r.pos0.toNat), (8, 8, r.pos1.toNat), (16, 8, r.size.toNat), flag 24 r.whole, flag 25 r.isolated, flag 26 r.srcdir,
    flag 27 r.conflict, flag 28 r.rx0, flag 29 r.rx1]

/-- TIM_NOW shows the latch; instance 2 holds the fine part, which is 0 (R844). -/
def Dev.readTim (d : Dev) (off : Nat) : Option Reg :=
  let t := d.tim
  let r := t.ring
  match off with
  | 0x00 => some t.refCtl
  | 0x04 => some (pack [(0, 3, t.ref.code), flag 3 t.ref100, flag 4 t.oven, flag 5 t.loss, flag 6 t.ret, (16, 16, t.losses.toNat)])
  | 0x08 => some t.pbo
  | 0x0C => some t.pboSum
  | 0x10 => some (wordOf t.count 0)
  | 0x14 => some (wordOf t.nowLatch 1)
  | 0x18 => some 0
  | 0x1C => some (pack [flag 0 t.unset, flag 1 (t.rem != 0), flag 2 t.lateStrobe, (16, 16, t.steps.toNat)])
  | 0x24 => some t.adjCtl
  | 0x28 => some (wordOf t.adjVal 0)
  | 0x2C => some (wordOf t.adjVal 1)
  | 0x30 => some (wordOf (BitVec.ofInt 64 t.rem) 0)
  | 0x34 => some (wordOf (BitVec.ofInt 64 t.rem) 1)
  | 0x40 => some t.ppsCfg
  | 0x44 => some (pack [flag 0 t.ppsMissing, (16, 16, t.ppsMissed.toNat)])
  | 0x48 => some t.ppsOff
  | 0x4C => some t.ppsSec
  | 0x50 => some t.syncCfg
  | 0x60 => some (pack t.cs1.reg)
  | 0x64 => some (pack t.cs2.reg)
  | 0x68 => some t.rampCfg
  | 0x70 => some d.pllStat
  | 0x80 => some t.tdcCtl
  | 0x84 => some (pack [(0, 9, boolBits 9 fun i => (Tbl.find? t.tables (2 * i)).isSome && (Tbl.find? t.tables (2 * i + 1)).isSome),
      flag 9 t.saveErr, flag 10 t.calErr, flag 11 t.tdcBusy])
  | 0x800 => some (pack [flag 0 r.en, flag 1 r.master, flag 2 r.follow])
  | 0x804 => some r.stat
  | 0x808 => some r.hop0
  | 0x80C => some r.hop1
  | 0x810 => some r.off
  | 0x814 => some r.lead
  | 0x818 => some r.arg
  | 0x81C => some (pack [(0, 8, r.gen.toNat), (8, 8, r.cmdDrop.toNat), (16, 16, r.crc.toNat)])
  | _ => d.readTimer off

/-! ING. -/

def PortState.code : PortState → Nat
  | .idle => 0
  | .pllWait => 1
  | .laneSync => 2
  | .embAlign => 3
  | .sysrefWait => 4
  | .run => 5
  | .degraded => 6
  | .fault => 7

/-- ING_LANE_STAT ROLE; a port in IDLE has given its lanes no role yet (log entry 76). -/
def Dev.laneRole (d : Dev) (p q : Nat) : Nat :=
  let g := d.port p
  if (g.lane q).retired then 0xE
  else if g.st = .idle then 0
  else match g.logical q with
    | some j => j
    | none => if d.spare? p = some q then 8 else 0xF

def Dev.calLane (d : Dev) (p q : Nat) : Reg :=
  let x := (d.port p).lane q
  pack [(0, 3, if x.retired then 5 else x.cal), (4, 2, x.attempts.toNat), (6, 5, boolBits 5 fun t => (Tbl.find? x.learned (d.band p * 5 + t)).isSome)]

/-- ING_CAL_STAT: SET_MISSING where an active lane has fewer than two valid anchors in the current band. -/
def State.calStat (s : State) (p : Nat) : Reg :=
  let d := s.dev
  let g := d.port p
  pack [(0, 2, d.method p), flag 2 g.frozen, flag 3 g.swap.isSome, (4, 4, g.swap.elim 0xF (·.j)), flag 8 g.saveErr,
    flag 9 (g.map.any fun q => decide ((s.validSets p q (d.band p)).length < 2)), flag 10 g.eyeAlarm, flag 11 g.forcePend.isSome]

def State.readCal (s : State) (p off : Nat) : Option Reg :=
  let d := s.dev
  let g := d.port p
  match off with
  | 0x4000 => some (pack [flag 0 g.calEn, flag 1 g.saving, (8, 8, g.period.toNat), (16, 8, g.tempStep.toNat), (24, 4, g.forceLane.toNat),
      flag 28 g.forcePend.isSome])
  | 0x4004 => some (s.calStat p)
  | 0x4008 => some (pack [(0, 12, g.temp.toNat), (12, 2, if (d.link? p).isSome then d.band p else 0)])
  | 0x400C => some g.eyeCfg
  | 0x4010 => some (g.tmo.zeroExtend 32)
  | 0x4014 => some (pack [(0, 16, g.cals.toNat), (16, 8, g.abandons.toNat), (24, 8, g.dropped.toNat)])
  | 0x4018 => some 0
  | _ => (arr off 0x4100 0x20 9).bind fun (q, o) =>
    let x := g.lane q
    match o with
    | 0x00 => some (wordOf x.trims 0)
    | 0x04 => some (wordOf x.trims 1)
    | 0x08 => some (pack [(0, 8, x.eyeW.toNat), (8, 8, x.eyeH.toNat), satf 16 16 (x.scanTick.elim 0 fun t => (d.tim.ticks - t).toNat / 2048000)])
    | 0x0C => some (d.calLane p q)
    | _ => none

def State.readIng (s : State) (p off : Nat) : Option Reg :=
  let d := s.dev
  let g := d.port p
  match off with
  | 0x00 => some (pack [flag 0 g.en, flag 1 g.relink])
  | 0x04 => some (pack [(0, 3, g.st.code), flag 3 g.pllLock, flag 4 g.srSeen, flag 5 g.srMargin, flag 6 g.srSlip, (7, 4, g.active),
      (11, 4, g.spareFor.getD 0xF), flag 15 g.sparePerm, flag 16 (d.bonded p)])
  | 0x08 => some (g.err.zeroExtend 32)
  | 0x10 => some g.ovr
  | 0x14 => some g.gap
  | 0x18 => some (pack [(0, 4, g.code.toNat), flag 4 g.verified, (8, 8, boolBits 8 fun q => (g.lane q).retired), (16, 16, g.swaps.toNat)])
  | 0x1C => some g.tsNext
  | _ =>
    match arr off 0x100 4 9, arr off 0x140 4 9 with
    | some (q, _), _ =>
      let x := g.lane q
      some (pack [flag 0 x.cdr, flag 1 x.bsync, flag 2 x.emb, (3, 4, d.laneRole p q), (8, 12, x.arrival.toNat)])
    | _, some (q, _) => some (g.lane q).crc
    | _, _ => (d.readRec p off).orElse fun _ => s.readCal p off

end Sys2Proof.Machine
end

