-- ==== Sys2Proof/Machine/RegsUnit.lean ====
section
/-!
DEFINITION. What a read of BAR0 shows, part 2: CHN, SPE, XSP, TRG, CAP, DEN, SCO, SPA, MOV, CMP, CEL, MON, ATC and HKC (the
field tables of those chapters).
-/
namespace Sys2Proof.Machine

/-! CHN, SPE and XSP. -/

/-- CHN_COARSE of channel c, or of the WB path for c = 64 (R330, R332). -/
def Dev.coarseReg (d : Dev) (p c : Nat) : Reg :=
  let g := d.chan p
  let x := if c = 64 then g.wb else Tbl.get {} g.ch c
  pack [(0, 18, x.lp.toNat), (18, 4, x.lpTag.toNat), satf 22 10 (x.lpTick.elim 0 fun t => (d.tim.ticks - t).toNat / 2048)]

def Dev.readChn (d : Dev) (p off : Nat) : Option Reg :=
  let g := d.chan p
  let wb := d.wbRec? p
  match off with
  | 0x04 => some (pack [satf 0 8 g.wb.settle, flag 8 (wb.any (·.wbEn)), flag 9 (wb.any (·.nbEn)), flag 10 (g.smode == 1 || g.smode == 2),
      flag 11 g.aligned, flag 12 g.shifted, flag 13 (d.upperPort p)])
  | 0x08 => some (pack [(0, 16, g.syncs.toNat), (16, 8, g.lastPh.toNat), (24, 8, g.dropped.toNat)])
  | 0x0C => some g.sat
  | _ =>
    match arr off 0x400 4 65, arr off 0x600 4 64, arr off 0x800 4 19 with
    | some (c, _), _, _ => some (d.coarseReg p c)
    | _, some (c, _), _ => some (pack [flag 0 ((d.nbRec? p c).any (·.en)), satf 1 8 (Tbl.get {} g.ch c).settle])
    | _, _, some (i, _) => some ((Config.hbCoef i).zeroExtend 32)
    | _, _, _ => d.readRec (chnUnit p) off

def Dev.speStat (d : Dev) (p : Nat) : Reg :=
  let e := d.eng p
  let f := d.frame p
  let on := (d.rec? (speUnit p) 1).isSome
  pack [flag 0 e.open?.isSome, (1, 4, f.size), (5, 2, f.ovl), (7, 3, f.win), flag 10 (on && !d.realInput p f.insel), (11, 8, f.insel),
    flag 19 (d.storeOn p), flag 20 (d.integOn p), flag 21 (d.upperPort p), flag 22 e.aligned, flag 23 e.shifted, flag 24 (d.paired p)]

/-- SPE_LAT: 0 before a FRAME (R389, R390). -/
def Dev.speLat (d : Dev) (p : Nat) : Reg :=
  let f := d.frame p
  if (d.rec? (speUnit p) 1).isNone then 0
  else pack [(0, 16, f.lFull (d.realInput p f.insel) (d.bonded p)), (16, 16, f.lCplx (d.realInput p f.insel) (d.bonded p))]

def Dev.readSpe (d : Dev) (p off : Nat) : Option Reg :=
  let e := d.eng p
  match off with
  | 0x04 => some (d.speStat p)
  | 0x08 => some (e.err.zeroExtend 32)
  | 0x10 => some (wordOf e.lastSeq 0)
  | 0x14 => some (wordOf e.lastSeq 1)
  | 0x18 => some (pack [(0, 18, (BitVec.ofInt 18 e.norm).toNat), (18, 12, (BitVec.ofInt 12 e.enbw).toNat)])
  | 0x1C => some e.sat
  | 0x24 => some e.discards
  | 0x28 => some e.dropStore
  | 0x2C => some e.dropInteg
  | 0x30 => some (d.speLat p)
  | 0x40 => some (e.winPtr.zeroExtend 32)
  | 0x44 => some 0
  | _ => d.readRec (speUnit p) off

def Dev.readXsp (d : Dev) (off : Nat) : Option Reg :=
  match off with
  | 0x04 => some (pack [(0, 6, boolBits 6 d.pairOn), flag 6 (d.bonded 0 && d.bonded 2)])
  | 0x08 => some (pack [satf 0 16 d.xspLoad])
  | 0x0C => some (d.xsp.err.zeroExtend 32)
  | _ =>
    match arr off 0x100 4 6 with
    | some (i, _) => some (pack [flag 0 (d.pairOn i), (1, 8, (d.rec? xspUnit 1 i).elim 0 fun c => (PairRec.of c).k - 1),
        (16, 16, (d.xpair i).unpaired.toNat)])
    | none => d.readRec xspUnit off

/-! TRG. -/

/-- TRG_STAT STATE: IDLE while UNIT EN is 0, HOLDOFF while a hold-off runs, else WAIT_B inside a window (R426, R430). -/
def Dev.trgState (d : Dev) (p : Nat) : Nat :=
  let t := d.trig p
  if !(d.unitRec p).en then 0 else if t.hold.isSome then 3 else if t.window.isSome then 2 else 1

def Dev.readTrg (d : Dev) (p off : Nat) : Option Reg :=
  let t := d.trig p
  let linked := (d.link? p).isSome
  match off with
  | 0x00 => some (pack [flag 0 t.force])
  | 0x04 => some (pack [(0, 2, d.trgState p), flag 2 t.pend.isSome, (3, 8, t.vals.toNat), (11, 4, t.terms.toNat), flag 15 (d.upperPort p),
      flag 16 t.pulse.isSome])
  | 0x08 => some (t.err.zeroExtend 32)
  | 0x0C => some (if linked then pack [(0, 16, d.align p), (16, 16, d.srcClocks p)] else 0)
  | 0x10 => some t.cnt
  | 0x14 => some t.ign0
  | 0x18 => some t.ign1
  | 0x1C => some t.ign2
  | 0x24 => some t.lost0
  | 0x28 => some t.lost1
  | 0x2C => some t.lost2
  | 0x30 => some (wordOf t.lastTs 0)
  | 0x34 => some (wordOf t.lastTs 1)
  | 0x38 => some (wordOf t.lastTs 2)
  | 0x40 => some (if linked then BitVec.ofInt 32 (d.minOdly p) else 0)
  | 0x44 => some (t.maskPtr.zeroExtend 32)
  | 0x48 => some 0
  | 0x60 => some (if p = 0 then d.instr.cfg else 0)
  | _ =>
    match arr off 0x100 8 8 with
    | some (c, 0) =>
      let x := t.cond c
      some (pack [flag 0 (bit t.vals c), (1, 2, x.x1), (3, 2, x.x2), flag 5 (x.qual == some true), (16, 16, x.fires.toNat)])
    | some (c, 4) => some (t.cond c).meas
    | some _ => none
    | none => d.readRec (trgUnit p) off

/-! CAP, DEN and SCO. -/

def BarState.code : BarState → Nat
  | .idle => 0
  | .arming => 1
  | .filling => 2
  | .ready => 3
  | .post => 4
  | .stopped => 5

/-- A rate in units of 0.01 GB/s, rounded up. -/
def Rate.centi (r : Rate) : Nat := cdiv r.num (r.den * 10000000)

def Dev.readBarrel (d : Dev) (b o : Nat) : Option Reg :=
  let x := d.barrel b
  match o with
  | 0x00 =>
    let r := x.src.elim [] fun r => [(16, 3, r.fmt), flag 19 r.segwrap, (20, 2, r.port), (22, 8, r.sel)]
    some (pack ([(0, 3, x.st.code), flag 3 x.held.isSome, (4, 12, x.owner.getD 0)] ++ r))
  | 0x04 => some (BitVec.ofNat 32 x.pos)
  | 0x08 => some (BitVec.ofNat 32 (x.pos >>> 32))
  | 0x0C => some x.caps
  | 0x10 => some x.ign
  | 0x14 => some (x.err.zeroExtend 32)
  | 0x18 => some (BitVec.ofNat 32 x.segcap)
  | 0x1C => some (pack [(0, 4, x.segcap >>> 32)])
  | 0x20 => some (pack [satf 0 16 x.res.centi])
  | 0x24 => some (BitVec.ofNat 32 x.lat)
  | _ => none

/-- CAP_RES.LIMIT before the Cellar is trained is 0. -/
def Dev.readCap (d : Dev) (off : Nat) : Option Reg :=
  let st := fun b => (d.barrel b).st.code
  match off with
  | 0x00 => some (pack [(0, 16, boolBits 16 fun b => decide (1 ≤ st b ∧ st b ≤ 4)), (16, 16, boolBits 16 fun b => st b == 5)])
  | 0x04 => some (pack [satf 0 16 d.reserved.centi, (16, 16, if d.cel.trained = 0 then 0 else d.cel.barrelLimit / 10000000)])
  | _ =>
    match arr off 0x1000 0x40 16 with
    | some (b, o) => d.readBarrel b o
    | none => d.readRec capUnit off

def Dev.readDen (d : Dev) (p off : Nat) : Option Reg :=
  let e := d.dens p
  let on := fun i => (d.planeRec? p i).any (·.en)
  match off with
  | 0x04 => some (pack [(0, 4, boolBits 4 on), flag 4 ((d.rec? (denUnit p) 2).any fun c => (OccRec.of c).en), flag 5 (d.upperPort p),
      (6, 4, boolBits 4 fun i => (e.plane i).run.isSome)])
  | 0x08 => some (e.err.zeroExtend 32)
  | 0x0C => some e.sat
  | _ =>
    match arr off 0x400 0x10 4 with
    | some (i, 0) => some (pack [flag 0 (on i), flag 1 (e.plane i).run.isSome, flag 2 (e.plane i).pend.isSome, (8, 8, (e.plane i).rdrop.toNat)])
    | some (i, 4) => some (e.plane i).acc
    | some (i, 8) => some (e.plane i).decays
    | some _ => none
    | none => d.readRec (denUnit p) off

/-- SCO_STAT. Which line is current the model does not follow: LINE is a free value below the total (log entry 76). -/
def Dev.scoStat (d : Dev) : Reg :=
  let line := d.timing?.elim 0 fun t => d.free.toNat % max 1 (t.vact + t.vfp + t.vsync + t.vbp)
  pack [flag 0 d.sco.run, (1, 12, if d.sco.run then line else 0), (16, 16, d.sco.frame.toNat)]

def Dev.readSco (d : Dev) (off : Nat) : Option Reg :=
  let e := d.sco
  match off with
  | 0x00 => some (pack [flag 0 e.en])
  | 0x04 => some d.scoStat
  | 0x08 => some (e.err.zeroExtend 32)
  | _ =>
    match arr off 0x100 0x10 2, arr off 0x180 0x20 2 with
    | some (l, 0), _ => some (pack [flag 0 (e.layer l).cur.isSome, flag 1 (e.layer l).pend.isSome, (16, 16, (e.layer l).target.toNat)])
    | some (l, 4), _ => some (e.layer l).under
    | some (l, 8), _ => some (e.layer l).defers
    | _, some (o, 0) => let y := e.out o; some (pack [(0, 3, y.st), flag 3 y.hpd, (4, 4, y.seen.toNat)])
    | _, some (o, 4) => let y := e.out o; some (pack [(0, 28, y.aux.toNat), flag 28 y.busy, (29, 2, y.result.toNat), flag 31 y.busy])
    | _, some (o, r) => if 0x08 ≤ r ∧ r ≤ 0x14 ∧ r % 4 = 0 then some (wordOf (e.out o).data ((r - 8) / 4)) else none
    | _, _ => d.readRec scoUnit off

def Dev.readDenSco (d : Dev) (off : Nat) : Option Reg :=
  if 0x8000 ≤ off then d.readSco (off - 0x8000)
  else if off = 0x7000 then some (pack [(0, 24, d.denUsed)])
  else (arr off 0 0x1000 4).bind fun (p, o) => d.readDen p o

/-! SPA, MOV and CMP. -/

/-- SPA_DBG_DATA: the register that SPA_DBG_SEL names, of a halted copy. A debug read latches nothing. -/
def State.dbgData (s : State) (k : Nat) : Reg :=
  match s.dev.copyOn k with
  | none => 0
  | some (key, i) =>
    let n := fld (s.dev.spu k).dbgSel 0 8
    let r := i.regs
    if !i.halted then 0
    else if n < 0x20 then r.gs n
    else if n < 0x30 then (r.ga (n - 0x20)).zeroExtend 32
    else if n < 0x40 then (r.gm (n - 0x30)).zeroExtend 32
    else if n < 0x48 then (r.gp (n - 0x40)).zeroExtend 32
    else if n < 0x4C then (r.glc (n - 0x48)).zeroExtend 32
    else if 0x80 ≤ n ∧ n ≤ 0xAF then (Work.readCr { st := s, key, inst := i, iss := { snap := r, slot := 0 } } (n - 0x80)).1
    else 0

def State.readSpa (s : State) (off : Nat) : Option Reg :=
  let d := s.dev
  match off with
  | 0x00 => some (pack [flag 0 d.spa.dbgEn])
  | 0x04 => some (pack (d.spa.cs0.reg ++ [flag 28 d.spa.deferred]))
  | 0x08 => some (pack [(0, 16, d.spa.eccCorr.toNat), (16, 16, d.spa.eccUncorr.toNat)])
  | _ =>
    match arr off 0x100 0x10 68 with
    | some (k, 0) => some (pack [flag 0 (bit (d.spu k).dbgCtl 0), flag 8 ((d.copyOn k).any fun (_, i) => i.halted)])
    | some (k, 4) => some (pack [(0, 18, (d.copyOn k).elim 0 fun (_, i) => i.regs.pc)])
    | some (k, 8) => some (d.spu k).dbgSel
    | some (k, 12) => some (s.dbgData k)
    | _ => none

/-- MOV_CH_STAT STATE: HALTED, IDLE, STALLED or RUNNING (R199, R622, R636). -/
def Mover.stateCode (x : Mover) : Nat :=
  if x.halted then 3 else x.chain.elim 0 fun c => if c.stalled then 2 else 1

def Dev.readMover (d : Dev) (m o : Nat) : Option Reg :=
  let x := Tbl.get {} d.mov.movers m
  match o with
  | 0x00 => some (pack [flag 0 (x.chain.any (·.stop))])
  | 0x04 => some (pack [(0, 2, x.stateCode), (2, 7, x.queue.length), (9, 9, d.mov.streamsOn m), (18, 12, x.chain.elim 0 (·.act.session)),
      flag 30 (x.chain.any fun c => c.act.crate.isNone)])
  | 0x08 => some (x.err.elim 0 fun e => pack [(0, 8, e.status.code.toNat), flag 8 e.dirWrite, (9, 2, e.space), flag 31 true])
  | 0x0C => some (x.err.elim 0 fun e => BitVec.ofNat 32 e.addr)
  | 0x10 => some (x.err.elim 0 fun e => BitVec.ofNat 32 (e.addr >>> 32))
  | 0x14 => some x.hops
  | _ => none

/-- MOV_STRM_STAT and MOV_STRM_LOST of the stream that MOV_STRM_SEL selects. -/
def Stream.stat (t : Stream) : Reg :=
  pack [flag 0 true, flag 1 t.wait, (2, 4, t.mover), (6, 3, t.cmpe.toNat), (9, 2, t.kind), satf 12 15 t.queue.length, flag 31 t.badRead]

def Dev.readMov (d : Dev) (off : Nat) : Option Reg :=
  let k := d.mov
  let t := Tbl.find? k.streams k.strmSel.toNat
  match off with
  | 0x10 => some k.failLoop
  | 0x14 => some k.failTimeout
  | 0x18 => some k.failBus
  | 0x1C => some k.failCompare
  | 0x40 => some (k.strmSel.zeroExtend 32)
  | 0x44 => some (t.elim 0 Stream.stat)
  | 0x48 => some (t.elim 0 fun t => pack [satf 0 32 t.lost])
  | _ => (arr off 0x1000 0x40 16).bind fun (m, o) => d.readMover m o

def Dev.readCmp (d : Dev) (off : Nat) : Option Reg :=
  match arr off 0 0x10 4 with
  | some (e, 0) =>
    let l := d.mov.streams.filter fun (_, t) => t.cmpe.toNat == e
    some (pack [(0, 9, l.length), (16, 16, cdiv ((l.map fun (_, t) => t.rate).foldl (· + ·) 0) 10)])
  | some (e, 4) => some (Tbl.get {} d.mov.engines e).blocks
  | some (e, 8) => some (Tbl.get {} d.mov.engines e).early
  | _ => none

/-! CEL. -/

/-- CEL_PC_STAT STATE. A retraining lasts no longer than the command that makes it. -/
def Cel.pcState (c : Cel) (p : Nat) : Nat :=
  let x := c.pc p
  let k := p / 32
  if x.retired then 5 else if x.migrating then 4 else if bit c.selfref k then 3 else if bit c.trained k then 1 else 0

/-- CEL_MIG PROGRESS of the migration that runs. -/
def CelMig.percent (m : CelMig) : Nat := m.copied * 100 / max 1 m.total

def Cel.qos (c : Cel) (q : Nat) : Reg := pack [(0, 16, (Tbl.get 0 c.targets q).toNat), (16, 16, (Tbl.get 0 c.maxAge q).toNat)]

def Dev.readCel (d : Dev) (off : Nat) : Option Reg :=
  let c := d.cel
  match off with
  | 0x00 => some (pack [(0, 2, c.height.toNat), (4, 2, c.speed.toNat), (8, 2, c.maxSpeed.toNat), (12, 2, c.retResv.toNat)])
  | 0x04 => some (pack [flag 0 c.srEn, flag 1 c.autoRetire, flag 31 c.lock])
  | 0x08 => some (pack [(0, 2, c.trained.toNat), (2, 2, c.selfref.toNat), satf 4 4 (c.pcs.filter fun (_, x) => x.retired).length,
      (16, 16, if c.trained = 0 then 0 else c.barrelLimit * 5 / 1000000000)])
  | 0x0C => some (c.srIdle.zeroExtend 32)
  | 0x10 => some c.rtCfg
  | 0x14 => some (pack ([(0, 7, c.migBw.toNat)] ++ c.mig.elim [] fun m => [flag 8 true, (16, 6, m.pc), (24, 8, m.percent)]))
  | 0x18 => some (c.err.zeroExtend 32)
  | 0x1C => some (c.ceThr.zeroExtend 32)
  | 0x20 => some 0
  | 0x24 => some (wordOf c.errAddr 0)
  | 0x28 => some (wordOf c.errAddr 1)
  | _ =>
    match arr off 0x100 4 7, arr off 0x400 8 64 with
    | some (q, _), _ => some (c.qos q)
    | _, some (p, 0) => let x := c.pc p
        some (pack [(0, 3, c.pcState p), (3, 2, x.attempts), (5, 5, x.repaired.toNat), (16, 8, (Tbl.get 0 c.temps (p / 32)).toNat)])
    | _, some (p, 4) => some (pack [(0, 24, (c.pc p).corr.toNat), (24, 8, (c.pc p).uncorr.toNat)])
    | _, _ => none

/-! MON. -/

/-- MON_CMP_STAT (R749, R751, R756, R759). -/
def Dev.cmpStat (d : Dev) (k : Nat) : Reg :=
  let x := d.mon.cmp k
  let r := d.cmpRec k
  let resolved := x.upper.isSome && x.lower.isSome
  let st := if !r.en then 0 else if r.test ≠ 0 then 3 else if resolved then 2 else 1
  let win := if !r.en then 0 else if !resolved then 3 else if x.upper == some true then 1 else if x.lower == some true then 2 else 0
  pack [(0, 2, st), (2, 2, win), flag 4 x.out, flag 5 x.latch, flag 6 x.capValid, flag 7 x.capOvr, flag 8 (r.ben && d.blanks r.btmr)]

def SeqState.code : SeqState → Nat
  | .idle => 0
  | .delay => 1
  | .ready => 2
  | .running => 3

/-- MON_ACC_SUM_LO as a read returns it; SUM_HI and COUNT show their latches (R844). -/
def Dev.readAcc (d : Dev) (a o : Nat) : Option Reg :=
  let x := d.mon.acc a
  match o with
  | 0 => some (BitVec.ofNat 32 (d.accShown a).1)
  | 4 => some (x.sumHi.zeroExtend 32)
  | 8 => some x.cntLatch
  | 12 => some (pack [flag 1 x.sat])
  | _ => none

def Dev.readMon (d : Dev) (off : Nat) : Option Reg :=
  let m := d.mon
  match off with
  | 0x00 => some (pack [flag 0 m.cal, flag 1 m.ctrim, flag 2 m.save])
  | 0x04 => some (pack [flag 0 (m.cal || m.ctrim), flag 1 m.calErr, flag 2 m.saveErr])
  | 0x08 => some m.intStat
  | 0x0C => some m.intEn
  | _ =>
    match arr off 0x400 0x10 8, arr off 0x500 4 4, arr off 0x600 4 4, arr off 0x700 4 8, arr off 0x800 0x10 32, arr off 0xC00 8 32 with
    | some (k, 0), _, _, _, _, _ => some (d.cmpStat k)
    | some (k, 4), _, _, _, _, _ => some (m.cmp k).cap
    | some (k, 8), _, _, _, _, _ => some (m.cmp k).edges
    | _, some (t, _), _, _, _, _ => some (BitVec.ofNat 32 (Tbl.get 0 m.timers t))
    | _, _, some (k, _), _, _, _ => let q := m.seq k
        some (pack [(0, 2, q.st.code), flag 2 q.pend, (8, 8, q.runs.toNat), (16, 16, q.dropped.toNat)])
    | _, _, _, some (i, _), _, _ => some ((Tbl.get 0 m.temps (16 + i)).zeroExtend 32)
    | _, _, _, _, some (a, o), _ => d.readAcc a o
    | _, _, _, _, _, some (k, 0) => some (pack [(0, 12, (m.trk k).lo.toNat), (16, 12, (m.trk k).hi.toNat)])
    | _, _, _, _, _, some (k, 4) => some (pack [flag 1 (m.trk k).valid, flag 2 (m.trk k).limit])
    | _, _, _, _, _, _ => d.readRec monUnit off

/-! ATC. -/

def State.readAtc (s : State) (off : Nat) : Option Reg :=
  let a := s.dev.atc
  match off with
  | 0x00 => some (pack [(0, 2, a.op.toNat), flag 4 a.busy, flag 31 a.wlock])
  | 0x04 => some a.rec_
  | 0x08 => some (a.ofs.zeroExtend 32)
  | 0x0C => some (pack [flag 0 a.busy, (1, 2, a.result.toNat), flag 3 a.wlock])
  | 0x10 => some (a.valid.zeroExtend 32)
  | 0x14 => some (BitVec.ofNat 32 ((a.erases.map (·.2)).foldl max 0))
  | 0x18 => some (a.page.zeroExtend 32)
  | _ =>
    match arr off 0x4000 4 4096, arr off 0x8000 4 8192 with
    | some (k, _), _ => some (BitVec.ofNat 32 (ofLeBytes (Tbl.getRun 0 a.stage (4 * k) 4)))
    | _, some (k, _) => some (BitVec.ofNat 32 (ofLeBytes (s.mem.atticRun (a.page.toNat * 32768 + 4 * k) 4)))
    | _, _ => none

/-! HKC. -/

def Dev.readHkc (d : Dev) (off : Nat) : Option Reg :=
  let h := d.hkc
  match off with
  | 0x00 => some (h.cmd.zeroExtend 32)
  | 0x04 => some (pack [(0, 8, h.status.toNat), flag 8 h.busy, flag 9 h.done, (16, 16, h.ignored.toNat)])
  | 0x100 => some h.bootStat
  | 0x104 => some h.pwrStat
  | 0x108 => some (h.evtStat.zeroExtend 32)
  | 0x10C => some (h.evtEn.zeroExtend 32)
  | _ =>
    match arr off 0x10 4 8, arr off 0x30 4 8 with
    | some (k, _), _ => some (Tbl.get 0 h.args k)
    | _, some (k, _) => some (Tbl.get 0 h.res k)
    | _, _ => none

end Sys2Proof.Machine
end

