-- ==== Sys2Proof/Machine/Reads.lean ====
section
/-!
DEFINITION. The host's reads of BAR0 and its accesses to BAR2 (R93, R840 to R844, R847). The table has a row for the two reads
that latch and none for the others, which change nothing but GLB_ACC_ERR; this says what each of them returns.
-/
namespace Sys2Proof.Machine

/-- The register at an offset of a block. -/
def State.readBlock (s : State) (blk o : Nat) : Option Reg :=
  let d := s.dev
  match blk with
  | 0x00 => d.readGlb o
  | 0x01 =>
    if 0x8000 ≤ o then some (d.hlk.msiWord ((o - 0x8000) / 4))
    else if 0x7000 ≤ o ∧ o < 0x7100 then some (d.hlk.pbaWord ((o - 0x7000) / 4))
    else d.readHlk o
  | 0x02 => d.readStk o
  | 0x03 => d.readRel o
  | 0x04 => d.readTim o
  | 0x05 | 0x06 | 0x07 | 0x08 => s.readIng (blk - 5) o
  | 0x09 | 0x0A | 0x0B | 0x0C => d.readChn (blk - 9) o
  | 0x0D | 0x0E | 0x0F | 0x10 => d.readSpe (blk - 13) o
  | 0x11 | 0x12 | 0x13 | 0x14 => d.readTrg (blk - 17) o
  | 0x15 => d.readCap o
  | 0x16 => d.readDenSco o
  | 0x17 => s.readSpa o
  | 0x18 => d.readMov o
  | 0x19 => d.readCmp o
  | 0x1A => d.readCel o
  | 0x1B => d.readMon o
  | 0x1C => s.readAtc o
  | 0x1D => d.readHkc o
  | 0x1E => d.readXsp o
  | _ => none

/-- What an aligned 32-bit read returns: 0 where no chapter assigns the offset (R841), and the reset value of a block that a
FUNCTION reset is resetting (R847). -/
def State.readReg (s : State) (off : Nat) : Reg :=
  let blk := off / 65536
  let s := if s.dev.served || s.dev.servedKept && keptBlock blk then s else State.reset
  (s.readBlock blk (off % 65536)).getD 0

/-- A read of an unassigned offset counts as one access error and changes nothing else; the first leaves its offset (R841). -/
def Dev.readErr (d : Dev) (off : Nat) : Dev :=
  let first := !(d.glb.accPartial || d.glb.accUnmapped)
  let d := d.accErr false off
  if first then { d with glb := { d.glb with accAddr := BitVec.ofNat 32 (off % 2 ^ 21) } } else d

/-- One aligned 32-bit read: what it returns and what it leaves. Two of them latch their companions (R844). -/
def State.read32 (s : State) (off : Nat) : Reg × State :=
  let o := off / 4 * 4
  let v := s.readReg o
  if !s.dev.served then (v, s)
  else if o = 0x40010 then (v, s.onDev fun d => d.onTim fun t => { t with nowLatch := t.count })
  else match arr o 0x1B0800 0x10 32 with
    | some (a, 0) => (v, s.onDev fun d => d.accLatch a)
    | _ => if (s.readBlock (o / 65536) (o % 65536)).isSome || msiArea o then (v, s) else (v, s.onDev fun d => d.readErr o)

/-- R840: an aligned 64-bit read is two 32-bit reads, the lower address first. -/
def State.read64 (s : State) (off : Nat) : BitVec 64 × State :=
  let (lo, s) := s.read32 off
  let (hi, s) := s.read32 (off + 4)
  (hi ++ lo, s)

/-- R93: BAR2 reads as 0 everywhere. -/
def State.bar2Read (_ : State) (_off : Nat) : Reg := 0

/-- R92, R93: a write of BAR2 is a doorbell of its page at offset 0x000 or 0x040, and is ignored elsewhere. -/
def State.bar2Write (s : State) (off : Nat) (v : Reg) : Outcome :=
  let h := BitVec.ofNat 12 (off / 4096)
  if off % 4096 = 0x000 then execHatchTail h v s
  else if off % 4096 = 0x040 then execChitHead h v s
  else .next s

end Sys2Proof.Machine
end

