-- ==== Sys2Proof/Safety.lean ====
section
/-!
DEFINITION. What claims about runs are stated in: the canonical form of the memories, and when and how a slot of a bundle
takes effect.
-/
namespace Sys2Proof.Machine

/-- The form in which every memory is held: addresses strictly rising, and no entry equal to what an unlisted address
reads as. -/
def Mem.wf (m : Mem) : Bool :=
  Tbl.wf {} m.loft && Tbl.wf 0 m.cellar && Tbl.wf 0 m.pool && Tbl.wf 0 m.attic && Tbl.wf 0 m.loftErr && Tbl.wf [] m.celErr

/-- The invariant of a run. -/
def State.Inv (s : State) : Prop := s.mem.wf = true

/-! Crates. -/

/-- The Crate with serial number `uid` takes its status and results, DEADLINE_MISSED in place of OK once its deadline has
passed (R59, R133); RESULT1 of an ARM is its Barrel number (R125). -/
def Decided (s t : State) (uid : Nat) (st : Status) (r0 r1 : Nat) : Prop :=
  ∃ c c', s.dev.live? uid = some c ∧ t.dev.live? uid = some c' ∧ c'.phase = .decided ∧
    c'.status = (if c.missed s.dev.now = true ∧ st = .ok then .deadlineMissed else st) ∧
    c'.result0 = BitVec.ofNat 64 r0 ∧ c'.result1 = BitVec.ofNat 32 (if c.kind = 4 then c.num 33 1 else r1) ∧ c'.ctime = s.dev.now

/-! Ports. -/

/-- Nothing changes but port `p`, the error records, and the messages of the vectors that those raise. -/
def PortOnly (p : Nat) (s t : State) : Prop :=
  t = { s with dev := { s.dev with ing := t.dev.ing, rel := t.dev.rel, host := t.dev.host
                                   hlk := { s.dev.hlk with msiPending := t.dev.hlk.msiPending } } } ∧
    ∀ q, q ≠ p → t.dev.port q = s.dev.port q

/-- One further error record, of the given code, severity and domain. -/
def OneRecord (s t : State) (code : Status) (sev : Nat) (domain : BitVec 16) : Prop :=
  ∃ r, t.dev.rel.queue = s.dev.rel.queue ++ [r] ∧ r.code = code.code ∧ r.sev.toNat = sev ∧ r.domain = domain ∧
    r.time = s.dev.now ∧ r.seq = s.dev.rel.seq ∧ t.dev.rel.seq = s.dev.rel.seq + 1

/-! Relnex. -/

/-- Nothing so far forbids that the bundle issues. -/
def Issue.clean (e : Issue) : Bool := !e.illegal && !e.badTransfer && !e.stalled && e.trap.isNone && !e.isExit

/-- The copy with the given key takes slot `n` of its bundle next: it sits on the slot's SPU, is not halted, and every slot
it has taken of the bundle comes before `n`. -/
structure SlotTurn (s : State) (h : Slot) (n key : Nat) (i : Inst) (e : Issue) : Prop where
  runs : (s.dev.spu h.spu.val).runs = some key
  copy : Tbl.find? s.dev.insts key = some i
  going : i.halted = false
  turn : i.issue = none ∧ e = { snap := i.regs, slot := 4 } ∨ i.issue = some e ∧ e.slot < n
  clean : e.clean = true

/-- A program copy replaced, and nothing else. -/
def State.withCopy (s : State) (key : Nat) (j : Inst) : State := s.onDev fun d => d.setInst key j

/-- The slot runs: bit 0 of its guard (R586). -/
def Issue.on (e : Issue) (h : Slot) : Bool := bit (e.snap.guard h) 0

/-- The issue record after slot `n` with destinations `w`. -/
def Issue.took (e : Issue) (n : Nat) (w : List RName) : Issue :=
  { e with slot := n, written := e.written ++ w, others := e.others || n != 0 }

/-- A command of slot `n` that is not the last of its bundle: the copy's registers become those given from the registers at
issue (R537), or stay where the guard is off (R587). Nothing else of the state changes but the record of the bundle. -/
def SlotDoes (n : Nat) (w : List RName) (c : Slot → Instr) (upd : Regs → Regs → Regs) : Prop :=
  ∀ (s : State) (h : Slot) (key : Nat) (i : Inst) (e : Issue), SlotTurn s h n key i e → h.last = false → w.Nodup →
    (∀ x ∈ w, x ∉ e.written) →
    exec (c h) s = .next (s.withCopy key
      { i with regs := if e.on h then upd e.snap i.regs else i.regs, issue := some (e.took n w) })

/-- The bundle that the copy issues has no transfer, no opened level, no staged effect or halt, stays inside the program, and no output
queue of any copy waits for delivery. -/
structure Closes (s : State) (h : Slot) (i : Inst) (e : Issue) : Prop where
  plain : e.target = none ∧ e.opened = none ∧ e.skipTo = none ∧ e.staged = []
  room : ∃ p, s.dev.program? i.session i.prog = some p ∧ e.snap.pc + 1 < p.codeBundles
  /-- The bundle is not the last of its innermost level (R543). -/
  inside : ∀ l, e.snap.levels.getLast? = some l → l.last ≠ e.snap.pc
  going : bit (s.dev.spu h.spu.val).dbgCtl 0 = false
  quiet : ∀ p ∈ s.dev.insts, ∀ n, (p.2.outq n).cells = []

/-- The registers after the bundle: FLAGS with the bits that its operations set (R550), the next bundle, one clock and the
stall clocks counted. -/
def Issue.regsAfter (e : Issue) (r : Regs) (pc stall : Nat) : Regs :=
  { r with flags := r.flags ||| e.sets, pc, levels := e.snap.levels, cyc := r.cyc + BitVec.ofNat 64 (1 + stall) }

/-- The state after a bundle of the copy: the copy replaced, one issue counted for its SPU's load (R190), and one reading of
the free value (the stall clocks). -/
def State.issued (s : State) (h : Slot) (key : Nat) (j : Inst) : State :=
  s.onDev fun d => (d.freed.setInst key j).countIssue h.spu.val

/-- The stall clocks of the next bundle, a free value. -/
def State.stall (s : State) : Nat := Config.stallClocks s.dev.freeCtr


/-- A command of slot `n` that ends its bundle: the registers take the effect as the bundle commits, and the copy goes on with
the next bundle. -/
def SlotCloses (n : Nat) (w : List RName) (c : Slot → Instr) (upd : Regs → Regs → Regs) : Prop :=
  ∀ (s : State) (h : Slot) (key : Nat) (i : Inst) (e : Issue), SlotTurn s h n key i e → (h.last = true ∨ n = 3) → w.Nodup →
    (∀ x ∈ w, x ∉ e.written) → Closes s h i e →
    exec (c h) s = .next (s.issued h key
      { i with regs := e.regsAfter (if e.on h then upd e.snap i.regs else i.regs) (e.snap.pc + 1) s.stall
               issue := none, waiting := false })

/-- Saturation of a component to 18 bits (R548). -/
def clamp18 (v : Int) : Int := max (-131072) (min v 131071)

/-- The FLAGS bits of an arithmetic lane: SAT, AOV, TAGX (R550). -/
def flagBits (sat aov : Bool) (tag : BitVec 4) : BitVec 6 :=
  (if sat then 0x01 else 0) ||| (if aov then 0x02 else 0) ||| (if tag = tagValid then 0 else 0x04)

/-- A lane-guarded command of the M slot that writes c register `d`, not the last of its bundle: each enabled lane takes
its value and sets its flags, every other lane and register stays. -/
def VecDoes (c : Slot → Instr) (d : Nat) (val : Regs → Nat → Cell) (flags : Regs → Nat → BitVec 6) : Prop :=
  ∀ (s : State) (h : Slot) (key : Nat) (i : Inst) (e : Issue), SlotTurn s h 2 key i e → h.last = false → .c d ∉ e.written →
    ∃ r sets, exec (c h) s = .next (s.withCopy key { i with regs := r, issue := some { e.took 2 [.c d] with sets } }) ∧
      r = { i.regs with c := r.c } ∧
      (∀ n l, l < 8 → r.gc n l = if n = d ∧ bit (e.snap.guard h) l then val e.snap l else i.regs.gc n l) ∧
      ∀ b, b < 6 → (sets.getLsbD b = true ↔
        e.sets.getLsbD b = true ∨ ∃ l, l < 8 ∧ bit (e.snap.guard h) l = true ∧ (flags e.snap l).getLsbD b = true)

/-- The same of a q register. -/
def AccDoes (c : Slot → Instr) (d : Nat) (val : Regs → Nat → QLane) (flags : Regs → Nat → BitVec 6) : Prop :=
  ∀ (s : State) (h : Slot) (key : Nat) (i : Inst) (e : Issue), SlotTurn s h 2 key i e → h.last = false → .q d ∉ e.written →
    ∃ r sets, exec (c h) s = .next (s.withCopy key { i with regs := r, issue := some { e.took 2 [.q d] with sets } }) ∧
      r = { i.regs with q := r.q } ∧
      (∀ n l, l < 8 → r.gq n l = if n = d ∧ bit (e.snap.guard h) l then val e.snap l else i.regs.gq n l) ∧
      ∀ b, b < 6 → (sets.getLsbD b = true ↔
        e.sets.getLsbD b = true ∨ ∃ l, l < 8 ∧ bit (e.snap.guard h) l = true ∧ (flags e.snap l).getLsbD b = true)

/-- Data and tag of a cell as the copy reads it without a check error: local memory, its program image or the Loft window. -/
def ReadsCell (s : State) (i : Inst) (e : Issue) (key a : Nat) (c : Cell) : Prop :=
  let w : Work := { st := s, key, inst := i, iss := e }
  w.readCell a = .ok c ∧ w.mendCell a = w

/-- `n` consecutive cells from `a` lie in one region that allows the access (R524, R542). -/
def RunAllowed (s : State) (i : Inst) (e : Issue) (key a n : Nat) (write : Bool) : Prop :=
  ({ st := s, key, inst := i, iss := e } : Work).checkRun a n write = .ok ()

/-- The Loft page of a window address belongs to the copy's session (R157, R526). -/
def WindowOwned (s : State) (i : Inst) (e : Issue) (a : Nat) : Prop :=
  s.dev.ownsPage i.session (windowCell e.snap.lwin a / 16384) = true

/-- The four stores (R608): `stores` holds of each, with the number of cells it spans and the cell it writes at each. -/
def StoreForms (h : Slot) (ad : AddrOp) (e : Issue) (stores : Instr → Nat → (Nat → Option Cell) → Prop) : Prop :=
  let g := e.snap.guard h
  (∀ x : BitVec 5, addrLegal ad false = true → e.on h = true →
    stores (.sts h ad x) 1 fun _ => some { data := (e.snap.gs x.toNat).signExtend 36, tag := tagValid }) ∧
  (∀ x : BitVec 5, addrLegal ad true = true → e.on h = true →
    stores (.st1 h ad x) 1 fun _ => some (e.snap.gc x.toNat ad.k.toNat)) ∧
  (∀ x : BitVec 5, addrLegal ad false = true → g ≠ 0 →
    stores (.stv h ad x) 8 fun k => if bit g k then some (e.snap.gc x.toNat k) else none) ∧
  (∀ x : BitVec 3, addrLegal ad false = true → g ≠ 0 →
    stores (.stq h ad x) 24 fun k =>
      let v := e.snap.gq x.toNat (k / 3)
      if bit g (k / 3) then some (match k % 3 with
        | 0 => { data := v.i.extractLsb' 0 36, tag := v.tag }
        | 1 => { data := v.q.extractLsb' 0 36, tag := v.tag }
        | _ => { data := (v.q.extractLsb' 36 12 ++ v.i.extractLsb' 36 12).zeroExtend 36, tag := v.tag })
      else none)

end Sys2Proof.Machine
end

