-- ==== Sys2Proof/Certificates/Slice0/Obligations.lean ====
section
/-!
DEFINITION. The statements about the model.
-/
open Sys2Proof Sys2Proof.Machine

/-- R590: the two-register scalar operations.
R590 and R593: the scalar operations with a constant, PRD and MFLC.
R600, R601: the A slot.
What the spec leaves open here is the model's choice: log entry 13. -/
def Obligations.scalarAndAddressOpsWriteTheirResult : Prop :=
  (
    ∀ d x y : BitVec 5,
      let op := fun (c : Slot → Instr) (f : BitVec 32 → BitVec 32 → BitVec 32) =>
        SlotDoes 0 [.s d.toNat] c fun r a => a.ss d.toNat (f (r.gs x.toNat) (r.gs y.toNat))
      op (.add · d x y) (· + ·) ∧ op (.sub · d x y) (· - ·) ∧ op (.and_ · d x y) (· &&& ·) ∧ op (.or_ · d x y) (· ||| ·) ∧
      op (.xor_ · d x y) (· ^^^ ·) ∧ op (.shl · d x y) (fun a b => a <<< (b.extractLsb' 0 5).toNat) ∧
      op (.shr · d x y) (fun a b => a >>> (b.extractLsb' 0 5).toNat) ∧
      op (.sra · d x y) (fun a b => a.sshiftRight (b.extractLsb' 0 5).toNat) ∧ op (.mul · d x y) (· * ·) ∧
      op (.mulh · d x y) (fun a b => (a.signExtend 64 * b.signExtend 64).extractLsb' 32 32) ∧
      op (.mulhu · d x y) (fun a b => (a.zeroExtend 64 * b.zeroExtend 64).extractLsb' 32 32) ∧
      op (.min_ · d x y) (fun a b => BitVec.ofInt 32 (min a.toInt b.toInt)) ∧
      op (.max_ · d x y) (fun a b => BitVec.ofInt 32 (max a.toInt b.toInt))) ∧
  (
    ∀ d x : BitVec 5,
      let op := fun (c : Slot → Instr) (f : BitVec 32 → BitVec 32) =>
        SlotDoes 0 [.s d.toNat] c fun r a => a.ss d.toNat (f (r.gs x.toNat))
      (∀ imm : BitVec 12, op (.addi · d x imm) (· + imm.signExtend 32) ∧ op (.andi · d x imm) (· &&& imm.signExtend 32) ∧
        op (.ori · d x imm) (· ||| imm.signExtend 32) ∧ op (.xori · d x imm) (· ^^^ imm.signExtend 32)) ∧
      (∀ k : BitVec 5, op (.shli · d x k) (· <<< k.toNat) ∧ op (.shri · d x k) (· >>> k.toNat) ∧
        op (.srai · d x k) (·.sshiftRight k.toNat)) ∧
      (∀ imm : BitVec 16, op (.movi · d imm) (fun _ => imm.signExtend 32) ∧
        SlotDoes 0 [.s d.toNat] (.movhi · d imm) fun r a => a.ss d.toNat (imm ++ (r.gs d.toNat).extractLsb' 0 16)) ∧
      (∀ px : BitVec 3, SlotDoes 0 [.s d.toNat] (.prd · d px) fun r a => a.ss d.toNat ((r.gp px.toNat).zeroExtend 32)) ∧
      (∀ n : BitVec 2, SlotDoes 0 [.s d.toNat] (.mflc · d n) fun r a => a.ss d.toNat ((r.glc n.toNat).zeroExtend 32))) ∧
  (
    (∀ (d x : BitVec 4),
      let op := fun (c : Slot → Instr) (f : Regs → BitVec 24) => SlotDoes 1 [.a d.toNat] c fun r a => a.sa d.toNat (f r)
      (∀ y : BitVec 4, op (.aadd · d x y) fun r => r.ga x.toNat + r.gm y.toNat) ∧
      (∀ imm : BitVec 14, op (.aaddi · d x imm) fun r => r.ga x.toNat + imm.signExtend 24) ∧
      (∀ y : BitVec 5, op (.aadds · d x y) fun r => r.ga x.toNat + (r.gs y.toNat).truncate 24) ∧
      (∀ imm : BitVec 18, op (.ali · d imm) fun _ => imm.zeroExtend 24) ∧
      (∀ imm : BitVec 6, op (.ahi · d imm) fun r => imm ++ (r.ga d.toNat).extractLsb' 0 18) ∧
      (∀ y : BitVec 5, op (.afs · d y) fun r => (r.gs y.toNat).truncate 24) ∧
      (∀ imm : BitVec 18, SlotDoes 1 [.m d.toNat] (.mset · d imm) fun _ a => a.sm d.toNat (imm.signExtend 24)) ∧
      (∀ y : BitVec 5, SlotDoes 1 [.m d.toNat] (.mfs · d y) fun r a => a.sm d.toNat ((r.gs y.toNat).truncate 24))) ∧
    ∀ (d : BitVec 5) (x : BitVec 4),
      SlotDoes 1 [.s d.toNat] (.ats · d x) (fun r a => a.ss d.toNat ((r.ga x.toNat).zeroExtend 32)) ∧
      SlotDoes 1 [.s d.toNat] (.mts · d x) (fun r a => a.ss d.toNat ((r.gm x.toNat).signExtend 32)))

/-- R591, R592: the predicate operations; a write to p0 is ignored (R534) and counts for none (R616).
R602, R605, R587: VCMP writes the bits of pd of the enabled lanes and keeps the others.
What the spec leaves open here is the model's choice: log entry 13. -/
def Obligations.predicateAndCompareOpsWritePredicates : Prop :=
  (
    ∀ pd : BitVec 3,
      let w := if pd = 0 then [] else [RName.p pd.toNat]
      let op := fun (c : Slot → Instr) (f : Regs → BitVec 8) => SlotDoes 0 w c fun r a => if pd = 0 then a else { a with p := Tbl.set a.p pd.toNat (f r) }
      let truth := fun b : Bool => (if b then 0xFF else 0x00 : BitVec 8)
      (∀ (x y : BitVec 5) (imm : BitVec 11),
        let cmp := fun (cond : BitVec 3) (rel : BitVec 32 → BitVec 32 → Bool) =>
          op (.cmp · pd cond x y) (fun r => truth (rel (r.gs x.toNat) (r.gs y.toNat))) ∧
          op (.cmpi · pd cond x imm) (fun r => truth (rel (r.gs x.toNat) (imm.signExtend 32)))
        cmp 0 (fun a b => decide (a = b)) ∧ cmp 1 (fun a b => decide (a ≠ b)) ∧ cmp 2 (fun a b => decide (a.toInt < b.toInt)) ∧
        cmp 3 (fun a b => decide (a.toInt ≥ b.toInt)) ∧ cmp 4 (fun a b => decide (a.toNat < b.toNat)) ∧
        cmp 5 (fun a b => decide (a.toNat ≥ b.toNat))) ∧
      (∀ (px py : BitVec 3) (fn : BitVec 4), ∃ f : BitVec 8 → BitVec 8 → BitVec 8,
        (∀ a b i, i < 8 → (f a b).getLsbD i = fn.getLsbD (2 * (a.getLsbD i).toNat + (b.getLsbD i).toNat)) ∧
        op (.plog · pd px py fn) fun r => f (r.gp px.toNat) (r.gp py.toNat)) ∧
      (∀ x : BitVec 5, op (.pwr · pd x) fun r => (r.gs x.toNat).truncate 8)) ∧
  (
    ∀ (pd : BitVec 3) (x y : BitVec 5) (cond : BitVec 3), cond.toNat ≤ 4 → (cond = 4 → y = 0) →
      let w := if pd = 0 then [] else [RName.p pd.toNat]
      let holds := fun (a b : Cell) => match cond.toNat with
        | 0 => decide (a.data = b.data)
        | 1 => decide (a.data ≠ b.data)
        | 2 => decide (a.hi < b.hi)
        | 3 => decide (a.hi ≥ b.hi)
        | _ => decide (a.tag ≠ tagValid)
      ∀ (s : State) (h : Slot) (key : Nat) (i : Inst) (e : Issue), SlotTurn s h 2 key i e → h.last = false →
        (∀ z ∈ w, z ∉ e.written) →
        ∃ r, exec (.vcmp h pd x y cond) s = .next (s.withCopy key { i with regs := r, issue := some (e.took 2 w) }) ∧
          r = { i.regs with p := r.p } ∧ (∀ n, n ≠ pd.toNat → r.gp n = i.regs.gp n) ∧
          ((∃ l, l < 8 ∧ bit (e.snap.guard h) l = true) → pd ≠ 0 → ∀ l, l < 8 → (r.gp pd.toNat).getLsbD l =
            if bit (e.snap.guard h) l then holds (e.snap.gc x.toNat l) (e.snap.gc y.toNat l) else (e.snap.gp pd.toNat).getLsbD l))

/-- R549: the tag of an arithmetic result lane, by its rank; a reserved tag counts as GAP (R20).
R602, R604, R606: the vector operations that write a c register, and VEXT.
R547, R602 to R604: the operations on accumulators, and VNARROW. -/
def Obligations.vectorAndAccumulatorOpsWriteEnabledLanes : Prop :=
  (
    ∀ tags : List (BitVec 4),
      let gap := ∃ t ∈ tags, t = tagGap ∨ tagReserved t = true
      (gap → arithTag tags = tagGap) ∧
      (¬ gap → tagOverrange ∈ tags → arithTag tags = tagOverrange) ∧
      (¬ gap → tagOverrange ∉ tags → tagSettling ∈ tags → arithTag tags = tagSettling) ∧
      (¬ gap → tagOverrange ∉ tags → tagSettling ∉ tags → arithTag tags = tagValid)) ∧
  (
    ∀ d x y : BitVec 5,
      let arith := fun (c : Slot → Instr) (f : Cell → Cell → Int × Int) =>
        VecDoes c d.toNat
          (fun r l => let a := r.gc x.toNat l; let b := r.gc y.toNat l
            Cell.ofHalves (clamp18 (f a b).1) (clamp18 (f a b).2) (arithTag [a.tag, b.tag]))
          (fun r l => let a := r.gc x.toNat l; let b := r.gc y.toNat l
            flagBits (clamp18 (f a b).1 ≠ (f a b).1 || clamp18 (f a b).2 ≠ (f a b).2) false (arithTag [a.tag, b.tag]))
      let move := fun (c : Slot → Instr) (f : Regs → Nat → Cell) => VecDoes c d.toNat f fun _ _ => 0
      arith (.vadd · d x y) (fun a b => (a.hi + b.hi, a.lo + b.lo)) ∧
      arith (.vsub · d x y) (fun a b => (a.hi - b.hi, a.lo - b.lo)) ∧
      (∀ (cx cy : Bool) (sh : BitVec 5), sh.toNat ≤ 16 →
        arith (.vcmul · d x y cx cy sh) fun a b =>
          let xq := if cx then -a.lo else a.lo
          let yq := if cy then -b.lo else b.lo
          let n := fun v : Int => (v + 2 ^ (16 - sh.toNat)) >>> (17 - sh.toNat)
          (n (a.hi * b.hi - xq * yq), n (a.hi * yq + xq * b.hi))) ∧
      VecDoes (.vconj · d x) d.toNat
        (fun r l => let a := r.gc x.toNat l; Cell.ofHalves a.hi (clamp18 (-a.lo)) (arithTag [a.tag]))
        (fun r l => let a := r.gc x.toNat l; flagBits (clamp18 (-a.lo) ≠ -a.lo) false (arithTag [a.tag])) ∧
      move (.vmov · d x) (fun r l => r.gc x.toNat l) ∧
      (∀ k : BitVec 3, move (.vbcast · d x k) fun r _ => r.gc x.toNat k.toNat) ∧
      move (.vspls · d x) (fun r _ => { data := (r.gs x.toNat).signExtend 36, tag := tagValid }) ∧
      (∀ tag : BitVec 4, tag.toNat ≤ 5 → move (.vtags · d x tag) fun r l => { data := (r.gc x.toNat l).data, tag }) ∧
      move (.vtagg · d x) (fun r l => { data := (r.gc x.toNat l).tag.zeroExtend 36, tag := tagValid }) ∧
      (∀ k : BitVec 3, SlotDoes 2 [.s d.toNat] (.vext · d x k) fun r a => a.ss d.toNat ((r.gc x.toNat k.toNat).data.truncate 32))) ∧
  (
    ∀ (d x : BitVec 3),
      let wraps := fun v : Int => decide (v < -(2 ^ 47) ∨ 2 ^ 47 ≤ v)
      AccDoes (.vqclr · d) d.toNat (fun _ _ => { i := 0, q := 0, tag := tagValid }) (fun _ _ => 0) ∧
      AccDoes (.vqadd · d x) d.toNat
        (fun r l => let a := r.gq d.toNat l; let b := r.gq x.toNat l
          { i := a.i + b.i, q := a.q + b.q, tag := arithTag [a.tag, b.tag] })
        (fun r l => let a := r.gq d.toNat l; let b := r.gq x.toNat l
          flagBits false (wraps (a.i.toInt + b.i.toInt) || wraps (a.q.toInt + b.q.toInt)) (arithTag [a.tag, b.tag])) ∧
      (∀ (u v : BitVec 5) (m : MacMod),
        let product := fun (r : Regs) (l : Nat) =>
          let a := r.gc u.toNat l
          let b := r.gc v.toNat l
          let xq := if m.cx then -a.lo else a.lo
          let yq := if m.cy then -b.lo else b.lo
          let p := if m.re then (a.hi * b.hi, xq * b.hi) else (a.hi * b.hi - xq * yq, a.hi * yq + xq * b.hi)
          if m.sub then (-p.1, -p.2) else p
        let old := fun (r : Regs) (l : Nat) => if m.clr then ({ i := 0, q := 0, tag := tagValid } : QLane) else r.gq d.toNat l
        let tag := fun (r : Regs) (l : Nat) => arithTag [(old r l).tag, (r.gc u.toNat l).tag, (r.gc v.toNat l).tag]
        AccDoes (.vcmac · d u v m) d.toNat
          (fun r l => { i := BitVec.ofInt 48 ((old r l).i.toInt + (product r l).1)
                        q := BitVec.ofInt 48 ((old r l).q.toInt + (product r l).2), tag := tag r l })
          (fun r l => flagBits false (wraps ((old r l).i.toInt + (product r l).1) || wraps ((old r l).q.toInt + (product r l).2))
            (tag r l))) ∧
      (∀ (c sh : BitVec 5), sh.toNat ≤ 16 →
        let n := fun v : BitVec 48 => (v.toInt + 2 ^ (16 - sh.toNat)) >>> (17 - sh.toNat)
        VecDoes (.vnarrow · c x sh) c.toNat
          (fun r l => let a := r.gq x.toNat l; Cell.ofHalves (clamp18 (n a.i)) (clamp18 (n a.q)) (arithTag [a.tag]))
          (fun r l => let a := r.gq x.toNat l
            flagBits (clamp18 (n a.i) ≠ n a.i || clamp18 (n a.q) ≠ n a.q) false (arithTag [a.tag]))))

/-- R584, R587, R538: NOP changes nothing but the record of the bundle; the bundle it ends goes on to the next one.
R594, R595, R545: a taken transfer goes to its target and keeps the levels that hold it; CALL writes s31.
R596, R544: REP and REPI open a level with the next free counter, or skip the block on COUNT 0.
R543, R596: the last bundle of the innermost level loops back while its counter is above 1, and ends the level at 1.
What the spec leaves open here is the model's choice: log entries 13, 14. -/
def Obligations.bundlesMoveToTheNextOne : Prop :=
  (
    ∀ (s : State) (h : Slot) (n : Fin 4) (key : Nat) (i : Inst) (e : Issue), SlotTurn s h n key i e → h.pred = 0 → h.neg = false →
      (h.last = false → n ≠ 3 →
        exec (.nop h n) s = .next (s.withCopy key { i with issue := some { e with slot := n } })) ∧
      (h.last = true ∨ n = 3 → Closes s h i e →
        exec (.nop h n) s = .next (s.issued h key
          { i with regs := e.regsAfter i.regs (e.snap.pc + 1) s.stall, issue := none, waiting := false }))) ∧
  (
    ∀ (s : State) (h : Slot) (key : Nat) (i : Inst) (e : Issue) (p : Program), SlotTurn s h 0 key i e → h.last = true →
      Closes s h i e → e.on h = true → (∀ l ∈ e.snap.levels, l.last ≠ e.snap.pc) →
      s.dev.program? i.session i.prog = some p →
      let goes := fun (c : Instr) (t : Nat) (r : Regs) => t < p.codeBundles →
        exec c s = .next (s.issued h key
          { i with regs := { e.regsAfter r t (s.stall + 2) with levels := e.snap.levels.takeWhile fun l => l.first ≤ t && t ≤ l.last }
                   issue := none, waiting := false })
      (∀ t : BitVec 18, goes (.br h t) t.toNat i.regs) ∧
      (∀ t : BitVec 18, RName.s 31 ∉ e.written → goes (.call h t) t.toNat (i.regs.ss 31 (BitVec.ofNat 32 (e.snap.pc + 1)))) ∧
      goes (.ret h) (e.snap.gs 31).toNat i.regs ∧
      ∀ x : BitVec 5, goes (.brx h x) (e.snap.gs x.toNat).toNat i.regs) ∧
  (
    ∀ (s : State) (h : Slot) (key : Nat) (i : Inst) (e : Issue) (p : Program) (fin : BitVec 12),
      SlotTurn s h 0 key i e → h.last = true → Closes s h i e → e.on h = true → fin ≠ 0 →
      s.dev.program? i.session i.prog = some p →
      let opens := fun (c : Instr) (count : BitVec 24) =>
        (count ≠ 0 → e.snap.levels.length < 4 → (∀ l ∈ e.snap.levels, e.snap.pc + fin.toNat ≤ l.last) →
          exec c s = .next (s.issued h key
            { i with regs := { e.regsAfter { i.regs with lc := Tbl.set i.regs.lc e.snap.levels.length count } (e.snap.pc + 1) s.stall with
                               levels := e.snap.levels ++ [{ first := e.snap.pc + 1, last := e.snap.pc + fin.toNat }] }
                     issue := none, waiting := false })) ∧
        (count = 0 → e.snap.pc + fin.toNat + 1 < p.codeBundles → e.snap.levels = [] →
          exec c s = .next (s.issued h key
            { i with regs := e.regsAfter i.regs (e.snap.pc + fin.toNat + 1) s.stall, issue := none, waiting := false }))
      (∀ x : BitVec 5, opens (.rep h x fin) ((e.snap.gs x.toNat).truncate 24)) ∧
      ∀ n : BitVec 10, opens (.repi h n fin) (n.zeroExtend 24)) ∧
  (
    ∀ (s : State) (h : Slot) (key : Nat) (i : Inst) (e : Issue) (outer : List Level) (l : Level) (p : Program),
      SlotTurn s h 0 key i e → h.pred = 0 → h.neg = false → h.last = true →
      (e.target = none ∧ e.opened = none ∧ e.skipTo = none ∧ e.staged = []) →
      bit (s.dev.spu h.spu.val).dbgCtl 0 = false → (∀ q ∈ s.dev.insts, ∀ n, (q.2.outq n).cells = []) →
      e.snap.levels = outer ++ [l] → l.last = e.snap.pc → l.first ≤ l.last → (∀ o ∈ outer, o.last ≠ e.snap.pc) →
      s.dev.program? i.session i.prog = some p → e.snap.pc + 1 < p.codeBundles →
      let c := i.regs.glc outer.length
      let out := fun (c' : BitVec 24) (ls : List Level) (pc : Nat) =>
        exec (.nop h 0) s = .next (s.issued h key
          { i with regs := { e.regsAfter { i.regs with lc := Tbl.set i.regs.lc outer.length c' } pc s.stall with levels := ls }
                   issue := none, waiting := false })
      (1 < c.toNat → out (c - 1) (outer ++ [l]) l.first) ∧ (c = 1 → out 0 outer (e.snap.pc + 1)))

/-- R535, R593: what MFC reads; an unused number reads 0.
R535, R589, R593: what MTC writes, from the next bundle on; FLAGS bits are cleared by a 1 and a bit that the bundle sets stays set; a write of a read-only or unused number has no effect.
What the spec leaves open here is the model's choice: log entries 13, 14. -/
def Obligations.controlRegistersAreMoved : Prop :=
  (
    ∀ (s : State) (h : Slot) (key : Nat) (i : Inst) (e : Issue) (d : BitVec 5), SlotTurn s h 0 key i e → h.last = false →
      e.on h = true → RName.s d.toNat ∉ e.written →
      let reads := fun (cr : BitVec 6) (v : BitVec 32) (r : Regs) =>
        exec (.mfc h d cr) s = .next (s.withCopy key { i with regs := r.ss d.toNat v, issue := some (e.took 0 [.s d.toNat]) })
      let word := fun (v : BitVec 72) (k : Nat) => (v.extractLsb' (32 * k) 32 : BitVec 32)
      reads 0x00 (e.snap.flags.zeroExtend 32) i.regs ∧ reads 0x01 (e.snap.lwin.zeroExtend 32) i.regs ∧
      reads 0x02 (BitVec.ofNat 32 (i.num % 64)) i.regs ∧ reads 0x03 (BitVec.ofNat 32 i.session) i.regs ∧
      reads 0x04 (e.snap.cyc.extractLsb' 0 32) i.regs ∧ reads 0x05 (e.snap.cyc.extractLsb' 32 32) i.regs ∧
      reads 0x06 (word s.dev.stamp 0) { i.regs with timeLatch := s.dev.stamp } ∧
      reads 0x07 (word e.snap.timeLatch 1) i.regs ∧ reads 0x08 (word e.snap.timeLatch 2) i.regs ∧
      (∀ k : Fin 4, reads (BitVec.ofNat 6 (0x0C + k)) ((Tbl.get 0 e.snap.cbBase k).zeroExtend 32) i.regs ∧
        reads (BitVec.ofNat 6 (0x10 + k)) ((Tbl.get 0 e.snap.cbLen k).zeroExtend 32) i.regs ∧
        reads (BitVec.ofNat 6 (0x14 + k)) (i.inq k).bind i.regs) ∧
      (∀ k : Fin 2, reads (BitVec.ofNat 6 (0x18 + k)) (i.outq k).bind i.regs) ∧
      reads 0x1E (e.snap.qtsel.zeroExtend 32) i.regs ∧
      (∀ k : Fin 8, reads (BitVec.ofNat 6 (0x22 + k)) ((i.entry k).sel.zeroExtend 32) i.regs) ∧
      reads 0x2C (word e.snap.evt 0) i.regs ∧ reads 0x2D (word e.snap.evt 1) i.regs ∧ reads 0x2E (word e.snap.evt 2) i.regs ∧
      ∀ cr : BitVec 6, cr = 0x0B ∨ 0x30 ≤ cr.toNat → reads cr 0 i.regs) ∧
  (
    ∀ (s : State) (h : Slot) (key : Nat) (i : Inst) (e : Issue) (x : BitVec 5), SlotTurn s h 0 key i e → h.last = true →
      Closes s h i e → e.on h = true →
      let v := e.snap.gs x.toNat
      let writes := fun (cr : BitVec 6) (j : Inst) => exec (.mtc h x cr) s = .next (s.issued h key
        { j with regs := e.regsAfter j.regs (e.snap.pc + 1) s.stall, issue := none, waiting := false })
      let regs := fun r : Regs => { i with regs := r }
      writes 0x00 (regs { i.regs with flags := i.regs.flags &&& ~~~ v.truncate 6 }) ∧
      writes 0x01 (regs { i.regs with lwin := v.truncate 10 }) ∧
      (∀ k : Fin 4, writes (BitVec.ofNat 6 (0x0C + k)) (regs { i.regs with cbBase := Tbl.set i.regs.cbBase k (v.truncate 24) }) ∧
        writes (BitVec.ofNat 6 (0x10 + k)) (regs { i.regs with cbLen := Tbl.set i.regs.cbLen k (v.truncate 24) })) ∧
      writes 0x1E (regs { i.regs with qtsel := v.truncate 2 }) ∧
      (∀ k : Fin 8, writes (BitVec.ofNat 6 (0x22 + k))
        { i with ev := Tbl.set i.ev k { i.entry k with sel := v.truncate 13, count := 0 } }) ∧
      ∀ cr : BitVec 6, (0x02 ≤ cr.toNat ∧ cr.toNat ≤ 0x0B) ∨ (0x1A ≤ cr.toNat ∧ cr.toNat ≤ 0x1D) ∨
        (0x1F ≤ cr.toNat ∧ cr.toNat ≤ 0x21) ∨ 0x2A ≤ cr.toNat → writes cr i)

/-- R563: WAITEV takes the lowest enabled entry of its mask with a nonzero count.
R588: a bundle whose WAITEV, SETW or EXIT cannot proceed does not issue: the copy shows WAITING at the same bundle with the registers it had at issue.
R565, R572, R598: SIGEV raises its event to the raising session alone; SETW writes the first result other than OK and clears the results of the earlier SETUPs; BKPT halts the copy only with DBG_EN.
R577, R578: EXIT ends the copy with its value s3:s2; the Crate completes with its last copy.
What the spec leaves open here is the model's choice: log entries 13, 14. -/
def Obligations.waitsEventsAndExitTakeEffect : Prop :=
  (
    ∀ (s : State) (h : Slot) (key : Nat) (i : Inst) (e : Issue) (d : BitVec 5) (mask : BitVec 8) (k : Fin 8),
      SlotTurn s h 0 key i e → h.last = true → Closes s h i e → e.on h = true → RName.s d.toNat ∉ e.written →
      let ready := fun n : Nat => bit mask n = true ∧ bit (i.entry n).sel 12 = true ∧ (i.entry n).count ≠ 0
      ready k → (∀ n, n < k.val → ¬ ready n) →
      exec (.waitev h d mask) s = .next (s.issued h key
        { i with regs := { e.regsAfter (i.regs.ss d.toNat (BitVec.ofNat 32 k)) (e.snap.pc + 1) s.stall with evt := (i.entry k).last }
                 ev := Tbl.set i.ev k { i.entry k with count := (i.entry k).count - 1 }
                 issue := none, waiting := false })) ∧
  (
    ∀ (s : State) (h : Slot) (key : Nat) (i : Inst) (e : Issue) (d : BitVec 5) (mask : BitVec 8), SlotTurn s h 0 key i e →
      h.last = true → Closes s h i e → e.on h = true → RName.s d.toNat ∉ e.written →
      let waits := fun c : Instr => ∃ j, exec c s = .next (s.onDev fun a => a.freed.setInst key j) ∧
        j = { i with regs := { e.snap with cyc := j.regs.cyc, flags := i.regs.flags }, issue := none, waiting := true }
      ((∃ n, n < 8 ∧ bit mask n = true ∧ bit (i.entry n).sel 12 = true) →
        (∀ n, n < 8 → bit mask n = true → bit (i.entry n).sel 12 = true → (i.entry n).count = 0) → waits (.waitev h d mask)) ∧
      ((∃ q ∈ i.setups, q.result = none) → waits (.setw h d) ∧ waits (.exit h))) ∧
  (
    ∀ (s : State) (h : Slot) (key : Nat) (i : Inst) (e : Issue), SlotTurn s h 0 key i e → h.last = true →
      Closes s h i e → e.on h = true →
      let after := fun j : Inst => s.issued h key
        { j with regs := e.regsAfter j.regs (e.snap.pc + 1) s.stall, issue := none, waiting := false }
      (∀ index : BitVec 8, exec (.sigev h false 0 index) s =
        .next ((after i).onDev fun d => d.raise (0xA00 + index.toNat) s.dev.stamp (some i.session))) ∧
      (∀ x : BitVec 5, exec (.sigev h true x 0) s =
        .next ((after i).onDev fun d => d.raise (0xA00 + (e.snap.gs x.toNat).toNat % 256) s.dev.stamp (some i.session))) ∧
      (∀ d : BitVec 5, RName.s d.toNat ∉ e.written → (∀ q ∈ i.setups, q.result ≠ none ∧ q.idx < i.nextSetup) →
        ∃ v : BitVec 32, exec (.setw h d) s = .next (after { i with regs := i.regs.ss d.toNat v, setups := [] }) ∧
          ((∀ q ∈ i.setups, q.result = some .ok) → v = 0) ∧
          ∀ before q behind st, i.setups = before ++ q :: behind → (∀ b ∈ before, b.result = some .ok) → q.result = some st → st ≠ .ok →
            v = st.code.zeroExtend 32) ∧
      exec (.bkpt h) s = .next (after (if s.dev.spa.dbgEn then { i with halted := true } else i))) ∧
  (
    ∀ (s : State) (h : Slot) (key : Nat) (i : Inst) (e : Issue) (c : Live), SlotTurn s h 0 key i e → h.last = true →
      Closes s h i e → e.on h = true → e.others = false → i.seat = .onSpu h.spu.val → (∀ q ∈ i.setups, q.result ≠ none) →
      (∀ k, (s.dev.spu k).retireWait = false) → s.dev.live? i.uid = some c → c.isRun = true → c.decided = false →
      ∃ t c', exec (.exit h) s = .next t ∧ t.mem = s.mem ∧ t.pending = s.pending ∧
        Tbl.find? t.dev.insts key = none ∧ (∀ k, k ≠ key → Tbl.find? t.dev.insts k = Tbl.find? s.dev.insts k) ∧
        (t.dev.spu h.spu.val).runs = none ∧ t.dev.live? i.uid = some c' ∧ c'.ended = c.ended + 1 ∧
        (i.num = 0 → c'.result0 = e.snap.gs 3 ++ e.snap.gs 2) ∧
        (c.ended + 1 ≠ c.nspu → c'.phase = c.phase) ∧
        (c.ended + 1 = c.nspu → c'.phase = .decided ∧ c'.result1 = BitVec.ofNat 32 c.nspu ∧ c'.ctime = s.dev.now ∧
          c'.status = if c.missed s.dev.now then .deadlineMissed else .ok))

/-- R549, R607, R608, R610, R541: loads take their cells and then post-modify.
R780, R791, R792: a load of a Loft cell whose stored word has a bit in error takes the corrected cell; one corrected record of the session names its address, and the word is written back.
What the spec leaves open here is the model's choice: log entries 13, 34. -/
def Obligations.loadsTakeTheirCells : Prop :=
  (
    ∀ (s : State) (h : Slot) (key : Nat) (i : Inst) (e : Issue) (ad : AddrOp), SlotTurn s h 3 key i e → Closes s h i e →
      (ad.pm ≠ 0 → RName.a ad.a.toNat ∉ e.written) →
      let b := addrBase ad e.snap
      let g := e.snap.guard h
      let post := fun r : Regs => if ad.pm = 0 then r else r.sa ad.a.toNat (addrModified ad e.snap)
      let done := fun (c : Instr) (r : Regs) => exec c s = .next (s.issued h key
        { i with regs := e.regsAfter (post r) (e.snap.pc + 1) s.stall, issue := none, waiting := false })
      (∀ (d : BitVec 5) (c : Cell), addrLegal ad false = true → RName.s d.toNat ∉ e.written → e.on h = true →
        RunAllowed s i e key b 1 false → ReadsCell s i e key b c →
        done (.lds h d ad) (i.regs.ss d.toNat (c.data.truncate 32))) ∧
      (∀ (d : BitVec 5) (c : Cell), addrLegal ad true = true → RName.c d.toNat ∉ e.written → e.on h = true →
        RunAllowed s i e key b 1 false → ReadsCell s i e key b c →
        done (.ld1 h d ad) (i.regs.sc d.toNat ad.k.toNat c)) ∧
      (∀ (d : BitVec 5) (cells : Nat → Cell), addrLegal ad false = true → RName.c d.toNat ∉ e.written → g ≠ 0 →
        RunAllowed s i e key b 8 false → (∀ l, l < 8 → bit g l = true → ReadsCell s i e key (b + l) (cells l)) →
        ∃ r, done (.ldv h d ad) r ∧ r = { i.regs with c := r.c } ∧
          ∀ n l, l < 8 → r.gc n l = if n = d.toNat ∧ bit g l then cells l else i.regs.gc n l) ∧
      (∀ (d : BitVec 3) (cells : Nat → Cell), addrLegal ad false = true → RName.q d.toNat ∉ e.written → g ≠ 0 →
        RunAllowed s i e key b 24 false →
        (∀ l, l < 8 → bit g l = true → ∀ k, k < 3 → ReadsCell s i e key (b + 3 * l + k) (cells (3 * l + k))) →
        ∃ r, done (.ldq h d ad) r ∧ r = { i.regs with q := r.q } ∧
          ∀ n l, l < 8 → r.gq n l = if n = d.toNat ∧ bit g l then
            { i := (cells (3 * l + 2)).data.extractLsb' 0 12 ++ (cells (3 * l)).data
              q := (cells (3 * l + 2)).data.extractLsb' 12 12 ++ (cells (3 * l + 1)).data, tag := (cells (3 * l)).tag }
            else i.regs.gq n l)) ∧
  (
    ∀ (s : State) (h : Slot) (key : Nat) (i : Inst) (e : Issue) (ad : AddrOp) (d : BitVec 5) (c : Cell), SlotTurn s h 3 key i e → Closes s h i e →
      ad.pm = 0 → addrLegal ad false = true → RName.s d.toNat ∉ e.written → e.on h = true → s.dev.rel.queue.length < 64 →
      let b := addrBase ad e.snap
      let a := windowCell e.snap.lwin b
      0x800000 ≤ b → b < 0x1000000 → WindowOwned s i e b → s.mem.loftRead a = .corrected c →
      ∃ t r, exec (.lds h d ad) s = .next t ∧ Tbl.find? t.dev.insts key = some
          { i with regs := e.regsAfter (i.regs.ss d.toNat (c.data.truncate 32)) (e.snap.pc + 1) s.stall, issue := none, waiting := false } ∧
        t.mem = { s.mem with loftErr := t.mem.loftErr } ∧ t.mem.loftRead a = .good (s.mem.loftGet a) ∧
        (∀ j, j ≠ a → t.mem.loftRead j = s.mem.loftRead j) ∧
        t.dev.rel.queue = s.dev.rel.queue ++ [r] ∧ r.code = Status.ok.code ∧ r.sev = 1 ∧ r.domain = domSession i.session ∧ r.addr = BitVec.ofNat 64 b)

/-- R549, R607 to R610, R19: the stores. In the Loft window a store writes its cells, an EMPTY or reserved tag as GAP, and no other cell of any memory.
R525, R549, R607 to R610: the same in local memory, which is the copy's own.
R554, R614: ATOM reads the cell's scalar, writes the new value, and sets sd to the old one.
What the spec leaves open here is the model's choice: log entries 13, 15. -/
def Obligations.storesWriteTheirCells : Prop :=
  (
    ∀ (s : State) (h : Slot) (key : Nat) (i : Inst) (e : Issue) (ad : AddrOp), SlotTurn s h 3 key i e → Closes s h i e →
      (ad.pm ≠ 0 → RName.a ad.a.toNat ∉ e.written) →
      let b := addrBase ad e.snap
      let post := fun r : Regs => if ad.pm = 0 then r else r.sa ad.a.toNat (addrModified ad e.snap)
      let stores := fun (c : Instr) (n : Nat) (cells : Nat → Option Cell) =>
        0x800000 ≤ b → b + n ≤ 0x1000000 → (∀ k, k < n → WindowOwned s i e (b + k)) →
        ∃ m, exec c s = .next ((s.onMem fun _ => m).issued h key
            { i with regs := e.regsAfter (post i.regs) (e.snap.pc + 1) s.stall, issue := none, waiting := false }) ∧
          m = { s.mem with loft := m.loft, loftErr := m.loftErr } ∧
          (∀ k c, k < n → cells k = some c → m.loftGet (windowCell e.snap.lwin (b + k)) = c.stored) ∧
          ∀ a, (∀ k, k < n → cells k ≠ none → a ≠ windowCell e.snap.lwin (b + k)) → m.loftGet a = s.mem.loftGet a
      StoreForms h ad e stores) ∧
  (
    ∀ (s : State) (h : Slot) (key : Nat) (i : Inst) (e : Issue) (ad : AddrOp), SlotTurn s h 3 key i e → Closes s h i e →
      (ad.pm ≠ 0 → RName.a ad.a.toNat ∉ e.written) →
      let b := addrBase ad e.snap
      let post := fun r : Regs => if ad.pm = 0 then r else r.sa ad.a.toNat (addrModified ad e.snap)
      let stores := fun (c : Instr) (n : Nat) (cells : Nat → Option Cell) =>
        b + n ≤ 0x20000 → RunAllowed s i e key b n true →
        ∃ j, exec c s = .next (s.issued h key j) ∧
          j = { i with regs := e.regsAfter (post i.regs) (e.snap.pc + 1) s.stall, issue := none, waiting := false
                       loc := j.loc, locErr := j.locErr } ∧
          (∀ k c, k < n → cells k = some c → Tbl.get {} j.loc (b + k) = c.stored) ∧
          ∀ a, (∀ k, k < n → cells k ≠ none → a ≠ b + k) → Tbl.get {} j.loc a = Tbl.get {} i.loc a
      StoreForms h ad e stores) ∧
  (
    ∀ (s : State) (h : Slot) (key : Nat) (i : Inst) (e : Issue) (d y : BitVec 5) (ax : BitVec 4) (op : BitVec 3) (c : Cell),
      SlotTurn s h 3 key i e → Closes s h i e → e.on h = true → RName.s d.toNat ∉ e.written → op.toNat ≤ 5 →
      let a := (e.snap.ga ax.toNat).toNat
      0x800000 ≤ a → WindowOwned s i e a → ReadsCell s i e key a c →
      let old : BitVec 32 := c.data.truncate 32
      let v := e.snap.gs y.toNat
      let new := match op.toNat with
        | 0 => old + v
        | 1 => v
        | 2 => old &&& v
        | 3 => old ||| v
        | 4 => BitVec.ofInt 32 (max old.toInt v.toInt)
        | _ => if old = e.snap.gs d.toNat then v else old
      ∃ m, exec (.atom h d ax y op) s = .next ((s.onMem fun _ => m).issued h key
          { i with regs := e.regsAfter (i.regs.ss d.toNat old) (e.snap.pc + 1) s.stall, issue := none, waiting := false }) ∧
        m = { s.mem with loft := m.loft, loftErr := m.loftErr } ∧
        ∀ k, m.loftGet k = if k = windowCell e.snap.lwin a then { data := new.signExtend 36, tag := tagValid } else s.mem.loftGet k)

/-- R67, R559, R612, R613, R552: reads of an input queue, QFLUSH and LFENCE.
R561, R612, R613, R645, R20: a queue write bound to an open stream of SKIND 2 with room reaches the stream, the last cell ending a packet with EOP and a reserved tag turned to GAP; a write to an unbound queue is dropped whole and sets QDROP.
What the spec leaves open here is the model's choice: log entries 13, 15, 39. -/
def Obligations.programQueuesAreReadAndWritten : Prop :=
  (
    ∀ (s : State) (h : Slot) (key : Nat) (i : Inst) (e : Issue), SlotTurn s h 3 key i e → Closes s h i e →
      let g := e.snap.guard h
      let after := fun j : Inst => s.issued h key { j with issue := none, waiting := false }
      (∀ (d : BitVec 5) (n : BitVec 2) (nb : Bool) (k : BitVec 3) (c : QCell) (cs : List QCell), e.on h = true →
        RName.c d.toNat ∉ e.written → (i.inq n.toNat).cells = c :: cs →
        exec (.qrd1 h d n nb k) s = .next (after
          { i with regs := e.regsAfter (i.regs.sc d.toNat k.toNat c.cell) (e.snap.pc + 1) s.stall
                   iq := Tbl.set i.iq n.toNat { i.inq n.toNat with cells := cs } })) ∧
      (∀ (d : BitVec 5) (n : BitVec 2) (k : BitVec 3), e.on h = true → RName.c d.toNat ∉ e.written → (i.inq n.toNat).cells = [] →
        exec (.qrd1 h d n true k) s = .next (after
          { i with regs := { e.regsAfter (i.regs.sc d.toNat k.toNat { data := 0, tag := tagEmpty }) (e.snap.pc + 1) s.stall with
                               flags := i.regs.flags ||| e.sets ||| 0x08 }
                   iq := Tbl.set i.iq n.toNat { i.inq n.toNat with cells := [] } })) ∧
      (∀ (d : BitVec 5) (n : BitVec 2) (nb : Bool), g = 0xFF → RName.c d.toNat ∉ e.written → 8 ≤ (i.inq n.toNat).cells.length →
        ∃ r, exec (.qrd8 h d n nb) s = .next (after
            { i with regs := e.regsAfter r (e.snap.pc + 1) s.stall
                     iq := Tbl.set i.iq n.toNat { i.inq n.toNat with cells := (i.inq n.toNat).cells.drop 8 } }) ∧
          r = { i.regs with c := r.c } ∧
          ∀ m l, l < 8 → r.gc m l = if m = d.toNat then (((i.inq n.toNat).cells.map (·.cell))[l]?).getD {} else i.regs.gc m l) ∧
      (∀ n : BitVec 2, e.on h = true →
        exec (.qflush h n) s = .next (after
          { i with regs := e.regsAfter i.regs (e.snap.pc + 1) s.stall
                   iq := Tbl.set i.iq n.toNat { i.inq n.toNat with cells := [], gapNext := fld (i.inq n.toNat).bind 0 2 == 1,
                                                                        cut := (i.inq n.toNat).mid, discarded := (i.inq n.toNat).cells.length } })) ∧
      exec (.lfence h) s = .next (after { i with regs := e.regsAfter i.regs (e.snap.pc + 1) s.stall })) ∧
  (
    ∀ (s : State) (h : Slot) (key : Nat) (i : Inst) (e : Issue) (x : BitVec 5) (n : BitVec 1) (wt eop : Bool),
      SlotTurn s h 3 key i e → Closes s h i e →
      let after := fun j : Inst => s.issued h key { j with issue := none, waiting := false }
      let q := i.outq n.toNat
      (fld q.bind 0 2 = 0 → (∀ k : BitVec 3, e.on h = true →
          exec (.qwr1 h x n wt eop k) s = .next (after { i with regs := { e.regsAfter i.regs (e.snap.pc + 1) s.stall with
            flags := i.regs.flags ||| e.sets ||| 0x10 } })) ∧
        (e.snap.guard h ≠ 0 →
          exec (.qwr8 h x n wt eop) s = .next (after { i with regs := { e.regsAfter i.regs (e.snap.pc + 1) s.stall with
            flags := i.regs.flags ||| e.sets ||| 0x10 } }))) ∧
      (∀ t : Stream, fld q.bind 0 2 = 1 → Tbl.find? s.dev.mov.streams (fld q.bind 2 16) = some t → fld t.src 0 4 = 2 →
        t.closing = none → t.from_ = none → t.queue.length + 8 ≤ 16384 →
        let reaches := fun (c : Instr) (cells : List QCell) => ∃ d', exec c s = .next { s with dev := d' } ∧
          d' = { s.dev with insts := d'.insts, stk := d'.stk, mov := d'.mov, rel := d'.rel, freeCtr := d'.freeCtr } ∧
          ((∀ c ∈ cells, tagReserved c.cell.tag = false) → d'.rel = s.dev.rel) ∧
          (∃ t', Tbl.find? d'.mov.streams (fld q.bind 2 16) = some t' ∧ t'.queue = t.queue ++ cells.map QCell.clean) ∧
          ∃ j, Tbl.find? d'.insts key = some j ∧ (j.outq n.toNat).cells = [] ∧ j.regs = e.regsAfter i.regs (e.snap.pc + 1) s.stall
        (∀ k : BitVec 3, e.on h = true → reaches (.qwr1 h x n wt eop k) [{ cell := e.snap.gc x.toNat k.toNat, eop }]) ∧
        (e.snap.guard h = 0xFF →
          reaches (.qwr8 h x n wt eop) ((List.range 8).map fun l => { cell := e.snap.gc x.toNat l, eop := eop && l == 7 }))))

/-- R39, R567 to R571: SETUP sends its record to the unit, where it waits with an undecided result; without a grant for the unit, with a record type the unit does not have, or on the unit of a pair's upper port, the result is decided at once. With 16 undecided results it stalls the bundle, which does not show as WAITING.
R615, R631, R866: MVGO hands its chain to the named mover and sd takes the mover's number, or 0x100 plus the status of the refusal; MVSTOP asks for a stop only of a chain of the same copy.
R579, R581: the debug commands of an SPU's copy. HALT at a bundle boundary halts it; STEP runs one bundle of a halted copy (here a bundle of four NOPs) and leaves it halted; RESUME lets it go on.
What the spec leaves open here is the model's choice: log entries 17, 19, 20. -/
def Obligations.setupMoverAndDebugCommandsReachTheirUnit : Prop :=
  (
    ∀ (s : State) (h : Slot) (key : Nat) (i : Inst) (e : Issue) (ax : BitVec 4) (p : Fin 4) (cells : Nat → Cell),
      SlotTurn s h 3 key i e → Closes s h i e → e.on h = true →
      (∀ (v : BitVec 8) (typ : BitVec 4), 16 ≤ i.undecided → e.waits = false →
        ∃ cyc, exec (.setup h v ax typ) s = .next (s.onDev fun b => b.freed.setInst key
          { i with regs := { e.snap with cyc, flags := i.regs.flags }, issue := none, waiting := false })) ∧
      (i.undecided < 16 →
      let a := (e.snap.ga ax.toNat).toNat
      let u : BitVec 8 := BitVec.ofNat 8 (0x08 + p)
      let write := ({ st := s, key, inst := i, iss := e } : Work).granted 2 (0x08 + p) 2
      let ends := fun (c : Instr) (res : Option Status) (units : Tbl RecIf) => ∃ t, exec c s = .next t ∧
        t = { s with dev := { s.dev with insts := t.dev.insts, stk := t.dev.stk, units, freeCtr := t.dev.freeCtr } } ∧
        ∃ j, Tbl.find? t.dev.insts key = some j ∧ j.nextSetup = i.nextSetup + 1 ∧
          j.setups = i.setups ++ [{ idx := i.nextSetup, result := res }] ∧ j.regs = e.regsAfter i.regs (e.snap.pc + 1) s.stall
      (0x800000 ≤ a → a + 4 ≤ 0x1000000 → (∀ k, k < 4 → ReadsCell s i e key (a + k) (cells k)) →
        (write = true → s.dev.upperPort p = false → (∀ x ∈ (s.dev.unit (0x08 + p)).shadow, x.typ ≠ 1) →
          ∃ units, ends (.setup h u ax 1) none units ∧
            Tbl.get {} units (0x08 + p) = { s.dev.unit (0x08 + p) with
              shadow := (s.dev.unit (0x08 + p)).shadow ++
                [{ typ := 1, cells := (List.range 4).map fun k => (cells k).data, origin := some (key, i.nextSetup) }] } ∧
            ∀ v, v ≠ 0x08 + p.val → Tbl.get {} units v = Tbl.get {} s.dev.units v) ∧
        (write = true → s.dev.upperPort p = true → s.dev.rel.queue.length < 64 →
          (∀ x ∈ i.setups, x.idx = i.nextSetup → x.result ≠ none) →
          ∃ t, exec (.setup h u ax 1) s = .next t ∧ t.dev.units = s.dev.units ∧ OneRecord s t .cfgRange 0 (s.dev.portDom p) ∧
            ∃ j, Tbl.find? t.dev.insts key = some j ∧ j.setups = i.setups ++ [{ idx := i.nextSetup, result := some .cfgRange }]) ∧
        (write = false → ends (.setup h u ax 1) (some .grantFault) s.dev.units)) ∧
      ends (.setup h u ax 0) (some .cfgRange) s.dev.units)) ∧
  (
    ∀ (s : State) (h : Slot) (key : Nat) (i : Inst) (e : Issue) (d y : BitVec 5) (ax : BitVec 4) (m : Fin 16),
      SlotTurn s h 3 key i e → Closes s h i e → e.on h = true → RName.s d.toNat ∉ e.written →
      e.snap.gs y.toNat = BitVec.ofNat 32 m →
      let a := (e.snap.ga ax.toNat).toNat
      let v := s.dev.mover m
      let ends := fun (c : Instr) (r : Regs) (movers : Tbl Mover) => ∃ t, exec c s = .next t ∧
        t = { s with dev := { s.dev with insts := t.dev.insts, stk := t.dev.stk, mov := { s.dev.mov with movers }, freeCtr := t.dev.freeCtr } } ∧
        ∃ j, Tbl.find? t.dev.insts key = some j ∧ j.regs = e.regsAfter r (e.snap.pc + 1) s.stall
      (0x800000 ≤ a → a + 16 ≤ 0x1000000 →
        (v.halted = false → v.chain = none → v.queue = [] →
          ∃ movers w c, ends (.mvgo h d ax y) (i.regs.ss d.toNat (BitVec.ofNat 32 m)) movers ∧ Tbl.get {} movers m = w ∧
            w.chain = some c ∧ c.cur = windowCell e.snap.lwin a ∧ c.act.inst = some key ∧ c.act.session = i.session ∧
            c.act.crate = none ∧ w.queue = [] ∧ ∀ k, k ≠ m.val → Tbl.get {} movers k = Tbl.get {} s.dev.mov.movers k) ∧
        (v.halted = false → 64 ≤ v.queue.length →
          ends (.mvgo h d ax y) (i.regs.ss d.toNat (BitVec.ofNat 32 (0x100 + Status.quota.code.toNat))) s.dev.mov.movers)) ∧
      (∀ c, v.chain = some c → c.fin = none → c.stalled = false →
        (c.act.inst = some key → ∃ movers, ends (.mvstop h y) i.regs movers ∧
          Tbl.get {} movers m = { v with chain := some { c with stop := true } } ∧
          ∀ k, k ≠ m.val → Tbl.get {} movers k = Tbl.get {} s.dev.mov.movers k) ∧
        (c.act.inst ≠ some key → ends (.mvstop h y) i.regs s.dev.mov.movers))) ∧
  (
    ∀ (s : State) (k : Fin 68) (key : Nat) (i : Inst) (p : Program), s.dev.served = true → s.dev.rel.devFault = false →
      (s.dev.spu k).runs = some key → Tbl.find? s.dev.insts key = some i →
      let ends := fun (c : Instr) (j : Inst) => ∃ t, exec c s = .next t ∧
        t = { s with dev := { s.dev with insts := t.dev.insts, stk := t.dev.stk, freeCtr := t.dev.freeCtr } } ∧
        Tbl.find? t.dev.insts key = some j ∧ ∀ n, n ≠ key → Tbl.find? t.dev.insts n = Tbl.find? s.dev.insts n
      (s.dev.spa.dbgEn = true → i.halted = false → (s.dev.spu k).moving = 0 → i.issue = none →
        ends (.halt k) { i with halted := true }) ∧
      (s.dev.spa.dbgEn = false → exec (.halt k) s = .next s) ∧
      (i.halted = true → i.issue = none → i.regs.levels = [] → s.dev.program? i.session i.prog = some p →
        i.regs.pc + 1 < p.codeBundles → bit (s.dev.spu k).dbgCtl 0 = false →
        (∀ q ∈ s.dev.insts, ∀ n, (q.2.outq n).cells = []) →
        (∀ n, n < 4 → (s.mem.loftGet (p.base + 4 * i.regs.pc + n)).data = 0 ∧ Tbl.get 0 s.mem.loftErr (p.base + 4 * i.regs.pc + n) = 0) →
        ends (.step k) { i with regs := { i.regs with pc := i.regs.pc + 1, cyc := i.regs.cyc + BitVec.ofNat 64 (1 + s.stall) }
                                issue := none, waiting := false }) ∧
      (i.halted = false → exec (.step k) s = .next s ∧ exec (.debugResume k) s = .next s) ∧
      (i.halted = true → (∀ n, (s.dev.spu n).retireWait = false) → ends (.debugResume k) { i with halted := false }))

/-- R35, R39, R854: a GO of the register path submits the record of its interface when its length is that of its type, no session holds the unit and the port is no pair's upper one; else RESULT shows CFG_RANGE or CFG_LOCKED and the record goes nowhere.
R36, R37, R775: at the monitors' boundary an accumulator's record comes into force, and its sender's result is OK.
What the spec leaves open here is the model's choice: log entry 68. -/
def Obligations.setupRecordsComeIntoForce : Prop :=
  (
    ∀ (s : State) (p : Fin 4), s.dev.served = true → s.dev.rel.devFault = false →
      let u := 0x08 + p.val
      let f := s.dev.unit u
      let cells := (List.range f.len).map fun k => Tbl.get 0 f.buf k
      let g := { f with gos := f.gos + 1 }
      let ends := fun (g : RecIf) (t : State) => exec (.go (BitVec.ofNat 8 u)) s = .next t ∧ t.dev.unit u = g ∧
        t = { s with dev := { s.dev with units := t.dev.units, rel := t.dev.rel, hlk := t.dev.hlk } } ∧
        ∀ v, v ≠ u → t.dev.unit v = s.dev.unit v
      (f.typ = 1 → f.len = 4 → s.dev.writeHeld u = false → s.dev.upperPort p = true → s.dev.rel.queue.length < 64 →
        ∃ t, ends { g with result := 1 } t ∧ OneRecord s t .cfgRange 0 (s.dev.portDom p)) ∧
      (f.typ = 1 → f.len = 4 → s.dev.writeHeld u = false → s.dev.upperPort p = false → (∀ x ∈ f.shadow, x.typ ≠ 1) →
        ∃ t, ends { g with shadow := f.shadow ++ [{ typ := 1, cells, go := f.gos + 1 }], result := 0xF } t ∧ t.dev.rel = s.dev.rel ∧ t.dev.hlk = s.dev.hlk) ∧
      (f.typ = 1 → f.len = 4 → s.dev.writeHeld u = true → s.dev.rel.queue.length < 64 →
        ∃ t, ends { g with result := 2 } t ∧ OneRecord s t .cfgLocked 0 (s.dev.portDom p)) ∧
      (f.typ = 1 → f.len ≠ 4 → ∃ t, ends { g with result := 1 } t ∧ t.dev.rel = s.dev.rel ∧ t.dev.hlk = s.dev.hlk)) ∧
  (
    ∀ (s : State) (c : BitVec 36) (origin : Option (Nat × Nat)) (go : Nat), s.dev.tim.started = true → fld c 30 6 = 0 →
      (s.dev.unit 0x40).shadow = [{ typ := 4, cells := [c], origin, go }] →
      ∃ t, exec (.recordCommit 0x40) s = .next t ∧
        t = { s with dev := { s.dev with units := t.dev.units, insts := t.dev.insts } } ∧
        (t.dev.unit 0x40).shadow = [] ∧ (∃ k, t.dev.rec? 0x40 4 k = some [c] ∧ k = monSub { typ := 4, cells := [c] }) ∧
        (∀ v, v ≠ 0x40 → t.dev.unit v = s.dev.unit v) ∧
        (origin = none → t.dev.insts = s.dev.insts ∧ (t.dev.unit 0x40).result =
          if (s.dev.unit 0x40).gos = go ∧ (s.dev.unit 0x40).result = 0xF then 0 else (s.dev.unit 0x40).result) ∧
        ∀ key idx i, origin = some (key, idx) → Tbl.find? s.dev.insts key = some i → (∀ q ∈ i.setups, q.idx = idx → q.result = none) →
          ∃ j, Tbl.find? t.dev.insts key = some j ∧ ∀ q ∈ j.setups, q.idx = idx → q.result = some .ok)

/-- R106 to R108, R131: a doorbell in range moves its Hatch's tail, a Chit head in range its session's head; one of a Hatch that is not assigned is ignored, counted (saturating) and shown in HLK_ERR_STAT.
R97, R110, R134, R180 to R183: the next announced Crate of an open session is read and tested: admitted in order of reading, decided with the status of its failed test, or held at its Hatch.
R857: a Crate slot that cannot be read ends as a Crate of TAG 0 with BUS_ERROR or TIMEOUT, and a DEGRADED record.
What the spec leaves open here is the model's choice: log entries 10, 11, 26. -/
def Obligations.doorbellsBringCrates : Prop :=
  (
    ∀ (s : State) (h : BitVec 12) (v : BitVec 32), s.dev.served = true →
      (∀ x, Tbl.find? s.dev.hlk.hatches h.toNat = some x → (s.dev.session x.owner).st ≠ .closed →
        ((v - x.head).toNat ≤ 2 ^ x.n → (v - x.tail).toNat < 2 ^ 31 →
          exec (.hatchTail h v) s = .next (s.onDev fun d => { d with hlk := { d.hlk with
            hatches := Tbl.set d.hlk.hatches h.toNat { x with tail := v } } })) ∧
        ((v - (s.dev.session x.owner).chitHead).toNat ≤
            ((s.dev.session x.owner).chitCount - (s.dev.session x.owner).chitHead).toNat →
          ∃ t, exec (.chitHead h v) s = .next t ∧ t = { s with dev := { s.dev with hlk := { s.dev.hlk with sessions := t.dev.hlk.sessions } } } ∧
            t.dev.session x.owner = { s.dev.session x.owner with chitHead := v } ∧
            ∀ n, n ≠ x.owner → t.dev.session n = s.dev.session n)) ∧
      (Tbl.find? s.dev.hlk.hatches h.toNat = none → h ≠ 0 → ∀ c, c = .hatchTail h v ∨ c = .chitHead h v →
        ∃ t, exec c s = .next t ∧ t = { s with dev := { s.dev with hlk := t.dev.hlk, rel := t.dev.rel, host := t.dev.host } } ∧
          t.dev.hlk.hatches = s.dev.hlk.hatches ∧ t.dev.hlk.sessions = s.dev.hlk.sessions ∧
          (Tbl.get 0 t.dev.hlk.badDb h.toNat).toNat = min ((Tbl.get 0 s.dev.hlk.badDb h.toNat).toNat + 1) 0xFFFFFFFF ∧
          bit t.dev.hlk.errStat 2 = true)) ∧
  (
    ∀ (s : State) (h : BitVec 12) (raw : BitVec 512) (g : HostData) (x : Hatch),
      Tbl.find? s.dev.hlk.hatches h.toNat = some x → (s.dev.session x.owner).st = .opened → s.dev.rel.devFault = false →
      s.dev.hlk.live.length < 1024 → x.head ≠ x.tail →
      let c : Live := { uid := s.dev.hlk.nextUid, session := x.owner, hatch := h.toNat, index := x.head, raw, cls := fld raw 32 3 }
      let takes := fun (i : Instr) (p : Live → Prop) => ∃ t l y, exec i s = .next t ∧ t.mem = s.mem ∧ t.pending = s.pending ∧
        t.dev.hlk.live.length = s.dev.hlk.live.length + 1 ∧ t.dev.hlk.live.getLast? = some l ∧ p l ∧
        l.uid = c.uid ∧ l.session = c.session ∧ l.hatch = c.hatch ∧ l.index = c.index ∧ l.raw = raw ∧
        t.dev.hlk.nextUid = s.dev.hlk.nextUid + 1 ∧ Tbl.find? t.dev.hlk.hatches h.toNat = some y ∧
        y.head = x.head + 1 ∧ y.tail = x.tail ∧ y.waiting = none ∧ t.dev.tim = s.dev.tim ∧ t.dev.insts = s.dev.insts
      let reads := fun (i : Instr) =>
        (∀ grants, s.dev.verdict c g = .admits grants → takes i fun l => l.admitted = true ∧ l.grants = grants ∧ l.cls = c.cls ∧
          (c.ndep = 0 → l.phase = .ready s.dev.tim.ticks) ∧
          l.irqVec = if c.irq = true ∧ c.vec < (s.dev.session c.session).vecCount then some (BitVec.ofNat 6 c.vec) else none) ∧
        (∀ st, s.dev.verdict c g = .fails st → takes i fun l => l.admitted = false ∧ l.phase = .decided ∧ l.ctime = s.dev.now ∧
          (st ≠ .ok → l.status = st)) ∧
        (s.dev.verdict c g = .wait → exec i s = .next (s.onDev fun d => { d with hlk := { d.hlk with
            hatches := Tbl.set d.hlk.hatches h.toNat { x with waiting := some raw } } }))
      (x.waiting = none → reads (.crateRead h raw g)) ∧ (x.waiting = some raw → reads (.admissionResume h g))) ∧
  (
    ∀ (s : State) (h : BitVec 12) (x : Hatch) (late : Bool), Tbl.find? s.dev.hlk.hatches h.toNat = some x →
      (s.dev.session x.owner).st = .opened → s.dev.mayRead x = true → s.dev.rel.queue.length < 64 →
      let st : Status := if late then .timeout else .busError
      ∃ t l y r, exec (.hatchSlotFault h late) s = .next t ∧
        t = { s with dev := { s.dev with hlk := t.dev.hlk, rel := t.dev.rel, host := t.dev.host } } ∧
        t.dev.hlk.live.getLast? = some l ∧ l.admitted = false ∧ l.tag = 0 ∧ l.phase = .decided ∧ l.status = st ∧ l.session = x.owner ∧
        Tbl.find? t.dev.hlk.hatches h.toNat = some y ∧ y.head = x.head + 1 ∧
        t.dev.rel.queue = s.dev.rel.queue ++ [r] ∧ r.code = st.code ∧ r.sev = 2 ∧ r.domain = domSession x.owner ∧ r.time = s.dev.now)

/-- R180: the admission tests, the first that fails deciding.
What the spec leaves open here is the model's choice: log entries 21, 27. -/
def Obligations.admissionTestsDecideInOrder : Prop :=
  ∀ (d : Dev) (c : Live) (g : HostData),
    let q := d.session c.session
    let formed := c.headerOk = true ∧ c.payloadOk = true
    let fresh := (∀ o ∈ d.hlk.live, o.session = c.session → o.admitted = true → o.tag ≠ c.tag) ∧ (c.irq = true → c.vec < q.vecCount)
    (¬ formed → d.verdict c g = .fails .cfgRange) ∧
    (formed → ¬ fresh → d.verdict c g = .fails .cfgRange) ∧
    (formed → fresh → c.kind = 0x0F → c.hatch ≠ 0 → d.verdict c g = .fails .grantFault) ∧
    (formed → fresh → (c.kind = 0x0F → c.hatch = 0) → c.session ≠ 0 →
      (fld c.raw 32 3 < q.qPrio → d.verdict c g = .fails .quota) ∧
      (q.qPrio ≤ fld c.raw 32 3 →
        (q.qInflight ≤ d.inflight c.session → d.verdict c g = .wait) ∧
        (d.inflight c.session < q.qInflight →
          (c.kind ≠ 1 → d.verdict c g = .admits []) ∧
          (c.kind = 1 → q.qSpus < c.nspu → d.verdict c g = .fails .quota) ∧
          (c.kind = 1 → c.nspu ≤ q.qSpus → d.schedulable < c.nspu → d.verdict c g = .fails .cfgRange))))

/-- R118, R182: a waiting Crate whose dependencies are all satisfied is ready; with one outstanding it stays.
R95, R97, R125 to R132, R136, R140: the Chit of a decided Crate is written in the next free slot of its session's ring, ends the Crate, raises its event and sends its vector, if it has one that is not masked; without room it joins the held queue, and is written first when there is room again.
R98: at the end of a vector's coalescing interval a merged request raises the vector once and opens the next interval; without one the interval closes.
What the spec leaves open here is the model's choice: log entries 3, 12, 15. -/
def Obligations.dependenciesChitsAndVectorsFollow : Prop :=
  (
    ∀ (s : State) (uid : Nat) (c : Live), s.dev.live? uid = some c → c.phase = .waiting →
      ((∀ x ∈ c.deps, x = .met) → ∃ t, exec (.dependencySatisfied uid) s = .next t ∧
        t.dev.live? uid = some { c with phase := .ready s.dev.tim.ticks } ∧
        t = { s with dev := { s.dev with hlk := { s.dev.hlk with live := t.dev.hlk.live } } } ∧
        ∀ n, n ≠ uid → t.dev.live? n = s.dev.live? n) ∧
      ((∃ x ∈ c.deps, x ≠ .met) → (∀ o ∈ s.dev.hlk.live, o.uid = uid → o = c) → exec (.dependencySatisfied uid) s = .next s)) ∧
  (
    ∀ (s : State) (uid : Nat) (c : Live), s.dev.live? uid = some c → c.phase = .decided →
      let n := c.session
      let q := s.dev.session n
      let sent := fun (d : Dev) (b : List Byte) => ∃ m, d.host = s.dev.host ++
        [.write (q.chitBase + BitVec.ofNat 64 (q.chitCount.toNat % 2 ^ q.chitLog2 * 32)) b] ++ m ∧ (c.irqVec = none → m = []) ∧
        ∀ v, c.irqVec = some v → q.coal = 0 → q.vecBase + v.toNat < 2048 →
          m = if Tbl.get false s.dev.hlk.unmasked (q.vecBase + v.toNat) = true then [.msix (q.vecBase + v.toNat)] else []
      let row := fun held : Bool => leBytes 2 c.tag ++ [c.status.code] ++
        leBytes 1 ((!q.chitCount.toNat.testBit q.chitLog2).toNat + held.toNat * 2 + c.late.toNat * 4) ++ leBytes 2 (c.hatch % 4096) ++
        leBytes 2 0 ++ leBytes 4 c.index.toNat ++ leBytes 4 c.result1.toNat ++ leBytes 8 c.result0.toNat ++ leBytes 8 c.ctime.toNat
      let ended := fun (t : State) => t.mem = s.mem ∧ t.dev.live? uid = none ∧
        (t.dev.session n).chitCount = q.chitCount + 1 ∧
        ∃ e, t.dev.raised = s.dev.raised ++ [e] ∧ e.id = BitVec.ofNat 12 (0x900 + c.tag / 256) ∧ e.reach = some n
      c.tag < 65536 →
      ((q.chitCount - q.chitHead).toNat < 2 ^ q.chitLog2 → q.held = [] →
        ∃ t, exec (.chitIssue uid) s = .next t ∧ ended t ∧ sent t.dev (row false) ∧ (t.dev.session n).held = []) ∧
      (2 ^ q.chitLog2 ≤ (q.chitCount - q.chitHead).toNat → q.held = [] →
        ∃ t k, exec (.chitIssue uid) s = .next t ∧ t = { s with dev := { s.dev with hlk := t.dev.hlk, host := t.dev.host } } ∧
          (t.dev.session n).held = [k] ∧ k.uid = uid ∧ k.held = true ∧ bit t.dev.hlk.errStat 4 = true ∧ t.dev.live? uid = some c) ∧
      ((q.chitCount - q.chitHead).toNat < 2 ^ q.chitLog2 → n < 4096 → q.held = [c.chit true] → c.uid = uid →
        ∃ t, exec (.heldChitRelease (BitVec.ofNat 12 n)) s = .next t ∧ ended t ∧ sent t.dev (row true) ∧ (t.dev.session n).held = [])) ∧
  (
    ∀ (s : State) (v : BitVec 11) (c : Coalesce), Tbl.get {} s.dev.hlk.coal v.toNat = c → c.inInterval = true →
      ∃ t, exec (.coalesceIntervalEnd v) s = .next t ∧ t = { s with dev := { s.dev with hlk := t.dev.hlk, host := t.dev.host } } ∧
        Tbl.get {} t.dev.hlk.coal v.toNat = { inInterval := c.pending, pending := false } ∧
        (c.pending = false → t.dev.host = s.dev.host ∧ t.dev.hlk.msiPending = s.dev.hlk.msiPending) ∧
        (c.pending = true → Tbl.get false s.dev.hlk.unmasked v.toNat = true → t.dev.host = s.dev.host ++ [.msix v.toNat]) ∧
        (c.pending = true → Tbl.get false s.dev.hlk.unmasked v.toNat = false →
          t.dev.host = s.dev.host ∧ Tbl.get false t.dev.hlk.msiPending v.toNat = true))

/-- R78, R79, R80, R143, R87, R91: the modules' training and states, snoops and HDM decoders.
R99: a write of EN 1 opens session 0 with Hatch 0 over the rings given, and is ignored and reported as CFG_RANGE when a size or a base is out of range.
What the spec leaves open here is the model's choice: log entries 10, 42. -/
def Obligations.linkAndAdminSessionAreSet : Prop :=
  (
    ∀ (s : State) (m : Fin 2),
      let up := fun d : Dev => bit d.hlk.linkStat m.val
      let hlkOnly := fun t : State => t = { s with dev := { s.dev with hlk := t.dev.hlk, host := t.dev.host } }
      (∀ (sup : BitVec 2) (passes : BitVec 4) (rep : BitVec 8) (half : Bool), 4 ≤ s.dev.hkc.stage.toNat →
        bit s.dev.hlk.linkCtl (4 + m) = false →
        let top := min (fld s.dev.hlk.linkCtl 0 2) sup.toNat
        ∃ t, exec (.moduleTraining m sup passes rep half) s = .next t ∧
          t = { s with dev := { s.dev with hlk := t.dev.hlk, host := t.dev.host, rel := t.dev.rel } } ∧
          (half = true ∨ t.dev.moduleRate m = 0 → bit t.dev.hlk.errStat 0 = true ∧
            (s.dev.rel.queue.length < 64 → OneRecord s t .linkDegraded 2 domDevice)) ∧
          (half = false → t.dev.moduleRate m ≠ 0 → t.dev.rel = s.dev.rel) ∧
          (t.dev.moduleRate m ≤ top ∧ ∀ r, t.dev.moduleRate m < r → r ≤ top → bit passes r = false) ∧
          (t.dev.moduleRate m ≠ 0 → bit passes (t.dev.moduleRate m) = true) ∧
          up t.dev = decide (t.dev.moduleRate m ≠ 0) ∧
          (t.dev.moduleRate m ≠ 0 → t.dev.moduleRate m < fld s.dev.hlk.linkCtl 0 2 → bit t.dev.hlk.errStat 1 = true) ∧
          fld t.dev.hlk.linkStat (8 + 8 * m) 8 = rep.toNat) ∧
      (s.dev.served = true → ∃ t, exec (if m = 0 then .retrain0 else .retrain1) s = .next t ∧ hlkOnly t ∧ up t.dev = false ∧
        bit t.dev.hlk.linkCtl (2 + m) = true ∧ bit t.dev.hlk.linkStat (1 - m) = bit s.dev.hlk.linkStat (1 - m)) ∧
      (up s.dev = true → s.dev.rel.queue.length < 64 → ∀ down : Bool, ∃ t r, exec (.moduleDegrade m down) s = .next t ∧
        t = { s with dev := { s.dev with hlk := t.dev.hlk, host := t.dev.host, rel := t.dev.rel } } ∧ bit t.dev.hlk.errStat 0 = true ∧
        t.dev.rel.queue = s.dev.rel.queue ++ [r] ∧ r.code = Status.linkDegraded.code ∧ r.sev = 2 ∧ r.domain = domDevice ∧
        (down = true → up t.dev = false) ∧
        (down = false → bit s.dev.hlk.linkStat (2 + m) = false → 0 < s.dev.moduleRate m →
          up t.dev = true ∧ bit t.dev.hlk.linkStat (2 + m) = true)) ∧
      (∀ v : BitVec 2, s.dev.served = true → ∃ t, exec (.disable v) s = .next t ∧ hlkOnly t ∧ fld t.dev.hlk.linkCtl 4 2 = v.toNat ∧
        (bit v m = true → up t.dev = false) ∧ (bit v m = false → up t.dev = up s.dev)) ∧
      exec .snoop s = .next (s.onDev fun d => { d with host := d.host ++ [.snoopInvalid] }) ∧
      ∀ (gib : BitVec 7) (base : BitVec 64), s.dev.served = true →
        (gib.toNat ≤ s.dev.hlk.hdmGib → exec (.hdmDecoderCommit gib base) s = .next (s.onDev fun d => { d with
          hlk := { d.hlk with hdmDecoder := if gib = 0 then none else some (gib.toNat, base) }, host := d.host ++ [.hdmResult true] })) ∧
        (s.dev.hlk.hdmGib < gib.toNat → exec (.hdmDecoderCommit gib base) s =
          .next (s.onDev fun d => { d with host := d.host ++ [.hdmResult false] }))) ∧
  (
    ∀ (s : State) (v : BitVec 32), s.dev.served = true → s.dev.rel.devFault = false → (s.dev.session 0).st = .closed →
      let n := fld v 0 5
      let m := fld v 8 5
      let valid := 4 ≤ n ∧ n ≤ 16 ∧ 7 ≤ m ∧ m ≤ 16 ∧ fld s.dev.hlk.admHatchBase 0 12 = 0 ∧ fld s.dev.hlk.admChitBase 0 12 = 0
      (valid → ∃ t, exec (.adminSessionEnable v) s = .next t ∧
        t = { s with dev := { s.dev with hlk := { s.dev.hlk with
          admCfg := t.dev.hlk.admCfg, hatches := t.dev.hlk.hatches, sessions := t.dev.hlk.sessions } } } ∧
        bit t.dev.hlk.admCfg 16 = true ∧ fld t.dev.hlk.admCfg 0 5 = n ∧ fld t.dev.hlk.admCfg 8 5 = m ∧
        Tbl.find? t.dev.hlk.hatches 0 = some { owner := 0, n, base := s.dev.hlk.admHatchBase } ∧
        t.dev.session 0 = { st := .opened, chitBase := s.dev.hlk.admChitBase, chitLog2 := m, vecBase := 16, vecCount := 16 } ∧
        (∀ k, k ≠ 0 → t.dev.session k = s.dev.session k ∧ Tbl.find? t.dev.hlk.hatches k = Tbl.find? s.dev.hlk.hatches k)) ∧
      (¬ valid → s.dev.rel.queue.length < 64 → ∃ t r, exec (.adminSessionEnable v) s = .next t ∧
        t = { s with dev := { s.dev with rel := t.dev.rel } } ∧ t.dev.rel.queue = s.dev.rel.queue ++ [r] ∧
        r.code = Status.cfgRange.code ∧ r.sev = 0 ∧ r.domain = domDevice))

/-- R202, R856, R90, R96, R124: the ADMIN operations on sessions, quotas, vectors and Hatches, each decided with OK.
R101, R102: CLOSE_SESSION and RESET_SESSION of an idle session enter DRAINING; the end of the drain reopens a session that was reset, with its Shelves and programs, and closes one that was closed, releasing what it holds.
R121 to R123, R855: a FENCE completes once no earlier Crate of its scope is left; QUERY TIME writes the stamp to the host's buffer and completes with its length.
What the spec leaves open here is the model's choice: log entries 3, 28, 29. -/
def Obligations.sessionsOpenDrainAndEnd : Prop :=
  (
    ∀ (s : State) (uid : Nat) (c : Live),
      let d := s.dev
      let ok := fun (i : Instr) (r0 r1 : Nat) (p : State → Prop) => ∃ t, exec i s = .next t ∧ Decided s t uid .ok r0 r1 ∧
        t = { s with dev := { s.dev with hlk := t.dev.hlk } } ∧ p t
      let session := fun (n : Nat) (q : Session) (t : State) => t.dev.session n = q ∧ t.dev.hlk.hatches = d.hlk.hatches ∧
        ∀ k, k ≠ n → t.dev.session k = d.session k
      let hatch := fun (h : Nat) (x : Option Hatch) (t : State) => Tbl.find? t.dev.hlk.hatches h = x ∧
        t.dev.hlk.sessions = d.hlk.sessions ∧ ∀ k, k ≠ h → Tbl.find? t.dev.hlk.hatches k = Tbl.find? d.hlk.hatches k
      (d.admin uid 1 = some c → 1 ≤ c.target → c.target ≤ 4095 → (d.session c.target).st = .closed →
        7 ≤ c.num 36 1 → c.num 36 1 ≤ 16 → c.num 40 8 % 4096 = 0 → d.vecBlockOk c.target (c.num 48 2) (c.num 50 1) = true →
        d.inHdm (c.num 40 8) (2 ^ c.num 36 1 * 32) = false →
        ok (.openSession uid) 0 c.target (session c.target
          { st := .opened, chitBase := BitVec.ofNat 64 (c.num 40 8), chitLog2 := c.num 36 1, coal := BitVec.ofNat 16 (c.num 38 2)
            vecBase := c.num 48 2, vecCount := c.num 50 1, qShelves := fld d.stk.defq0 0 16, qLoft := fld d.stk.defq0 16 11
            qSpus := fld d.stk.defq1 0 7, qPrio := fld d.stk.defq1 8 3, qInflight := fld d.stk.defq1 11 11, qPool := fld d.stk.defq2 0 21 })) ∧
      (d.admin uid 3 = some c → 1 ≤ c.target → c.target ≤ 4095 → (d.session c.target).st = .opened →
        1 ≤ c.num 36 2 → c.num 36 2 ≤ 4095 → Tbl.find? d.hlk.hatches (c.num 36 2) = none → 4 ≤ c.num 38 1 → c.num 38 1 ≤ 16 →
        c.num 40 8 % 4096 = 0 → d.inHdm (c.num 40 8) (2 ^ c.num 38 1 * 64 + 64) = false →
        ok (.addHatch uid) 0 0 (hatch (c.num 36 2) (some { owner := c.target, n := c.num 38 1, base := BitVec.ofNat 64 (c.num 40 8) }))) ∧
      -- R90: a ring in the HDM window is a GRANT_FAULT
      (d.admin uid 3 = some c → 1 ≤ c.target → c.target ≤ 4095 → (d.session c.target).st = .opened →
        1 ≤ c.num 36 2 → c.num 36 2 ≤ 4095 → Tbl.find? d.hlk.hatches (c.num 36 2) = none → 4 ≤ c.num 38 1 → c.num 38 1 ≤ 16 →
        c.num 40 8 % 4096 = 0 → d.inHdm (c.num 40 8) (2 ^ c.num 38 1 * 64 + 64) = true →
        ∃ t, exec (.addHatch uid) s = .next t ∧ Decided s t uid .grantFault 0 0 ∧
          t = { s with dev := { s.dev with hlk := t.dev.hlk } } ∧ t.dev.hlk.hatches = d.hlk.hatches) ∧
      (d.admin uid 4 = some c → d.liveTarget c.target = true → (∃ x, Tbl.find? d.hlk.hatches (c.num 36 2) = some x ∧
          x.owner = c.target ∧ x.head = x.tail ∧ x.waiting = none) → (∀ o ∈ d.hlk.live, o.hatch ≠ c.num 36 2) →
        ok (.removeHatch uid) 0 0 (hatch (c.num 36 2) none)) ∧
      (d.admin uid 7 = some c → d.liveTarget c.target = true → d.vecBlockOk c.target (c.num 48 2) (c.num 50 1) = true →
        ok (.setVectors uid) 0 0 (session c.target { d.session c.target with vecBase := c.num 48 2, vecCount := c.num 50 1 }))) ∧
  (
    ∀ (s : State) (uid : Nat) (c : Live),
      let n := c.target
      (∀ reset : Bool, s.dev.admin uid (if reset then 8 else 2) = some c → s.dev.liveTarget n = true →
        (∀ o ∈ s.dev.hlk.live, o.session ≠ n) → (∀ p ∈ s.dev.mov.streams, p.2.session ≠ n) →
        (∀ p ∈ s.dev.insts, ∀ k, (p.2.outq k).cells = []) →
        ∃ t, exec (if reset then .resetSession uid else .closeSession uid) s = .next t ∧
          t = { s with dev := { s.dev with hlk := { s.dev.hlk with sessions := t.dev.hlk.sessions, live := t.dev.hlk.live } } } ∧
          t.dev.session n = { s.dev.session n with st := .draining, drain := some { uid, reset } } ∧
          ∃ l, t.dev.live? uid = some l ∧ l.phase = .active) ∧
      (∀ (k : BitVec 12) (r : Drain) (l : Live), (s.dev.session k.toNat).st = .draining → (s.dev.session k.toNat).drain = some r →
        s.dev.drained k.toNat r = true → s.dev.live? r.uid = some l → l.phase = .active →
        ∃ t, exec (.drainEnd k) s = .next t ∧ t.mem = s.mem ∧
          (r.reset = true → Decided s t r.uid (if r.escalated then .internal else .ok) 0 0 ∧
            t = { s with dev := { s.dev with hlk := t.dev.hlk } } ∧ t.dev.hlk.hatches = s.dev.hlk.hatches ∧
            t.dev.session k.toNat = { s.dev.session k.toNat with st := if r.escalated then .faulted else .opened, drain := none }) ∧
          (r.reset = false → (∀ b, (s.dev.barrel b).owner ≠ some k.toNat) → Decided s t r.uid .ok 0 0 ∧ t.dev.session k.toNat = {} ∧
            (∀ p ∈ t.dev.hlk.hatches, p.2.owner ≠ k.toNat) ∧
            (∀ e ∈ t.dev.stk.shelves, e.session = k.toNat → e.freed = true ∧ (e.refs ≠ 0 ∨ e.pins ≠ 0)) ∧
            (∀ p ∈ t.dev.stk.programs, p.session = k.toNat → p.freed = true ∧ p.refs ≠ 0)))) ∧
  (
    ∀ (s : State) (uid : Nat) (c : Live),
      (s.dev.live? uid = some c → c.kind = 8 → c.admitted = true → c.isReady = true → s.dev.startable c = true →
        c.num 33 1 = 0 → s.dev.earlier c = false → (∀ p ∈ s.dev.mov.streams, p.2.fences = []) →
        (∀ p ∈ s.dev.insts, ∀ q ∈ p.2.oq, q.2.fences = []) →
        ∃ t, exec (.fence uid) s = .next t ∧ Decided s t uid .ok 0 0 ∧
          t = { s with dev := { s.dev with hlk := { s.dev.hlk with live := t.dev.hlk.live } } }) ∧
      (s.dev.starts uid 9 = some c → c.num 32 2 = 5 → c.num 40 8 % 64 = 0 → 16 ≤ c.num 48 4 → s.dev.inHdm (c.num 40 8) 16 = false →
        let b := leBytes 16 s.dev.stamp.toNat
        ∃ t, exec (.query uid .done) s = .next t ∧ Decided s t uid .ok (ofLeBytes (b.take 8)) 16 ∧
          t.dev.host = s.dev.host ++ [.write (BitVec.ofNat 64 (c.num 40 8)) b] ∧
          t = { s with dev := { s.dev with hlk := { s.dev.hlk with live := t.dev.hlk.live }, host := t.dev.host, freeCtr := t.dev.freeCtr } }))

/-- R148, R150, R151, R158, R861: an ALLOC of Shelves that fits is mapped at once, over free physical Shelves, under a new handle; the tables that lead to them have their frames.
R151: the tests of an ALLOC of Shelves in their order.
R154, R155, R861: an ALLOC of Loft pages takes the lowest free run, or the run that its hint names.
R165, R166, R158: FREE of a handle frees all it names; what is unreferenced is gone with the tables that only it needed, the rest stays until its last reference.
What the spec leaves open here is the model's choice: log entries 5, 30. -/
def Obligations.memoryIsAllocatedAndFreed : Prop :=
  (
    ∀ (s : State) (uid : Nat) (c : Live) (b : Nat), s.dev.starts uid 5 (fun c => c.num 32 1 == 0) = some c →
      s.dev.allocShelfTest c = .ok → c.count ≤ s.dev.freeShelves → s.dev.shelfBase c = some b → s.dev.stk.allocWait = none →
      (s.dev.takeShelves c.count).length = c.count →
      let h := (s.dev.session c.session).nextHandle
      ∃ t, exec (.allocShelves uid) s = .next t ∧ Decided s t uid .ok (b * shelfBytes) h ∧
        t = { s with dev := { s.dev with
          hlk := t.dev.hlk, freeCtr := t.dev.freeCtr, stk := { s.dev.stk with shelves := t.dev.stk.shelves, tables := t.dev.stk.tables } } } ∧
        (∀ x ∈ s.dev.stk.tables, x ∈ t.dev.stk.tables) ∧
        (∀ i, i < c.count → ∀ p ∈ tablePath (b + i), ∃ x ∈ t.dev.stk.tables, x.session = c.session ∧ x.level = p.1 ∧ x.key = p.2) ∧
        (t.dev.session c.session).nextHandle = h + 1 ∧
        ∃ new, t.dev.stk.shelves = s.dev.stk.shelves ++ new ∧ new.length = c.count ∧
          ∀ i, i < c.count → ∃ e p, new[i]? = some e ∧ (s.dev.takeShelves c.count)[i]? = some p ∧
            e = { session := c.session, idx := b + i, handle := h, place := .resident p, spill := c.spill, since := s.dev.tim.ticks }) ∧
  (
    ∀ (s : State) (uid : Nat) (c : Live), s.dev.starts uid 5 (fun c => c.num 32 1 == 0) = some c →
      let d := s.dev
      let formed := 1 ≤ c.count ∧ c.count ≤ 49152 ∧ c.hint % shelfBytes = 0 ∧ c.hint < 2 ^ 48 ∧
        (c.hint ≠ 0 → (d.shelfBase c).isSome = true)
      let within := c.session = 0 ∨ d.stk.held c.session + c.count ≤ (d.session c.session).qShelves
      let fails := fun st => ∃ t, exec (.allocShelves uid) s = .next t ∧ Decided s t uid st 0 0 ∧
        t = { s with dev := { d with hlk := { d.hlk with live := t.dev.hlk.live } } }
      (¬ formed → fails .cfgRange) ∧ (formed → ¬ within → fails .quota) ∧
      (formed → within → d.freeShelves + d.pageable < c.count → fails .noShelves)) ∧
  (
    ∀ (s : State) (uid : Nat) (c : Live) (p : Nat), s.dev.starts uid 5 (fun c => c.num 32 1 == 1) = some c →
      1 ≤ c.count → c.count ≤ 1024 → c.spill = false →
      (c.session = 0 ∨ (s.dev.stk.loft.filter fun g => g.2.session == c.session).length + c.count ≤ (s.dev.session c.session).qLoft) →
      s.dev.loftRun p c.count = true → (c.hint = 0 → ∀ q, q < p → s.dev.loftRun q c.count = false) → (c.hint ≠ 0 → p = c.hint) →
      p < 1024 →
      let h := (s.dev.session c.session).nextHandle
      ∃ t, exec (.allocLoft uid) s = .next t ∧ Decided s t uid .ok (p * 16384) h ∧
        t = { s with dev := { s.dev with hlk := t.dev.hlk, stk := { s.dev.stk with loft := t.dev.stk.loft } } } ∧
        ∀ a, Tbl.find? t.dev.stk.loft a =
          if p ≤ a ∧ a < p + c.count then some { session := c.session, handle := h } else Tbl.find? s.dev.stk.loft a) ∧
  (
    ∀ (s : State) (uid : Nat) (c : Live), s.dev.starts uid 6 = some c →
      let h := c.num 32 4
      let mine := fun (n g : Nat) => n = c.session ∧ g = h
      let k := s.dev.stk
      ((∃ e ∈ k.shelves, mine e.session e.handle ∧ e.freed = false) ∨ (∃ p ∈ k.loft, mine p.2.session p.2.handle ∧ p.2.freed = false) ∨
          (∃ p ∈ k.programs, mine p.session p.handle ∧ p.freed = false) →
        ∃ t, exec (.free uid) s = .next t ∧ Decided s t uid .ok 0 0 ∧
          t = { s with dev := { s.dev with hlk := { s.dev.hlk with live := t.dev.hlk.live }, stk := t.dev.stk } } ∧
          (∀ e ∈ t.dev.stk.shelves, mine e.session e.handle → e.freed = true ∧ (e.refs ≠ 0 ∨ e.pins ≠ 0)) ∧
          (∀ p ∈ t.dev.stk.loft, mine p.2.session p.2.handle → p.2.freed = true ∧ p.2.refs ≠ 0) ∧
          (∀ p ∈ t.dev.stk.programs, mine p.session p.handle → p.freed = true ∧ p.refs ≠ 0) ∧
          (∀ x ∈ t.dev.stk.tables, ∃ e ∈ t.dev.stk.shelves, e.session = x.session) ∧
          (∀ e ∈ k.shelves, ¬ mine e.session e.handle → e.freed = false → e ∈ t.dev.stk.shelves) ∧
          (∀ p ∈ k.programs, ¬ mine p.session p.handle → p.freed = false → p ∈ t.dev.stk.programs)) ∧
      ((∀ e ∈ k.shelves, ¬ mine e.session e.handle) → (∀ p ∈ k.loft, ¬ mine p.2.session p.2.handle) →
          (∀ p ∈ k.programs, ¬ mine p.session p.handle) →
        ∃ t, exec (.free uid) s = .next t ∧ Decided s t uid .cfgRange 0 0 ∧
          t = { s with dev := { s.dev with hlk := { s.dev.hlk with live := t.dev.hlk.live } } }))

/-- R529 to R531: LOAD puts a valid image into the lowest free run of program pages and names it by a new handle.
R124, R167, R168, R169, R202, R203: the ADMIN operations on quotas, the CXL.mem reserve and the overflow pool.
What the spec leaves open here is the model's choice: log entries 21, 29, 31. -/
def Obligations.programsAndPoolsAreSet : Prop :=
  (
    ∀ (s : State) (uid : Nat) (c : Live) (b : List Byte) (code data live entry p : Nat), s.dev.starts uid 7 = some c →
      s.dev.inHdm (c.num 32 8) (c.num 40 4) = false → b.length = c.num 40 4 → binaryHeader b = some (code, data, live, entry) →
      (imageCells code data b).2 = false →
      let pages := cdiv (4 * code + data) 16384
      let free := fun q : Nat => q + pages ≤ s.dev.progPages ∧ ∀ i, i < pages → q + i ∉ s.dev.stk.progUsed
      free p → (∀ q, q < p → ¬ free q) →
      let h := (s.dev.session c.session).nextHandle
      let cells := (imageCells code data b).1
      ∃ t, exec (.load uid (.bytes b)) s = .next t ∧ Decided s t uid .ok (p * 16384) h ∧
        t = { s with mem := t.mem, dev := { s.dev with hlk := t.dev.hlk, stk := { s.dev.stk with programs := s.dev.stk.programs ++
          [{ session := c.session, handle := h, base := p * 16384, pages, codeBundles := code, dataCells := data, liveCells := live, entry }] } } } ∧
        t.mem = { s.mem with loft := t.mem.loft, loftErr := t.mem.loftErr } ∧
        (∀ i v, cells[i]? = some v → t.mem.loftGet (p * 16384 + i) = v.stored ∧ t.mem.loftRead (p * 16384 + i) = .good v.stored) ∧
        ∀ a, a < p * 16384 ∨ p * 16384 + cells.length ≤ a → t.mem.loftGet a = s.mem.loftGet a ∧ t.mem.loftRead a = s.mem.loftRead a) ∧
  (
    ∀ (s : State) (uid : Nat) (c : Live),
      let d := s.dev
      let k := d.stk
      let op := fun n : Nat => d.admin uid n = some c
      (op 5 → d.liveTarget c.target = true → quotaOk (c.num 36 4) (c.num 40 2) (c.num 42 1) (c.num 43 1) (c.num 44 4) (c.num 48 2) = true →
        ∃ t, exec (.setQuota uid) s = .next t ∧ Decided s t uid .ok 0 0 ∧ t = { s with dev := { d with hlk := t.dev.hlk } } ∧
          t.dev.session c.target = { d.session c.target with qShelves := c.num 36 4, qLoft := c.num 40 2, qSpus := c.num 42 1
                                                             qPrio := c.num 43 1, qPool := c.num 44 4, qInflight := c.num 48 2 } ∧
          ∀ n, n ≠ c.target → t.dev.session n = d.session n) ∧
      (op 9 → c.num 36 2 ≤ 64 → (∀ q, d.hlk.hdmDecoder = some q → q.1 ≤ c.num 36 2) →
        (∀ i, i < (c.num 36 2 - d.hlk.hdmGib) * 512 →
          let p : Int := ((d.fittedShelves - d.cel.top : Nat) : Int) - (c.num 36 2 : Int) * 512 + (i : Int)
          (d.ttShelves : Int) ≤ p ∧ p.toNat ∉ d.usedShelves) →
        ∃ t, exec (.setHdm uid) s = .next t ∧ Decided s t uid .ok 0 0 ∧
          t = { s with dev := { d with hlk := { d.hlk with live := t.dev.hlk.live, hdmGib := c.num 36 2 } } }) ∧
      (∀ q, d.admin uid 6 (fun c => c.num 48 1 != 1) = some c → c.num 48 1 = 0 → c.target = 0 → 1 ≤ c.num 36 4 → c.num 36 4 ≤ 524288 →
        c.num 40 8 % shelfBytes = 0 → k.slotsGranted.length + c.num 36 4 ≤ 1048576 → q < 16 → Tbl.find? k.pool q = none →
        (d.inHdm (c.num 40 8) (c.num 36 4 * shelfBytes) = true → ∃ t, exec (.poolGrantAdd uid) s = .next t ∧
          Decided s t uid .grantFault 0 0 ∧ t = { s with dev := { d with hlk := { d.hlk with live := t.dev.hlk.live } } }) ∧
        (d.inHdm (c.num 40 8) (c.num 36 4 * shelfBytes) = false → k.xfers = [] → ∃ r t g, r < 16 ∧ Tbl.find? k.pool r = none ∧ exec (.poolGrantAdd uid) s = .next t ∧ Decided s t uid .ok 0 r ∧
          t = { s with dev := { d with freeCtr := t.dev.freeCtr, hlk := { d.hlk with live := t.dev.hlk.live }
                                       stk := { k with pool := t.dev.stk.pool } } } ∧
          Tbl.find? t.dev.stk.pool r = some g ∧ g.base = BitVec.ofNat 64 (c.num 40 8) ∧ g.withdrawing = none ∧
          (∀ x ∈ g.slots, x ∉ k.slotsGranted) ∧ (∀ q, q ≠ r → Tbl.find? t.dev.stk.pool q = Tbl.find? k.pool q))) ∧
      (∀ g, d.admin uid 6 (fun c => c.num 48 1 == 1) = some c → c.target = 0 → Tbl.find? k.pool (c.num 49 1) = some g →
        g.failure = none → k.inRegion g = [] → k.xfers = [] →
        ∃ t, exec (.poolGrantWithdraw uid) s = .next t ∧ Decided s t uid .ok 0 0 ∧
          t = { s with dev := { d with hlk := { d.hlk with live := t.dev.hlk.live }
                                       stk := { k with pool := t.dev.stk.pool, badSlots := t.dev.stk.badSlots } } } ∧
          Tbl.find? t.dev.stk.pool (c.num 49 1) = none))

/-- R172 to R178: a page-out of the coldest Shelf below LOW, a page-in that starts in the lowest free Shelf, the end of each, and the ageing sweep.
R146, R862: writes of the Storekeeper's configuration are taken in range, rejected with a NOTE out of range, and ignored once STK_CTL.LOCK is set.
What the spec leaves open here is the model's choice: log entries 3, 22, 30. -/
def Obligations.shelvesArePagedAndConfigured : Prop :=
  (
    ∀ s : State,
      let d := s.dev
      let k := d.stk
      let low := fld k.pageCfg 0 12
      let high := fld k.pageCfg 12 12
      (k.bgRun = false → low ≤ d.freeShelves → exec .pageOut s = .next s) ∧
      (∀ e, d.freeShelves < low → low < high → k.xfers = [] → k.slotsFree ≠ [] →
        bestBy (colder d.tim.ticks) (k.shelves.filter fun e => d.spillable e && decide (0 < d.poolRoom e.session)) = some e →
        ∃ t rest, exec .pageOut s = .next t ∧ (∃ slot ∈ k.slotsFree, t.dev.stk.xfers =
            { inward := false, session := e.session, idx := e.idx, handle := e.handle, requester := .none_, slot, started := true } :: rest) ∧
          rest.length < high - d.freeShelves ∧ (∀ x ∈ rest, x.inward = false) ∧
          t = { s with dev := { d with freeCtr := t.dev.freeCtr, stk := { k with xfers := t.dev.stk.xfers, bgRun := true } } }) ∧
      (∀ (n : BitVec 12) (i : BitVec 27) (r : Requester) (e : ShelfEntry) (slot p : Nat), k.entry? n.toNat i.toNat = some e →
        e.place = .paged slot → k.xfers = [] → d.takeShelves 1 = [p] →
        exec (.pageIn n i r) s = .next (s.onDev fun d => { d with stk := { k with xfers :=
          [{ inward := true, session := n.toNat, idx := i.toNat, handle := e.handle, requester := r, started := true, shelf := p }] } })) ∧
      (∀ x e, k.xfers = [x] → x.started = true → k.entry? x.session x.idx = some e → e.handle = x.handle → k.bgRun = false →
        (∀ q ∈ k.pool, q.2.withdrawing = none) →
        let ends := fun (place : Place) (r : State → Prop) => ∃ t, exec (.shelfTransferDone 0 .done) s = .next t ∧
          t.dev.stk.xfers = [] ∧ (x.session, x.idx) ∉ t.dev.stk.tlb ∧ (∃ f, t.dev.stk.entry? x.session x.idx = some f ∧ f.place = place ∧
            f.handle = e.handle ∧ f.spill = e.spill ∧ (x.inward = true → f.acc = true ∧ f.since = d.tim.ticks)) ∧
          t = { s with mem := t.mem, dev := { d with host := t.dev.host, stk := { k with
            xfers := [], shelves := t.dev.stk.shelves, tlb := t.dev.stk.tlb, pageIns := t.dev.stk.pageIns, pageOuts := t.dev.stk.pageOuts } } } ∧ r t
        (∀ slot, x.inward = true → x.requester = .none_ → e.place = .paged slot →
          s.mem.lostAt (x.shelf * shelfBytes) shelfBytes = false → ends (.resident x.shelf) fun t => t.dev.host = d.host ∧
            t.mem.cellarGet (x.shelf * shelfBytes) shelfBytes = Tbl.getRun 0 s.mem.pool (k.slotAddr slot) shelfBytes ∧
            (∀ a, a < x.shelf * shelfBytes ∨ (x.shelf + 1) * shelfBytes ≤ a → Tbl.get 0 t.mem.cellar a = Tbl.get 0 s.mem.cellar a) ∧
            t.mem.loft = s.mem.loft) ∧
        (∀ p, x.inward = false → x.forAlloc = false → e.place = .resident p → d.pinned e = false → d.cel.mig = none →
          s.mem.poisoned (p * shelfBytes) shelfBytes = false → s.mem.fixable (p * shelfBytes) shelfBytes = [] →
          ends (.paged x.slot) fun t =>
            let b := s.mem.cellarGet (p * shelfBytes) shelfBytes
            t.dev.host = (d.hostWrite (k.slotAddr x.slot) b).host ∧ Tbl.getRun 0 t.mem.pool (k.slotAddr x.slot) shelfBytes = b ∧
            t.mem = { s.mem with pool := t.mem.pool })) ∧
      ∃ t, exec .ageingSweep s = .next t ∧ t = { s with dev := { d with stk := { k with shelves := t.dev.stk.shelves, tlb := t.dev.stk.tlb } } } ∧
        (∀ p ∈ t.dev.stk.tlb, p ∈ k.tlb) ∧ t.dev.stk.shelves = k.shelves.map fun e => { e with acc := false }) ∧
  (
    ∀ (s : State) (v : BitVec 32), s.dev.served = true → s.dev.rel.queue.length < 64 →
      let k := s.dev.stk
      let noted := fun (i : Instr) (st : Status) => ∃ t r, exec i s = .next t ∧ t = { s with dev := { s.dev with rel := t.dev.rel } } ∧
        t.dev.rel.queue = s.dev.rel.queue ++ [r] ∧ r.code = st.code ∧ r.sev = 0 ∧ r.domain = domDevice ∧ r.src = 0x82
      let takes := fun (i : Instr) (k' : Stk) => exec i s = .next (s.onDev fun d => { d with stk := k' })
      (bit k.ctl 31 = true → ∀ tt, exec (.stkPoolCfgWrite tt v) s = .next s) ∧
      (bit k.ctl 31 = false → s.dev.othersOpen = true → ∀ tt, noted (.stkPoolCfgWrite tt v) .cfgLocked) ∧
      (bit k.ctl 31 = false → s.dev.othersOpen = false →
        (fld v 0 16 < 16 ∨ 1024 < fld v 0 16 → noted (.stkPoolCfgWrite true v) .cfgRange) ∧
        (16 ≤ fld v 0 16 → fld v 0 16 ≤ 1024 → s.dev.crosses s.dev.progPages s.dev.ctxPages (fld v 0 16) = false →
          takes (.stkPoolCfgWrite true v) { k with ttCfg := v &&& 0xFFFF }) ∧
        (16 ≤ fld v 0 10 → fld v 0 10 ≤ 512 → 16 ≤ fld v 16 10 → fld v 16 10 ≤ 512 →
          s.dev.crosses (fld v 0 10) (fld v 16 10) s.dev.ttShelves = false →
          takes (.stkPoolCfgWrite false v) { k with poolCfg := v &&& 0x03FF03FF })) ∧
      (fld v 0 12 < fld v 12 12 → 4 ≤ fld v 24 7 → fld v 24 7 ≤ 64 →
        takes (.stkPageCfgWrite v) { k with pageCfg := v &&& 0x7FFFFFFF }) ∧
      (fld v 12 12 ≤ fld v 0 12 ∨ fld v 24 7 < 4 ∨ 64 < fld v 24 7 → noted (.stkPageCfgWrite v) .cfgRange) ∧
      (s.dev.rel.devFault = false → takes .lock { k with ctl := setBit k.ctl 31 true }))

/-- R188, R575, R576, R186, R190: RUN joins the scheduler's queue; a start takes the first Crate in order that can start and puts a copy at its entry on the SPU of the lowest load.
R187, R189: ageing moves an ordered Crate one class up, never above 4; a gang that has waited more than 100 µs and cannot start gets the hold.
What the spec leaves open here is the model's choice: log entries 11, 32. -/
def Obligations.runsAreScheduled : Prop :=
  (
    ∀ (s : State) (c : Live),
      (∀ uid, s.dev.starts uid 1 = some c → ∃ t, exec (.run uid) s = .next t ∧
        t = { s with dev := { s.dev with hlk := { s.dev.hlk with live := t.dev.hlk.live } } } ∧
        t.dev.live? uid = some { c with phase := .queued s.dev.tim.ticks }) ∧
      (∀ k p, bestBy s.dev.before (s.dev.hlk.live.filter s.dev.canStart) = some c → s.dev.live? c.uid = some c → c.gang = false →
        s.dev.bestSpu c = some k → s.dev.program? c.session (c.num 32 4) = some p →
        let key := c.uid * 64 + c.started
        ∃ t i, exec .instanceStart s = .next t ∧
          t = { s with dev := { s.dev with hlk := { s.dev.hlk with live := t.dev.hlk.live }, stk := t.dev.stk, insts := t.dev.insts } } ∧
          Tbl.find? t.dev.insts key = some i ∧ (∀ n, n ≠ key → Tbl.find? t.dev.insts n = Tbl.find? s.dev.insts n) ∧
          (t.dev.spu k).runs = some key ∧ (∀ n, n ≠ k → t.dev.spu n = s.dev.spu n) ∧
          t.dev.live? c.uid = some { c with started := c.started + 1, phase := .active, hold := false } ∧
          i.uid = c.uid ∧ i.num = c.started ∧ i.session = c.session ∧ i.seat = .onSpu k ∧ i.regs.pc = p.entry ∧ i.regs.flags = 0 ∧
          i.regs.gs 0 = BitVec.ofNat 32 c.started ∧ i.regs.gs 1 = BitVec.ofNat 32 c.nspu ∧ i.regs.gs 2 = BitVec.ofNat 32 (c.num 40 4) ∧
          i.regs.gs 3 = BitVec.ofNat 32 (c.num 44 4) ∧ i.regs.gs 4 = BitVec.ofNat 32 c.session ∧ i.regs.gs 5 = BitVec.ofNat 32 c.ngrant ∧
          (∀ n, 6 ≤ n → i.regs.gs n = 0) ∧ (∀ n l, i.regs.gc n l = {}) ∧ i.iq = [] ∧ i.oq = [])) ∧
  (
    ∀ (s : State) (uid : Nat) (c : Live), s.dev.live? uid = some c →
      let only := fun (i : Instr) (c' : Live) => ∃ t, exec i s = .next t ∧
        t = { s with dev := { s.dev with hlk := { s.dev.hlk with live := t.dev.hlk.live } } } ∧
        t.dev.live? uid = some c' ∧ ∀ n, n ≠ uid → t.dev.live? n = s.dev.live? n
      (s.dev.ordered c = true → 4 < c.cls → fld s.dev.stk.ctl 8 8 ≠ 0 → only (.crateAgeing uid) { c with cls := c.cls - 1 }) ∧
      (c.cls ≤ 4 → exec (.crateAgeing uid) s = .next s) ∧
      (∀ since, c.phase = .queued since → c.gang = true → s.dev.startable c = true → s.dev.canStart c = false →
        (204800 < (s.dev.tim.ticks - since).toNat → only (.gangHold uid) { c with hold := true }) ∧
        ((s.dev.tim.ticks - since).toNat ≤ 204800 → exec (.gangHold uid) s = .next s)))

/-- R192, R194 to R196: a more urgent Crate preempts a copy of a less urgent one: its context is saved, its SPU taken; a saved copy resumes on a free SPU where it stopped.
R205, R206, R806: an idle SPU retires at once, one that runs a copy once the copy has resumed elsewhere: it leaves the schedulable set, the lowest spare joins it, and SPUMAP is rewritten; an instance beyond 67 is rejected.
What the spec leaves open here is the model's choice: log entries 31, 32, 33. -/
def Obligations.copiesArePreemptedAndSpusRetire : Prop :=
  (
    ∀ (s : State) (key k : Nat) (i : Inst) (c v : Live), Tbl.find? s.dev.insts key = some i → i.uid = v.uid → s.dev.live? v.uid = some v →
      v.gang = false → (∀ n, (s.dev.spu n).retireWait = false) →
      (s.dev.insts = [(key, i)] → i.seat = .onSpu k → k < 68 → i.issue = none → i.halted = false → (s.dev.spu k).runs = some key →
        bit s.dev.stk.ctl 3 = true → (s.dev.spu k).retired = false → (s.dev.spu k).spare = false → s.dev.freeSpus = [] →
        s.dev.hlk.live = [v, c] → c.uid ≠ v.uid → c.isQueued = true → s.dev.waitsForSpu c = true → c.gang = false → c.cls < v.cls →
        v.phase = .active → c.cls ≤ fld s.dev.stk.ctl 0 3 → 0 < s.dev.spuRoom c.session → c.started = 0 → v.hold = false → c.hold = false →
        s.dev.waitsForSpu v = false → s.dev.ctxNeed i ≤ s.dev.ctxCapacity → key ≠ c.uid * 64 →
        ∃ t slots, exec .preemption s = .next t ∧ t.mem = s.mem ∧
          Tbl.find? t.dev.insts key = some { i with seat := .saved slots } ∧ slots.length = s.dev.ctxNeed i ∧
          (t.dev.spu k).runs = some (c.uid * 64) ∧
          t.dev.stk.preempts.toNat = min (s.dev.stk.preempts.toNat + 1) 0xFFFF ∧
          ∃ j, Tbl.find? t.dev.insts (c.uid * 64) = some j ∧ j.uid = c.uid) ∧
      (∀ slots n, i.seat = .saved slots → n = i.num → s.dev.rel.devFault = false → 0 < s.dev.spuRoom v.session →
        (∀ p ∈ s.dev.insts, p.2.uid = v.uid → p.2.num = i.num → p = (key, i)) → s.dev.insts.Nodup → s.dev.bestSpu v = some k →
        ∃ t, exec (.instanceResume v.uid n) s = .next t ∧
          t = { s with dev := { s.dev with insts := t.dev.insts, stk := t.dev.stk } } ∧
          Tbl.find? t.dev.insts key = some { i with seat := .onSpu k } ∧ (t.dev.spu k).runs = some key ∧ (t.dev.spu k).heldFor = [] ∧
          ∀ n, n ≠ key → Tbl.find? t.dev.insts n = Tbl.find? s.dev.insts n)) ∧
  (
    ∀ (s : State) (k : BitVec 7), s.dev.served = true → s.dev.rel.devFault = false →
      (k.toNat < 68 → (s.dev.spu k.toNat).runs = none → (s.dev.spu k.toNat).retired = false → (s.dev.spu k.toNat).spare = false →
        (∀ c ∈ s.dev.hlk.live, c.isRun = false) →
        ∃ t, exec (.stkSpuRetire k) s = .next t ∧
          t = { s with dev := { s.dev with stk := t.dev.stk, atc := { s.dev.atc with jobs := t.dev.atc.jobs } } } ∧
          (t.dev.spu k.toNat).retired = true ∧ t.dev.atc.jobs.length = s.dev.atc.jobs.length + 1 ∧
          (∀ j, j < 68 → j ≠ k.toNat → (s.dev.spu j).spare = true → (s.dev.spu j).retired = false →
            (∀ i, i < j → (s.dev.spu i).spare = true → (s.dev.spu i).retired = true) → (t.dev.spu j).spare = false) ∧
          (∀ j, j ≠ k.toNat → (s.dev.spu j).spare = false → t.dev.spu j = s.dev.spu j)) ∧
      -- R206: a running copy is saved and resumes on another free SPU, and the SPU retires
      (∀ key i c j, k.toNat < 68 → (s.dev.spu k.toNat).runs = some key → (s.dev.spu k.toNat).retireWait = false →
        (s.dev.spu k.toNat).spare = false → (s.dev.spu k.toNat).retired = false → Tbl.find? s.dev.insts key = some i →
        i.seat = .onSpu k.toNat → i.issue = none → i.halted = false → s.dev.live? i.uid = some c → c.gang = false →
        s.dev.ctxUsed = [] → s.dev.ctxNeed i ≤ s.dev.ctxCapacity → s.dev.bestSpu c = some j → (∀ o ∈ s.dev.hlk.live, o.started ≠ 0) →
        ∃ t, exec (.stkSpuRetire k) s = .next t ∧ t.mem = s.mem ∧ t.dev.hlk = s.dev.hlk ∧ (t.dev.spu k.toNat).retired = true ∧
          (t.dev.spu k.toNat).runs = none ∧ (t.dev.spu j).runs = some key ∧ Tbl.find? t.dev.insts key = some { i with seat := .onSpu j } ∧
          t.dev.stk.preempts.toNat = min (s.dev.stk.preempts.toNat + 1) 0xFFFF ∧
          ∀ n, n ≠ key → Tbl.find? t.dev.insts n = Tbl.find? s.dev.insts n) ∧
      (68 ≤ k.toNat → s.dev.rel.queue.length < 64 → ∃ t r, exec (.stkSpuRetire k) s = .next t ∧
        t = { s with dev := { s.dev with rel := t.dev.rel } } ∧ t.dev.rel.queue = s.dev.rel.queue ++ [r] ∧
        r.code = Status.cfgRange.code ∧ r.sev = 0))

/-- R217, R227, R249, R253, R255, R261, R262, R294, R705: a port starts, waits for its PLL, aligns, accepts one SYSREF edge, and runs from its first release; EN 0 makes it idle, RELINK starts over from LANE_SYNC; without sound lanes enough it falls into FAULT.
R256, R262, R235, R261, R705: a lost realignment with SR_MODE 1, a realignment with SR_MODE 2, a timed-out start, and a lost PLL lock.
R218 to R220, R224 to R228, R280: a lane that loses its alignment, or delivers too many bad blocks, has failed and is reported; the spare acquires in its place, the code on the spare-select line names the lane, and the traffic moves to the spare once it holds its alignment, in a swap once the copy is verified.
What the spec leaves open here is the model's choice: log entries 41, 42. -/
def Obligations.portsRunAndReportTroubles : Prop :=
  (
    ∀ (s : State) (p : Fin 4),
      let g := s.dev.port p
      let leads := fun (c : Instr) (q : Ing → Prop) => ∃ t, exec c s = .next t ∧ PortOnly p s t ∧ q (t.dev.port p)
      let single := s.dev.upperPort p = false ∧ s.dev.upperPort (p + 1) = false
      -- the lanes a port needs, none of them retired
      let fits := fun (q : Nat) (m : List Nat) => (∀ k, s.dev.link? q = some k → (if (s.dev.port q).fallen then k.l / 2 else k.l) ≤ m.length) ∧
        ∀ x ∈ m, ((s.dev.port q).lane x).retired = false
      (∀ k, s.dev.served = true → s.dev.rel.devFault = false → g.st = .idle → s.dev.link? p = some k → (s.dev.unit p).shadow = [] →
        (s.dev.upperPort (p + 1) = true → ∀ v, (s.dev.unit v).shadow = []) → g.adcDone = true → fits p (s.dev.startMap p) →
        ∃ t, exec (.en p true) s = .next t ∧ t.mem = s.mem ∧ (∀ v, t.dev.unit v = s.dev.unit v) ∧ (∀ q, q ≠ p.val → t.dev.port q = s.dev.port q) ∧
          (t.dev.port p).en = true ∧
          (t.dev.port p).st = (if s.dev.upperPort p = true ∧ (s.dev.port (p.val - 1)).pllLock = true then .laneSync else .pllWait) ∧
          (t.dev.port p).n = 0 ∧ (t.dev.port p).beat = 0 ∧ (t.dev.port p).srSeen = false ∧ (t.dev.port p).map = s.dev.startMap p) ∧
      (s.dev.served = true → s.dev.rel.devFault = false → g.st = .idle → s.dev.link? p = none → (s.dev.unit p).shadow = [] →
        (s.dev.upperPort (p + 1) = true → ∀ v, (s.dev.unit v).shadow = []) → s.dev.rel.queue.length < 64 →
        ∃ t, exec (.en p true) s = .next t ∧ (t.dev.port p).en = false ∧ (t.dev.port p).st = .idle ∧
          OneRecord s t .cfgRange 0 (s.dev.portDom p)) ∧
      (s.dev.served = true → g.emits = false → s.dev.upperPort (p + 1) = false → leads (.en p false) fun h =>
        h.en = false ∧ h.st = .idle ∧ h.srSeen = false ∧ h.pllLock = false) ∧
      (s.dev.served = true → g.emits = false → s.dev.upperPort (p + 1) = true → (s.dev.port (p.val + 1)).emits = false →
        ∃ t, exec (.en p false) s = .next t ∧ t.mem = s.mem ∧ (t.dev.port p).en = false ∧ (t.dev.port p).st = .idle ∧
          t.dev.port (p.val + 1) = { s.dev.port (p.val + 1) with pllLock := false }) ∧
      (s.dev.upperPort p = true → exec (.pllLock p) s = .next s) ∧
      (s.dev.upperPort p = false → s.dev.upperPort (p + 1) = true → (∀ q, fits q (s.dev.port q).map) →
        ∃ t, exec (.pllLock p) s = .next t ∧ t.mem = s.mem ∧ t.dev.rel = s.dev.rel ∧
          (∀ q, q ≠ p.val → q ≠ p.val + 1 → t.dev.port q = s.dev.port q) ∧
          ∀ q, q = p.val ∨ q = p.val + 1 → (s.dev.port q).st = .pllWait → (s.dev.port q).en = true →
            (t.dev.port q).st = .laneSync ∧ (t.dev.port q).pllLock = true ∧ (t.dev.port q).map = (s.dev.port q).map) ∧
      (g.st = .pllWait → g.en = true → single → fits p g.map → leads (.pllLock p) fun h => h.pllLock = true ∧ h.st = .laneSync ∧
        h.map = g.map ∧ ∀ q ∈ g.map, (h.lane q).cal = 1 ∧ (h.lane q).cdr = false ∧ (h.lane q).bsync = false) ∧
      (∀ q k, g.st = .pllWait → single → q ∈ g.map → (g.lane q).retired = true → s.dev.link? p = some k → k.fb = false →
        ∃ t, exec (.pllLock p) s = .next t ∧ (t.dev.port p).st = .fault ∧ bit (t.dev.port p).err 6 = true) ∧
      (g.st = .laneSync → g.synced = true → leads (.embAlignment p) fun h => h = { g with st := .embAlign }) ∧
      (g.st = .embAlign → g.synced = true → g.aligned = true → leads (.embAlignment p) fun h => h = { g with st := .sysrefWait }) ∧
      (g.synced = false ∨ g.st = .embAlign ∧ g.aligned = false → exec (.embAlignment p) s = .next s) ∧
      -- the first block of an extended multiblock gives its lane alignment and ARRIVAL, and fills the empty buffer
      (∀ k (b : LaneBlock) (q : Fin 9), s.dev.link? p = some k → single → (g.st = .laneSync ∨ g.st = .embAlign) → b.lane.val = q.val →
        b.embStart = true → b.crcBad = none → (g.lane q).cdr = true → (g.lane q).bsync = true → (g.lane q).idx = none →
        leads (.beatRelease p [b]) fun h => h.st = g.st ∧ h.map = g.map ∧ (h.lane q).emb = true ∧
          (h.lane q).arrival = BitVec.ofNat 12 (g.lemcBeat k) ∧ (h.lane q).idx = some (g.embNow k * (256 * k.e) + 8) ∧
          (h.lane q).buf = (List.range 8).map (fun i => .data (byteAt b.octets (7 - i)) false) ∧ ∀ x, x ≠ q.val → h.lane x = g.lane x) ∧
      -- an edge that the port samples late enough, and whether a sample SR_WIN steps off disagrees
      (∀ k (lead : BitVec 8), g.st = .sysrefWait → g.srSeen = false → single → s.dev.link? p = some k → k.bond = false →
        let at_ := fun step : Int => decide (0 ≤ lead.toInt + step + (s.dev.srDly p : Int))
        let win : Int := s.dev.srWin p
        let margin := g.srMargin || at_ (-win) != at_ 0 || at_ win != at_ 0
        (at_ 0 = true → leads (.sysrefEdge p lead) fun h =>
          h = { g with srMargin := margin, srSeen := true, beat := 0, emb0 := 0, lanes := h.lanes } ∧
            ∀ q, (h.lane q).buf = [] ∧ (h.lane q).idx = none ∧ (h.lane q).emb = (g.lane q).emb) ∧
        (at_ 0 = false → leads (.sysrefEdge p lead) fun h => h = { g with srMargin := margin })) ∧
      (∀ k, g.st = .sysrefWait → g.srSeen = true → g.synced = true → g.aligned = true → s.dev.link? p = some k → g.beat = s.dev.release p →
        s.dev.methodOf p ≠ 2 → g.fallen = false → leads (.firstRelease p) fun h =>
          h = { g with st := .run, relink := false, frozen := false, out := g.emb0 * (256 * k.e), stream := [] }) ∧
      (s.dev.served = true → s.dev.rel.devFault = false → g.st = .fault → fits p g.map → leads (.relink p) fun h => h.st = .laneSync ∧
        h.relink = true ∧ h.srSeen = false)) ∧
  (
    ∀ (s : State) (p : Fin 4), s.dev.rel.queue.length < 64 →
      let g := s.dev.port p
      let single := s.dev.upperPort p = false ∧ s.dev.upperPort (p + 1) = false
      (∀ k (lead : BitVec 8), g.st = .run → g.srSeen = true → g.beat ≠ 0 → single → s.dev.link? p = some k → k.bond = false →
        0 ≤ lead.toInt + (s.dev.srDly p : Int) → s.dev.srWin p = 0 →
        (s.dev.srMode p = 1 → ∃ t, exec (.sysrefEdge p lead) s = .next t ∧ PortOnly p s t ∧ OneRecord s t .ok 0 (s.dev.portDom p) ∧
          t.dev.port p = { g with srSlip := true }) ∧
        (s.dev.srMode p = 2 → g.swap = none → ∃ t, exec (.sysrefEdge p lead) s = .next t ∧ PortOnly p s t ∧ t.dev.rel = s.dev.rel ∧
          (t.dev.port p).beat = 0 ∧ (t.dev.port p).st = .run ∧ (t.dev.port p).map = g.map ∧
          -- the nearest expected beat: beats whose samples are repeated or lost
          (t.dev.port p).gapBeats = g.gapBeats + (if s.dev.pSync p < 2 * g.beat then s.dev.pSync p - g.beat else g.beat))) ∧
      (g.st = .pllWait ∨ g.st = .laneSync ∨ g.st = .embAlign ∨ g.st = .sysrefWait →
        ∃ t, exec (.portStateTimeout p) s = .next t ∧ PortOnly p s t ∧ t.dev.port p = { g with err := setBit g.err 7 true } ∧
          (bit g.err 7 = false → OneRecord s t .ok 0 (s.dev.portDom p)) ∧ (bit g.err 7 = true → t.dev.rel = s.dev.rel)) ∧
      (s.dev.upperPort p = true → exec (.pllLockLost p) s = .next s) ∧
      (s.dev.upperPort p = false → s.dev.upperPort (p + 1) = true → ∃ t, exec (.pllLockLost p) s = .next t ∧
        ∀ q, q = p.val ∨ q = p.val + 1 → (t.dev.port q).pllLock = false ∧
          (t.dev.port q).st = if (s.dev.port q).emits then .fault else (s.dev.port q).st) ∧
      (g.emits = true → single → (∀ b, (s.dev.barrel b).armed = false) →
        ∃ t, exec (.pllLockLost p) s = .next t ∧ t.mem = s.mem ∧ (t.dev.port p).st = .fault ∧ (t.dev.port p).pllLock = false ∧
          bit (t.dev.port p).err 6 = true ∧ OneRecord s t .portDown 2 (s.dev.portDom p)) ∧
      (g.emits = false → single → ∃ t, exec (.pllLockLost p) s = .next t ∧ PortOnly p s t ∧ t.dev.port p = { g with pllLock := false })) ∧
  (
    ∀ (s : State) (p : Fin 4) (k : Link), (s.dev.port p).emits = true → s.dev.link? p = some k →
      let g := s.dev.port p
      (∀ (q : Fin 9) (j sp : Nat), g.swap = none → g.sparePerm = false → g.map.idxOf? q.val = some j → g.map.Nodup →
        s.dev.spare? p = some sp → g.spareFor = none → sp ∉ g.map → sp ≠ q.val →
        (∀ lost : Bool, (lost = true ∨ (g.lane q).failing k = true) → s.dev.usableSpare p = true → bit g.err 0 = false →
          s.dev.rel.queue.length < 64 → (∀ k ∈ g.map, k ≠ q.val → (g.lane k).failed = false) →
          ∃ t, exec (.laneFail p q lost) s = .next t ∧ PortOnly p s t ∧ ((t.dev.port p).lane q).failed = true ∧
            ((t.dev.port p).lane sp).cal = 1 ∧ (t.dev.port p).code = BitVec.ofNat 4 j ∧ (t.dev.port p).verified = false ∧
            (t.dev.port p).map = g.map ∧ bit (t.dev.port p).err 0 = true ∧ OneRecord s t .ok 2 (s.dev.portDom p) ∧
            (g.code ≠ BitVec.ofNat 4 j → fld (t.dev.port p).frame 1 4 = j % 16)) ∧
        ((g.lane q).failing k = false → exec (.laneFail p q false) s = .next s) ∧
        (g.failedLanes = [j] → (g.lane sp).spareHolds k = true →
          ∃ t, exec (.spareSwitch p) s = .next t ∧ PortOnly p s t ∧ (t.dev.port p).map = g.map.set j sp ∧
            (t.dev.port p).spareFor = some j ∧ (t.dev.port p).verified = true ∧
            (t.dev.port p).swaps.toNat = min (g.swaps.toNat + 1) 0xFFFF ∧ ((t.dev.port p).lane q).failed = false ∧
            ((t.dev.port p).lane q).cal = 3) ∧
        (g.failedLanes = [j] → (g.lane sp).spareHolds k = false → exec (.spareSwitch p) s = .next s)) ∧
      (s.dev.spselEn p = true → ∃ t, exec (.spareSelectFrame p) s = .next t ∧ PortOnly p s t ∧
        t.dev.port p = { g with frame := (t.dev.port p).frame } ∧ fld (t.dev.port p).frame 1 4 = g.code.toNat ∧
        bit (t.dev.port p).frame 0 = false ∧ bit (t.dev.port p).frame 6 = true ∧ parity 5 (fld (t.dev.port p).frame 1 5) = true) ∧
      (∀ w, g.swap = some w → w.step = 4 →
        (g.copyVerified k = true → ∃ t, exec (.spareSwitch p) s = .next t ∧ PortOnly p s t ∧ t.dev.rel = s.dev.rel ∧
          (t.dev.port p).map = g.map.set w.j w.s ∧ (t.dev.port p).spareFor = some w.j ∧ (t.dev.port p).swap = some { w with step := 6 } ∧
          (t.dev.port p).swaps.toNat = min (g.swaps.toNat + 1) 0xFFFF ∧ ((t.dev.port p).lane w.p).cal = 3) ∧
        (g.copyVerified k = false → g.mirrorBad = true → bit g.err 4 = false → s.dev.rel.queue.length < 64 →
          ∃ t, exec (.spareSwitch p) s = .next t ∧ PortOnly p s t ∧ OneRecord s t .ok 0 (s.dev.portDom p) ∧
            t.dev.port p = { g with verified := false, mirrorBad := false, verifyFrom := g.out, err := setBit g.err 4 true }) ∧
        (g.copyVerified k = false → g.mirrorBad = false → exec (.spareSwitch p) s = .next s)))

/-- R240, R242, R255, R263: the first beat of a running port holds its samples until the next beat brings their neighbours; the stream index, the beat counter and the offset of the stamp go on.
R332, R334: a coarse round that is due restarts its clock count and delivers its header, the time of the beat in two cells, and the coarse power of the wideband path with its identity 0xFF, which ends the packet.
What the spec leaves open here is the model's choice: log entries 41, 44. -/
def Obligations.beatsAndCoarseRoundsAreDelivered : Prop :=
  (
    ∀ (s : State) (p : Fin 4) (k : Link),
      let ready := fun g : Ing => g.emits = true ∧ g.relinking = false ∧ g.gapBeats = 0 ∧ 10 ≤ g.stream.length ∧
        ∀ w ∈ g.stream.take 10, w ≠ .missing ∧ w ≠ .overflow
      let g := s.dev.port p
      ready g → s.dev.upperPort p = false → s.dev.link? p = some k → (s.dev.unit p).shadow = [] → (s.dev.unit (0x08 + p)).shadow = [] →
      g.pend = [] → (k.bond = true → ready (s.dev.port (p.val + 1))) → s.dev.streamDown p = false → (∀ b, (s.dev.barrel b).writing = false) →
      let next := fun b : Nat => if s.dev.pSync p ≤ b + 1 then 0 else b + 1
      ∃ t, exec (.beatRelease p []) s = .next t ∧ t.mem = s.mem ∧ t.dev.rel = s.dev.rel ∧ t.dev.host = s.dev.host ∧
        (∀ q, q ≠ p.val → (k.bond = true → q ≠ p.val + 1) → t.dev.port q = s.dev.port q) ∧
        (k.bond = true → let h := s.dev.port (p.val + 1)
          t.dev.port (p.val + 1) = { h with ovr := (t.dev.port (p.val + 1)).ovr, stream := h.stream.drop 10,
                                            beat := (t.dev.port (p.val + 1)).beat, emb0 := (t.dev.port (p.val + 1)).emb0 }) ∧
        (t.dev.port p).st = g.st ∧ (t.dev.port p).stream = g.stream.drop 10 ∧ (t.dev.port p).pend.length = k.perBeat ∧
        (t.dev.port p).n = g.n + k.perBeat ∧ (t.dev.port p).beat = next g.beat ∧
        (t.dev.port p).tsOffset = g.tsNext ∧ (t.dev.port p).pendStamp = s.dev.stamp - g.tsNext.signExtend 72) ∧
  (
    ∀ (s : State) (p : Fin 4) (w : WbRec), (s.dev.port p).emits = true → s.dev.wbRec? p = some w → w.wbEn = true → w.nbEn = false →
      let c := cellOf ((s.dev.rec? (chnUnit p) 5).getD []) 0
      let g := s.dev.chan p
      let t0 := (s.dev.port p).pendStamp
      bit c 0 = true → fld c 1 16 ≤ g.clocks →
      let head := fun v : BitVec 36 => ({ cell := { data := v, tag := tagHeader }, time := t0 } : QCell)
      exec (.coarseRound p) s = .next (s.onDev fun d => (d.onChan p fun g => { g with clocks := 0 }).deliver p 2
        [head (BitVec.ofNat 36 t0.toNat), head (BitVec.ofNat 36 (t0.toNat / 2 ^ 36)),
         { cell := { data := BitVec.ofNat 36 (g.wb.lp.toNat * 2 ^ 18 + 0xFF), tag := g.wb.lpTag }, time := t0, eop := true }]))

/-- R268, R270, R273, R274, R276, R278, R279, R286: lane calibration: acquisition, a failed attempt, an in-place step, and what makes a lane due.
R280, R287, R288, R295, R296, R292, R294: swaps, eye scans, learned sets, SAVE, RETIRE and CLEAR.
What the spec leaves open here is the model's choice: log entries 3, 42, 63. -/
def Obligations.lanesAreCalibratedAndMaintained : Prop :=
  (
    ∀ (s : State) (p : Fin 4) (q : Fin 9),
      let g := s.dev.port p
      let x := g.lane q
      let leads := fun (c : Instr) (r : Ing → Prop) => ∃ t, exec c s = .next t ∧ PortOnly p s t ∧ r (t.dev.port p)
      (∀ (w : BitVec 64) (e : EyePoints), x.cal = 1 → x.retired = false → fld g.eyeCfg 0 8 ≤ scanW e → fld g.eyeCfg 8 8 ≤ scanH e →
        leads (.laneAcquisition p q w e) fun h => h.map = g.map ∧ (h.lane q).cdr = true ∧ (h.lane q).bsync = true ∧
          (h.lane q).attempts = 0 ∧ (h.lane q).cal = 0 ∧ (h.lane q).eyeW.toNat = scanW e ∧ (h.lane q).eyeH.toNat = scanH e ∧
          fld (h.lane q).trims 0 54 = fld w 0 54 ∧ bit (h.lane q).trims 63 = true ∧ ∀ k, k ≠ q.val → h.lane k = g.lane k) ∧
      (∀ (w : BitVec 64) (e : EyePoints), scanW e < fld g.eyeCfg 0 8 ∨ scanH e < fld g.eyeCfg 8 8 →
        exec (.laneAcquisition p q w e) s = .next s) ∧
      (x.cal = 1 → x.cdr = false → x.retired = false → x.attempts = 0 → g.emits = false → g.swap = none →
        leads (.attemptLimitExpiry p q) fun h => (h.lane q).attempts = 1 ∧ (h.lane q).cal = 1 ∧ ∀ k, k ≠ q.val → h.lane k = g.lane k) ∧
      (s.dev.method p = 0 → q.val ∈ g.map → fld x.trims 0 5 < 31 → leads (.inPlaceTrimStep p q 0 true) fun h =>
        fld (h.lane q).trims 0 5 = fld x.trims 0 5 + 1 ∧ fld (h.lane q).trims 5 59 = fld x.trims 5 59 ∧ ∀ k, k ≠ q.val → h.lane k = g.lane k) ∧
      -- R270: the temperature is the mean of input 16 + port of the housekeeping converter
      (g.swap = none → leads (.laneTemperatureUpdate p) fun h => h.temp = Tbl.get 0 s.dev.mon.temps (16 + p.val) ∧ h.map = g.map ∧
        ∀ k : Nat, k ∈ g.map → bit (h.lane k).due 2 = (bit (g.lane k).due 2 ||
          (decide (s.dev.method p = 1) && decide (g.tempStep.toNat ≤ (h.temp.toInt - (g.lane k).lastTemp.toInt).natAbs)))) ∧
      (∀ (j : Fin 8), g.map[j.val]? = some q.val →
        (g.swap = none → s.dev.method p = 1 →
          leads (.calibrationPeriod p j) fun h => bit (h.lane q).due 3 = true ∧ ∀ k, k ≠ q.val → h.lane k = g.lane k) ∧
        (s.dev.method p ≠ 1 → exec (.calibrationPeriod p j) s = .next s) ∧
        (s.dev.served = true → s.dev.rel.devFault = false →
          (g.swap = none → s.dev.method p = 1 → leads (.force p (BitVec.ofNat 4 j)) fun h => bit (h.lane q).due 1 = true ∧
            h.forceLane = BitVec.ofNat 4 j ∧ ∀ k, k ≠ q.val → h.lane k = g.lane k) ∧
          (g.swap ≠ none → g.forcePend = none → leads (.force p (BitVec.ofNat 4 j)) fun h =>
            h = { g with forceLane := BitVec.ofNat 4 j, forcePend := some j.val }) ∧
          (g.swap ≠ none → g.forcePend ≠ none → leads (.force p (BitVec.ofNat 4 j)) fun h =>
            h = { g with forceLane := BitVec.ofNat 4 j, dropped := h.dropped } ∧ h.dropped.toNat = min (g.dropped.toNat + 1) 0xFF)))) ∧
  (
    ∀ (s : State) (p : Fin 4) (q : Fin 9),
      let g := s.dev.port p
      let x := g.lane q
      (∀ j sp, g.swap = none → s.dev.method p = 1 → g.failedLanes = [] → g.spareFor = none → g.nextDue = some j → s.dev.spare? p = some sp →
        g.map[j]? = some q.val → ∃ t, exec (.spareSwap p) s = .next t ∧ PortOnly p s t ∧
          (t.dev.port p).swap = some { j, p := q, s := sp, step := 1 } ∧ (t.dev.port p).code = BitVec.ofNat 4 j ∧
          ((t.dev.port p).lane q).pre = x.trims) ∧
      (∀ e : EyePoints, fld g.eyeCfg 16 8 ≤ scanW e → fld g.eyeCfg 24 8 ≤ scanH e →
        ∃ t, exec (.eyeScan p q e) s = .next t ∧ PortOnly p s t ∧ (t.dev.port p).lane q =
            { x with eyeW := BitVec.ofNat 8 (scanW e), eyeH := BitVec.ofNat 8 (scanH e), scanTick := some s.dev.now } ∧ t.dev.rel = s.dev.rel) ∧
      -- each fall below a threshold is an event of its own
      (∀ e : EyePoints, g.emits = true → q.val ∈ g.map → scanW e < fld g.eyeCfg 16 8 → s.dev.rel.queue.length < 64 →
        (g.eyeAlarm = false ∨ x.scanTick = none ∨ fld g.eyeCfg 16 8 ≤ x.eyeW.toNat) →
        ∃ t, exec (.eyeScan p q e) s = .next t ∧ PortOnly p s t ∧ (t.dev.port p).eyeAlarm = true ∧ OneRecord s t .ok 1 (s.dev.portDom p)) ∧
      (q.val ∈ g.map → s.dev.method p = 0 → 20480000 ≤ (s.dev.tim.ticks - x.trimTick).toNat →
        ∃ t, exec (.learnedEntry p q) s = .next t ∧ PortOnly p s t ∧ ∀ (i : Nat) (a : Int), i < 5 → (s.anchors p)[i]? = some a →
          Tbl.find? ((t.dev.port p).lane q).learned (s.dev.band p * 5 + i) =
            if (g.temp.toInt - a).natAbs ≤ 20 then some (setFld x.trims 63 1 1) else Tbl.find? x.learned (s.dev.band p * 5 + i)) ∧
      (s.dev.served = true → s.dev.rel.devFault = false → g.saving = false →
        ∃ t b, exec (.save p) s = .next t ∧ t = { s with dev := { s.dev with ing := t.dev.ing, atc := { s.dev.atc with jobs := t.dev.atc.jobs } } } ∧
          (t.dev.port p).saving = true ∧ t.dev.atc.jobs = s.dev.atc.jobs ++ [(.calSave p, 2 + p.val, b)]) ∧
      (s.dev.served = true → g.st ≠ .idle → s.dev.rel.queue.length < 64 → ∀ c, c = .retire p (BitVec.ofNat 4 q) ∨ c = .clear p (BitVec.ofNat 4 q) →
        ∃ t, exec c s = .next t ∧ t = { s with dev := { s.dev with rel := t.dev.rel } } ∧ OneRecord s t .cfgLocked 0 (s.dev.portDom p)) ∧
      (s.dev.served = true → g.st = .idle → x.retired = false → s.dev.rel.queue.length < 64 →
        ∃ t, exec (.retire p (BitVec.ofNat 4 q)) s = .next t ∧ ((t.dev.port p).lane q).retired = true ∧
          OneRecord s t .linkDegraded 2 (s.dev.portDom p) ∧ t.dev.atc.jobs.length = s.dev.atc.jobs.length + 1) ∧
      (s.dev.served = true → g.st = .idle → x.retired = true →
        ∃ t, exec (.clear p (BitVec.ofNat 4 q)) s = .next t ∧ ((t.dev.port p).lane q).retired = false ∧ ((t.dev.port p).lane q).attempts = 0 ∧
          t.dev.rel = s.dev.rel ∧ t.dev.atc.jobs.length = s.dev.atc.jobs.length + 1))

/-- R333, R336, R369: a strobe reaches every channeliser and engine whose SMODE lets it: it holds its target until the sync sample, and with SMODE 1 is marked as the one shot; a channeliser that still holds one counts it as dropped. -/
def Obligations.strobesReachChannelisersAndEngines : Prop :=
  ∀ (s : State) (T : BitVec 72), ∃ t, exec (.syncStrobe T) s = .next t ∧
    t = { s with dev := { s.dev with chn := t.dev.chn, spe := t.dev.spe, rel := t.dev.rel } } ∧
    ∀ p : Fin 4,
      let g := s.dev.chan p
      let e := s.dev.eng p
      (g.smode = 0 → t.dev.chan p = g) ∧
      (g.smode ≠ 0 → g.strobe = none → t.dev.chan p = { g with strobe := some T, shot := decide (g.smode = 1) }) ∧
      (g.smode ≠ 0 → g.strobe.isSome = true → t.dev.chan p = { g with dropped := BitVec.ofNat 8 (min (g.dropped.toNat + 1) 255) }) ∧
      (e.smode = 0 → t.dev.eng p = e) ∧
      (e.smode ≠ 0 → e.strobe = none → t.dev.eng p = { e with strobe := some T, shot := decide (e.smode = 1) }) ∧
      (e.smode ≠ 0 → e.strobe.isSome = true → t.dev.eng p = { e with err := setBit e.err 5 true })

/-- R361, R362, R370: an engine emits its oldest complete window as a spectrum: its sequence number shows, the trigger unit takes it, and an enabled STORE output joins it into its bucket.
R353: a coefficient is stored at INDEX, where that names an entry, and INDEX counts on.
R385 to R387: the oldest spectra of a pair join the open group where their times match within half a hop; otherwise the earlier one is dropped and counted, saturating.
What the spec leaves open here is the model's choice: log entries 47, 49. -/
def Obligations.spectraAreEmittedAndPaired : Prop :=
  (
    ∀ (s : State) (p : Fin 4) (x : SpeDone) (rest : List SpeDone), (s.dev.eng p).done = x :: rest →
      let e := s.dev.eng p
      let sp := x.spectrum s.dev.freeCtr
      (∀ b ∈ sp.y, b.bad = false) → (s.dev.unit (denUnit p)).shadow = [] → (∀ i : Fin 4, s.dev.planeRec? p i = none) →
      s.dev.rec? (denUnit p) 2 = none → s.dev.paired p = false → s.dev.rec? (speUnit p) 4 = none →
      let emits := fun q : Spe => ∃ t, exec (.fullRateSpectrum p) s = .next t ∧
        t = { s with dev := { s.dev with spe := t.dev.spe, trg := t.dev.trg, units := t.dev.units, freeCtr := s.dev.freeCtr + 1 } } ∧
        (∀ u, t.dev.unit u = s.dev.unit u) ∧ t.dev.eng p = q ∧ (∀ k, k ≠ p.val → t.dev.eng k = s.dev.eng k) ∧
        t.dev.trig p = { s.dev.trig p with specs := (s.dev.trig p).specs ++ [sp] } ∧ ∀ k, k ≠ p.val → t.dev.trig k = s.dev.trig k
      (s.dev.rec? (speUnit p) 3 = none → emits { e with done := rest, lastSeq := x.win.seq }) ∧
      (∀ c, s.dev.rec? (speUnit p) 3 = some c → (StoreRec.of c).en = true → e.bucket.n ≠ 0 → e.bucket.n + 1 < (StoreRec.of c).kt →
        emits { e with done := rest, lastSeq := x.win.seq, bucket := (StoreRec.of c).take e.bucket sp })) ∧
  (
    ∀ (s : State) (p : Fin 4) (v : BitVec 18), s.dev.served = true →
      let e := s.dev.eng p
      ∃ t, exec (.speWinData p v) s = .next t ∧ t = { s with dev := { s.dev with spe := t.dev.spe } } ∧
        (∀ k, k ≠ p.val → t.dev.eng k = s.dev.eng k) ∧ t.dev.eng p = { e with winShadow := (t.dev.eng p).winShadow, winPtr := e.winPtr + 1 } ∧
        ∀ k, Tbl.get 0 (t.dev.eng p).winShadow k = if k = e.winPtr.toNat ∧ k ≤ 32768 then v else Tbl.get 0 e.winShadow k) ∧
  (
    ∀ (s : State) (i : Fin 6) (a b : XSpec) (lo hi : List XSpec) (c : List (BitVec 36)) (r : Frac),
      let y := s.dev.xpair i
      let x := PairRec.of c
      let p := (pairEngines i).1
      let f := s.dev.frame p
      let apart := (stampDiff a.time b.time).natAbs * 2 * r.1
      let half := f.h (s.dev.realInput p f.insel) * 524288000 * r.2
      y.lo = a :: lo → y.hi = b :: hi → s.dev.rec? xspUnit 1 i = some c → s.dev.sampleRate p f.insel = some r →
      let leads := fun z : XPair => ∃ t, exec (.crossSpectrumMatch i) s = .next t ∧ t = { s with dev := { s.dev with xsp := t.dev.xsp } } ∧
        t.dev.xsp = { s.dev.xsp with pairs := t.dev.xsp.pairs } ∧ t.dev.xpair i = z ∧ ∀ k, k ≠ i.val → t.dev.xpair k = s.dev.xpair k
      (apart < half → y.n + 1 < x.k → leads { y.join x a b with lo, hi }) ∧
      (half ≤ apart → stampDiff a.time b.time < 0 → leads { y with lo, unpaired := BitVec.ofNat 16 (min (y.unpaired.toNat + 1) 65535) }) ∧
      (half ≤ apart → 0 ≤ stampDiff a.time b.time → leads { y with hi, unpaired := BitVec.ofNat 16 (min (y.unpaired.toNat + 1) 65535) }))

/-- R424, R425, R427, R432: at a sample a forced trigger is issued, even in hold-off; a rise of stage A issues a trigger and starts the hold-off, or waits as the pending one while a hold-off runs.
R395, R399: the combiner takes the next beat of its port, in order; an idle unit evaluates nothing, but its timeline goes on.
What the spec leaves open here is the model's choice: log entry 50. -/
def Obligations.theCombinerIssuesTriggers : Prop :=
  (
    ∀ (d : Dev) (p : Nat) (u : UnitRec) (b : Beat) (time : Stamp) (v : BitVec 8), u.seq = false → b.t.results = [] → b.issued = none → b.t.pend = none →
      (∀ c, c < 8 → bit v c = (b.t.cond c).value) →
      let rises := b.t.first = false ∧ b.t.stA = false ∧ d.termBits p v &&& u.aMask ≠ 0
      let r := fun force => d.combineSample p u b time force
      (∀ force, (r force).t.n = b.t.n + 1 ∧ (r force).t.terms = d.termBits p v ∧ (r force).t.first = false) ∧
      (b.t.hold = none →
        ((r true).issued = some { n := b.t.n, time, forced := true, ign := b.t.dropped } ∧ (r true).t.dropped = 0 ∧ (r true).t.hold = none ∧
          (13, time) ∈ (r true).evs) ∧
        (rises → (r false).issued = some { n := b.t.n, time, ign := b.t.dropped } ∧ (13, time) ∈ (r false).evs ∧
          (r false).t.hold = if u.hMode = 0 then none else some { mode := u.hMode, last := b.t.n + u.hold, ev := u.hev, need := u.hold }) ∧
        (¬ rises → (r false).issued = none ∧ (r false).t.pend = none)) ∧
      ∀ h, b.t.hold = some h → h.exceeds = false → h.mode = 1 → b.t.n ≤ h.last →
        (r true).issued = some { n := b.t.n, time, forced := true, ign := b.t.dropped } ∧ (r true).t.hold = some h ∧
        (rises → (r false).issued = none ∧ (r false).t.pend = some { n := b.t.n, time } ∧ (r false).t.hold = some h)) ∧
  (
    ∀ (s : State) (p : Fin 4) (k : Link) (cells : List QCell) (rest : List (List QCell)), s.dev.link? p = some k →
      let g := s.dev.trig p
      g.beats = cells :: rest → g.specs = [] → (s.dev.unit (trgUnit p)).shadow = [] → (s.dev.eng p).done = [] →
      ∃ t, exec (.triggerCombine p) s = .next t ∧ (∀ q, q ≠ p.val → t.dev.trig q = s.dev.trig q) ∧ (t.dev.trig p).beats = rest ∧
        (t.dev.trig p).n = g.n + (if k.cplx then cells.length else 2 * cells.length) ∧ (t.dev.trig p).specs = [] ∧
        ((s.dev.unitRec p).en = true → (t.dev.trig p).force = false) ∧
        ((s.dev.unitRec p).en = false → t.mem = s.mem ∧ t.dev.raised = s.dev.raised ∧ (t.dev.trig p).num = g.num ∧ (t.dev.trig p).cnt = g.cnt))

/-- R418, R420, R421: a level of a trigger input, or of the instrument line outside its blanking, that has held for its filter is accepted by the conditions on it, and reaches the combiner with the time of the change less two ticks.
R415, R426, R430: a timeout whose time has run fires once; a window past its last sample closes; a hold-off that has run ends, with its event.
R427, R408, R437, R439, R419, R35: FORCE, CLR_PEND, TRG_MASK_DATA, the scheduled start of an output pulse and its end, and the end of a pull of the instrument line.
What the spec leaves open here is the model's choice: log entries 3, 50. -/
def Obligations.triggerPinsTimersAndControlsTakeEffect : Prop :=
  (
    ∀ (s : State) (held : BitVec 16),
      let frame := fun t : State => t = { s with dev := { s.dev with trg := t.dev.trg, rel := t.dev.rel, instr := t.dev.instr } }
      let start := s.dev.now - BitVec.ofNat 64 held.toNat + 1
      let sent := fun (t : State) (p c : Nat) (time : Stamp) => ∃ r ∈ (t.dev.trig p).results, r.cond = c ∧ r.time = time ∧ r.level = false ∧ r.value = true
      (∀ (pin : Fin 3) (level : Bool), ∃ t, exec (.externalInputEdge pin level held) s = .next t ∧ frame t ∧ t.dev.instr = { s.dev.instr with pins := setBit s.dev.instr.pins pin level } ∧
        ∀ p c, p < 4 → c < 8 →
          let r := s.dev.condRec p c
          let x := (s.dev.trig p).cond c
          let accepts := r.typ = 7 ∧ r.pin = pin.val ∧ x.pin ≠ level ∧ (if r.compat then 41 else r.filt + 1) ≤ held.toNat
          (accepts → ((t.dev.trig p).cond c).pin = level ∧
            ((s.dev.port p).emits = true → r.mode = 2 → r.compat = false → sent t p c (stampOf (start - 2))) ∧
            ((s.dev.port p).emits = true → r.mode = 0 → level = true → sent t p c (stampOf (start - 2)))) ∧
          (¬ accepts → (t.dev.trig p).cond c = x)) ∧
      ∀ low : Bool,
        let w := s.dev.instr
        let compat := bit w.force 31
        w.low ≠ low → (if compat then 41 else fld w.cfg 12 8 + 1) ≤ held.toNat →
        ((low = true → ∀ b, w.began = some b → (if compat then 4096 else fld w.force 20 11 * 4) ≤ (start - b).toNat) →
          ∃ t, exec (.instrAssertion low held) s = .next t ∧ frame t ∧ t.dev.instr = { w with low } ∧
            (low = true → ∀ p c, p < 4 → c < 8 → (s.dev.condRec p c).typ = 8 → (s.dev.condRec p c).mode ≠ 3 → (s.dev.port p).emits = true →
              sent t p c (stampOf (start - 2)))) ∧
        (∀ b, low = true → w.began = some b → (start - b).toNat < (if compat then 4096 else fld w.force 20 11 * 4) →
          exec (.instrAssertion low held) s = .next s)) ∧
  (
    ∀ (s : State) (p : Fin 4),
      let g := s.dev.trig p
      let only := fun (t : State) => t = { s with dev := { s.dev with trg := t.dev.trg, raised := t.dev.raised } } ∧
        ∀ k, k ≠ p.val → t.dev.trig k = s.dev.trig k
      (∀ (c : Fin 8) (k : Nat),
        let r := s.dev.condRec p c
        let x := g.cond c
        r.typ = 5 → x.crossed = some k →
        (k + r.w1 ≤ (g.env r.env).n → r.mode = 2 → ∃ t, exec (.timeoutCondition p c) s = .next t ∧ only t ∧ t.dev.raised = s.dev.raised ∧
          (t.dev.trig p).cond c = { x with crossed := none } ∧
          t.dev.trig p = { g with conds := (t.dev.trig p).conds
                                  results := g.results ++ [{ cond := c, time := (g.env r.env).last, level := false, value := true }] }) ∧
        ((g.env r.env).n < k + r.w1 → ∃ t, exec (.timeoutCondition p c) s = .next t ∧ only t ∧ t.dev.raised = s.dev.raised ∧ t.dev.trig p = g)) ∧
      (∀ a, g.window = some a → ∃ t, exec (.sequencerWindowExpiry p) s = .next t ∧ only t ∧ t.dev.raised = s.dev.raised ∧
        t.dev.trig p = { g with window := if g.n ≤ a + (s.dev.unitRec p).win then some a else none }) ∧
      ∀ h x, g.hold = some h → g.lastTime = some x →
        (h.mode = 1 ∧ h.last < g.n ∨ h.mode = 2 ∧ h.need ≤ h.count → ∃ t, exec (.holdoffEnd p) s = .next t ∧ only t ∧
          t.dev.trig p = { g with hold := none } ∧ t.dev.raised = s.dev.raised ++ [{ id := BitVec.ofNat 12 (p * 16 + 14), time := x }]) ∧
        (¬ (h.mode = 1 ∧ h.last < g.n ∨ h.mode = 2 ∧ h.need ≤ h.count) → exec (.holdoffEnd p) s = .next s)) ∧
  (
    ∀ (s : State) (p : Fin 4),
      let g := s.dev.trig p
      let leads := fun (c : Instr) (q : Trg) => ∃ t, exec c s = .next t ∧ t = { s with dev := { s.dev with trg := t.dev.trg } } ∧ t.dev.trig p = q ∧
        ∀ k, k ≠ p.val → t.dev.trig k = s.dev.trig k
      (s.dev.served = true → s.dev.rel.devFault = false → s.dev.writeHeld (trgUnit p) = false → s.dev.upperPort p = false →
        leads (.trgForce p) { g with force := true }) ∧
      (s.dev.served = true → s.dev.rel.devFault = false → s.dev.writeHeld (trgUnit p) = true → s.dev.rel.queue.length < 64 →
        ∃ t, exec (.trgForce p) s = .next t ∧ t = { s with dev := { s.dev with rel := t.dev.rel } } ∧ OneRecord s t .cfgLocked 0 (s.dev.portDom p)) ∧
      (s.dev.served = true → g.pend.isSome = true → leads (.clrPend p)
        { g with pend := none, dropped := BitVec.ofNat 36 (min (g.dropped.toNat + 1) (2 ^ 36 - 1)), ign0 := BitVec.ofNat 32 (min (g.ign0.toNat + 1) (2 ^ 32 - 1)) }) ∧
      (∀ x rest, g.starts = x :: rest → leads (.trgoScheduledStart p)
        { g with starts := rest, pulse := some (s.dev.now + BitVec.ofNat 64 (s.dev.outRec p).owid) }) ∧
      leads (.trgoPulseEnd p) { g with pulse := none } ∧
      (∀ x rest, s.dev.instr.pulls = x :: rest →
        exec .instrPullEnd s = .next { s with dev := { s.dev with instr := { s.dev.instr with pulls := rest } } }) ∧
      (∀ a b : BitVec 16, s.dev.served = true → ∃ t, exec (.trgMaskData p a b) s = .next t ∧
        t = { s with dev := { s.dev with trg := t.dev.trg } } ∧ (∀ k, k ≠ p.val → t.dev.trig k = s.dev.trig k) ∧
        t.dev.trig p = { g with maskShadow := (t.dev.trig p).maskShadow, maskPtr := g.maskPtr + 1 } ∧
        ∀ k, Tbl.get 0 (t.dev.trig p).maskShadow k =
          if k = g.maskPtr.toNat then (b.signExtend 18 ++ a.signExtend 18 : BitVec 36) else Tbl.get 0 g.maskShadow k))

/-- R459: the tests of an ARM, the first that fails deciding: owner and handle; not armed, and no other armed Barrel of the session on the handle; a source and parameters in range; the port; the room for PRE, POST and LAT samples in a region.
R456, R459, R461, R462: an ARM, or a REARM with the stored parameters, fails with the status of its test and leaves the Barrel, or succeeds: with every Shelf resident and no stack in self-refresh (R676) the Crate completes, the tag map starts without entries (log entry 37) and the capture opens at position 0, else the Barrel is arming until then.
What the spec leaves open here is the model's choice: log entries 21, 37. -/
def Obligations.barrelsAreArmed : Prop :=
  (
    ∀ (d : Dev) (n b : Nat) (a : ArmParams),
      let r := d.barrel b
      let owned := r.owner = some n ∧ ∃ e ∈ d.stk.shelves, e.session = n ∧ e.handle = a.handle ∧ e.freed = false
      let free := r.armed = false ∧ ∀ p ∈ d.barrels, p.1 ≠ b → p.2.armed = true → p.2.owner = some n → p.2.params.handle ≠ a.handle
      let ranged := a.pre + a.post ≠ 0 ∧ a.nseg ≤ 65536 ∧ (d.armLat a.tsrc {}).isSome = true
      (¬ owned → d.armTests n b a = .error .grantFault) ∧
      (owned → ¬ free → d.armTests n b a = .error .armBusy) ∧
      (owned → free → r.src = none → d.armTests n b a = .error .cfgRange) ∧
      ∀ x, owned → free → r.src = some x →
        (¬ ranged → d.armTests n b a = .error .cfgRange) ∧
        (ranged → d.loftOwned n x.dirBase (8 * max a.nseg 1) = true →
          (d.streamDown x.port = true → d.armTests n b a = .error .portDown) ∧
          ∀ y, d.streamDown x.port = false → d.armed? b a x = some y →
            y.segcap < a.pre + a.post + (d.armLat a.tsrc y.fb).getD 0 → d.armTests n b a = .error .armCapacity)) ∧
  (
    ∀ (s : State) (uid b : Nat) (c : Live) (a : ArmParams), c.barrelNo = b → s.dev.live? uid = some c →
      let arms := fun (i : Instr) =>
        (∀ st, st ≠ .ok → s.dev.armTests c.session b a = .error st → ∃ t, exec i s = .next t ∧ Decided s t uid st 0 b ∧
          t = { s with dev := { s.dev with hlk := { s.dev.hlk with live := t.dev.hlk.live }, freeCtr := s.dev.freeCtr + 1 } }) ∧
        ∀ y, s.dev.armTests c.session b a = .ok y → y.owner = some c.session → y.params = a →
          (s.dev.stk.allResident c.session a.handle = true → s.dev.cel.selfref = 0 → ∃ t, exec i s = .next t ∧ t.mem = s.mem.loftPutRun y.srcRec.tmapBase [{}, {}, {}, {}] ∧ Decided s t uid .ok 0 b ∧
            (t.dev.barrel b).st = (if a.pre = 0 then .ready else .filling) ∧ (t.dev.barrel b).pos = 0 ∧ (t.dev.barrel b).capture = 0 ∧
            (t.dev.barrel b).start = 0 ∧ (t.dev.barrel b).caps = 0 ∧ (t.dev.barrel b).lat = y.lat ∧ (t.dev.barrel b).owner = some c.session ∧
            (t.dev.barrel b).armTick = s.dev.now ∧ ∀ k, k ≠ b → t.dev.barrel k = s.dev.barrel k) ∧
          (s.dev.stk.allResident c.session a.handle = false ∨ s.dev.cel.selfref ≠ 0 → ∃ t, exec i s = .next t ∧ t.mem = s.mem ∧ (t.dev.barrel b).st = .arming ∧
            (t.dev.barrel b).armUid = some uid ∧ (∀ k, k ≠ b → t.dev.barrel k = s.dev.barrel k) ∧
            ∃ c', t.dev.live? uid = some c' ∧ c'.phase = .active)
      (s.dev.starts uid 4 (fun c => c.num 32 1 == 0) = some c →
        a = { tsrc := c.num 34 2, handle := c.num 36 4, pre := c.num 40 8, post := c.num 48 8, nseg := c.num 56 4 } → arms (.arm uid)) ∧
      let fails := fun (st : Status) => ∃ t, exec (.rearm uid) s = .next t ∧ Decided s t uid st 0 b ∧
        t = { s with dev := { s.dev with hlk := { s.dev.hlk with live := t.dev.hlk.live } } }
      (s.dev.starts uid 4 (fun c => c.num 32 1 == 2) = some c →
        ((s.dev.barrel b).owner ≠ some c.session → fails .grantFault) ∧
        ((s.dev.barrel b).owner = some c.session → (s.dev.barrel b).arm = none ∨ zeroBytes c.raw 34 59 = false → fails .cfgRange) ∧
        ((s.dev.barrel b).owner = some c.session → zeroBytes c.raw 34 59 = true → (s.dev.barrel b).arm = some a → arms (.rearm uid))))

/-- R451, R469, R479: DISARM of a Barrel that is not the session's fails; an armed one stops, a capture in FILLING or READY is discarded, and its event of kind 3 rises for the owner; one that is not armed is released.
R463 to R466, R482: an occurrence of the trigger source: READY accepts it and POST begins; FILLING ignores and counts it unless early triggers are allowed; POST holds one for the next capture where there is one; a Barrel that is not armed takes none.
What the spec leaves open here is the model's choice: log entries 36, 37. -/
def Obligations.barrelsAreTriggeredAndDisarmed : Prop :=
  (
    ∀ (s : State) (uid b : Nat) (c : Live), s.dev.starts uid 4 (fun c => c.num 32 1 == 1) = some c → c.barrelNo = b →
      let r := s.dev.barrel b
      (r.owner ≠ some c.session → ∃ t, exec (.disarm uid) s = .next t ∧ Decided s t uid .grantFault 0 b ∧
        t = { s with dev := { s.dev with hlk := { s.dev.hlk with live := t.dev.hlk.live } } }) ∧
      (r.owner = some c.session → r.armed = false → ∃ t, exec (.disarm uid) s = .next t ∧ Decided s t uid .ok 0 b ∧
        t = { s with dev := { s.dev with hlk := { s.dev.hlk with live := t.dev.hlk.live }, barrels := t.dev.barrels } } ∧
        t.dev.barrel b = { r with owner := none, st := .idle } ∧ ∀ k, k ≠ b → t.dev.barrel k = s.dev.barrel k) ∧
      (r.owner = some c.session → r.st = .filling ∨ r.st = .ready → r.entries = [] →
        ∃ t e, exec (.disarm uid) s = .next t ∧ Decided s t uid .ok 0 b ∧ (t.dev.barrel b).st = .stopped ∧
          (t.dev.barrel b).owner = r.owner ∧ (t.dev.barrel b).caps = r.caps ∧ (t.dev.barrel b).queue = [] ∧ (t.dev.barrel b).res = {} ∧
          (∀ k, k ≠ b → t.dev.barrel k = s.dev.barrel k) ∧ t.dev.raised = s.dev.raised ++ [e] ∧
          e.id = BitVec.ofNat 12 (0x100 + b * 4 + 3) ∧ e.reach = r.owner)) ∧
  (
    ∀ (s : State) (b : Fin 16) (time : BitVec 72),
      let r := s.dev.barrel b
      let x := r.sampleAt time
      let leads := fun (p : Barrel → Prop) (evs : List EventOcc) => ∃ t, exec (.barrelTrigger b time) s = .next t ∧
        t = { s with dev := { s.dev with barrels := t.dev.barrels, raised := s.dev.raised ++ evs } } ∧ p (t.dev.barrel b) ∧
        ∀ k, k ≠ b.val → t.dev.barrel k = s.dev.barrel k
      (r.writing = false → exec (.barrelTrigger b time) s = .next s) ∧
      (r.params.tsrc < 4096 → r.anchor.isSome = true → 0 ≤ x →
        (r.st = .ready → leads (fun q => q = { r with
            st := .post, tpos := x.toNat, npre := min (r.params.pre : Int) (x - ((max r.start (r.pos - r.segcap) : Nat) : Int))
            lastPos := max (x + r.params.post - 1) ((r.pos : Int) - 1), trigTime := time })
          [{ id := BitVec.ofNat 12 (0x100 + b * 4 + 1), time, reach := r.owner }]) ∧
        (r.st = .filling → r.capture ≠ 0 ∨ r.srcRec.early = false → leads (fun q => q = { r with
            ign := BitVec.ofNat 32 (min (r.ign.toNat + 1) (2 ^ 32 - 1)), capIgn := BitVec.ofNat 16 (min (r.capIgn.toNat + 1) 65535) }) []) ∧
        (r.st = .post → x ≤ r.lastPos → r.held = none → 2 ≤ r.params.nseg → leads (fun q => q = { r with held := some (x.toNat, time) }) [])))

/-- R455 to R457, R461: the writer takes the oldest cell of its queue; here a complex sample of 64-bit format goes to its slot of the open region, little-endian with its tag above the data, its Shelf is marked as accessed, and the position counts on.
R468, R470, R471, R482: once its last position is written a capture closes: its directory entry of eight cells is written and its event of kind 2 rises; the last capture stops the Barrel, otherwise the next opens behind it.
What the spec leaves open here is the model's choice: log entry 36. -/
def Obligations.capturesAreWrittenAndClosed : Prop :=
  (
    ∀ (s : State) (b : Fin 16) (q : QCell) (rest : List QCell) (a : Int × Stamp) (p : Nat),
      let r := s.dev.barrel b
      let addr := (r.unitAddr (r.slotOf r.pos)).1 + 8 * (r.unitAddr (r.slotOf r.pos)).2
      r.st = .ready → r.queue = q :: rest → r.gaps = [] → r.pendHalf = none → r.anchor = some a → r.wait = [] → r.real = false → r.base % 8 = 0 →
      r.srcRec.fmt = 4 → r.run = none → q.cell.tag = tagValid → s.dev.stk.translate (r.owner.getD 0) addr = .phys p →
      ∃ t, exec (.barrelWrite b 1) s = .next t ∧
        t = { s with dev := { s.dev.touch (r.owner.getD 0) (addr / shelfBytes) with barrels := t.dev.barrels }, mem := t.mem } ∧
        t.mem = s.mem.cellarPut p (leBytes 8 (q.cell.data.toNat + tagValid.toNat * 2 ^ 36)) ∧
        t.dev.barrel b = { r with queue := rest, anchor := some (r.beatOf r.pos q), pos := r.pos + 1 } ∧
        ∀ k, k ≠ b.val → t.dev.barrel k = s.dev.barrel k) ∧
  (
    ∀ (s : State) (b : Fin 16),
      let r := s.dev.barrel b
      r.st = .post → r.run = none → r.lastPos + 1 = r.pos → r.tmapCount = r.tmapStart → r.entries = [] → r.held = none →
      let at_ := r.srcRec.dirBase + 8 * r.region
      let row : List Nat := [r.trigTime.toNat % 2 ^ 36, r.trigTime.toNat / 2 ^ 36, r.tpos % 2 ^ 36, r.tpos / 2 ^ 36 % 2 ^ 28,
        (((r.tpos : Int) - r.npre - r.origin) % (max r.segcap 1 : Nat)).toNat, (r.npre % 2 ^ 36).toNat, ((r.npre + r.params.post) % 2 ^ 36).toNat,
        r.capIgn.toNat + r.flags.toNat * 2 ^ 16]
      let closes := fun (t : State) => exec (.captureClose b) s = .next t ∧
        t.mem = s.mem.loftPutRun at_ (row.map fun v => { data := BitVec.ofNat 36 v }) ∧
        (t.dev.barrel b).caps.toNat = min (r.caps.toNat + 1) (2 ^ 32 - 1) ∧ (∀ k, k ≠ b.val → t.dev.barrel k = s.dev.barrel k) ∧
        ∃ e, t.dev.raised[s.dev.raised.length]? = some e ∧ e.id = BitVec.ofNat 12 (0x100 + b * 4 + 2) ∧ e.reach = r.owner
      (r.params.nseg = 0 → ∃ t, closes t ∧ (t.dev.barrel b).st = .stopped ∧ (t.dev.barrel b).res = {} ∧
        ∃ e, t.dev.raised.getLast? = some e ∧ e.id = BitVec.ofNat 12 (0x100 + b * 4 + 3)) ∧
      (r.capture + 1 < r.params.nseg → r.later = [] → 0 < r.params.pre → ∃ t, closes t ∧ (t.dev.barrel b).st = .filling ∧
        (t.dev.barrel b).capture = r.capture + 1 ∧ (t.dev.barrel b).start = r.pos ∧ (t.dev.barrel b).capIgn = 0 ∧ (t.dev.barrel b).flags = 0))

/-- R191, R631: a MOVE Crate whose turn it is joins the queue of the mover that it names, and starts at once on an idle one; before its turn it waits.
R623, R625, R626, R629, R630, R640: a well-formed descriptor of one row in Loft pages of the chain's session. FILL writes its cell over the destination; COPY copies the cells as they stood, where the rows lie apart; COMPARE of equal rows changes no memory, of rows whose first cell differs ends the chain. A completed descriptor counts its bytes and goes on, or ends the chain.
R199, R634, R636 to R638, R641: a chain that uses up its hops or comes back to its first descriptor, has no answer, or is answered with an error ends with its status, and the mover halts where the status says so; while it is stalled no request is outstanding; STOP ends it at the next boundary, or at once where it is stalled on a page-in; the end of a chain completes its Crate and counts a failure; RESUME leaves HALTED.
What the spec leaves open here is the model's choice: log entries 10, 38. -/
def Obligations.moversRunTheirChains : Prop :=
  (
    ∀ (s : State) (uid : Nat) (c : Live) (m : Fin 16), s.dev.starts uid 2 = some c → c.num 40 1 = m →
      let v := s.dev.mover m
      let a : Activation := { crate := some uid, session := c.session, first := c.num 32 8
                              budget := if c.num 44 4 = 0 then 65536 else c.num 44 4, tmo := if c.num 48 4 = 0 then 1000 else c.num 48 4 }
      let leads := fun w : Mover => ∃ t c', exec (.move uid) s = .next t ∧
        t = { s with dev := { s.dev with hlk := { s.dev.hlk with live := t.dev.hlk.live }, mov := { s.dev.mov with movers := t.dev.mov.movers } } } ∧
        t.dev.mover m = w ∧ (∀ k, k ≠ m.val → t.dev.mover k = s.dev.mover k) ∧ t.dev.live? uid = some c' ∧ c' = { c with phase := .active }
      (s.dev.moveTurn m c = true → v.halted = false → v.queue.length < 64 → v.chain.isSome = true → leads { v with queue := v.queue ++ [a] }) ∧
      (s.dev.moveTurn m c = true → v.halted = false → v.queue = [] → v.chain = none → leads { v with
        chain := some { act := a, cur := a.first }, hops := 0, lastServed := Tbl.set v.lastServed c.cls c.session }) ∧
      (v.halted = true ∨ 64 ≤ v.queue.length ∨ s.dev.moveTurn m c = false → exec (.move uid) s = .next s)) ∧
  (
    ∀ (s : State) (m : Fin 16) (c : Chain) (raw : BitVec 512) (uid : Nat),
      let v := s.dev.mover m
      let x := Desc.ofBits raw
      v.chain = some c → v.halted = false → c.fin = none → c.stop = false → c.stalled = false → c.completed = 0 → c.act.crate = some uid →
      c.cur % 64 = 0 → s.dev.inHdm c.cur 64 = false → x.wellFormed false true = true → x.dspace = 2 → x.rows = 1 → 1 ≤ x.count →
      x.dst + x.count ≤ 2 ^ 24 →
      (∀ a, x.dst ≤ a → a < x.dst + x.count → s.dev.ownsPage c.act.session (a / 16384) = true) →
      s.mem.loftErr = [] →
      let went := fun (i : Instr) (fin : Option Status) (bytes done : Nat) (mem : Mem → Prop) => ∃ t w k, exec i s = .next t ∧
        t = { s with dev := { s.dev with mov := { s.dev.mov with movers := t.dev.mov.movers } }, mem := t.mem } ∧
        (∀ k, k ≠ m.val → t.dev.mover k = s.dev.mover k) ∧ t.dev.mover m = w ∧ w.chain = some k ∧ w.queue = v.queue ∧ w.halted = false ∧
        k.fin = fin ∧ k.bytes = bytes ∧ k.completed = done ∧ k.act = c.act ∧ mem t.mem
      let ends := if x.last then some Status.ok else none
      let readable := x.sspace = 2 ∧ x.src + x.count ≤ 2 ^ 24 ∧ ∀ a, x.src ≤ a → a < x.src + x.count → s.dev.ownsPage c.act.session (a / 16384) = true
      let cellsAt := fun (f : Nat → Cell) (mm : Mem) => ∀ a, mm.loftGet a = if x.dst ≤ a ∧ a < x.dst + x.count then (f a).stored else s.mem.loftGet a
      (x.op = 1 → went (.fill m raw) ends (c.bytes + 8 * x.count) 1
        (cellsAt fun _ => { data := BitVec.ofNat 36 x.fillv.toNat, tag := BitVec.ofNat 4 (fld x.fillv 36 4) })) ∧
      (x.op = 0 → readable → x.src + x.count ≤ x.dst ∨ x.dst + x.count ≤ x.src → ∀ data,
        went (.copy m raw data) ends (c.bytes + 8 * x.count) 1 (cellsAt fun a => s.mem.loftGet (x.src + (a - x.dst)))) ∧
      (x.op = 2 → readable → x.notag = false → ∀ data dest,
        ((∀ k, k < x.count → s.mem.loftGet (x.src + k) = s.mem.loftGet (x.dst + k)) →
          went (.compare m raw data dest) ends (c.bytes + 8 * x.count) 1 fun mm => mm = s.mem) ∧
        (s.mem.loftGet x.src ≠ s.mem.loftGet x.dst →
          went (.compare m raw data dest) (some .compareMismatch) c.bytes 0 fun mm => mm = s.mem))) ∧
  (
    ∀ (s : State) (m : Fin 16) (c : Chain) (uid : Nat),
      let v := s.dev.mover m
      let only := fun t : State => t = { s with dev := { s.dev with mov := t.dev.mov, rel := t.dev.rel, hlk := t.dev.hlk, host := t.dev.host } } ∧
        ∀ k, k ≠ m.val → t.dev.mover k = s.dev.mover k
      v.chain = some c → c.act.crate = some uid →
      (c.fin = none → c.completed ≠ 0 → c.cur = c.act.first ∨ c.act.budget ≤ c.hops → ∃ t k, exec (.hopLimit m) s = .next t ∧ only t ∧
        t.dev.mover m = { v with chain := some k, err := v.err.orElse fun _ => some { status := .loop, dirWrite := false, space := 0, addr := c.cur } } ∧
        k = { c with fin := some .loop, stalled := false, targets := [], failAddr := c.cur, failWrite := false, failSpace := 0 }) ∧
      (∀ (w : Bool) (sp : BitVec 2) (a : BitVec 64) (i : Instr) (st : Status), c.fin = none →
        (i = .requestTimeout m w sp a ∧ st = .timeout ∨ i = .busError m w sp a ∧ st = .busError) →
        (c.stalled = true → exec i s = .next s) ∧ (c.stalled = false → s.dev.rel.queue.length < 64 → ∃ t r, exec i s = .next t ∧ only t ∧
        t.dev.mover m = { v with
          chain := some { c with fin := some st, targets := [], failAddr := a.toNat, failWrite := w, failSpace := sp.toNat }, halted := true
          err := v.err.orElse fun _ => some { status := st, dirWrite := w, space := sp.toNat, addr := a.toNat } } ∧
        t.dev.rel.queue = s.dev.rel.queue ++ [r] ∧ r.code = st.code ∧ r.sev = 2 ∧ r.domain = domMover m ∧ r.addr = a)) ∧
      (s.dev.served = true → c.fin = none → ∃ t, exec (.stop m) s = .next t ∧ only t ∧
        t.dev.mover m = { v with chain := some { c with stop := true, fin := if s.dev.pageStalled c then some .cancelled else none } }) ∧
      (∀ st, c.fin = some st → (st = .ok ∨ st = .loop) → v.queue = [] → (∃ x, s.dev.live? uid = some x ∧ x.phase = .active) →
        ∃ t, exec (.chainCompletion m) s = .next t ∧ only t ∧ t.dev.mover m = { v with chain := none } ∧
          Decided s t uid st (if st = .ok then c.bytes else c.failAddr) c.completed ∧
          (st = .loop → t.dev.mov.failLoop.toNat = min (s.dev.mov.failLoop.toNat + 1) (2 ^ 32 - 1)) ∧ (st = .ok → t.dev.mov.failLoop = s.dev.mov.failLoop)) ∧
      (s.dev.served = true → s.dev.rel.devFault = false → ∃ t, exec (.resume m) s = .next t ∧ only t ∧
        t.dev.mover m = { v with halted := false, err := none }))

/-- R90, R191, R642 to R644, R650, R654: a STREAM open waits for its turn on the mover with the fewest streams, and takes the next free ID there; a close of an unknown stream is out of range, of one of the session's with nothing else open it waits for the stream's end.
R647, R648, R650, R651: a full frame of a raw stream goes to the host ring behind its 64-byte header, padded to 64 bytes, then WRITE and the lost count; without room the stream waits, a READ inside what was written lets it go on, and another is reported. On a HALTED mover no frame is written (R636).
What the spec leaves open here is the model's choice: log entries 10, 39. -/
def Obligations.streamsOpenWriteAndClose : Prop :=
  (
    ∀ (s : State) (uid : Nat) (c : Live),
      let fails := fun (i : Instr) (st : Status) => ∃ t, exec i s = .next t ∧ Decided s t uid st 0 0 ∧
        t = { s with dev := { s.dev with hlk := { s.dev.hlk with live := t.dev.hlk.live } } }
      (s.dev.starts uid 3 (fun c => c.num 32 1 == 0) = some c →
        let src := BitVec.ofNat 64 (c.num 56 8)
        let sid := s.dev.mov.nextSid
        let m := s.dev.mov.streamMover
        let clear := s.dev.inHdm (c.num 40 8) (2 ^ c.num 48 1 + 64) = false
        let formed := 16 ≤ c.num 48 1 ∧ c.num 48 1 ≤ 32 ∧ c.num 40 8 % 4096 = 0 ∧ c.num 36 4 ≠ 0 ∧ (c.num 33 1 ≤ 3 ∨ c.num 33 1 = 255)
        (s.dev.streamTurn m c = false → exec (.streamOpen uid) s = .next s) ∧
        (s.dev.streamTurn m c = true → (¬ formed → fails (.streamOpen uid) .cfgRange) ∧
        (formed → c.num 33 1 = 255 → fld src 0 4 = 2 → fld src 8 56 = 0 → fld src 4 4 ≤ 7 → ¬ clear → fails (.streamOpen uid) .grantFault) ∧
        (formed → c.num 33 1 = 255 → fld src 0 4 = 2 → fld src 8 56 = 0 → fld src 4 4 ≤ 7 → clear → s.dev.mov.streams.length < 256 →
          s.dev.declared + c.num 36 4 ≤ s.dev.streamCap * 1000 → 1 ≤ sid → sid ≤ 65535 → Tbl.find? s.dev.mov.streams sid = none →
          ∃ t x, exec (.streamOpen uid) s = .next t ∧ Decided s t uid .ok 0 sid ∧
            t = { s with dev := { s.dev with hlk := { s.dev.hlk with live := t.dev.hlk.live }, mov := t.dev.mov } } ∧
            Tbl.find? t.dev.mov.streams sid = some x ∧ t.dev.mov.nextSid = sid + 1 ∧
            x.session = c.session ∧ x.src = src ∧ x.rate = c.num 36 4 ∧ x.rlog2 = c.num 48 1 ∧ x.queue = [] ∧ x.write = 0 ∧ x.read = 0 ∧ x.mover = m ∧
            (∀ k, k < 16 → s.dev.mov.streamsOn x.mover ≤ s.dev.mov.streamsOn k) ∧
            ∀ k, k ≠ sid → Tbl.find? t.dev.mov.streams k = Tbl.find? s.dev.mov.streams k))) ∧
      (s.dev.starts uid 3 (fun c => c.num 32 1 == 1) = some c →
        (Tbl.find? s.dev.mov.streams (c.num 34 2) = none → fails (.streamClose uid) .cfgRange) ∧
        (∀ x, Tbl.find? s.dev.mov.streams (c.num 34 2) = some x → x.session ≠ c.session ∨ x.closing.isSome = true →
          fails (.streamClose uid) .cfgRange) ∧
        (∀ x, Tbl.find? s.dev.mov.streams (c.num 34 2) = some x → x.session = c.session → x.closing = none →
          (∀ q ∈ s.dev.insts, ∀ n, (q.2.outq n).cells = []) → ∃ t y, exec (.streamClose uid) s = .next t ∧ t.mem = s.mem ∧
            Tbl.find? t.dev.mov.streams (c.num 34 2) = some y ∧ y = { x with closing := some uid } ∧ t.dev.live? uid = some { c with phase := .active }))) ∧
  (
    ∀ (s : State) (sid : BitVec 16) (t0 : Stream) (f : Frame), Tbl.find? s.dev.mov.streams sid.toNat = some t0 → t0.kind = 1 →
      (t0.halt = none → (s.dev.mover t0.mover).halted = false → t0.queueFrame = some f → f.last = false → f.comp = false → (∀ q ∈ s.dev.insts, ∀ n, (q.2.outq n).cells = []) →
        let pad := (64 - f.payload.length % 64) % 64
        let size := 64 + f.payload.length + pad
        let w := t0.write + BitVec.ofNat 64 size
        ((t0.write - t0.read).toNat + size ≤ 2 ^ t0.rlog2 → t0.write.toNat % 2 ^ t0.rlog2 + size ≤ 2 ^ t0.rlog2 →
          ∃ t y, exec (.streamFrame sid) s = .next t ∧ t.mem = s.mem ∧ t.dev.host = (s.dev.hostWrite (t0.rbase.toNat + t0.write.toNat % 2 ^ t0.rlog2)
                 (t0.header sid.toNat f f.cellCount ++ f.payload ++ List.replicate pad 0)).host ++
              [.write (t0.rbase + BitVec.ofNat 64 (2 ^ t0.rlog2)) (leBytes 8 w.toNat),
               .write (t0.rbase + BitVec.ofNat 64 (2 ^ t0.rlog2 + 16)) (leBytes 8 t0.lost)] ∧
            Tbl.find? t.dev.mov.streams sid.toNat = some y ∧ y.write = w ∧ y.queue = t0.queue.drop f.take ∧ y.seq = t0.seq + 1 ∧
            y.bpos = t0.bpos + BitVec.ofNat 64 f.ulen ∧ y.lostFrame = 0 ∧ y.wait = false) ∧
        (2 ^ t0.rlog2 < (t0.write - t0.read).toNat + size → ∃ t, exec (.streamFrame sid) s = .next t ∧
          t = { s with dev := { s.dev with mov := { s.dev.mov with streams := t.dev.mov.streams } } } ∧
          Tbl.find? t.dev.mov.streams sid.toNat = some { t0 with wait := true })) ∧
      (t0.halt = none → (s.dev.mover t0.mover).halted = true → exec (.streamFrame sid) s = .next s) ∧
      ∀ rd : BitVec 64, t0.wait = true →
        ((rd - t0.read).toNat ≤ (t0.write - t0.read).toNat → ∃ t, exec (.readReread sid rd) s = .next t ∧
          t = { s with dev := { s.dev with mov := { s.dev.mov with streams := t.dev.mov.streams } } } ∧
          Tbl.find? t.dev.mov.streams sid.toNat = some { t0 with read := rd }) ∧
        ((t0.write - t0.read).toNat < (rd - t0.read).toNat → s.dev.rel.queue.length < 64 → ∃ t, exec (.readReread sid rd) s = .next t ∧ t.mem = s.mem ∧
          Tbl.find? t.dev.mov.streams sid.toNat = some { t0 with badRead := true } ∧ OneRecord s t .ok 0 (domMover t0.mover)))

/-- R562, R118: an occurrence counts in the entries that subscribe to it, up to 255, and satisfies the event dependencies on it, also of the Crates that are admitted later in its tick (R184).
R20, R66, R68, R71: a producer's cell joins its queue, one with a reserved tag as GAP and with a NOTE; a full queue ignores it, is marked overrun and loses a cell; a queue whose pointer copies differ is first emptied, with one record in its consumer's domain.
What the spec leaves open here is the model's choice: log entries 12, 65. -/
def Obligations.eventsAndProducersReachTheirQueues : Prop :=
  (
    ∀ (s : State) (k : BitVec 16) (e : EventOcc), s.dev.raised[k.toNat]? = some e → e.reach = none →
      ∃ t, exec (.eventArrival k) s = .next t ∧ t.mem = s.mem ∧ t.dev.raised.length + 1 ≥ s.dev.raised.length ∧
        e ∈ t.dev.hlk.arrivals ∧ t.dev.hlk.arriveTick = s.dev.tim.ticks ∧
        (∀ key i, Tbl.find? s.dev.insts key = some i → ∃ j, Tbl.find? t.dev.insts key = some j ∧ ∀ n, n < 8 →
          j.entry n = if bit (i.entry n).sel 12 = true ∧ fld (i.entry n).sel 0 12 = e.id.toNat ∧ (i.entry n).count ≠ 255 then
            { i.entry n with count := (i.entry n).count + 1, last := e.time } else i.entry n) ∧
        ∀ uid c, s.dev.live? uid = some c → c.phase = .waiting → ∃ c', t.dev.live? uid = some c' ∧ c'.phase = .waiting ∧
          c'.deps = c.deps.map fun x => if x = Dep.event e.id then Dep.met else x) ∧
  (
    ∀ (s : State) (sid : BitVec 16) (x : Stream) (cell : Cell) (time : BitVec 72) (eop : Bool), Tbl.find? s.dev.mov.streams sid.toNat = some x →
      let writes := fun (m : Bool) => Instr.queueWrite (.stream sid.toNat) m cell time eop
      let gap : QCell := { cell := { cell with tag := tagGap }, time, eop }
      let holds := fun (t : State) (y : Stream) => Tbl.find? t.dev.mov.streams sid.toNat = some y ∧
        (∀ k, k ≠ sid.toNat → Tbl.find? t.dev.mov.streams k = Tbl.find? s.dev.mov.streams k) ∧
        t = { s with dev := { s.dev with mov := { s.dev.mov with streams := t.dev.mov.streams }, rel := t.dev.rel, host := t.dev.host
                                         hlk := { s.dev.hlk with msiPending := t.dev.hlk.msiPending } } }
      (x.gapNext = false → x.queue.length < 16384 →
        (tagReserved cell.tag = false → ∃ t, exec (writes false) s = .next t ∧ holds t { x with queue := x.queue ++ [{ cell, time, eop }] } ∧
          t.dev.rel = s.dev.rel) ∧
        (tagReserved cell.tag = true → s.dev.rel.queue.length < 64 → ∃ t, exec (writes false) s = .next t ∧
          holds t { x with queue := x.queue ++ [gap] } ∧ OneRecord s t .ok 0 (domMover x.mover))) ∧
      (tagReserved cell.tag = false → 16384 ≤ x.queue.length → ∃ t, exec (writes false) s = .next t ∧
        holds t { x with overrun := true, gapNext := true, lost := x.lost + 1, lostFrame := x.lostFrame + 1 } ∧
        (x.overrun = false → s.dev.rel.queue.length < 64 → OneRecord s t .ok 2 (domMover x.mover))) ∧
      (tagReserved cell.tag = false → x.kind = 1 → s.dev.rel.queue.length < 64 →
        (Tbl.get {} s.dev.rel.domains (domMover x.mover).toNat).outstanding = false → ∃ t, exec (writes true) s = .next t ∧
        holds t { x.flush with queue := [gap], gapNext := false } ∧ OneRecord s t .internal 3 (domMover x.mover)))

/-- R490, R491: a decay that is due takes from every counter a fraction of it, at least 1, and never below 0; one that is not due changes nothing, nor does one with DPER 0. -/
def Obligations.decaysReduceTheCounters : Prop :=
  ∀ (s : State) (p i : Fin 4) (x : PlaneRec), s.dev.planeRec? p i = some x → x.en = true → (s.dev.eng p).done = [] →
    let y := (s.dev.dens p).plane i
    let once := fun c : Nat => c - max 1 ((c + 2 ^ (x.dsh - 1)) / 2 ^ x.dsh)
    let exceeds := stampDiff s.dev.stamp y.perEnd
    let leads := fun (q : DenPlane → Prop) => ∃ t, exec (.decay p i) s = .next t ∧ t = { s with dev := { s.dev with den := t.dev.den } } ∧
      (∀ k, k ≠ p.val → t.dev.dens k = s.dev.dens k) ∧ (∀ k, k ≠ i.val → (t.dev.dens p).plane k = (s.dev.dens p).plane k) ∧
      q ((t.dev.dens p).plane i)
    Tbl.wf 0 y.cnt = true →
    (x.dper = 0 → leads fun z => z = y) ∧
    (x.dper ≠ 0 → x.dbase = false → x.dper ≤ y.per → leads fun z => z.decays = y.decays + 1 ∧ z.per = 0 ∧ z.recv = y.recv ∧
      ∀ k, Tbl.get 0 z.cnt k = once (Tbl.get 0 y.cnt k)) ∧
    (x.dper ≠ 0 → x.dbase = true → 0 ≤ exceeds → exceeds < x.dper * 524288 → leads fun z => z.decays = y.decays + 1 ∧
      z.perEnd = y.perEnd + BitVec.ofNat 72 (x.dper * 524288) ∧ ∀ k, Tbl.get 0 z.cnt k = once (Tbl.get 0 y.cnt k)) ∧
    (x.dper ≠ 0 → x.dbase = false ∧ y.per < x.dper ∨ x.dbase = true ∧ exceeds < 0 → leads fun z => z = y)

/-- R25, R377 to R379, R493: a tally that holds COUNT spectra goes to its ring in Loft: four header cells, a count for each bin, then the write count; the tally starts anew.
R497, R498, R500: a render draws its columns one after the other into its frame, each after the decays that are due; after the last one the DONE cell counts on and a pending render starts, unless a colour map waits; a frame that is no longer mapped ends it. A colour map that waits for renders takes force once none runs.
What the spec leaves open here is the model's choice: log entry 51. -/
def Obligations.talliesAndRendersTakeEffect : Prop :=
  (
    ∀ (s : State) (p : Fin 4) (c : List (BitVec 36)), s.dev.rec? (denUnit p) 2 = some c →
      let x := OccRec.of c
      let e := s.dev.dens p
      let w := (s.mem.loftGet x.dest.idx).data.toNat
      let r := (s.mem.loftGet (x.dest.idx + 1)).data.toNat
      let head := [BitVec.ofNat 36 e.oTime.toNat, BitVec.ofNat 36 (e.oTime.toNat / 2 ^ 36), e.oSeq, BitVec.ofNat 36 e.oN]
      let cells := (head.map fun v => ({ data := v, tag := tagHeader } : Cell)) ++
        (List.range x.cnt).map fun i => { data := BitVec.ofNat 36 ((e.oTally[i]?).getD 0) }
      let out := fun (mem : Mem) (q : Den) => ∃ t, exec (.occupancyRecord p) s = .next t ∧
        t = { mem, pending := s.pending, dev := { s.dev with den := t.dev.den, rel := t.dev.rel, hlk := t.dev.hlk, host := t.dev.host } } ∧
        (∀ k, k ≠ p.val → t.dev.dens k = s.dev.dens k) ∧ t.dev.dens p = q
      (e.oN < x.count → exec (.occupancyRecord p) s = .next s) ∧
      (x.count ≤ e.oN → e.oN ≠ 0 → e.oStopped = false → x.dest.kind = 1 →
        ((w + 2 ^ 36 - r) % 2 ^ 36 < x.dest.nrec → out
          ((s.mem.loftPutRun (x.dest.base + w % x.dest.nrec * cells.length) cells).loftPut x.dest.idx { data := BitVec.ofNat 36 (w + 1) })
          { e with oN := 0, oTally := [] }) ∧
        (x.dest.nrec ≤ (w + 2 ^ 36 - r) % 2 ^ 36 → x.dest.ovw = false → out s.mem { e with oN := 0, oTally := [], err := setBit e.err 1 true }))) ∧
  (
    ∀ (s : State) (p i : Fin 4),
      let d0 := s.dev.decayDue p i
      let e := d0.dens p
      let y := e.plane i
      (∀ r, y.run = some r →
        let words := e.columnWords r y.cnt r.col
        let done := (RenderRec.of r.cells).done
        let puts := ({ s with dev := d0 } : State).putWords r.session words
        (∀ s', puts = (s', true) → r.col + 1 < r.cols → ∃ t, exec (.render p i 1) s = .next t ∧ t.mem = s'.mem ∧
          (t.dev.dens p).plane i = { y with run := some { r with col := r.col + 1 } } ∧ t = { t with dev := { s'.dev with den := t.dev.den }, pending := s.pending }) ∧
        (∀ s', puts = (s', true) → r.cols ≤ r.col + 1 → s.dev.cmapWaits p = false → ∃ t, exec (.render p i 1) s = .next t ∧
          t.mem = s'.mem.loftPut done { s'.mem.loftGet done with data := (s'.mem.loftGet done).data + 1 } ∧
          (t.dev.dens p).plane i = { y with run := y.pend, pend := none } ∧ t = { t with dev := { s'.dev with den := t.dev.den }, pending := s.pending }) ∧
        (∀ s', puts = (s', false) → s.dev.cmapWaits p = false → s.dev.rel.queue.length < 64 → ∃ t, exec (.render p i 1) s = .next t ∧ t.mem = s'.mem ∧
          ((t.dev.dens p).plane i).run = y.pend ∧ bit (t.dev.dens p).err 2 = true ∧ OneRecord s t .grantFault 2 (s.dev.portDom p))) ∧
      (∀ q, let e := s.dev.dens p; (∀ k : Fin 4, (e.plane k).run = none) → s.dev.waiting? (denUnit p) 4 = some q → q.origin = none → q.go = (s.dev.unit (denUnit p)).gos → (s.dev.unit (denUnit p)).result = 0xF → s.dev.denCheck p q = .ok () →
        ∃ t, exec (.cmapCommit p) s = .next t ∧ t = { s with dev := { s.dev with den := t.dev.den, units := t.dev.units } } ∧
          (t.dev.unit (denUnit p)).shadow = (s.dev.unit (denUnit p)).shadow.filter (fun x => x.typ != 4) ∧ (t.dev.unit (denUnit p)).result = 0 ∧
          (∀ k : Fin 4, (t.dev.dens p).plane k = { e.plane k with run := (e.plane k).pend, pend := none }) ∧
          ∀ k v, q.cells[k + 1]? = some v → Tbl.get 0 (t.dev.dens p).cmap (fld (cellOf q.cells 0) 0 10 + k) = v.truncate 30) ∧
      ((∃ k : Fin 4, ((s.dev.dens p).plane k).run.isSome = true) → exec (.cmapCommit p) s = .next s))

/-- R513, R514, R516 to R518, R520: at the latch line the frame counts on and the lines of the last one are forgotten; a waiting buffer whose Shelves are there comes into use, one that is paged out waits for the next frame; enabled outputs raise their event; with EN 0 scan-out stops.
R508, R510, R511, R513, R520: underruns, once a line, plug and link states of the outputs, AUX transactions, and EN.
R505, R506, R513: without layers a pixel is the background; an overlay pixel of weight 4 covers the density layer, of weight 0 leaves it, and of weight 2 gives the mean of each component, rounded up. From an underrun to the end of its line layer 0 shows UCOLOR and layer 1 nothing (R513).
What the spec leaves open here is the model's choice: log entry 52. -/
def Obligations.scanOutShowsItsLayers : Prop :=
  (
    ∀ s : State,
      let e := s.dev.sco
      let fresh := fun (l : Nat) => { e.layer l with lost := [] }
      (e.run = false → exec .latchLine s = .next s) ∧
      (e.run = true → e.en = false → (e.layer 0).cur = none → (e.layer 1).cur = none → ∃ t, exec .latchLine s = .next t ∧
        t = { s with dev := { s.dev with sco := { e with run := false, latched := false, frame := 0, layers := t.dev.sco.layers } } } ∧
        t.dev.sco.layer 0 = fresh 0 ∧ t.dev.sco.layer 1 = fresh 1) ∧
      (e.run = true → e.en = true → (s.dev.unit scoUnit).shadow = [] →
        let frame := if e.latched then e.frame + 1 else e.frame
        let evs := ((List.range 2).filter fun o => (s.dev.outSet? o).any (·.en)).map fun o =>
          ({ id := BitVec.ofNat 12 (0x800 + o), time := s.dev.stamp } : EventOcc)
        ((e.layer 0).pend = none → (e.layer 1).pend = none → ∃ t, exec .latchLine s = .next t ∧ t.mem = s.mem ∧
          t.dev.sco = { e with frame, latched := true, layers := t.dev.sco.layers } ∧ t.dev.sco.layer 0 = fresh 0 ∧ t.dev.sco.layer 1 = fresh 1 ∧
          t.dev.raised = s.dev.raised ++ evs ∧ t.dev.rel = s.dev.rel) ∧
        ∀ n r, (e.layer 0).pend = some (n, r) → (e.layer 0).cur = none → (e.layer 1).pend = none → r.origin = none → r.go = (s.dev.unit scoUnit).gos → (s.dev.unit scoUnit).result = 0xF →
          s.dev.layerMapped n r.cells = true →
          ((∀ k ∈ s.dev.layerShelves r.cells, ∃ a, s.dev.stk.translate n (k * shelfBytes) = .phys a) → ∃ t, exec .latchLine s = .next t ∧ t.mem = s.mem ∧
            t.dev.sco.layer 0 = { fresh 0 with pend := none, cur := if (LayerRec.of r.cells).en then some (n, r.cells) else none } ∧
            t.dev.sco.layer 1 = fresh 1 ∧ (t.dev.unit scoUnit).result = 0 ∧ t.dev.raised = s.dev.raised ++ evs ∧ t.dev.sco.frame = frame) ∧
          ((∃ k ∈ s.dev.layerShelves r.cells, s.dev.stk.translate n (k * shelfBytes) = .paged) → ∃ t, exec .latchLine s = .next t ∧ t.mem = s.mem ∧
            t.dev.sco.layer 0 = { fresh 0 with defers := sat32 (e.layer 0).defers, target := (e.layer 0).target + 1 } ∧
            t.dev.sco.layer 1 = fresh 1 ∧ bit t.dev.sco.err 3 = true ∧ t.dev.raised = s.dev.raised ++ evs ∧ t.dev.sco.frame = frame ∧
            ∀ k ∈ s.dev.layerShelves r.cells, s.dev.isPaged n k = true → ∃ x ∈ t.dev.stk.xfers, x.inward = true ∧ x.session = n ∧ x.idx = k ∧ x.requester = .layer 0))) ∧
  (
    ∀ (s : State) (o : Fin 2),
      let y := s.dev.sco.out o
      let g := s.dev.sco.layer o
      let leads := fun (c : Instr) (q : ScoOut) => ∃ t, exec c s = .next t ∧
        t = { s with dev := { s.dev with sco := { s.dev.sco with outs := t.dev.sco.outs } } } ∧ t.dev.sco.out o = q ∧
        ∀ k, k ≠ o.val → t.dev.sco.out k = s.dev.sco.out k
      (∀ (line x : BitVec 12) (tm : Timing), s.dev.timing? = some tm →
        (s.dev.sco.run = true → g.cur.isSome = true → line.toNat < tm.vact → x.toNat < tm.hact → (g.lost.any fun l => l.1 == line.toNat) = false →
          bit s.dev.sco.err o = false → s.dev.rel.queue.length < 64 →
          ∃ t, exec (.underrun o line x) s = .next t ∧
            t = { s with dev := { s.dev with sco := t.dev.sco, rel := t.dev.rel, host := t.dev.host
                                             hlk := { s.dev.hlk with msiPending := t.dev.hlk.msiPending } } } ∧
            t.dev.sco.layer o = { g with under := BitVec.ofNat 32 (min (g.under.toNat + 1) (2 ^ 32 - 1)), lost := g.lost ++ [(line.toNat, x.toNat)] } ∧
            bit t.dev.sco.err o = true ∧ OneRecord s t .ok 1 domSco) ∧
        (s.dev.sco.run = false ∨ (g.lost.any fun l => l.1 == line.toNat) = true → exec (.underrun o line x) s = .next s)) ∧
      leads (.plug o) { y with hpd := true, seen := setBit y.seen 0 true, st := if s.dev.outOn o then 2 else y.st } ∧
      leads (.unplug o) { y with hpd := false, seen := setBit y.seen 1 true, st := if s.dev.outOn o then 1 else y.st } ∧
      (y.hpd = true → ∀ lost, leads (.irqHpd o lost) { y with seen := setBit y.seen 2 true, st := if (y.st = 3 ∨ y.st = 4) ∧ lost = true then 2 else y.st }) ∧
      (y.st = 2 → leads (.linkTrainingDone o true) { y with st := 3 } ∧ leads (.linkTrainingDone o false) { y with st := 4, seen := setBit y.seen 3 true }) ∧
      (s.dev.served = true → s.dev.rel.devFault = false → leads (.auxGo o) { y with busy := true }) ∧
      (∀ (r : BitVec 2) (b : List Byte), y.busy = true → y.st ≠ 2 → b.length = fld y.aux 24 4 + 1 →
        ∃ q, leads (.auxReply o r b) q ∧ q = { y with busy := false, result := r, data := q.data } ∧
          ∀ k, k < 16 → fld q.data (8 * k) 8 = if k < b.length then ((b[k]?).getD 0).toNat else fld y.data (8 * k) 8) ∧
      (s.dev.served = true → s.dev.rel.devFault = false → (s.dev.unit scoUnit).shadow = [] → ∀ v, ∃ t, exec (.scoEnable v) s = .next t ∧
        t = { s with dev := { s.dev with sco := { s.dev.sco with en := v, run := s.dev.sco.run || v }, units := t.dev.units } } ∧
        ∀ u, t.dev.unit u = s.dev.unit u)) ∧
  (
    ∀ (s : State) (x y : Nat),
      let bg : BitVec 30 := (cellOf ((s.dev.rec? scoUnit 4).getD []) 0).truncate 30
      (s.layerPixel 0 x y = none → s.layerPixel 1 x y = none → s.scoPixel x y = bg) ∧
      (∀ d o : BitVec 32, s.layerPixel 0 x y = some d → s.layerPixel 1 x y = some o →
        (fld o 30 2 = 3 → s.scoPixel x y = o.truncate 30) ∧ (fld o 30 2 = 0 → s.scoPixel x y = d.truncate 30) ∧
        (fld o 30 2 = 2 → ∀ i, i < 3 → fld (s.scoPixel x y) (10 * i) 10 = (fld o (10 * i) 10 + fld d (10 * i) 10 + 1) / 2)) ∧
      ∀ (l n u : Nat) (c : List (BitVec 36)), (s.dev.sco.layer l).cur = some (n, c) → (y, u) ∈ (s.dev.sco.layer l).lost → u ≤ x →
        s.layerPixel l x y = if l = 0 then some ((cellOf ((s.dev.rec? scoUnit 4).getD []) 1).truncate 32) else none)

/-- R88, R94, R687, R688, R794: the host reads and writes the Cellar through BAR4 or its decoder: a read answers the bytes, or poisoned data, which is counted and recorded, and mends a granule that the check corrects; a write within a block stores its bytes, but none in a table frame (log entry 105); a read beyond the window answers ones, a write there changes nothing.
R665 to R667, R669: rows that no request waits for close 64 clocks after their last access; once the requests that arrive are taken in, a pseudo-channel issues one that is ready, of the best rank, of rank 3 the most urgent, and the bank's row and counter follow its page policy; no other bank is touched.
R670: a read of bytes that a waiting write holds is served from the write queue and reaches no bank; one that the write covers in part waits until the write, which goes first, has issued.
R687, R688, R793: a read that the check corrects is counted, recorded and written back; one that it cannot correct is counted, recorded, and shows in CEL_ERR with the first address.
What the spec leaves open here is the model's choice: log entries 10, 62, 105. -/
def Obligations.cellarAccessesAreServed : Prop :=
  (
    ∀ s : State, s.dev.served = true → s.dev.cel.dead = 0 →
      let answers := fun (c : Instr) (x : HostTxn) => exec c s = .next (s.onDev fun d => { d with host := d.host ++ [x] })
      let reads := fun (a n : Nat) (c : Instr) =>
        (s.mem.poisoned a n = false → s.mem.fixable a n = [] → answers c (.reply (s.physGet a n))) ∧
        (∀ g, s.mem.poisoned a n = false → s.mem.fixable a n = [g] → s.dev.cel.autoRetire = false → s.dev.rel.queue.length < 64 → ∃ t, exec c s = .next t ∧
          t.mem = { s.mem with celErr := Tbl.erase s.mem.celErr g } ∧ t.dev.host = s.dev.host ++ [.reply (s.physGet a n)] ∧
          OneRecord s t .ok 1 (domCel (s.mem.pcOf a / 32))) ∧
        (s.mem.poisoned a n = true → s.mem.fixable a n = [] → s.dev.cel.autoRetire = false → s.dev.rel.queue.length < 64 → ∃ t, exec c s = .next t ∧
          t.mem = s.mem ∧ t.dev.host.getLast? = some .poisoned ∧ bit t.dev.cel.err 2 = true ∧ OneRecord s t .eccUncorrected 2 (domCel (s.mem.pcOf a / 32)))
      let writes := fun (a : Nat) (b : List Byte) (c : Instr) => b ≠ [] → a % 256 + b.length ≤ 256 →
        (s.dev.captured a = false → s.dev.stk.tableAt? a = none → s.mem.fixable a b.length = [] → exec c s = .next (s.onMem fun m => m.cellarPut a b)) ∧
        ((s.dev.stk.tableAt? a).isSome = true → exec c s = .next s)
      let win := s.dev.hlk.cwin
      let room := s.dev.fittedShelves * 2097152
      (∀ off : BitVec 30,
        let a := fld win 0 7 * 512 * 2097152 + off.toNat
        (∀ n, bit win 31 = true → a + n ≤ room → reads a n (.bar4Access off (.read n))) ∧
        (∀ b : List Byte, bit win 31 = true → a + b.length ≤ room → writes a b (.bar4Access off (.write b))) ∧
        (bit win 31 = false → ∀ n b, answers (.bar4Access off (.read n)) (.reply (List.replicate n 0xFF)) ∧ exec (.bar4Access off (.write b)) s = .next s)) ∧
      ∀ (off : BitVec 36) (gib : Nat) (base : BitVec 64), s.dev.hlk.hdmDecoder = some (gib, base) →
        let a := s.dev.poolTop * 2097152 + off.toNat
        (∀ n, off.toNat + n ≤ gib * 2 ^ 30 → reads a n (.cxlMemAccess off (.read n))) ∧
        (∀ b : List Byte, off.toNat + b.length ≤ gib * 2 ^ 30 → writes a b (.cxlMemAccess off (.write b)))) ∧
  (
    ∀ (s : State) (pc : Fin 64) (arrivals : List CelReq),
      let c := s.dev.cel
      let x := (arrivals.foldl (fun d r => d.celArrive pc r) (s.dev.celSettle pc)).cel.pc pc
      let kept := fun k : Nat =>
        let b := (c.pc pc).bank k
        if (∃ q ∈ (c.pc pc).reads ++ (c.pc pc).writes.take 64, q.req.bank.toNat = k ∧ b.row = some q.req.row.toNat) ∨
          (s.dev.tim.ticks - b.last).toNat * c.mhz ≤ 131072 then b.row else none
      (c.pc pc).retired = false → bit c.trained (pc / 32) = true → bit c.selfref (pc / 32) = false → x.ready ≠ [] →
      (∀ q ∈ x.ready, s.mem.fixable (q.granule * 64) 64 = [] ∧ s.mem.poisoned (q.granule * 64) 64 = false) →
      ∃ t, ∃ e ∈ x.ready, exec (.cellarRequest pc arrivals []) s = .next t ∧ t = { s with dev := { s.dev with cel := t.dev.cel } } ∧
        (∀ q ∈ x.ready, e.rank ≤ q.rank) ∧
        (e.rank = 3 → ∀ q ∈ x.ready, q.rank = 3 → c.urgency s.dev.tim.ticks q ≤ c.urgency s.dev.tim.ticks e) ∧
        (t.dev.cel.pc pc).reads = x.reads.filter (·.n != e.n) ∧ (t.dev.cel.pc pc).writes = x.writes.filter (·.n != e.n) ∧
        (∀ k, k ≠ e.req.bank.toNat → (t.dev.cel.pc pc).bank k = { (c.pc pc).bank k with row := kept k }) ∧ (∀ k, k ≠ pc.val → t.dev.cel.pc k = c.pc k) ∧
        let b := { (c.pc pc).bank e.req.bank.toNat with row := kept e.req.bank.toNat }
        let y := (t.dev.cel.pc pc).bank e.req.bank.toNat
        let n := match b.row with
          | some row => if row = e.req.row.toNat then min 3 (b.c + 1) else b.c - 1
          | none => b.c
        y.c = n ∧ y.postponed = b.postponed ∧ y.last = s.dev.tim.ticks ∧ (2 ≤ n → y.row = some e.req.row.toNat) ∧
        (n < 2 → (∀ q ∈ x.reads ++ x.writes, q.n ≠ e.n → q.req.bank = e.req.bank → q.req.row ≠ e.req.row) → y.row = none)) ∧
  (
    ∀ (s : State) (pc : Fin 64) (w : CelEntry) (r : CelReq),
      let c := s.dev.cel
      let x := c.pc pc
      x.retired = false → bit c.trained (pc / 32) = true → bit c.selfref (pc / 32) = false → x.reads = [] → x.writes = [w] → w.n < x.nextReq →
      w.req.write = true → r.write = false → w.granule = r.addr.toNat / 64 → w.req.mask &&& r.mask ≠ 0 →
      s.mem.fixable (w.granule * 64) 64 = [] → s.mem.poisoned (w.granule * 64) 64 = false →
      ∃ t, exec (.cellarRequest pc [r] []) s = .next t ∧ t = { s with dev := { s.dev with cel := t.dev.cel } } ∧
        (t.dev.cel.pc pc).writes = [] ∧ (t.dev.cel.pc pc).reads.map (·.req) = (if r.mask &&& ~~~w.req.mask = 0 then [] else [r]) ∧
        ∀ k, k ≠ w.req.bank.toNat → (t.dev.cel.pc pc).bank k = (x.settle s.dev.tim.ticks c.mhz).bank k) ∧
  (
    ∀ (s : State) (pc : Fin 64) (r : CelReq) (errors : List (Fin 72 × Byte)),
      let c := s.dev.cel
      let x := c.pc pc
      let g := r.addr.toNat / 64
      let m := s.mem.granuleHit g (symbols errors)
      let own := decide (r.domain.toNat / 4096 = 1)
      x.retired = false → bit c.trained (pc / 32) = true → bit c.selfref (pc / 32) = false → x.reads = [] → x.writes = [] → r.write = false → r.mask ≠ 0 →
      c.autoRetire = false → errors ≠ [] → s.dev.rel.queue.length < 64 →
      (m.fixable (g * 64) 64 = [g] → m.poisoned (g * 64) 64 = false → ∃ t, exec (.cellarRequest pc [r] errors) s = .next t ∧
        t = { s with mem := { m with celErr := Tbl.erase m.celErr g }, dev := { s.dev with cel := t.dev.cel, rel := t.dev.rel } } ∧ OneRecord s t .ok 1 r.domain ∧
        (t.dev.cel.pc pc).corr.toNat = min (x.corr.toNat + 1) (2 ^ 24 - 1) ∧ (t.dev.cel.pc pc).uncorr = x.uncorr ∧ t.dev.cel.err = c.err) ∧
      (m.fixable (g * 64) 64 = [] → m.poisoned (g * 64) 64 = true → (own = true → r.port ≠ 4 ∧ (Tbl.get {} s.dev.rel.domains r.domain.toNat).outstanding = false) →
        ∃ t, exec (.cellarRequest pc [r] errors) s = .next t ∧ t.mem = m ∧
          t = { s with mem := m, dev := { s.dev with cel := t.dev.cel, rel := t.dev.rel, host := t.dev.host
                                                     hlk := { s.dev.hlk with msiPending := t.dev.hlk.msiPending } } } ∧
          OneRecord s t .eccUncorrected (if own then 3 else 2) r.domain ∧
          (t.dev.cel.pc pc).uncorr.toNat = min (x.uncorr.toNat + 1) 255 ∧ bit t.dev.cel.err 2 = true ∧
          t.dev.cel.errAddr = if bit c.err 2 then c.errAddr else r.addr))

/-- R673 to R680, R27: refreshes, self-refresh, retraining and the lock; a read that waits keeps its stack awake (R675).
R49, R676: an ARM that met self-refresh completes at the exit, with its Shelves resident and no other stack in self-refresh.
R681, R682, R684, R686, R806: a retirement with Shelves withheld for it takes them and begins its migration; slices are copied one by one, a slice that cannot be read stays poisoned; at its end the pseudo-channel is retired, reported, and the map is written.
R673, R830, R831: a stack's temperature shows; above 105 °C its bit is set and the device throttles.
What the spec leaves open here is the model's choice: log entries 3, 61. -/
def Obligations.cellarIsMaintainedAndRetired : Prop :=
  (
    ∀ (s : State) (pc : Fin 64) (stack : Fin 2),
      let c := s.dev.cel
      let x := c.pc pc
      let cel := fun (i : Instr) (q : Cel → Prop) => ∃ t, exec i s = .next t ∧ t = { s with dev := { s.dev with cel := t.dev.cel } } ∧ q t.dev.cel
      (∀ bank : BitVec 6, bit c.selfref (pc / 32) = false →
        let b := x.bank bank.toNat
        (cel (.refresh pc bank true) fun e => (e.pc pc).bank bank.toNat = { b with row := none, postponed := 0 }) ∧
        (b.postponed < 8 → cel (.refresh pc bank false) fun e => (e.pc pc).bank bank.toNat = { b with postponed := b.postponed + 1 }) ∧
        (8 ≤ b.postponed → cel (.refresh pc bank false) fun e => (e.pc pc).bank bank.toNat = { b with row := none, postponed := 0 })) ∧
      (c.srEn = true → (∀ p ∈ s.dev.barrels, p.2.armed = false) → s.dev.sco.run = false → s.dev.sco.en = false → c.mig = none → bit c.trained stack = true → c.wanted stack = false →
        cel (.selfRefreshEntry stack) fun e => bit e.selfref stack = true ∧ bit e.selfref (1 - stack) = bit c.selfref (1 - stack) ∧
          ∀ p k, p / 32 = stack.val → ((e.pc p).bank k).row = none) ∧
      (c.wanted stack = true → exec (.selfRefreshEntry stack) s = .next s) ∧
      ((∀ p ∈ s.dev.barrels, p.2.armUid = none) → cel (.selfRefreshExit stack) fun e => e = { c with selfref := setBit c.selfref stack false }) ∧
      (x.retired = false → bit c.selfref (pc / 32) = false → (cel (.periodicRetraining pc true) fun e => e.pc pc = { x with attempts := 0 }) ∧
        (x.attempts < 2 → cel (.periodicRetraining pc false) fun e => e.pc pc = { x with attempts := x.attempts + 1 })) ∧
      (s.dev.served = true → cel .celCtlLock fun e => e = { c with lock := true })) ∧
  (
    ∀ (s : State) (stack : Fin 2) (b uid : Nat) (r : Barrel) (c : Live),
      s.dev.barrels = [(b, r)] → r.st = .arming → r.armUid = some uid → s.dev.live? uid = some c → c.decided = false →
      s.dev.stk.allResident (r.owner.getD 0) r.params.handle = true → setBit s.dev.cel.selfref stack false = 0 →
      ∃ t, exec (.selfRefreshExit stack) s = .next t ∧ Decided s t uid .ok 0 b ∧ t.dev.cel.selfref = 0 ∧
        t.mem = s.mem.loftPutRun r.srcRec.tmapBase [{}, {}, {}, {}] ∧ (t.dev.barrel b).st = (if r.params.pre = 0 then .ready else .filling) ∧
        (t.dev.barrel b).pos = 0 ∧ (t.dev.barrel b).armUid = none ∧ (t.dev.barrel b).armTick = s.dev.now) ∧
  (
    ∀ (s : State) (pc : Fin 64),
      let c := s.dev.cel
      let n := s.dev.fittedShelves / 64
      (s.dev.served = true → c.mig = none → (c.pc pc).retired = false → (c.pc pc).migrating = false → c.retired < 8 → n ≤ c.withheld → s.dev.stk.xfers = [] →
        ∃ t m, exec (.celRetire pc) s = .next t ∧ t = { s with dev := { s.dev with cel := t.dev.cel } } ∧
          t.dev.cel.pc pc = { c.pc pc with migrating := true } ∧ t.dev.cel.withheld = c.withheld - n ∧ t.dev.cel.donors = c.donors ∧
          t.dev.cel.mig = some m ∧ m.pc = pc ∧ m.copied = 0 ∧ m.need = 0 ∧ m.donors = 0) ∧
      ∀ m, c.mig = some m →
        (∀ bad : List (BitVec 31), m.copied < m.total → ∃ t, exec (.sliceMigration bad) s = .next t ∧
          t = { s with mem := { s.mem with poison := t.mem.poison }, dev := { s.dev with cel := { c with mig := some { m with copied := m.copied + 1 } } } } ∧
          ∀ g, g ∈ t.mem.poison ↔ g ∈ s.mem.poison ∨ ∃ b ∈ bad, b.toNat = g) ∧
        (m.need = 0 → m.copied = m.total → c.waiting = [] → s.dev.rel.queue.length < 64 → ∃ t b, exec .migrationEnd s = .next t ∧ t.mem = s.mem ∧
          t.dev.cel.mig = none ∧ t.dev.cel.pc m.pc = { c.pc m.pc with retired := true, migrating := false } ∧
          t.dev.cel.donated = c.donated + m.donors ∧ OneRecord s t .linkDegraded 2 (domCel (m.pc / 32)) ∧
          t.dev.atc.jobs = s.dev.atc.jobs ++ [(.map, 14, b)]) ∧
        (m.need ≠ 0 ∨ m.copied < m.total → exec .migrationEnd s = .next s)) ∧
  (
    ∀ (s : State) (k : Fin 2) (temp : BitVec 8),
      (temp.toInt ≤ 105 → exec (.stackTemperature k temp) s =
        .next (s.onDev fun d => { d with cel := { d.cel with temps := Tbl.set d.cel.temps k temp } })) ∧
      (105 < temp.toInt → ∃ t, exec (.stackTemperature k temp) s = .next t ∧ t.mem = s.mem ∧ Tbl.get 0 t.dev.cel.temps k = temp ∧
        bit t.dev.cel.err 3 = true ∧ t.dev.hkc.throttled = true))

/-- R58, R63, R705, R707, R708, R812: a frequency change: the target is taken and ramps at once where no ramp runs, but a lowering of the SPU clock by which an admitted Crate would miss its deadline is deferred; out of range it is reported; a rise takes the voltage of its operating point and waits for the regulator; the end of the ramp shows the target, and a ramp of one leg, to the next grid point or within a band of the idle VCO, switches to it.
R58, R831, R808: a deferred lowering begins once no admitted Crate would miss its deadline by it; throttling aims every DVFS domain at its lowest frequency with one record and HKC_EVT_STAT, and its release aims at the targets again; a rail out of range clears its bit.
What the spec leaves open here is the model's choice: log entries 3, 69. -/
def Obligations.frequenciesAndPowerFollowTheirRequests : Prop :=
  (
    ∀ (s : State) (k : Fin 3),
      let x := s.dev.syn k
      let syns := fun t : State => t = { s with dev := { s.dev with
          freeCtr := t.dev.freeCtr, spa := { s.dev.spa with cs0 := t.dev.spa.cs0, deferred := t.dev.spa.deferred }
          tim := { s.dev.tim with cs1 := t.dev.tim.cs1, cs2 := t.dev.tim.cs2 } } } ∧
        ∀ j : Nat, j < 3 → j ≠ k.val → t.dev.syn j = s.dev.syn j
      (∀ f : BitVec 11, s.dev.served = true → synOk k f.toNat = true → s.dev.hkc.throttled = false → x.ramp = none → f ≠ x.current →
        (k = 0 → s.dev.glb.grade = false ∨ f.toNat ≤ 1400) →
        ((k ≠ 0 ∨ x.current.toNat ≤ f.toNat ∨ s.dev.wouldMiss f.toNat = false) → ∃ t, exec (.target k f) s = .next t ∧ syns t ∧
          t.dev.syn k = { (if x.current.toNat < f.toNat then
            { x with mv := supplyMv k f.toNat, supplyReady := x.supplyReady && x.mv == supplyMv k f.toNat } else x) with target := f, ramp := some f }) ∧
        (k = 0 → f.toNat < x.current.toNat → s.dev.wouldMiss f.toNat = true → ∃ t, exec (.target k f) s = .next t ∧ syns t ∧
          t.dev.syn k = { x with target := f } ∧ t.dev.spa.deferred = true)) ∧
      (∀ f : BitVec 11, s.dev.served = true → synOk k f.toNat = false → s.dev.rel.queue.length < 64 →
        ∃ t, exec (.target k f) s = .next t ∧ t = { s with dev := { s.dev with rel := t.dev.rel } } ∧ OneRecord s t .cfgRange 0 domDevice) ∧
      (∃ t, exec (.regulatorReady k) s = .next t ∧ syns t ∧ t.dev.syn k = { x with supplyReady := true }) ∧
      (∀ f, x.ramp = some f →
        (x.current.toNat < f.toNat → x.supplyReady = false → exec (.rampDone k) s = .next s) ∧
        (f.toNat ≤ x.current.toNat ∨ x.supplyReady = true → s.dev.synAim k = f → ∃ t, exec (.rampDone k) s = .next t ∧ syns t ∧
          t.dev.syn k = { x with current := f, ramp := none, mv := supplyMv k f.toNat, supplyReady := x.supplyReady && x.mv == supplyMv k f.toNat
                                 vcoB := (t.dev.syn k).vcoB, found := (t.dev.syn k).found } ∧
          (f ≠ x.current → (gridStep f.toNat x.current.toNat = x.current.toNat ∨
              Config.bandCovers k (!x.vcoB) (Config.vcoBand k (!x.vcoB) f.toNat (x.entry s.dev.dieTemp s.dev.freeCtr f.toNat).2) x.current.toNat = true) →
            (t.dev.syn k).vcoB = !x.vcoB)))) ∧
  (
    ∀ s : State,
      let aim := s.dev.synAim 0
      let x := s.dev.spa.cs0
      (s.dev.spa.deferred = true → x.ramp = none →
        (aim = x.current → exec .dvfsLoweringApply s = .next (s.onDev fun d => { d with spa := { d.spa with deferred := false } })) ∧
        (s.dev.holdsLowering x.current aim = true → exec .dvfsLoweringApply s = .next s) ∧
        (aim ≠ x.current → s.dev.holdsLowering x.current aim = false → ∃ t, exec .dvfsLoweringApply s = .next t ∧
          t = { s with dev := { s.dev with spa := { s.dev.spa with
            cs0 := { (if x.current.toNat < aim.toNat then x.supply (supplyMv 0 aim.toNat) else x) with ramp := some aim }, deferred := false } } })) ∧
      (s.dev.hkc.throttled = false → s.dev.hot = true → s.dev.rel.queue.length < 64 → (∀ k, k < 3 → (s.dev.syn k).ramp = none) →
        ∃ t, exec .throttleEntry s = .next t ∧ t.mem = s.mem ∧ t.dev.hkc.throttled = true ∧ bit t.dev.hkc.evtStat 2 = true ∧ OneRecord s t .ok 0 domDevice ∧
          t.dev.spa.deferred = false ∧ ∀ k : Fin 3, (t.dev.syn k).target = (s.dev.syn k).target ∧
            ((t.dev.syn k).ramp = some (BitVec.ofNat 11 (synRange k).1) ∨ (s.dev.syn k).current = BitVec.ofNat 11 (synRange k).1 ∧ (t.dev.syn k).ramp = none)) ∧
      (s.dev.hot = false → exec .throttleEntry s = .next s) ∧
      (s.dev.hkc.throttled = true → s.dev.cool = true → (∀ k, k < 3 → (s.dev.syn k).ramp = none) → s.dev.glb.grade = false →
        (x.current.toNat ≤ x.target.toNat ∨ s.dev.wouldMiss x.target.toNat = false) →
        ∃ t, exec .throttleRelease s = .next t ∧ t.mem = s.mem ∧ t.dev.hkc.throttled = false ∧ bit t.dev.hkc.evtStat 2 = true ∧ t.dev.rel = s.dev.rel ∧
          ∀ k : Fin 3, (t.dev.syn k).ramp = if (s.dev.syn k).target = (s.dev.syn k).current then none else some (s.dev.syn k).target) ∧
      ∀ r : Fin 4, ∃ t, exec (.railOutOfRange r) s = .next t ∧ t = { s with dev := { s.dev with hkc := t.dev.hkc, hlk := t.dev.hlk, host := t.dev.host } } ∧
        t.dev.hkc.railOk = setBit s.dev.hkc.railOk r false ∧ (bit s.dev.hkc.railOk r = true → bit t.dev.hkc.evtStat 3 = true))

/-- R813 to R816, R829: POR and WARM resets take every domain outside the always-on one to its reset values and lose the memories but the Attic; what the always-on domain holds survives a WARM reset; a FUNCTION reset keeps the Cellar, the count and the frequencies, and clears READY. A reset over the SMBus waits for a mailbox command and for an Attic write.
What the spec leaves open here is the model's choice: log entries 5, 71. -/
def Obligations.resetsTakeEffect : Prop :=
  ∀ s : State,
    let f := State.reset.dev
    let wiped := fun t : State => t.pending = s.pending ∧ t.mem.loft = [] ∧ t.mem.cellar = [] ∧ t.mem.pool = [] ∧ t.dev.rel = f.rel ∧ t.dev.hlk = f.hlk ∧ t.dev.stk = f.stk ∧
      t.dev.spa = f.spa ∧ t.dev.insts = f.insts ∧ t.dev.mov = f.mov ∧ t.dev.barrels = f.barrels ∧ t.dev.ing = f.ing ∧ t.dev.units = f.units ∧
      t.dev.chn = f.chn ∧ t.dev.spe = f.spe ∧ t.dev.trg = f.trg ∧ t.dev.den = f.den ∧ t.dev.xsp = f.xsp ∧ t.dev.raised = [] ∧
      t.dev.tim = { f.tim with oven := s.dev.tim.oven } ∧ t.dev.hkc.ready = false ∧ t.dev.hkc.booting = true
    let warm := fun (t : State) (cause : BitVec 3) => wiped t ∧ t.dev.hkc = { f.hkc with
        wake := s.dev.hkc.wake, wakeCmp := s.dev.hkc.wakeCmp, tripped := s.dev.hkc.tripped, thermtrip := s.dev.hkc.thermtrip, cause } ∧
      t.dev.glb = { f.glb with scratch0 := s.dev.glb.scratch0, scratch1 := s.dev.glb.scratch1, scratch2 := s.dev.glb.scratch2, scratch3 := s.dev.glb.scratch3
                               gpioIn := s.dev.glb.gpioIn } ∧
      (s.dev.cel.maxSpeedSet = true → t.dev.cel.maxSpeed = s.dev.cel.maxSpeed) ∧ (s.dev.cel.retResvSet = true → t.dev.cel.retResv = s.dev.cel.retResv)
    (∃ t, exec .porstN s = .next t ∧ wiped t ∧ t.dev.hkc = f.hkc ∧ t.dev.glb = { f.glb with gpioIn := s.dev.glb.gpioIn } ∧ t.dev.cel = f.cel ∧
      (s.dev.atc.jobs = [] → t.mem.attic = s.mem.attic)) ∧
    (∃ t, exec .rstN s = .next t ∧ warm t 1 ∧ (s.dev.atc.jobs = [] → t.mem.attic = s.mem.attic)) ∧
    (s.dev.hkc.busy = true → exec .smbusReset s = .next (s.onDev fun d => { d with hkc := { d.hkc with smbWait := d.hkc.smbWait ++ [.reset] } })) ∧
    (s.dev.hkc.busy = false → s.dev.atc.jobs = [] → ∃ t, exec .smbusReset s = .next t ∧ warm t 3 ∧ t.mem.attic = s.mem.attic) ∧
    (s.dev.hkc.busy = false → s.dev.atc.jobs ≠ [] → s.dev.hkc.resetWait = none → exec .smbusReset s =
      .next (s.onDev fun d => { d with hkc := { d.hkc with resetWait := some 3 } })) ∧
    (s.dev.hkc.ready = true → s.dev.hkc.funcReset = none → ∃ t, exec .functionReset s = .next t ∧ t.mem = { s.mem with pool := [] } ∧ t.dev.glb = s.dev.glb ∧
      t.dev.rel = { s.dev.rel with queue := [], overflow := 0, dropped := false } ∧ t.dev.atc = s.dev.atc ∧
      t.dev.hkc = { s.dev.hkc with ready := false, cause := 5, funcReset := some false } ∧ t.dev.tim.count = s.dev.tim.count ∧
      t.dev.spa = { cs0 := s.dev.spa.cs0 } ∧ t.dev.hlk.linkStat = s.dev.hlk.linkStat ∧ (∀ n, t.dev.session n = {}) ∧ t.dev.hlk.live = [] ∧
      t.dev.insts = [] ∧ t.dev.barrels = [] ∧ t.dev.units = [] ∧ (∀ p, (t.dev.port p).st = .idle))

/-- R817 to R819, R664: BOOT runs once, from step 1; a rail that is not in range or a digest that does not match halts it; otherwise it ends at step 8, with the count started at 0 and a boot key drawn. READY is step 9. Configuration requests are answered with Retry Status until then.
R823 to R825, R829, R758: STANDBY needs every session but 0 closed and notes its step 2 once no Attic write runs; a wake request cancels it before step 3, and from standby starts a WARM reset with its cause; a command of the SMBus waits while one of the mailbox runs; the SMBus reads its three blocks.
What the spec leaves open here is the model's choice: log entries 70, 72. -/
def Obligations.bootAndStandbyReachTheirEnds : Prop :=
  (
    ∀ (s : State) (rails : BitVec 4) (spus : List (Fin 68)) (h : Fin 3) (rep : List (Fin 64 × BitVec 5)), s.dev.hkc.booting = true → s.dev.hkc.ready = false →
      let boot := fun dig => Instr.boot rails dig spus (some h) [] rep
      (s.dev.hkc.stage = 0 → rails ≠ 0xF → ∀ dig, exec (boot dig) s =
        .next (s.onDev fun d => { d with hkc := { d.hkc with railOk := rails, stage := 1, fail := 0x01 } })) ∧
      (s.dev.hkc.stage = 0 → rails = 0xF → ∃ t, exec (boot false) s = .next t ∧ t.mem = s.mem ∧ t.dev.hkc.stage = 3 ∧ t.dev.hkc.fail = 0x03 ∧ t.dev.hkc.ready = false) ∧
      (s.dev.hkc.stage = 0 → rails = 0xF → s.dev.cel.dead = 0 → ∃ t, exec (boot true) s = .next t ∧ t.mem = { s.mem with key := t.mem.key } ∧ t.dev.hkc.stage = 8 ∧
        t.dev.hkc.railOk = 0xF ∧ t.dev.hkc.ready = false ∧ t.dev.tim.started = true ∧ t.dev.tim.count = 0 ∧ t.dev.cel.trained = 3 ∧
        t.dev.cel.height.toNat = h.val ∧ t.dev.glb.cellarGib.toNat = 48 + 24 * h.val ∧ ∃ n, t.mem.key = Config.freeWord n) ∧
      (s.dev.hkc.stage ≠ 0 → ∀ dig, exec (boot dig) s = .next s) ∧
      (∀ ms : BitVec 16, s.dev.hkc.stage = 8 → s.dev.hkc.funcReset = none → s.dev.hkc.smbWait = [] → exec (.ready ms) s =
        .next (s.onDev fun d => { d with hkc := { d.hkc with ready := true, booting := false, stage := 9, bootMs := ms } })) ∧
      (fld s.dev.hlk.linkStat 0 2 ≠ 0 → exec .configurationRequest s = .next (s.onDev fun d => { d with host := d.host ++ [.config false] }))) ∧
  (
    ∀ s : State,
      let h := s.dev.hkc
      h.smbWait = [] →
      (h.ready = true → h.stbyReq = false → h.busy = false → (∀ p ∈ s.dev.hlk.sessions, p.1 ≠ 0 → p.2.st = .closed) → s.dev.atc.jobs = [] →
        (exec .smbusStandby s = .next (s.onDev fun d => { d with
          hkc := { d.hkc with stbyMailbox := false, stbyReq := true, stbyAt := some d.tim.ticks, smbStatus := Status.ok.code } })) ∧
        (∃ t, exec .standby s = .next t ∧ t.dev.hkc.stbyReq = true ∧ t.dev.hkc.stbyAt = some s.dev.tim.ticks ∧ t.dev.hkc.status = Status.ok.code ∧
          t.dev.hkc.done = true ∧ t.mem = s.mem)) ∧
      (h.ready = true → h.stbyReq = false → h.busy = false → (∃ p ∈ s.dev.hlk.sessions, p.1 ≠ 0 ∧ p.2.st ≠ .closed) →
        exec .smbusStandby s = .next (s.onDev fun d => { d with hkc := { d.hkc with stbyMailbox := false, smbStatus := Status.cfgLocked.code } })) ∧
      (h.standby = false → h.stbyReq = true → h.stbyMailbox = false → ∀ c, c = .wake ∨ (∃ k, c = .wakeRequest k) → exec c s =
        .next (s.onDev fun d => { d with hkc := { d.hkc with smbStatus := Status.cancelled.code, stbyReq := false, stbyAt := none } })) ∧
      (h.busy = true → exec .smbusStandby s = .next (s.onDev fun d => { d with hkc := { d.hkc with smbWait := [.standby] } })) ∧
      (h.standby = true → (h.busy = false → ∃ t, exec .wake s = .next t ∧ t.dev.hkc.cause = 4 ∧ t.dev.hkc.wake = 2 ∧ t.dev.hkc.wakeCmp = 0 ∧ t.dev.hkc.pwrReq = true ∧ t.dev.hkc.standby = false ∧
          t.mem.attic = s.mem.attic) ∧
        ∀ k : Fin 8, ∃ t, exec (.wakeRequest (some k)) s = .next t ∧ t.dev.hkc.cause = 4 ∧ t.dev.hkc.wake = 1 ∧ t.dev.hkc.wakeCmp = setBit 0 k true ∧ t.dev.hkc.pwrReq = true ∧
          t.dev.hkc.standby = false ∧ t.mem.attic = s.mem.attic) ∧
      (∀ (k : Fin 8) (v : BitVec 4) (x : MonCmp), h.standby = true → (s.dev.cmpRec k).en = true → (s.dev.cmpRec k).wake = true → (s.dev.cmpRec k).test = 0 →
        (s.dev.mon.cmp k).sample (s.dev.cmpRec k) false v = (x, .edge) → ∃ t, exec (.standbyWakeEdge k [v]) s = .next t ∧ t.dev.hkc.cause = 4 ∧
          t.dev.hkc.wake = 1 ∧ t.dev.hkc.wakeCmp = setBit 0 k true ∧ t.dev.hkc.standby = false) ∧
      (∀ k : Fin 3, exec (.smbusRead k) s = .next (s.onDev fun d => { d with host := d.host ++ [.reply (
        if k = 0 then s.mem.atticRun (atticOffset 0 + 16) 36 else leBytes 4 (if k = 1 then h.bootStat else h.pwrStat).toNat)] })) ∧
      (h.standby = false → (∃ i : Fin 4, 1000 < (Tbl.get 0 s.dev.mon.temps (20 + i)).toInt) → ∃ t, exec .thermalTrip s = .next t ∧ t.dev.hkc.tripped = true ∧
        t.dev.hkc.thermtrip = true ∧ t.dev.hkc.booting = false ∧ t.dev.hkc.ready = false ∧ t.mem.loft = [] ∧ t.mem.cellar = []))

/-- R826, R827, R828: a mailbox command runs while none does, shows its code, and completes with a status, its results, DONE and HKC_EVT_STAT.DONE; one that arrives meanwhile is ignored and counted.
What the spec leaves open here is the model's choice: log entry 73. -/
def Obligations.mailboxCommandsComplete : Prop :=
  ∀ s : State, s.dev.hkc.ready = true →
    let ends := fun (c : Instr) (cmd : BitVec 8) (st : Status) (res : List Reg) => ∃ t, exec c s = .next t ∧
      t = { s with dev := { s.dev with hkc := t.dev.hkc, hlk := t.dev.hlk, host := t.dev.host } } ∧
      t.dev.hkc.cmd = cmd ∧ t.dev.hkc.status = st.code ∧ t.dev.hkc.busy = false ∧ t.dev.hkc.done = true ∧ bit t.dev.hkc.evtStat 0 = true ∧
      ∀ k v, res[k]? = some v → Tbl.get 0 t.dev.hkc.res k = v
    (s.dev.hkc.busy = false →
      ends .version 0x01 .ok [Config.fwVersion.zeroExtend 32, Config.romVersion.zeroExtend 32, 0x9640, s.dev.glb.stepping.zeroExtend 32] ∧
      (∀ a b c e : BitVec 16, ends (.sensors a b c e) 0x04 .ok
        (((List.range 4).map fun i => (Tbl.get 0 s.dev.mon.temps (20 + i)).zeroExtend 32) ++ [a, b, c, e].map fun v => BitVec.ofNat 32 (v.toNat / 10))) ∧
      (∀ c : BitVec 8, c = 0 ∨ 5 < c.toNat → ends (.unknownMailboxCommand c) c .cfgRange []) ∧
      (∀ sums trims temp hits, Tbl.get 0 s.dev.hkc.args 0 = 0 → (∀ j ∈ s.dev.atc.jobs, j.1.isSave = false) → ends (.calibrate sums trims temp hits) 0x05 .ok []) ∧
      ((Tbl.get 0 s.dev.hkc.args 0).toNat = 3 → ends .reset 0x02 .cfgRange []) ∧
      (Tbl.get 0 s.dev.hkc.args 0 = 1 → s.dev.atc.jobs = [] → ∃ t, exec .reset s = .next t ∧ t.dev.hkc.cause = 2 ∧ t.dev.hkc.ready = false ∧ t.dev.hkc.booting = true ∧
        t.mem.loft = [] ∧ t.mem.attic = s.mem.attic) ∧
      (Tbl.get 0 s.dev.hkc.args 0 = 2 → ∃ t, exec .reset s = .next t ∧ t.dev.hkc.cause = 5 ∧ t.dev.hkc.funcReset = some true ∧ t.dev.hkc.ready = false ∧
        t.mem = { s.mem with pool := [] })) ∧
    (s.dev.hkc.busy = true → ∀ c, c = .version ∨ c = .reset ∨ c = .standby → exec c s = .next (s.onDev fun d => { d with
      hkc := { d.hkc with ignored := BitVec.ofNat 16 (min (d.hkc.ignored.toNat + 1) 65535) } }))

/-- R691, R692, R690, R695: the states of the reference PLL, with event 0x202 at each change; a loss of REFIN is counted and reported; the offset measured on its return is added up.
R700 to R703: a step moves the count by whole ticks at once and slews the rest at 1,000 ppb; SET loads the count and ends UNSET; each change of the count raises event 0x203 and is counted; a slew takes its amount and its rate, and its end raises event 0x204.
R13, R726, R727, R728, R741: times are compared by the signed difference of the counts; an alarm whose time has come fires once, or goes on by its period; a rise of the sync pin waits for the next multiple of 64 ticks after its lead; strobes and ring commands raise their event at their time.
R723, R724: a missing pulse is counted, raises event 0x201, and makes the next edge a first one; a write of MODE makes the next edge a first one; MODE 3 is rejected.
What the spec leaves open here is the model's choice: log entries 3, 21, 53, 55. -/
def Obligations.theTimeBaseFollowsReferenceAndAdjustment : Prop :=
  (
    ∀ s : State,
      let x := s.dev.tim
      let moved := fun (c : Instr) (y : Tim) (r : RefState) => exec c s = .next { s with dev := { s.dev with
        tim := { y with ref := r }, raised := s.dev.raised ++ [{ id := 0x202, time := s.dev.stamp }] } }
      let same := fun c : Instr => exec c s = .next s
      let lost := fun (r : RefState) => s.dev.rel.queue.length < 64 → ∃ t, exec .refinLoss s = .next t ∧ OneRecord s t .ok 0 domDevice ∧
        t = { s with dev := { s.dev with rel := t.dev.rel, raised := s.dev.raised ++ [{ id := 0x202, time := s.dev.stamp }]
                                         tim := { x with ref := r, loss := true, losses := BitVec.ofNat 16 (min (x.losses.toNat + 1) 65535) } } }
      (∀ (b : Bool) (o : BitVec 32),
        (x.ref = .free → moved (.refinValid b o) { x with ref100 := b } .acquire) ∧
        (x.ref = .holdover → moved (.refinValid b o)
          { x with ref100 := b, ret := true, pbo := o, pboSum := BitVec.ofInt 32 (satS 32 (x.pboSum.toInt + o.toInt)) } .recover) ∧
        (x.ref ≠ .free → x.ref ≠ .holdover → same (.refinValid b o))) ∧
      (x.ref = .acquire ∨ x.ref = .recover → moved .pllLocked x (if x.oven = true ∨ bit x.refCtl 5 = true then .locked else .warmup)) ∧
      (x.ref ≠ .acquire → x.ref ≠ .recover → same .pllLocked) ∧
      (x.ref = .acquire → lost .free) ∧
      (x.ref = .locked ∨ x.ref = .warmup ∨ x.ref = .recover → lost .holdover) ∧
      (x.ref = .free ∨ x.ref = .holdover → same .refinLoss) ∧
      (x.ref = .locked → bit x.refCtl 5 = false → moved (.ovenReady false) { x with oven := false } .warmup) ∧
      (x.ref = .warmup → moved (.ovenReady true) { x with oven := true } .locked) ∧
      ∀ b : Bool, x.ref ≠ .locked → x.ref ≠ .warmup → exec (.ovenReady b) s = .next (s.onDev fun d => { d with tim := { d.tim with oven := b } })) ∧
  (
    ∀ s : State,
      let x := s.dev.tim
      let counted := fun (t : State) (v : BitVec 64) => t = { s with dev := { s.dev with
          tim := t.dev.tim, rel := t.dev.rel, raised := s.dev.raised ++ [{ id := 0x203, time := stampOf v }] } } ∧
        t.dev.tim = { x with count := v, ppsLast := t.dev.tim.ppsLast, rem := t.dev.tim.rem, slewRate := t.dev.tim.slewRate, slewAcc := t.dev.tim.slewAcc
                             unset := t.dev.tim.unset, adjVal := t.dev.tim.adjVal, adjCtl := t.dev.tim.adjCtl
                             steps := BitVec.ofNat 16 (min (x.steps.toNat + 1) 65535) } ∧ bit t.dev.tim.adjCtl 2 = false
      (s.dev.served = true → s.dev.rel.devFault = false → ∀ v : BitVec 64,
        (∃ t, exec (.stepTime v) s = .next t ∧ counted t (x.count + BitVec.ofInt 64 (v.toInt / 256)) ∧ t.dev.tim.unset = x.unset ∧
          t.dev.tim.rem = v.toInt % 256 ∧ t.dev.tim.slewRate = 1000) ∧
        (∃ t, exec (.set_ v) s = .next t ∧ counted t v ∧ t.dev.tim.unset = false ∧ t.dev.tim.rem = x.rem) ∧
        (∃ t, exec (.slew v) s = .next t ∧ t.dev.tim.count = x.count ∧ t.dev.tim.rem = v.toInt ∧ t.dev.tim.unset = x.unset ∧ t.mem = s.mem ∧
          (v ≠ 0 → t.dev.tim.slewRate = fld x.adjCtl 4 10 ∧ t.dev.raised = s.dev.raised) ∧
          (v = 0 → t.dev.raised = s.dev.raised ++ [{ id := 0x204, time := s.dev.stamp }]))) ∧
      (x.rem ≠ 0 → exec .slewComplete s = .next { s with dev := { s.dev with
        tim := { x with rem := 0, slewRate := 0, slewAcc := 0 }, raised := s.dev.raised ++ [{ id := 0x204, time := s.dev.stamp }] } }) ∧
      (x.rem = 0 → exec .slewComplete s = .next s)) ∧
  (
    ∀ s : State,
      let x := s.dev.tim
      let later := fun v : BitVec 64 => (x.count - v).toInt < 0
      (∀ k : Fin 8, let a := x.alarm k
        (a.en = false ∨ later a.t → exec (.tickAlarm k) s = .next s) ∧
        (a.en = true → ¬ later a.t → ∃ t, exec (.tickAlarm k) s = .next t ∧
          t = { s with dev := { s.dev with tim := { x with alarms := t.dev.tim.alarms }
                                           raised := s.dev.raised ++ [{ id := 0x208 + BitVec.ofNat 12 k.val, time := s.dev.stamp }] } } ∧
          t.dev.tim.alarm k = { t := a.t + a.period.zeroExtend 64, period := a.period, en := a.period != 0, late := a.late || decide (a.t ≠ x.count)
                                fires := BitVec.ofNat 16 (min (a.fires.toNat + 1) 65535) } ∧
          ∀ j : Nat, j ≠ k.val → t.dev.tim.alarm j = x.alarm j)) ∧
      (bit x.syncCfg 0 = false → exec .syncPinEdge s = .next s) ∧
      (bit x.syncCfg 0 = true → ∃ t at_, exec .syncPinEdge s = .next t ∧ t.mem = s.mem ∧ t.dev.tim.count = x.count ∧ t.dev.raised = s.dev.raised ∧
        t.dev.tim.atT = x.atT ++ [{ t := at_, index := 0, ring := false }] ∧
        (x.count.toNat + 65536 + 64 < 2 ^ 64 → 2 ≤ x.count.toNat → at_.toNat % 64 = 0 ∧
          x.count.toNat - 2 + fld x.syncCfg 16 16 ≤ at_.toNat ∧ at_.toNat < x.count.toNat - 2 + fld x.syncCfg 16 16 + 64)) ∧
      ((∀ c ∈ x.atT, later c.t) → exec .ringCommandAtT s = .next s) ∧
      (∀ c, x.atT = [c] → ¬ later c.t → c.ring = false → exec .ringCommandAtT s = .next { s with dev := { s.dev with
        tim := { x with atT := [] }, raised := s.dev.raised ++ [{ id := 0x600 + c.index.zeroExtend 12, time := s.dev.stamp }] } }) ∧
      (∀ c, x.atT = [c] → ¬ later c.t → c.ring = true → c.index ≠ 1 → exec .ringCommandAtT s = .next { s with dev := { s.dev with
        tim := { x with atT := [], ring := { x.ring with arg := c.arg } }
        raised := s.dev.raised ++ [{ id := 0x600 + c.index.zeroExtend 12, time := s.dev.stamp }] } }) ∧
      ∀ c, x.atT = [c] → ¬ later c.t → c.ring = true → c.index = 1 → ∃ t, exec .ringCommandAtT s = .next t ∧ t.mem = s.mem ∧
        t.dev.tim.unset = false ∧ t.dev.tim.count = x.count + BitVec.ofInt 64 (-x.ring.off.toInt / 256) ∧ t.dev.tim.rem = -x.ring.off.toInt % 256) ∧
  (
    ∀ s : State,
      let x := s.dev.tim
      let mode := fld x.ppsCfg 0 2
      (x.ppsLast = none ∨ mode = 0 → exec .ppsMissing s = .next s) ∧
      (x.ppsLast ≠ none → mode ≠ 0 → exec .ppsMissing s = .next { s with dev := { s.dev with
        tim := { x with ppsLast := none, ppsMissing := true, ppsMissed := BitVec.ofNat 16 (min (x.ppsMissed.toNat + 1) 65535) }
        raised := s.dev.raised ++ [{ id := 0x201, time := s.dev.stamp }] } }) ∧
      (s.dev.served = true → (∀ m : BitVec 2, m ≠ 3 → ∃ t, exec (.mode m) s = .next t ∧ t = { s with dev := { s.dev with
          tim := { x with ppsCfg := t.dev.tim.ppsCfg, ppsLast := none } } } ∧ fld t.dev.tim.ppsCfg 0 2 = m.toNat ∧
          fld t.dev.tim.ppsCfg 2 14 = fld x.ppsCfg 2 14) ∧
        (s.dev.rel.queue.length < 64 → ∃ t, exec (.mode 3) s = .next t ∧ t = { s with dev := { s.dev with rel := t.dev.rel } } ∧
          OneRecord s t .cfgRange 0 domDevice)))

/-- R723, R724, R725: an accepted PPS edge shows its offset and raises event 0x200; in MODE 2 it sets the time to TIM_PPS_SEC, UNSET clears, and MODE becomes 1; any other edge is ignored. -/
def Obligations.pulsesPerSecondAreFollowed : Prop :=
  ∀ s : State,
    let x := s.dev.tim
    let mode := fld x.ppsCfg 0 2
    ∀ time : BitVec 72,
      let near := x.ppsLast = none ∨ ∃ l, x.ppsLast = some l ∧ (stampDiff time l - fineSecond).natAbs ≤ fld x.ppsCfg 2 14 * 2048 * 256
      (mode = 0 ∨ mode = 3 ∨ ¬ near → exec (.ppsEdge time) s = .next s) ∧
      (mode = 1 → near → ∃ t, exec (.ppsEdge time) s = .next t ∧ t = { s with dev := { s.dev with
        tim := { x with ppsLast := some time, ppsOff := t.dev.tim.ppsOff }, raised := s.dev.raised ++ [{ id := 0x200, time }] } } ∧
        ∀ k : Nat, k * fineSecond ≤ time.toNat → time.toNat < k * fineSecond + fineSecond / 2 →
          t.dev.tim.ppsOff = BitVec.ofInt 32 (satS 32 (time.toNat - k * fineSecond : Nat))) ∧
      (mode = 2 → near → ∃ t, exec (.ppsEdge time) s = .next t ∧ t.mem = s.mem ∧ t.dev.tim.unset = false ∧ fld t.dev.tim.ppsCfg 0 2 = 1 ∧
        (let v := (x.ppsSec.toNat * fineSecond : Int) - time.toNat
         t.dev.tim.count = x.count + BitVec.ofInt 64 (v / 256) ∧ t.dev.tim.rem = v % 256) ∧
        t.dev.raised = s.dev.raised ++ [{ id := 0x200, time }, { id := 0x203, time := stampOf t.dev.tim.count }])

/-- R709 to R711, R715 to R718: an edge of a detected polarity is counted; it is stamped unless it comes less than 41 ticks after the last one, which counts it as dropped; a ready stamp goes to its ring with its source, sequence number and flags, and raises its event.
R719, R720, R722: a statistics unit pairs its earliest final start with the stop in its window, or counts it UNPAIRED; in MODE 1 it takes the interval to the stamp before; a unit that is not enabled does nothing.
R712 to R714, R745: the idle line of an input starts to calibrate when due (AUTO) or asked; with 4,194,304 hits it has its table or an error; the lines swap when no edge is in flight; SAVE starts one write of the TDC record.
What the spec leaves open here is the model's choice: log entries 3, 56. -/
def Obligations.edgesAreStampedAndPaired : Prop :=
  (
    ∀ (s : State) (n : Fin 9), let x := s.dev.tim.input n
      let only := fun t : State => t = { s with dev := { s.dev with tim := { s.dev.tim with inputs := t.dev.tim.inputs } } } ∧
        ∀ j : Nat, j ≠ n.val → t.dev.tim.input j = s.dev.tim.input j
      let nextLost : List TimStamp → TsIn := fun l => match l with
        | [] => { x with flight := [], lost := true }
        | y :: l => { x with flight := { y with lost := true } :: l }
      (∀ (rising : Bool) (code : Fin 320) (r : TsiRec), s.dev.tsiRec? n = some r → r.en = true → (r.edge = 2 ∨ (r.edge = 0 ↔ rising = true) ∧ r.edge ≤ 1) →
        (x.last = none ∨ (∃ l, x.last = some l ∧ 41 ≤ (s.dev.tim.ticks - l).toNat) → ∃ t, exec (.stampEdge n rising code) s = .next t ∧ only t ∧
          t.dev.tim.input n = { x with cnt := x.cnt + 1, last := some s.dev.tim.ticks, lost := false
                                       flight := x.flight ++ [{ time := (s.dev.tim.edgeStamp n code).1, seq := (x.cnt + 1).toNat % 4096
                                                                cal := (s.dev.tim.edgeStamp n code).2, lost := x.lost }] }) ∧
        ((∃ l, x.last = some l ∧ (s.dev.tim.ticks - l).toNat < 41) → ∃ t, exec (.stampEdge n rising code) s = .next t ∧ only t ∧
          t.dev.tim.input n = { x with cnt := x.cnt + 1, lost := true, drop := BitVec.ofNat 32 (min (x.drop.toNat + 1) (2 ^ 32 - 1)) })) ∧
      (∀ (code : Fin 320), Tbl.find? s.dev.tim.tables (2 * n + x.line.toNat) = none →
        s.dev.tim.edgeStamp n code = (BitVec.ofNat 72 (s.dev.tim.count.toNat * 256 + (code.val * 512 + 320) / 640), true)) ∧
      (x.flight = [] → exec (.stampReady n) s = .next s) ∧
      (∀ e rest, x.flight = e :: rest → (∀ r, s.dev.tsiRec? n = some r → r.en = false) → ∃ t, exec (.stampReady n) s = .next t ∧ only t ∧
        t.dev.tim.input n = if e.lost then nextLost rest else { x with flight := rest }) ∧
      ∀ (e : TimStamp) (rest : List TimStamp) (r : TsiRec), x.flight = e :: rest → s.dev.tsiRec? n = some r → r.en = true → r.dest.kind = 1 →
        (∀ u, s.dev.statsRec? u = none) →
        let w := fld (s.mem.loftGet r.dest.idx).data 0 36
        let read := fld (s.mem.loftGet (r.dest.idx + 1)).data 0 36
        ((w + 2 ^ 36 - read) % 2 ^ 36 < r.dest.nrec ∨ r.dest.ovw = true → r.dest.idx < r.dest.base → r.dest.nrec ≠ 0 →
          r.dest.idx < 2 ^ 24 → r.dest.base + 4 * r.dest.nrec ≤ 2 ^ 24 → ∃ t, exec (.stampReady n) s = .next t ∧
            t.dev.tim.input n = { x with flight := rest } ∧
            (∀ k, k < 4 → (t.mem.loftGet (r.dest.base + w % r.dest.nrec * 4 + k)).data =
              match k with
              | 0 => BitVec.ofNat 36 e.time.toNat
              | 1 => BitVec.ofNat 36 (e.time.toNat / 2 ^ 36)
              | 2 => BitVec.ofNat 36 (n.val + e.seq * 2 ^ 8 + ((s.dev.tim.ref != .locked).toNat + 2 * s.dev.tim.unset.toNat + 4 * e.lost.toNat + 8 * e.cal.toNat) * 2 ^ 20)
              | _ => 0) ∧
            fld (t.mem.loftGet r.dest.idx).data 0 36 = (w + 1) % 2 ^ 36 ∧
            (∀ a, a ≠ r.dest.idx → (a < r.dest.base + w % r.dest.nrec * 4 ∨ r.dest.base + w % r.dest.nrec * 4 + 4 ≤ a) → t.mem.loftGet a = s.mem.loftGet a) ∧
            t.dev.raised = if r.evt = true ∧ n.val < 8 then s.dev.raised ++ [{ id := 0x300 + BitVec.ofNat 12 n.val, time := e.time }] else s.dev.raised) ∧
        (r.dest.nrec ≤ (w + 2 ^ 36 - read) % 2 ^ 36 → r.dest.ovw = false → s.dev.rel.queue.length < 64 → ∃ t, exec (.stampReady n) s = .next t ∧ t.mem = s.mem ∧
          t.dev.tim.input n = { nextLost rest with ringFull := true, drop := BitVec.ofNat 32 (min (x.drop.toNat + 1) (2 ^ 32 - 1)) } ∧
          (x.ringFull = true → t.dev.rel = s.dev.rel) ∧ (x.ringFull = false → OneRecord s t .ok 2 domDevice))) ∧
  (
    ∀ (s : State) (u : Fin 4), let e := s.dev.tim.stat u
      (s.dev.statsRec? u = none ∨ (∃ x, s.dev.statsRec? u = some x ∧ x.en = false) → exec (.statsPairing u) s = .next s) ∧
      ∀ (x : StatsRec) (a : Stamp) (l : Bool) (rest : List (Stamp × Bool)), s.dev.statsRec? u = some x → x.en = true → e.n + 1 < x.n → e.starts = (a, l) :: rest →
        (x.win + 16384 : Int) ≤ stampDiff (stampOf s.dev.tim.count) a →
        let only := fun t : State => t = { s with dev := { s.dev with tim := { s.dev.tim with stats := t.dev.tim.stats } } } ∧
          ∀ j : Nat, j ≠ u.val → t.dev.tim.stat j = s.dev.tim.stat j
        let counts := fun (f : TimStat) (v : Int) => f.n = e.n + 1 ∧ f.s1 = e.s1 + v ∧ f.s2 = e.s2 + (v * v).toNat ∧ f.unpaired = e.unpaired ∧
          (f.first = if e.first = none then some a else e.first)
        (x.mode = false → ∀ y : Stamp, e.stops = [y] → (stampDiff y a).natAbs ≤ x.win → ∃ t, exec (.statsPairing u) s = .next t ∧ only t ∧
          counts (t.dev.tim.stat u) (stampDiff y a) ∧ (t.dev.tim.stat u).starts = rest ∧ (t.dev.tim.stat u).stops = []) ∧
        (x.mode = false → e.stops = [] → ∃ t, exec (.statsPairing u) s = .next t ∧ only t ∧
          t.dev.tim.stat u = { e with starts := rest, first := if e.first = none then some a else e.first, unpaired := min (e.unpaired + 1) 4095 }) ∧
        (x.mode = true → ∀ p, e.prev = some p → l = false → stampDiff a p < 2 ^ 27 → ∃ t, exec (.statsPairing u) s = .next t ∧ only t ∧
          counts (t.dev.tim.stat u) (stampDiff a p) ∧ (t.dev.tim.stat u).prev = some a) ∧
        (x.mode = true → e.prev = none → ∃ t, exec (.statsPairing u) s = .next t ∧ only t ∧
          t.dev.tim.stat u = { e with starts := rest, prev := some a, first := if e.first = none then some a else e.first })) ∧
  (
    ∀ s : State,
      let x := s.dev.tim
      (∀ n : Fin 9, let i := x.input n
        (bit x.tdcCtl 0 = false → exec (.tdcCalibrationDue n) s = .next s) ∧
        (bit x.tdcCtl 0 = true → ∃ t, exec (.tdcCalibrationDue n) s = .next t ∧ t = { s with dev := { s.dev with tim := { x with inputs := t.dev.tim.inputs } } } ∧
          t.dev.tim.input n = { i with calibrating := true } ∧ ∀ j : Nat, j ≠ n.val → t.dev.tim.input j = x.input j) ∧
        (i.swap = true → i.flight = [] → i.calibrating = false → ∃ t, exec (.lineSwap n) s = .next t ∧ t = { s with dev := { s.dev with tim := { x with inputs := t.dev.tim.inputs } } } ∧
          t.dev.tim.input n = { i with line := !i.line, swap := false } ∧ ∀ j : Nat, j ≠ n.val → t.dev.tim.input j = x.input j) ∧
        (i.swap = false ∨ i.flight ≠ [] ∨ i.calibrating = true → exec (.lineSwap n) s = .next s) ∧
        ∀ (temp : BitVec 16) (hits : List (BitVec 23)),
          let h := hits.map BitVec.toNat
          (i.calibrating = false → exec (.tdcCalibration n temp hits) s = .next s) ∧
          (i.calibrating = true → hits.length = 320 → h.foldl (· + ·) 0 = 4194304 →
            (hitsValid h = true → ∃ t, exec (.tdcCalibration n temp hits) s = .next t ∧ t.mem = s.mem ∧ t.dev.rel = s.dev.rel ∧
              t.dev.tim.input n = { i with calibrating := false, swap := true } ∧
              (let line := 2 * n.val + (!i.line).toNat
               (∃ f, Tbl.find? t.dev.tim.tables line = some f ∧ f.length = 320 ∧
                ∀ c v, f[c]? = some v → v = BitVec.ofNat 9 ((256 * (2 * (h.take c).foldl (· + ·) 0 + (h[c]?).getD 0) + 4194304) / 8388608)) ∧
               Tbl.get 0 t.dev.tim.calTemps line = temp ∧ ∀ j, j ≠ line → Tbl.find? t.dev.tim.tables j = Tbl.find? x.tables j)) ∧
            (hitsValid h = false → s.dev.rel.queue.length < 64 → ∃ t, exec (.tdcCalibration n temp hits) s = .next t ∧ t.mem = s.mem ∧
              t.dev.tim.input n = { i with calibrating := false } ∧ t.dev.tim.tables = x.tables ∧ t.dev.tim.calErr = true ∧ OneRecord s t .ok 0 domDevice))) ∧
      (s.dev.served = true → s.dev.rel.devFault = false →
        (∃ t, exec .tdcCal s = .next t ∧ t = { s with dev := { s.dev with tim := { x with inputs := t.dev.tim.inputs, tdcCtl := setBit x.tdcCtl 1 true } } } ∧
          ∀ n, n < 9 → t.dev.tim.input n = { x.input n with calibrating := true }) ∧
        (bit x.tdcCtl 2 = false → ∃ body, exec .tdcSave s = .next { s with dev := { s.dev with
          tim := { x with tdcCtl := setBit x.tdcCtl 2 true }, atc := { s.dev.atc with jobs := s.dev.atc.jobs ++ [(.tdcSave, 6, body)] } } } ∧
          body.take 2 = leBytes 2 (Tbl.get 0 x.calTemps 0).toNat) ∧
        (bit x.tdcCtl 2 = true → exec .tdcSave s = .next s)))

/-- R730, R733, R734, R737, R738: the ring does nothing while it is not enabled; a master sends its beacons and enumerates; every device sends echo requests; a change of the receive links is told to the master; a follower without beacons is isolated; a frame with a bad CRC is counted.
R734, R735, R738, R742: an echo request is answered in the other direction; a beacon of the followed master ends ISOLATED, is forwarded and gives the offset where it came from the chosen direction; a master that hears another one notes the conflict once.
What the spec leaves open here is the model's choice: log entries 57, 58. -/
def Obligations.theSyncRingKeepsDevicesInStep : Prop :=
  (
    ∀ s : State,
      let r := s.dev.tim.ring
      let ringOnly := fun t : State => t = { s with dev := { s.dev with tim := { s.dev.tim with ring := t.dev.tim.ring } } }
      let sends := fun (t : State) (l : List (Nat × Nat)) => ∃ fs : List (Nat × BitVec 256), t.dev.tim.ring.sent = r.sent ++ fs ∧
        fs.map (fun f => (f.1, fld f.2 0 8)) = l
      (r.en = false → ∀ c, c = .enum ∨ c = .beacon ∨ c = .isolated ∨ (∃ a b, c = .echoReq a b) ∨ (∃ a b, c = .change a b) ∨
        (∃ d f a n, c = .ringFrameReceive d f a n) → exec c s = .next s) ∧
      (r.master = false → exec .enum s = .next s ∧ exec .beacon s = .next s) ∧
      (r.master = true → exec .isolated s = .next s) ∧
      (r.en = true → r.master = true → ∃ t, exec .beacon s = .next t ∧ ringOnly t ∧ sends t [(0, 1), (1, 1)] ∧ t.dev.tim.ring.seq = r.seq + 2) ∧
      (r.en = true → ∀ a b, ∃ t, exec (.echoReq a b) s = .next t ∧ ringOnly t ∧ sends t [(0, 6), (1, 6)]) ∧
      (r.en = true → r.master = true → r.rx0 = true → r.rx1 = true → ∃ t, exec .enum s = .next t ∧ ringOnly t ∧ sends t [(0, 3), (1, 3)] ∧
        t.dev.tim.ring.gen = r.gen + 1 ∧ t.dev.tim.ring.pos0 = 0 ∧ t.dev.tim.ring.pos1 = 0 ∧ t.dev.tim.ring.enumerating = some (none, none)) ∧
      (r.en = true → r.master = false → ∀ a b, (a, b) ≠ (r.rx0, r.rx1) → ∃ t, exec (.change a b) s = .next t ∧ ringOnly t ∧ sends t [(0, 8), (1, 8)] ∧
        t.dev.tim.ring.rx0 = a ∧ t.dev.tim.ring.rx1 = b) ∧
      exec (.change r.rx0 r.rx1) s = .next s ∧
      (r.en = true → r.master = false → exec .isolated s = .next (s.onDev fun d => { d with tim := { d.tim with ring := { r with isolated := true } } })) ∧
      ∀ (dir : Fin 2) (f : BitVec 256) (time : BitVec 72) (n : BitVec 32), r.en = true → RingFrame.dec f = none →
        (r.crcRun < 15 ∨ r.master = false) → exec (.ringFrameReceive dir f time n) s = .next (s.onDev fun d => { d with tim := { d.tim with
          ring := { r with crc := BitVec.ofNat 16 (min (r.crc.toNat + 1) 65535), crcRun := r.crcRun + 1 } } })) ∧
  (
    ∀ (s : State) (dir : Fin 2) (x : BitVec 256) (f : RingFrame) (time : BitVec 72) (res : BitVec 32),
      let r := s.dev.tim.ring
      let c := Instr.ringFrameReceive dir x time res
      r.en = true → RingFrame.dec x = some f →
      (f.typ = 6 → ∃ t y, exec c s = .next t ∧ t.mem = s.mem ∧ t.dev.tim.ring.sent = r.sent ++ [(1 - dir.val, y)] ∧ fld y 0 8 = 7 ∧ fld y 64 64 = f.w1 % 2 ^ 64 ∧
        fld y 128 64 = res.toNat) ∧
      (f.typ = 7 → ∃ t, exec c s = .next t ∧ t.mem = s.mem ∧ t.dev.tim.ring.sent = r.sent ∧ t.dev.freeCtr = s.dev.freeCtr + 1 ∧
        (dir = 0 → t.dev.tim.ring.hop1 = r.hop1 ∧
          let trip : Int := ((time.toNat + 2 ^ 40 - f.w1 % 2 ^ 40) % 2 ^ 40 : Nat)
          t.dev.tim.ring.echo0.getLast? = some ((trip - (f.w2 % 2 ^ 32 : Nat) + 1) / 2) ∧ t.dev.tim.ring.echo0.length ≤ 16 ∧
          t.dev.tim.ring.hop0 = BitVec.ofInt 32 (meanOf t.dev.tim.ring.echo0 (bit s.dev.free 0)))) ∧
      (r.master = true → f.typ < 6 → f.mid ≠ r.mid.toNat → f.mid ≠ 0 → r.conflict = false → s.dev.rel.queue.length < 64 → ∃ t, exec c s = .next t ∧
        t = { s with dev := { s.dev with rel := t.dev.rel, tim := { s.dev.tim with ring := { r with crcRun := 0, conflict := true } } } } ∧ OneRecord s t .ok 0 domDevice) ∧
      (r.master = false → f.typ = 1 → r.following = some (BitVec.ofNat 16 f.mid) → f.mid < 65536 → (1, BitVec.ofNat 8 f.seq) ∉ r.own → r.follow = false → r.rx0 = true →
        ∃ t y, exec c s = .next t ∧ t.mem = s.mem ∧ t.dev.tim.ring.isolated = false ∧ t.dev.tim.ring.sent = r.sent ++ [(dir.val, y)] ∧ fld y 0 8 = 1 ∧
          t.dev.tim.rem = s.dev.tim.rem ∧
          (dir = 0 → t.dev.tim.ring.srcdir = false ∧ ∃ l, t.dev.tim.ring.offs = l ∧
            l.getLast? = some (stampDiff time (BitVec.ofNat 72 (f.w1 * 256 + f.w2 % 2 ^ 40 + r.hop0.toNat))) ∧
            t.dev.tim.ring.off = BitVec.ofInt 32 (satS 32 (meanOf l (bit s.dev.free 0))))) ∧
      (r.master = false → f.typ = 2 → r.following = some (BitVec.ofNat 16 f.mid) → f.mid < 65536 → (2, BitVec.ofNat 8 f.seq) ∉ r.own → r.isolated = false →
        r.seen.contains (BitVec.ofNat 16 f.w3) = false → fld (BitVec.ofNat 64 f.w2) 0 8 ≠ 0 → ∃ t y, exec c s = .next t ∧ t.mem = s.mem ∧
          t.dev.tim.ring.sent = r.sent ++ [(dir.val, y)] ∧
          t.dev.tim.atT = s.dev.tim.atT ++ [{ t := BitVec.ofNat 64 f.w1, index := BitVec.ofNat 8 f.w2, arg := BitVec.ofNat 32 (f.w2 / 2 ^ 32) }]))

/-- R746: at its wrap, or at its restart event, a timer counts from 0; a pulse with the count CSTART starts its sequences; a timer that is off, or has no restart, does nothing.
R765 to R767: a start enters DELAY, or RUNNING at once where DLY is 0 and the converter is free; a start of a busy sequence is held, a further one dropped and reported; DELAY ends in READY, and the lowest READY sequence runs.
R764 to R770: a conversion of the running sequence is discarded while its input settles, then goes to its accumulator, which publishes after WIN codes with event 0x500 + a, and to its tracker, whose first code beyond its limits raises event 0x520 + k; the last one ends the run with event 0x540 + k.
What the spec leaves open here is the model's choice: log entries 59, 60. -/
def Obligations.monitorSequencesConvert : Prop :=
  (
    ∀ (s : State) (n : Fin 4) (re : Bool),
      (s.dev.timerRec? n = none → exec (.monitorTimerWrap n re) s = .next s) ∧
      ∀ r, s.dev.timerRec? n = some r →
        (r.en = false ∨ re = true ∧ r.revEn = false → exec (.monitorTimerWrap n re) s = .next s) ∧
        (r.en = true → re = false ∨ r.revEn = true → ∃ t, exec (.monitorTimerWrap n re) s = .next t ∧ Tbl.get 0 t.dev.mon.timers n = 0 ∧
          t.mem = s.mem ∧ t.dev.rel = s.dev.rel ∧ (∀ j : Nat, j ≠ n.val → Tbl.get 0 t.dev.mon.timers j = Tbl.get 0 s.dev.mon.timers j) ∧
          (r.cstart ≠ 0 → re = true ∨ r.cstart ≤ Tbl.get 0 s.dev.mon.timers n →
            t = { s with dev := { s.dev with mon := { s.dev.mon with timers := t.dev.mon.timers } } }) ∧
          (r.cstart = 0 → ∀ (k : Fin 4) (q : SeqRec), s.dev.seqRec? k = some q → q.en = true → q.src = false → q.tsel = n.val → q.dly ≠ 0 →
            (s.dev.mon.seq k).st = .idle → t.dev.mon.seq k = { s.dev.mon.seq k with st := .delay, delay := q.dly }))) ∧
  (
    ∀ (s : State) (k : Fin 4),
      let q := s.dev.mon.seq k
      let others := fun t : State => ∀ j : Nat, j ≠ k.val → t.dev.mon.seq j = s.dev.mon.seq j
      let only := fun t : State => t = { s with dev := { s.dev with units := t.dev.units, mon := { s.dev.mon with seqs := t.dev.mon.seqs } } } ∧
        (∀ u, t.dev.unit u = s.dev.unit u) ∧ others t
      let free := s.dev.mon.cal = false ∧ ∀ j : Nat, j < 4 → j ≠ k.val → (s.dev.mon.seq j).st ≠ .running ∧ (s.dev.mon.seq j).st ≠ .ready
      (∀ r, (s.dev.unit monUnit).shadow = [] → s.dev.seqRec? k = some r → r.en = true →
        (q.st = .idle → r.dly ≠ 0 → ∃ t, exec (.sequenceStart k) s = .next t ∧ only t ∧ t.dev.mon.seq k = { q with st := .delay, delay := r.dly }) ∧
        (q.st = .idle → r.dly = 0 → free → ∃ t, exec (.sequenceStart k) s = .next t ∧ only t ∧ t.dev.mon.seq k = { q with st := .running, delay := 0, pos := 0 }) ∧
        (q.st ≠ .idle → q.pend = false → ∃ t, exec (.sequenceStart k) s = .next t ∧ only t ∧ t.dev.mon.seq k = { q with pend := true }) ∧
        (q.st ≠ .idle → q.pend = true → ∃ t, exec (.sequenceStart k) s = .next t ∧ others t ∧ t.mem = s.mem ∧ t.dev.raised = s.dev.raised ∧
          t.dev.mon.seq k = { q with dropped := BitVec.ofNat 16 (min (q.dropped.toNat + 1) 65535) } ∧ bit t.dev.mon.intStat 18 = true ∧
          (bit s.dev.mon.intEn 18 = true → bit t.dev.hkc.evtStat 1 = true))) ∧
      (q.st ≠ .delay → exec (.sequenceDelayEnd k) s = .next s) ∧
      (q.st = .delay → free → ∃ t, exec (.sequenceDelayEnd k) s = .next t ∧ only t ∧ t.dev.mon.seq k = { q with st := .running, delay := 0, pos := 0 }) ∧
      (q.st = .delay → (s.dev.mon.cal = true ∨ ∃ j : Nat, j < 4 ∧ j ≠ k.val ∧ (s.dev.mon.seq j).st = .running) →
        ∃ t, exec (.sequenceDelayEnd k) s = .next t ∧ only t ∧ t.dev.mon.seq k = { q with st := .ready, delay := 0 })) ∧
  (
    ∀ (s : State) (slot : BitVec 6) (raw : BitVec 12) (c : Instr),
      c = .accumulatorWindow slot [raw] ∨ c = .trackerLimit slot [raw] ∨ c = .sequenceRunEnd slot [raw] →
      ((∀ k, k < 4 → (s.dev.mon.seq k).st ≠ .running) → exec c s = .next s) ∧
      ∀ (k : Fin 4) (r : SeqRec) (x : SeqStep) (j : Nat), (s.dev.mon.seq k).st = .running → (∀ i : Nat, i < k.val → (s.dev.mon.seq i).st ≠ .running) →
        s.dev.seqRec? k = some r → stepAt r.steps (s.dev.mon.seq k).pos = some (x, j) →
        let sl := s.dev.mon.slice ((if slot = 63 then 0 else slot.toNat) % 4)
        let code : Nat := (max 0 (min 4095 ((((raw.toNat : Int) - sl.off.toInt) * sl.gain.toNat + 16384) / 32768))).toNat
        let a := s.dev.mon.acc x.acc
        let y := s.dev.mon.trk x.trk
        let on := fun (t : State) => t.dev.mon.seq k = { s.dev.mon.seq k with pos := (s.dev.mon.seq k).pos + 1 } ∧ t.mem = s.mem ∧ t.dev.mon.temps = s.dev.mon.temps ∧
          ∀ i : Nat, i ≠ k.val → t.dev.mon.seq i = s.dev.mon.seq i
        let going := stepAt r.steps ((s.dev.mon.seq k).pos + 1) ≠ none
        (going → j < x.settle → ∃ t, exec c s = .next t ∧ on t ∧ t.dev.mon.accs = s.dev.mon.accs ∧ t.dev.mon.trks = s.dev.mon.trks ∧ t.dev.raised = s.dev.raised) ∧
        (going → x.settle ≤ j → x.acc < 32 → 32 ≤ x.trk → a.cnt + 1 < 2 ^ 32 - 1 →
          ∃ t, exec c s = .next t ∧ on t ∧ t.dev.mon.trks = s.dev.mon.trks ∧ (∀ i, i ≠ x.acc → t.dev.mon.acc i = s.dev.mon.acc i) ∧
            ((s.dev.accRec x.acc).1 = true ∧ (s.dev.accRec x.acc).2 ≤ a.cnt + 1 →
              t.dev.mon.acc x.acc = { a with sum := 0, cnt := 0, pubSum := a.sum + code, pubCnt := a.cnt + 1 } ∧
              t.dev.raised = s.dev.raised ++ [{ id := 0x500 + BitVec.ofNat 12 x.acc, time := s.dev.stamp }]) ∧
            ((s.dev.accRec x.acc).1 = false ∨ a.cnt + 1 < (s.dev.accRec x.acc).2 →
              t.dev.mon.acc x.acc = { a with sum := a.sum + code, cnt := a.cnt + 1 } ∧ t.dev.raised = s.dev.raised)) ∧
        (going → x.settle ≤ j → 32 ≤ x.acc → x.trk < 32 → y.valid = true →
          let lim := cellOf ((s.dev.rec? monUnit 5 x.trk).getD []) 0
          let beyond := bit lim 5 = true ∧ (code < fld lim 6 12 ∨ fld lim 18 12 < code)
          ∃ t, exec c s = .next t ∧ on t ∧ t.dev.mon.accs = s.dev.mon.accs ∧ (∀ i, i ≠ x.trk → t.dev.mon.trk i = s.dev.mon.trk i) ∧
            (t.dev.mon.trk x.trk).lo.toNat = min y.lo.toNat code ∧ (t.dev.mon.trk x.trk).hi.toNat = max y.hi.toNat code ∧
            (y.limit = false → beyond → (t.dev.mon.trk x.trk).limit = true ∧ bit t.dev.mon.intStat 16 = true ∧
              t.dev.raised = s.dev.raised ++ [{ id := 0x520 + BitVec.ofNat 12 x.trk, time := s.dev.stamp }]) ∧
            (y.limit = true ∨ ¬ beyond → (t.dev.mon.trk x.trk).limit = y.limit ∧ t.dev.raised = s.dev.raised)) ∧
        (¬ going → 32 ≤ x.acc → 32 ≤ x.trk → (s.dev.mon.seq k).pend = false → (s.dev.unit monUnit).shadow = [] → s.dev.mon.cal = false →
          (∀ i : Nat, i < 4 → i ≠ k.val → (s.dev.mon.seq i).st ≠ .ready) →
          ∃ t, exec c s = .next t ∧ t = { s with dev := { s.dev with units := t.dev.units, mon := { s.dev.mon with seqs := t.dev.mon.seqs }, raised := s.dev.raised ++ [{ id := 0x540 + BitVec.ofNat 12 k.val, time := s.dev.stamp }] } } ∧ (∀ u, t.dev.unit u = s.dev.unit u) ∧
            t.dev.mon.seq k = { s.dev.mon.seq k with st := .idle, pos := 0, runs := (s.dev.mon.seq k).runs + 1 }))

/-- R749 to R756, R759: a settled comparator follows the majority of its last FLEN samples through its hysteresis; a selected edge latches, counts, captures, sets its interrupt bit and raises its event; the first settled output sets RESOLVED; a disabled comparator takes no sample.
R760, R761, R763: the temperature service shows the mean of each input's corrected codes, 75 / 64 units of 0.125 °C a code from −200 °C; an input without one keeps its temperature.
R769 to R774: CLR zeroes an accumulator or a tracker; a read of SUM_LO latches its companions; a calibration takes its slices' values, or sets CAL_ERR; CTRIM trims the comparators that are off; SAVE starts the writes of both records.
What the spec leaves open here is the model's choice: log entries 59, 60. -/
def Obligations.comparatorsTemperaturesAndControlsAreServed : Prop :=
  (
    ∀ (s : State) (k : Fin 8) (v : BitVec 4), (s.dev.unit monUnit).shadow = [] →
      let r := s.dev.cmpRec k
      let x := s.dev.mon.cmp k
      let only := fun t : State => t = { s with dev := { s.dev with units := t.dev.units, mon := { s.dev.mon with cmps := t.dev.mon.cmps } } } ∧
        (∀ u, t.dev.unit u = s.dev.unit u) ∧ ∀ j : Nat, j ≠ k.val → t.dev.mon.cmp j = s.dev.mon.cmp j
      let noted := fun t : State => t = { s with dev := { s.dev with units := t.dev.units, hkc := t.dev.hkc, hlk := t.dev.hlk, host := t.dev.host, raised := t.dev.raised, mon := { s.dev.mon with cmps := t.dev.mon.cmps, intStat := t.dev.mon.intStat } } } ∧
        (∀ u, t.dev.unit u = s.dev.unit u) ∧ ∀ j : Nat, j ≠ k.val → t.dev.mon.cmp j = s.dev.mon.cmp j
      (r.en = false → ∀ c, c = .comparatorEdge k [v] ∨ c = .comparatorResolve k [v] → ∃ t, exec c s = .next t ∧ only t ∧ t.dev.mon.cmp k = x) ∧
      (x.upper ≠ none → x.lower ≠ none → exec (.comparatorResolve k [v]) s = .next s) ∧
      let h := (v :: x.hist).take r.flen
      r.en = true → r.ben = false ∨ s.dev.blanks r.btmr = false → r.test = 0 → 1 ≤ r.flen → h.length = r.flen →
        let m := fun b => decide (r.flen < 2 * (h.filter fun y => bit y b).length)
        (∀ u l, x.upper = some u → x.lower = some l →
          let u' := if m 0 then true else if !m 1 then false else u
          let l' := if m 2 then false else if !m 3 then true else l
          let o := match r.wsel with
            | 0 => u' || l'
            | 1 => !u' && !l'
            | 2 => u'
            | _ => !u' && l'
          let y := { x with raw := v, hist := h, upper := some u', lower := some l', bandU := 0, bandL := 0, out := o }
          let chosen := o ≠ x.out ∧ (r.edge = 2 ∨ r.edge = 0 ∧ o = true ∨ r.edge = 1 ∧ o = false)
          (r.edge ≤ 2 → ¬ chosen → ∃ t, exec (.comparatorEdge k [v]) s = .next t ∧ only t ∧ t.dev.mon.cmp k = y) ∧
          (chosen → ∃ t, exec (.comparatorEdge k [v]) s = .next t ∧ noted t ∧
            t.dev.mon.cmp k = { y with
              latch := true, edges := BitVec.ofNat 32 (min (x.edges.toNat + 1) (2 ^ 32 - 1)), capValid := x.capValid || r.capEn
              capOvr := x.capOvr || (r.capEn && x.capValid), cap := if r.capEn then BitVec.ofNat 32 (Tbl.get 0 s.dev.mon.timers r.ctmr) else x.cap } ∧
            bit t.dev.mon.intStat k = true ∧ (bit s.dev.mon.intEn k = true → bit t.dev.hkc.evtStat 1 = true) ∧
            t.dev.raised = if r.evt then s.dev.raised ++ [{ id := 0x400 + BitVec.ofNat 12 k.val, time := s.dev.stamp }] else s.dev.raised)) ∧
        (x.upper = none ∨ x.lower = none → m 0 = true → m 2 = true → ∀ c, c = .comparatorEdge k [v] ∨ c = .comparatorResolve k [v] →
          ∃ t, exec c s = .next t ∧ noted t ∧ t.dev.mon.cmp k = { x with raw := v, hist := h, upper := some true, lower := some false, bandU := 0, bandL := 0, out := decide (r.wsel = 0 ∨ r.wsel = 2) } ∧
            bit t.dev.mon.intStat (8 + k) = true ∧ t.dev.raised = s.dev.raised) ∧
        (x.upper = none → m 0 = false → m 1 = true → x.bandU + 1 < 256 → ∃ t, exec (.comparatorResolve k [v]) s = .next t ∧
          (t.dev.mon.cmp k).upper = none ∧ (t.dev.mon.cmp k).bandU = x.bandU + 1 ∧ (t.dev.mon.cmp k).out = false) ∧
        (x.upper = none → m 0 = false → m 1 = true → x.bandU = 255 → ∃ t, exec (.comparatorResolve k [v]) s = .next t ∧ (t.dev.mon.cmp k).upper = some false)) ∧
  (
    ∀ (s : State) (raws : List (List (BitVec 12))), ∃ t, exec (.temperatureService raws) s = .next t ∧
      t = { s with dev := { s.dev with mon := { s.dev.mon with temps := t.dev.mon.temps } } } ∧
      let x := s.dev.mon.slice 3
      let code := fun r : BitVec 12 => (max 0 (min 4095 ((((r.toNat : Int) - x.off.toInt) * x.gain.toNat + 16384) / 32768))).toNat
      ∀ i, let temp := Tbl.get 0 t.dev.mon.temps (16 + i)
        (∀ l, i < 8 → raws[i]? = some l → l ≠ [] →
          temp = BitVec.ofInt 12 (((((l.map code).foldl (· + ·) 0) * 150 + 64 * l.length) / (128 * l.length) : Nat) - 1600 : Int)) ∧
        (8 ≤ i ∨ raws[i]? = none ∨ raws[i]? = some [] → temp = Tbl.get 0 s.dev.mon.temps (16 + i))) ∧
  (
    ∀ s : State, s.dev.served = true →
      let m := s.dev.mon
      let only := fun t : State => t = { s with dev := { s.dev with mon := t.dev.mon } }
      (∀ a : Fin 32, ∃ t, exec (.monAccSumLoRead a) s = .next t ∧ t.mem = s.mem ∧
        let sum := if (s.dev.accRec a).1 then (m.acc a).pubSum else (m.acc a).sum
        let cnt := if (s.dev.accRec a).1 then (m.acc a).pubCnt else (m.acc a).cnt
        t.dev.host = s.dev.host ++ [.reply (leBytes 4 sum)] ∧
        t.dev.mon.acc a = { m.acc a with sumHi := BitVec.ofNat 12 (sum / 2 ^ 32), cntLatch := BitVec.ofNat 32 cnt }) ∧
      (s.dev.rel.devFault = false →
        (∀ a : Fin 32, ∃ t, exec (.accClr a) s = .next t ∧ only t ∧ t.dev.mon.acc a = { m.acc a with sum := 0, cnt := 0, pubSum := 0, pubCnt := 0 } ∧
          t.dev.mon = { m with accs := t.dev.mon.accs } ∧ ∀ j : Nat, j ≠ a.val → t.dev.mon.acc j = m.acc j) ∧
        (∀ k : Fin 32, ∃ t, exec (.trkClr k) s = .next t ∧ only t ∧ t.dev.mon.trk k = { m.trk k with lo := 0, hi := 0, valid := false } ∧
          t.dev.mon = { m with trks := t.dev.mon.trks } ∧ ∀ j : Nat, j ≠ k.val → t.dev.mon.trk j = m.trk j) ∧
        (∀ trims : List (BitVec 32), ∃ t, exec (.ctrim trims) s = .next t ∧ only t ∧ t.dev.mon = { m with cmps := t.dev.mon.cmps, ctrim := false } ∧
          ∀ k v, k < 8 → trims[k]? = some v → t.dev.mon.cmp k = if (s.dev.cmpRec k).en then m.cmp k else { m.cmp k with trims := v }) ∧
        (m.save = true → exec .monSave s = .next s) ∧
        (m.save = false → ∃ b7 b8, exec .monSave s = .next { s with dev := { s.dev with
            mon := { m with save := true }, atc := { s.dev.atc with jobs := s.dev.atc.jobs ++ [(.monSave, 7, b7), (.monSave, 8, b8)] } } } ∧
          (∀ k, k < 4 → (b7.drop (4 * k)).take 4 = leBytes 2 (m.slice k).off.toNat ++ leBytes 2 (m.slice k).gain.toNat) ∧
          ∀ k, k < 8 → (b8.drop (4 * k)).take 4 = leBytes 4 (m.cmp k).trims.toNat) ∧
        (∀ sums : List (BitVec 24 × BitVec 24), sums.length = 4 → (∀ j : Nat, j < 4 → (m.seq j).st ≠ .ready) →
          let gain := fun lo hi : Nat => (2 ^ 39 + (hi - lo)) / (2 * (hi - lo))
          let good := fun p : BitVec 24 × BitVec 24 => p.1.toNat < p.2.toNat ∧ 0x7333 ≤ gain p.1.toNat p.2.toNat ∧ gain p.1.toNat p.2.toNat ≤ 0x8CCC
          ((∀ p ∈ sums, good p) → ∃ t, exec (.cal sums) s = .next t ∧ only t ∧ t.dev.mon.calErr = false ∧ t.dev.mon.cal = false ∧
            ∀ k p, sums[k]? = some p → (t.dev.mon.slice k).gain = BitVec.ofNat 16 (gain p.1.toNat p.2.toNat) ∧
              (t.dev.mon.slice k).off = BitVec.ofInt 16 ((3 * (p.1.toNat : Int) - p.2.toNat + 4096) / 8192)) ∧
          ((∃ p ∈ sums, ¬ good p) → m.calErr = false → s.dev.rel.queue.length < 64 → ∃ t, exec (.cal sums) s = .next t ∧
            t = { s with dev := { s.dev with mon := { m with cal := false, calErr := true }, rel := t.dev.rel } } ∧ OneRecord s t .ok 0 domMon))))

/-- R781, R785 to R788: an error writes one record and is counted in its domain; one from DEGRADED on raises vector 0; with the queue full it is counted and the next record carries OVF.
R779, R781 to R784: an uncorrected error in a domain that has one OUTSTANDING escalates it, with a second record whose ESC is set; a session's domain ends in FAULTED, the device's in the device fault. An uncorrected counter of a density unit clears its plane (R780).
R781, R786, R788: POP takes the head of the queue; ACK clears OUTSTANDING of its domain; the end of a CE interval raises vector 1 where it held a CORRECTED or NOTE record.
What the spec leaves open here is the model's choice: log entries 23, 24, 25. -/
def Obligations.errorsAreRecordedAndEscalate : Prop :=
  (
    ∀ (s : State) (code : Status) (sev : BitVec 2) (dom : BitVec 16) (src cause : BitVec 8) (addr : BitVec 64) (ses : BitVec 12) (det : BitVec 32) (now : Bool),
      let c := Instr.errorRecord code sev dom src cause addr ses det now
      let old := Tbl.get {} s.dev.rel.domains dom.toNat
      let new := fun t : State => Tbl.get {} t.dev.rel.domains dom.toNat
      sev ≠ 3 ∨ ((now = false ∧ old.outstanding = false) ∨ s.dev.rel.devFault = true) ∧ dom.toNat / 4096 ≠ 2 ∧
        (src.toNat < 0x10 ∨ 0x14 ≤ src.toNat ∧ src.toNat < 0x20 ∨ 0x24 ≤ src.toNat) →
      ∃ t, exec c s = .next t ∧ t = { s with dev := { s.dev with rel := t.dev.rel, hlk := { s.dev.hlk with msiPending := t.dev.hlk.msiPending }, host := t.dev.host } } ∧
        t.dev.rel.seq = s.dev.rel.seq + 1 ∧
        (∀ j : Nat, j ≠ dom.toNat → Tbl.get {} t.dev.rel.domains j = Tbl.get {} s.dev.rel.domains j) ∧
        (s.dev.rel.queue.length < 64 → t.dev.rel.dropped = false ∧ t.dev.rel.overflow = s.dev.rel.overflow ∧ t.dev.rel.queue = s.dev.rel.queue ++
          [{ code := code.code, sev, ovf := s.dev.rel.dropped, esc := false, domain := dom, src, cause, seq := s.dev.rel.seq, addr, session := ses
             time := s.dev.now, detail := det }]) ∧
        (64 ≤ s.dev.rel.queue.length → t.dev.rel.dropped = true ∧ t.dev.rel.queue = s.dev.rel.queue ∧
          t.dev.rel.overflow = BitVec.ofNat 16 (min (s.dev.rel.overflow.toNat + 1) 65535)) ∧
        (sev = 0 ∨ sev = 2 → new t = old) ∧
        (sev = 1 → new t = { old with corr := BitVec.ofNat 32 (min (old.corr.toNat + 1) (2 ^ 32 - 1)) }) ∧
        (sev = 3 → new t = { old with outstanding := true, uncorr := BitVec.ofNat 16 (min (old.uncorr.toNat + 1) 65535) } ∧
          t.dev.rel.errlogWait.length = s.dev.rel.errlogWait.length + 1) ∧
        (sev.toNat < 2 → t.dev.rel.ceSeen = true ∧ t.dev.host = s.dev.host ∧ t.dev.hlk = s.dev.hlk) ∧
        (2 ≤ sev.toNat → (Tbl.get false s.dev.hlk.unmasked 0 = true → t.dev.host = s.dev.host ++ [.msix 0]) ∧
          (Tbl.get false s.dev.hlk.unmasked 0 = false → Tbl.get false t.dev.hlk.msiPending 0 = true))) ∧
  (
    ∀ (s : State) (code : Status) (src cause : BitVec 8) (addr : BitVec 64) (ses : BitVec 12) (det : BitVec 32) (now : Bool),
      s.dev.rel.devFault = false → s.dev.rel.queue.length < 63 →
      let two := fun (t : State) (dom : BitVec 16) => ∃ r e more, t.dev.rel.queue = s.dev.rel.queue ++ r :: e :: more ∧ r.esc = false ∧ e.esc = true ∧
        r.domain = dom ∧ e.domain = dom ∧ r.code = code.code ∧ e.code = code.code ∧
        (Tbl.get {} t.dev.rel.domains dom.toNat).outstanding = false
      (∀ n : Nat, 1 ≤ n → n < 4096 → (s.dev.session n).st = .opened →
        now = true ∨ (Tbl.get {} s.dev.rel.domains (0x1000 + n)).outstanding = true →
        ∃ t, exec (.errorRecord code 3 (BitVec.ofNat 16 (0x1000 + n)) src cause addr ses det now) s = .next t ∧ two t (BitVec.ofNat 16 (0x1000 + n)) ∧
          (t.dev.session n).st = .faulted ∧ t.mem = s.mem) ∧
      (∀ (u : Nat) (dom : BitVec 16), src = BitVec.ofNat 8 (0x20 + u) → u < 4 → dom.toNat / 4096 = 3 → dom.toNat % 4096 = u →
        now = false → (Tbl.get {} s.dev.rel.domains dom.toNat).outstanding = false → ∃ t, exec (.errorRecord code 3 dom src cause addr ses det now) s = .next t ∧
          ((t.dev.dens u).plane (det.toNat % 4)).cnt = [] ∧ (Tbl.get {} t.dev.rel.domains dom.toNat).outstanding = true) ∧
      (now = true ∨ (Tbl.get {} s.dev.rel.domains 0).outstanding = true →
        ∃ t, exec (.errorRecord code 3 domDevice src cause addr ses det now) s = .next t ∧ two t domDevice ∧ t.dev.rel.devFault = true)) ∧
  (
    ∀ s : State,
      (s.dev.servedKept = true →
        exec .pop s = .next (s.onDev fun d => { d with rel := { d.rel with queue := d.rel.queue.drop 1 } }) ∧
        ∀ dom : BitVec 16, ∃ t, exec (.relAck dom) s = .next t ∧ t = { s with dev := { s.dev with rel := { s.dev.rel with domains := t.dev.rel.domains } } } ∧
          ∀ j, Tbl.get {} t.dev.rel.domains j =
            if j = dom.toNat then { Tbl.get {} s.dev.rel.domains j with outstanding := false } else Tbl.get {} s.dev.rel.domains j) ∧
      (s.dev.servedKept = false → exec .pop s = .next s ∧ ∀ dom, exec (.relAck dom) s = .next s) ∧
      (s.dev.hkc.ready = true → ∃ t, exec .ceIntervalEnd s = .next t ∧ t.dev.rel = { s.dev.rel with ceSeen := false, ceRunning := s.dev.rel.ceInt } ∧ t.mem = s.mem ∧
        (s.dev.rel.ceSeen = false → t.dev.host = s.dev.host ∧ t.dev.hlk = s.dev.hlk) ∧
        (s.dev.rel.ceSeen = true → Tbl.get false s.dev.hlk.unmasked 1 = true → t.dev.host = s.dev.host ++ [.msix 1]) ∧
        (s.dev.rel.ceSeen = true → Tbl.get false s.dev.hlk.unmasked 1 = false → Tbl.get false t.dev.hlk.msiPending 1 = true)) ∧
      (s.dev.hkc.ready = false → exec .ceIntervalEnd s = .next s))

/-- R790 to R793, R795 to R797: the patrol, while enabled, decodes the word or granule that it reads: a corrected one is reported in its owner's domain and held for its write-back, an uncorrected one is reported as DEGRADED and stays bad; a stack in self-refresh is left there.
R792, R795: what the patrol corrected last is written back only where the cell still holds the word that was read, or no write to the granule came since.
R800: a tick counts lost analysis for each enabled port that emits nothing or is blind.
What the spec leaves open here is the model's choice: log entry 64. -/
def Obligations.patrolAndLostAnalysisAreCounted : Prop :=
  (
    ∀ (s : State) (pct : BitVec 7) (late : BitVec 3),
      let scrub := fun r => Instr.patrolScrub r pct late
      let one := fun (t : State) (code : Status) (sev : Nat) (dom : BitVec 16) (addr : Nat) => OneRecord s t code sev dom ∧
        ∃ r, t.dev.rel.queue = s.dev.rel.queue ++ [r] ∧ r.addr = BitVec.ofNat 64 addr
      let found := fun t : State => t.dev.rel.scrubFound = BitVec.ofNat 16 (min (s.dev.rel.scrubFound.toNat + 1) 65535)
      let only := fun (t : State) (m : Mem) => t = { s with mem := m, dev := { s.dev with rel := { s.dev.rel with
        scrubPct := pct.zeroExtend 8, scrubLate := s.dev.rel.scrubLate ||| late } } }
      (bit s.dev.rel.scrubCfg 24 = false → ∀ r, exec (scrub r) s = .next s) ∧
      (bit s.dev.rel.scrubCfg 24 = true → s.dev.rel.queue.length < 64 →
        (∀ (a : BitVec 24) (flips : BitVec 48),
          let m := s.mem.loftFlip a.toNat flips
          ∃ t, exec (scrub (.loft a flips)) s = .next t ∧
            (∀ x, m.loftRead a.toNat = .good x → only t m) ∧
            (∀ x, m.loftRead a.toNat = .corrected x → t.mem = { m with scrub := some (.loft a.toNat (m.loftWord a.toNat)) } ∧
              t.dev.rel.scrubFound = s.dev.rel.scrubFound ∧
              one t .ok 1 ((Tbl.find? s.dev.stk.loft (a.toNat / 16384)).elim domDevice fun o => domSession o.session) a.toNat) ∧
            (∀ c, m.loftRead a.toNat = .bad c → t.mem = m ∧ found t ∧ one t .eccUncorrected 2 domDevice a.toNat)) ∧
        (∀ (k : Fin 68) (a : BitVec 17) (flips : BitVec 48),
          ((s.dev.spu k).runs = none → ∃ t, exec (scrub (.loc k a flips)) s = .next t ∧ only t s.mem) ∧
          (∀ key i, (s.dev.spu k).runs = some key → Tbl.find? s.dev.insts key = some i →
            let j := i.locFlip a.toNat flips
            ∃ t, exec (scrub (.loc k a flips)) s = .next t ∧ Tbl.find? t.dev.insts key = some j ∧
              (∀ x, j.locRead a.toNat = .corrected x → t.mem = { s.mem with scrub := some (.loc k a.toNat (j.locWord a.toNat)) } ∧
                one t .ok 1 (domSession i.session) a.toNat ∧ t.dev.spa.eccCorr = BitVec.ofNat 16 (min (s.dev.spa.eccCorr.toNat + 1) 65535)) ∧
              (∀ c, j.locRead a.toNat = .bad c → t.mem = s.mem ∧ found t ∧ one t .eccUncorrected 2 (domSpu k) a.toNat ∧
                t.dev.spa.eccUncorr = BitVec.ofNat 16 (min (s.dev.spa.eccUncorr.toNat + 1) 65535)))) ∧
        ∀ (a : BitVec 37) (errors : List (Fin 72 × Byte)),
          let pc := s.mem.pcOf a.toNat
          let g := a.toNat / 64
          let m := if errors = [] then s.mem else s.mem.granuleHit g (symbols errors)
          a.toNat / shelfBytes < s.dev.fittedShelves → (s.dev.cel.pc pc).retired = false → bit s.dev.cel.trained (pc / 32) = true →
          (bit s.dev.cel.selfref (pc / 32) = true → ∃ t, exec (scrub (.granule a errors)) s = .next t ∧ only t s.mem) ∧
          (bit s.dev.cel.selfref (pc / 32) = false → s.dev.cel.autoRetire = false → ∃ t, exec (scrub (.granule a errors)) s = .next t ∧
            (m.poisoned (g * 64) 64 = true → found t ∧ one t .eccUncorrected 2 (domCel (pc / 32)) a.toNat ∧ g ∈ t.mem.poison ∧
              t.mem = { m with poison := t.mem.poison } ∧ (t.dev.cel.pc pc).uncorr = BitVec.ofNat 8 (min ((s.dev.cel.pc pc).uncorr.toNat + 1) 255)) ∧
            (m.poisoned (g * 64) 64 = false → m.fixable (g * 64) 64 ≠ [] → t.mem = { m with scrub := some (.granule g) } ∧
              one t .ok 1 ((s.dev.shelfOwner (a.toNat / shelfBytes)).elim (domCel (pc / 32)) domSession) a.toNat ∧
              (t.dev.cel.pc pc).corr = BitVec.ofNat 24 (min ((s.dev.cel.pc pc).corr.toNat + 1) (2 ^ 24 - 1))) ∧
            (m.poisoned (g * 64) 64 = false → m.fixable (g * 64) 64 = [] → only t m)))) ∧
  (
    ∀ (s : State) (pct : BitVec 7) (late : BitVec 3), bit s.dev.rel.scrubCfg 24 = true →
      let back := fun (m : Mem) => exec (.patrolScrub .writeBack pct late) s = .next { s with mem := m, dev := { s.dev with rel := { s.dev.rel with
        scrubPct := pct.zeroExtend 8, scrubLate := s.dev.rel.scrubLate ||| late } } }
      let done := { s.mem with scrub := none }
      (s.mem.scrub = none → back s.mem) ∧
      (∀ a w, s.mem.scrub = some (.loft a w) → back (if s.mem.loftWord a = w then { done with loftErr := Tbl.erase s.mem.loftErr a } else done)) ∧
      (∀ g, s.mem.scrub = some (.granule g) → back { done with celErr := Tbl.erase s.mem.celErr g }) ∧
      (∀ (g : Nat) (b : List Byte), s.mem.scrub = some (.granule g) → b ≠ [] → s.mem.lostAt (g * 64) b.length = false → (s.mem.cellarPut (g * 64) b).scrub = none)) ∧
  (
    ∀ (s : State),
      ∃ t, exec .lostAnalysisTick s = .next t ∧ t = { s with dev := { s.dev with rel := { s.dev.rel with lostTicks := t.dev.rel.lostTicks } } } ∧
        ∀ p, p < 4 → Tbl.get 0 t.dev.rel.lostTicks p =
          Tbl.get 0 s.dev.rel.lostTicks p + if (s.dev.port p).en = true ∧ ((s.dev.port p).emits = false ∨ (s.dev.port p).blind = true) then 1 else 0)

/-- R804, R801: a host command of the Attic while none runs ends at once with RESULT 2 after WLOCK, with 1 for a TYPE, a length or a range that it may not write, and otherwise runs with BUSY.
R802, R803, R816, R823, R296, R297: a write that succeeds stores its header and body, makes the record valid and erases its sectors once, factory records with them; the requester sees its end; one that fails leaves the record invalid, but a SAVE leaves it as it was and sets SAVE_ERR. Then a reset that waited takes place, or a standby goes on.
R789, R798, R807: the error log takes the first record that waits and counts the others as lost; the check of the Attic clears VALID of every record that does not match any more and reports it.
What the spec leaves open here is the model's choice: log entry 63. -/
def Obligations.theAtticIsWrittenAndChecked : Prop :=
  (
    ∀ s : State, s.dev.servedKept = true →
      let x := s.dev.atc
      let typ := fld x.rec_ 0 8
      let len := fld x.rec_ 16 15
      let all := fun c => c = Instr.writeRecord ∨ c = .invalidateRecord ∨ c = .writeIntegratorArea
      let ends := fun (c : Instr) (op : BitVec 2) (res : BitVec 2) => exec c s = .next (s.onDev fun d => { d with atc := { x with op, result := res } })
      let runs := fun (c : Instr) (op : BitVec 2) (j : AtticJob) (ty : Nat) (b : List Byte) => exec c s = .next (s.onDev fun d => { d with
        atc := { x with op, busy := true, jobs := x.jobs ++ [(j, ty, b)] } })
      exec .wlock s = .next (s.onDev fun d => { d with atc := { x with wlock := true } }) ∧
      (x.busy = true → ∀ c, all c → exec c s = .next s) ∧
      (x.busy = false → x.wlock = true → ends .writeRecord 0 2 ∧ ends .invalidateRecord 1 2 ∧ ends .writeIntegratorArea 2 2) ∧
      (x.busy = false → x.wlock = false →
        (let ok := 1 ≤ typ ∧ typ ≤ 14 ∧ len = atticLen typ
         (ok → runs .writeRecord 0 .hostWrite typ (Tbl.getRun 0 x.stage 0 len)) ∧ (¬ ok → ends .writeRecord 0 1)) ∧
        (1 ≤ typ ∧ typ ≤ 15 → runs .invalidateRecord 1 .hostInvalidate typ []) ∧ (typ = 0 ∨ 15 < typ → ends .invalidateRecord 1 1) ∧
        (let ok := 1 ≤ len ∧ len ≤ 16384 ∧ x.ofs.toNat ≤ 109 ∧ 0x12000 + x.ofs.toNat * 4096 + len ≤ 524288
         (ok → runs .writeIntegratorArea 2 (.hostArea (x.ofs.toNat * 4096)) 0 (Tbl.getRun 0 x.stage 0 len)) ∧ (¬ ok → ends .writeIntegratorArea 2 1)))) ∧
  (
    ∀ s : State, s.dev.hkc.calWait = none → s.dev.hkc.smbWait = [] →
      let still := s.dev.hkc.resetWait = none ∧ s.dev.hkc.stbyReq = false
      (still → s.dev.atc.jobs = [] → ∀ ok, exec (.atticWriteDone ok) s = .next s) ∧
      ∀ (typ : Fin 16) (body : List Byte) (rest : List (AtticJob × Nat × List Byte)), body.length = atticLen typ →
        let base := atticOffset typ
        let first := base / 4096
        let last := (base + 15 + atticLen typ) / 4096
        let keeps := fun t : State => ∀ a, a / 4096 < first ∨ last < a / 4096 → t.mem.atticByte a = s.mem.atticByte a
        let attic := fun t : State => t.mem = { s.mem with attic := t.mem.attic, factory := t.mem.factory }
        (still → s.dev.atc.jobs = (.hostWrite, typ.val, body) :: rest →
          (∃ t, exec (.atticWriteDone true) s = .next t ∧ attic t ∧ keeps t ∧ t.dev = { s.dev with atc := t.dev.atc } ∧ t.dev.atc.jobs = rest ∧
            t.mem.atticRun base (16 + atticLen typ) =
              leBytes 4 0x7C5AD964 ++ leBytes 2 typ ++ leBytes 2 1 ++ leBytes 4 (atticLen typ) ++ leBytes 4 (crc32c body) ++ body ∧
            t.dev.atc.valid = setBit s.dev.atc.valid typ true ∧ t.dev.atc.busy = false ∧ t.dev.atc.result = 0 ∧
            ∀ k, Tbl.get 0 t.dev.atc.erases k = Tbl.get 0 s.dev.atc.erases k + if first ≤ k ∧ k ≤ last then 1 else 0) ∧
          (∃ t, exec (.atticWriteDone false) s = .next t ∧ attic t ∧ keeps t ∧ t.dev.atc.jobs = rest ∧ t.dev.atc.valid = setBit s.dev.atc.valid typ false ∧
            t.dev.atc.busy = false ∧ t.dev.atc.result = 3)) ∧
        (still → s.dev.atc.jobs = (.hostInvalidate, typ.val, body) :: rest → ∃ t, exec (.atticWriteDone true) s = .next t ∧ attic t ∧ keeps t ∧
          (∀ a, first ≤ a / 4096 → a / 4096 ≤ last → t.mem.atticByte a = 0) ∧ t.dev.atc.valid = setBit s.dev.atc.valid typ false ∧ t.dev.atc.busy = false ∧
          t.dev.atc.result = 0) ∧
        (still → s.dev.atc.jobs = (.tdcSave, typ.val, body) :: rest → s.dev.tim.saveErr = false → s.dev.rel.queue.length < 64 →
          (∃ t, exec (.atticWriteDone true) s = .next t ∧ attic t ∧ keeps t ∧ t.dev.atc.valid = setBit s.dev.atc.valid typ true ∧
            t.dev.tim = { s.dev.tim with tdcCtl := setBit s.dev.tim.tdcCtl 2 false } ∧ t.dev.rel = s.dev.rel) ∧
          (∃ t, exec (.atticWriteDone false) s = .next t ∧ t.mem = s.mem ∧ t.dev.atc = { s.dev.atc with jobs := rest } ∧
            t.dev.tim = { s.dev.tim with tdcCtl := setBit s.dev.tim.tdcCtl 2 false, saveErr := true } ∧ OneRecord s t .ok 0 domDevice)) ∧
        (s.dev.atc.jobs = (.hostWrite, typ.val, body) :: rest →
          (∀ c, s.dev.hkc.resetWait = some c → ∃ t, exec (.atticWriteDone true) s = .next t ∧ t.dev.hkc.cause = c ∧ t.dev.hkc.ready = false ∧
            t.dev.hkc.booting = true ∧ t.mem.loft = [] ∧ keeps t ∧ t.mem.atticRun (base + 16) (atticLen typ) = body) ∧
          (s.dev.hkc.resetWait = none → s.dev.hkc.stbyReq = true → s.dev.hkc.stbyAt = none → rest = [] → ∃ t, exec (.atticWriteDone true) s = .next t ∧
            t.dev.hkc.stbyAt = some s.dev.tim.ticks ∧ t.dev.atc.jobs = []))) ∧
  (
    ∀ s : State,
      (s.dev.rel.errlogWait = [] → exec .errlogCopy s = .next s) ∧
      (∀ r rest, s.dev.rel.errlogWait = r :: rest →
        let b := s.latestBody 15 2056
        let j := ofLeBytes (b.take 4)
        b.length = 2056 → ∃ t body, exec .errlogCopy s = .next t ∧
          t = { s with dev := { s.dev with rel := { s.dev.rel with errlogWait := [] }, atc := { s.dev.atc with jobs := s.dev.atc.jobs ++ [(.errlog, 15, body)] } } } ∧
          body.length = 2056 ∧ body.take 4 = leBytes 4 (j + 1) ∧ (body.drop 4).take 4 = leBytes 4 (ofLeBytes ((b.drop 4).take 4) + rest.length) ∧
          (body.drop (8 + 32 * (j % 64))).take 32 = r.bytes ∧
          ∀ k, 8 ≤ k → (k < 8 + 32 * (j % 64) ∨ 40 + 32 * (j % 64) ≤ k) → body[k]? = b[k]?) ∧
      ∀ bad : BitVec 16,
        let gone := fun i => bit s.dev.atc.valid i && (bit bad i || !s.mem.atticValid i)
        ((∀ i, i < 16 → gone i = false) → exec (.atticCrcCheck bad) s = .next s) ∧
        (s.dev.rel.queue.length < 48 → ∃ t, exec (.atticCrcCheck bad) s = .next t ∧ t.mem = s.mem ∧ t.dev.atc = { s.dev.atc with valid := t.dev.atc.valid } ∧
          (∀ i, i < 16 → bit t.dev.atc.valid i = (bit s.dev.atc.valid i && !gone i)) ∧
          ∃ new, t.dev.rel.queue = s.dev.rel.queue ++ new ∧ new.map (·.detail.toNat) = (List.range 16).filter gone ∧
            ∀ r ∈ new, r.code = Status.eccUncorrected.code ∧ r.sev = 2 ∧ r.domain = domDevice ∧ r.src = 0x87))

/-- R838 to R845, R847: a write that is not an aligned one of 32 or 64 bits sets PARTIAL, one to an offset that no chapter assigns sets UNMAPPED; the first of them leaves its offset; 64 bits are two writes of 32; fields act by their type; only GLB, REL, ATC and HKC take writes while a FUNCTION reset runs.
R844, R838, R852: a read of TIM_NOW latches the count; LOCK_ALL sets the three locks; unmasking a vector sends the message that waits.
R849, R850: a pin shows its level; an edge that EVSEL selects raises event 0xB00 + p with the time of the sample less 2 ticks, unless the pin raised one less than 8 ticks before: then it is counted.
R93, R839 to R841, R844, R863: plain reads, for which the table has no command, show the registers: what was written, 0 with one access error at an offset that no chapter assigns, the low half of the count with its high half latched, no use and no quotas of a CLOSED session; BAR2 reads as 0 and ignores writes beside its doorbells.
What the spec leaves open here is the model's choice: log entries 8, 22, 74, 75, 76. -/
def Obligations.registersPinsAndVectorsTakeEffect : Prop :=
  (
    ∀ s : State,
      let g := s.dev.glb
      let w := fun (o : BitVec 21) (v : Reg) => exec (.registerWrite o (.w32 v)) s
      let glb := fun y : Glb => Host.Outcome.next { s with dev := { s.dev with glb := y } }
      let bad := fun (o : BitVec 21) (p u : Bool) => glb { g with
        accPartial := g.accPartial || p, accUnmapped := g.accUnmapped || u, accCount := BitVec.ofNat 16 (min (g.accCount.toNat + 1) 65535)
        accAddr := if g.accPartial || g.accUnmapped then g.accAddr else BitVec.ofNat 32 (o.toNat + 2 ^ 31) }
      (s.dev.hkc.ready = false → s.dev.hkc.funcReset = none → ∀ o b, exec (.registerWrite o b) s = .next s) ∧
      (s.dev.servedKept = true →
        (∀ o : BitVec 21, (o.toNat < 0x17000 ∨ 0x17100 ≤ o.toNat ∧ o.toNat < 0x18000 ∨ 0x20000 ≤ o.toNat) →
          exec (.registerWrite o .irregular) s = bad o true false ∧ (o.toNat % 4 ≠ 0 → ∀ v, w o v = bad o true false) ∧
          (o.toNat % 8 ≠ 0 → ∀ v, exec (.registerWrite o (.w64 v)) s = bad o true false)) ∧
        (∀ v : Reg, w 0x1C v = glb { g with scratch0 := v } ∧ w 0x20 v = glb { g with scratch1 := v } ∧ w 0x24 v = glb { g with scratch2 := v } ∧
          w 0x28 v = glb { g with scratch3 := v } ∧ w 0x50 v = glb { g with gpioDir := v.truncate 16 } ∧ w 0x54 v = glb { g with gpioOut := v.truncate 16 } ∧
          w 0x5C v = glb { g with gpioEvsel := v } ∧ w 0x00 v = .next s ∧ w 0x58 v = .next s ∧
          w 0x60 v = glb { g with gpioDrop := if v = 0xFFFFFFFF then 0 else g.gpioDrop } ∧
          w 0x3C v = glb { g with accPartial := g.accPartial && !bit v 0, accUnmapped := g.accUnmapped && !bit v 1
                                  accCount := if fld v 16 16 = 65535 then 0 else g.accCount } ∧
          w 0x64 v = bad 0x64 false true) ∧
        (∀ (o : BitVec 21) (v : BitVec 64), o.toNat % 8 = 0 → exec (.registerWrite o (.w64 v)) s =
          match w o (v.truncate 32) with
          | .next t => exec (.registerWrite (o + 4) (.w32 (BitVec.ofNat 32 (v.toNat / 2 ^ 32)))) t
          | x => x)) ∧
      (s.dev.hkc.ready = false → ∀ (o : BitVec 21) (v : Reg), o.toNat / 65536 ≠ 0 → o.toNat / 65536 ≠ 3 → o.toNat / 65536 ≠ 28 → o.toNat / 65536 ≠ 29 → o.toNat % 4 = 0 →
        w o v = .next s) ∧
      (s.dev.hkc.ready = true → ∀ v : Reg,
        w 0x1F0000 v = bad 0x1F0000 false true ∧
        (∃ t, w 0x1000C v = .next t ∧ t = { s with dev := { s.dev with hlk := { s.dev.hlk with errStat := t.dev.hlk.errStat } } } ∧
          ∀ b, bit t.dev.hlk.errStat b = (bit s.dev.hlk.errStat b && !(b < 6 && bit v b))) ∧
        (∀ p : Fin 4, ∃ t, w (BitVec.ofNat 21 (0x50010 + 0x10000 * p.val)) v = .next t ∧ t = { s with dev := { s.dev with ing := t.dev.ing } } ∧
          t.dev.port p = { s.dev.port p with ovr := if v = 0xFFFFFFFF then 0 else (s.dev.port p).ovr } ∧ ∀ q : Nat, q ≠ p.val → t.dev.port q = s.dev.port q) ∧
        (∀ k : Fin 64, ∃ t, w (BitVec.ofNat 21 (0x1B0200 + 8 * k.val)) v = .next t ∧ t = { s with dev := { s.dev with units := t.dev.units } } ∧
          fld (Tbl.get 0 (t.dev.unit monUnit).buf k) 0 32 = v.toNat ∧
          fld (Tbl.get 0 (t.dev.unit monUnit).buf k) 32 4 = fld (Tbl.get 0 (s.dev.unit monUnit).buf k) 32 4 ∧ ∀ u, u ≠ monUnit → t.dev.unit u = s.dev.unit u))) ∧
  (
    ∀ s : State,
      (s.dev.served = true → exec .timNowRead s = .next (s.onDev fun d => { d with
        tim := { d.tim with nowLatch := d.tim.count }, host := d.host ++ [.reply (leBytes 4 s.dev.now.toNat)] })) ∧
      (s.dev.served = true → ∃ t, exec .lockAll s = .next t ∧ t = { s with dev := { s.dev with
        atc := { s.dev.atc with wlock := true }, cel := { s.dev.cel with lock := true }, stk := t.dev.stk } } ∧ bit t.dev.stk.ctl 31 = true) ∧
      (s.dev.served = false → exec .timNowRead s = .next s ∧ ∀ v, exec (.msixVectorUnmask v) s = .next s) ∧
      (s.dev.served = true → ∀ v : BitVec 11, ∃ t, exec (.msixVectorUnmask v) s = .next t ∧
        t = { s with dev := { s.dev with hlk := { s.dev.hlk with unmasked := t.dev.hlk.unmasked, msiPending := t.dev.hlk.msiPending }, host := t.dev.host } } ∧
        (∀ j : Nat, Tbl.get false t.dev.hlk.unmasked j = (decide (j = v.toNat) || Tbl.get false s.dev.hlk.unmasked j)) ∧
        (∀ j : Nat, Tbl.get false t.dev.hlk.msiPending j = (decide (j ≠ v.toNat) && Tbl.get false s.dev.hlk.msiPending j)) ∧
        t.dev.host = s.dev.host ++ if Tbl.get false s.dev.hlk.msiPending v.toNat then [.msix v.toNat] else [])) ∧
  (
    ∀ (s : State) (p : Fin 16) (l : Bool),
      let g := s.dev.glb
      let y := { g with gpioIn := setBit g.gpioIn p l }
      let chosen := bit g.gpioEvsel (2 * p.val + (!l).toNat)
      (bit g.gpioIn p = l → exec (.gpioEdge p l) s = .next s) ∧
      (bit g.gpioIn p ≠ l →
        (chosen = false ∨ s.dev.tim.started = false → exec (.gpioEdge p l) s = .next (s.onDev fun d => { d with glb := y })) ∧
        (chosen = true → s.dev.tim.started = true →
          (∀ k, Tbl.find? g.gpioLast p = some k → (s.dev.tim.ticks - k).toNat < 8 → exec (.gpioEdge p l) s =
            .next (s.onDev fun d => { d with glb := { y with gpioDrop := BitVec.ofNat 32 (min (g.gpioDrop.toNat + 1) (2 ^ 32 - 1)) } })) ∧
          (Tbl.find? g.gpioLast p = none ∨ (∃ k, Tbl.find? g.gpioLast p = some k ∧ 8 ≤ (s.dev.tim.ticks - k).toNat) → exec (.gpioEdge p l) s =
            .next (s.onDev fun d => { d with glb := { y with gpioLast := Tbl.set g.gpioLast p d.tim.ticks }
                                             raised := d.raised ++ [{ id := 0xB00 + BitVec.ofNat 12 p.val, time := stampOf (d.now - 2) }] }))))) ∧
  (
    ∀ s : State, s.dev.served = true →
      let g := s.dev.glb
      (s.readReg 0x1C = g.scratch0 ∧ s.readReg 0x40 = g.accAddr ∧ s.readReg 0x5C = g.gpioEvsel ∧ s.readReg 0x58 = g.gpioIn.zeroExtend 32) ∧
      (∀ v : Reg, ∃ t, exec (.registerWrite 0x1C (.w32 v)) s = .next t ∧ t.readReg 0x1C = v) ∧
      (s.read32 0x64 = (0, s.onDev fun d => { d with glb := { g with
        accUnmapped := true, accCount := BitVec.ofNat 16 (min (g.accCount.toNat + 1) 65535)
        accAddr := if g.accPartial || g.accUnmapped then g.accAddr else 0x64 } })) ∧
      (∃ t, s.read64 0x40010 = (s.dev.now, t) ∧ t = s.onDev fun d => { d with tim := { d.tim with nowLatch := d.tim.count } }) ∧
      ((s.dev.session s.dev.stk.sel.toNat).st = .closed → ∀ o : Nat, 0x20044 ≤ o → o < 0x2005C → o % 4 = 0 → s.readReg o = 0) ∧
      ∀ (o : Nat) (v : Reg), s.bar2Read o = 0 ∧ (o % 4096 ≠ 0 → o % 4096 ≠ 0x40 → s.bar2Write o v = .next s))

/-- The queue of commands is taken first in first out: a step with a command in front is that command on the state with the rest of the queue.
What the spec leaves open here is the model's choice: log entry 4. -/
def Obligations.stepRunsTheFrontCommand : Prop :=
  ∀ (c : Instr) (rest : List Instr) (s : State), step { s with pending := c :: rest } = exec c { s with pending := rest }

/-- R698, R699: with no command waiting, a step is one tick: the count advances by one while no adjustment, alarm, strobe, record or standby is due, and stands still until the boot sequence starts the reference PLL.
What the spec leaves open here is the model's choice: log entry 2. -/
def Obligations.anEmptyQueueTicks : Prop :=
  (∀ s : State, s.pending = [] → s.dev.tim.started = false → step s = .next s) ∧
  ∀ s : State, s.pending = [] → s.dev.tim.started = true → s.dev.tim.rem = 0 → bit s.dev.tim.adjCtl 2 = false → s.dev.tim.atT = [] → s.dev.hkc.stbyAt = none →
    (∀ u, (s.dev.unit u).shadow = []) → ∃ t, step s = .next t ∧ t.pending = [] ∧ t.mem = s.mem ∧ t.dev.tim.count = s.dev.tim.count + 1 ∧
      t.dev.tim.ticks = s.dev.tim.ticks + 1 ∧
      t.dev.hlk = { s.dev.hlk with msiPending := t.dev.hlk.msiPending } ∧ t.dev.insts = s.dev.insts ∧ t.dev.ing = s.dev.ing

/-- The values after reset that the field tables and rules give: sessions closed, ports idle, no error record, the count at 0 and UNSET, the reference PLL free, every lock clear, the queue empty.
What the spec leaves open here is the model's choice: log entries 7, 9. -/
def Obligations.resetLeavesTheStatedValues : Prop :=
  let s := State.reset
  let d := s.dev
  s.pending = [] ∧ d.hkc.ready = false ∧ d.hkc.stage = 0 ∧ d.hkc.cause = 0 ∧ d.hkc.fail = 0 ∧ d.hkc.busy = false ∧ d.hkc.tripped = false ∧
  (∀ n, d.session n = {} ∧ (d.session n).st = .closed) ∧ (∀ p, (d.port p).st = .idle ∧ (d.port p).en = false) ∧ d.insts = [] ∧ d.barrels = [] ∧ d.units = [] ∧
  d.rel.queue = [] ∧ d.rel.seq = 0 ∧ d.rel.devFault = false ∧ d.rel.ceInt = 100 ∧ d.rel.scrubCfg = 0x010A0A18 ∧
  d.tim.count = 0 ∧ d.tim.unset = true ∧ d.tim.started = false ∧ d.tim.ref = .free ∧ d.tim.refCtl = 0xC ∧ d.tim.adjCtl = 0x3E80 ∧ d.tim.ppsCfg = 0x190 ∧
  d.tim.syncCfg = 0x10000000 ∧ d.tim.rampCfg = 0x19 ∧ d.tim.tdcCtl = 0xA01 ∧ d.tim.ring = {} ∧ d.tim.cs1.target = 1800 ∧ d.tim.cs1.current = 900 ∧
  d.tim.cs2.target = 1500 ∧ d.tim.cs2.current = 750 ∧ d.stk.ctl = 0x00000A0B ∧ d.atc.wlock = false ∧ d.cel.lock = false ∧ d.atc.valid = 0 ∧
  d.glb.scratch0 = 0 ∧ d.glb.gpioDir = 0 ∧ d.glb.accCount = 0 ∧ (∀ v, Tbl.get false d.hlk.msiPending v = false) ∧ d.mon.intEn = 0 ∧
  (∀ k, (d.mon.seq k).st = .idle) ∧ (∀ k, d.mon.cmp k = {}) ∧ d.raised = [] ∧ d.host = []

/-- The canonical form of the memories holds after reset.
What the spec leaves open here is the model's choice: log entry 5. -/
def Obligations.resetKeepsTheMemoryForm : Prop :=
  State.reset.Inv

/-- Every step keeps the canonical form of the memories.
What the spec leaves open here is the model's choice: log entry 5. -/
def Obligations.everyStepKeepsTheMemoryForm : Prop :=
  ∀ s t : State, s.Inv → step s = .next t → t.Inv

/-- Every command of the table answers a next state in every state, and leaves the queue as it was.
What the spec leaves open here is the model's choice: log entry 3. -/
def Obligations.everyCommandAnswersAndKeepsTheQueue : Prop :=
  ∀ (c : Instr) (s : State), ∃ t, exec c s = .next t ∧ t.pending = s.pending

/-- R817, R847: before step 9 of the boot sequence, and while no FUNCTION reset runs, the host's commands to BAR0, BAR4, CXL.mem and the mailbox change nothing.
What the spec leaves open here is the model's choice: log entry 4. -/
def Obligations.hostCommandsWaitForReady : Prop :=
  ∀ (s : State) (c : Instr), s.dev.hkc.ready = false → s.dev.hkc.funcReset = none →
    (∃ h v, c = .hatchTail h v ∨ c = .chitHead h v) ∨ (∃ v, c = .adminSessionEnable v) ∨ c = .retrain0 ∨ c = .retrain1 ∨ (∃ v, c = .disable v) ∨
    (∃ o x, c = .bar4Access o x) ∨ (∃ o x, c = .cxlMemAccess o x) ∨ (∃ g b, c = .hdmDecoderCommit g b) ∨ (∃ o x, c = .registerWrite o x) ∨
    c = .timNowRead ∨ (∃ a, c = .monAccSumLoRead a) ∨ (∃ k v, c = .stkPoolCfgWrite k v) ∨ (∃ v, c = .stkPageCfgWrite v) ∨ (∃ k, c = .stkSpuRetire k) ∨
    c = .lock ∨ c = .lockAll ∨ c = .celCtlLock ∨ c = .wlock ∨ (∃ k, c = .celRetire k) ∨ (∃ p v, c = .en p v) ∨ (∃ p, c = .relink p) ∨ (∃ u, c = .go u) ∨
    (∃ p l, c = .force p l ∨ c = .retire p l ∨ c = .clear p l) ∨ (∃ p, c = .save p) ∨ (∃ p v, c = .speWinData p v) ∨
    (∃ p, c = .trgForce p ∨ c = .clrPend p) ∨ (∃ p a b, c = .trgMaskData p a b) ∨ (∃ v, c = .scoEnable v) ∨ (∃ o, c = .auxGo o) ∨
    (∃ k f, c = .target k f) ∨ (∃ k, c = .halt k ∨ c = .step k ∨ c = .debugResume k) ∨ (∃ m, c = .stop m ∨ c = .resume m) ∨
    (∃ v, c = .stepTime v ∨ c = .slew v ∨ c = .set_ v) ∨ (∃ m, c = .mode m) ∨ c = .tdcCal ∨ c = .tdcSave ∨ c = .monSave ∨ (∃ l, c = .ctrim l) ∨
    (∃ a, c = .accClr a) ∨ (∃ k, c = .trkClr k) ∨ c = .pop ∨ (∃ d, c = .relAck d) ∨ c = .writeRecord ∨ c = .invalidateRecord ∨ c = .writeIntegratorArea ∨
    (∃ v, c = .msixVectorUnmask v) ∨ c = .version ∨ c = .reset ∨ c = .standby ∨ (∃ a b d e, c = .sensors a b d e) ∨
    (∃ a b d e, c = .calibrate a b d e) ∨ (∃ v, c = .unknownMailboxCommand v) →
    exec c s = .next s
end

