-- ==== Sys2Proof/Laws/Frames.lean ====
section
/-!
SUPPORT. What the shared frames of the commands can do: each lemma says it once, so that a proof about a command cites it
and does not unfold the frame.
-/
namespace Sys2Proof.Machine

section
variable {s t : State} (f : Dev → Dev) (g : State → State)

theorem devStep_eq : devStep s f = .next { s with dev := f s.dev } := rfl

theorem hostStep_served (h : s.dev.served = true) : hostStep s f = .next { s with dev := f s.dev } := by
  simp [hostStep, devStep_eq, h]

theorem hostStep_waits (h : s.dev.served = false) : hostStep s f = .next s := by
  simp [hostStep, devStep_eq, h]

theorem keptStep_served (h : s.dev.servedKept = true) : keptStep s f = .next { s with dev := f s.dev } := by
  simp [keptStep, devStep_eq, h]

theorem keptStep_waits (h : s.dev.servedKept = false) : keptStep s f = .next s := by
  simp [keptStep, devStep_eq, h]

theorem startStep_served (h : s.dev.served = true) (k : s.dev.rel.devFault = false) :
    startStep s f = .next { s with dev := f s.dev } := by
  simp [startStep, hostStep_served _ h, k]

theorem startStep_fault (k : s.dev.rel.devFault = true) : startStep s f = .next s := by
  simp [startStep, hostStep, devStep_eq, k]

theorem startStep_waits (h : s.dev.served = false) : startStep s f = .next s := hostStep_waits _ h

theorem hostState_served (h : s.dev.served = true) : hostState s g = .next (g s) := by simp [hostState, h]

theorem hostState_waits (h : s.dev.served = false) : hostState s g = .next s := by simp [hostState, h]

theorem startState_served (h : s.dev.served = true) (k : s.dev.rel.devFault = false) : startState s g = .next (g s) := by
  simp [startState, hostState_served _ h, k]

theorem startState_waits (h : s.dev.served = false) : startState s g = .next s := hostState_waits _ h

end

/-- A step with a command in front. -/
theorem step_cons (c : Instr) (l : List Instr) (s : State) : step { s with pending := c :: l } = exec c { s with pending := l } := rfl

/-- A step with an empty queue. -/
theorem step_nil (s : State) (h : s.pending = []) : step s = .next s.tick := by simp [step, h]

/-- The issue record of a copy as slot `p` joins its bundle (R536, R537, R616). -/
def Issue.joined (e : Issue) (p : Plan) : Issue :=
  { e with
    slot := p.slot
    written := e.written ++ p.writes
    isExit := e.isExit || p.isExit
    others := e.others || (p.slot != 0 && !p.nop)
    illegal := e.illegal || !p.legal || p.writes.any e.written.contains || decide (dedup p.writes ≠ p.writes)
    badTransfer := e.badTransfer || (p.transfer && e.snap.levels.any fun l => l.last == e.snap.pc) }

/-- A slot whose turn it is joins the bundle; the last one closes it. -/
theorem State.slot_turn {s : State} {h : Slot} {p : Plan} {key : Nat} {i : Inst} {e : Issue} (t : SlotTurn s h p.slot key i e) :
    s.slot h p =
      (let w := ({ st := s, key, inst := i, iss := e.joined p } : Work).runPlan h p
       if h.last ∨ p.slot = 3 then w.close h.spu.val
       else w.st.onDev fun d => d.setInst key { w.inst with issue := some w.iss }) := by
  obtain ⟨runs, copy, going, turn, -⟩ := t
  obtain ⟨a, b⟩ | ⟨a, b⟩ := turn
  · subst b; simp [State.slot, runs, copy, going, a, Issue.joined]
  · simp [State.slot, runs, copy, going, a, Issue.joined, Nat.not_le.mpr b]

/-- A slot whose SPU runs no copy changes nothing. -/
theorem State.slot_idle {s : State} {h : Slot} (p : Plan) (r : (s.dev.spu h.spu.val).runs = none) : s.slot h p = s := by
  simp [State.slot, r]

/-- A slot out of its order changes nothing. -/
theorem State.slot_late {s : State} {h : Slot} {p : Plan} {key : Nat} {i : Inst} {e : Issue} (r : (s.dev.spu h.spu.val).runs = some key)
    (c : Tbl.find? s.dev.insts key = some i) (a : i.issue = some e) (b : p.slot ≤ e.slot) : s.slot h p = s := by
  simp [State.slot, r, c, a, b]

/-- A guard that is off leaves the copy as it is, but for a skipped block (R586, R587, R596). -/
theorem Work.runPlan_off {w : Work} {h : Slot} {p : Plan} (g : (if p.lanes then w.src.guard h != 0 else bit (w.src.guard h) 0) = false)
    (k : p.skip = none) : w.runPlan h p = w := by
  simp only [Work.runPlan, g, k]; rfl

end Sys2Proof.Machine
end

