-- ==== Sys2Proof/Laws/Table.lean ====
section
/-!
SUPPORT. Tables: reading after writing, and the canonical form.
-/
namespace Sys2Proof.Machine

variable {α : Type}

/-- Every key of the table lies above `b`. -/
def Tbl.above (b : Nat) (t : Tbl α) : Prop := ∀ p ∈ t, b < p.1

theorem Tbl.get_nil (d : α) (k : Nat) : Tbl.get d [] k = d := rfl

theorem Tbl.find_set (t : Tbl α) (k j : Nat) (v : α) : Tbl.find? (Tbl.set t k v) j = if j = k then some v else Tbl.find? t j := by
  induction t with
  | nil => simp [Tbl.set, Tbl.find?]
  | cons p t ih =>
    obtain ⟨a, w⟩ := p
    simp only [Tbl.set]
    split
    · simp only [Tbl.find?]
    · split
      · rename_i h; subst h; simp only [Tbl.find?]; split <;> rfl
      · simp only [Tbl.find?, ih]; split
        · rename_i h₁ h₂ h; subst h; simp only [if_neg (Ne.symm h₂)]
        · rfl

/-- A read after a write. -/
theorem Tbl.get_set (d : α) (t : Tbl α) (k j : Nat) (v : α) : Tbl.get d (Tbl.set t k v) j = if j = k then v else Tbl.get d t j := by
  simp only [Tbl.get, Tbl.find_set]; split <;> rfl

@[simp] theorem Tbl.get_set_self (d : α) (t : Tbl α) (k : Nat) (v : α) : Tbl.get d (Tbl.set t k v) k = v := by
  simp [Tbl.get_set]

theorem Tbl.get_upd (d : α) (t : Tbl α) (k j : Nat) (f : α → α) :
    Tbl.get d (Tbl.upd d t k f) j = if j = k then f (Tbl.get d t k) else Tbl.get d t j := Tbl.get_set d t k j _

@[simp] theorem Tbl.get_upd_self (d : α) (t : Tbl α) (k : Nat) (f : α → α) : Tbl.get d (Tbl.upd d t k f) k = f (Tbl.get d t k) := by
  simp [Tbl.get_upd]

theorem Tbl.find_erase (t : Tbl α) (k j : Nat) : Tbl.find? (Tbl.erase t k) j = if j = k then none else Tbl.find? t j := by
  induction t with
  | nil => simp [Tbl.erase, Tbl.find?]
  | cons p t ih =>
    obtain ⟨a, w⟩ := p
    unfold Tbl.erase at ih ⊢
    by_cases h : a = k
    · subst h; simp only [List.filter, bne_self_eq_false, Tbl.find?, ih]; split <;> rfl
    · have : (a != k) = true := by simpa using h
      simp only [List.filter, this, Tbl.find?, ih]
      split
      · rename_i h'; subst h'; rw [if_neg h]
      · rfl

/-- A read after a write under the canonical form. -/
theorem Tbl.get_put [DecidableEq α] (d : α) (t : Tbl α) (k j : Nat) (v : α) :
    Tbl.get d (Tbl.put d t k v) j = if j = k then v else Tbl.get d t j := by
  unfold Tbl.put
  split
  · rename_i h; subst h; simp only [Tbl.get, Tbl.find_erase]; split <;> rfl
  · exact Tbl.get_set d t k j v

@[simp] theorem Tbl.get_put_self [DecidableEq α] (d : α) (t : Tbl α) (k : Nat) (v : α) : Tbl.get d (Tbl.put d t k v) k = v := by
  simp [Tbl.get_put]

/-- A write of a run leaves every other place alone. -/
theorem Tbl.get_putRun_other [DecidableEq α] (d : α) (vs : List α) : ∀ (t : Tbl α) (k j : Nat), (j < k ∨ k + vs.length ≤ j) →
    Tbl.get d (Tbl.putRun d t k vs) j = Tbl.get d t j := by
  induction vs with
  | nil => intro t k j _; rfl
  | cons v vs ih =>
    intro t k j h
    simp only [Tbl.putRun, List.length_cons] at *
    rw [ih _ _ _ (by omega), Tbl.get_put, if_neg (by omega)]

/-- A read of a place that a run was written to. -/
theorem Tbl.get_putRun_in [DecidableEq α] (d : α) (vs : List α) : ∀ (t : Tbl α) (k i : Nat) (h : i < vs.length),
    Tbl.get d (Tbl.putRun d t k vs) (k + i) = vs[i] := by
  induction vs with
  | nil => intro t k i h; simp at h
  | cons v vs ih =>
    intro t k i h
    simp only [Tbl.putRun]
    cases i with
    | zero => rw [Tbl.get_putRun_other _ _ _ _ _ (by omega)]; simp
    | succ i => have := ih (Tbl.put d t k v) (k + 1) i (by simpa using h); simpa [Nat.add_assoc, Nat.add_comm 1 i] using this

/-- Reading back a run. -/
theorem Tbl.getRun_putRun [DecidableEq α] (d : α) (vs : List α) : ∀ (t : Tbl α) (k : Nat),
    Tbl.getRun d (Tbl.putRun d t k vs) k vs.length = vs := by
  induction vs with
  | nil => intro t k; rfl
  | cons v vs ih =>
    intro t k
    simp only [Tbl.putRun, List.length_cons, Tbl.getRun, ih]
    rw [Tbl.get_putRun_other _ _ _ _ _ (by omega)]; simp

/-! The canonical form. -/

theorem Tbl.wf_cons [DecidableEq α] (d : α) (k : Nat) (v : α) (t : Tbl α) :
    Tbl.wf d ((k, v) :: t) = true ↔ v ≠ d ∧ Tbl.above k t ∧ Tbl.wf d t = true := by
  induction t generalizing k v with
  | nil => simp [Tbl.wf, Tbl.above]
  | cons p t ih =>
    obtain ⟨k', v'⟩ := p
    simp only [Tbl.wf, Bool.and_eq_true, decide_eq_true_eq, Tbl.above, List.mem_cons]
    constructor
    · rintro ⟨⟨h₁, h₂⟩, h₃⟩
      refine ⟨h₁, ?_, h₃⟩
      rintro q (rfl | hq)
      · exact h₂
      · exact Nat.lt_trans h₂ (((ih k' v').mp h₃).2.1 q hq)
    · rintro ⟨h₁, h₂, h₃⟩
      exact ⟨⟨h₁, h₂ (k', v') (Or.inl rfl)⟩, h₃⟩

theorem Tbl.above_set (b : Nat) (t : Tbl α) (k : Nat) (v : α) (hb : b < k) (h : Tbl.above b t) : Tbl.above b (Tbl.set t k v) := by
  induction t with
  | nil => simpa [Tbl.set, Tbl.above] using hb
  | cons p t ih =>
    obtain ⟨a, w⟩ := p
    have ht : Tbl.above b t := fun q hq => h q (List.mem_cons_of_mem _ hq)
    simp only [Tbl.set]
    split
    · intro q hq; rcases List.mem_cons.mp hq with rfl | hq
      · exact hb
      · exact h q hq
    · split
      · intro q hq; rcases List.mem_cons.mp hq with rfl | hq
        · exact hb
        · exact ht q hq
      · intro q hq; rcases List.mem_cons.mp hq with rfl | hq
        · exact h (a, w) (List.mem_cons_self ..)
        · exact ih ht q hq

theorem Tbl.wf_set [DecidableEq α] (d : α) (t : Tbl α) (k : Nat) (v : α) (hv : v ≠ d) (h : Tbl.wf d t = true) : Tbl.wf d (Tbl.set t k v) = true := by
  induction t with
  | nil => simpa [Tbl.set, Tbl.wf] using hv
  | cons p t ih =>
    obtain ⟨a, w⟩ := p
    obtain ⟨h₁, h₂, h₃⟩ := (Tbl.wf_cons d a w t).mp h
    simp only [Tbl.set]
    split
    · rename_i hk
      refine (Tbl.wf_cons ..).mpr ⟨hv, ?_, h⟩
      intro q hq; rcases List.mem_cons.mp hq with rfl | hq
      · exact hk
      · exact Nat.lt_trans hk (h₂ q hq)
    · split
      · rename_i hk; subst hk; exact (Tbl.wf_cons ..).mpr ⟨hv, h₂, h₃⟩
      · exact (Tbl.wf_cons ..).mpr ⟨h₁, Tbl.above_set _ _ _ _ (by omega) h₂, ih h₃⟩

theorem Tbl.wf_filter [DecidableEq α] (d : α) (t : Tbl α) (f : Nat × α → Bool) (h : Tbl.wf d t = true) : Tbl.wf d (t.filter f) = true := by
  induction t with
  | nil => exact h
  | cons p t ih =>
    obtain ⟨a, w⟩ := p
    obtain ⟨h₁, h₂, h₃⟩ := (Tbl.wf_cons d a w t).mp h
    by_cases hf : f (a, w) = true
    · rw [List.filter_cons_of_pos hf]
      exact (Tbl.wf_cons ..).mpr ⟨h₁, fun q hq => h₂ q (List.mem_of_mem_filter hq), ih h₃⟩
    · rw [List.filter_cons_of_neg hf]; exact ih h₃

/-- Every write keeps the canonical form. -/
theorem Tbl.wf_put [DecidableEq α] (d : α) (t : Tbl α) (k : Nat) (v : α) (h : Tbl.wf d t = true) : Tbl.wf d (Tbl.put d t k v) = true := by
  unfold Tbl.put
  split
  · exact Tbl.wf_filter d t _ h
  · rename_i hv; exact Tbl.wf_set d t k v hv h

theorem Tbl.wf_putRun [DecidableEq α] (d : α) (vs : List α) : ∀ (t : Tbl α) (k : Nat), Tbl.wf d t = true → Tbl.wf d (Tbl.putRun d t k vs) = true := by
  induction vs with
  | nil => intro t k h; exact h
  | cons v vs ih => intro t k h; exact ih _ _ (Tbl.wf_put d t k v h)

end Sys2Proof.Machine
end

