-- ==== Sys2Proof/Laws/Memory.lean ====
section
/-!
SUPPORT. The memories: every operation over them keeps the canonical form, a read after a write gives what was written, and
a write leaves every other place alone.
-/
namespace Sys2Proof.Machine

theorem Mem.wf_iff (m : Mem) : m.wf = true ↔
    Tbl.wf {} m.loft = true ∧ Tbl.wf 0 m.cellar = true ∧ Tbl.wf 0 m.pool = true ∧ Tbl.wf 0 m.attic = true ∧ Tbl.wf 0 m.loftErr = true ∧
      Tbl.wf [] m.celErr = true := by
  simp [Mem.wf, and_assoc]

/-- Reset lists nothing. -/
theorem reset_inv : State.reset.Inv := rfl

theorem Mem.loftPut_wf (m : Mem) (a : Nat) (c : Cell) (h : m.wf = true) : (m.loftPut a c).wf = true := by
  obtain ⟨h1, h2, h3, h4, h5, h6⟩ := m.wf_iff.1 h
  exact (Mem.wf_iff _).2 ⟨Tbl.wf_put _ _ _ _ h1, h2, h3, h4, Tbl.wf_filter _ _ _ h5, h6⟩

theorem Mem.loftPutRun_wf (cs : List Cell) : ∀ (m : Mem) (a : Nat), m.wf = true → (m.loftPutRun a cs).wf = true := by
  induction cs with
  | nil => intro m a h; exact h
  | cons c cs ih => intro m a h; exact ih _ _ (m.loftPut_wf a c h)

theorem Mem.loftFlip_wf (m : Mem) (a : Nat) (flips : BitVec 48) (h : m.wf = true) : (m.loftFlip a flips).wf = true := by
  obtain ⟨h1, h2, h3, h4, h5, h6⟩ := m.wf_iff.1 h
  simp only [Mem.loftFlip]
  split
  · exact h
  · split
    · exact (Mem.wf_iff _).2 ⟨Tbl.wf_put _ _ _ _ h1, h2, h3, h4, Tbl.wf_put _ _ _ _ h5, h6⟩
    · exact (Mem.wf_iff _).2 ⟨h1, h2, h3, h4, Tbl.wf_put _ _ _ _ h5, h6⟩

theorem Mem.cellarPut_wf (m : Mem) (a : Nat) (b : List Byte) (h : m.wf = true) : (m.cellarPut a b).wf = true := by
  obtain ⟨h1, h2, h3, h4, h5, h6⟩ := m.wf_iff.1 h
  unfold Mem.cellarPut
  split
  · exact h
  · exact (Mem.wf_iff _).2 ⟨h1, Tbl.wf_putRun _ _ _ _ h2, h3, h4, h5, Tbl.wf_filter _ _ _ h6⟩

theorem Tbl.wf_foldl {α β : Type} [DecidableEq α] (d : α) (f : Tbl α → β → Tbl α) (hf : ∀ t x, Tbl.wf d t = true → Tbl.wf d (f t x) = true) :
    ∀ (l : List β) (t : Tbl α), Tbl.wf d t = true → Tbl.wf d (l.foldl f t) = true
  | [], _, h => h
  | x :: l, t, h => Tbl.wf_foldl d f hf l _ (hf t x h)

theorem Mem.granuleHit_wf (m : Mem) (g : Nat) (e : List (Nat × Nat)) (h : m.wf = true) : (m.granuleHit g e).wf = true := by
  obtain ⟨h1, h2, h3, h4, h5, h6⟩ := m.wf_iff.1 h
  simp only [Mem.granuleHit]
  split
  · exact (Mem.wf_iff _).2 ⟨h1, h2, h3, h4, h5, Tbl.wf_put _ _ _ _ h6⟩
  · refine (Mem.wf_iff _).2 ⟨h1, Tbl.wf_foldl _ _ (fun t x ht => ?_) _ _ h2, h3, h4, h5, Tbl.wf_put _ _ _ _ h6⟩
    split
    · exact Tbl.wf_put _ _ _ _ ht
    · exact ht

theorem Mem.poolPut_wf (m : Mem) (a : Nat) (b : List Byte) (h : m.wf = true) : ({ m with pool := Tbl.putRun 0 m.pool a b } : Mem).wf = true := by
  obtain ⟨h1, h2, h3, h4, h5, h6⟩ := m.wf_iff.1 h
  exact (Mem.wf_iff _).2 ⟨h1, h2, Tbl.wf_putRun _ _ _ _ h3, h4, h5, h6⟩

theorem Mem.atticPut_wf (m : Mem) (a : Nat) (b : List Byte) (h : m.wf = true) : ({ m with attic := Tbl.putRun 0 m.attic a b } : Mem).wf = true := by
  obtain ⟨h1, h2, h3, h4, h5, h6⟩ := m.wf_iff.1 h
  exact (Mem.wf_iff _).2 ⟨h1, h2, h3, Tbl.wf_putRun _ _ _ _ h4, h5, h6⟩

theorem Mem.atticErase_wf (m : Mem) (l : List Nat) (h : m.wf = true) : (m.atticErase l).wf = true := by
  obtain ⟨h1, h2, h3, h4, h5, h6⟩ := m.wf_iff.1 h
  exact (Mem.wf_iff _).2 ⟨h1, h2, h3, Tbl.wf_filter _ _ _ h4, h5, h6⟩

theorem Mem.booted_wf (m : Mem) (h : m.wf = true) : m.booted.wf = true := by
  obtain ⟨-, -, -, h4, -, -⟩ := m.wf_iff.1 h
  exact (Mem.wf_iff _).2 ⟨rfl, rfl, rfl, h4, rfl, rfl⟩

/-- R19: what a Loft cell reads as after a store. -/
theorem Mem.loftGet_put (m : Mem) (a j : Nat) (c : Cell) : (m.loftPut a c).loftGet j = if j = a then c.stored else m.loftGet j :=
  Tbl.get_put ..

/-- A write of the Cellar leaves every byte outside it alone. -/
theorem Mem.cellarPut_other (m : Mem) (a : Nat) (b : List Byte) (j : Nat) (h : j < a ∨ a + b.length ≤ j) :
    Tbl.get 0 (m.cellarPut a b).cellar j = Tbl.get 0 m.cellar j := by
  unfold Mem.cellarPut
  split
  · rfl
  · exact Tbl.get_putRun_other _ _ _ _ _ h

/-- A read after a write of the Cellar, where no Shelf is lost. -/
theorem Mem.cellarGet_put (m : Mem) (a : Nat) (b : List Byte) (h : m.lostAt a b.length = false) :
    (m.cellarPut a b).cellarGet a b.length = b := by
  unfold Mem.cellarPut Mem.cellarGet
  rw [h]; exact Tbl.getRun_putRun ..

end Sys2Proof.Machine
end

