-- ==== Sys2Proof/Laws/State.lean ====
section
/-!
SUPPORT. What each update of the state leaves alone, one lemma per field and update, and what it does to its own field.
-/
namespace Sys2Proof.Machine

section
variable (s : State) (d : Dev)

@[simp] theorem State.onDev_dev (f : Dev → Dev) : (s.onDev f).dev = f s.dev := rfl
@[simp] theorem State.onDev_mem (f : Dev → Dev) : (s.onDev f).mem = s.mem := rfl
@[simp] theorem State.onDev_pending (f : Dev → Dev) : (s.onDev f).pending = s.pending := rfl
@[simp] theorem State.onMem_mem (f : Mem → Mem) : (s.onMem f).mem = f s.mem := rfl
@[simp] theorem State.onMem_dev (f : Mem → Mem) : (s.onMem f).dev = s.dev := rfl
@[simp] theorem State.onMem_pending (f : Mem → Mem) : (s.onMem f).pending = s.pending := rfl
@[simp] theorem Dev.freed_glb : (d.freed).glb = d.glb := rfl
@[simp] theorem Dev.freed_rel : (d.freed).rel = d.rel := rfl
@[simp] theorem Dev.freed_hlk : (d.freed).hlk = d.hlk := rfl
@[simp] theorem Dev.freed_stk : (d.freed).stk = d.stk := rfl
@[simp] theorem Dev.freed_spa : (d.freed).spa = d.spa := rfl
@[simp] theorem Dev.freed_insts : (d.freed).insts = d.insts := rfl
@[simp] theorem Dev.freed_mov : (d.freed).mov = d.mov := rfl
@[simp] theorem Dev.freed_barrels : (d.freed).barrels = d.barrels := rfl
@[simp] theorem Dev.freed_tim : (d.freed).tim = d.tim := rfl
@[simp] theorem Dev.freed_atc : (d.freed).atc = d.atc := rfl
@[simp] theorem Dev.freed_cel : (d.freed).cel = d.cel := rfl
@[simp] theorem Dev.freed_mon : (d.freed).mon = d.mon := rfl
@[simp] theorem Dev.freed_hkc : (d.freed).hkc = d.hkc := rfl
@[simp] theorem Dev.freed_units : (d.freed).units = d.units := rfl
@[simp] theorem Dev.freed_ing : (d.freed).ing = d.ing := rfl
@[simp] theorem Dev.freed_chn : (d.freed).chn = d.chn := rfl
@[simp] theorem Dev.freed_spe : (d.freed).spe = d.spe := rfl
@[simp] theorem Dev.freed_xsp : (d.freed).xsp = d.xsp := rfl
@[simp] theorem Dev.freed_trg : (d.freed).trg = d.trg := rfl
@[simp] theorem Dev.freed_instr : (d.freed).instr = d.instr := rfl
@[simp] theorem Dev.freed_den : (d.freed).den = d.den := rfl
@[simp] theorem Dev.freed_sco : (d.freed).sco = d.sco := rfl
@[simp] theorem Dev.freed_raised : (d.freed).raised = d.raised := rfl
@[simp] theorem Dev.freed_host : (d.freed).host = d.host := rfl
@[simp] theorem Dev.raise_glb (id : Nat) (time : Stamp) (reach : Option Nat) : (d.raise id time reach).glb = d.glb := rfl
@[simp] theorem Dev.raise_rel (id : Nat) (time : Stamp) (reach : Option Nat) : (d.raise id time reach).rel = d.rel := rfl
@[simp] theorem Dev.raise_hlk (id : Nat) (time : Stamp) (reach : Option Nat) : (d.raise id time reach).hlk = d.hlk := rfl
@[simp] theorem Dev.raise_stk (id : Nat) (time : Stamp) (reach : Option Nat) : (d.raise id time reach).stk = d.stk := rfl
@[simp] theorem Dev.raise_spa (id : Nat) (time : Stamp) (reach : Option Nat) : (d.raise id time reach).spa = d.spa := rfl
@[simp] theorem Dev.raise_insts (id : Nat) (time : Stamp) (reach : Option Nat) : (d.raise id time reach).insts = d.insts := rfl
@[simp] theorem Dev.raise_mov (id : Nat) (time : Stamp) (reach : Option Nat) : (d.raise id time reach).mov = d.mov := rfl
@[simp] theorem Dev.raise_barrels (id : Nat) (time : Stamp) (reach : Option Nat) : (d.raise id time reach).barrels = d.barrels := rfl
@[simp] theorem Dev.raise_tim (id : Nat) (time : Stamp) (reach : Option Nat) : (d.raise id time reach).tim = d.tim := rfl
@[simp] theorem Dev.raise_atc (id : Nat) (time : Stamp) (reach : Option Nat) : (d.raise id time reach).atc = d.atc := rfl
@[simp] theorem Dev.raise_cel (id : Nat) (time : Stamp) (reach : Option Nat) : (d.raise id time reach).cel = d.cel := rfl
@[simp] theorem Dev.raise_mon (id : Nat) (time : Stamp) (reach : Option Nat) : (d.raise id time reach).mon = d.mon := rfl
@[simp] theorem Dev.raise_hkc (id : Nat) (time : Stamp) (reach : Option Nat) : (d.raise id time reach).hkc = d.hkc := rfl
@[simp] theorem Dev.raise_units (id : Nat) (time : Stamp) (reach : Option Nat) : (d.raise id time reach).units = d.units := rfl
@[simp] theorem Dev.raise_ing (id : Nat) (time : Stamp) (reach : Option Nat) : (d.raise id time reach).ing = d.ing := rfl
@[simp] theorem Dev.raise_chn (id : Nat) (time : Stamp) (reach : Option Nat) : (d.raise id time reach).chn = d.chn := rfl
@[simp] theorem Dev.raise_spe (id : Nat) (time : Stamp) (reach : Option Nat) : (d.raise id time reach).spe = d.spe := rfl
@[simp] theorem Dev.raise_xsp (id : Nat) (time : Stamp) (reach : Option Nat) : (d.raise id time reach).xsp = d.xsp := rfl
@[simp] theorem Dev.raise_trg (id : Nat) (time : Stamp) (reach : Option Nat) : (d.raise id time reach).trg = d.trg := rfl
@[simp] theorem Dev.raise_instr (id : Nat) (time : Stamp) (reach : Option Nat) : (d.raise id time reach).instr = d.instr := rfl
@[simp] theorem Dev.raise_den (id : Nat) (time : Stamp) (reach : Option Nat) : (d.raise id time reach).den = d.den := rfl
@[simp] theorem Dev.raise_sco (id : Nat) (time : Stamp) (reach : Option Nat) : (d.raise id time reach).sco = d.sco := rfl
@[simp] theorem Dev.raise_host (id : Nat) (time : Stamp) (reach : Option Nat) : (d.raise id time reach).host = d.host := rfl
@[simp] theorem Dev.raise_freeCtr (id : Nat) (time : Stamp) (reach : Option Nat) : (d.raise id time reach).freeCtr = d.freeCtr := rfl
@[simp] theorem Dev.setInst_glb (key : Nat) (i : Inst) : (d.setInst key i).glb = d.glb := rfl
@[simp] theorem Dev.setInst_rel (key : Nat) (i : Inst) : (d.setInst key i).rel = d.rel := rfl
@[simp] theorem Dev.setInst_hlk (key : Nat) (i : Inst) : (d.setInst key i).hlk = d.hlk := rfl
@[simp] theorem Dev.setInst_stk (key : Nat) (i : Inst) : (d.setInst key i).stk = d.stk := rfl
@[simp] theorem Dev.setInst_spa (key : Nat) (i : Inst) : (d.setInst key i).spa = d.spa := rfl
@[simp] theorem Dev.setInst_mov (key : Nat) (i : Inst) : (d.setInst key i).mov = d.mov := rfl
@[simp] theorem Dev.setInst_barrels (key : Nat) (i : Inst) : (d.setInst key i).barrels = d.barrels := rfl
@[simp] theorem Dev.setInst_tim (key : Nat) (i : Inst) : (d.setInst key i).tim = d.tim := rfl
@[simp] theorem Dev.setInst_atc (key : Nat) (i : Inst) : (d.setInst key i).atc = d.atc := rfl
@[simp] theorem Dev.setInst_cel (key : Nat) (i : Inst) : (d.setInst key i).cel = d.cel := rfl
@[simp] theorem Dev.setInst_mon (key : Nat) (i : Inst) : (d.setInst key i).mon = d.mon := rfl
@[simp] theorem Dev.setInst_hkc (key : Nat) (i : Inst) : (d.setInst key i).hkc = d.hkc := rfl
@[simp] theorem Dev.setInst_units (key : Nat) (i : Inst) : (d.setInst key i).units = d.units := rfl
@[simp] theorem Dev.setInst_ing (key : Nat) (i : Inst) : (d.setInst key i).ing = d.ing := rfl
@[simp] theorem Dev.setInst_chn (key : Nat) (i : Inst) : (d.setInst key i).chn = d.chn := rfl
@[simp] theorem Dev.setInst_spe (key : Nat) (i : Inst) : (d.setInst key i).spe = d.spe := rfl
@[simp] theorem Dev.setInst_xsp (key : Nat) (i : Inst) : (d.setInst key i).xsp = d.xsp := rfl
@[simp] theorem Dev.setInst_trg (key : Nat) (i : Inst) : (d.setInst key i).trg = d.trg := rfl
@[simp] theorem Dev.setInst_instr (key : Nat) (i : Inst) : (d.setInst key i).instr = d.instr := rfl
@[simp] theorem Dev.setInst_den (key : Nat) (i : Inst) : (d.setInst key i).den = d.den := rfl
@[simp] theorem Dev.setInst_sco (key : Nat) (i : Inst) : (d.setInst key i).sco = d.sco := rfl
@[simp] theorem Dev.setInst_raised (key : Nat) (i : Inst) : (d.setInst key i).raised = d.raised := rfl
@[simp] theorem Dev.setInst_host (key : Nat) (i : Inst) : (d.setInst key i).host = d.host := rfl
@[simp] theorem Dev.setInst_freeCtr (key : Nat) (i : Inst) : (d.setInst key i).freeCtr = d.freeCtr := rfl
@[simp] theorem Dev.atticPush_glb (job : AtticJob) (typ : Nat) (body : List Byte) : (d.atticPush job typ body).glb = d.glb := rfl
@[simp] theorem Dev.atticPush_rel (job : AtticJob) (typ : Nat) (body : List Byte) : (d.atticPush job typ body).rel = d.rel := rfl
@[simp] theorem Dev.atticPush_hlk (job : AtticJob) (typ : Nat) (body : List Byte) : (d.atticPush job typ body).hlk = d.hlk := rfl
@[simp] theorem Dev.atticPush_stk (job : AtticJob) (typ : Nat) (body : List Byte) : (d.atticPush job typ body).stk = d.stk := rfl
@[simp] theorem Dev.atticPush_spa (job : AtticJob) (typ : Nat) (body : List Byte) : (d.atticPush job typ body).spa = d.spa := rfl
@[simp] theorem Dev.atticPush_insts (job : AtticJob) (typ : Nat) (body : List Byte) : (d.atticPush job typ body).insts = d.insts := rfl
@[simp] theorem Dev.atticPush_mov (job : AtticJob) (typ : Nat) (body : List Byte) : (d.atticPush job typ body).mov = d.mov := rfl
@[simp] theorem Dev.atticPush_barrels (job : AtticJob) (typ : Nat) (body : List Byte) : (d.atticPush job typ body).barrels = d.barrels := rfl
@[simp] theorem Dev.atticPush_tim (job : AtticJob) (typ : Nat) (body : List Byte) : (d.atticPush job typ body).tim = d.tim := rfl
@[simp] theorem Dev.atticPush_cel (job : AtticJob) (typ : Nat) (body : List Byte) : (d.atticPush job typ body).cel = d.cel := rfl
@[simp] theorem Dev.atticPush_mon (job : AtticJob) (typ : Nat) (body : List Byte) : (d.atticPush job typ body).mon = d.mon := rfl
@[simp] theorem Dev.atticPush_hkc (job : AtticJob) (typ : Nat) (body : List Byte) : (d.atticPush job typ body).hkc = d.hkc := rfl
@[simp] theorem Dev.atticPush_units (job : AtticJob) (typ : Nat) (body : List Byte) : (d.atticPush job typ body).units = d.units := rfl
@[simp] theorem Dev.atticPush_ing (job : AtticJob) (typ : Nat) (body : List Byte) : (d.atticPush job typ body).ing = d.ing := rfl
@[simp] theorem Dev.atticPush_chn (job : AtticJob) (typ : Nat) (body : List Byte) : (d.atticPush job typ body).chn = d.chn := rfl
@[simp] theorem Dev.atticPush_spe (job : AtticJob) (typ : Nat) (body : List Byte) : (d.atticPush job typ body).spe = d.spe := rfl
@[simp] theorem Dev.atticPush_xsp (job : AtticJob) (typ : Nat) (body : List Byte) : (d.atticPush job typ body).xsp = d.xsp := rfl
@[simp] theorem Dev.atticPush_trg (job : AtticJob) (typ : Nat) (body : List Byte) : (d.atticPush job typ body).trg = d.trg := rfl
@[simp] theorem Dev.atticPush_instr (job : AtticJob) (typ : Nat) (body : List Byte) : (d.atticPush job typ body).instr = d.instr := rfl
@[simp] theorem Dev.atticPush_den (job : AtticJob) (typ : Nat) (body : List Byte) : (d.atticPush job typ body).den = d.den := rfl
@[simp] theorem Dev.atticPush_sco (job : AtticJob) (typ : Nat) (body : List Byte) : (d.atticPush job typ body).sco = d.sco := rfl
@[simp] theorem Dev.atticPush_raised (job : AtticJob) (typ : Nat) (body : List Byte) : (d.atticPush job typ body).raised = d.raised := rfl
@[simp] theorem Dev.atticPush_host (job : AtticJob) (typ : Nat) (body : List Byte) : (d.atticPush job typ body).host = d.host := rfl
@[simp] theorem Dev.atticPush_freeCtr (job : AtticJob) (typ : Nat) (body : List Byte) : (d.atticPush job typ body).freeCtr = d.freeCtr := rfl
@[simp] theorem Dev.onAcc_glb (k : Nat) (f : MonAcc → MonAcc) : (d.onAcc k f).glb = d.glb := rfl
@[simp] theorem Dev.onAcc_rel (k : Nat) (f : MonAcc → MonAcc) : (d.onAcc k f).rel = d.rel := rfl
@[simp] theorem Dev.onAcc_hlk (k : Nat) (f : MonAcc → MonAcc) : (d.onAcc k f).hlk = d.hlk := rfl
@[simp] theorem Dev.onAcc_stk (k : Nat) (f : MonAcc → MonAcc) : (d.onAcc k f).stk = d.stk := rfl
@[simp] theorem Dev.onAcc_spa (k : Nat) (f : MonAcc → MonAcc) : (d.onAcc k f).spa = d.spa := rfl
@[simp] theorem Dev.onAcc_insts (k : Nat) (f : MonAcc → MonAcc) : (d.onAcc k f).insts = d.insts := rfl
@[simp] theorem Dev.onAcc_mov (k : Nat) (f : MonAcc → MonAcc) : (d.onAcc k f).mov = d.mov := rfl
@[simp] theorem Dev.onAcc_barrels (k : Nat) (f : MonAcc → MonAcc) : (d.onAcc k f).barrels = d.barrels := rfl
@[simp] theorem Dev.onAcc_tim (k : Nat) (f : MonAcc → MonAcc) : (d.onAcc k f).tim = d.tim := rfl
@[simp] theorem Dev.onAcc_atc (k : Nat) (f : MonAcc → MonAcc) : (d.onAcc k f).atc = d.atc := rfl
@[simp] theorem Dev.onAcc_cel (k : Nat) (f : MonAcc → MonAcc) : (d.onAcc k f).cel = d.cel := rfl
@[simp] theorem Dev.onAcc_hkc (k : Nat) (f : MonAcc → MonAcc) : (d.onAcc k f).hkc = d.hkc := rfl
@[simp] theorem Dev.onAcc_units (k : Nat) (f : MonAcc → MonAcc) : (d.onAcc k f).units = d.units := rfl
@[simp] theorem Dev.onAcc_ing (k : Nat) (f : MonAcc → MonAcc) : (d.onAcc k f).ing = d.ing := rfl
@[simp] theorem Dev.onAcc_chn (k : Nat) (f : MonAcc → MonAcc) : (d.onAcc k f).chn = d.chn := rfl
@[simp] theorem Dev.onAcc_spe (k : Nat) (f : MonAcc → MonAcc) : (d.onAcc k f).spe = d.spe := rfl
@[simp] theorem Dev.onAcc_xsp (k : Nat) (f : MonAcc → MonAcc) : (d.onAcc k f).xsp = d.xsp := rfl
@[simp] theorem Dev.onAcc_trg (k : Nat) (f : MonAcc → MonAcc) : (d.onAcc k f).trg = d.trg := rfl
@[simp] theorem Dev.onAcc_instr (k : Nat) (f : MonAcc → MonAcc) : (d.onAcc k f).instr = d.instr := rfl
@[simp] theorem Dev.onAcc_den (k : Nat) (f : MonAcc → MonAcc) : (d.onAcc k f).den = d.den := rfl
@[simp] theorem Dev.onAcc_sco (k : Nat) (f : MonAcc → MonAcc) : (d.onAcc k f).sco = d.sco := rfl
@[simp] theorem Dev.onAcc_raised (k : Nat) (f : MonAcc → MonAcc) : (d.onAcc k f).raised = d.raised := rfl
@[simp] theorem Dev.onAcc_host (k : Nat) (f : MonAcc → MonAcc) : (d.onAcc k f).host = d.host := rfl
@[simp] theorem Dev.onAcc_freeCtr (k : Nat) (f : MonAcc → MonAcc) : (d.onAcc k f).freeCtr = d.freeCtr := rfl
@[simp] theorem Dev.onAtc_glb (f : Atc → Atc) : (d.onAtc f).glb = d.glb := rfl
@[simp] theorem Dev.onAtc_rel (f : Atc → Atc) : (d.onAtc f).rel = d.rel := rfl
@[simp] theorem Dev.onAtc_hlk (f : Atc → Atc) : (d.onAtc f).hlk = d.hlk := rfl
@[simp] theorem Dev.onAtc_stk (f : Atc → Atc) : (d.onAtc f).stk = d.stk := rfl
@[simp] theorem Dev.onAtc_spa (f : Atc → Atc) : (d.onAtc f).spa = d.spa := rfl
@[simp] theorem Dev.onAtc_insts (f : Atc → Atc) : (d.onAtc f).insts = d.insts := rfl
@[simp] theorem Dev.onAtc_mov (f : Atc → Atc) : (d.onAtc f).mov = d.mov := rfl
@[simp] theorem Dev.onAtc_barrels (f : Atc → Atc) : (d.onAtc f).barrels = d.barrels := rfl
@[simp] theorem Dev.onAtc_tim (f : Atc → Atc) : (d.onAtc f).tim = d.tim := rfl
@[simp] theorem Dev.onAtc_cel (f : Atc → Atc) : (d.onAtc f).cel = d.cel := rfl
@[simp] theorem Dev.onAtc_mon (f : Atc → Atc) : (d.onAtc f).mon = d.mon := rfl
@[simp] theorem Dev.onAtc_hkc (f : Atc → Atc) : (d.onAtc f).hkc = d.hkc := rfl
@[simp] theorem Dev.onAtc_units (f : Atc → Atc) : (d.onAtc f).units = d.units := rfl
@[simp] theorem Dev.onAtc_ing (f : Atc → Atc) : (d.onAtc f).ing = d.ing := rfl
@[simp] theorem Dev.onAtc_chn (f : Atc → Atc) : (d.onAtc f).chn = d.chn := rfl
@[simp] theorem Dev.onAtc_spe (f : Atc → Atc) : (d.onAtc f).spe = d.spe := rfl
@[simp] theorem Dev.onAtc_xsp (f : Atc → Atc) : (d.onAtc f).xsp = d.xsp := rfl
@[simp] theorem Dev.onAtc_trg (f : Atc → Atc) : (d.onAtc f).trg = d.trg := rfl
@[simp] theorem Dev.onAtc_instr (f : Atc → Atc) : (d.onAtc f).instr = d.instr := rfl
@[simp] theorem Dev.onAtc_den (f : Atc → Atc) : (d.onAtc f).den = d.den := rfl
@[simp] theorem Dev.onAtc_sco (f : Atc → Atc) : (d.onAtc f).sco = d.sco := rfl
@[simp] theorem Dev.onAtc_raised (f : Atc → Atc) : (d.onAtc f).raised = d.raised := rfl
@[simp] theorem Dev.onAtc_host (f : Atc → Atc) : (d.onAtc f).host = d.host := rfl
@[simp] theorem Dev.onAtc_freeCtr (f : Atc → Atc) : (d.onAtc f).freeCtr = d.freeCtr := rfl
@[simp] theorem Dev.onBarrel_glb (b : Nat) (f : Barrel → Barrel) : (d.onBarrel b f).glb = d.glb := rfl
@[simp] theorem Dev.onBarrel_rel (b : Nat) (f : Barrel → Barrel) : (d.onBarrel b f).rel = d.rel := rfl
@[simp] theorem Dev.onBarrel_hlk (b : Nat) (f : Barrel → Barrel) : (d.onBarrel b f).hlk = d.hlk := rfl
@[simp] theorem Dev.onBarrel_stk (b : Nat) (f : Barrel → Barrel) : (d.onBarrel b f).stk = d.stk := rfl
@[simp] theorem Dev.onBarrel_spa (b : Nat) (f : Barrel → Barrel) : (d.onBarrel b f).spa = d.spa := rfl
@[simp] theorem Dev.onBarrel_insts (b : Nat) (f : Barrel → Barrel) : (d.onBarrel b f).insts = d.insts := rfl
@[simp] theorem Dev.onBarrel_mov (b : Nat) (f : Barrel → Barrel) : (d.onBarrel b f).mov = d.mov := rfl
@[simp] theorem Dev.onBarrel_tim (b : Nat) (f : Barrel → Barrel) : (d.onBarrel b f).tim = d.tim := rfl
@[simp] theorem Dev.onBarrel_atc (b : Nat) (f : Barrel → Barrel) : (d.onBarrel b f).atc = d.atc := rfl
@[simp] theorem Dev.onBarrel_cel (b : Nat) (f : Barrel → Barrel) : (d.onBarrel b f).cel = d.cel := rfl
@[simp] theorem Dev.onBarrel_mon (b : Nat) (f : Barrel → Barrel) : (d.onBarrel b f).mon = d.mon := rfl
@[simp] theorem Dev.onBarrel_hkc (b : Nat) (f : Barrel → Barrel) : (d.onBarrel b f).hkc = d.hkc := rfl
@[simp] theorem Dev.onBarrel_units (b : Nat) (f : Barrel → Barrel) : (d.onBarrel b f).units = d.units := rfl
@[simp] theorem Dev.onBarrel_ing (b : Nat) (f : Barrel → Barrel) : (d.onBarrel b f).ing = d.ing := rfl
@[simp] theorem Dev.onBarrel_chn (b : Nat) (f : Barrel → Barrel) : (d.onBarrel b f).chn = d.chn := rfl
@[simp] theorem Dev.onBarrel_spe (b : Nat) (f : Barrel → Barrel) : (d.onBarrel b f).spe = d.spe := rfl
@[simp] theorem Dev.onBarrel_xsp (b : Nat) (f : Barrel → Barrel) : (d.onBarrel b f).xsp = d.xsp := rfl
@[simp] theorem Dev.onBarrel_trg (b : Nat) (f : Barrel → Barrel) : (d.onBarrel b f).trg = d.trg := rfl
@[simp] theorem Dev.onBarrel_instr (b : Nat) (f : Barrel → Barrel) : (d.onBarrel b f).instr = d.instr := rfl
@[simp] theorem Dev.onBarrel_den (b : Nat) (f : Barrel → Barrel) : (d.onBarrel b f).den = d.den := rfl
@[simp] theorem Dev.onBarrel_sco (b : Nat) (f : Barrel → Barrel) : (d.onBarrel b f).sco = d.sco := rfl
@[simp] theorem Dev.onBarrel_raised (b : Nat) (f : Barrel → Barrel) : (d.onBarrel b f).raised = d.raised := rfl
@[simp] theorem Dev.onBarrel_host (b : Nat) (f : Barrel → Barrel) : (d.onBarrel b f).host = d.host := rfl
@[simp] theorem Dev.onBarrel_freeCtr (b : Nat) (f : Barrel → Barrel) : (d.onBarrel b f).freeCtr = d.freeCtr := rfl
@[simp] theorem Dev.onCel_glb (f : Cel → Cel) : (d.onCel f).glb = d.glb := rfl
@[simp] theorem Dev.onCel_rel (f : Cel → Cel) : (d.onCel f).rel = d.rel := rfl
@[simp] theorem Dev.onCel_hlk (f : Cel → Cel) : (d.onCel f).hlk = d.hlk := rfl
@[simp] theorem Dev.onCel_stk (f : Cel → Cel) : (d.onCel f).stk = d.stk := rfl
@[simp] theorem Dev.onCel_spa (f : Cel → Cel) : (d.onCel f).spa = d.spa := rfl
@[simp] theorem Dev.onCel_insts (f : Cel → Cel) : (d.onCel f).insts = d.insts := rfl
@[simp] theorem Dev.onCel_mov (f : Cel → Cel) : (d.onCel f).mov = d.mov := rfl
@[simp] theorem Dev.onCel_barrels (f : Cel → Cel) : (d.onCel f).barrels = d.barrels := rfl
@[simp] theorem Dev.onCel_tim (f : Cel → Cel) : (d.onCel f).tim = d.tim := rfl
@[simp] theorem Dev.onCel_atc (f : Cel → Cel) : (d.onCel f).atc = d.atc := rfl
@[simp] theorem Dev.onCel_mon (f : Cel → Cel) : (d.onCel f).mon = d.mon := rfl
@[simp] theorem Dev.onCel_hkc (f : Cel → Cel) : (d.onCel f).hkc = d.hkc := rfl
@[simp] theorem Dev.onCel_units (f : Cel → Cel) : (d.onCel f).units = d.units := rfl
@[simp] theorem Dev.onCel_ing (f : Cel → Cel) : (d.onCel f).ing = d.ing := rfl
@[simp] theorem Dev.onCel_chn (f : Cel → Cel) : (d.onCel f).chn = d.chn := rfl
@[simp] theorem Dev.onCel_spe (f : Cel → Cel) : (d.onCel f).spe = d.spe := rfl
@[simp] theorem Dev.onCel_xsp (f : Cel → Cel) : (d.onCel f).xsp = d.xsp := rfl
@[simp] theorem Dev.onCel_trg (f : Cel → Cel) : (d.onCel f).trg = d.trg := rfl
@[simp] theorem Dev.onCel_instr (f : Cel → Cel) : (d.onCel f).instr = d.instr := rfl
@[simp] theorem Dev.onCel_den (f : Cel → Cel) : (d.onCel f).den = d.den := rfl
@[simp] theorem Dev.onCel_sco (f : Cel → Cel) : (d.onCel f).sco = d.sco := rfl
@[simp] theorem Dev.onCel_raised (f : Cel → Cel) : (d.onCel f).raised = d.raised := rfl
@[simp] theorem Dev.onCel_host (f : Cel → Cel) : (d.onCel f).host = d.host := rfl
@[simp] theorem Dev.onCel_freeCtr (f : Cel → Cel) : (d.onCel f).freeCtr = d.freeCtr := rfl
@[simp] theorem Dev.onChain_glb (m : Nat) (f : Chain → Chain) : (d.onChain m f).glb = d.glb := rfl
@[simp] theorem Dev.onChain_rel (m : Nat) (f : Chain → Chain) : (d.onChain m f).rel = d.rel := rfl
@[simp] theorem Dev.onChain_hlk (m : Nat) (f : Chain → Chain) : (d.onChain m f).hlk = d.hlk := rfl
@[simp] theorem Dev.onChain_stk (m : Nat) (f : Chain → Chain) : (d.onChain m f).stk = d.stk := rfl
@[simp] theorem Dev.onChain_spa (m : Nat) (f : Chain → Chain) : (d.onChain m f).spa = d.spa := rfl
@[simp] theorem Dev.onChain_insts (m : Nat) (f : Chain → Chain) : (d.onChain m f).insts = d.insts := rfl
@[simp] theorem Dev.onChain_barrels (m : Nat) (f : Chain → Chain) : (d.onChain m f).barrels = d.barrels := rfl
@[simp] theorem Dev.onChain_tim (m : Nat) (f : Chain → Chain) : (d.onChain m f).tim = d.tim := rfl
@[simp] theorem Dev.onChain_atc (m : Nat) (f : Chain → Chain) : (d.onChain m f).atc = d.atc := rfl
@[simp] theorem Dev.onChain_cel (m : Nat) (f : Chain → Chain) : (d.onChain m f).cel = d.cel := rfl
@[simp] theorem Dev.onChain_mon (m : Nat) (f : Chain → Chain) : (d.onChain m f).mon = d.mon := rfl
@[simp] theorem Dev.onChain_hkc (m : Nat) (f : Chain → Chain) : (d.onChain m f).hkc = d.hkc := rfl
@[simp] theorem Dev.onChain_units (m : Nat) (f : Chain → Chain) : (d.onChain m f).units = d.units := rfl
@[simp] theorem Dev.onChain_ing (m : Nat) (f : Chain → Chain) : (d.onChain m f).ing = d.ing := rfl
@[simp] theorem Dev.onChain_chn (m : Nat) (f : Chain → Chain) : (d.onChain m f).chn = d.chn := rfl
@[simp] theorem Dev.onChain_spe (m : Nat) (f : Chain → Chain) : (d.onChain m f).spe = d.spe := rfl
@[simp] theorem Dev.onChain_xsp (m : Nat) (f : Chain → Chain) : (d.onChain m f).xsp = d.xsp := rfl
@[simp] theorem Dev.onChain_trg (m : Nat) (f : Chain → Chain) : (d.onChain m f).trg = d.trg := rfl
@[simp] theorem Dev.onChain_instr (m : Nat) (f : Chain → Chain) : (d.onChain m f).instr = d.instr := rfl
@[simp] theorem Dev.onChain_den (m : Nat) (f : Chain → Chain) : (d.onChain m f).den = d.den := rfl
@[simp] theorem Dev.onChain_sco (m : Nat) (f : Chain → Chain) : (d.onChain m f).sco = d.sco := rfl
@[simp] theorem Dev.onChain_raised (m : Nat) (f : Chain → Chain) : (d.onChain m f).raised = d.raised := rfl
@[simp] theorem Dev.onChain_host (m : Nat) (f : Chain → Chain) : (d.onChain m f).host = d.host := rfl
@[simp] theorem Dev.onChain_freeCtr (m : Nat) (f : Chain → Chain) : (d.onChain m f).freeCtr = d.freeCtr := rfl
@[simp] theorem Dev.onChan_glb (p : Nat) (f : Chn → Chn) : (d.onChan p f).glb = d.glb := rfl
@[simp] theorem Dev.onChan_rel (p : Nat) (f : Chn → Chn) : (d.onChan p f).rel = d.rel := rfl
@[simp] theorem Dev.onChan_hlk (p : Nat) (f : Chn → Chn) : (d.onChan p f).hlk = d.hlk := rfl
@[simp] theorem Dev.onChan_stk (p : Nat) (f : Chn → Chn) : (d.onChan p f).stk = d.stk := rfl
@[simp] theorem Dev.onChan_spa (p : Nat) (f : Chn → Chn) : (d.onChan p f).spa = d.spa := rfl
@[simp] theorem Dev.onChan_insts (p : Nat) (f : Chn → Chn) : (d.onChan p f).insts = d.insts := rfl
@[simp] theorem Dev.onChan_mov (p : Nat) (f : Chn → Chn) : (d.onChan p f).mov = d.mov := rfl
@[simp] theorem Dev.onChan_barrels (p : Nat) (f : Chn → Chn) : (d.onChan p f).barrels = d.barrels := rfl
@[simp] theorem Dev.onChan_tim (p : Nat) (f : Chn → Chn) : (d.onChan p f).tim = d.tim := rfl
@[simp] theorem Dev.onChan_atc (p : Nat) (f : Chn → Chn) : (d.onChan p f).atc = d.atc := rfl
@[simp] theorem Dev.onChan_cel (p : Nat) (f : Chn → Chn) : (d.onChan p f).cel = d.cel := rfl
@[simp] theorem Dev.onChan_mon (p : Nat) (f : Chn → Chn) : (d.onChan p f).mon = d.mon := rfl
@[simp] theorem Dev.onChan_hkc (p : Nat) (f : Chn → Chn) : (d.onChan p f).hkc = d.hkc := rfl
@[simp] theorem Dev.onChan_units (p : Nat) (f : Chn → Chn) : (d.onChan p f).units = d.units := rfl
@[simp] theorem Dev.onChan_ing (p : Nat) (f : Chn → Chn) : (d.onChan p f).ing = d.ing := rfl
@[simp] theorem Dev.onChan_spe (p : Nat) (f : Chn → Chn) : (d.onChan p f).spe = d.spe := rfl
@[simp] theorem Dev.onChan_xsp (p : Nat) (f : Chn → Chn) : (d.onChan p f).xsp = d.xsp := rfl
@[simp] theorem Dev.onChan_trg (p : Nat) (f : Chn → Chn) : (d.onChan p f).trg = d.trg := rfl
@[simp] theorem Dev.onChan_instr (p : Nat) (f : Chn → Chn) : (d.onChan p f).instr = d.instr := rfl
@[simp] theorem Dev.onChan_den (p : Nat) (f : Chn → Chn) : (d.onChan p f).den = d.den := rfl
@[simp] theorem Dev.onChan_sco (p : Nat) (f : Chn → Chn) : (d.onChan p f).sco = d.sco := rfl
@[simp] theorem Dev.onChan_raised (p : Nat) (f : Chn → Chn) : (d.onChan p f).raised = d.raised := rfl
@[simp] theorem Dev.onChan_host (p : Nat) (f : Chn → Chn) : (d.onChan p f).host = d.host := rfl
@[simp] theorem Dev.onChan_freeCtr (p : Nat) (f : Chn → Chn) : (d.onChan p f).freeCtr = d.freeCtr := rfl
@[simp] theorem Dev.onCmp_glb (k : Nat) (f : MonCmp → MonCmp) : (d.onCmp k f).glb = d.glb := rfl
@[simp] theorem Dev.onCmp_rel (k : Nat) (f : MonCmp → MonCmp) : (d.onCmp k f).rel = d.rel := rfl
@[simp] theorem Dev.onCmp_hlk (k : Nat) (f : MonCmp → MonCmp) : (d.onCmp k f).hlk = d.hlk := rfl
@[simp] theorem Dev.onCmp_stk (k : Nat) (f : MonCmp → MonCmp) : (d.onCmp k f).stk = d.stk := rfl
@[simp] theorem Dev.onCmp_spa (k : Nat) (f : MonCmp → MonCmp) : (d.onCmp k f).spa = d.spa := rfl
@[simp] theorem Dev.onCmp_insts (k : Nat) (f : MonCmp → MonCmp) : (d.onCmp k f).insts = d.insts := rfl
@[simp] theorem Dev.onCmp_mov (k : Nat) (f : MonCmp → MonCmp) : (d.onCmp k f).mov = d.mov := rfl
@[simp] theorem Dev.onCmp_barrels (k : Nat) (f : MonCmp → MonCmp) : (d.onCmp k f).barrels = d.barrels := rfl
@[simp] theorem Dev.onCmp_tim (k : Nat) (f : MonCmp → MonCmp) : (d.onCmp k f).tim = d.tim := rfl
@[simp] theorem Dev.onCmp_atc (k : Nat) (f : MonCmp → MonCmp) : (d.onCmp k f).atc = d.atc := rfl
@[simp] theorem Dev.onCmp_cel (k : Nat) (f : MonCmp → MonCmp) : (d.onCmp k f).cel = d.cel := rfl
@[simp] theorem Dev.onCmp_hkc (k : Nat) (f : MonCmp → MonCmp) : (d.onCmp k f).hkc = d.hkc := rfl
@[simp] theorem Dev.onCmp_units (k : Nat) (f : MonCmp → MonCmp) : (d.onCmp k f).units = d.units := rfl
@[simp] theorem Dev.onCmp_ing (k : Nat) (f : MonCmp → MonCmp) : (d.onCmp k f).ing = d.ing := rfl
@[simp] theorem Dev.onCmp_chn (k : Nat) (f : MonCmp → MonCmp) : (d.onCmp k f).chn = d.chn := rfl
@[simp] theorem Dev.onCmp_spe (k : Nat) (f : MonCmp → MonCmp) : (d.onCmp k f).spe = d.spe := rfl
@[simp] theorem Dev.onCmp_xsp (k : Nat) (f : MonCmp → MonCmp) : (d.onCmp k f).xsp = d.xsp := rfl
@[simp] theorem Dev.onCmp_trg (k : Nat) (f : MonCmp → MonCmp) : (d.onCmp k f).trg = d.trg := rfl
@[simp] theorem Dev.onCmp_instr (k : Nat) (f : MonCmp → MonCmp) : (d.onCmp k f).instr = d.instr := rfl
@[simp] theorem Dev.onCmp_den (k : Nat) (f : MonCmp → MonCmp) : (d.onCmp k f).den = d.den := rfl
@[simp] theorem Dev.onCmp_sco (k : Nat) (f : MonCmp → MonCmp) : (d.onCmp k f).sco = d.sco := rfl
@[simp] theorem Dev.onCmp_raised (k : Nat) (f : MonCmp → MonCmp) : (d.onCmp k f).raised = d.raised := rfl
@[simp] theorem Dev.onCmp_host (k : Nat) (f : MonCmp → MonCmp) : (d.onCmp k f).host = d.host := rfl
@[simp] theorem Dev.onCmp_freeCtr (k : Nat) (f : MonCmp → MonCmp) : (d.onCmp k f).freeCtr = d.freeCtr := rfl
@[simp] theorem Dev.onDen_glb (p : Nat) (f : Den → Den) : (d.onDen p f).glb = d.glb := rfl
@[simp] theorem Dev.onDen_rel (p : Nat) (f : Den → Den) : (d.onDen p f).rel = d.rel := rfl
@[simp] theorem Dev.onDen_hlk (p : Nat) (f : Den → Den) : (d.onDen p f).hlk = d.hlk := rfl
@[simp] theorem Dev.onDen_stk (p : Nat) (f : Den → Den) : (d.onDen p f).stk = d.stk := rfl
@[simp] theorem Dev.onDen_spa (p : Nat) (f : Den → Den) : (d.onDen p f).spa = d.spa := rfl
@[simp] theorem Dev.onDen_insts (p : Nat) (f : Den → Den) : (d.onDen p f).insts = d.insts := rfl
@[simp] theorem Dev.onDen_mov (p : Nat) (f : Den → Den) : (d.onDen p f).mov = d.mov := rfl
@[simp] theorem Dev.onDen_barrels (p : Nat) (f : Den → Den) : (d.onDen p f).barrels = d.barrels := rfl
@[simp] theorem Dev.onDen_tim (p : Nat) (f : Den → Den) : (d.onDen p f).tim = d.tim := rfl
@[simp] theorem Dev.onDen_atc (p : Nat) (f : Den → Den) : (d.onDen p f).atc = d.atc := rfl
@[simp] theorem Dev.onDen_cel (p : Nat) (f : Den → Den) : (d.onDen p f).cel = d.cel := rfl
@[simp] theorem Dev.onDen_mon (p : Nat) (f : Den → Den) : (d.onDen p f).mon = d.mon := rfl
@[simp] theorem Dev.onDen_hkc (p : Nat) (f : Den → Den) : (d.onDen p f).hkc = d.hkc := rfl
@[simp] theorem Dev.onDen_units (p : Nat) (f : Den → Den) : (d.onDen p f).units = d.units := rfl
@[simp] theorem Dev.onDen_ing (p : Nat) (f : Den → Den) : (d.onDen p f).ing = d.ing := rfl
@[simp] theorem Dev.onDen_chn (p : Nat) (f : Den → Den) : (d.onDen p f).chn = d.chn := rfl
@[simp] theorem Dev.onDen_spe (p : Nat) (f : Den → Den) : (d.onDen p f).spe = d.spe := rfl
@[simp] theorem Dev.onDen_xsp (p : Nat) (f : Den → Den) : (d.onDen p f).xsp = d.xsp := rfl
@[simp] theorem Dev.onDen_trg (p : Nat) (f : Den → Den) : (d.onDen p f).trg = d.trg := rfl
@[simp] theorem Dev.onDen_instr (p : Nat) (f : Den → Den) : (d.onDen p f).instr = d.instr := rfl
@[simp] theorem Dev.onDen_sco (p : Nat) (f : Den → Den) : (d.onDen p f).sco = d.sco := rfl
@[simp] theorem Dev.onDen_raised (p : Nat) (f : Den → Den) : (d.onDen p f).raised = d.raised := rfl
@[simp] theorem Dev.onDen_host (p : Nat) (f : Den → Den) : (d.onDen p f).host = d.host := rfl
@[simp] theorem Dev.onDen_freeCtr (p : Nat) (f : Den → Den) : (d.onDen p f).freeCtr = d.freeCtr := rfl
@[simp] theorem Dev.onEng_glb (p : Nat) (f : Spe → Spe) : (d.onEng p f).glb = d.glb := rfl
@[simp] theorem Dev.onEng_rel (p : Nat) (f : Spe → Spe) : (d.onEng p f).rel = d.rel := rfl
@[simp] theorem Dev.onEng_hlk (p : Nat) (f : Spe → Spe) : (d.onEng p f).hlk = d.hlk := rfl
@[simp] theorem Dev.onEng_stk (p : Nat) (f : Spe → Spe) : (d.onEng p f).stk = d.stk := rfl
@[simp] theorem Dev.onEng_spa (p : Nat) (f : Spe → Spe) : (d.onEng p f).spa = d.spa := rfl
@[simp] theorem Dev.onEng_insts (p : Nat) (f : Spe → Spe) : (d.onEng p f).insts = d.insts := rfl
@[simp] theorem Dev.onEng_mov (p : Nat) (f : Spe → Spe) : (d.onEng p f).mov = d.mov := rfl
@[simp] theorem Dev.onEng_barrels (p : Nat) (f : Spe → Spe) : (d.onEng p f).barrels = d.barrels := rfl
@[simp] theorem Dev.onEng_tim (p : Nat) (f : Spe → Spe) : (d.onEng p f).tim = d.tim := rfl
@[simp] theorem Dev.onEng_atc (p : Nat) (f : Spe → Spe) : (d.onEng p f).atc = d.atc := rfl
@[simp] theorem Dev.onEng_cel (p : Nat) (f : Spe → Spe) : (d.onEng p f).cel = d.cel := rfl
@[simp] theorem Dev.onEng_mon (p : Nat) (f : Spe → Spe) : (d.onEng p f).mon = d.mon := rfl
@[simp] theorem Dev.onEng_hkc (p : Nat) (f : Spe → Spe) : (d.onEng p f).hkc = d.hkc := rfl
@[simp] theorem Dev.onEng_units (p : Nat) (f : Spe → Spe) : (d.onEng p f).units = d.units := rfl
@[simp] theorem Dev.onEng_ing (p : Nat) (f : Spe → Spe) : (d.onEng p f).ing = d.ing := rfl
@[simp] theorem Dev.onEng_chn (p : Nat) (f : Spe → Spe) : (d.onEng p f).chn = d.chn := rfl
@[simp] theorem Dev.onEng_xsp (p : Nat) (f : Spe → Spe) : (d.onEng p f).xsp = d.xsp := rfl
@[simp] theorem Dev.onEng_trg (p : Nat) (f : Spe → Spe) : (d.onEng p f).trg = d.trg := rfl
@[simp] theorem Dev.onEng_instr (p : Nat) (f : Spe → Spe) : (d.onEng p f).instr = d.instr := rfl
@[simp] theorem Dev.onEng_den (p : Nat) (f : Spe → Spe) : (d.onEng p f).den = d.den := rfl
@[simp] theorem Dev.onEng_sco (p : Nat) (f : Spe → Spe) : (d.onEng p f).sco = d.sco := rfl
@[simp] theorem Dev.onEng_raised (p : Nat) (f : Spe → Spe) : (d.onEng p f).raised = d.raised := rfl
@[simp] theorem Dev.onEng_host (p : Nat) (f : Spe → Spe) : (d.onEng p f).host = d.host := rfl
@[simp] theorem Dev.onEng_freeCtr (p : Nat) (f : Spe → Spe) : (d.onEng p f).freeCtr = d.freeCtr := rfl
@[simp] theorem Dev.onHatch_glb (h : Nat) (f : Hatch → Hatch) : (d.onHatch h f).glb = d.glb := by unfold Dev.onHatch; split <;> rfl
@[simp] theorem Dev.onHatch_rel (h : Nat) (f : Hatch → Hatch) : (d.onHatch h f).rel = d.rel := by unfold Dev.onHatch; split <;> rfl
@[simp] theorem Dev.onHatch_stk (h : Nat) (f : Hatch → Hatch) : (d.onHatch h f).stk = d.stk := by unfold Dev.onHatch; split <;> rfl
@[simp] theorem Dev.onHatch_spa (h : Nat) (f : Hatch → Hatch) : (d.onHatch h f).spa = d.spa := by unfold Dev.onHatch; split <;> rfl
@[simp] theorem Dev.onHatch_insts (h : Nat) (f : Hatch → Hatch) : (d.onHatch h f).insts = d.insts := by unfold Dev.onHatch; split <;> rfl
@[simp] theorem Dev.onHatch_mov (h : Nat) (f : Hatch → Hatch) : (d.onHatch h f).mov = d.mov := by unfold Dev.onHatch; split <;> rfl
@[simp] theorem Dev.onHatch_barrels (h : Nat) (f : Hatch → Hatch) : (d.onHatch h f).barrels = d.barrels := by unfold Dev.onHatch; split <;> rfl
@[simp] theorem Dev.onHatch_tim (h : Nat) (f : Hatch → Hatch) : (d.onHatch h f).tim = d.tim := by unfold Dev.onHatch; split <;> rfl
@[simp] theorem Dev.onHatch_atc (h : Nat) (f : Hatch → Hatch) : (d.onHatch h f).atc = d.atc := by unfold Dev.onHatch; split <;> rfl
@[simp] theorem Dev.onHatch_cel (h : Nat) (f : Hatch → Hatch) : (d.onHatch h f).cel = d.cel := by unfold Dev.onHatch; split <;> rfl
@[simp] theorem Dev.onHatch_mon (h : Nat) (f : Hatch → Hatch) : (d.onHatch h f).mon = d.mon := by unfold Dev.onHatch; split <;> rfl
@[simp] theorem Dev.onHatch_hkc (h : Nat) (f : Hatch → Hatch) : (d.onHatch h f).hkc = d.hkc := by unfold Dev.onHatch; split <;> rfl
@[simp] theorem Dev.onHatch_units (h : Nat) (f : Hatch → Hatch) : (d.onHatch h f).units = d.units := by unfold Dev.onHatch; split <;> rfl
@[simp] theorem Dev.onHatch_ing (h : Nat) (f : Hatch → Hatch) : (d.onHatch h f).ing = d.ing := by unfold Dev.onHatch; split <;> rfl
@[simp] theorem Dev.onHatch_chn (h : Nat) (f : Hatch → Hatch) : (d.onHatch h f).chn = d.chn := by unfold Dev.onHatch; split <;> rfl
@[simp] theorem Dev.onHatch_spe (h : Nat) (f : Hatch → Hatch) : (d.onHatch h f).spe = d.spe := by unfold Dev.onHatch; split <;> rfl
@[simp] theorem Dev.onHatch_xsp (h : Nat) (f : Hatch → Hatch) : (d.onHatch h f).xsp = d.xsp := by unfold Dev.onHatch; split <;> rfl
@[simp] theorem Dev.onHatch_trg (h : Nat) (f : Hatch → Hatch) : (d.onHatch h f).trg = d.trg := by unfold Dev.onHatch; split <;> rfl
@[simp] theorem Dev.onHatch_instr (h : Nat) (f : Hatch → Hatch) : (d.onHatch h f).instr = d.instr := by unfold Dev.onHatch; split <;> rfl
@[simp] theorem Dev.onHatch_den (h : Nat) (f : Hatch → Hatch) : (d.onHatch h f).den = d.den := by unfold Dev.onHatch; split <;> rfl
@[simp] theorem Dev.onHatch_sco (h : Nat) (f : Hatch → Hatch) : (d.onHatch h f).sco = d.sco := by unfold Dev.onHatch; split <;> rfl
@[simp] theorem Dev.onHatch_raised (h : Nat) (f : Hatch → Hatch) : (d.onHatch h f).raised = d.raised := by unfold Dev.onHatch; split <;> rfl
@[simp] theorem Dev.onHatch_host (h : Nat) (f : Hatch → Hatch) : (d.onHatch h f).host = d.host := by unfold Dev.onHatch; split <;> rfl
@[simp] theorem Dev.onHatch_freeCtr (h : Nat) (f : Hatch → Hatch) : (d.onHatch h f).freeCtr = d.freeCtr := by unfold Dev.onHatch; split <;> rfl
@[simp] theorem Dev.onHkc_glb (f : Hkc → Hkc) : (d.onHkc f).glb = d.glb := rfl
@[simp] theorem Dev.onHkc_rel (f : Hkc → Hkc) : (d.onHkc f).rel = d.rel := rfl
@[simp] theorem Dev.onHkc_hlk (f : Hkc → Hkc) : (d.onHkc f).hlk = d.hlk := rfl
@[simp] theorem Dev.onHkc_stk (f : Hkc → Hkc) : (d.onHkc f).stk = d.stk := rfl
@[simp] theorem Dev.onHkc_spa (f : Hkc → Hkc) : (d.onHkc f).spa = d.spa := rfl
@[simp] theorem Dev.onHkc_insts (f : Hkc → Hkc) : (d.onHkc f).insts = d.insts := rfl
@[simp] theorem Dev.onHkc_mov (f : Hkc → Hkc) : (d.onHkc f).mov = d.mov := rfl
@[simp] theorem Dev.onHkc_barrels (f : Hkc → Hkc) : (d.onHkc f).barrels = d.barrels := rfl
@[simp] theorem Dev.onHkc_tim (f : Hkc → Hkc) : (d.onHkc f).tim = d.tim := rfl
@[simp] theorem Dev.onHkc_atc (f : Hkc → Hkc) : (d.onHkc f).atc = d.atc := rfl
@[simp] theorem Dev.onHkc_cel (f : Hkc → Hkc) : (d.onHkc f).cel = d.cel := rfl
@[simp] theorem Dev.onHkc_mon (f : Hkc → Hkc) : (d.onHkc f).mon = d.mon := rfl
@[simp] theorem Dev.onHkc_units (f : Hkc → Hkc) : (d.onHkc f).units = d.units := rfl
@[simp] theorem Dev.onHkc_ing (f : Hkc → Hkc) : (d.onHkc f).ing = d.ing := rfl
@[simp] theorem Dev.onHkc_chn (f : Hkc → Hkc) : (d.onHkc f).chn = d.chn := rfl
@[simp] theorem Dev.onHkc_spe (f : Hkc → Hkc) : (d.onHkc f).spe = d.spe := rfl
@[simp] theorem Dev.onHkc_xsp (f : Hkc → Hkc) : (d.onHkc f).xsp = d.xsp := rfl
@[simp] theorem Dev.onHkc_trg (f : Hkc → Hkc) : (d.onHkc f).trg = d.trg := rfl
@[simp] theorem Dev.onHkc_instr (f : Hkc → Hkc) : (d.onHkc f).instr = d.instr := rfl
@[simp] theorem Dev.onHkc_den (f : Hkc → Hkc) : (d.onHkc f).den = d.den := rfl
@[simp] theorem Dev.onHkc_sco (f : Hkc → Hkc) : (d.onHkc f).sco = d.sco := rfl
@[simp] theorem Dev.onHkc_raised (f : Hkc → Hkc) : (d.onHkc f).raised = d.raised := rfl
@[simp] theorem Dev.onHkc_host (f : Hkc → Hkc) : (d.onHkc f).host = d.host := rfl
@[simp] theorem Dev.onHkc_freeCtr (f : Hkc → Hkc) : (d.onHkc f).freeCtr = d.freeCtr := rfl
@[simp] theorem Dev.onInput_glb (i : Nat) (f : TsIn → TsIn) : (d.onInput i f).glb = d.glb := rfl
@[simp] theorem Dev.onInput_rel (i : Nat) (f : TsIn → TsIn) : (d.onInput i f).rel = d.rel := rfl
@[simp] theorem Dev.onInput_hlk (i : Nat) (f : TsIn → TsIn) : (d.onInput i f).hlk = d.hlk := rfl
@[simp] theorem Dev.onInput_stk (i : Nat) (f : TsIn → TsIn) : (d.onInput i f).stk = d.stk := rfl
@[simp] theorem Dev.onInput_spa (i : Nat) (f : TsIn → TsIn) : (d.onInput i f).spa = d.spa := rfl
@[simp] theorem Dev.onInput_insts (i : Nat) (f : TsIn → TsIn) : (d.onInput i f).insts = d.insts := rfl
@[simp] theorem Dev.onInput_mov (i : Nat) (f : TsIn → TsIn) : (d.onInput i f).mov = d.mov := rfl
@[simp] theorem Dev.onInput_barrels (i : Nat) (f : TsIn → TsIn) : (d.onInput i f).barrels = d.barrels := rfl
@[simp] theorem Dev.onInput_atc (i : Nat) (f : TsIn → TsIn) : (d.onInput i f).atc = d.atc := rfl
@[simp] theorem Dev.onInput_cel (i : Nat) (f : TsIn → TsIn) : (d.onInput i f).cel = d.cel := rfl
@[simp] theorem Dev.onInput_mon (i : Nat) (f : TsIn → TsIn) : (d.onInput i f).mon = d.mon := rfl
@[simp] theorem Dev.onInput_hkc (i : Nat) (f : TsIn → TsIn) : (d.onInput i f).hkc = d.hkc := rfl
@[simp] theorem Dev.onInput_units (i : Nat) (f : TsIn → TsIn) : (d.onInput i f).units = d.units := rfl
@[simp] theorem Dev.onInput_ing (i : Nat) (f : TsIn → TsIn) : (d.onInput i f).ing = d.ing := rfl
@[simp] theorem Dev.onInput_chn (i : Nat) (f : TsIn → TsIn) : (d.onInput i f).chn = d.chn := rfl
@[simp] theorem Dev.onInput_spe (i : Nat) (f : TsIn → TsIn) : (d.onInput i f).spe = d.spe := rfl
@[simp] theorem Dev.onInput_xsp (i : Nat) (f : TsIn → TsIn) : (d.onInput i f).xsp = d.xsp := rfl
@[simp] theorem Dev.onInput_trg (i : Nat) (f : TsIn → TsIn) : (d.onInput i f).trg = d.trg := rfl
@[simp] theorem Dev.onInput_instr (i : Nat) (f : TsIn → TsIn) : (d.onInput i f).instr = d.instr := rfl
@[simp] theorem Dev.onInput_den (i : Nat) (f : TsIn → TsIn) : (d.onInput i f).den = d.den := rfl
@[simp] theorem Dev.onInput_sco (i : Nat) (f : TsIn → TsIn) : (d.onInput i f).sco = d.sco := rfl
@[simp] theorem Dev.onInput_raised (i : Nat) (f : TsIn → TsIn) : (d.onInput i f).raised = d.raised := rfl
@[simp] theorem Dev.onInput_host (i : Nat) (f : TsIn → TsIn) : (d.onInput i f).host = d.host := rfl
@[simp] theorem Dev.onInput_freeCtr (i : Nat) (f : TsIn → TsIn) : (d.onInput i f).freeCtr = d.freeCtr := rfl
@[simp] theorem Dev.onInst_glb (key : Nat) (f : Inst → Inst) : (d.onInst key f).glb = d.glb := by unfold Dev.onInst; split <;> rfl
@[simp] theorem Dev.onInst_rel (key : Nat) (f : Inst → Inst) : (d.onInst key f).rel = d.rel := by unfold Dev.onInst; split <;> rfl
@[simp] theorem Dev.onInst_hlk (key : Nat) (f : Inst → Inst) : (d.onInst key f).hlk = d.hlk := by unfold Dev.onInst; split <;> rfl
@[simp] theorem Dev.onInst_stk (key : Nat) (f : Inst → Inst) : (d.onInst key f).stk = d.stk := by unfold Dev.onInst; split <;> rfl
@[simp] theorem Dev.onInst_spa (key : Nat) (f : Inst → Inst) : (d.onInst key f).spa = d.spa := by unfold Dev.onInst; split <;> rfl
@[simp] theorem Dev.onInst_mov (key : Nat) (f : Inst → Inst) : (d.onInst key f).mov = d.mov := by unfold Dev.onInst; split <;> rfl
@[simp] theorem Dev.onInst_barrels (key : Nat) (f : Inst → Inst) : (d.onInst key f).barrels = d.barrels := by unfold Dev.onInst; split <;> rfl
@[simp] theorem Dev.onInst_tim (key : Nat) (f : Inst → Inst) : (d.onInst key f).tim = d.tim := by unfold Dev.onInst; split <;> rfl
@[simp] theorem Dev.onInst_atc (key : Nat) (f : Inst → Inst) : (d.onInst key f).atc = d.atc := by unfold Dev.onInst; split <;> rfl
@[simp] theorem Dev.onInst_cel (key : Nat) (f : Inst → Inst) : (d.onInst key f).cel = d.cel := by unfold Dev.onInst; split <;> rfl
@[simp] theorem Dev.onInst_mon (key : Nat) (f : Inst → Inst) : (d.onInst key f).mon = d.mon := by unfold Dev.onInst; split <;> rfl
@[simp] theorem Dev.onInst_hkc (key : Nat) (f : Inst → Inst) : (d.onInst key f).hkc = d.hkc := by unfold Dev.onInst; split <;> rfl
@[simp] theorem Dev.onInst_units (key : Nat) (f : Inst → Inst) : (d.onInst key f).units = d.units := by unfold Dev.onInst; split <;> rfl
@[simp] theorem Dev.onInst_ing (key : Nat) (f : Inst → Inst) : (d.onInst key f).ing = d.ing := by unfold Dev.onInst; split <;> rfl
@[simp] theorem Dev.onInst_chn (key : Nat) (f : Inst → Inst) : (d.onInst key f).chn = d.chn := by unfold Dev.onInst; split <;> rfl
@[simp] theorem Dev.onInst_spe (key : Nat) (f : Inst → Inst) : (d.onInst key f).spe = d.spe := by unfold Dev.onInst; split <;> rfl
@[simp] theorem Dev.onInst_xsp (key : Nat) (f : Inst → Inst) : (d.onInst key f).xsp = d.xsp := by unfold Dev.onInst; split <;> rfl
@[simp] theorem Dev.onInst_trg (key : Nat) (f : Inst → Inst) : (d.onInst key f).trg = d.trg := by unfold Dev.onInst; split <;> rfl
@[simp] theorem Dev.onInst_instr (key : Nat) (f : Inst → Inst) : (d.onInst key f).instr = d.instr := by unfold Dev.onInst; split <;> rfl
@[simp] theorem Dev.onInst_den (key : Nat) (f : Inst → Inst) : (d.onInst key f).den = d.den := by unfold Dev.onInst; split <;> rfl
@[simp] theorem Dev.onInst_sco (key : Nat) (f : Inst → Inst) : (d.onInst key f).sco = d.sco := by unfold Dev.onInst; split <;> rfl
@[simp] theorem Dev.onInst_raised (key : Nat) (f : Inst → Inst) : (d.onInst key f).raised = d.raised := by unfold Dev.onInst; split <;> rfl
@[simp] theorem Dev.onInst_host (key : Nat) (f : Inst → Inst) : (d.onInst key f).host = d.host := by unfold Dev.onInst; split <;> rfl
@[simp] theorem Dev.onInst_freeCtr (key : Nat) (f : Inst → Inst) : (d.onInst key f).freeCtr = d.freeCtr := by unfold Dev.onInst; split <;> rfl
@[simp] theorem Dev.onLayer_glb (l : Nat) (f : ScoLayer → ScoLayer) : (d.onLayer l f).glb = d.glb := rfl
@[simp] theorem Dev.onLayer_rel (l : Nat) (f : ScoLayer → ScoLayer) : (d.onLayer l f).rel = d.rel := rfl
@[simp] theorem Dev.onLayer_hlk (l : Nat) (f : ScoLayer → ScoLayer) : (d.onLayer l f).hlk = d.hlk := rfl
@[simp] theorem Dev.onLayer_stk (l : Nat) (f : ScoLayer → ScoLayer) : (d.onLayer l f).stk = d.stk := rfl
@[simp] theorem Dev.onLayer_spa (l : Nat) (f : ScoLayer → ScoLayer) : (d.onLayer l f).spa = d.spa := rfl
@[simp] theorem Dev.onLayer_insts (l : Nat) (f : ScoLayer → ScoLayer) : (d.onLayer l f).insts = d.insts := rfl
@[simp] theorem Dev.onLayer_mov (l : Nat) (f : ScoLayer → ScoLayer) : (d.onLayer l f).mov = d.mov := rfl
@[simp] theorem Dev.onLayer_barrels (l : Nat) (f : ScoLayer → ScoLayer) : (d.onLayer l f).barrels = d.barrels := rfl
@[simp] theorem Dev.onLayer_tim (l : Nat) (f : ScoLayer → ScoLayer) : (d.onLayer l f).tim = d.tim := rfl
@[simp] theorem Dev.onLayer_atc (l : Nat) (f : ScoLayer → ScoLayer) : (d.onLayer l f).atc = d.atc := rfl
@[simp] theorem Dev.onLayer_cel (l : Nat) (f : ScoLayer → ScoLayer) : (d.onLayer l f).cel = d.cel := rfl
@[simp] theorem Dev.onLayer_mon (l : Nat) (f : ScoLayer → ScoLayer) : (d.onLayer l f).mon = d.mon := rfl
@[simp] theorem Dev.onLayer_hkc (l : Nat) (f : ScoLayer → ScoLayer) : (d.onLayer l f).hkc = d.hkc := rfl
@[simp] theorem Dev.onLayer_units (l : Nat) (f : ScoLayer → ScoLayer) : (d.onLayer l f).units = d.units := rfl
@[simp] theorem Dev.onLayer_ing (l : Nat) (f : ScoLayer → ScoLayer) : (d.onLayer l f).ing = d.ing := rfl
@[simp] theorem Dev.onLayer_chn (l : Nat) (f : ScoLayer → ScoLayer) : (d.onLayer l f).chn = d.chn := rfl
@[simp] theorem Dev.onLayer_spe (l : Nat) (f : ScoLayer → ScoLayer) : (d.onLayer l f).spe = d.spe := rfl
@[simp] theorem Dev.onLayer_xsp (l : Nat) (f : ScoLayer → ScoLayer) : (d.onLayer l f).xsp = d.xsp := rfl
@[simp] theorem Dev.onLayer_trg (l : Nat) (f : ScoLayer → ScoLayer) : (d.onLayer l f).trg = d.trg := rfl
@[simp] theorem Dev.onLayer_instr (l : Nat) (f : ScoLayer → ScoLayer) : (d.onLayer l f).instr = d.instr := rfl
@[simp] theorem Dev.onLayer_den (l : Nat) (f : ScoLayer → ScoLayer) : (d.onLayer l f).den = d.den := rfl
@[simp] theorem Dev.onLayer_raised (l : Nat) (f : ScoLayer → ScoLayer) : (d.onLayer l f).raised = d.raised := rfl
@[simp] theorem Dev.onLayer_host (l : Nat) (f : ScoLayer → ScoLayer) : (d.onLayer l f).host = d.host := rfl
@[simp] theorem Dev.onLayer_freeCtr (l : Nat) (f : ScoLayer → ScoLayer) : (d.onLayer l f).freeCtr = d.freeCtr := rfl
@[simp] theorem Dev.onLive_glb (uid : Nat) (f : Live → Live) : (d.onLive uid f).glb = d.glb := rfl
@[simp] theorem Dev.onLive_rel (uid : Nat) (f : Live → Live) : (d.onLive uid f).rel = d.rel := rfl
@[simp] theorem Dev.onLive_stk (uid : Nat) (f : Live → Live) : (d.onLive uid f).stk = d.stk := rfl
@[simp] theorem Dev.onLive_spa (uid : Nat) (f : Live → Live) : (d.onLive uid f).spa = d.spa := rfl
@[simp] theorem Dev.onLive_insts (uid : Nat) (f : Live → Live) : (d.onLive uid f).insts = d.insts := rfl
@[simp] theorem Dev.onLive_mov (uid : Nat) (f : Live → Live) : (d.onLive uid f).mov = d.mov := rfl
@[simp] theorem Dev.onLive_barrels (uid : Nat) (f : Live → Live) : (d.onLive uid f).barrels = d.barrels := rfl
@[simp] theorem Dev.onLive_tim (uid : Nat) (f : Live → Live) : (d.onLive uid f).tim = d.tim := rfl
@[simp] theorem Dev.onLive_atc (uid : Nat) (f : Live → Live) : (d.onLive uid f).atc = d.atc := rfl
@[simp] theorem Dev.onLive_cel (uid : Nat) (f : Live → Live) : (d.onLive uid f).cel = d.cel := rfl
@[simp] theorem Dev.onLive_mon (uid : Nat) (f : Live → Live) : (d.onLive uid f).mon = d.mon := rfl
@[simp] theorem Dev.onLive_hkc (uid : Nat) (f : Live → Live) : (d.onLive uid f).hkc = d.hkc := rfl
@[simp] theorem Dev.onLive_units (uid : Nat) (f : Live → Live) : (d.onLive uid f).units = d.units := rfl
@[simp] theorem Dev.onLive_ing (uid : Nat) (f : Live → Live) : (d.onLive uid f).ing = d.ing := rfl
@[simp] theorem Dev.onLive_chn (uid : Nat) (f : Live → Live) : (d.onLive uid f).chn = d.chn := rfl
@[simp] theorem Dev.onLive_spe (uid : Nat) (f : Live → Live) : (d.onLive uid f).spe = d.spe := rfl
@[simp] theorem Dev.onLive_xsp (uid : Nat) (f : Live → Live) : (d.onLive uid f).xsp = d.xsp := rfl
@[simp] theorem Dev.onLive_trg (uid : Nat) (f : Live → Live) : (d.onLive uid f).trg = d.trg := rfl
@[simp] theorem Dev.onLive_instr (uid : Nat) (f : Live → Live) : (d.onLive uid f).instr = d.instr := rfl
@[simp] theorem Dev.onLive_den (uid : Nat) (f : Live → Live) : (d.onLive uid f).den = d.den := rfl
@[simp] theorem Dev.onLive_sco (uid : Nat) (f : Live → Live) : (d.onLive uid f).sco = d.sco := rfl
@[simp] theorem Dev.onLive_raised (uid : Nat) (f : Live → Live) : (d.onLive uid f).raised = d.raised := rfl
@[simp] theorem Dev.onLive_host (uid : Nat) (f : Live → Live) : (d.onLive uid f).host = d.host := rfl
@[simp] theorem Dev.onLive_freeCtr (uid : Nat) (f : Live → Live) : (d.onLive uid f).freeCtr = d.freeCtr := rfl
@[simp] theorem Dev.onMon_glb (f : Mon → Mon) : (d.onMon f).glb = d.glb := rfl
@[simp] theorem Dev.onMon_rel (f : Mon → Mon) : (d.onMon f).rel = d.rel := rfl
@[simp] theorem Dev.onMon_hlk (f : Mon → Mon) : (d.onMon f).hlk = d.hlk := rfl
@[simp] theorem Dev.onMon_stk (f : Mon → Mon) : (d.onMon f).stk = d.stk := rfl
@[simp] theorem Dev.onMon_spa (f : Mon → Mon) : (d.onMon f).spa = d.spa := rfl
@[simp] theorem Dev.onMon_insts (f : Mon → Mon) : (d.onMon f).insts = d.insts := rfl
@[simp] theorem Dev.onMon_mov (f : Mon → Mon) : (d.onMon f).mov = d.mov := rfl
@[simp] theorem Dev.onMon_barrels (f : Mon → Mon) : (d.onMon f).barrels = d.barrels := rfl
@[simp] theorem Dev.onMon_tim (f : Mon → Mon) : (d.onMon f).tim = d.tim := rfl
@[simp] theorem Dev.onMon_atc (f : Mon → Mon) : (d.onMon f).atc = d.atc := rfl
@[simp] theorem Dev.onMon_cel (f : Mon → Mon) : (d.onMon f).cel = d.cel := rfl
@[simp] theorem Dev.onMon_hkc (f : Mon → Mon) : (d.onMon f).hkc = d.hkc := rfl
@[simp] theorem Dev.onMon_units (f : Mon → Mon) : (d.onMon f).units = d.units := rfl
@[simp] theorem Dev.onMon_ing (f : Mon → Mon) : (d.onMon f).ing = d.ing := rfl
@[simp] theorem Dev.onMon_chn (f : Mon → Mon) : (d.onMon f).chn = d.chn := rfl
@[simp] theorem Dev.onMon_spe (f : Mon → Mon) : (d.onMon f).spe = d.spe := rfl
@[simp] theorem Dev.onMon_xsp (f : Mon → Mon) : (d.onMon f).xsp = d.xsp := rfl
@[simp] theorem Dev.onMon_trg (f : Mon → Mon) : (d.onMon f).trg = d.trg := rfl
@[simp] theorem Dev.onMon_instr (f : Mon → Mon) : (d.onMon f).instr = d.instr := rfl
@[simp] theorem Dev.onMon_den (f : Mon → Mon) : (d.onMon f).den = d.den := rfl
@[simp] theorem Dev.onMon_sco (f : Mon → Mon) : (d.onMon f).sco = d.sco := rfl
@[simp] theorem Dev.onMon_raised (f : Mon → Mon) : (d.onMon f).raised = d.raised := rfl
@[simp] theorem Dev.onMon_host (f : Mon → Mon) : (d.onMon f).host = d.host := rfl
@[simp] theorem Dev.onMon_freeCtr (f : Mon → Mon) : (d.onMon f).freeCtr = d.freeCtr := rfl
@[simp] theorem Dev.onMover_glb (m : Nat) (f : Mover → Mover) : (d.onMover m f).glb = d.glb := rfl
@[simp] theorem Dev.onMover_rel (m : Nat) (f : Mover → Mover) : (d.onMover m f).rel = d.rel := rfl
@[simp] theorem Dev.onMover_hlk (m : Nat) (f : Mover → Mover) : (d.onMover m f).hlk = d.hlk := rfl
@[simp] theorem Dev.onMover_stk (m : Nat) (f : Mover → Mover) : (d.onMover m f).stk = d.stk := rfl
@[simp] theorem Dev.onMover_spa (m : Nat) (f : Mover → Mover) : (d.onMover m f).spa = d.spa := rfl
@[simp] theorem Dev.onMover_insts (m : Nat) (f : Mover → Mover) : (d.onMover m f).insts = d.insts := rfl
@[simp] theorem Dev.onMover_barrels (m : Nat) (f : Mover → Mover) : (d.onMover m f).barrels = d.barrels := rfl
@[simp] theorem Dev.onMover_tim (m : Nat) (f : Mover → Mover) : (d.onMover m f).tim = d.tim := rfl
@[simp] theorem Dev.onMover_atc (m : Nat) (f : Mover → Mover) : (d.onMover m f).atc = d.atc := rfl
@[simp] theorem Dev.onMover_cel (m : Nat) (f : Mover → Mover) : (d.onMover m f).cel = d.cel := rfl
@[simp] theorem Dev.onMover_mon (m : Nat) (f : Mover → Mover) : (d.onMover m f).mon = d.mon := rfl
@[simp] theorem Dev.onMover_hkc (m : Nat) (f : Mover → Mover) : (d.onMover m f).hkc = d.hkc := rfl
@[simp] theorem Dev.onMover_units (m : Nat) (f : Mover → Mover) : (d.onMover m f).units = d.units := rfl
@[simp] theorem Dev.onMover_ing (m : Nat) (f : Mover → Mover) : (d.onMover m f).ing = d.ing := rfl
@[simp] theorem Dev.onMover_chn (m : Nat) (f : Mover → Mover) : (d.onMover m f).chn = d.chn := rfl
@[simp] theorem Dev.onMover_spe (m : Nat) (f : Mover → Mover) : (d.onMover m f).spe = d.spe := rfl
@[simp] theorem Dev.onMover_xsp (m : Nat) (f : Mover → Mover) : (d.onMover m f).xsp = d.xsp := rfl
@[simp] theorem Dev.onMover_trg (m : Nat) (f : Mover → Mover) : (d.onMover m f).trg = d.trg := rfl
@[simp] theorem Dev.onMover_instr (m : Nat) (f : Mover → Mover) : (d.onMover m f).instr = d.instr := rfl
@[simp] theorem Dev.onMover_den (m : Nat) (f : Mover → Mover) : (d.onMover m f).den = d.den := rfl
@[simp] theorem Dev.onMover_sco (m : Nat) (f : Mover → Mover) : (d.onMover m f).sco = d.sco := rfl
@[simp] theorem Dev.onMover_raised (m : Nat) (f : Mover → Mover) : (d.onMover m f).raised = d.raised := rfl
@[simp] theorem Dev.onMover_host (m : Nat) (f : Mover → Mover) : (d.onMover m f).host = d.host := rfl
@[simp] theorem Dev.onMover_freeCtr (m : Nat) (f : Mover → Mover) : (d.onMover m f).freeCtr = d.freeCtr := rfl
@[simp] theorem Dev.onOut_glb (o : Nat) (f : ScoOut → ScoOut) : (d.onOut o f).glb = d.glb := rfl
@[simp] theorem Dev.onOut_rel (o : Nat) (f : ScoOut → ScoOut) : (d.onOut o f).rel = d.rel := rfl
@[simp] theorem Dev.onOut_hlk (o : Nat) (f : ScoOut → ScoOut) : (d.onOut o f).hlk = d.hlk := rfl
@[simp] theorem Dev.onOut_stk (o : Nat) (f : ScoOut → ScoOut) : (d.onOut o f).stk = d.stk := rfl
@[simp] theorem Dev.onOut_spa (o : Nat) (f : ScoOut → ScoOut) : (d.onOut o f).spa = d.spa := rfl
@[simp] theorem Dev.onOut_insts (o : Nat) (f : ScoOut → ScoOut) : (d.onOut o f).insts = d.insts := rfl
@[simp] theorem Dev.onOut_mov (o : Nat) (f : ScoOut → ScoOut) : (d.onOut o f).mov = d.mov := rfl
@[simp] theorem Dev.onOut_barrels (o : Nat) (f : ScoOut → ScoOut) : (d.onOut o f).barrels = d.barrels := rfl
@[simp] theorem Dev.onOut_tim (o : Nat) (f : ScoOut → ScoOut) : (d.onOut o f).tim = d.tim := rfl
@[simp] theorem Dev.onOut_atc (o : Nat) (f : ScoOut → ScoOut) : (d.onOut o f).atc = d.atc := rfl
@[simp] theorem Dev.onOut_cel (o : Nat) (f : ScoOut → ScoOut) : (d.onOut o f).cel = d.cel := rfl
@[simp] theorem Dev.onOut_mon (o : Nat) (f : ScoOut → ScoOut) : (d.onOut o f).mon = d.mon := rfl
@[simp] theorem Dev.onOut_hkc (o : Nat) (f : ScoOut → ScoOut) : (d.onOut o f).hkc = d.hkc := rfl
@[simp] theorem Dev.onOut_units (o : Nat) (f : ScoOut → ScoOut) : (d.onOut o f).units = d.units := rfl
@[simp] theorem Dev.onOut_ing (o : Nat) (f : ScoOut → ScoOut) : (d.onOut o f).ing = d.ing := rfl
@[simp] theorem Dev.onOut_chn (o : Nat) (f : ScoOut → ScoOut) : (d.onOut o f).chn = d.chn := rfl
@[simp] theorem Dev.onOut_spe (o : Nat) (f : ScoOut → ScoOut) : (d.onOut o f).spe = d.spe := rfl
@[simp] theorem Dev.onOut_xsp (o : Nat) (f : ScoOut → ScoOut) : (d.onOut o f).xsp = d.xsp := rfl
@[simp] theorem Dev.onOut_trg (o : Nat) (f : ScoOut → ScoOut) : (d.onOut o f).trg = d.trg := rfl
@[simp] theorem Dev.onOut_instr (o : Nat) (f : ScoOut → ScoOut) : (d.onOut o f).instr = d.instr := rfl
@[simp] theorem Dev.onOut_den (o : Nat) (f : ScoOut → ScoOut) : (d.onOut o f).den = d.den := rfl
@[simp] theorem Dev.onOut_raised (o : Nat) (f : ScoOut → ScoOut) : (d.onOut o f).raised = d.raised := rfl
@[simp] theorem Dev.onOut_host (o : Nat) (f : ScoOut → ScoOut) : (d.onOut o f).host = d.host := rfl
@[simp] theorem Dev.onOut_freeCtr (o : Nat) (f : ScoOut → ScoOut) : (d.onOut o f).freeCtr = d.freeCtr := rfl
@[simp] theorem Dev.onPc_glb (p : Nat) (f : CelPc → CelPc) : (d.onPc p f).glb = d.glb := rfl
@[simp] theorem Dev.onPc_rel (p : Nat) (f : CelPc → CelPc) : (d.onPc p f).rel = d.rel := rfl
@[simp] theorem Dev.onPc_hlk (p : Nat) (f : CelPc → CelPc) : (d.onPc p f).hlk = d.hlk := rfl
@[simp] theorem Dev.onPc_stk (p : Nat) (f : CelPc → CelPc) : (d.onPc p f).stk = d.stk := rfl
@[simp] theorem Dev.onPc_spa (p : Nat) (f : CelPc → CelPc) : (d.onPc p f).spa = d.spa := rfl
@[simp] theorem Dev.onPc_insts (p : Nat) (f : CelPc → CelPc) : (d.onPc p f).insts = d.insts := rfl
@[simp] theorem Dev.onPc_mov (p : Nat) (f : CelPc → CelPc) : (d.onPc p f).mov = d.mov := rfl
@[simp] theorem Dev.onPc_barrels (p : Nat) (f : CelPc → CelPc) : (d.onPc p f).barrels = d.barrels := rfl
@[simp] theorem Dev.onPc_tim (p : Nat) (f : CelPc → CelPc) : (d.onPc p f).tim = d.tim := rfl
@[simp] theorem Dev.onPc_atc (p : Nat) (f : CelPc → CelPc) : (d.onPc p f).atc = d.atc := rfl
@[simp] theorem Dev.onPc_mon (p : Nat) (f : CelPc → CelPc) : (d.onPc p f).mon = d.mon := rfl
@[simp] theorem Dev.onPc_hkc (p : Nat) (f : CelPc → CelPc) : (d.onPc p f).hkc = d.hkc := rfl
@[simp] theorem Dev.onPc_units (p : Nat) (f : CelPc → CelPc) : (d.onPc p f).units = d.units := rfl
@[simp] theorem Dev.onPc_ing (p : Nat) (f : CelPc → CelPc) : (d.onPc p f).ing = d.ing := rfl
@[simp] theorem Dev.onPc_chn (p : Nat) (f : CelPc → CelPc) : (d.onPc p f).chn = d.chn := rfl
@[simp] theorem Dev.onPc_spe (p : Nat) (f : CelPc → CelPc) : (d.onPc p f).spe = d.spe := rfl
@[simp] theorem Dev.onPc_xsp (p : Nat) (f : CelPc → CelPc) : (d.onPc p f).xsp = d.xsp := rfl
@[simp] theorem Dev.onPc_trg (p : Nat) (f : CelPc → CelPc) : (d.onPc p f).trg = d.trg := rfl
@[simp] theorem Dev.onPc_instr (p : Nat) (f : CelPc → CelPc) : (d.onPc p f).instr = d.instr := rfl
@[simp] theorem Dev.onPc_den (p : Nat) (f : CelPc → CelPc) : (d.onPc p f).den = d.den := rfl
@[simp] theorem Dev.onPc_sco (p : Nat) (f : CelPc → CelPc) : (d.onPc p f).sco = d.sco := rfl
@[simp] theorem Dev.onPc_raised (p : Nat) (f : CelPc → CelPc) : (d.onPc p f).raised = d.raised := rfl
@[simp] theorem Dev.onPc_host (p : Nat) (f : CelPc → CelPc) : (d.onPc p f).host = d.host := rfl
@[simp] theorem Dev.onPc_freeCtr (p : Nat) (f : CelPc → CelPc) : (d.onPc p f).freeCtr = d.freeCtr := rfl
@[simp] theorem Dev.onPlane_glb (p i : Nat) (f : DenPlane → DenPlane) : (d.onPlane p i f).glb = d.glb := rfl
@[simp] theorem Dev.onPlane_rel (p i : Nat) (f : DenPlane → DenPlane) : (d.onPlane p i f).rel = d.rel := rfl
@[simp] theorem Dev.onPlane_hlk (p i : Nat) (f : DenPlane → DenPlane) : (d.onPlane p i f).hlk = d.hlk := rfl
@[simp] theorem Dev.onPlane_stk (p i : Nat) (f : DenPlane → DenPlane) : (d.onPlane p i f).stk = d.stk := rfl
@[simp] theorem Dev.onPlane_spa (p i : Nat) (f : DenPlane → DenPlane) : (d.onPlane p i f).spa = d.spa := rfl
@[simp] theorem Dev.onPlane_insts (p i : Nat) (f : DenPlane → DenPlane) : (d.onPlane p i f).insts = d.insts := rfl
@[simp] theorem Dev.onPlane_mov (p i : Nat) (f : DenPlane → DenPlane) : (d.onPlane p i f).mov = d.mov := rfl
@[simp] theorem Dev.onPlane_barrels (p i : Nat) (f : DenPlane → DenPlane) : (d.onPlane p i f).barrels = d.barrels := rfl
@[simp] theorem Dev.onPlane_tim (p i : Nat) (f : DenPlane → DenPlane) : (d.onPlane p i f).tim = d.tim := rfl
@[simp] theorem Dev.onPlane_atc (p i : Nat) (f : DenPlane → DenPlane) : (d.onPlane p i f).atc = d.atc := rfl
@[simp] theorem Dev.onPlane_cel (p i : Nat) (f : DenPlane → DenPlane) : (d.onPlane p i f).cel = d.cel := rfl
@[simp] theorem Dev.onPlane_mon (p i : Nat) (f : DenPlane → DenPlane) : (d.onPlane p i f).mon = d.mon := rfl
@[simp] theorem Dev.onPlane_hkc (p i : Nat) (f : DenPlane → DenPlane) : (d.onPlane p i f).hkc = d.hkc := rfl
@[simp] theorem Dev.onPlane_units (p i : Nat) (f : DenPlane → DenPlane) : (d.onPlane p i f).units = d.units := rfl
@[simp] theorem Dev.onPlane_ing (p i : Nat) (f : DenPlane → DenPlane) : (d.onPlane p i f).ing = d.ing := rfl
@[simp] theorem Dev.onPlane_chn (p i : Nat) (f : DenPlane → DenPlane) : (d.onPlane p i f).chn = d.chn := rfl
@[simp] theorem Dev.onPlane_spe (p i : Nat) (f : DenPlane → DenPlane) : (d.onPlane p i f).spe = d.spe := rfl
@[simp] theorem Dev.onPlane_xsp (p i : Nat) (f : DenPlane → DenPlane) : (d.onPlane p i f).xsp = d.xsp := rfl
@[simp] theorem Dev.onPlane_trg (p i : Nat) (f : DenPlane → DenPlane) : (d.onPlane p i f).trg = d.trg := rfl
@[simp] theorem Dev.onPlane_instr (p i : Nat) (f : DenPlane → DenPlane) : (d.onPlane p i f).instr = d.instr := rfl
@[simp] theorem Dev.onPlane_sco (p i : Nat) (f : DenPlane → DenPlane) : (d.onPlane p i f).sco = d.sco := rfl
@[simp] theorem Dev.onPlane_raised (p i : Nat) (f : DenPlane → DenPlane) : (d.onPlane p i f).raised = d.raised := rfl
@[simp] theorem Dev.onPlane_host (p i : Nat) (f : DenPlane → DenPlane) : (d.onPlane p i f).host = d.host := rfl
@[simp] theorem Dev.onPlane_freeCtr (p i : Nat) (f : DenPlane → DenPlane) : (d.onPlane p i f).freeCtr = d.freeCtr := rfl
@[simp] theorem Dev.onPort_glb (p : Nat) (f : Ing → Ing) : (d.onPort p f).glb = d.glb := rfl
@[simp] theorem Dev.onPort_rel (p : Nat) (f : Ing → Ing) : (d.onPort p f).rel = d.rel := rfl
@[simp] theorem Dev.onPort_hlk (p : Nat) (f : Ing → Ing) : (d.onPort p f).hlk = d.hlk := rfl
@[simp] theorem Dev.onPort_stk (p : Nat) (f : Ing → Ing) : (d.onPort p f).stk = d.stk := rfl
@[simp] theorem Dev.onPort_spa (p : Nat) (f : Ing → Ing) : (d.onPort p f).spa = d.spa := rfl
@[simp] theorem Dev.onPort_insts (p : Nat) (f : Ing → Ing) : (d.onPort p f).insts = d.insts := rfl
@[simp] theorem Dev.onPort_mov (p : Nat) (f : Ing → Ing) : (d.onPort p f).mov = d.mov := rfl
@[simp] theorem Dev.onPort_barrels (p : Nat) (f : Ing → Ing) : (d.onPort p f).barrels = d.barrels := rfl
@[simp] theorem Dev.onPort_tim (p : Nat) (f : Ing → Ing) : (d.onPort p f).tim = d.tim := rfl
@[simp] theorem Dev.onPort_atc (p : Nat) (f : Ing → Ing) : (d.onPort p f).atc = d.atc := rfl
@[simp] theorem Dev.onPort_cel (p : Nat) (f : Ing → Ing) : (d.onPort p f).cel = d.cel := rfl
@[simp] theorem Dev.onPort_mon (p : Nat) (f : Ing → Ing) : (d.onPort p f).mon = d.mon := rfl
@[simp] theorem Dev.onPort_hkc (p : Nat) (f : Ing → Ing) : (d.onPort p f).hkc = d.hkc := rfl
@[simp] theorem Dev.onPort_units (p : Nat) (f : Ing → Ing) : (d.onPort p f).units = d.units := rfl
@[simp] theorem Dev.onPort_chn (p : Nat) (f : Ing → Ing) : (d.onPort p f).chn = d.chn := rfl
@[simp] theorem Dev.onPort_spe (p : Nat) (f : Ing → Ing) : (d.onPort p f).spe = d.spe := rfl
@[simp] theorem Dev.onPort_xsp (p : Nat) (f : Ing → Ing) : (d.onPort p f).xsp = d.xsp := rfl
@[simp] theorem Dev.onPort_trg (p : Nat) (f : Ing → Ing) : (d.onPort p f).trg = d.trg := rfl
@[simp] theorem Dev.onPort_instr (p : Nat) (f : Ing → Ing) : (d.onPort p f).instr = d.instr := rfl
@[simp] theorem Dev.onPort_den (p : Nat) (f : Ing → Ing) : (d.onPort p f).den = d.den := rfl
@[simp] theorem Dev.onPort_sco (p : Nat) (f : Ing → Ing) : (d.onPort p f).sco = d.sco := rfl
@[simp] theorem Dev.onPort_raised (p : Nat) (f : Ing → Ing) : (d.onPort p f).raised = d.raised := rfl
@[simp] theorem Dev.onPort_host (p : Nat) (f : Ing → Ing) : (d.onPort p f).host = d.host := rfl
@[simp] theorem Dev.onPort_freeCtr (p : Nat) (f : Ing → Ing) : (d.onPort p f).freeCtr = d.freeCtr := rfl
@[simp] theorem Dev.onRel_glb (f : Rel → Rel) : (d.onRel f).glb = d.glb := rfl
@[simp] theorem Dev.onRel_hlk (f : Rel → Rel) : (d.onRel f).hlk = d.hlk := rfl
@[simp] theorem Dev.onRel_stk (f : Rel → Rel) : (d.onRel f).stk = d.stk := rfl
@[simp] theorem Dev.onRel_spa (f : Rel → Rel) : (d.onRel f).spa = d.spa := rfl
@[simp] theorem Dev.onRel_insts (f : Rel → Rel) : (d.onRel f).insts = d.insts := rfl
@[simp] theorem Dev.onRel_mov (f : Rel → Rel) : (d.onRel f).mov = d.mov := rfl
@[simp] theorem Dev.onRel_barrels (f : Rel → Rel) : (d.onRel f).barrels = d.barrels := rfl
@[simp] theorem Dev.onRel_tim (f : Rel → Rel) : (d.onRel f).tim = d.tim := rfl
@[simp] theorem Dev.onRel_atc (f : Rel → Rel) : (d.onRel f).atc = d.atc := rfl
@[simp] theorem Dev.onRel_cel (f : Rel → Rel) : (d.onRel f).cel = d.cel := rfl
@[simp] theorem Dev.onRel_mon (f : Rel → Rel) : (d.onRel f).mon = d.mon := rfl
@[simp] theorem Dev.onRel_hkc (f : Rel → Rel) : (d.onRel f).hkc = d.hkc := rfl
@[simp] theorem Dev.onRel_units (f : Rel → Rel) : (d.onRel f).units = d.units := rfl
@[simp] theorem Dev.onRel_ing (f : Rel → Rel) : (d.onRel f).ing = d.ing := rfl
@[simp] theorem Dev.onRel_chn (f : Rel → Rel) : (d.onRel f).chn = d.chn := rfl
@[simp] theorem Dev.onRel_spe (f : Rel → Rel) : (d.onRel f).spe = d.spe := rfl
@[simp] theorem Dev.onRel_xsp (f : Rel → Rel) : (d.onRel f).xsp = d.xsp := rfl
@[simp] theorem Dev.onRel_trg (f : Rel → Rel) : (d.onRel f).trg = d.trg := rfl
@[simp] theorem Dev.onRel_instr (f : Rel → Rel) : (d.onRel f).instr = d.instr := rfl
@[simp] theorem Dev.onRel_den (f : Rel → Rel) : (d.onRel f).den = d.den := rfl
@[simp] theorem Dev.onRel_sco (f : Rel → Rel) : (d.onRel f).sco = d.sco := rfl
@[simp] theorem Dev.onRel_raised (f : Rel → Rel) : (d.onRel f).raised = d.raised := rfl
@[simp] theorem Dev.onRel_host (f : Rel → Rel) : (d.onRel f).host = d.host := rfl
@[simp] theorem Dev.onRel_freeCtr (f : Rel → Rel) : (d.onRel f).freeCtr = d.freeCtr := rfl
@[simp] theorem Dev.onRing_glb (f : Ring → Ring) : (d.onRing f).glb = d.glb := rfl
@[simp] theorem Dev.onRing_rel (f : Ring → Ring) : (d.onRing f).rel = d.rel := rfl
@[simp] theorem Dev.onRing_hlk (f : Ring → Ring) : (d.onRing f).hlk = d.hlk := rfl
@[simp] theorem Dev.onRing_stk (f : Ring → Ring) : (d.onRing f).stk = d.stk := rfl
@[simp] theorem Dev.onRing_spa (f : Ring → Ring) : (d.onRing f).spa = d.spa := rfl
@[simp] theorem Dev.onRing_insts (f : Ring → Ring) : (d.onRing f).insts = d.insts := rfl
@[simp] theorem Dev.onRing_mov (f : Ring → Ring) : (d.onRing f).mov = d.mov := rfl
@[simp] theorem Dev.onRing_barrels (f : Ring → Ring) : (d.onRing f).barrels = d.barrels := rfl
@[simp] theorem Dev.onRing_atc (f : Ring → Ring) : (d.onRing f).atc = d.atc := rfl
@[simp] theorem Dev.onRing_cel (f : Ring → Ring) : (d.onRing f).cel = d.cel := rfl
@[simp] theorem Dev.onRing_mon (f : Ring → Ring) : (d.onRing f).mon = d.mon := rfl
@[simp] theorem Dev.onRing_hkc (f : Ring → Ring) : (d.onRing f).hkc = d.hkc := rfl
@[simp] theorem Dev.onRing_units (f : Ring → Ring) : (d.onRing f).units = d.units := rfl
@[simp] theorem Dev.onRing_ing (f : Ring → Ring) : (d.onRing f).ing = d.ing := rfl
@[simp] theorem Dev.onRing_chn (f : Ring → Ring) : (d.onRing f).chn = d.chn := rfl
@[simp] theorem Dev.onRing_spe (f : Ring → Ring) : (d.onRing f).spe = d.spe := rfl
@[simp] theorem Dev.onRing_xsp (f : Ring → Ring) : (d.onRing f).xsp = d.xsp := rfl
@[simp] theorem Dev.onRing_trg (f : Ring → Ring) : (d.onRing f).trg = d.trg := rfl
@[simp] theorem Dev.onRing_instr (f : Ring → Ring) : (d.onRing f).instr = d.instr := rfl
@[simp] theorem Dev.onRing_den (f : Ring → Ring) : (d.onRing f).den = d.den := rfl
@[simp] theorem Dev.onRing_sco (f : Ring → Ring) : (d.onRing f).sco = d.sco := rfl
@[simp] theorem Dev.onRing_raised (f : Ring → Ring) : (d.onRing f).raised = d.raised := rfl
@[simp] theorem Dev.onRing_host (f : Ring → Ring) : (d.onRing f).host = d.host := rfl
@[simp] theorem Dev.onRing_freeCtr (f : Ring → Ring) : (d.onRing f).freeCtr = d.freeCtr := rfl
@[simp] theorem Dev.onSco_glb (f : Sco → Sco) : (d.onSco f).glb = d.glb := rfl
@[simp] theorem Dev.onSco_rel (f : Sco → Sco) : (d.onSco f).rel = d.rel := rfl
@[simp] theorem Dev.onSco_hlk (f : Sco → Sco) : (d.onSco f).hlk = d.hlk := rfl
@[simp] theorem Dev.onSco_stk (f : Sco → Sco) : (d.onSco f).stk = d.stk := rfl
@[simp] theorem Dev.onSco_spa (f : Sco → Sco) : (d.onSco f).spa = d.spa := rfl
@[simp] theorem Dev.onSco_insts (f : Sco → Sco) : (d.onSco f).insts = d.insts := rfl
@[simp] theorem Dev.onSco_mov (f : Sco → Sco) : (d.onSco f).mov = d.mov := rfl
@[simp] theorem Dev.onSco_barrels (f : Sco → Sco) : (d.onSco f).barrels = d.barrels := rfl
@[simp] theorem Dev.onSco_tim (f : Sco → Sco) : (d.onSco f).tim = d.tim := rfl
@[simp] theorem Dev.onSco_atc (f : Sco → Sco) : (d.onSco f).atc = d.atc := rfl
@[simp] theorem Dev.onSco_cel (f : Sco → Sco) : (d.onSco f).cel = d.cel := rfl
@[simp] theorem Dev.onSco_mon (f : Sco → Sco) : (d.onSco f).mon = d.mon := rfl
@[simp] theorem Dev.onSco_hkc (f : Sco → Sco) : (d.onSco f).hkc = d.hkc := rfl
@[simp] theorem Dev.onSco_units (f : Sco → Sco) : (d.onSco f).units = d.units := rfl
@[simp] theorem Dev.onSco_ing (f : Sco → Sco) : (d.onSco f).ing = d.ing := rfl
@[simp] theorem Dev.onSco_chn (f : Sco → Sco) : (d.onSco f).chn = d.chn := rfl
@[simp] theorem Dev.onSco_spe (f : Sco → Sco) : (d.onSco f).spe = d.spe := rfl
@[simp] theorem Dev.onSco_xsp (f : Sco → Sco) : (d.onSco f).xsp = d.xsp := rfl
@[simp] theorem Dev.onSco_trg (f : Sco → Sco) : (d.onSco f).trg = d.trg := rfl
@[simp] theorem Dev.onSco_instr (f : Sco → Sco) : (d.onSco f).instr = d.instr := rfl
@[simp] theorem Dev.onSco_den (f : Sco → Sco) : (d.onSco f).den = d.den := rfl
@[simp] theorem Dev.onSco_raised (f : Sco → Sco) : (d.onSco f).raised = d.raised := rfl
@[simp] theorem Dev.onSco_host (f : Sco → Sco) : (d.onSco f).host = d.host := rfl
@[simp] theorem Dev.onSco_freeCtr (f : Sco → Sco) : (d.onSco f).freeCtr = d.freeCtr := rfl
@[simp] theorem Dev.onSeq_glb (k : Nat) (f : MonSeq → MonSeq) : (d.onSeq k f).glb = d.glb := rfl
@[simp] theorem Dev.onSeq_rel (k : Nat) (f : MonSeq → MonSeq) : (d.onSeq k f).rel = d.rel := rfl
@[simp] theorem Dev.onSeq_hlk (k : Nat) (f : MonSeq → MonSeq) : (d.onSeq k f).hlk = d.hlk := rfl
@[simp] theorem Dev.onSeq_stk (k : Nat) (f : MonSeq → MonSeq) : (d.onSeq k f).stk = d.stk := rfl
@[simp] theorem Dev.onSeq_spa (k : Nat) (f : MonSeq → MonSeq) : (d.onSeq k f).spa = d.spa := rfl
@[simp] theorem Dev.onSeq_insts (k : Nat) (f : MonSeq → MonSeq) : (d.onSeq k f).insts = d.insts := rfl
@[simp] theorem Dev.onSeq_mov (k : Nat) (f : MonSeq → MonSeq) : (d.onSeq k f).mov = d.mov := rfl
@[simp] theorem Dev.onSeq_barrels (k : Nat) (f : MonSeq → MonSeq) : (d.onSeq k f).barrels = d.barrels := rfl
@[simp] theorem Dev.onSeq_tim (k : Nat) (f : MonSeq → MonSeq) : (d.onSeq k f).tim = d.tim := rfl
@[simp] theorem Dev.onSeq_atc (k : Nat) (f : MonSeq → MonSeq) : (d.onSeq k f).atc = d.atc := rfl
@[simp] theorem Dev.onSeq_cel (k : Nat) (f : MonSeq → MonSeq) : (d.onSeq k f).cel = d.cel := rfl
@[simp] theorem Dev.onSeq_hkc (k : Nat) (f : MonSeq → MonSeq) : (d.onSeq k f).hkc = d.hkc := rfl
@[simp] theorem Dev.onSeq_units (k : Nat) (f : MonSeq → MonSeq) : (d.onSeq k f).units = d.units := rfl
@[simp] theorem Dev.onSeq_ing (k : Nat) (f : MonSeq → MonSeq) : (d.onSeq k f).ing = d.ing := rfl
@[simp] theorem Dev.onSeq_chn (k : Nat) (f : MonSeq → MonSeq) : (d.onSeq k f).chn = d.chn := rfl
@[simp] theorem Dev.onSeq_spe (k : Nat) (f : MonSeq → MonSeq) : (d.onSeq k f).spe = d.spe := rfl
@[simp] theorem Dev.onSeq_xsp (k : Nat) (f : MonSeq → MonSeq) : (d.onSeq k f).xsp = d.xsp := rfl
@[simp] theorem Dev.onSeq_trg (k : Nat) (f : MonSeq → MonSeq) : (d.onSeq k f).trg = d.trg := rfl
@[simp] theorem Dev.onSeq_instr (k : Nat) (f : MonSeq → MonSeq) : (d.onSeq k f).instr = d.instr := rfl
@[simp] theorem Dev.onSeq_den (k : Nat) (f : MonSeq → MonSeq) : (d.onSeq k f).den = d.den := rfl
@[simp] theorem Dev.onSeq_sco (k : Nat) (f : MonSeq → MonSeq) : (d.onSeq k f).sco = d.sco := rfl
@[simp] theorem Dev.onSeq_raised (k : Nat) (f : MonSeq → MonSeq) : (d.onSeq k f).raised = d.raised := rfl
@[simp] theorem Dev.onSeq_host (k : Nat) (f : MonSeq → MonSeq) : (d.onSeq k f).host = d.host := rfl
@[simp] theorem Dev.onSeq_freeCtr (k : Nat) (f : MonSeq → MonSeq) : (d.onSeq k f).freeCtr = d.freeCtr := rfl
@[simp] theorem Dev.onSession_glb (n : Nat) (f : Session → Session) : (d.onSession n f).glb = d.glb := rfl
@[simp] theorem Dev.onSession_rel (n : Nat) (f : Session → Session) : (d.onSession n f).rel = d.rel := rfl
@[simp] theorem Dev.onSession_stk (n : Nat) (f : Session → Session) : (d.onSession n f).stk = d.stk := rfl
@[simp] theorem Dev.onSession_spa (n : Nat) (f : Session → Session) : (d.onSession n f).spa = d.spa := rfl
@[simp] theorem Dev.onSession_insts (n : Nat) (f : Session → Session) : (d.onSession n f).insts = d.insts := rfl
@[simp] theorem Dev.onSession_mov (n : Nat) (f : Session → Session) : (d.onSession n f).mov = d.mov := rfl
@[simp] theorem Dev.onSession_barrels (n : Nat) (f : Session → Session) : (d.onSession n f).barrels = d.barrels := rfl
@[simp] theorem Dev.onSession_tim (n : Nat) (f : Session → Session) : (d.onSession n f).tim = d.tim := rfl
@[simp] theorem Dev.onSession_atc (n : Nat) (f : Session → Session) : (d.onSession n f).atc = d.atc := rfl
@[simp] theorem Dev.onSession_cel (n : Nat) (f : Session → Session) : (d.onSession n f).cel = d.cel := rfl
@[simp] theorem Dev.onSession_mon (n : Nat) (f : Session → Session) : (d.onSession n f).mon = d.mon := rfl
@[simp] theorem Dev.onSession_hkc (n : Nat) (f : Session → Session) : (d.onSession n f).hkc = d.hkc := rfl
@[simp] theorem Dev.onSession_units (n : Nat) (f : Session → Session) : (d.onSession n f).units = d.units := rfl
@[simp] theorem Dev.onSession_ing (n : Nat) (f : Session → Session) : (d.onSession n f).ing = d.ing := rfl
@[simp] theorem Dev.onSession_chn (n : Nat) (f : Session → Session) : (d.onSession n f).chn = d.chn := rfl
@[simp] theorem Dev.onSession_spe (n : Nat) (f : Session → Session) : (d.onSession n f).spe = d.spe := rfl
@[simp] theorem Dev.onSession_xsp (n : Nat) (f : Session → Session) : (d.onSession n f).xsp = d.xsp := rfl
@[simp] theorem Dev.onSession_trg (n : Nat) (f : Session → Session) : (d.onSession n f).trg = d.trg := rfl
@[simp] theorem Dev.onSession_instr (n : Nat) (f : Session → Session) : (d.onSession n f).instr = d.instr := rfl
@[simp] theorem Dev.onSession_den (n : Nat) (f : Session → Session) : (d.onSession n f).den = d.den := rfl
@[simp] theorem Dev.onSession_sco (n : Nat) (f : Session → Session) : (d.onSession n f).sco = d.sco := rfl
@[simp] theorem Dev.onSession_raised (n : Nat) (f : Session → Session) : (d.onSession n f).raised = d.raised := rfl
@[simp] theorem Dev.onSession_host (n : Nat) (f : Session → Session) : (d.onSession n f).host = d.host := rfl
@[simp] theorem Dev.onSession_freeCtr (n : Nat) (f : Session → Session) : (d.onSession n f).freeCtr = d.freeCtr := rfl
@[simp] theorem Dev.onSpu_glb (k : Nat) (f : Spu → Spu) : (d.onSpu k f).glb = d.glb := rfl
@[simp] theorem Dev.onSpu_rel (k : Nat) (f : Spu → Spu) : (d.onSpu k f).rel = d.rel := rfl
@[simp] theorem Dev.onSpu_hlk (k : Nat) (f : Spu → Spu) : (d.onSpu k f).hlk = d.hlk := rfl
@[simp] theorem Dev.onSpu_spa (k : Nat) (f : Spu → Spu) : (d.onSpu k f).spa = d.spa := rfl
@[simp] theorem Dev.onSpu_insts (k : Nat) (f : Spu → Spu) : (d.onSpu k f).insts = d.insts := rfl
@[simp] theorem Dev.onSpu_mov (k : Nat) (f : Spu → Spu) : (d.onSpu k f).mov = d.mov := rfl
@[simp] theorem Dev.onSpu_barrels (k : Nat) (f : Spu → Spu) : (d.onSpu k f).barrels = d.barrels := rfl
@[simp] theorem Dev.onSpu_tim (k : Nat) (f : Spu → Spu) : (d.onSpu k f).tim = d.tim := rfl
@[simp] theorem Dev.onSpu_atc (k : Nat) (f : Spu → Spu) : (d.onSpu k f).atc = d.atc := rfl
@[simp] theorem Dev.onSpu_cel (k : Nat) (f : Spu → Spu) : (d.onSpu k f).cel = d.cel := rfl
@[simp] theorem Dev.onSpu_mon (k : Nat) (f : Spu → Spu) : (d.onSpu k f).mon = d.mon := rfl
@[simp] theorem Dev.onSpu_hkc (k : Nat) (f : Spu → Spu) : (d.onSpu k f).hkc = d.hkc := rfl
@[simp] theorem Dev.onSpu_units (k : Nat) (f : Spu → Spu) : (d.onSpu k f).units = d.units := rfl
@[simp] theorem Dev.onSpu_ing (k : Nat) (f : Spu → Spu) : (d.onSpu k f).ing = d.ing := rfl
@[simp] theorem Dev.onSpu_chn (k : Nat) (f : Spu → Spu) : (d.onSpu k f).chn = d.chn := rfl
@[simp] theorem Dev.onSpu_spe (k : Nat) (f : Spu → Spu) : (d.onSpu k f).spe = d.spe := rfl
@[simp] theorem Dev.onSpu_xsp (k : Nat) (f : Spu → Spu) : (d.onSpu k f).xsp = d.xsp := rfl
@[simp] theorem Dev.onSpu_trg (k : Nat) (f : Spu → Spu) : (d.onSpu k f).trg = d.trg := rfl
@[simp] theorem Dev.onSpu_instr (k : Nat) (f : Spu → Spu) : (d.onSpu k f).instr = d.instr := rfl
@[simp] theorem Dev.onSpu_den (k : Nat) (f : Spu → Spu) : (d.onSpu k f).den = d.den := rfl
@[simp] theorem Dev.onSpu_sco (k : Nat) (f : Spu → Spu) : (d.onSpu k f).sco = d.sco := rfl
@[simp] theorem Dev.onSpu_raised (k : Nat) (f : Spu → Spu) : (d.onSpu k f).raised = d.raised := rfl
@[simp] theorem Dev.onSpu_host (k : Nat) (f : Spu → Spu) : (d.onSpu k f).host = d.host := rfl
@[simp] theorem Dev.onSpu_freeCtr (k : Nat) (f : Spu → Spu) : (d.onSpu k f).freeCtr = d.freeCtr := rfl
@[simp] theorem Dev.onStat_glb (u : Nat) (f : TimStat → TimStat) : (d.onStat u f).glb = d.glb := rfl
@[simp] theorem Dev.onStat_rel (u : Nat) (f : TimStat → TimStat) : (d.onStat u f).rel = d.rel := rfl
@[simp] theorem Dev.onStat_hlk (u : Nat) (f : TimStat → TimStat) : (d.onStat u f).hlk = d.hlk := rfl
@[simp] theorem Dev.onStat_stk (u : Nat) (f : TimStat → TimStat) : (d.onStat u f).stk = d.stk := rfl
@[simp] theorem Dev.onStat_spa (u : Nat) (f : TimStat → TimStat) : (d.onStat u f).spa = d.spa := rfl
@[simp] theorem Dev.onStat_insts (u : Nat) (f : TimStat → TimStat) : (d.onStat u f).insts = d.insts := rfl
@[simp] theorem Dev.onStat_mov (u : Nat) (f : TimStat → TimStat) : (d.onStat u f).mov = d.mov := rfl
@[simp] theorem Dev.onStat_barrels (u : Nat) (f : TimStat → TimStat) : (d.onStat u f).barrels = d.barrels := rfl
@[simp] theorem Dev.onStat_atc (u : Nat) (f : TimStat → TimStat) : (d.onStat u f).atc = d.atc := rfl
@[simp] theorem Dev.onStat_cel (u : Nat) (f : TimStat → TimStat) : (d.onStat u f).cel = d.cel := rfl
@[simp] theorem Dev.onStat_mon (u : Nat) (f : TimStat → TimStat) : (d.onStat u f).mon = d.mon := rfl
@[simp] theorem Dev.onStat_hkc (u : Nat) (f : TimStat → TimStat) : (d.onStat u f).hkc = d.hkc := rfl
@[simp] theorem Dev.onStat_units (u : Nat) (f : TimStat → TimStat) : (d.onStat u f).units = d.units := rfl
@[simp] theorem Dev.onStat_ing (u : Nat) (f : TimStat → TimStat) : (d.onStat u f).ing = d.ing := rfl
@[simp] theorem Dev.onStat_chn (u : Nat) (f : TimStat → TimStat) : (d.onStat u f).chn = d.chn := rfl
@[simp] theorem Dev.onStat_spe (u : Nat) (f : TimStat → TimStat) : (d.onStat u f).spe = d.spe := rfl
@[simp] theorem Dev.onStat_xsp (u : Nat) (f : TimStat → TimStat) : (d.onStat u f).xsp = d.xsp := rfl
@[simp] theorem Dev.onStat_trg (u : Nat) (f : TimStat → TimStat) : (d.onStat u f).trg = d.trg := rfl
@[simp] theorem Dev.onStat_instr (u : Nat) (f : TimStat → TimStat) : (d.onStat u f).instr = d.instr := rfl
@[simp] theorem Dev.onStat_den (u : Nat) (f : TimStat → TimStat) : (d.onStat u f).den = d.den := rfl
@[simp] theorem Dev.onStat_sco (u : Nat) (f : TimStat → TimStat) : (d.onStat u f).sco = d.sco := rfl
@[simp] theorem Dev.onStat_raised (u : Nat) (f : TimStat → TimStat) : (d.onStat u f).raised = d.raised := rfl
@[simp] theorem Dev.onStat_host (u : Nat) (f : TimStat → TimStat) : (d.onStat u f).host = d.host := rfl
@[simp] theorem Dev.onStat_freeCtr (u : Nat) (f : TimStat → TimStat) : (d.onStat u f).freeCtr = d.freeCtr := rfl
@[simp] theorem Dev.onStream_glb (sid : Nat) (f : Stream → Stream) : (d.onStream sid f).glb = d.glb := by unfold Dev.onStream; split <;> rfl
@[simp] theorem Dev.onStream_rel (sid : Nat) (f : Stream → Stream) : (d.onStream sid f).rel = d.rel := by unfold Dev.onStream; split <;> rfl
@[simp] theorem Dev.onStream_hlk (sid : Nat) (f : Stream → Stream) : (d.onStream sid f).hlk = d.hlk := by unfold Dev.onStream; split <;> rfl
@[simp] theorem Dev.onStream_stk (sid : Nat) (f : Stream → Stream) : (d.onStream sid f).stk = d.stk := by unfold Dev.onStream; split <;> rfl
@[simp] theorem Dev.onStream_spa (sid : Nat) (f : Stream → Stream) : (d.onStream sid f).spa = d.spa := by unfold Dev.onStream; split <;> rfl
@[simp] theorem Dev.onStream_insts (sid : Nat) (f : Stream → Stream) : (d.onStream sid f).insts = d.insts := by unfold Dev.onStream; split <;> rfl
@[simp] theorem Dev.onStream_barrels (sid : Nat) (f : Stream → Stream) : (d.onStream sid f).barrels = d.barrels := by unfold Dev.onStream; split <;> rfl
@[simp] theorem Dev.onStream_tim (sid : Nat) (f : Stream → Stream) : (d.onStream sid f).tim = d.tim := by unfold Dev.onStream; split <;> rfl
@[simp] theorem Dev.onStream_atc (sid : Nat) (f : Stream → Stream) : (d.onStream sid f).atc = d.atc := by unfold Dev.onStream; split <;> rfl
@[simp] theorem Dev.onStream_cel (sid : Nat) (f : Stream → Stream) : (d.onStream sid f).cel = d.cel := by unfold Dev.onStream; split <;> rfl
@[simp] theorem Dev.onStream_mon (sid : Nat) (f : Stream → Stream) : (d.onStream sid f).mon = d.mon := by unfold Dev.onStream; split <;> rfl
@[simp] theorem Dev.onStream_hkc (sid : Nat) (f : Stream → Stream) : (d.onStream sid f).hkc = d.hkc := by unfold Dev.onStream; split <;> rfl
@[simp] theorem Dev.onStream_units (sid : Nat) (f : Stream → Stream) : (d.onStream sid f).units = d.units := by unfold Dev.onStream; split <;> rfl
@[simp] theorem Dev.onStream_ing (sid : Nat) (f : Stream → Stream) : (d.onStream sid f).ing = d.ing := by unfold Dev.onStream; split <;> rfl
@[simp] theorem Dev.onStream_chn (sid : Nat) (f : Stream → Stream) : (d.onStream sid f).chn = d.chn := by unfold Dev.onStream; split <;> rfl
@[simp] theorem Dev.onStream_spe (sid : Nat) (f : Stream → Stream) : (d.onStream sid f).spe = d.spe := by unfold Dev.onStream; split <;> rfl
@[simp] theorem Dev.onStream_xsp (sid : Nat) (f : Stream → Stream) : (d.onStream sid f).xsp = d.xsp := by unfold Dev.onStream; split <;> rfl
@[simp] theorem Dev.onStream_trg (sid : Nat) (f : Stream → Stream) : (d.onStream sid f).trg = d.trg := by unfold Dev.onStream; split <;> rfl
@[simp] theorem Dev.onStream_instr (sid : Nat) (f : Stream → Stream) : (d.onStream sid f).instr = d.instr := by unfold Dev.onStream; split <;> rfl
@[simp] theorem Dev.onStream_den (sid : Nat) (f : Stream → Stream) : (d.onStream sid f).den = d.den := by unfold Dev.onStream; split <;> rfl
@[simp] theorem Dev.onStream_sco (sid : Nat) (f : Stream → Stream) : (d.onStream sid f).sco = d.sco := by unfold Dev.onStream; split <;> rfl
@[simp] theorem Dev.onStream_raised (sid : Nat) (f : Stream → Stream) : (d.onStream sid f).raised = d.raised := by unfold Dev.onStream; split <;> rfl
@[simp] theorem Dev.onStream_host (sid : Nat) (f : Stream → Stream) : (d.onStream sid f).host = d.host := by unfold Dev.onStream; split <;> rfl
@[simp] theorem Dev.onStream_freeCtr (sid : Nat) (f : Stream → Stream) : (d.onStream sid f).freeCtr = d.freeCtr := by unfold Dev.onStream; split <;> rfl
@[simp] theorem Dev.onSyn_glb (k : Nat) (f : Syn → Syn) : (d.onSyn k f).glb = d.glb := by unfold Dev.onSyn; split <;> rfl
@[simp] theorem Dev.onSyn_rel (k : Nat) (f : Syn → Syn) : (d.onSyn k f).rel = d.rel := by unfold Dev.onSyn; split <;> rfl
@[simp] theorem Dev.onSyn_hlk (k : Nat) (f : Syn → Syn) : (d.onSyn k f).hlk = d.hlk := by unfold Dev.onSyn; split <;> rfl
@[simp] theorem Dev.onSyn_stk (k : Nat) (f : Syn → Syn) : (d.onSyn k f).stk = d.stk := by unfold Dev.onSyn; split <;> rfl
@[simp] theorem Dev.onSyn_insts (k : Nat) (f : Syn → Syn) : (d.onSyn k f).insts = d.insts := by unfold Dev.onSyn; split <;> rfl
@[simp] theorem Dev.onSyn_mov (k : Nat) (f : Syn → Syn) : (d.onSyn k f).mov = d.mov := by unfold Dev.onSyn; split <;> rfl
@[simp] theorem Dev.onSyn_barrels (k : Nat) (f : Syn → Syn) : (d.onSyn k f).barrels = d.barrels := by unfold Dev.onSyn; split <;> rfl
@[simp] theorem Dev.onSyn_atc (k : Nat) (f : Syn → Syn) : (d.onSyn k f).atc = d.atc := by unfold Dev.onSyn; split <;> rfl
@[simp] theorem Dev.onSyn_cel (k : Nat) (f : Syn → Syn) : (d.onSyn k f).cel = d.cel := by unfold Dev.onSyn; split <;> rfl
@[simp] theorem Dev.onSyn_mon (k : Nat) (f : Syn → Syn) : (d.onSyn k f).mon = d.mon := by unfold Dev.onSyn; split <;> rfl
@[simp] theorem Dev.onSyn_hkc (k : Nat) (f : Syn → Syn) : (d.onSyn k f).hkc = d.hkc := by unfold Dev.onSyn; split <;> rfl
@[simp] theorem Dev.onSyn_units (k : Nat) (f : Syn → Syn) : (d.onSyn k f).units = d.units := by unfold Dev.onSyn; split <;> rfl
@[simp] theorem Dev.onSyn_ing (k : Nat) (f : Syn → Syn) : (d.onSyn k f).ing = d.ing := by unfold Dev.onSyn; split <;> rfl
@[simp] theorem Dev.onSyn_chn (k : Nat) (f : Syn → Syn) : (d.onSyn k f).chn = d.chn := by unfold Dev.onSyn; split <;> rfl
@[simp] theorem Dev.onSyn_spe (k : Nat) (f : Syn → Syn) : (d.onSyn k f).spe = d.spe := by unfold Dev.onSyn; split <;> rfl
@[simp] theorem Dev.onSyn_xsp (k : Nat) (f : Syn → Syn) : (d.onSyn k f).xsp = d.xsp := by unfold Dev.onSyn; split <;> rfl
@[simp] theorem Dev.onSyn_trg (k : Nat) (f : Syn → Syn) : (d.onSyn k f).trg = d.trg := by unfold Dev.onSyn; split <;> rfl
@[simp] theorem Dev.onSyn_instr (k : Nat) (f : Syn → Syn) : (d.onSyn k f).instr = d.instr := by unfold Dev.onSyn; split <;> rfl
@[simp] theorem Dev.onSyn_den (k : Nat) (f : Syn → Syn) : (d.onSyn k f).den = d.den := by unfold Dev.onSyn; split <;> rfl
@[simp] theorem Dev.onSyn_sco (k : Nat) (f : Syn → Syn) : (d.onSyn k f).sco = d.sco := by unfold Dev.onSyn; split <;> rfl
@[simp] theorem Dev.onSyn_raised (k : Nat) (f : Syn → Syn) : (d.onSyn k f).raised = d.raised := by unfold Dev.onSyn; split <;> rfl
@[simp] theorem Dev.onSyn_host (k : Nat) (f : Syn → Syn) : (d.onSyn k f).host = d.host := by unfold Dev.onSyn; split <;> rfl
@[simp] theorem Dev.onSyn_freeCtr (k : Nat) (f : Syn → Syn) : (d.onSyn k f).freeCtr = d.freeCtr := by unfold Dev.onSyn; split <;> rfl
@[simp] theorem Dev.onTim_glb (f : Tim → Tim) : (d.onTim f).glb = d.glb := rfl
@[simp] theorem Dev.onTim_rel (f : Tim → Tim) : (d.onTim f).rel = d.rel := rfl
@[simp] theorem Dev.onTim_hlk (f : Tim → Tim) : (d.onTim f).hlk = d.hlk := rfl
@[simp] theorem Dev.onTim_stk (f : Tim → Tim) : (d.onTim f).stk = d.stk := rfl
@[simp] theorem Dev.onTim_spa (f : Tim → Tim) : (d.onTim f).spa = d.spa := rfl
@[simp] theorem Dev.onTim_insts (f : Tim → Tim) : (d.onTim f).insts = d.insts := rfl
@[simp] theorem Dev.onTim_mov (f : Tim → Tim) : (d.onTim f).mov = d.mov := rfl
@[simp] theorem Dev.onTim_barrels (f : Tim → Tim) : (d.onTim f).barrels = d.barrels := rfl
@[simp] theorem Dev.onTim_atc (f : Tim → Tim) : (d.onTim f).atc = d.atc := rfl
@[simp] theorem Dev.onTim_cel (f : Tim → Tim) : (d.onTim f).cel = d.cel := rfl
@[simp] theorem Dev.onTim_mon (f : Tim → Tim) : (d.onTim f).mon = d.mon := rfl
@[simp] theorem Dev.onTim_hkc (f : Tim → Tim) : (d.onTim f).hkc = d.hkc := rfl
@[simp] theorem Dev.onTim_units (f : Tim → Tim) : (d.onTim f).units = d.units := rfl
@[simp] theorem Dev.onTim_ing (f : Tim → Tim) : (d.onTim f).ing = d.ing := rfl
@[simp] theorem Dev.onTim_chn (f : Tim → Tim) : (d.onTim f).chn = d.chn := rfl
@[simp] theorem Dev.onTim_spe (f : Tim → Tim) : (d.onTim f).spe = d.spe := rfl
@[simp] theorem Dev.onTim_xsp (f : Tim → Tim) : (d.onTim f).xsp = d.xsp := rfl
@[simp] theorem Dev.onTim_trg (f : Tim → Tim) : (d.onTim f).trg = d.trg := rfl
@[simp] theorem Dev.onTim_instr (f : Tim → Tim) : (d.onTim f).instr = d.instr := rfl
@[simp] theorem Dev.onTim_den (f : Tim → Tim) : (d.onTim f).den = d.den := rfl
@[simp] theorem Dev.onTim_sco (f : Tim → Tim) : (d.onTim f).sco = d.sco := rfl
@[simp] theorem Dev.onTim_raised (f : Tim → Tim) : (d.onTim f).raised = d.raised := rfl
@[simp] theorem Dev.onTim_host (f : Tim → Tim) : (d.onTim f).host = d.host := rfl
@[simp] theorem Dev.onTim_freeCtr (f : Tim → Tim) : (d.onTim f).freeCtr = d.freeCtr := rfl
@[simp] theorem Dev.onTrig_glb (p : Nat) (f : Trg → Trg) : (d.onTrig p f).glb = d.glb := rfl
@[simp] theorem Dev.onTrig_rel (p : Nat) (f : Trg → Trg) : (d.onTrig p f).rel = d.rel := rfl
@[simp] theorem Dev.onTrig_hlk (p : Nat) (f : Trg → Trg) : (d.onTrig p f).hlk = d.hlk := rfl
@[simp] theorem Dev.onTrig_stk (p : Nat) (f : Trg → Trg) : (d.onTrig p f).stk = d.stk := rfl
@[simp] theorem Dev.onTrig_spa (p : Nat) (f : Trg → Trg) : (d.onTrig p f).spa = d.spa := rfl
@[simp] theorem Dev.onTrig_insts (p : Nat) (f : Trg → Trg) : (d.onTrig p f).insts = d.insts := rfl
@[simp] theorem Dev.onTrig_mov (p : Nat) (f : Trg → Trg) : (d.onTrig p f).mov = d.mov := rfl
@[simp] theorem Dev.onTrig_barrels (p : Nat) (f : Trg → Trg) : (d.onTrig p f).barrels = d.barrels := rfl
@[simp] theorem Dev.onTrig_tim (p : Nat) (f : Trg → Trg) : (d.onTrig p f).tim = d.tim := rfl
@[simp] theorem Dev.onTrig_atc (p : Nat) (f : Trg → Trg) : (d.onTrig p f).atc = d.atc := rfl
@[simp] theorem Dev.onTrig_cel (p : Nat) (f : Trg → Trg) : (d.onTrig p f).cel = d.cel := rfl
@[simp] theorem Dev.onTrig_mon (p : Nat) (f : Trg → Trg) : (d.onTrig p f).mon = d.mon := rfl
@[simp] theorem Dev.onTrig_hkc (p : Nat) (f : Trg → Trg) : (d.onTrig p f).hkc = d.hkc := rfl
@[simp] theorem Dev.onTrig_units (p : Nat) (f : Trg → Trg) : (d.onTrig p f).units = d.units := rfl
@[simp] theorem Dev.onTrig_ing (p : Nat) (f : Trg → Trg) : (d.onTrig p f).ing = d.ing := rfl
@[simp] theorem Dev.onTrig_chn (p : Nat) (f : Trg → Trg) : (d.onTrig p f).chn = d.chn := rfl
@[simp] theorem Dev.onTrig_spe (p : Nat) (f : Trg → Trg) : (d.onTrig p f).spe = d.spe := rfl
@[simp] theorem Dev.onTrig_xsp (p : Nat) (f : Trg → Trg) : (d.onTrig p f).xsp = d.xsp := rfl
@[simp] theorem Dev.onTrig_instr (p : Nat) (f : Trg → Trg) : (d.onTrig p f).instr = d.instr := rfl
@[simp] theorem Dev.onTrig_den (p : Nat) (f : Trg → Trg) : (d.onTrig p f).den = d.den := rfl
@[simp] theorem Dev.onTrig_sco (p : Nat) (f : Trg → Trg) : (d.onTrig p f).sco = d.sco := rfl
@[simp] theorem Dev.onTrig_raised (p : Nat) (f : Trg → Trg) : (d.onTrig p f).raised = d.raised := rfl
@[simp] theorem Dev.onTrig_host (p : Nat) (f : Trg → Trg) : (d.onTrig p f).host = d.host := rfl
@[simp] theorem Dev.onTrig_freeCtr (p : Nat) (f : Trg → Trg) : (d.onTrig p f).freeCtr = d.freeCtr := rfl
@[simp] theorem Dev.onTrk_glb (k : Nat) (f : MonTrk → MonTrk) : (d.onTrk k f).glb = d.glb := rfl
@[simp] theorem Dev.onTrk_rel (k : Nat) (f : MonTrk → MonTrk) : (d.onTrk k f).rel = d.rel := rfl
@[simp] theorem Dev.onTrk_hlk (k : Nat) (f : MonTrk → MonTrk) : (d.onTrk k f).hlk = d.hlk := rfl
@[simp] theorem Dev.onTrk_stk (k : Nat) (f : MonTrk → MonTrk) : (d.onTrk k f).stk = d.stk := rfl
@[simp] theorem Dev.onTrk_spa (k : Nat) (f : MonTrk → MonTrk) : (d.onTrk k f).spa = d.spa := rfl
@[simp] theorem Dev.onTrk_insts (k : Nat) (f : MonTrk → MonTrk) : (d.onTrk k f).insts = d.insts := rfl
@[simp] theorem Dev.onTrk_mov (k : Nat) (f : MonTrk → MonTrk) : (d.onTrk k f).mov = d.mov := rfl
@[simp] theorem Dev.onTrk_barrels (k : Nat) (f : MonTrk → MonTrk) : (d.onTrk k f).barrels = d.barrels := rfl
@[simp] theorem Dev.onTrk_tim (k : Nat) (f : MonTrk → MonTrk) : (d.onTrk k f).tim = d.tim := rfl
@[simp] theorem Dev.onTrk_atc (k : Nat) (f : MonTrk → MonTrk) : (d.onTrk k f).atc = d.atc := rfl
@[simp] theorem Dev.onTrk_cel (k : Nat) (f : MonTrk → MonTrk) : (d.onTrk k f).cel = d.cel := rfl
@[simp] theorem Dev.onTrk_hkc (k : Nat) (f : MonTrk → MonTrk) : (d.onTrk k f).hkc = d.hkc := rfl
@[simp] theorem Dev.onTrk_units (k : Nat) (f : MonTrk → MonTrk) : (d.onTrk k f).units = d.units := rfl
@[simp] theorem Dev.onTrk_ing (k : Nat) (f : MonTrk → MonTrk) : (d.onTrk k f).ing = d.ing := rfl
@[simp] theorem Dev.onTrk_chn (k : Nat) (f : MonTrk → MonTrk) : (d.onTrk k f).chn = d.chn := rfl
@[simp] theorem Dev.onTrk_spe (k : Nat) (f : MonTrk → MonTrk) : (d.onTrk k f).spe = d.spe := rfl
@[simp] theorem Dev.onTrk_xsp (k : Nat) (f : MonTrk → MonTrk) : (d.onTrk k f).xsp = d.xsp := rfl
@[simp] theorem Dev.onTrk_trg (k : Nat) (f : MonTrk → MonTrk) : (d.onTrk k f).trg = d.trg := rfl
@[simp] theorem Dev.onTrk_instr (k : Nat) (f : MonTrk → MonTrk) : (d.onTrk k f).instr = d.instr := rfl
@[simp] theorem Dev.onTrk_den (k : Nat) (f : MonTrk → MonTrk) : (d.onTrk k f).den = d.den := rfl
@[simp] theorem Dev.onTrk_sco (k : Nat) (f : MonTrk → MonTrk) : (d.onTrk k f).sco = d.sco := rfl
@[simp] theorem Dev.onTrk_raised (k : Nat) (f : MonTrk → MonTrk) : (d.onTrk k f).raised = d.raised := rfl
@[simp] theorem Dev.onTrk_host (k : Nat) (f : MonTrk → MonTrk) : (d.onTrk k f).host = d.host := rfl
@[simp] theorem Dev.onTrk_freeCtr (k : Nat) (f : MonTrk → MonTrk) : (d.onTrk k f).freeCtr = d.freeCtr := rfl
@[simp] theorem Dev.onUnit_glb (u : Nat) (f : RecIf → RecIf) : (d.onUnit u f).glb = d.glb := rfl
@[simp] theorem Dev.onUnit_rel (u : Nat) (f : RecIf → RecIf) : (d.onUnit u f).rel = d.rel := rfl
@[simp] theorem Dev.onUnit_hlk (u : Nat) (f : RecIf → RecIf) : (d.onUnit u f).hlk = d.hlk := rfl
@[simp] theorem Dev.onUnit_stk (u : Nat) (f : RecIf → RecIf) : (d.onUnit u f).stk = d.stk := rfl
@[simp] theorem Dev.onUnit_spa (u : Nat) (f : RecIf → RecIf) : (d.onUnit u f).spa = d.spa := rfl
@[simp] theorem Dev.onUnit_insts (u : Nat) (f : RecIf → RecIf) : (d.onUnit u f).insts = d.insts := rfl
@[simp] theorem Dev.onUnit_mov (u : Nat) (f : RecIf → RecIf) : (d.onUnit u f).mov = d.mov := rfl
@[simp] theorem Dev.onUnit_barrels (u : Nat) (f : RecIf → RecIf) : (d.onUnit u f).barrels = d.barrels := rfl
@[simp] theorem Dev.onUnit_tim (u : Nat) (f : RecIf → RecIf) : (d.onUnit u f).tim = d.tim := rfl
@[simp] theorem Dev.onUnit_atc (u : Nat) (f : RecIf → RecIf) : (d.onUnit u f).atc = d.atc := rfl
@[simp] theorem Dev.onUnit_cel (u : Nat) (f : RecIf → RecIf) : (d.onUnit u f).cel = d.cel := rfl
@[simp] theorem Dev.onUnit_mon (u : Nat) (f : RecIf → RecIf) : (d.onUnit u f).mon = d.mon := rfl
@[simp] theorem Dev.onUnit_hkc (u : Nat) (f : RecIf → RecIf) : (d.onUnit u f).hkc = d.hkc := rfl
@[simp] theorem Dev.onUnit_ing (u : Nat) (f : RecIf → RecIf) : (d.onUnit u f).ing = d.ing := rfl
@[simp] theorem Dev.onUnit_chn (u : Nat) (f : RecIf → RecIf) : (d.onUnit u f).chn = d.chn := rfl
@[simp] theorem Dev.onUnit_spe (u : Nat) (f : RecIf → RecIf) : (d.onUnit u f).spe = d.spe := rfl
@[simp] theorem Dev.onUnit_xsp (u : Nat) (f : RecIf → RecIf) : (d.onUnit u f).xsp = d.xsp := rfl
@[simp] theorem Dev.onUnit_trg (u : Nat) (f : RecIf → RecIf) : (d.onUnit u f).trg = d.trg := rfl
@[simp] theorem Dev.onUnit_instr (u : Nat) (f : RecIf → RecIf) : (d.onUnit u f).instr = d.instr := rfl
@[simp] theorem Dev.onUnit_den (u : Nat) (f : RecIf → RecIf) : (d.onUnit u f).den = d.den := rfl
@[simp] theorem Dev.onUnit_sco (u : Nat) (f : RecIf → RecIf) : (d.onUnit u f).sco = d.sco := rfl
@[simp] theorem Dev.onUnit_raised (u : Nat) (f : RecIf → RecIf) : (d.onUnit u f).raised = d.raised := rfl
@[simp] theorem Dev.onUnit_host (u : Nat) (f : RecIf → RecIf) : (d.onUnit u f).host = d.host := rfl
@[simp] theorem Dev.onUnit_freeCtr (u : Nat) (f : RecIf → RecIf) : (d.onUnit u f).freeCtr = d.freeCtr := rfl
@[simp] theorem Dev.onXpair_glb (i : Nat) (f : XPair → XPair) : (d.onXpair i f).glb = d.glb := rfl
@[simp] theorem Dev.onXpair_rel (i : Nat) (f : XPair → XPair) : (d.onXpair i f).rel = d.rel := rfl
@[simp] theorem Dev.onXpair_hlk (i : Nat) (f : XPair → XPair) : (d.onXpair i f).hlk = d.hlk := rfl
@[simp] theorem Dev.onXpair_stk (i : Nat) (f : XPair → XPair) : (d.onXpair i f).stk = d.stk := rfl
@[simp] theorem Dev.onXpair_spa (i : Nat) (f : XPair → XPair) : (d.onXpair i f).spa = d.spa := rfl
@[simp] theorem Dev.onXpair_insts (i : Nat) (f : XPair → XPair) : (d.onXpair i f).insts = d.insts := rfl
@[simp] theorem Dev.onXpair_mov (i : Nat) (f : XPair → XPair) : (d.onXpair i f).mov = d.mov := rfl
@[simp] theorem Dev.onXpair_barrels (i : Nat) (f : XPair → XPair) : (d.onXpair i f).barrels = d.barrels := rfl
@[simp] theorem Dev.onXpair_tim (i : Nat) (f : XPair → XPair) : (d.onXpair i f).tim = d.tim := rfl
@[simp] theorem Dev.onXpair_atc (i : Nat) (f : XPair → XPair) : (d.onXpair i f).atc = d.atc := rfl
@[simp] theorem Dev.onXpair_cel (i : Nat) (f : XPair → XPair) : (d.onXpair i f).cel = d.cel := rfl
@[simp] theorem Dev.onXpair_mon (i : Nat) (f : XPair → XPair) : (d.onXpair i f).mon = d.mon := rfl
@[simp] theorem Dev.onXpair_hkc (i : Nat) (f : XPair → XPair) : (d.onXpair i f).hkc = d.hkc := rfl
@[simp] theorem Dev.onXpair_units (i : Nat) (f : XPair → XPair) : (d.onXpair i f).units = d.units := rfl
@[simp] theorem Dev.onXpair_ing (i : Nat) (f : XPair → XPair) : (d.onXpair i f).ing = d.ing := rfl
@[simp] theorem Dev.onXpair_chn (i : Nat) (f : XPair → XPair) : (d.onXpair i f).chn = d.chn := rfl
@[simp] theorem Dev.onXpair_spe (i : Nat) (f : XPair → XPair) : (d.onXpair i f).spe = d.spe := rfl
@[simp] theorem Dev.onXpair_trg (i : Nat) (f : XPair → XPair) : (d.onXpair i f).trg = d.trg := rfl
@[simp] theorem Dev.onXpair_instr (i : Nat) (f : XPair → XPair) : (d.onXpair i f).instr = d.instr := rfl
@[simp] theorem Dev.onXpair_den (i : Nat) (f : XPair → XPair) : (d.onXpair i f).den = d.den := rfl
@[simp] theorem Dev.onXpair_sco (i : Nat) (f : XPair → XPair) : (d.onXpair i f).sco = d.sco := rfl
@[simp] theorem Dev.onXpair_raised (i : Nat) (f : XPair → XPair) : (d.onXpair i f).raised = d.raised := rfl
@[simp] theorem Dev.onXpair_host (i : Nat) (f : XPair → XPair) : (d.onXpair i f).host = d.host := rfl
@[simp] theorem Dev.onXpair_freeCtr (i : Nat) (f : XPair → XPair) : (d.onXpair i f).freeCtr = d.freeCtr := rfl
@[simp] theorem Dev.vector_glb (v : Nat) : (d.vector v).glb = d.glb := by unfold Dev.vector; split <;> rfl
@[simp] theorem Dev.vector_rel (v : Nat) : (d.vector v).rel = d.rel := by unfold Dev.vector; split <;> rfl
@[simp] theorem Dev.vector_stk (v : Nat) : (d.vector v).stk = d.stk := by unfold Dev.vector; split <;> rfl
@[simp] theorem Dev.vector_spa (v : Nat) : (d.vector v).spa = d.spa := by unfold Dev.vector; split <;> rfl
@[simp] theorem Dev.vector_insts (v : Nat) : (d.vector v).insts = d.insts := by unfold Dev.vector; split <;> rfl
@[simp] theorem Dev.vector_mov (v : Nat) : (d.vector v).mov = d.mov := by unfold Dev.vector; split <;> rfl
@[simp] theorem Dev.vector_barrels (v : Nat) : (d.vector v).barrels = d.barrels := by unfold Dev.vector; split <;> rfl
@[simp] theorem Dev.vector_tim (v : Nat) : (d.vector v).tim = d.tim := by unfold Dev.vector; split <;> rfl
@[simp] theorem Dev.vector_atc (v : Nat) : (d.vector v).atc = d.atc := by unfold Dev.vector; split <;> rfl
@[simp] theorem Dev.vector_cel (v : Nat) : (d.vector v).cel = d.cel := by unfold Dev.vector; split <;> rfl
@[simp] theorem Dev.vector_mon (v : Nat) : (d.vector v).mon = d.mon := by unfold Dev.vector; split <;> rfl
@[simp] theorem Dev.vector_hkc (v : Nat) : (d.vector v).hkc = d.hkc := by unfold Dev.vector; split <;> rfl
@[simp] theorem Dev.vector_units (v : Nat) : (d.vector v).units = d.units := by unfold Dev.vector; split <;> rfl
@[simp] theorem Dev.vector_ing (v : Nat) : (d.vector v).ing = d.ing := by unfold Dev.vector; split <;> rfl
@[simp] theorem Dev.vector_chn (v : Nat) : (d.vector v).chn = d.chn := by unfold Dev.vector; split <;> rfl
@[simp] theorem Dev.vector_spe (v : Nat) : (d.vector v).spe = d.spe := by unfold Dev.vector; split <;> rfl
@[simp] theorem Dev.vector_xsp (v : Nat) : (d.vector v).xsp = d.xsp := by unfold Dev.vector; split <;> rfl
@[simp] theorem Dev.vector_trg (v : Nat) : (d.vector v).trg = d.trg := by unfold Dev.vector; split <;> rfl
@[simp] theorem Dev.vector_instr (v : Nat) : (d.vector v).instr = d.instr := by unfold Dev.vector; split <;> rfl
@[simp] theorem Dev.vector_den (v : Nat) : (d.vector v).den = d.den := by unfold Dev.vector; split <;> rfl
@[simp] theorem Dev.vector_sco (v : Nat) : (d.vector v).sco = d.sco := by unfold Dev.vector; split <;> rfl
@[simp] theorem Dev.vector_raised (v : Nat) : (d.vector v).raised = d.raised := by unfold Dev.vector; split <;> rfl
@[simp] theorem Dev.vector_freeCtr (v : Nat) : (d.vector v).freeCtr = d.freeCtr := by unfold Dev.vector; split <;> rfl
@[simp] theorem Dev.hlkErr_glb (i : Nat) : (d.hlkErr i).glb = d.glb := by simp [Dev.hlkErr]
@[simp] theorem Dev.hlkErr_rel (i : Nat) : (d.hlkErr i).rel = d.rel := by simp [Dev.hlkErr]
@[simp] theorem Dev.hlkErr_stk (i : Nat) : (d.hlkErr i).stk = d.stk := by simp [Dev.hlkErr]
@[simp] theorem Dev.hlkErr_spa (i : Nat) : (d.hlkErr i).spa = d.spa := by simp [Dev.hlkErr]
@[simp] theorem Dev.hlkErr_insts (i : Nat) : (d.hlkErr i).insts = d.insts := by simp [Dev.hlkErr]
@[simp] theorem Dev.hlkErr_mov (i : Nat) : (d.hlkErr i).mov = d.mov := by simp [Dev.hlkErr]
@[simp] theorem Dev.hlkErr_barrels (i : Nat) : (d.hlkErr i).barrels = d.barrels := by simp [Dev.hlkErr]
@[simp] theorem Dev.hlkErr_tim (i : Nat) : (d.hlkErr i).tim = d.tim := by simp [Dev.hlkErr]
@[simp] theorem Dev.hlkErr_atc (i : Nat) : (d.hlkErr i).atc = d.atc := by simp [Dev.hlkErr]
@[simp] theorem Dev.hlkErr_cel (i : Nat) : (d.hlkErr i).cel = d.cel := by simp [Dev.hlkErr]
@[simp] theorem Dev.hlkErr_mon (i : Nat) : (d.hlkErr i).mon = d.mon := by simp [Dev.hlkErr]
@[simp] theorem Dev.hlkErr_hkc (i : Nat) : (d.hlkErr i).hkc = d.hkc := by simp [Dev.hlkErr]
@[simp] theorem Dev.hlkErr_units (i : Nat) : (d.hlkErr i).units = d.units := by simp [Dev.hlkErr]
@[simp] theorem Dev.hlkErr_ing (i : Nat) : (d.hlkErr i).ing = d.ing := by simp [Dev.hlkErr]
@[simp] theorem Dev.hlkErr_chn (i : Nat) : (d.hlkErr i).chn = d.chn := by simp [Dev.hlkErr]
@[simp] theorem Dev.hlkErr_spe (i : Nat) : (d.hlkErr i).spe = d.spe := by simp [Dev.hlkErr]
@[simp] theorem Dev.hlkErr_xsp (i : Nat) : (d.hlkErr i).xsp = d.xsp := by simp [Dev.hlkErr]
@[simp] theorem Dev.hlkErr_trg (i : Nat) : (d.hlkErr i).trg = d.trg := by simp [Dev.hlkErr]
@[simp] theorem Dev.hlkErr_instr (i : Nat) : (d.hlkErr i).instr = d.instr := by simp [Dev.hlkErr]
@[simp] theorem Dev.hlkErr_den (i : Nat) : (d.hlkErr i).den = d.den := by simp [Dev.hlkErr]
@[simp] theorem Dev.hlkErr_sco (i : Nat) : (d.hlkErr i).sco = d.sco := by simp [Dev.hlkErr]
@[simp] theorem Dev.hlkErr_raised (i : Nat) : (d.hlkErr i).raised = d.raised := by simp [Dev.hlkErr]
@[simp] theorem Dev.hlkErr_freeCtr (i : Nat) : (d.hlkErr i).freeCtr = d.freeCtr := by simp [Dev.hlkErr]
@[simp] theorem Dev.log_glb (r : Report) : (d.log r).glb = d.glb := by unfold Dev.log; dsimp only; split <;> simp
@[simp] theorem Dev.log_stk (r : Report) : (d.log r).stk = d.stk := by unfold Dev.log; dsimp only; split <;> simp
@[simp] theorem Dev.log_spa (r : Report) : (d.log r).spa = d.spa := by unfold Dev.log; dsimp only; split <;> simp
@[simp] theorem Dev.log_insts (r : Report) : (d.log r).insts = d.insts := by unfold Dev.log; dsimp only; split <;> simp
@[simp] theorem Dev.log_mov (r : Report) : (d.log r).mov = d.mov := by unfold Dev.log; dsimp only; split <;> simp
@[simp] theorem Dev.log_barrels (r : Report) : (d.log r).barrels = d.barrels := by unfold Dev.log; dsimp only; split <;> simp
@[simp] theorem Dev.log_tim (r : Report) : (d.log r).tim = d.tim := by unfold Dev.log; dsimp only; split <;> simp
@[simp] theorem Dev.log_atc (r : Report) : (d.log r).atc = d.atc := by unfold Dev.log; dsimp only; split <;> simp
@[simp] theorem Dev.log_cel (r : Report) : (d.log r).cel = d.cel := by unfold Dev.log; dsimp only; split <;> simp
@[simp] theorem Dev.log_mon (r : Report) : (d.log r).mon = d.mon := by unfold Dev.log; dsimp only; split <;> simp
@[simp] theorem Dev.log_hkc (r : Report) : (d.log r).hkc = d.hkc := by unfold Dev.log; dsimp only; split <;> simp
@[simp] theorem Dev.log_units (r : Report) : (d.log r).units = d.units := by unfold Dev.log; dsimp only; split <;> simp
@[simp] theorem Dev.log_ing (r : Report) : (d.log r).ing = d.ing := by unfold Dev.log; dsimp only; split <;> simp
@[simp] theorem Dev.log_chn (r : Report) : (d.log r).chn = d.chn := by unfold Dev.log; dsimp only; split <;> simp
@[simp] theorem Dev.log_spe (r : Report) : (d.log r).spe = d.spe := by unfold Dev.log; dsimp only; split <;> simp
@[simp] theorem Dev.log_xsp (r : Report) : (d.log r).xsp = d.xsp := by unfold Dev.log; dsimp only; split <;> simp
@[simp] theorem Dev.log_trg (r : Report) : (d.log r).trg = d.trg := by unfold Dev.log; dsimp only; split <;> simp
@[simp] theorem Dev.log_instr (r : Report) : (d.log r).instr = d.instr := by unfold Dev.log; dsimp only; split <;> simp
@[simp] theorem Dev.log_den (r : Report) : (d.log r).den = d.den := by unfold Dev.log; dsimp only; split <;> simp
@[simp] theorem Dev.log_sco (r : Report) : (d.log r).sco = d.sco := by unfold Dev.log; dsimp only; split <;> simp
@[simp] theorem Dev.log_raised (r : Report) : (d.log r).raised = d.raised := by unfold Dev.log; dsimp only; split <;> simp
@[simp] theorem Dev.log_freeCtr (r : Report) : (d.log r).freeCtr = d.freeCtr := by unfold Dev.log; dsimp only; split <;> simp
@[simp] theorem Dev.note_glb (c : Status) (dm : BitVec 16) (src : BitVec 8) (k e : Nat) : (d.note c dm src k e).glb = d.glb := by simp [Dev.note]
@[simp] theorem Dev.degraded_glb (c : Status) (dm : BitVec 16) (src : BitVec 8) (k e : Nat) : (d.degraded c dm src k e).glb = d.glb := by simp [Dev.degraded]
@[simp] theorem Dev.note_stk (c : Status) (dm : BitVec 16) (src : BitVec 8) (k e : Nat) : (d.note c dm src k e).stk = d.stk := by simp [Dev.note]
@[simp] theorem Dev.degraded_stk (c : Status) (dm : BitVec 16) (src : BitVec 8) (k e : Nat) : (d.degraded c dm src k e).stk = d.stk := by simp [Dev.degraded]
@[simp] theorem Dev.note_spa (c : Status) (dm : BitVec 16) (src : BitVec 8) (k e : Nat) : (d.note c dm src k e).spa = d.spa := by simp [Dev.note]
@[simp] theorem Dev.degraded_spa (c : Status) (dm : BitVec 16) (src : BitVec 8) (k e : Nat) : (d.degraded c dm src k e).spa = d.spa := by simp [Dev.degraded]
@[simp] theorem Dev.note_insts (c : Status) (dm : BitVec 16) (src : BitVec 8) (k e : Nat) : (d.note c dm src k e).insts = d.insts := by simp [Dev.note]
@[simp] theorem Dev.degraded_insts (c : Status) (dm : BitVec 16) (src : BitVec 8) (k e : Nat) : (d.degraded c dm src k e).insts = d.insts := by simp [Dev.degraded]
@[simp] theorem Dev.note_mov (c : Status) (dm : BitVec 16) (src : BitVec 8) (k e : Nat) : (d.note c dm src k e).mov = d.mov := by simp [Dev.note]
@[simp] theorem Dev.degraded_mov (c : Status) (dm : BitVec 16) (src : BitVec 8) (k e : Nat) : (d.degraded c dm src k e).mov = d.mov := by simp [Dev.degraded]
@[simp] theorem Dev.note_barrels (c : Status) (dm : BitVec 16) (src : BitVec 8) (k e : Nat) : (d.note c dm src k e).barrels = d.barrels := by simp [Dev.note]
@[simp] theorem Dev.degraded_barrels (c : Status) (dm : BitVec 16) (src : BitVec 8) (k e : Nat) : (d.degraded c dm src k e).barrels = d.barrels := by simp [Dev.degraded]
@[simp] theorem Dev.note_tim (c : Status) (dm : BitVec 16) (src : BitVec 8) (k e : Nat) : (d.note c dm src k e).tim = d.tim := by simp [Dev.note]
@[simp] theorem Dev.degraded_tim (c : Status) (dm : BitVec 16) (src : BitVec 8) (k e : Nat) : (d.degraded c dm src k e).tim = d.tim := by simp [Dev.degraded]
@[simp] theorem Dev.note_atc (c : Status) (dm : BitVec 16) (src : BitVec 8) (k e : Nat) : (d.note c dm src k e).atc = d.atc := by simp [Dev.note]
@[simp] theorem Dev.degraded_atc (c : Status) (dm : BitVec 16) (src : BitVec 8) (k e : Nat) : (d.degraded c dm src k e).atc = d.atc := by simp [Dev.degraded]
@[simp] theorem Dev.note_cel (c : Status) (dm : BitVec 16) (src : BitVec 8) (k e : Nat) : (d.note c dm src k e).cel = d.cel := by simp [Dev.note]
@[simp] theorem Dev.degraded_cel (c : Status) (dm : BitVec 16) (src : BitVec 8) (k e : Nat) : (d.degraded c dm src k e).cel = d.cel := by simp [Dev.degraded]
@[simp] theorem Dev.note_mon (c : Status) (dm : BitVec 16) (src : BitVec 8) (k e : Nat) : (d.note c dm src k e).mon = d.mon := by simp [Dev.note]
@[simp] theorem Dev.degraded_mon (c : Status) (dm : BitVec 16) (src : BitVec 8) (k e : Nat) : (d.degraded c dm src k e).mon = d.mon := by simp [Dev.degraded]
@[simp] theorem Dev.note_hkc (c : Status) (dm : BitVec 16) (src : BitVec 8) (k e : Nat) : (d.note c dm src k e).hkc = d.hkc := by simp [Dev.note]
@[simp] theorem Dev.degraded_hkc (c : Status) (dm : BitVec 16) (src : BitVec 8) (k e : Nat) : (d.degraded c dm src k e).hkc = d.hkc := by simp [Dev.degraded]
@[simp] theorem Dev.note_units (c : Status) (dm : BitVec 16) (src : BitVec 8) (k e : Nat) : (d.note c dm src k e).units = d.units := by simp [Dev.note]
@[simp] theorem Dev.degraded_units (c : Status) (dm : BitVec 16) (src : BitVec 8) (k e : Nat) : (d.degraded c dm src k e).units = d.units := by simp [Dev.degraded]
@[simp] theorem Dev.note_ing (c : Status) (dm : BitVec 16) (src : BitVec 8) (k e : Nat) : (d.note c dm src k e).ing = d.ing := by simp [Dev.note]
@[simp] theorem Dev.degraded_ing (c : Status) (dm : BitVec 16) (src : BitVec 8) (k e : Nat) : (d.degraded c dm src k e).ing = d.ing := by simp [Dev.degraded]
@[simp] theorem Dev.note_chn (c : Status) (dm : BitVec 16) (src : BitVec 8) (k e : Nat) : (d.note c dm src k e).chn = d.chn := by simp [Dev.note]
@[simp] theorem Dev.degraded_chn (c : Status) (dm : BitVec 16) (src : BitVec 8) (k e : Nat) : (d.degraded c dm src k e).chn = d.chn := by simp [Dev.degraded]
@[simp] theorem Dev.note_spe (c : Status) (dm : BitVec 16) (src : BitVec 8) (k e : Nat) : (d.note c dm src k e).spe = d.spe := by simp [Dev.note]
@[simp] theorem Dev.degraded_spe (c : Status) (dm : BitVec 16) (src : BitVec 8) (k e : Nat) : (d.degraded c dm src k e).spe = d.spe := by simp [Dev.degraded]
@[simp] theorem Dev.note_xsp (c : Status) (dm : BitVec 16) (src : BitVec 8) (k e : Nat) : (d.note c dm src k e).xsp = d.xsp := by simp [Dev.note]
@[simp] theorem Dev.degraded_xsp (c : Status) (dm : BitVec 16) (src : BitVec 8) (k e : Nat) : (d.degraded c dm src k e).xsp = d.xsp := by simp [Dev.degraded]
@[simp] theorem Dev.note_trg (c : Status) (dm : BitVec 16) (src : BitVec 8) (k e : Nat) : (d.note c dm src k e).trg = d.trg := by simp [Dev.note]
@[simp] theorem Dev.degraded_trg (c : Status) (dm : BitVec 16) (src : BitVec 8) (k e : Nat) : (d.degraded c dm src k e).trg = d.trg := by simp [Dev.degraded]
@[simp] theorem Dev.note_instr (c : Status) (dm : BitVec 16) (src : BitVec 8) (k e : Nat) : (d.note c dm src k e).instr = d.instr := by simp [Dev.note]
@[simp] theorem Dev.degraded_instr (c : Status) (dm : BitVec 16) (src : BitVec 8) (k e : Nat) : (d.degraded c dm src k e).instr = d.instr := by simp [Dev.degraded]
@[simp] theorem Dev.note_den (c : Status) (dm : BitVec 16) (src : BitVec 8) (k e : Nat) : (d.note c dm src k e).den = d.den := by simp [Dev.note]
@[simp] theorem Dev.degraded_den (c : Status) (dm : BitVec 16) (src : BitVec 8) (k e : Nat) : (d.degraded c dm src k e).den = d.den := by simp [Dev.degraded]
@[simp] theorem Dev.note_sco (c : Status) (dm : BitVec 16) (src : BitVec 8) (k e : Nat) : (d.note c dm src k e).sco = d.sco := by simp [Dev.note]
@[simp] theorem Dev.degraded_sco (c : Status) (dm : BitVec 16) (src : BitVec 8) (k e : Nat) : (d.degraded c dm src k e).sco = d.sco := by simp [Dev.degraded]
@[simp] theorem Dev.note_raised (c : Status) (dm : BitVec 16) (src : BitVec 8) (k e : Nat) : (d.note c dm src k e).raised = d.raised := by simp [Dev.note]
@[simp] theorem Dev.degraded_raised (c : Status) (dm : BitVec 16) (src : BitVec 8) (k e : Nat) : (d.degraded c dm src k e).raised = d.raised := by simp [Dev.degraded]
@[simp] theorem Dev.note_freeCtr (c : Status) (dm : BitVec 16) (src : BitVec 8) (k e : Nat) : (d.note c dm src k e).freeCtr = d.freeCtr := by simp [Dev.note]
@[simp] theorem Dev.degraded_freeCtr (c : Status) (dm : BitVec 16) (src : BitVec 8) (k e : Nat) : (d.degraded c dm src k e).freeCtr = d.freeCtr := by simp [Dev.degraded]

end

end Sys2Proof.Machine
end

