-- ==== Sys2Proof/WellFormed.lean ====
section
/-!
DEFINITION. Commands whose operands have the lengths that the spec gives what they carry. Every other operand is bounded by
its type.
-/
namespace Sys2Proof

/-- Words of 8 bytes read from host memory (R116). -/
def HostData.words : HostData → Bool
  | .bytes b => b.length % 8 == 0
  | _ => true

/-- An access of the host carries at least one byte. -/
def BusAccess.nonempty : BusAccess → Bool
  | .read n => n != 0
  | .write b => !b.isEmpty

/-- The hits of one TDC line: 320 codes (R712). -/
def hitCount (hits : List (BitVec 23)) : Bool := hits.length == 320

/-- The counts of a scan: at most 127 steps to each side, each over 2^16 bits. -/
def EyePoints.fits (e : EyePoints) : Bool :=
  [e.right, e.left, e.up, e.down].all (fun l => decide (l.length ≤ 127) && l.all fun n => decide (n ≤ 65536)) &&
    decide (e.centre ≤ 65536)

/-- Well-formed commands. -/
def Instr.wf : Instr → Bool
  | .crateRead _ _ glist => glist.words
  | .admissionResume _ glist => glist.words
  | .load _ image => image.words
  | .bar4Access _ a => a.nonempty
  | .cxlMemAccess _ a => a.nonempty
  -- a scan goes at most 127 steps to each side, each on 2^16 bits (R285, R286)
  | .laneAcquisition _ _ _ eye => eye.fits
  | .eyeScan _ _ eye => eye.fits
  -- an AUX transaction carries at most 16 bytes (R511)
  | .auxReply _ _ data => decide (data.length ≤ 16)
  | .tdcCalibration _ _ hits => hitCount hits
  -- a raw sample for each CD30 clock that the command stands for
  | .comparatorEdge _ raw => !raw.isEmpty
  | .comparatorResolve _ raw => !raw.isEmpty
  | .standbyWakeEdge _ raw => !raw.isEmpty
  -- eight temperature inputs (R763)
  | .temperatureService raws => raws.length == 8
  -- four slices (R771), eight comparators (R772)
  | .cal sums => sums.length == 4
  | .ctrim trims => trims.length == 8
  -- nine stamp inputs (R714)
  | .calibrate sums trims _ hits =>
    (sums.isEmpty || sums.length == 4) && (trims.isEmpty || trims.length == 8) && (hits.isEmpty || hits.length == 9 && hits.all hitCount)
  | .unknownMailboxCommand cmd => cmd.toNat == 0 || decide (5 < cmd.toNat)
  | _ => true

end Sys2Proof
end

