-- ==== Sys2Proof/Tests/Slice0.lean ====
section
/-!
SUPPORT. The author's own tests: one command each on a small state, with expected results worked out from the rules, and the
states that meet the premises of the statements.
-/
open Sys2Proof Sys2Proof.Machine

set_option Elab.async false

namespace Sys2Proof.Tests

/-- What a command leaves of a state, where it answers one. -/
def after {α : Type} (s : State) (c : Instr) (f : State → α) : Option α :=
  match exec c s with
  | .next t => some (f t)
  | _ => none

/-- A device that differs from the empty one in what `f` sets. -/
def dev (f : Dev → Dev) : State := ({} : State).onDev f

/-- A device that serves the host, with the time base running. -/
def live (f : Dev → Dev) : State :=
  dev fun d => f { d with hkc := { d.hkc with ready := true, booting := false }, tim := { d.tim with started := true, count := 1000, ticks := 1000 } }

/-- A command changes nothing. -/
def stays (s : State) (c : Instr) : Bool := after s c (fun t => decide (t = s)) == some true

/-! Programs: one copy of session 1 on SPU 0. -/

def copy1 (r : Regs) : Inst := { uid := 1, num := 0, session := 1, prog := 3, seat := .onSpu 0, regs := r }
def onSpu (i : Inst) : State := live fun d => { d with insts := [(64, i)], stk := { d.stk with spus := [(0, { runs := some 64 })] } }
def h0 : Slot := { spu := 0, last := false }
def inst (s : State) : Inst := (Tbl.find? s.dev.insts 64).getD (copy1 {})
def regs (s : State) : Regs := (inst s).regs

/-- A slot of a copy with the given registers, then one of its registers. -/
def run {α : Type} (r : Regs) (c : Instr) (f : Regs → α) : Option α := after (onSpu (copy1 r)) c fun t => f (regs t)

/-! Relnex: scalar and predicate slots (R590 to R593). -/

def rs : Regs := { s := [(1, 0xFFFFFFFF), (2, 3), (4, 0x80000000), (5, 33)], p := [(1, 0x0F), (2, 0x33)], lc := [(2, 0xABCDEF)] }
def sc (c : Instr) (n : Nat) : Option (BitVec 32) := run rs c fun r => r.gs n
def pc_ (c : Instr) (n : Nat) : Option (BitVec 8) := run rs c fun r => r.gp n

/-- The premises of a slot: the copy is on its SPU, goes on, and the slots rise. -/
theorem meets_slotTurn : SlotTurn (onSpu (copy1 rs)) h0 0 64 (copy1 rs) { snap := rs, slot := 4 } ∧
    SlotTurn (onSpu { copy1 rs with issue := some { snap := rs, slot := 2, written := [.s 1] } }) h0 3 64
      { copy1 rs with issue := some { snap := rs, slot := 2, written := [.s 1] } } { snap := rs, slot := 2, written := [.s 1] } :=
  ⟨⟨rfl, rfl, rfl, .inl ⟨rfl, rfl⟩, rfl⟩, ⟨rfl, rfl, rfl, .inr ⟨rfl, by decide⟩, rfl⟩⟩

theorem test_scalar_arithmetic : sc (.add h0 3 1 2) 3 = some 2 ∧ sc (.sub h0 3 2 1) 3 = some 4 ∧ sc (.mul h0 3 1 2) 3 = some 0xFFFFFFFD ∧
    sc (.mulh h0 3 1 2) 3 = some 0xFFFFFFFF ∧ sc (.mulhu h0 3 1 2) 3 = some 2 ∧ sc (.min_ h0 3 1 2) 3 = some 0xFFFFFFFF ∧ sc (.max_ h0 3 1 2) 3 = some 3 := by decide

theorem test_scalar_logic : sc (.and_ h0 3 1 2) 3 = some 3 ∧ sc (.or_ h0 3 2 4) 3 = some 0x80000003 ∧ sc (.xor_ h0 3 1 2) 3 = some 0xFFFFFFFC ∧
    sc (.shl h0 3 2 5) 3 = some 6 ∧ sc (.shr h0 3 4 5) 3 = some 0x40000000 ∧ sc (.sra h0 3 4 5) 3 = some 0xC0000000 := by decide

theorem test_scalar_immediate : sc (.addi h0 3 2 0xFFF) 3 = some 2 ∧ sc (.andi h0 3 4 0x800) 3 = some 0x80000000 ∧ sc (.ori h0 3 2 0x800) 3 = some 0xFFFFF803 ∧
    sc (.xori h0 3 1 0xFFF) 3 = some 0 ∧ sc (.shli h0 3 2 31) 3 = some 0x80000000 ∧ sc (.shri h0 3 4 31) 3 = some 1 ∧ sc (.srai h0 3 4 31) 3 = some 0xFFFFFFFF ∧
    sc (.movi h0 3 0x8000) 3 = some 0xFFFF8000 ∧ sc (.movhi h0 2 0x1234) 2 = some 0x12340003 := by decide

/-- A guard that is off leaves the destination (R587). -/
theorem test_guard_off : run rs (.add { h0 with pred := 2, neg := true } 3 1 2) (fun r => r.gs 3) = some 0 ∧
    run rs (.add { h0 with pred := 2 } 3 1 2) (fun r => r.gs 3) = some 2 := by decide

theorem test_compares : pc_ (.cmp h0 3 2 1 2) 3 = some 0xFF ∧ pc_ (.cmp h0 3 4 1 2) 3 = some 0 ∧ pc_ (.cmpi h0 3 0 1 0x7FF) 3 = some 0xFF ∧
    pc_ (.cmp h0 3 1 1 1) 3 = some 0 ∧ pc_ (.cmp h0 3 3 2 1) 3 = some 0xFF ∧ pc_ (.cmpi h0 3 5 1 1) 3 = some 0xFF := by decide

/-- FN is indexed by 2 × px + py: 8 is AND, 14 is OR, 6 is XOR; a write to p0 is ignored (R534). -/
theorem test_predicate_logic : pc_ (.plog h0 3 1 2 8) 3 = some 0x03 ∧ pc_ (.plog h0 3 1 2 14) 3 = some 0x3F ∧ pc_ (.plog h0 3 1 2 6) 3 = some 0x3C ∧
    pc_ (.pwr h0 3 2) 3 = some 3 ∧ pc_ (.pwr h0 0 2) 0 = some 0xFF ∧ sc (.prd h0 3 1) 3 = some 0x0F ∧ sc (.mflc h0 3 2) 3 = some 0xABCDEF := by decide

/-! The A slot (R600, R601). -/

def ra : Regs := { s := [(1, 0xFF000005)], a := [(1, 0xFFFFFF), (2, 0x40010)], m := [(1, 0xFFFFFE), (2, 8)] }
def ar (c : Instr) (n : Nat) : Option (BitVec 24) := run ra c fun r => r.ga n

theorem test_address_slot : ar (.aadd h0 3 1 2) 3 = some 7 ∧ ar (.aadd h0 3 2 1) 3 = some 0x4000E ∧ ar (.aaddi h0 3 1 0x3FFF) 3 = some 0xFFFFFE ∧
    ar (.aadds h0 3 2 1) 3 = some 0x40015 ∧ ar (.ali h0 3 0x3FFFF) 3 = some 0x3FFFF ∧ ar (.ahi h0 2 0x3F) 2 = some 0xFC0010 ∧ ar (.afs h0 3 1) 3 = some 5 ∧
    run ra (.mset h0 3 0x20000) (fun r => r.gm 3) = some 0xFE0000 ∧ run ra (.mfs h0 3 1) (fun r => r.gm 3) = some 5 ∧
    run ra (.ats h0 3 1) (fun r => r.gs 3) = some 0x00FFFFFF ∧ run ra (.mts h0 3 1) (fun r => r.gs 3) = some 0xFFFFFFFE := by decide

/-! The M slot (R545 to R550, R602 to R606). -/

def cell (i q : Int) (tag : BitVec 4 := 0) : Cell := { data := BitVec.ofInt 18 i ++ BitVec.ofInt 18 q, tag }
def rv : Regs := { c := [(8, cell 131071 (-131072)), (9, cell 100 200 1), (16, cell 1 (-1)), (17, cell 3 4 2)], p := [(1, 0x01)], s := [(1, 0x80000001)]
                   q := [(8, { i := 0x7FFFFFFFFFFF, q := 0x0000FFFF8000, tag := 1 }), (9, { i := 0x000000018000, q := 0xFFFFFFFE8000, tag := 1 })] }
def cl (c : Instr) (n l : Nat) : Option Cell := run rv c fun r => r.gc n l

/-- Both halves saturate alone; the tag of a lane is the highest ranking, OVERRANGE over SETTLING (R548, R549). -/
theorem test_vector_add_saturates : cl (.vadd h0 3 1 2) 3 0 = some (cell 131071 (-131072)) ∧ cl (.vsub h0 3 2 1) 3 0 = some (cell (-131070) 131071) ∧
    cl (.vadd h0 3 1 2) 3 1 = some (cell 103 204 2) ∧ arithTag [0, 7] = 3 ∧ arithTag [1, 0] = 1 ∧ arithTag [4, 5] = 0 := by decide

theorem test_vector_moves : cl (.vconj h0 3 1) 3 0 = some (cell 131071 131071) ∧ cl (.vmov h0 3 1) 3 1 = some (cell 100 200 1) ∧
    cl (.vbcast h0 3 1 1) 3 7 = some (cell 100 200 1) ∧ cl (.vspls h0 3 1) 3 5 = some { data := 0xF80000001, tag := 0 } ∧
    cl (.vtags h0 3 1 5) 3 0 = some (cell 131071 (-131072) 5) ∧ cl (.vtagg h0 3 1) 3 1 = some { data := 1, tag := 0 } ∧
    run rv (.vext h0 3 1 1) (fun r => r.gs 3) = some 26214600 := by decide

/-- (131071 − 131072 i)(1 − i) = −1 − 262143 i, narrowed by 17 bits; a reserved shift is illegal (R583, R604). -/
theorem test_vector_multiply : cl (.vcmul h0 3 1 2 false false 0) 3 0 = some (cell 0 (-2)) ∧ cl (.vcmul h0 3 1 2 false false 16) 3 0 = some (cell 0 (-131071)) ∧
    run rv (.vcmac h0 1 2 2 { cy := true, clr := true }) (fun r => (r.gq 1 1, r.gq 1 0)) =
      some ({ i := 25, q := 0, tag := 2 }, { i := 2, q := 0, tag := 0 }) ∧
    run rv (.vcmac h0 1 1 2 { re := true, sub := true, clr := true }) (fun r => r.gq 1 1) = some { i := -300, q := -600, tag := 2 } := by decide

/-- The worked example of 12: 384 products of 0.25 saturate in VNARROW, and a lane that the guard leaves off stays. -/
theorem test_accumulators : run { rv with q := [(8, { i := 0x18000000000, q := 0, tag := 0 })] } (.vnarrow h0 3 1 0) (fun r => r.gc 3 0) = some (cell 131071 0) ∧
    run rv (.vnarrow h0 3 1 16) (fun r => r.gc 3 1) = some (cell 49152 (-49152) 1) ∧
    run rv (.vqclr { h0 with pred := 1 } 1) (fun r => (r.gq 1 0, r.gq 1 1)) =
      some ({}, { i := 0x000000018000, q := 0xFFFFFFFE8000, tag := 1 }) ∧
    run { rv with q := [(0, { i := 0x7FFFFFFFFFFF, q := 5 }), (8, { i := 1, q := -6, tag := 3 })] } (.vqadd h0 0 1) (fun r => r.gq 0 0) =
      some { i := 0x800000000000, q := -1, tag := 3 } := by decide

/-- A sum of a q register that leaves 48 bits sets AOV (R550). -/
theorem test_flags : after (onSpu (copy1 { rv with q := [(0, { i := 0x7FFFFFFFFFFF, q := 5 }), (8, { i := 1, q := 6 })] })) (.vqadd h0 0 1)
      (fun t => (inst t).issue.map (·.sets)) = some (some 0x02) ∧
    after (onSpu (copy1 rv)) (.vadd h0 3 1 2) (fun t => (inst t).issue.map (·.sets)) = some (some 0x05) := by decide

theorem test_vcmp : run rv (.vcmp h0 3 1 2 2) (fun r => r.gp 3) = some 0 ∧ run rv (.vcmp h0 3 1 2 0) (fun r => r.gp 3) = some 0xFC ∧
    run rv (.vcmp h0 3 1 0 4) (fun r => r.gp 3) = some 0x02 ∧ run rv (.vcmp { h0 with pred := 1 } 3 2 1 3) (fun r => r.gp 3) = some 0 := by decide

/-! Relnex: control flow, services, memory and queues. -/

def prog1 : Program := { session := 1, handle := 3, base := 0, pages := 1, codeBundles := 100, dataCells := 8, liveCells := 0x1000, entry := 0 }

/-- The copy with a program of 100 bundles and Loft page 5. -/
def withProg (i : Inst) (f : State → State := id) : State :=
  f ((onSpu i).onDev fun d => { d with stk := { d.stk with programs := [prog1], loft := [(5, { session := 1, handle := 7 }), (6, { session := 2, handle := 7 })] } })
def h1 : Slot := { spu := 0 }
def rc : Regs := { s := [(1, 20), (2, 7), (31, 50)], a := [(1, 0x814000), (2, 0x200), (3, 0x818000), (4, 0xFFFFFF), (5, 0x400001)], pc := 10, m := [(1, 5)], p := [(1, 0x03)] }
def go {α : Type} (r : Regs) (c : Instr) (f : State → α) : Option α := after (withProg (copy1 r)) c f
def at_ (c : Instr) : Option (Nat × List Level) := go rc c fun t => ((regs t).pc, (regs t).levels)

theorem meets_closes : Closes (withProg (copy1 rc)) h1 (copy1 rc) { snap := rc, slot := 4 } where
  plain := by decide +kernel
  room := ⟨prog1, by decide⟩
  inside := by decide +kernel
  going := by decide +kernel
  quiet := by
    intro p hp n
    have h : p = (64, copy1 rc) := List.mem_singleton.mp hp
    subst h
    rfl

theorem test_transfers : at_ (.nop h1 0) = some (11, []) ∧ at_ (.br h1 30) = some (30, []) ∧ at_ (.call h1 40) = some (40, []) ∧ at_ (.ret h1) = some (50, []) ∧
    at_ (.brx h1 1) = some (20, []) ∧ go rc (.call h1 40) (fun t => (regs t).gs 31) = some 11 ∧ at_ (.br { h1 with pred := 1, neg := true } 30) = some (11, []) := by decide +kernel

/-- A target at or beyond the end of the code is a fault (R594): the copy ends. -/
theorem test_bad_target : go rc (.br h1 100) (fun t => (Tbl.find? t.dev.insts 64).isNone) = some true ∧ at_ (.br h1 99) = some (99, []) := by decide +kernel

theorem test_repeats : go rc (.repi h1 128 3) (fun t => ((regs t).levels, (regs t).glc 0, (regs t).pc)) = some ([{ first := 11, last := 13 }], 128, 11) ∧
    go rc (.rep h1 2 1) (fun t => ((regs t).levels, (regs t).glc 0)) = some ([{ first := 11, last := 11 }], 7) ∧
    at_ (.repi h1 0 3) = some (14, []) := by decide +kernel

theorem test_block_end :
    go { rc with levels := [{ first := 8, last := 10 }], lc := [(0, 2)] } (.nop h1 0) (fun t => ((regs t).pc, (regs t).levels.length, (regs t).glc 0)) = some (8, 1, 1) ∧
    go { rc with levels := [{ first := 8, last := 10 }], lc := [(0, 1)] } (.nop h1 0) (fun t => ((regs t).pc, (regs t).levels.length, (regs t).glc 0)) = some (11, 0, 0) := by
  decide +kernel

theorem test_mfc : go { rc with flags := 0x21 } (.mfc h0 3 0) (fun t => (regs t).gs 3) = some 0x21 ∧ go rc (.mfc h0 3 2) (fun t => (regs t).gs 3) = some 0 ∧
    go rc (.mfc h0 3 3) (fun t => (regs t).gs 3) = some 1 ∧ go rc (.mfc h0 3 6) (fun t => ((regs t).gs 3, (regs t).timeLatch)) = some (256000, 256000) := by decide +kernel

theorem test_mtc : go { rc with flags := 0x3F } (.mtc h1 2 0) (fun t => (regs t).flags) = some 0x38 ∧ go rc (.mtc h1 2 1) (fun t => (regs t).lwin) = some 7 ∧
    go rc (.mtc h1 2 0x0D) (fun t => Tbl.get 0 (regs t).cbBase 1) = some 7 ∧ go rc (.mtc h1 2 4) (fun t => (regs t).gs 2) = some 7 := by decide +kernel

def sub1 (n : BitVec 8) : Inst := { copy1 rc with ev := [(1, { sel := 0x1300, count := n, last := 99 }), (2, { sel := 0x1301, count := 1 })] }

theorem test_waitev : after (withProg (sub1 2)) (.waitev h1 3 0x06) (fun t => ((regs t).gs 3, ((inst t).entry 1).count, (regs t).evt, (regs t).pc)) = some (1, 1, 99, 11) ∧
    after (withProg (sub1 0)) (.waitev h1 3 0x02) (fun t => ((inst t).waiting, (regs t).pc)) = some (true, 10) := by decide +kernel

theorem test_services : go rc (.sigev h1 false 0 5) (fun t => t.dev.raised) = some [{ id := 0xA05, time := 256000, reach := some 1 }] ∧
    go rc (.sigev h1 true 1 0) (fun t => t.dev.raised.map (·.id)) = some [0xA14] ∧
    after (withProg { copy1 rc with setups := [{ idx := 0, result := some .ok }, { idx := 1, result := some .cfgRange }], nextSetup := 2 }) (.setw h1 3)
      (fun t => ((regs t).gs 3, (inst t).setups)) = some (0x51, []) ∧
    after (withProg { copy1 rc with setups := [{ idx := 0 }], nextSetup := 1 }) (.setw h1 3) (fun t => (inst t).waiting) = some true ∧
    after (withProg (copy1 rc) fun s => s.onDev fun d => { d with spa := { d.spa with dbgEn := true } }) (.bkpt h1) (fun t => ((inst t).halted, (regs t).pc)) = some (true, 11) := by
  decide +kernel

def crate (raw : BitVec 512) : Live := { uid := 1, session := 1, hatch := 1, index := 0, raw, phase := .active, started := 1 }
/-- A RUN of one copy. -/
def runRaw : BitVec 512 := BitVec.ofNat 512 (1 + 2 ^ 288)
def exiting : State := withProg { copy1 { rc with s := [(2, 0x11), (3, 0x22)] } with num := 0 } fun s => s.onDev fun d =>
  { d with hlk := { d.hlk with live := [crate runRaw] } }

theorem test_exit : after exiting (.exit h1) (fun t => (t.dev.insts, (t.dev.spu 0).runs, (t.dev.live? 1).map (·.ended), (t.dev.live? 1).map (·.result0))) =
    some ([], none, some 1, some 0x2200000011) := by decide +kernel

def lm : Inst := { copy1 rc with loc := [(0x200, { data := 0xF80000005, tag := 1 }), (0x201, { data := 5, tag := 2 }), (0x202, { data := 6 })] }
def ad2 : AddrOp := { a := 2 }

theorem test_loads : after (withProg lm) (.lds h1 3 ad2) (fun t => (regs t).gs 3) = some 0x80000005 ∧
    after (withProg lm) (.ld1 h1 3 { ad2 with k := 4 }) (fun t => (regs t).gc 3 4) = some { data := 0xF80000005, tag := 1 } ∧
    after (withProg lm) (.ldv { h1 with pred := 1 } 3 { ad2 with pm := 2, off := 0xFF }) (fun t => ((regs t).gc 3 1, (regs t).gc 3 2, (regs t).ga 2)) =
      some ({ data := 5, tag := 2 }, {}, 0x1FF) ∧
    after (withProg lm) (.ldq h1 1 { ad2 with pm := 1, off := 0x10 }) (fun t => ((regs t).gq 1 0, (regs t).ga 2)) =
      some ({ i := 0x006F80000005, q := 0x000000000005, tag := 1 }, 0x205) := by decide +kernel

/-- An image cell of the program, and the first cell beyond it. -/
theorem test_image : go rc (.lds h1 3 { a := 5 }) (fun t => (regs t).pc) = some 11 ∧
    go { rc with a := [(5, 0x400008)] } (.lds h1 3 { a := 5 }) (fun t => (Tbl.find? t.dev.insts 64).isNone) = some true := by decide +kernel

def e0 (r : Regs) : Issue := { snap := r, slot := 4 }
def lo5 : Nat := 5 * 16384

theorem test_stores : go rc (.sts h1 { a := 1 } 1) (fun t => t.mem.loft) = some [(lo5, { data := 20 })] ∧
    go { rc with c := [(8, { data := 9, tag := 15 })] } (.st1 h1 { a := 1 } 1) (fun t => t.mem.loftGet lo5) = some { data := 9, tag := 3 } ∧
    go { rc with c := [(9, { data := 9, tag := 1 })] } (.stv { h1 with pred := 1 } { a := 2 } 1) (fun t => (Tbl.get {} (inst t).loc 0x201, (inst t).loc.length)) =
      some ({ data := 9, tag := 1 }, 2) ∧
    go { rc with q := [(0, { i := 0x18000000000, q := 0, tag := 0 })] } (.stq h1 ad2 0) (fun t => (List.range 3).map fun k => (Tbl.get {} (inst t).loc (0x200 + k)).data) =
      some [0, 0, 24] := by decide +kernel

/-- The same window cell with bit 3 of its stored word in error: the load takes the corrected cell, the word is mended and reported (R791, R792). -/
def flipped : State := withProg (copy1 rc) fun s => s.onMem fun m => (m.loftPut lo5 { data := 0x800000077, tag := 2 }).loftFlip lo5 8
theorem test_corrected_load : after flipped (.lds h1 3 { a := 1 }) (fun t => ((regs t).gs 3, t.mem.loftErr.isEmpty, t.dev.rel.queue.map fun r => (r.sev.toNat, r.domain.toNat, r.addr.toNat))) =
    some (0x77, true, [(1, 0x1001, 0x814000)]) := by decide +kernel
theorem meets_correctedReads : flipped.mem.loftRead lo5 = .corrected { data := 0x800000077, tag := 2 } ∧ WindowOwned flipped (copy1 rc) (e0 rc) 0x814000 ∧
    flipped.dev.rel.queue.length < 64 ∧ windowCell (e0 rc).snap.lwin 0x814000 = lo5 := ⟨by decide +kernel, rfl, by decide, rfl⟩

/-- A store into a page of another session ends the copy and changes no cell (R526, R541, R573). -/
theorem test_foreign_store : go rc (.sts h1 { a := 3 } 1) (fun t => (t.mem.loft, (Tbl.find? t.dev.insts 64).isNone)) = some ([], true) := by decide +kernel

theorem test_atom : after (withProg (copy1 rc) fun s => s.onMem fun m => m.loftPut lo5 { data := 0xFFFFFFFFE, tag := 2 }) (.atom h1 3 1 2 0)
      (fun t => ((regs t).gs 3, t.mem.loftGet lo5)) = some (0xFFFFFFFE, { data := 5, tag := 0 }) ∧
    after (withProg (copy1 rc) fun s => s.onMem fun m => m.loftPut lo5 { data := 0xFFFFFFFFE, tag := 2 }) (.atom h1 3 1 2 4)
      (fun t => (t.mem.loftGet lo5).data) = some 7 ∧
    after (withProg (copy1 rc) fun s => s.onMem fun m => m.loftPut lo5 { data := 7 }) (.atom h1 2 1 1 5) (fun t => ((regs t).gs 2, (t.mem.loftGet lo5).data)) =
      some (7, 20) := by decide +kernel

def qs (n : Nat) : Inst := { copy1 rc with iq := [(1, { bind := 1, cells := (List.range n).map fun k => { cell := { data := BitVec.ofNat 36 (k + 1) } } })] }

theorem test_queue_reads : after (withProg (qs 2)) (.qrd1 h1 3 1 false 2) (fun t => ((regs t).gc 3 2, ((inst t).inq 1).cells.length)) = some ({ data := 1 }, 1) ∧
    after (withProg (qs 0)) (.qrd1 h1 3 1 true 2) (fun t => ((regs t).gc 3 2, (regs t).flags)) = some ({ data := 0, tag := 15 }, 0x08) ∧
    after (withProg (qs 0)) (.qrd1 h1 3 1 false 2) (fun t => ((inst t).waiting, (regs t).pc)) = some (true, 10) ∧
    after (withProg (qs 9)) (.qrd8 h1 3 1 false) (fun t => ((regs t).gc 3 7, ((inst t).inq 1).cells.length)) = some ({ data := 8 }, 1) ∧
    after (withProg (qs 9)) (.qflush h1 1) (fun t => (((inst t).inq 1).cells.length, ((inst t).inq 1).gapNext)) = some (0, true) ∧
    go rc (.lfence h1) (fun t => (regs t).pc) = some 11 := by decide +kernel

def strm : Stream := { session := 1, src := 2, cmpe := 0xFF, rate := 1, rbase := 0, rlog2 := 1, mover := 0 }
def qo (bind : BitVec 32) : State := withProg { copy1 { rc with c := [(9, { data := 4 })] } with oq := [(0, { bind })] } fun s =>
  s.onDev fun d => { d with mov := { d.mov with streams := [(3, strm)] } }

theorem test_queue_writes : after (qo 0) (.qwr1 h1 1 0 false true 1) (fun t => (regs t).flags) = some 0x10 ∧
    after (qo 13) (.qwr1 h1 1 0 false true 1) (fun t => (Tbl.find? t.dev.mov.streams 3).map (·.queue)) = some (some [{ cell := { data := 4 }, eop := true }]) ∧
    after (qo 13) (.qwr8 h1 1 0 true true) (fun t => (Tbl.find? t.dev.mov.streams 3).map fun x => x.queue.map (·.eop)) =
      some (some [false, false, false, false, false, false, false, true]) := by decide +kernel

/-! Belys queues, sessions and the link. -/

/-- A Crate from its fields: byte offset and value. -/
def craw (l : List (Nat × Nat)) : BitVec 512 := BitVec.ofNat 512 (l.foldl (fun a (o, v) => a + v * 2 ^ (8 * o)) 0)

/-- The Crate of the example of 02: RUN, TAG 0x0123, class 2, IRQ, one dependency. -/
def exRun : BitVec 512 := craw [(0, 1), (2, 0x0123), (4, 0x1A), (5, 3), (8, 0x5F9C9000), (16, 0x10000122), (32, 3), (36, 4), (37, 1), (38, 2), (40, 0x400),
  (48, 0x1300000000000021), (56, 0x2200000000000012)]
def ses5 : Session := { st := .opened, chitBase := 0x2040100000, chitLog2 := 10, vecBase := 80, vecCount := 16, qInflight := 16, qSpus := 8, chitCount := 1724, chitHead := 1724 }
def exHatch (tail : BitVec 32) : Hatch := { owner := 5, n := 8, base := 0x2040000000, head := 41, tail, wroteBack := 32 }
def exDev (l : List Live) (tail : BitVec 32) (f : Dev → Dev := id) : State := live fun d => f { d with
  tim := { d.tim with count := 1600000000, ticks := 1600000000 }
  hlk := { d.hlk with sessions := [(5, ses5)], hatches := [(12, exHatch tail)], live := l, nextUid := 7, unmasked := [(83, true)] }
  stk := { d.stk with programs := [{ prog1 with session := 5 }], loft := [(200, { session := 5, handle := 0x21 })] } }
def hatch12 (t : State) : Hatch := (Tbl.find? t.dev.hlk.hatches 12).getD { owner := 0, n := 0, base := 0 }

theorem test_doorbell : after (exDev [] 41) (.hatchTail 12 42) (fun t => (hatch12 t).tail) = some 42 ∧
    after (exDev [] 41) (.hatchTail 12 297) (fun t => (hatch12 t).tail) = some 297 ∧
    after (exDev [] 41) (.hatchTail 12 298) (fun t => ((hatch12 t).tail, Tbl.get 0 t.dev.hlk.badDb 12, t.dev.hlk.errStat)) = some (41, 1, 4) ∧
    after (exDev [] 41) (.hatchTail 13 1) (fun t => (Tbl.get 0 t.dev.hlk.badDb 13, t.dev.hlk.errStat)) = some (1, 4) ∧
    after (exDev [] 41) (.chitHead 12 1725) (fun t => (t.dev.session 5).chitHead) = some 1724 ∧
    after (exDev [] 41 fun d => d.onSession 5 fun q => { q with chitCount := 1725 }) (.chitHead 12 1725) (fun t => (t.dev.session 5).chitHead) = some 1725 := by decide +kernel

/-- Steps 3 and 4 of the example. -/
theorem test_crate_read : after (exDev [] 42) (.crateRead 12 exRun (.bytes [])) (fun t => (t.dev.hlk.live.map fun c => (c.uid, c.session, c.admitted), (hatch12 t).head)) =
      some ([(7, 5, true)], 42) ∧
    after (exDev [] 42) (.crateRead 12 exRun (.bytes [])) (fun t => t.dev.hlk.live.map fun c => (c.cls, c.phase)) = some [(2, .ready 1600000000)] ∧
    after (exDev [] 42) (.crateRead 12 exRun (.bytes [])) (fun t => t.dev.host) = some [.write 0x2040004000 [42, 0, 0, 0, 0, 0, 0, 0]] := by decide +kernel

/-- A tag in flight, a program that is not there, a full quota. -/
theorem test_admission : after (exDev [{ uid := 1, session := 5, hatch := 12, index := 40, raw := craw [(0, 8), (2, 0x0123)] }] 42) (.crateRead 12 exRun (.bytes []))
      (fun t => t.dev.hlk.live.map fun c => (c.phase, c.status)) = some [(.waiting, .ok), (.decided, .cfgRange)] ∧
    after (exDev [] 42 fun d => { d with stk := { d.stk with programs := [] } }) (.crateRead 12 exRun (.bytes [])) (fun t => t.dev.hlk.live.map fun c => c.status) = some [.grantFault] ∧
    after (exDev [] 42 fun d => d.onSession 5 fun q => { q with qInflight := 0 }) (.crateRead 12 exRun (.bytes [])) (fun t => (t.dev.hlk.live, (hatch12 t).waiting)) =
      some ([], some exRun) ∧
    after (exDev [] 42 fun d => (d.onSession 5 fun q => { q with qInflight := 1 }).onHatch 12 fun x => { x with waiting := some exRun }) (.admissionResume 12 (.bytes []))
      (fun t => (t.dev.hlk.live.length, (hatch12 t).waiting)) = some (1, none) ∧
    after (exDev [] 42 fun d => d.onSession 5 fun q => { q with qPrio := 3 }) (.crateRead 12 exRun (.bytes [])) (fun t => t.dev.hlk.live.map fun c => c.status) = some [.quota] ∧
    after (exDev [] 42) (.hatchSlotFault 12 true) (fun t => (t.dev.hlk.live.map fun c => (c.status, c.admitted), t.dev.rel.queue.map (·.sev))) = some ([(.timeout, false)], [2]) := by decide +kernel

/-- A Crate held at its Hatch waits while 1,024 Crates are in flight (R113). -/
theorem test_inflight_limit : stays (exDev (List.replicate 1024 { uid := 1, session := 6, hatch := 13, index := 40, raw := craw [(0, 8), (2, 7)], admitted := true }) 42
    fun d => d.onHatch 12 fun x => { x with waiting := some exRun }) (.admissionResume 12 (.bytes [])) = true := by decide +kernel

def exLive (p : Phase) (deps : List Dep := []) : Live := { uid := 6, session := 5, hatch := 12, index := 41, raw := exRun, phase := p, deps, result1 := 4, ctime := 0x5F8CF800, irqVec := some 3 }

theorem test_dependencies : after (exDev [exLive .waiting [.met]] 42) (.dependencySatisfied 6) (fun t => t.dev.hlk.live.map (·.phase)) = some [.ready 1600000000] ∧
    stays (exDev [exLive .waiting [.met, .tag 3 true]] 42) (.dependencySatisfied 6) = true := by decide +kernel

/-- The Chit of the example: slot 700 of the ring, PHASE 0, vector 83. -/
theorem test_chit : after (exDev [exLive .decided] 42) (.chitIssue 6) (fun t => (t.dev.host, t.dev.hlk.live, (t.dev.session 5).chitCount, t.dev.raised.map (·.id))) =
    some ([.write 0x2040105780 ([0x23, 0x01, 0x00, 0x00, 12, 0, 0, 0, 41, 0, 0, 0, 4, 0, 0, 0] ++ [0, 0, 0, 0, 0, 0, 0, 0] ++ [0x00, 0xF8, 0x8C, 0x5F, 0, 0, 0, 0]), .msix 83],
      [], 1725, [0x901]) := by decide +kernel

/-- A full ring holds the Chit; room releases it with HELD set. -/
theorem test_held_chit : after (exDev [exLive .decided] 42 fun d => d.onSession 5 fun q => { q with chitHead := 700 }) (.chitIssue 6)
      (fun t => ((t.dev.session 5).held.map fun k => (k.uid, k.held), t.dev.hlk.errStat, t.dev.hlk.live.length)) = some ([(6, true)], 0x10, 1) ∧
    after (exDev [exLive .decided] 42 fun d => d.onSession 5 fun q => { q with held := [(exLive .decided).chit true] }) (.heldChitRelease 5)
      (fun t => ((t.dev.session 5).held, t.dev.hlk.live, t.dev.host.length)) = some ([], [], 2) := by decide +kernel

theorem test_coalesce : after (live fun d => { d with hlk := { d.hlk with coal := [(83, { inInterval := true, pending := true })], unmasked := [(83, true)] } }) (.coalesceIntervalEnd 83)
      (fun t => (t.dev.host, Tbl.get {} t.dev.hlk.coal 83)) = some ([.msix 83], { inInterval := true, pending := false }) ∧
    after (live fun d => { d with hlk := { d.hlk with coal := [(83, { inInterval := true, pending := true })] } }) (.coalesceIntervalEnd 83)
      (fun t => (t.dev.host, Tbl.get false t.dev.hlk.msiPending 83)) = some ([], true) ∧
    after (live fun d => { d with hlk := { d.hlk with coal := [(83, { inInterval := true })] } }) (.coalesceIntervalEnd 83) (fun t => Tbl.get {} t.dev.hlk.coal 83) = some {} := by decide +kernel

/-! Link, sessions, ADMIN. -/

def staged (f : Dev → Dev := id) : State := live fun d => f { d with hkc := { d.hkc with stage := 9 } }

theorem test_link :
    after (staged fun d => { d with hlk := { d.hlk with linkCtl := 3 } }) (.moduleTraining 1 3 0x2 0x11 false) (fun t => (t.dev.moduleRate 1, t.dev.hlk.errStat)) = some (1, 2) ∧
    after (staged fun d => { d with hlk := { d.hlk with linkStat := 0x31 } }) .retrain0 (fun t => (bit t.dev.hlk.linkStat 0, t.dev.hlk.linkCtl)) = some (false, 7) ∧
    after (staged fun d => { d with hlk := { d.hlk with linkStat := 0xF3 } }) .retrain1 (fun t => bit t.dev.hlk.linkStat 1) = some false ∧
    after (staged fun d => { d with hlk := { d.hlk with linkStat := 0xF3 } }) (.moduleDegrade 1 false) (fun t => (bit t.dev.hlk.linkStat 3, t.dev.rel.queue.map (·.code))) = some (true, [0x60]) ∧
    after (staged fun d => { d with hlk := { d.hlk with linkStat := 0xF3 } }) (.disable 2) (fun t => (bit t.dev.hlk.linkStat 0, bit t.dev.hlk.linkStat 1)) = some (true, false) ∧
    after (staged) .snoop (fun t => t.dev.host) = some [.snoopInvalid] ∧
    after (staged fun d => { d with hlk := { d.hlk with hdmGib := 16 } }) (.hdmDecoderCommit 16 0x100) (fun t => (t.dev.hlk.hdmDecoder, t.dev.host)) = some (some (16, 0x100), [.hdmResult true]) ∧
    after (staged fun d => { d with hlk := { d.hlk with hdmGib := 16 } }) (.hdmDecoderCommit 17 0x100) (fun t => (t.dev.hlk.hdmDecoder, t.dev.host)) = some (none, [.hdmResult false]) := by decide +kernel

/-- Training that ends at half width, or with the module down, writes one LINK_DEGRADED record (R79). -/
theorem test_training_records : after (staged fun d => { d with hlk := { d.hlk with linkCtl := 3 } }) (.moduleTraining 1 3 0xE 0x11 true)
      (fun t => (t.dev.moduleRate 1, bit t.dev.hlk.linkStat 3, t.dev.rel.queue.map (·.code))) = some (3, true, [0x60]) ∧
    after (staged fun d => { d with hlk := { d.hlk with linkCtl := 3 } }) (.moduleTraining 1 3 0 0 false)
      (fun t => (bit t.dev.hlk.linkStat 1, t.dev.rel.queue.map (·.code))) = some (false, [0x60]) ∧
    after (staged fun d => { d with hlk := { d.hlk with linkStat := 0xF3 } }) (.moduleDegrade 1 true) (fun t => (bit t.dev.hlk.linkStat 1, t.dev.rel.queue.map (·.code))) = some (false, [0x60]) := by decide +kernel

theorem test_admin_session : after (live fun d => { d with hlk := { d.hlk with admHatchBase := 0x3000, admChitBase := 0x5000 } }) (.adminSessionEnable 0x10704)
      (fun t => ((t.dev.session 0).st, (t.dev.session 0).chitLog2, Tbl.find? t.dev.hlk.hatches 0)) = some (.opened, 7, some { owner := 0, n := 4, base := 0x3000 }) ∧
    after (live fun d => { d with hlk := { d.hlk with admHatchBase := 0x3000 } }) (.adminSessionEnable 0x10703) (fun t => ((t.dev.session 0).st, t.dev.rel.queue.map (·.code))) =
      some (.closed, [0x51]) := by decide +kernel

/-- An ADMIN Crate on Hatch 0, ready, and a session 9. -/
def adm (l : List (Nat × Nat)) (f : Dev → Dev := id) : State := live fun d => f { d with
  hlk := { d.hlk with
    sessions := [(0, { st := .opened, chitLog2 := 7, vecBase := 16, vecCount := 16 }), (9, { st := .opened, vecBase := 64, vecCount := 16, qShelves := 5 })]
    hatches := [(0, { owner := 0, n := 4, base := 0 }), (20, { owner := 9, n := 5, base := 0x7000 })]
    live := [{ uid := 2, session := 0, hatch := 0, index := 0, raw := craw ([(0, 15), (2, 0x33)] ++ l), phase := .ready 900 }] } }
/-- Crate 2 is decided with OK and the given results. -/
def done (t : State) (r0 : BitVec 64 := 0) (r1 : BitVec 32 := 0) : Bool :=
  (t.dev.live? 2).any fun c => c.phase == .decided && c.status == .ok && c.result0 == r0 && c.result1 == r1
def stat (t : State) : Option Status := (t.dev.live? 2).map (·.status)

theorem test_admin_sessions : after (adm [(32, 1), (34, 10), (36, 8), (38, 50), (40, 0x9000), (48, 80), (50, 16)]) (.openSession 2)
      (fun t => (done t 0 10, (t.dev.session 10).chitBase, (t.dev.session 10).qShelves, (t.dev.session 10).qPrio)) = some (true, 0x9000, 1024, 2) ∧
    after (adm [(32, 3), (34, 9), (36, 21), (38, 6), (40, 0x8000)]) (.addHatch 2) (fun t => (done t, Tbl.find? t.dev.hlk.hatches 21)) =
      some (true, some { owner := 9, n := 6, base := 0x8000 }) ∧
    after (adm [(32, 4), (34, 9), (36, 20)]) (.removeHatch 2) (fun t => (done t, Tbl.find? t.dev.hlk.hatches 20)) = some (true, none) ∧
    after (adm [(32, 7), (34, 9), (48, 96), (50, 32)]) (.setVectors 2) (fun t => (done t, (t.dev.session 9).vecBase, (t.dev.session 9).vecCount)) = some (true, 96, 32) := by decide +kernel

/-- A ring in the HDM window is a GRANT_FAULT (R90). -/
def hdmUp (d : Dev) : Dev := { d with hlk := { d.hlk with hdmGib := 16, hdmDecoder := some (16, 0x8000) } }
def hatchInHdm : State := adm [(32, 3), (34, 9), (36, 21), (38, 6), (40, 0x8000)] hdmUp
theorem test_hdm_ring : after hatchInHdm (.addHatch 2) (fun t => (stat t, t.dev.hlk.hatches.length)) = some (some .grantFault, 2) ∧
    after (adm [(32, 1), (34, 10), (36, 8), (38, 50), (40, 0x9000), (48, 80), (50, 16)] hdmUp) (.openSession 2) stat = some (some .grantFault) := by decide +kernel

theorem test_drain : after (adm [(32, 2), (34, 9)]) (.closeSession 2) (fun t => ((t.dev.session 9).st, (t.dev.live? 2).map (·.phase))) = some (.draining, some .active) ∧
    after (adm [(32, 8), (34, 9)]) (.resetSession 2) (fun t => ((t.dev.session 9).st, (t.dev.session 9).drain)) = some (.draining, some { uid := 2, reset := true }) ∧
    after (adm [(32, 8), (34, 9)] fun d => Dev.onSession { d with hlk := { d.hlk with live := d.hlk.live.map fun c => { c with phase := .active } } } 9 fun q =>
      { q with st := .draining, drain := some { uid := 2, reset := true } }) (.drainEnd 9) (fun t => (done t, (t.dev.session 9).st)) = some (true, .opened) ∧
    after (adm [(32, 2), (34, 9)] fun d => Dev.onSession { d with hlk := { d.hlk with live := d.hlk.live.map fun c => { c with phase := .active } } } 9 fun q =>
      { q with st := .draining, drain := some { uid := 2, reset := false } }) (.drainEnd 9) (fun t => (done t, t.dev.session 9, Tbl.find? t.dev.hlk.hatches 20)) =
      some (true, {}, none) := by decide +kernel

/-- A ready Crate of session 9 with the given payload. -/
def own (l : List (Nat × Nat)) (f : Dev → Dev := id) : State := live fun d => f { d with
  hlk := { d.hlk with
    sessions := [(9, { st := .opened, vecBase := 64, vecCount := 16, qShelves := 5, qLoft := 64, qSpus := 4, qInflight := 8 })], hatches := [(20, { owner := 9, n := 5, base := 0x7000 })]
    live := [{ uid := 2, session := 9, hatch := 20, index := 0, raw := craw ([(2, 0x33)] ++ l), phase := .ready 900 }] } }

theorem test_fence_query : after (own [(0, 8)]) (.fence 2) (fun t => done t) = some true ∧
    after (own [(0, 9), (32, 5), (40, 0x4000), (48, 16)]) (.query 2 .done) (fun t => (done t 256000 16, t.dev.host)) =
      some (true, [.write 0x4000 [0, 0xE8, 0x03, 0, 0, 0, 0, 0, 0, 0, 0, 0, 0, 0, 0, 0]]) := by decide +kernel

/-! The premises of the statements about programs and queues, met together. -/

theorem meets_transfers : (e0 rc).on h1 = true ∧ (∀ l ∈ rc.levels, l.last ≠ rc.pc) ∧ (withProg (copy1 rc)).dev.program? 1 3 = some prog1 ∧ 99 < prog1.codeBundles := by decide
theorem meets_repeats : (e0 rc).on h1 = true ∧ (3 : BitVec 12) ≠ 0 ∧ rc.levels.length < 4 ∧ (128 : BitVec 10) ≠ 0 := by decide
theorem meets_blockEnd : let r : Regs := { rc with levels := [{ first := 8, last := 10 }], lc := [(0, 2)] }
    r.levels = [] ++ [{ first := 8, last := 10 }] ∧ 10 = r.pc ∧ 1 < (r.glc 0).toNat ∧ r.pc + 1 < prog1.codeBundles ∧ bit ((withProg (copy1 r)).dev.spu 0).dbgCtl 0 = false := by decide
theorem meets_waitev : let i := sub1 2
    bit (0x06 : BitVec 8) 1 = true ∧ bit (i.entry 1).sel 12 = true ∧ (i.entry 1).count ≠ 0 ∧ ¬ (bit (0x06 : BitVec 8) 0 = true) ∧ (sub1 0).entry 1 = { sel := 0x1300, count := 0, last := 99 } := by decide
theorem meets_exit : (exiting.dev.live? 1).any (fun c => !c.decided) = true ∧ (exiting.dev.spu 0).runs = some 64 ∧ (∀ k, k < 68 → (exiting.dev.spu k).retireWait = false) := by decide +kernel
theorem meets_loads : RunAllowed (withProg lm) lm (e0 rc) 64 0x200 24 false ∧ ReadsCell (withProg lm) lm (e0 rc) 64 0x201 { data := 5, tag := 2 } ∧
    addrLegal ad2 false = true ∧ addrLegal { ad2 with k := 4 } true = true ∧ (e0 rc).on h1 = true := ⟨rfl, ⟨rfl, rfl⟩, by decide, by decide, by decide⟩
/-- The last cells of live local memory and of the window, and the first beyond (R524, R542). -/
theorem meets_boundaries : RunAllowed (withProg lm) lm (e0 rc) 64 0xFFF 1 true ∧ ¬ RunAllowed (withProg lm) lm (e0 rc) 64 0xFFF 8 true ∧
    RunAllowed (withProg lm) lm (e0 rc) 64 0xFFFFFF 1 true ∧ ¬ RunAllowed (withProg lm) lm (e0 rc) 64 0xFFFFFF 8 true ∧
    RunAllowed (withProg lm) lm (e0 rc) 64 0x400007 1 false ∧ ¬ RunAllowed (withProg lm) lm (e0 rc) 64 0x400007 8 false :=
  ⟨rfl, nofun, rfl, nofun, rfl, nofun⟩
theorem meets_stores : WindowOwned (withProg (copy1 rc)) (copy1 rc) (e0 rc) 0x814000 ∧ ¬ WindowOwned (withProg (copy1 rc)) (copy1 rc) (e0 rc) 0x818000 ∧
    addrBase { a := 1 } rc = 0x814000 ∧ 0x814000 + 24 ≤ 0x1000000 ∧ ReadsCell (withProg (copy1 rc)) (copy1 rc) (e0 rc) 64 0x814000 {} := ⟨rfl, nofun, rfl, by decide, ⟨rfl, rfl⟩⟩
theorem meets_queues : (((qs 9).inq 1).cells.length = 9) ∧ ((qs 0).inq 1).cells = [] ∧ ({ snap := { rc with p := [] }, slot := 4 } : Issue).snap.guard h1 = 0xFF ∧
    fld ((copy1 rc).outq 0).bind 0 2 = 0 ∧ fld (13 : BitVec 32) 0 2 = 1 ∧ fld (13 : BitVec 32) 2 16 = 3 ∧ fld strm.src 0 4 = 2 ∧ strm.queue.length + 8 ≤ 16384 ∧ strm.closing = none ∧ strm.from_ = none ∧
    tagReserved 9 = true ∧ (QCell.clean { cell := { data := 4, tag := 9 } }).cell.tag = tagGap := by decide

/-- Local memory is cell 2^17 wide at most, an accumulator fits below. -/
theorem meets_local : RunAllowed (withProg lm) lm (e0 rc) 64 0x200 24 true ∧ 0x200 + 24 ≤ 0x20000 := ⟨rfl, by decide⟩

/-! SETUP, MVGO, the debug commands and the register path. -/

/-- A copy of a RUN whose grants allow writes of unit 0x08. -/
def setting (f : Dev → Dev := id) : State := withProg { copy1 { rc with a := (1, 0x814000) :: rc.a.drop 1, s := [(2, 3)] } with } fun s => (s.onDev fun d => f { d with
  hlk := { d.hlk with live := [{ crate runRaw with grants := [0x2200000000000008] }] } }).onMem fun m => m.loftPutRun lo5 [{ data := 7 }, { data := 8 }]

theorem test_setup : after (setting) (.setup h1 0x08 1 1) (fun t => ((t.dev.unit 8).shadow.map fun x => (x.typ, x.cells), (inst t).setups)) =
      some ([(1, [7, 8, 0, 0])], [{ idx := 0, result := none }]) ∧
    after (setting) (.setup h1 0x09 1 1) (fun t => ((t.dev.unit 9).shadow, (inst t).setups)) = some ([], [{ idx := 0, result := some .grantFault }]) ∧
    after (setting) (.setup h1 0x08 1 0) (fun t => (inst t).setups) = some [{ idx := 0, result := some .cfgRange }] := by decide +kernel

/-- R571: a seventeenth SETUP stalls its bundle, and the copy does not show WAITING (R566). -/
def stalledSetup : State := setting fun d => d.onInst 64 fun i => { i with setups := List.replicate 16 { idx := 0 }, nextSetup := 16 }
theorem test_setup_stalls : after stalledSetup (.setup h1 0x08 1 1) (fun t => ((inst t).setups.length, (inst t).waiting, (regs t).pc)) = some (16, false, 10) := by decide +kernel
theorem meets_setup_stalls : 16 ≤ (inst stalledSetup).undecided ∧ (e0 rc).waits = false := by decide +kernel

theorem test_mvgo : after setting (.mvgo h1 3 1 2) (fun t => ((regs t).gs 3, (t.dev.mover 3).chain.map fun c => (c.cur, c.act.inst))) = some (3, some (lo5, some 64)) ∧
    after (setting fun d => { d with mov := { d.mov with movers := [(3, { queue := List.replicate 64 { session := 1, inst := some 64, crate := none, first := 0 } })] } })
      (.mvgo h1 3 1 2) (fun t => (regs t).gs 3) = some 0x113 ∧
    after (setting fun d => { d with mov := { d.mov with movers := [(3, { chain := some { act := { session := 1, inst := some 64, crate := none, first := 0 }, cur := 0 } })] } })
      (.mvstop h1 2) (fun t => (t.dev.mover 3).chain.map (·.stop)) = some (some true) := by decide +kernel

def dbg (i : Inst) (f : Dev → Dev := id) : State := withProg i fun s => s.onDev fun d => f { d with spa := { d.spa with dbgEn := true } }

/-- STEP of the example's bundle 41: the L slot reads c1, the M slot multiplies the old c1. -/
def ex41 : State := dbg { copy1 { pc := 41, c := [(8, cell 65536 0)] } with halted := true, iq := [(0, { bind := 1, cells := List.replicate 8 { cell := { data := 9 } } })] }
def ex41m : State := ex41.onMem fun m => m.loftPutRun 164 [{ data := 0 }, { data := 0 }, { data := 0x18001082 }, { data := 0x2C020000 }]

theorem test_debug : after (dbg (copy1 rc)) (.halt 0) (fun t => (inst t).halted) = some true ∧ stays (withProg (copy1 rc)) (.halt 0) = true ∧
    after ex41m (.step 0) (fun t => ((regs t).gq 0 0, (regs t).gc 1 0, (regs t).pc, (inst t).halted)) = some ({ i := 0x100000000, q := 0, tag := 0 }, { data := 9 }, 42, true) ∧
    after (dbg { copy1 rc with halted := true }) (.debugResume 0) (fun t => (inst t).halted) = some false ∧ stays (dbg (copy1 rc)) (.step 0) = true := by decide +kernel

def regPath (i : RecIf) (f : Dev → Dev := id) : State := live fun d => f { d with units := [(9, i)] }

theorem test_go : after (regPath { typ := 1, len := 4, buf := [(0, 5)] }) (.go 9) (fun t => ((t.dev.unit 9).shadow.map (·.cells), (t.dev.unit 9).result)) = some ([[5, 0, 0, 0]], 15) ∧
    after (regPath { typ := 1, len := 5 }) (.go 9) (fun t => ((t.dev.unit 9).shadow.length, (t.dev.unit 9).result)) = some (0, 1) ∧
    after (regPath { typ := 1, len := 4 } fun d => { d with hlk := { d.hlk with live := [{ crate runRaw with grants := [0x2200000000000009] }] } }) (.go 9)
      (fun t => ((t.dev.unit 9).shadow.length, (t.dev.unit 9).result)) = some (0, 2) := by decide +kernel

theorem test_rejected : after (live fun d => { d with units := [(0x00, { typ := 5, len := 1, buf := [(0, 0x400000000)] })] }) (.go 0)
      (fun t => ((t.dev.unit 0).result, t.dev.rel.queue.map fun r => (r.code, r.sev, r.domain))) = some (1, [(0x51, 0, 0x3000)]) := by decide +kernel

theorem test_recordCommit : after (live fun d => { d with units := [(0x40, { shadow := [{ typ := 4, cells := [0x23] }], result := 15 })] }) (.recordCommit 0x40)
      (fun t => ((t.dev.unit 0x40).shadow, t.dev.rec? 0x40 4 3, (t.dev.unit 0x40).result)) = some ([], some [0x23], 0) ∧
    -- a later GO that was refused keeps RESULT (R854); a SETUP with its result still open takes OK
    after (live fun d => { d with units := [(0x40, { shadow := [{ typ := 4, cells := [0x23], go := 1 }], gos := 2, result := 1 })] }) (.recordCommit 0x40)
      (fun t => (t.dev.unit 0x40).result) = some 1 ∧
    after (onSpu { copy1 {} with setups := [{ idx := 5 }] } |>.onDev fun d => { d with units := [(0x40, { shadow := [{ typ := 4, cells := [0x23], origin := some (64, 5) }] })] }) (.recordCommit 0x40)
      (fun t => (inst t).setups.map (·.result)) = some [some .ok] := by decide +kernel

/-! Queues and sessions. -/

theorem meets_doorbells : let s := exDev [] 41
    s.dev.served = true ∧ Tbl.find? s.dev.hlk.hatches 12 = some (exHatch 41) ∧ (s.dev.session 5).st ≠ .closed ∧ ((297 : BitVec 32) - 41).toNat ≤ 2 ^ 8 ∧
    ((1725 : BitVec 32) - 1724).toNat ≤ ((1725 : BitVec 32) - 1724).toNat ∧ Tbl.find? s.dev.hlk.hatches 13 = none := by decide
theorem meets_crateRead : let s := exDev [] 42
    (s.dev.session 5).st = .opened ∧ s.dev.rel.devFault = false ∧ s.dev.hlk.live.length < 1024 ∧ (exHatch 42).head ≠ (exHatch 42).tail ∧ (exHatch 42).waiting = none ∧
    s.dev.mayRead (exHatch 42) = true ∧ s.dev.rel.queue.length < 64 := by decide
theorem meets_verdicts : let c : Live := { uid := 7, session := 5, hatch := 12, index := 41, raw := exRun, cls := 2 }
    (exDev [] 42).dev.verdict c (.bytes []) = .admits [0x1300000000000021, 0x2200000000000012] ∧
    (exDev [] 42 fun d => d.onSession 5 fun q => { q with qInflight := 0 }).dev.verdict c (.bytes []) = .wait ∧
    (exDev [] 42 fun d => d.onSession 5 fun q => { q with qPrio := 3 }).dev.verdict c (.bytes []) = .fails .quota ∧
    (exDev [] 42 fun d => d.onSession 5 fun q => { q with qSpus := 3 }).dev.verdict c (.bytes []) = .fails .quota ∧
    c.headerOk = true ∧ c.payloadOk = true ∧ c.kind = 1 ∧ c.hatch ≠ 0 ∧ fld c.raw 32 3 = 2 ∧
    (exDev [] 42).dev.verdict { c with raw := craw [(0, 15), (32, 1)] } (.bytes []) = .fails .grantFault := by decide +kernel
theorem meets_chits : let s := exDev [exLive .decided] 42
    (s.dev.live? 6).any (fun c => c.phase == .decided) = true ∧ (s.dev.session 5).held = [] ∧ ((s.dev.session 5).chitCount - (s.dev.session 5).chitHead).toNat < 2 ^ 10 ∧
    (exLive .decided).tag < 65536 ∧ 2 ^ 10 ≤ ((1724 : BitVec 32) - 700).toNat := by decide +kernel
/-- With a vector that is not masked, with one that is, and with none. -/
theorem meets_chitVectors : (exLive .decided).irqVec = some 3 ∧ (ses5).coal = 0 ∧ ses5.vecBase + 3 < 2048 ∧ Tbl.get false (exDev [] 42).dev.hlk.unmasked 83 = true ∧
    Tbl.get false (exDev [] 42 fun d => { d with hlk := { d.hlk with unmasked := [] } }).dev.hlk.unmasked 83 = false ∧ ({ exLive .decided with irqVec := none } : Live).irqVec = none ∧
    (exLive .decided).irq = true ∧ (exLive .decided).vec < ses5.vecCount := by decide +kernel
theorem meets_hatchInHdm : (hatchInHdm.dev.admin 2 3).any (fun c => c.target == 9 && c.num 36 2 == 21 && c.num 38 1 == 6 && c.num 40 8 % 4096 == 0 &&
      hatchInHdm.dev.inHdm (c.num 40 8) (2 ^ c.num 38 1 * 64 + 64)) = true ∧ (hatchInHdm.dev.session 9).st = .opened ∧ Tbl.find? hatchInHdm.dev.hlk.hatches 21 = none := by decide +kernel
theorem meets_admin : let s := adm [(32, 1), (34, 10), (36, 8), (38, 50), (40, 0x9000), (48, 80), (50, 16)]
    (s.dev.admin 2 1).isSome = true ∧ (s.dev.session 10).st = .closed ∧ s.dev.vecBlockOk 10 80 16 = true ∧ 0x9000 % 4096 = 0 := by decide +kernel
theorem meets_adminHatches : ((adm [(32, 3), (34, 9), (36, 21), (38, 6), (40, 0x8000)]).dev.admin 2 3).isSome = true ∧
    ((adm [(32, 4), (34, 9), (36, 20)]).dev.admin 2 4).isSome = true ∧ (adm []).dev.liveTarget 9 = true ∧
    ((adm [(32, 7), (34, 9), (48, 96), (50, 32)]).dev.admin 2 7).isSome = true ∧ (adm []).dev.vecBlockOk 9 96 32 = true ∧
    ((adm [(32, 2), (34, 9)]).dev.admin 2 2).isSome = true ∧ ((adm [(32, 8), (34, 9)]).dev.admin 2 8).isSome = true ∧ (adm []).dev.insts = [] ∧ (adm []).dev.mov.streams = [] := by decide +kernel
theorem meets_fence : let s := own [(0, 8)]
    (s.dev.live? 2).any (fun c => c.kind == 8 && c.admitted && c.isReady && s.dev.startable c && !s.dev.earlier c && c.num 33 1 == 0) = true ∧
    ((own [(0, 9), (32, 5), (40, 0x4000), (48, 16)]).dev.starts 2 9).isSome = true ∧ s.dev.inHdm 0x4000 16 = false := by decide +kernel
theorem meets_link : bit (staged).dev.hlk.linkCtl 4 = false ∧ 4 ≤ (staged).dev.hkc.stage.toNat ∧ (staged).dev.served = true ∧ (staged).dev.rel.queue.length < 64 ∧
    (staged fun d => { d with hlk := { d.hlk with hdmGib := 16 } }).dev.hlk.hdmGib = 16 := by decide

/-! The Storekeeper. -/

/-- Session 9 with a Cellar of 1 GiB: Shelves 64 to 511 are free. -/
def own1 (l : List (Nat × Nat)) (f : Dev → Dev := id) : State := own l fun d => f { d with glb := { d.glb with cellarGib := 1 } }
def raw2 (l : List (Nat × Nat)) : Live := { uid := 2, session := 9, hatch := 20, index := 0, raw := craw ((2, 0x33) :: l), phase := .ready 900 }
def alloc3 : List (Nat × Nat) := [(0, 5), (36, 3)]
def shelf (i : Nat) (p : Place) (h : Nat := 1) : ShelfEntry := { session := 9, idx := i, handle := h, place := p, spill := true }

theorem test_alloc_shelves : after (own1 alloc3) (.allocShelves 2) (fun t => (done t 0x200000 1, t.dev.stk.shelves.map fun e => (e.idx, e.place))) =
      some (true, [(1, .resident 64), (2, .resident 65), (3, .resident 66)]) ∧
    after (own1 [(0, 5), (36, 6)]) (.allocShelves 2) stat = some (some .quota) ∧ after (own1 [(0, 5), (36, 0)]) (.allocShelves 2) stat = some (some .cfgRange) ∧
    after (own [(0, 5), (36, 3)]) (.allocShelves 2) stat = some (some .noShelves) ∧
    after (own1 [(0, 5), (36, 1), (40, 0x600000)]) (.allocShelves 2) (fun t => done t 0x600000 1) = some true := by decide +kernel

theorem meets_allocShelves : let s := own1 alloc3
    s.dev.starts 2 5 (fun c => c.num 32 1 == 0) = some (raw2 alloc3) ∧ s.dev.allocShelfTest (raw2 alloc3) = .ok ∧ (raw2 alloc3).count ≤ s.dev.freeShelves ∧
    s.dev.shelfBase (raw2 alloc3) = some 1 ∧ s.dev.stk.allocWait = none ∧ (s.dev.takeShelves (raw2 alloc3).count).length = (raw2 alloc3).count := by decide +kernel
/-- The clauses of the tests: a count of 49,152 is formed, 49,153 is not; the quota's last Shelf, and one more; no Shelf at all. -/
theorem meets_allocTests : (raw2 [(0, 5), (36, 49152)]).count = 49152 ∧ (own1 [(0, 5), (36, 49153)]).dev.starts 2 5 (fun c => c.num 32 1 == 0) = some (raw2 [(0, 5), (36, 49153)]) ∧
    (own1 alloc3).dev.stk.held 9 + 5 ≤ ((own1 alloc3).dev.session 9).qShelves ∧ ((own1 alloc3).dev.session 9).qShelves < (own1 alloc3).dev.stk.held 9 + 6 ∧
    (own alloc3).dev.freeShelves + (own alloc3).dev.pageable < 3 ∧ 4095 * shelfBytes % shelfBytes = 0 := by decide +kernel

def loft2 : List (Nat × Nat) := [(0, 5), (32, 1), (36, 2)]
theorem test_alloc_loft : after (own loft2) (.allocLoft 2) (fun t => (done t (128 * 16384) 1, t.dev.stk.loft.map (·.1))) = some (true, [128, 129]) ∧
    after (own (loft2 ++ [(40, 200)])) (.allocLoft 2) (fun t => done t (200 * 16384) 1) = some true ∧
    after (own (loft2 ++ [(40, 1023)])) (.allocLoft 2) stat = some (some .noLoft) ∧ after (own [(0, 5), (32, 1), (36, 65)]) (.allocLoft 2) stat = some (some .quota) := by decide +kernel
theorem meets_allocLoft : let s := own loft2
    s.dev.starts 2 5 (fun c => c.num 32 1 == 1) = some (raw2 loft2) ∧ (raw2 loft2).spill = false ∧ (raw2 loft2).count = 2 ∧
    (s.dev.stk.loft.filter fun g => g.2.session == 9).length + 2 ≤ (s.dev.session 9).qLoft ∧ s.dev.loftRun 128 2 = true ∧ (∀ q, q < 128 → s.dev.loftRun q 2 = false) ∧
    (raw2 loft2).hint = 0 := by decide +kernel

def freed (l : List ShelfEntry) : State := own1 [(0, 6), (32, 7)] fun d => { d with stk := { d.stk with shelves := l, loft := [(130, { session := 9, handle := 7 })], programs := [{ prog1 with session := 9, handle := 7, refs := 1 }] } }
theorem test_free : after (freed [shelf 1 (.resident 64) 7, { shelf 2 (.resident 65) 7 with pins := 1 }, shelf 3 (.resident 66)]) (.free 2)
      (fun t => (done t, t.dev.stk.shelves.map (fun e => (e.idx, e.freed)), t.dev.stk.loft.length, t.dev.stk.programs.map (·.freed))) = some (true, [(2, true), (3, false)], 0, [true]) ∧
    after (own1 [(0, 6), (32, 7)]) (.free 2) stat = some (some .cfgRange) := by decide +kernel
theorem meets_free : (freed [shelf 1 (.resident 64) 7]).dev.starts 2 6 = some (raw2 [(0, 6), (32, 7)]) ∧ (raw2 [(0, 6), (32, 7)]).num 32 4 = 7 ∧
    (own1 [(0, 6), (32, 7)]).dev.starts 2 6 = some (raw2 [(0, 6), (32, 7)]) ∧ (own1 [(0, 6), (32, 7)]).dev.stk.programs = [] := by decide +kernel

/-- The smallest binary: one bundle, one data cell of value 5, 128 live cells (R529). -/
def bin1 : List Byte := leBytes 4 0xD9640B1E ++ leBytes 4 1 ++ leBytes 4 1 ++ leBytes 4 1 ++ leBytes 4 128 ++ List.replicate 44 0 ++ leBytes 16 0x33 ++ leBytes 8 5
def load1 : List (Nat × Nat) := [(0, 7), (32, 0x4000), (40, 88)]
theorem test_load : after (own load1) (.load 2 (.bytes bin1)) (fun t => (done t 0 1, t.dev.stk.programs.map (fun p => (p.pages, p.codeBundles, p.liveCells)), t.mem.loftGet 0, t.mem.loftGet 4)) =
      some (true, [(1, 1, 128)], { data := 0x33 }, { data := 5 }) ∧
    after (own load1) (.load 2 .timeout) stat = some (some .timeout) ∧ after (own load1) (.load 2 (.bytes (List.replicate 88 0))) stat = some (some .cfgRange) := by decide +kernel
theorem meets_load : (own load1).dev.starts 2 7 = some (raw2 load1) ∧ (own load1).dev.inHdm 0x4000 88 = false ∧ bin1.length = 88 ∧
    binaryHeader bin1 = some (1, 1, 128, 0) ∧ (imageCells 1 1 bin1).2 = false ∧ cdiv (4 * 1 + 1) 16384 = 1 ∧ 0 + 1 ≤ (own load1).dev.progPages ∧ (own load1).dev.stk.progUsed = [] := by decide +kernel

theorem test_admin_resources : after (adm [(32, 5), (34, 9), (36, 9), (40, 4), (42, 3), (43, 2), (44, 1), (48, 20)]) (.setQuota 2) (fun t => (done t, (t.dev.session 9).qShelves, (t.dev.session 9).qInflight)) =
      some (true, 9, 20) ∧
    after (adm [(32, 6), (36, 2), (40, 0x400000)] fun d => { d with stk := { d.stk with pool := (List.range 15).map fun r => (r, { base := 0, slots := [] }) } }) (.poolGrantAdd 2)
      (fun t => (done t 0 15, Tbl.find? t.dev.stk.pool 15)) = some (true, some { base := 0x400000, slots := [0, 1] }) ∧
    after (adm [(32, 6), (48, 1)] fun d => { d with stk := { d.stk with pool := [(0, { base := 0x400000, slots := [0, 1] })] } }) (.poolGrantWithdraw 2) (fun t => (done t, t.dev.stk.pool)) = some (true, []) ∧
    after (adm [(32, 9), (36, 1)] fun d => { d with glb := { d.glb with cellarGib := 2 } }) (.setHdm 2) (fun t => (done t, t.dev.hlk.hdmGib, t.dev.freeShelves)) = some (true, 1, 448) := by decide +kernel
theorem meets_adminResources : let q := [(32, 5), (34, 9), (36, 9), (40, 4), (42, 3), (43, 2), (44, 1), (48, 20)]
    ((adm q).dev.admin 2 5).isSome = true ∧ (adm q).dev.liveTarget 9 = true ∧ quotaOk 9 4 3 2 1 20 = true ∧ quotaOk 49152 1024 64 7 1048576 1024 = true ∧ quotaOk 9 4 3 2 1 0 = false ∧
    ((adm [(32, 6), (36, 524288)]).dev.admin 2 6 (fun c => c.num 48 1 != 1)).isSome = true ∧
    ((adm [(32, 6), (48, 1)]).dev.admin 2 6 (fun c => c.num 48 1 == 1)).isSome = true ∧ ((adm [(32, 9), (36, 64)]).dev.admin 2 9).isSome = true := by decide +kernel

/-- One Shelf of session 9 that may go out; LOW one above the free Shelves. -/
def paging (n : Nat) (l : List ShelfEntry) (xs : List Xfer := []) : State := own1 [] fun d => Dev.onSession { d with stk := { d.stk with
  shelves := l, pageCfg := BitVec.ofNat 32 (n + (n + 1) * 4096), pool := [(0, { base := 0, slots := [0] })], xfers := xs } } 9 fun s => { s with qPool := 4 }
theorem test_paging : after (paging 448 [shelf 1 (.resident 64)]) .pageOut (fun t => t.dev.stk.xfers) = some [{ inward := false, session := 9, idx := 1, handle := 1, requester := .none_, started := true, slot := 0 }] ∧
    stays (paging 447 [shelf 1 (.resident 64)]) .pageOut = true ∧
    after (paging 1 [shelf 1 (.paged 1)]) (.pageIn 9 1 (.mover 3)) (fun t => t.dev.stk.xfers) = some [{ inward := true, session := 9, idx := 1, handle := 1, requester := .mover 3, started := true, shelf := 64 }] ∧
    after (paging 1 [{ shelf 1 (.resident 64) with acc := true }]) .ageingSweep (fun t => t.dev.stk.shelves.map (·.acc)) = some [false] ∧
    after (paging 1 [shelf 1 (.resident 64)] [{ inward := false, session := 9, idx := 1, handle := 1, requester := .none_, started := true, slot := 1 }]) (.shelfTransferDone 0 .busError)
      (fun t => (t.dev.stk.badSlot, t.dev.stk.badSlots, t.dev.stk.shelves.map (·.place))) = some (true, [1], [.resident 64]) := by decide +kernel
theorem meets_paging : let s := paging 448 [shelf 1 (.resident 64)]
    s.dev.freeShelves = 447 ∧ fld s.dev.stk.pageCfg 0 12 = 448 ∧ fld s.dev.stk.pageCfg 12 12 = 449 ∧ s.dev.stk.xfers = [] ∧
    bestBy (colder s.dev.tim.ticks) (s.dev.stk.shelves.filter fun e => s.dev.spillable e && decide (0 < s.dev.poolRoom e.session)) = some (shelf 1 (.resident 64)) ∧
    s.dev.stk.slotsFree = [0] := by decide +kernel
theorem meets_pageIn : let s := paging 1 [shelf 1 (.paged 1)]
    s.dev.stk.entry? 9 1 = some (shelf 1 (.paged 1)) ∧ 0 < s.dev.freeShelves ∧ s.dev.takeShelves 1 = [64] ∧ s.mem.lostAt (64 * shelfBytes) shelfBytes = false ∧
    (∀ q ∈ s.dev.stk.pool, q.2.withdrawing = none) ∧ s.dev.cel.mig = none := by decide +kernel

/-- A running page-in, and a running page-out of a Shelf that nothing pins. -/
theorem meets_transferEnds : let x : Xfer := { inward := true, session := 9, idx := 1, handle := 1, requester := .none_, started := true, shelf := 64 }
    let s := paging 1 [shelf 1 (.paged 0)] [x]; let t := paging 1 [shelf 1 (.resident 64)] [{ x with inward := false }]
    s.dev.stk.xfers = [x] ∧ s.dev.stk.entry? 9 1 = some (shelf 1 (.paged 0)) ∧ (shelf 1 (.paged 0)).handle = x.handle ∧ s.dev.stk.bgRun = false ∧
    (∀ q ∈ s.dev.stk.pool, q.2.withdrawing = none) ∧ s.mem.lostAt (64 * shelfBytes) shelfBytes = false ∧
    t.dev.pinned (shelf 1 (.resident 64)) = false ∧ t.dev.cel.mig = none := by decide +kernel
theorem meets_cleanMemory (a n : Nat) : (own []).mem.poisoned a n = false ∧ (own []).mem.fixable a n = [] := by
  constructor
  · simp [own, live, dev, State.onDev, Mem.poisoned, Mem.lostAt]
  · simp [own, live, dev, State.onDev, Mem.fixable]

theorem test_storekeeper_config : stays (live fun d => { d with stk := { d.stk with ctl := 0x80000A0B } }) (.stkPoolCfgWrite true 64) = true ∧
    after (live id) (.stkPoolCfgWrite true 16) (fun t => t.dev.stk.ttCfg) = some 16 ∧ after (live id) (.stkPoolCfgWrite true 15) (fun t => (t.dev.stk.ttCfg, t.dev.rel.queue.map (·.code))) = some (64, [0x51]) ∧
    after (live id) (.stkPageCfgWrite 0x20081040) (fun t => t.dev.stk.pageCfg) = some 0x20081040 ∧ after (live id) .lock (fun t => t.dev.stk.ctl) = some 0x80000A0B ∧
    after (own []) (.stkPoolCfgWrite true 64) (fun t => t.dev.rel.queue.map (·.code)) = some [0x50] := by decide +kernel
theorem meets_storekeeperConfig : (live id).dev.served = true ∧ (live id).dev.othersOpen = false ∧ (own []).dev.othersOpen = true ∧
    (live id).dev.crosses (live id).dev.progPages (live id).dev.ctxPages 1024 = false ∧ (live id).dev.crosses 512 512 64 = false ∧
    fld (0x40FFF000 : BitVec 32) 24 7 = 64 ∧ fld (0x04001000 : BitVec 32) 24 7 = 4 := by decide +kernel

/-! Scheduling. -/

def runOf (uid : Nat) (cls : Nat) (nspu gang : Nat) (p : Phase) (st : Nat := 0) : Live :=
  { uid, session := 1, hatch := 20, index := 0, raw := craw [(0, 1), (2, uid), (32, 3), (36, nspu), (37, gang)], cls, phase := p, started := st }
def sched (l : List Live) (f : Dev → Dev := id) : State := live fun d => f { d with
  hlk := { d.hlk with sessions := [(1, { st := .opened, qSpus := 8, qInflight := 8 })], live := l }
  stk := { d.stk with programs := [{ prog1 with entry := 4 }] } }

theorem test_run_starts : after (sched [runOf 1 2 2 0 (.ready 0)]) (.run 1) (fun t => t.dev.hlk.live.map (·.phase)) = some [.queued 1000] ∧
    after (sched [runOf 1 2 2 0 (.queued 0), runOf 3 1 1 0 (.queued 0)]) .instanceStart (fun t => (t.dev.insts.map fun p => (p.1, p.2.regs.pc, p.2.regs.gs 1), (t.dev.spu 0).runs)) =
      some ([(192, 4, 1)], some 192) ∧
    after (sched [runOf 1 2 4 1 (.queued 0)]) .instanceStart (fun t => t.dev.insts.map (·.1)) = some [64, 65, 66, 67] := by decide +kernel
theorem meets_runStarts : let s := sched [runOf 1 2 2 0 (.queued 0)]
    bestBy s.dev.before (s.dev.hlk.live.filter s.dev.canStart) = some (runOf 1 2 2 0 (.queued 0)) ∧ (runOf 1 2 2 0 (.queued 0)).gang = false ∧
    s.dev.bestSpu (runOf 1 2 2 0 (.queued 0)) = some 0 ∧ s.dev.program? 1 3 = some { prog1 with entry := 4 } ∧
    (sched [runOf 1 2 2 0 (.ready 0)]).dev.starts 1 1 = some (runOf 1 2 2 0 (.ready 0)) := by decide +kernel

/-- A gang of 9 with room for 8. -/
def gang9 (since : BitVec 64) : State := sched [runOf 1 6 9 1 (.queued since)] fun d => { d with tim := { d.tim with ticks := 300000 } }
theorem test_age_hold : after (gang9 0) (.crateAgeing 1) (fun t => t.dev.hlk.live.map (·.cls)) = some [5] ∧ stays (sched [runOf 1 4 1 0 (.queued 0)]) (.crateAgeing 1) = true ∧
    after (gang9 95199) (.gangHold 1) (fun t => t.dev.hlk.live.map (·.hold)) = some [true] ∧ stays (gang9 95200) (.gangHold 1) = true := by decide +kernel
theorem meets_ageHold : let c := runOf 1 6 9 1 (.queued 0)
    (gang9 0).dev.ordered c = true ∧ 4 < c.cls ∧ fld (gang9 0).dev.stk.ctl 8 8 ≠ 0 ∧ c.gang = true ∧ (gang9 0).dev.startable c = true ∧ (gang9 0).dev.canStart c = false ∧
    204800 < ((gang9 95199).dev.tim.ticks - 95199).toNat ∧ ((gang9 95200).dev.tim.ticks - 95200).toNat ≤ 204800 := by decide +kernel

/-- One SPU on the die, running a copy of class 5; a class 1 RUN waits. -/
def oneSpu (c : Live) (seat : Seat := .onSpu 0) : State := sched [runOf 1 5 1 0 .active 1, c] fun d => { d with
  insts := [(64, { copy1 { pc := 9 } with seat })]
  stk := { d.stk with spus := (0, { runs := if seat == .onSpu 0 then some 64 else none }) :: (List.range 67).map fun k => (k + 1, { retired := true }) } }
theorem test_preemption : after (oneSpu (runOf 2 1 1 0 (.queued 0))) .preemption
      (fun t => ((t.dev.insts.map fun p => (p.1, p.2.seat)), (t.dev.spu 0).runs, t.dev.stk.preempts)) = some ([(64, .saved [0, 1, 2, 3, 4]), (128, .onSpu 0)], some 128, 1) ∧
    stays (oneSpu (runOf 2 5 1 0 (.queued 0))) .preemption = true ∧ stays (oneSpu (runOf 2 4 1 0 (.queued 0))) .preemption = true ∧
    after (oneSpu (runOf 2 1 1 0 (.ready 0)) (.saved [0, 1, 2, 3, 4])) (.instanceResume 1 0) (fun t => ((t.dev.insts.map fun p => (p.2.seat, p.2.regs.pc)), (t.dev.spu 0).runs)) =
      some ([(.onSpu 0, 9)], some 64) := by decide +kernel
theorem meets_preemption : let c := runOf 2 1 1 0 (.queued 0); let s := oneSpu c; let v := runOf 1 5 1 0 .active 1
    Tbl.find? s.dev.insts 64 = some (copy1 { pc := 9 }) ∧ s.dev.live? 1 = some v ∧ v.gang = false ∧ (∀ n, n < 68 → (s.dev.spu n).retireWait = false) ∧
    bit s.dev.stk.ctl 3 = true ∧ s.dev.freeSpus = [] ∧ s.dev.hlk.live = [v, c] ∧ c.isQueued = true ∧ s.dev.waitsForSpu c = true ∧ c.cls ≤ fld s.dev.stk.ctl 0 3 ∧
    0 < s.dev.spuRoom 1 ∧ s.dev.waitsForSpu v = false ∧ s.dev.ctxNeed (copy1 { pc := 9 }) ≤ s.dev.ctxCapacity := by decide +kernel
theorem meets_resume : let s := oneSpu (runOf 2 1 1 0 (.ready 0)) (.saved [0, 1, 2, 3, 4]); let v := runOf 1 5 1 0 .active 1
    s.dev.rel.devFault = false ∧ 0 < s.dev.spuRoom 1 ∧ s.dev.insts.Nodup ∧ s.dev.bestSpu v = some 0 ∧ s.dev.live? 1 = some v := by decide +kernel

theorem test_retire : after (live fun d => { d with stk := { d.stk with spus := [(64, { spare := true })] } }) (.stkSpuRetire 3)
      (fun t => ((t.dev.spu 3).retired, (t.dev.spu 64).spare, t.dev.atc.jobs.length)) = some (true, false, 1) ∧
    after (live id) (.stkSpuRetire 68) (fun t => t.dev.rel.queue.map (·.code)) = some [0x51] := by decide +kernel
theorem meets_retire : let s := live fun d => { d with stk := { d.stk with spus := [(64, { spare := true })] } }
    s.dev.served = true ∧ s.dev.rel.devFault = false ∧ (s.dev.spu 3).runs = none ∧ (s.dev.spu 3).spare = false ∧ s.dev.hlk.live = [] ∧ s.dev.rel.queue.length < 64 ∧ (s.dev.spu 64).spare = true := by decide

/-- R206: the copy of a retiring SPU resumes on SPU 1 before SPU 0 retires. -/
def retiring : State := sched [runOf 1 5 1 0 .active 1] fun d => { d with
  insts := [(64, copy1 { pc := 9 })], stk := { d.stk with spus := [(0, { runs := some 64 })] } }
theorem test_retire_running : after retiring (.stkSpuRetire 0)
    (fun t => ((t.dev.spu 0).retired, t.dev.insts.map (fun p => (p.1, p.2.seat)), (t.dev.spu 1).runs, t.dev.stk.preempts.toNat)) = some (true, [(64, .onSpu 1)], some 64, 1) := by decide +kernel
theorem meets_retireRunning : let i := copy1 { pc := 9 }; let c := runOf 1 5 1 0 .active 1
    retiring.dev.served = true ∧ Tbl.find? retiring.dev.insts 64 = some i ∧ i.seat = .onSpu 0 ∧ i.issue = none ∧ i.halted = false ∧ retiring.dev.live? i.uid = some c ∧ c.gang = false ∧
    retiring.dev.ctxUsed = [] ∧ retiring.dev.ctxNeed i ≤ retiring.dev.ctxCapacity ∧ retiring.dev.bestSpu c = some 1 ∧ (∀ o ∈ retiring.dev.hlk.live, o.started ≠ 0) := by decide +kernel
/-- A pool region in the HDM window is a GRANT_FAULT (R90). -/
def poolInHdm : State := adm [(32, 6), (36, 2), (40, 0x400000)] fun d => { d with
  hlk := { d.hlk with hdmDecoder := some (1, 0) }, stk := { d.stk with pool := (List.range 15).map fun r => (r, { base := 0, slots := [] }) } }
theorem test_pool_in_hdm : after poolInHdm (.poolGrantAdd 2) stat = some (some .grantFault) ∧ poolInHdm.dev.inHdm 0x400000 (2 * shelfBytes) = true ∧ Tbl.find? poolInHdm.dev.stk.pool 15 = none ∧
    (poolInHdm.dev.admin 2 6 fun c => c.num 48 1 != 1).isSome = true := by decide +kernel
/-- R158: the tables that the first Shelves need. -/
theorem test_tables : after (own1 alloc3) (.allocShelves 2) (fun t => t.dev.stk.tables.map fun x => (x.session, x.level, x.key)) = some [(9, 1, 0), (9, 2, 0), (9, 3, 0)] := by decide +kernel

/-! Ingress ports and lane calibration. -/

/-- The LINK of the worked example: 20.48 GS/s real, L 8, M 1, S 16, N′ 12, F 3, E 3, K 4. -/
def lnkE : List (BitVec 36) := [20480000, BitVec.ofNat 36 (8 + 1 * 16 + 16 * 512 + 12 * 2 ^ 15 + 2 ^ 20 + 2 * 2 ^ 24), 2 + 4 * 1024]
/-- SR_MODE 1, RELEASE 186, P_SYNC 2,048. -/
def syncE : List (BitVec 36) := [1 + 186 * 4096, 2048]
/-- Logical lanes on physical lanes 0 to 7, spare and spare-select line on. -/
def mapE : List (BitVec 36) := [0x376543210]
def portDev (g : Ing) (f : Dev → Dev := id) : State := live fun d => f { d with
  units := [(0, { com := [(256, lnkE), (512, mapE), (768, syncE)] })], ing := [(0, g)] }
def lockedLane : Lane := { cdr := true, bsync := true, emb := true, cal := 2 }
def lanes8 : Tbl Lane := (List.range 8).map fun i => (i, lockedLane)
def run8 : Ing := { en := true, st := .run, adcDone := true, srSeen := true, beat := 5, map := List.range 8, lanes := lanes8, pllLock := true, blind := false }
def pt (t : State) : Ing := t.dev.port 0

/-- The checks of the worked example: the LINK stands, and P_SYNC 2,048 holds whole LEMCs of 768 octets a lane. -/
theorem test_link_example : linkOk 0 lnkE = true ∧ lemcOk (Link.of lnkE) 2048 = true ∧ lemcOk (Link.of lnkE) 2047 = false ∧ syncOk syncE = true ∧
    lanemapOk run8 8 mapE = true ∧ (Link.of lnkE).laneAtMost 8 31680000 = true ∧ (Link.of lnkE).laneAtMost 8 31679999 = false := by decide +kernel

theorem test_port_start : after (portDev { adcDone := true }) (.en 0 true) (fun t => ((pt t).st, (pt t).map)) = some (.pllWait, List.range 8) ∧
    after (live id) (.en 0 true) (fun t => ((pt t).st, t.dev.rel.queue.map (·.code))) = some (.idle, [0x51]) ∧
    after (portDev { run8 with st := .pllWait }) (.pllLock 0) (fun t => ((pt t).st, ((pt t).lane 7).cal, ((pt t).lane 7).cdr)) = some (.laneSync, 1, false) ∧
    after (portDev { run8 with st := .laneSync }) (.embAlignment 0) (fun t => (pt t).st) = some .embAlign ∧
    after (portDev { run8 with st := .embAlign }) (.embAlignment 0) (fun t => (pt t).st) = some .sysrefWait := by decide +kernel
/-- The first block of an extended multiblock, 5 beats into an LEMC (R217). -/
def emb0 : LaneBlock := { lane := 7, octets := 0x0102030405060708, embStart := true }
def unaligned : Ing := { run8 with st := .laneSync, lanes := lanes8.map fun (i, x) => (i, { x with emb := false }) }
theorem test_emb_start : after (portDev unaligned) (.beatRelease 0 [emb0]) (fun t => let x := (pt t).lane 7; (x.emb, x.arrival, x.idx, x.buf.head?, x.buf.length)) =
    some (true, 5, some 8, some (.data 1 false), 8) := by decide +kernel
/-- Frames of 24 octets on 8 lanes into words of 12 bits, in converter order, into samples (R209 to R211, R236). -/
def framed : Ing := { run8 with lanes := lanes8.map fun (i, x) => (i, { x with idx := some 8, buf := if i = 0 then [.data 0x01 false, .data 0x23 false, .data 0x45 false] ++ List.replicate 5 (.data 0 false)
  else if i = 1 then [.data 0x67 false, .data 0x89 false, .data 0xAB false] ++ List.replicate 5 (.data 0 false) else List.replicate 8 (.data 0x80 false) }) }
theorem test_frames : after (portDev framed) (.beatRelease 0 []) (fun t => ((pt t).pend.map (·.i), (pt t).out, (pt t).stream.length)) =
    some ([1152, 53568, 105984, -103744, -130560, 8192, -130560, 8192, -130560, 8192], 3, 6) := by decide +kernel
theorem test_port_runs : after (portDev { run8 with st := .sysrefWait, srSeen := false }) (.sysrefEdge 0 0) (fun t => ((pt t).srSeen, (pt t).beat)) = some (true, 0) ∧
    after (portDev { run8 with st := .sysrefWait, beat := 186 }) (.firstRelease 0) (fun t => ((pt t).st, (pt t).beat)) = some (.run, 186) ∧
    after (portDev { run8 with st := .fault }) (.relink 0) (fun t => (pt t).st) = some .laneSync ∧
    after (portDev run8) (.sysrefEdge 0 0) (fun t => ((pt t).srSlip, (pt t).beat, t.dev.rel.queue.map (·.sev))) = some (true, 5, [0]) ∧
    after (portDev { run8 with st := .laneSync }) (.portStateTimeout 0) (fun t => ((pt t).err, t.dev.rel.queue.map (·.domain))) = some (0x80, [0x3000]) ∧
    after (portDev run8) (.pllLockLost 0) (fun t => ((pt t).st, (pt t).err, t.dev.rel.queue.map (·.code))) = some (.fault, 0x40, [0x61]) ∧
    after (portDev { run8 with st := .fault }) (.en 0 false) (fun t => ((pt t).st, (pt t).en)) = some (.idle, false) := by decide +kernel
/-- SR_DLY steps bring an early edge into the sampling window, SR_WIN shows how near it lies (R253); a realignment with SR_MODE 2 (R256). -/
def syncDev (a : BitVec 36) (g : Ing) : State := live fun d => { d with units := [(0, { com := [(256, lnkE), (512, mapE), (768, [a + 186 * 4096, 2048])] })], ing := [(0, g)] }
theorem test_sysref : after (syncDev 1 { run8 with st := .sysrefWait, srSeen := false }) (.sysrefEdge 0 0xFF) (fun t => ((pt t).srSeen, (pt t).srMargin)) = some (false, false) ∧
    after (syncDev (1 + 4 + 64) { run8 with st := .sysrefWait, srSeen := false }) (.sysrefEdge 0 0xFF) (fun t => ((pt t).srSeen, (pt t).srMargin)) = some (true, true) ∧
    after (syncDev (1 + 12 + 64) { run8 with st := .sysrefWait, srSeen := false }) (.sysrefEdge 0 0xFF) (fun t => ((pt t).srSeen, (pt t).srMargin)) = some (true, false) ∧
    after (syncDev 2 run8) (.sysrefEdge 0 0) (fun t => ((pt t).beat, (pt t).gapBeats, (pt t).gapSkip)) = some (0, 5, false) ∧
    after (syncDev 2 { run8 with beat := 2000 }) (.sysrefEdge 0 0) (fun t => ((pt t).beat, (pt t).gapBeats, (pt t).gapSkip)) = some (0, 48, true) := by decide +kernel
theorem meets_portStart : let s := portDev { adcDone := true }
    s.dev.served = true ∧ s.dev.rel.devFault = false ∧ s.dev.link? 0 = some (Link.of lnkE) ∧ (s.dev.unit 0).shadow = [] ∧ s.dev.rec? 0 4 = none ∧ (s.dev.port 0).adcDone = true ∧
    (live id).dev.link? 0 = none ∧ ({ run8 with st := .laneSync } : Ing).synced = true ∧ run8.aligned = true ∧ ({ run8 with lanes := [] } : Ing).synced = false ∧ unaligned.aligned = false ∧
    (∀ q ∈ s.dev.startMap 0, ((s.dev.port 0).lane q).retired = false) ∧ (s.dev.startMap 0).length = (Link.of lnkE).l ∧
    (unaligned.lane 7).cdr = true ∧ (unaligned.lane 7).bsync = true ∧ (unaligned.lane 7).idx = none ∧ run8.map.length = 8 ∧ run8.map.Nodup := by decide +kernel
theorem meets_portRuns : let s := portDev { run8 with st := .sysrefWait }
    s.dev.upperPort 0 = false ∧ s.dev.upperPort 1 = false ∧ (∀ q ∈ (pt s).map, ((pt s).lane q).emb = true) ∧ s.dev.methodOf 0 ≠ 2 ∧ (pt s).fallen = false ∧ (pt { s with dev := s.dev.onPort 0 fun g => { g with beat := 186 } }).beat = s.dev.release 0 ∧
    (syncDev 2 run8).dev.srMode 0 = 2 ∧ (syncDev 2 run8).dev.srWin 0 = 0 ∧ (syncDev (1 + 12 + 64) run8).dev.srDly 0 = 3 ∧ (Link.of lnkE).bond = false ∧
   
    (portDev run8).dev.srMode 0 = 1 ∧ run8.emits = true ∧ run8.beat ≠ 0 ∧ (∀ b, b < 16 → ((portDev run8).dev.barrel b).armed = false) ∧ s.dev.rel.queue.length < 64 := by decide +kernel

/-- Lane 3 has failed and the spare holds its alignment; lane 3 with 16 invalid headers; step 4 of a swap. -/
def lane3Down : Ing := { run8 with code := 3, lanes := (lanes8.map fun (i, x) => (i, { x with failed := i == 3 })) ++ [(8, { lockedLane with idx := some 16 })] }
def badHeaders : Ing := { run8 with lanes := lanes8.map fun (i, x) => (i, { x with hdrs := if i = 3 then 0xFFFF else 0 }) }
def swap4 (out : Nat) (bad : Bool) : Ing := { run8 with out, mirrorBad := bad, swap := some { j := 3, p := 3, s := 8, step := 4 } }
theorem test_spare : after (portDev run8) (.laneFail 0 3 true) (fun t => ((pt t).code, (pt t).err, ((pt t).lane 3).failed, ((pt t).lane 8).cal)) = some (3, 1, true, 1) ∧
    after (portDev { run8 with code := 3 }) (.spareSelectFrame 0) (fun t => (pt t).frame) = some 0x66 ∧
    after (portDev lane3Down) (.spareSwitch 0) (fun t => ((pt t).map, (pt t).spareFor, (pt t).swaps)) = some ([0, 1, 2, 8, 4, 5, 6, 7], some 3, 1) ∧
    stays (portDev run8) (.laneFail 0 3 false) = true ∧
    after (portDev badHeaders) (.laneFail 0 3 false) (fun t => ((pt t).code, (pt t).frame)) = some (3, 0x66) := by decide +kernel
/-- A verified copy, one that differed, and one that is too young (R224, R280). -/
theorem test_copy : after (portDev (swap4 1536 false)) (.spareSwitch 0) (fun t => ((pt t).map, (pt t).swap.map (·.step), ((pt t).lane 3).cal)) = some ([0, 1, 2, 8, 4, 5, 6, 7], some 6, 3) ∧
    after (portDev (swap4 1535 true)) (.spareSwitch 0) (fun t => ((pt t).err, (pt t).mirrorBad, (pt t).verifyFrom, t.dev.rel.queue.length)) = some (0x10, false, 1535, 1) ∧
    stays (portDev (swap4 1535 false)) (.spareSwitch 0) = true := by decide +kernel
theorem meets_spare : let s := portDev run8
    (pt s).emits = true ∧ (pt s).swap = none ∧ (pt s).sparePerm = false ∧ (pt s).map.idxOf? 3 = some 3 ∧ s.dev.spare? 0 = some 8 ∧ (pt s).spareFor = none ∧ s.dev.usableSpare 0 = true ∧
    (∀ k ∈ (pt s).map, k ≠ 3 → ((pt s).lane k).failed = false) ∧ s.dev.spselEn 0 = true ∧
    lane3Down.failedLanes = [3] ∧ (lane3Down.lane 8).spareHolds (Link.of lnkE) = true ∧ ((lanes8.map (·.2)).all fun x => !x.spareHolds (Link.of lnkE)) = true ∧
    (badHeaders.lane 3).failing (Link.of lnkE) = true ∧ (run8.lane 3).failing (Link.of lnkE) = false ∧
    (swap4 1536 false).copyVerified (Link.of lnkE) = true ∧ (swap4 1535 true).copyVerified (Link.of lnkE) = false := by decide +kernel

def beat10 : List RawWord := List.replicate 10 (.word 0x100 false)
def beating : Ing := { run8 with stream := beat10 }
theorem test_beat : after (portDev beating) (.beatRelease 0 []) (fun t => ((pt t).n, (pt t).beat, (pt t).pend.length)) = some (10, 6, 10) ∧
    after (portDev { beating with beat := 2047 }) (.beatRelease 0 []) (fun t => (pt t).beat) = some 0 := by decide +kernel
theorem meets_beat : let s := portDev beating
    (s.dev.unit 8).shadow = [] ∧ run8.pend = [] ∧ run8.relinking = false ∧ run8.gapBeats = 0 ∧ beating.stream.length = 10 ∧ s.dev.streamDown 0 = false ∧ (s.dev.unit 0).shadow = [] ∧ beating.emits = true ∧
    RawWord.missing ∉ beat10 ∧ RawWord.overflow ∉ beat10 ∧ (∀ b, b < 16 → (s.dev.barrel b).writing = false) := by decide +kernel

/-- A bonded pair on ports 0 and 1, and a complex port at 10.24 GS/s. -/
def pairDev (g h : Ing) : State := live fun d => { d with
  units := [(0, { com := [(256, lnkE.set 0 (20480000 + 2 ^ 26)), (768, syncE)] })], ing := [(0, g), (1, h)] }
def lnkC : List (BitVec 36) := [10240000 + 2 ^ 25, BitVec.ofNat 36 (8 + 2 * 16 + 8 * 512 + 12 * 2 ^ 15 + 2 ^ 20 + 2 * 2 ^ 24), 2 + 1024]
def cplxDev (g : Ing) : State := live fun d => { d with units := [(0, { com := [(256, lnkC), (768, syncE)] })], ing := [(0, g)] }
/-- The upper port's words are at the top code. -/
def upper : Ing := { run8 with stream := List.replicate 10 (.word 0x7FF false) }
theorem test_pair : after (pairDev { run8 with st := .pllWait } { run8 with st := .pllWait }) (.pllLock 0) (fun t => ((t.dev.port 0).st, (t.dev.port 1).st)) = some (.laneSync, .laneSync) ∧
    after (pairDev run8 run8) (.pllLockLost 0) (fun t => ((t.dev.port 0).st, (t.dev.port 1).st)) = some (.fault, .fault) ∧ stays (pairDev run8 run8) (.pllLock 1) = true ∧
    after (pairDev beating upper) (.beatRelease 0 []) (fun t => ((pt t).n, (pt t).ovr, (t.dev.port 1).ovr, (pt t).err)) = some (20, 0, 10, 0) ∧
    after (pairDev beating { upper with st := .fault }) (.beatRelease 0 []) (fun t => (pt t).n) = some 0 ∧
    after (cplxDev beating) (.beatRelease 0 []) (fun t => ((pt t).n, (pt t).err, (pt t).pend.map (·.gap))) = some (5, 0, List.replicate 5 false) := by decide +kernel
/-- Records for the upper port, whoever sends them (R39). -/
def upperSetup : State := withProg { copy1 { rc with a := (1, 0x814000) :: rc.a.drop 1 } with } fun s => s.onDev fun d => { d with
  units := (pairDev run8 run8).dev.units, hlk := { d.hlk with live := [{ crate runRaw with grants := [0x2200000000000009] }] } }
def upperGo : State := live fun d => { d with units := (9, { typ := 1, len := 4 }) :: (pairDev run8 run8).dev.units }
theorem test_upper : after upperSetup (.setup h1 0x09 1 1) (fun t => ((t.dev.unit 9).shadow.length, (inst t).setups, t.dev.rel.queue.map (·.code))) =
      some (0, [{ idx := 0, result := some .cfgRange }], [0x51]) ∧
    after upperGo (.go 9) (fun t => ((t.dev.unit 9).shadow.length, (t.dev.unit 9).result, t.dev.rel.queue.map (·.code))) = some (0, 1, [0x51]) := by decide +kernel
theorem meets_upper : upperSetup.dev.upperPort 1 = true ∧ upperGo.dev.upperPort 1 = true ∧ upperGo.dev.writeHeld 9 = false ∧ upperSetup.dev.rel.queue.length < 64 ∧ (inst upperSetup).setups = [] ∧
    ({ st := upperSetup, key := 64, inst := inst upperSetup, iss := e0 rc } : Work).granted 2 9 2 = true := by decide +kernel
theorem meets_pair : let s := pairDev beating upper
    s.dev.upperPort 0 = false ∧ s.dev.upperPort 1 = true ∧ (s.dev.port 0).pllLock = true ∧ (s.dev.port 1).en = true ∧ run8.emits = true ∧
    upper.stream.length = 10 ∧ s.dev.streamDown 0 = false ∧ (Link.of (lnkE.set 0 (20480000 + 2 ^ 26))).bond = true ∧ RawWord.missing ∉ upper.stream ∧ RawWord.overflow ∉ upper.stream ∧
    (∀ q ∈ (s.dev.port 1).map, ((s.dev.port 1).lane q).retired = false) := by decide +kernel

/-- The anchors example: 50 °C and 85 °C in band 3 with CTLE 12, 15 and DFE1 −20, −27; the set at 62.25 °C has CTLE 13, DFE1 −22. -/
def trim (ctle : Nat) (dfe1 : BitVec 7) : BitVec 64 := BitVec.ofNat 64 (2 ^ 63 + dfe1.toNat * 32 + ctle)
/-- DEVICE 0's record body with anchors 20, 50, 85, 100, 110 °C. -/
def calDev (g : Ing) : State := ((portDev g).onDev fun d => { d with atc := { d.atc with valid := 0x04 } }).onMem fun m =>
  { m with factory := 0, attic := Tbl.putRun 0 (Tbl.putRun 0 m.attic (0x2000 + 16) ([20, 50, 85, 100, 110] : List Byte)) (0x2000 + 16 + 8 + 8 * (3 * 5 + 1)) (leBytes 8 (trim 12 (BitVec.ofInt 7 (-20))).toNat ++ leBytes 8 (trim 15 (BitVec.ofInt 7 (-27))).toNat) }
theorem test_interpolation : fld ((calDev { run8 with temp := 498 }).interpolated 0 0) 0 5 = 13 ∧ sfld ((calDev { run8 with temp := 498 }).interpolated 0 0) 5 7 = -22 ∧
    (calDev { run8 with temp := 498 }).dev.band 0 = 3 := by decide +kernel

def acq : Ing := { run8 with st := .laneSync, lanes := [(2, { cal := 1 })] }
/-- A port in place: a lane rate of 15.84 Gbit/s. -/
def lnkSlow : List (BitVec 36) := lnkE.set 0 10240000
def slow (g : Ing) (f : Dev → Dev := id) : State := portDev g fun d => f { d with units := [(0, { com := [(256, lnkSlow), (512, mapE), (768, syncE)] })] }
/-- An eye of the given width and height, all of it to one side of the data sampler's setting (R286). -/
def eye (w h : Nat) : EyePoints := { right := List.replicate (w - 1) 0 ++ [7], up := List.replicate (h - 1) 0 }
/-- The converter's mean for port 0, in 1/8 °C. -/
def warm (t : BitVec 12) : State := portDev run8 fun d => { d with mon := { d.mon with temps := [(16, t)] } }
theorem test_eye : scanW (eye 0x20 0x14) = 0x20 ∧ scanH (eye 0x20 0x14) = 0x14 ∧ scanW { centre := 1, right := [0, 0] } = 0 ∧
    scanW { right := List.replicate 200 0, left := List.replicate 200 0 } = 255 ∧ scanW { right := [0, 1, 0], left := [0, 0, 9] } = 4 := by decide +kernel
theorem test_lane_cal : after (portDev acq) (.laneAcquisition 0 2 9 (eye 0x20 0x14)) (fun t => (((pt t).lane 2).cdr, ((pt t).lane 2).trims, ((pt t).lane 2).eyeW)) = some (true, 0x8000000000000009, 0x20) ∧
    after (portDev acq) (.attemptLimitExpiry 0 2) (fun t => (((pt t).lane 2).attempts, ((pt t).lane 2).cal)) = some (1, 1) ∧
    after (slow run8) (.inPlaceTrimStep 0 2 0 true) (fun t => ((pt t).lane 2).trims) = some 1 ∧ stays (portDev run8) (.inPlaceTrimStep 0 2 0 true) = true ∧
    after (warm 16) (.laneTemperatureUpdate 0) (fun t => ((pt t).temp, ((pt t).lane 2).due)) = some (16, 4) ∧
    after (warm 15) (.laneTemperatureUpdate 0) (fun t => ((pt t).lane 2).due) = some 0 ∧
    after (portDev run8) (.calibrationPeriod 0 3) (fun t => ((pt t).lane 3).due) = some 8 ∧ after (portDev run8) (.force 0 3) (fun t => ((pt t).lane 3).due) = some 2 ∧
    after (portDev (swap4 0 false)) (.force 0 5) (fun t => ((pt t).forcePend, (pt t).dropped, ((pt t).lane 5).due)) = some (some 5, 0, 0) ∧
    after (portDev { swap4 0 false with forcePend := some 5 }) (.force 0 6) (fun t => ((pt t).forcePend, (pt t).dropped)) = some (some 5, 1) := by decide +kernel
theorem meets_force : (swap4 0 false).swap ≠ none ∧ run8.swap = none ∧ (swap4 0 false).forcePend = none ∧ (portDev run8).dev.served = true ∧ (slow run8).dev.method 0 ≠ 1 ∧ run8.map[3]? = some 3 := by decide +kernel
theorem meets_lane_cal : fld acq.eyeCfg 0 8 ≤ scanW (eye 0x20 0x14) ∧ fld acq.eyeCfg 8 8 ≤ scanH (eye 0x20 0x14) ∧ scanW (eye 0x1F 0x14) < fld acq.eyeCfg 0 8 ∧
    fld acq.eyeCfg 0 8 = 0x20 ∧ fld acq.eyeCfg 8 8 = 0x14 ∧ (acq.lane 2).retired = false ∧ acq.emits = false ∧ (acq.lane 2).attempts = 0 ∧
    (slow run8).dev.method 0 = 0 ∧ 2 ∈ run8.map ∧ fld (run8.lane 2).trims 0 5 < 31 ∧ (portDev run8).dev.method 0 = 1 := by decide +kernel

/-- Lane 3 due by its PERIOD: step 1 of the example's swap sends code 3. -/
def due3 : Ing := { run8 with lanes := lanes8.map fun (i, x) => (i, { x with due := if i = 3 then 8 else 0, trims := 7 }) }
theorem test_maintenance : after (portDev due3) (.spareSwap 0) (fun t => ((pt t).swap, (pt t).code, ((pt t).lane 3).pre)) = some (some { j := 3, p := 3, s := 8, step := 1 }, 3, 7) ∧
    after (portDev run8) (.eyeScan 0 3 (eye 0x28 0x1C)) (fun t => ((pt t).eyeAlarm, ((pt t).lane 3).eyeW)) = some (false, 0x28) ∧
    after (portDev run8) (.eyeScan 0 3 (eye 0x1B 0x1C)) (fun t => ((pt t).eyeAlarm, t.dev.rel.queue.map (·.sev))) = some (true, [1]) ∧
    after ((calDev { run8 with temp := 400 }).onDev fun d => { d with units := (slow run8).dev.units, tim := { d.tim with ticks := 20480000 } }) (.learnedEntry 0 3)
      (fun t => ((pt t).lane 3).learned) = some [(6, 0x8000000000000000)] ∧
    after (portDev {}) (.retire 0 4) (fun t => (((pt t).lane 4).retired, t.dev.rel.queue.map (·.code), t.dev.atc.jobs.length)) = some (true, [0x60], 1) ∧
    after (portDev { lanes := [(4, { retired := true })] }) (.clear 0 4) (fun t => (((pt t).lane 4).retired, t.dev.atc.jobs.length)) = some (false, 1) ∧
    after (portDev run8) (.retire 0 4) (fun t => t.dev.rel.queue.map (·.code)) = some [0x50] ∧
    after (portDev run8) (.save 0) (fun t => ((pt t).saving, t.dev.atc.jobs.map (fun j => (j.1, j.2.1)))) = some (true, [(.calSave 0, 2)]) := by decide +kernel
/-- Each fall is an event of its own; an eye that stays below is none (R288, R859). -/
def dim (w : BitVec 8) : State := portDev { run8 with eyeAlarm := true, lanes := lanes8.map fun (i, x) => (i, { x with eyeW := w, eyeH := 0x1C, scanTick := some 0 }) }
theorem test_eye_falls : after (dim 0x28) (.eyeScan 0 3 (eye 0x1B 0x1C)) (fun t => t.dev.rel.queue.length) = some 1 ∧
    after (dim 0x27) (.eyeScan 0 3 (eye 0x1B 0x1C)) (fun t => t.dev.rel.queue.length) = some 0 ∧
    scanW (eye 0x1B 0x1C) < fld (pt (dim 0x28)).eyeCfg 16 8 ∧ fld (pt (dim 0x28)).eyeCfg 16 8 ≤ ((pt (dim 0x28)).lane 3).eyeW.toNat := by decide +kernel
theorem meets_maintenance : let s := portDev due3
    (pt s).failedLanes = [] ∧ (pt s).nextDue = some 3 ∧ s.dev.spare? 0 = some 8 ∧ (pt s).map[3]? = some 3 ∧ s.dev.method 0 = 1 ∧ fld (pt s).eyeCfg 16 8 = 0x28 ∧ fld (pt s).eyeCfg 24 8 = 0x1C ∧
    scanW (eye 0x28 0x1C) = 0x28 ∧ scanH (eye 0x28 0x1C) = 0x1C ∧ ((calDev { run8 with temp := 400 }).anchors 0)[1]? = some 400 ∧ s.dev.served = true ∧ (pt s).saving = false := by decide +kernel

/-! Channelisers and spectral engines. -/

/-- WB of the channeliser example: K 5, NCO 0x26C0_0000_0000, resampler bypassed; bank off. -/
def wbE : List (BitVec 36) := [5 + 16, 0, 0x26C, 0x80000000]
theorem test_chn_example : (WbRec.of wbE).w = 0x26C000000000 ∧ (WbRec.of wbE).gd = 1142 ∧ (WbRec.of wbE).s = 18 ∧ 1142 * 10 / 64 = 178 := by decide

/-- The FRAME of the engine example: raw stream, SIZE 9, 75 %, Blackman-Harris, default schedule. -/
def frameE : List (BitVec 36) := [BitVec.ofNat 36 (1 + 9 * 512 + 2 * 8192 + 2 * 32768), 0x10000]
def chnDev (g : Ing) (us : Tbl RecIf) (f : Dev → Dev := id) : State := portDev g fun d => f { d with units := d.units ++ us }
def coarse10 : State := chnDev { run8 with pendStamp := 0x123456789A } [(8, { com := [(256, wbE), (1280, [1 + 10 * 2])] })] fun d => { d with chn := [(0, { clocks := 10, wb := { lp := 5, lpTag := 0 } })] }
theorem test_coarse : after coarse10 (.coarseRound 0) (fun t => (t.dev.chan 0).clocks) = some 0 ∧ stays (chnDev { run8 with pendStamp := 9 } [(8, { com := [(256, wbE), (1280, [1 + 11 * 2])] })] fun d =>
    { d with chn := [(0, { clocks := 10 })] }) (.coarseRound 0) = true := by decide +kernel
theorem meets_coarse : let d := coarse10.dev
    (d.port 0).emits = true ∧ d.wbRec? 0 = some (WbRec.of wbE) ∧ (WbRec.of wbE).wbEn = true ∧ (WbRec.of wbE).nbEn = false ∧ bit (cellOf ((d.rec? 8 5).getD []) 0) 0 = true ∧
    fld (cellOf ((d.rec? 8 5).getD []) 0) 1 16 ≤ (d.chan 0).clocks := by decide +kernel

theorem test_strobe : after (live fun d => { d with chn := [(0, { smode := 1 }), (1, { smode := 2, strobe := some 7 })], spe := [(2, { smode := 2, strobe := some 7 })] }) (.syncStrobe 9)
    (fun t => ((t.dev.chan 0).strobe, (t.dev.chan 0).shot, (t.dev.chan 1).dropped, (t.dev.eng 2).err)) = some (some 9, true, 1, 0x20) := by decide +kernel

/-- The derived figures of the engine example, and L_full of the trigger example. -/
theorem test_frame_example : let f := FrameRec.of frameE
    f.p = 512 ∧ f.w true = 1024 ∧ f.h true = 256 ∧ f.narrowed true = 0 ∧ f.lFull true false = 155 ∧ (portDev run8).dev.frameOk 0 frameE = true ∧
    (portDev run8).dev.frameOk 0 [BitVec.ofNat 36 (1 + 9 * 512 + 3 * 8192 + 2 * 32768), 0x10000] = false := by decide +kernel

/-- A complete window without samples stands for any: what the emission does with its spectrum does not depend on them. -/
def win0 : SpeDone := { frame := [1 + 5 * 512, 0], real := false, table := [], win := { start := 0, seq := 41, discard := false, sched := 0 }, smp := [] }
def emitting (us : Tbl RecIf) (e : Spe := {}) : State := chnDev run8 us fun d => { d with spe := [(0, { e with done := [win0] })] }
theorem win0_empty : (win0.spectrum 0).y = [] := by
  unfold SpeDone.spectrum fft
  cases Config.fftInTime <;> rfl
/-- An enabled STORE of 3 spectra a record. -/
def store3 : List (BitVec 36) := [1 + 1 * 2 + 2 * 32, 0, 0, 0, 0]
theorem meets_emission : let s := emitting [(16, { com := [(768, store3)] })] { bucket := { n := 1 } }
    (s.dev.eng 0).done = [win0] ∧ (s.dev.unit (denUnit 0)).shadow = [] ∧ (∀ i, i < 4 → s.dev.planeRec? 0 i = none) ∧ s.dev.rec? (denUnit 0) 2 = none ∧
    s.dev.paired 0 = false ∧ s.dev.rec? (speUnit 0) 4 = none ∧ s.dev.rec? (speUnit 0) 3 = some store3 ∧ (StoreRec.of store3).en = true ∧ (StoreRec.of store3).kt = 3 := by decide +kernel

theorem test_win_data : after (live fun d => { d with spe := [(1, { winPtr := 32768 })] }) (.speWinData 1 9) (fun t => ((t.dev.eng 1).winShadow, (t.dev.eng 1).winPtr)) = some ([(32768, 9)], 32769) ∧
    after (live fun d => { d with spe := [(1, { winPtr := 32769 })] }) (.speWinData 1 9) (fun t => ((t.dev.eng 1).winShadow, (t.dev.eng 1).winPtr)) = some ([], 32770) := by decide +kernel

def xs (time : Stamp) : XSpec := { seq := 1, time, flags := 0, exp := 0, bins := [0x40001, 0x80000], bad := [false, false] }
/-- Pair 0 of engines 0 and 1 averages 2 products of 2 bins. -/
def pairE : List (BitVec 36) := [8 + 1 * 16, 1 * 65536, 0, 0, 0]
def paired2 (t0 t1 : Stamp) : State := chnDev run8 [(16, { com := [(256, frameE)] }), (0x14, { com := [(256, pairE)] })] fun d => { d with xsp := { d.xsp with pairs := [(0, { lo := [xs t0], hi := [xs t1] })] } }
/-- H / 2 is 128 samples of 20.48 GS/s, 3,276.8 fine ticks. -/
theorem test_cross_match : after (paired2 0 3276) (.crossSpectrumMatch 0) (fun t => ((t.dev.xpair 0).n, (t.dev.xpair 0).acc, (t.dev.xpair 0).lo.length)) = some (1, [(2, 0), (4, 0)], 0) ∧
    after (paired2 0 3277) (.crossSpectrumMatch 0) (fun t => ((t.dev.xpair 0).n, (t.dev.xpair 0).unpaired, (t.dev.xpair 0).lo.length, (t.dev.xpair 0).hi.length)) = some (0, 1, 0, 1) ∧
    after (paired2 3277 0) (.crossSpectrumMatch 0) (fun t => ((t.dev.xpair 0).lo.length, (t.dev.xpair 0).hi.length)) = some (1, 0) := by decide +kernel
theorem meets_cross : let d := (paired2 0 3276).dev
    d.rec? xspUnit 1 0 = some pairE ∧ d.sampleRate 0 (d.frame 0).insel = some (20480000, 1) ∧ (PairRec.of pairE).k = 2 ∧ (d.frame 0).h (d.realInput 0 (d.frame 0).insel) = 256 := by decide +kernel

/-! Triggers. -/

/-- The unit of the trigger example: HMODE 1, HOLD 20,480, AMASK 3; terms on conditions 0 and 1; OMODE 1, ODLY 400, OWID 64. -/
def unitE : List (BitVec 36) := [1 + 3 * 8 + 1 * 2048, 1, 20480]
def condMask : List (BitVec 36) := [BitVec.ofNat 36 (8 + 16), BitVec.ofNat 36 (100 + 63 * 65536), 2 * 65536, 2]
def condWidth : List (BitVec 36) := [BitVec.ofNat 36 (8 + 3 * 16 + 340 * 32768), BitVec.ofInt 36 (-10205 * 262144), 1024, 1024]
def condPin : List (BitVec 36) := [BitVec.ofNat 36 (8 + 7 * 16), 3 * 4, 0, 0]
def trgRecs : RecIf := { com := [(256, unitE), (512, [1 + 2 * 65536, 0]), (768, condMask), (769, condWidth), (770, condPin), (1024, [0]), (1536, [1 + 2 + 64 * 16, 400])] }
def trgDev (t : Trg) (f : Dev → Dev := id) : State := chnDev run8 [(16, { com := [(256, frameE)] }), (24, trgRecs)] fun d => f { d with trg := [(0, t)], tim := { d.tim with count := 5000000200 } }
def tg (t : State) : Trg := t.dev.trig 0

theorem test_trigger_example : condOk 0 condMask = true ∧ condOk 0 condWidth = true ∧ condOk 0 condPin = true ∧ unitOk 0 unitE = true ∧
    (trgDev {}).dev.align 0 = 164 ∧ (trgDev {}).dev.srcClocks 0 = 184 ∧ (trgDev {}).dev.minOdly 0 = 188 := by decide +kernel

def T0 : Stamp := 5000000000 * 256
/-- Beat b of the example: condition 1 fires at sample 4, condition 0 becomes INSIDE at sample 9. -/
def beatB : Trg := { first := false, n := 10, beats := [List.replicate 5 { cell := {}, time := T0 }], results := [{ cond := 1, time := T0 + 102, level := false, value := true }, { cond := 0, time := T0 + 230, level := true, value := true }] }
theorem test_trigger_beat : after (trgDev beatB) (.triggerCombine 0) (fun t => ((tg t).lastTs, (tg t).num, (tg t).ign1, (tg t).starts)) = some (T0 + 102, 1, 1, [5000000401]) ∧
    after (trgDev beatB) (.triggerCombine 0) (fun t => ((tg t).hold.map (·.last), (tg t).n, t.dev.raised.map (fun e => (e.id, e.time)))) =
      some (some (14 + 20480), 20, [(1, T0 + 102), (9, T0 + 102), (13, T0 + 102), (0, T0 + 230), (8, T0 + 230)]) := by decide +kernel
/-- The pending trigger of the example is released by the beat that holds sample n0 + 20,481. -/
def beatP : Trg := { first := false, n := 20490, dropped := 2, stA := false, beats := [List.replicate 5 { cell := {}, time := 5000002048 * 256 }], pend := some { n := 8206, time := 0 }, hold := some { mode := 1, last := 20494, ev := 0, need := 20480 } }
theorem test_trigger_release : after (trgDev beatP) (.triggerCombine 0) (fun t => ((tg t).lastTs, (tg t).pend, (tg t).hold.map (·.last), (tg t).dropped)) =
    some (5000002048 * 256 + 128, none, some (20495 + 20480), 0) := by decide +kernel
theorem meets_combiner : let b : Beat := { t := { first := false, hold := some { mode := 1, last := 5, ev := 0, need := 3 } } }
    (UnitRec.of unitE).seq = false ∧ b.t.results = [] ∧ b.issued = none ∧ b.t.pend = none ∧ (∀ c, c < 8 → bit (0 : BitVec 8) c = (b.t.cond c).value) ∧ b.t.n ≤ 5 ∧
    (let b1 : Beat := { t := { first := false, conds := [(0, { value := true })] } }; ∀ c, c < 8 → bit (1 : BitVec 8) c = (b1.t.cond c).value) ∧
    (trgDev {}).dev.termBits 0 1 &&& (UnitRec.of unitE).aMask ≠ 0 := by decide +kernel
theorem meets_combine : let s := trgDev beatB
    s.dev.link? 0 = some (Link.of lnkE) ∧ (tg s).specs = [] ∧ (s.dev.unit (trgUnit 0)).shadow = [] ∧ (s.dev.eng 0).done = [] ∧ (s.dev.unitRec 0).en = true ∧
    ((chnDev run8 []).dev.unitRec 0).en = false := by decide +kernel

/-- FILT 3: four ticks. The reference time is two ticks before the first tick of the level. -/
theorem test_pins : after (trgDev {}) (.externalInputEdge 0 true 4) (fun t => (((tg t).cond 2).pin, (tg t).results.map (·.time))) = some (true, [(5000000200 - 4 + 1 - 2) * 256]) ∧
    after (trgDev {}) (.externalInputEdge 0 true 3) (fun t => ((tg t).cond 2).pin) = some false ∧ after (trgDev {}) (.externalInputEdge 1 true 9) (fun t => (t.dev.instr.pins.toNat, decide (t.dev.trg = (trgDev {}).dev.trg))) = some (2, true) ∧
    after (trgDev {}) (.instrAssertion true 42) (fun t => t.dev.instr.low) = some true ∧ stays (trgDev {}) (.instrAssertion true 41) = true ∧
    stays (trgDev {} fun d => { d with instr := { d.instr with began := some 5000000100 } }) (.instrAssertion true 42) = true := by decide +kernel
theorem meets_pins : let s := trgDev {}
    (s.dev.condRec 0 2).typ = 7 ∧ (s.dev.condRec 0 2).pin = 0 ∧ ((tg s).cond 2).pin = false ∧ (s.dev.condRec 0 2).filt + 1 = 4 ∧ (s.dev.port 0).emits = true ∧ (s.dev.condRec 0 2).mode = 0 ∧
    s.dev.instr.low = false ∧ fld s.dev.instr.cfg 12 8 + 1 = 42 ∧ fld s.dev.instr.force 20 11 * 4 = 4096 ∧ bit s.dev.instr.force 31 = false ∧ s.dev.instr.began = none := by decide +kernel

/-- A timeout condition of W1 5, a window of 1 sample, hold-off by count and by event. -/
def condTo : List (BitVec 36) := [BitVec.ofNat 36 (8 + 5 * 16 + 2 * 256), 0, 5, 5]
def timers (k : Nat) (h : TrgHold) : State := chnDev run8 [(24, { trgRecs with com := (256, unitE) :: [(771, condTo)] })] fun d => { d with trg := [(0,
  { n := 9, lastTime := some 77, conds := [(3, { crossed := some k })], env0 := { n := 9 }, window := some 7, hold := some h })] }
theorem test_timers : after (timers 4 { mode := 1, last := 8, ev := 0, need := 3 }) (.timeoutCondition 0 3) (fun t => (((tg t).cond 3).crossed, (tg t).results.length)) = some (none, 1) ∧
    after (timers 5 { mode := 1, last := 8, ev := 0, need := 3 }) (.timeoutCondition 0 3) (fun t => ((tg t).cond 3).crossed) = some (some 5) ∧
    after (timers 4 { mode := 1, last := 8, ev := 0, need := 3 }) (.sequencerWindowExpiry 0) (fun t => (tg t).window) = some none ∧
    after (timers 4 { mode := 1, last := 8, ev := 0, need := 3 }) (.holdoffEnd 0) (fun t => ((tg t).hold, t.dev.raised.map (·.id))) = some (none, [14]) ∧
    stays (timers 4 { mode := 1, last := 9, ev := 0, need := 3 }) (.holdoffEnd 0) = true ∧
    after (timers 4 { mode := 2, last := 0, ev := 5, count := 3, need := 3 }) (.holdoffEnd 0) (fun t => (tg t).hold) = some none := by decide +kernel
theorem meets_timers : let s := timers 4 { mode := 2, last := 0, ev := 5, count := 2, need := 3 }
    (s.dev.condRec 0 3).typ = 5 ∧ (s.dev.condRec 0 3).mode = 2 ∧ (s.dev.condRec 0 3).w1 = 5 ∧ ((tg s).cond 3).crossed = some 4 ∧ ((tg s).env (s.dev.condRec 0 3).env).n = 9 ∧ (tg s).window = some 7 ∧
    (tg s).lastTime = some 77 := by decide +kernel

theorem test_trigger_controls : after (trgDev {}) (.trgForce 0) (fun t => (tg t).force) = some true ∧ after (trgDev { pend := some { n := 1, time := 0 } }) (.clrPend 0) (fun t => ((tg t).pend, (tg t).ign0)) = some (none, 1) ∧
    after (trgDev { starts := [7, 9] }) (.trgoScheduledStart 0) (fun t => ((tg t).starts, (tg t).pulse)) = some ([9], some (5000000200 + 64)) ∧
    after (trgDev { pulse := some 5 }) (.trgoPulseEnd 0) (fun t => (tg t).pulse) = some none ∧
    after (trgDev {} fun d => { d with instr := { d.instr with pulls := [5, 6] } }) .instrPullEnd (fun t => t.dev.instr.pulls) = some [6] ∧
    after (trgDev { maskPtr := 65535 }) (.trgMaskData 0 0x8000 1) (fun t => ((tg t).maskShadow, (tg t).maskPtr)) = some ([(65535, 0x78000)], 0) := by decide +kernel
theorem meets_trigger_controls : let s := trgDev {}; let h := trgDev {} fun d => { d with hlk := { d.hlk with live := [{ crate runRaw with grants := [0x2200000000000018] }] } }
    s.dev.served = true ∧ s.dev.rel.devFault = false ∧ s.dev.writeHeld (trgUnit 0) = false ∧ s.dev.upperPort 0 = false ∧ h.dev.writeHeld (trgUnit 0) = true ∧ s.dev.rel.queue.length < 64 := by decide +kernel

/-! Barrels: the worked example. -/

/-- 32 Shelves of session 7 under handle 5, from Shelf 1. -/
def shelves32 : List ShelfEntry := (List.range 32).map fun i => { session := 7, idx := 1 + i, handle := 5, place := .resident (64 + i), spill := false }
def dirE : Nat := 200 * 16384
def srcRec (fmt : Nat) : BarSrc := { port := 0, sel := 0, fmt, segwrap := false, early := false, tmapBase := dirE + 8192, tmap := 256, dirBase := dirE }
def barDev (l : List (Nat × Nat)) (r : Barrel) (f : Dev → Dev := id) : State := trgDev {} fun d => f { d with
  barrels := [(3, r)], stk := { d.stk with shelves := shelves32, loft := [(200, { session := 7, handle := 6 })] }
  hlk := { d.hlk with sessions := [(7, { st := .opened, qInflight := 8 })], live := [{ uid := 2, session := 7, hatch := 20, index := 0, raw := craw ([(0, 4), (2, 0x33), (33, 3)] ++ l), phase := .ready 0 }] } }
def armE : List (Nat × Nat) := [(34, 0x00D), (36, 5), (40, 2048), (48, 20480), (56, 256)]
def bar (t : State) : Barrel := t.dev.barrel 3
def free3 : Barrel := { owner := some 7, src := some (srcRec 0) }

theorem test_arm_example : after (barDev armE free3) (.arm 2) (fun t => ((bar t).segcap, (bar t).unitsPerRegion, (bar t).lat, (bar t).st, t.dev.live? 2 |>.map (·.phase))) =
      some (174720, 1365, 1840, .filling, some .decided) ∧
    after (barDev armE free3) (.arm 2) (fun t => ((bar t).res.num, (bar t).base, (t.dev.stk.shelves.map (·.pins)).foldl (· + ·) 0)) = some (30720000000 * 128, 0x200000, 32) := by decide +kernel
def arm1 : ArmParams := { tsrc := 0x00D, handle := 5, pre := 2048, post := 20480, nseg := 256 }
def errOf (d : Dev) (a : ArmParams := arm1) : Option Status := match d.armTests 7 3 a with | .ok _ => none | .error st => some st
theorem test_arm_tests : errOf (barDev [] free3).dev = none ∧ errOf (barDev [] { free3 with owner := none }).dev = some .grantFault ∧ errOf (barDev [] { free3 with st := .ready }).dev = some .armBusy ∧
    errOf (barDev [] { free3 with src := none }).dev = some .cfgRange ∧ errOf (barDev [] free3).dev { arm1 with nseg := 65537 } = some .cfgRange ∧
    errOf (barDev [] free3).dev { arm1 with pre := 174720 - 20480 - 1840 } = none ∧ errOf (barDev [] free3).dev { arm1 with pre := 174720 - 20480 - 1839 } = some .armCapacity ∧
    errOf (barDev [] free3 fun d => d.onPort 0 fun g => { g with st := .fault }).dev = some .portDown := by decide +kernel
theorem meets_arm : let d := (barDev armE free3).dev; let c : Live := { uid := 2, session := 7, hatch := 20, index := 0, raw := craw ([(0, 4), (2, 0x33), (33, 3)] ++ armE), phase := .ready 0 }
    d.starts 2 4 (fun c => c.num 32 1 == 0) = some c ∧ c.barrelNo = 3 ∧ d.live? 2 = some c ∧ errOf d = none ∧ d.stk.allResident 7 5 = true ∧ (d.armLat 0x00D {}).isSome = true ∧
    d.loftOwned 7 dirE (8 * 256) = true ∧ (d.port 0).st ≠ .fault ∧ (d.armed? 3 arm1 (srcRec 0)).isSome = true ∧ ({ d.stk with shelves := [{ session := 7, idx := 1, handle := 5, place := .paged 0, spill := true }] } : Stk).allResident 7 5 = false := by decide +kernel
/-- An ARM that meets a stack in self-refresh waits for its exit (R676); a REARM of another session's Barrel. -/
theorem test_arm_waits : after (barDev armE free3 fun d => { d with cel := { d.cel with selfref := 1 } }) (.arm 2) (fun t => ((bar t).st, (bar t).armUid)) = some (.arming, some 2) ∧
    after (barDev [(32, 2)] { free3 with owner := some 8, arm := some arm1 }) (.rearm 2) stat = some (some .grantFault) := by decide +kernel
theorem meets_disarm : ((barDev [(32, 1)] { free3 with st := .ready }).dev.starts 2 4 (fun c => c.num 32 1 == 1)).isSome = true ∧ free3.entries = [] ∧ free3.armed = false := by decide +kernel
theorem meets_rearm : let d := (barDev [(32, 2)] { free3 with arm := some arm1 }).dev
    (d.starts 2 4 (fun c => c.num 32 1 == 2)).isSome = true ∧ (d.live? 2).all (fun c => zeroBytes c.raw 34 59) = true ∧ (d.barrel 3).arm = some arm1 ∧
    ((barDev [(32, 1)] { free3 with st := .ready, arm := some arm1 }).dev.starts 2 4 (fun c => c.num 32 1 == 1)).isSome = true := by decide +kernel
theorem test_rearm_disarm : after (barDev [(32, 2)] { free3 with arm := some arm1 }) (.rearm 2) (fun t => (bar t).st) = some .filling ∧ after (barDev [(32, 2)] free3) (.rearm 2) stat = some (some .cfgRange) ∧
    after (barDev [(32, 1)] { free3 with st := .ready, arm := some arm1 }) (.disarm 2) (fun t => ((bar t).st, t.dev.raised.map (·.id))) = some (.stopped, [0x10F]) ∧
    after (barDev [(32, 1)] free3) (.disarm 2) (fun t => ((bar t).owner, stat t)) = some (none, some .ok) ∧ after (barDev [(32, 1)] { free3 with owner := some 8 }) (.disarm 2) stat = some (some .grantFault) := by decide +kernel

/-- The capture of the example, at position 1,001,000. -/
def cap0 : Barrel := { free3 with arm := some arm1, st := .ready, segcap := 174720, unitsPerRegion := 1365, pos := 1001000, anchor := some (0, 0), fb := { num := 20480000000, den := 1 }, base := 0x200000 }
/-- Position p, 25.6 fine ticks a sample. -/
def at20 (p : Nat) : Stamp := BitVec.ofNat 72 (p * 256 / 10)
theorem test_capture_triggers : after (barDev [] cap0) (.barrelTrigger 3 (at20 1000000)) (fun t => ((bar t).st, (bar t).tpos, (bar t).npre, (bar t).lastPos, t.dev.raised.map (·.id))) =
      some (.post, 1000000, 2048, 1020479, [0x10D]) ∧
    after (barDev [] { cap0 with st := .post, tpos := 1000000, npre := 2048, lastPos := 1020479 }) (.barrelTrigger 3 (at20 1015000)) (fun t => (bar t).held) = some (some (1015000, at20 1015000)) ∧
    after (barDev [] { cap0 with st := .post, lastPos := 1020479, held := some (1015000, 0) }) (.barrelTrigger 3 (at20 1018000)) (fun t => ((bar t).ign, (bar t).capIgn)) = some (1, 1) ∧
    after (barDev [] { cap0 with st := .filling }) (.barrelTrigger 3 (at20 1000000)) (fun t => ((bar t).st, (bar t).ign)) = some (.filling, 1) ∧ stays (barDev [] free3) (.barrelTrigger 3 5) = true := by decide +kernel
theorem meets_triggers : cap0.params.tsrc < 4096 ∧ cap0.anchor.isSome = true ∧ 0 ≤ cap0.sampleAt (at20 1000000) ∧ cap0.sampleAt (at20 1000000) = 1000000 ∧ (cap0.capture ≠ 0 ∨ cap0.srcRec.early = false) ∧
    2 ≤ cap0.params.nseg ∧ free3.writing = false := by decide +kernel

def closing0 : Barrel := { cap0 with st := .post, tpos := 1000000, npre := 2048, lastPos := 1020479, pos := 1020480, trigTime := at20 1000000, held := some (1015000, at20 1015000), capIgn := 1 }
def entry (t : State) (k i : Nat) : Nat := (t.mem.loftGet (dirE + 8 * k + i)).data.toNat
theorem test_capture_close : after (barDev [] closing0) (.captureClose 3) (fun t => ((bar t).capture, (bar t).npre, (bar t).lastPos, (bar t).flags)) = some (1, -5480, 1035479, 0x02) ∧
    after (barDev [] closing0) (.captureClose 3) (fun t => [entry t 0 2, entry t 0 4, entry t 0 5, entry t 0 6, entry t 0 7]) = some [1000000, 124352, 2048, 22528, 1] ∧
    after (barDev [] { closing0 with capture := 1, origins := [(1, 1020480)], start := 1020480, tpos := 1015000, npre := -5480, lastPos := 1035479, pos := 1035480, held := none, capIgn := 0, flags := 2 }) (.captureClose 3)
      (fun t => ([entry t 1 4, entry t 1 5, entry t 1 6, entry t 1 7], (bar t).capture, (bar t).st)) = some ([0, 0xFFFFFEA98, 15000, 0x20000], 2, .filling) ∧
    after (barDev [] { closing0 with arm := some { arm1 with nseg := 0 }, held := none }) (.captureClose 3) (fun t => ((bar t).st, t.dev.raised.map (·.id))) = some (.stopped, [0x10E, 0x10F]) := by decide +kernel
theorem meets_captures : closing0.st = .post ∧ closing0.run = none ∧ closing0.lastPos + 1 = closing0.pos ∧ closing0.tmapCount = closing0.tmapStart ∧ closing0.armUid = none ∧ closing0.capture + 1 < closing0.params.nseg ∧
    closing0.later = [] ∧ 0 < closing0.params.pre ∧ ({ closing0 with arm := some { arm1 with nseg := 0 } } : Barrel).params.nseg = 0 := by decide +kernel

/-- A complex stream in 64-bit cells; and the example's slot 126,400 of P12: unit 987, sample 64, byte 189,600. -/
def writer8 : Barrel := { cap0 with src := some (srcRec 4), real := false, segcap := 16, unitsPerRegion := 2, pos := 9, queue := [{ cell := { data := 0x123456789 }, time := 77 }] }
theorem test_writer : after (barDev [] writer8) (.barrelWrite 3 1) (fun t => ((bar t).pos, (bar t).queue.length, Tbl.getRun 0 t.mem.cellar (64 * shelfBytes + 72) 8)) = some (10, 0, [0x89, 0x67, 0x45, 0x23, 1, 0, 0, 0]) ∧
    { cap0 with base := 0 }.unitAddr 126400 = (987 * 192, 64) := by decide +kernel
theorem meets_writer : writer8.st = .ready ∧ writer8.gaps = [] ∧ writer8.pendHalf = none ∧ writer8.paused = false ∧ writer8.real = false ∧ writer8.srcRec.fmt = 4 ∧ writer8.run = none ∧
    (barDev [] writer8).dev.stk.translate 7 (0x200000 + 72) = .phys (64 * shelfBytes + 72) ∧ (writer8.unitAddr (writer8.slotOf writer8.pos)) = (0x200000 + 64, 1) := by decide +kernel

/-! Movers and streams. -/

def moverDev (l : List (Nat × Nat)) (v : Mover) (f : State → State := id) : State := f (own l fun d => { d with
  mov := { d.mov with movers := [(3, v)] }, stk := { d.stk with loft := [(8, { session := 9, handle := 1 })] } })
def mvr (t : State) : Mover := t.dev.mover 3
def act0 : Activation := { crate := some 2, session := 9, first := 0x4000 }
def chain0 : Chain := { act := act0, cur := 0x4000 }
def chained (f : State → State := id) (v : Mover := { chain := some chain0 }) : State := moverDev [] v fun s => f (s.onDev fun d => { d with hlk := { d.hlk with live := d.hlk.live.map fun c => { c with phase := .active } } })
/-- FILL, COPY and COMPARE of 3 cells from Loft cell 0x20000 to 0x20010, the last of the chain. -/
def desc (op count src : Nat) (w5 : Nat := 0) : BitVec 512 :=
  BitVec.ofNat 512 (op + (if op = 1 then 0 else 2 * 16) + 2 * 64 + 0x1000 + count * 2 ^ 64 + src * 2 ^ 128 + 0x20010 * 2 ^ 192 + w5 * 2 ^ 320)
def cells3 (s : State) : State := s.onMem fun m => m.loftPutRun 0x20000 [{ data := 1 }, { data := 2, tag := 2 }, { data := 3 }]

theorem test_move : after (moverDev [(0, 2), (32, 0x4000), (40, 3)] {}) (.move 2) (fun t => ((mvr t).chain.map (·.cur), (mvr t).queue.length)) = some (some 0x4000, 0) ∧
    stays (moverDev [(0, 2), (32, 0x4000), (40, 3)] { halted := true }) (.move 2) = true := by decide +kernel
/-- A MOVE Crate behind another ready one of a more urgent class for the mover (R191). -/
def behindMove : State := (moverDev [(0, 2), (32, 0x4000), (40, 3)] {}).onDev fun d => { d with hlk := { d.hlk with live := d.hlk.live.map (fun c => { c with cls := 5 }) ++ d.hlk.live.map (fun c => { c with uid := 1, index := c.index + 1, cls := 1 }) } }
theorem test_move_turn : stays behindMove (.move 2) = true ∧ after behindMove (.move 1) (fun t => (mvr t).chain.map (·.act.uid)) = some (some 1) := by decide +kernel
theorem meets_move_turn : (behindMove.dev.live? 2).any (fun c => !behindMove.dev.moveTurn 3 c) = true ∧
    ((moverDev [(0, 2), (32, 0x4000), (40, 3)] {}).dev.live? 2).any (fun c => (moverDev [(0, 2), (32, 0x4000), (40, 3)] {}).dev.moveTurn 3 c) = true := by decide +kernel
theorem meets_move : ((moverDev [(0, 2), (32, 0x4000), (40, 3)] {}).dev.starts 2 2).isSome = true ∧ ((moverDev [(0, 2), (32, 0x4000), (40, 3)] {}).dev.live? 2).map (·.num 40 1) = some 3 := by decide +kernel
theorem test_descriptors : after (chained) (.fill 3 (desc 1 3 0 0x2000000007)) (fun t => (t.mem.loftGet 0x20012, t.mem.loftGet 0x20013, (mvr t).chain.map (·.bytes))) = some ({ data := 7, tag := 2 }, {}, some 24) ∧
    after (chained cells3) (.copy 3 (desc 0 3 0x20000) []) (fun t => (t.mem.loftGet 0x20011, (mvr t).chain.map (·.fin))) = some ({ data := 2, tag := 2 }, some (some .ok)) ∧
    after (chained cells3) (.compare 3 (desc 2 3 0x20000) [] []) (fun t => (mvr t).chain.map fun c => (c.fin, c.failAddr)) = some (some (some .compareMismatch, 0x20010)) ∧
    after (chained) (.compare 3 (desc 2 3 0x20000) [] []) (fun t => (mvr t).chain.map fun c => (c.fin, c.bytes)) = some (some (some .ok, 24)) := by decide +kernel
theorem meets_descriptors : let x := Desc.ofBits (desc 0 3 0x20000); let f := Desc.ofBits (desc 1 3 0 0x2000000007); let s := chained cells3
    x.wellFormed false true = true ∧ f.wellFormed false true = true ∧ (Desc.ofBits (desc 2 3 0x20000)).wellFormed false true = true ∧ x.dspace = 2 ∧ x.sspace = 2 ∧ x.rows = 1 ∧ x.count = 3 ∧ x.dst + x.count ≤ 2 ^ 24 ∧
    x.src + x.count ≤ x.dst ∧ chain0.cur % 64 = 0 ∧ s.dev.inHdm chain0.cur 64 = false ∧ s.dev.ownsPage 9 (0x20000 / 16384) = true ∧ s.mem.loftErr = [] ∧ chain0.stalled = false ∧ chain0.completed = 0 ∧ x.last = true ∧ x.notag = false ∧
    s.mem.loftGet x.src ≠ s.mem.loftGet x.dst ∧ ({ act := act0, cur := 0x4000 } : Chain).fin = none := by decide +kernel

def ended (st : Status) : State := chained id { chain := some { chain0 with fin := some st, bytes := 24, completed := 1, failAddr := 0x4040 } }
theorem test_chain_end : after (chained id { chain := some { chain0 with completed := 1, hops := 65536 } }) (.hopLimit 3) (fun t => ((mvr t).chain.map (·.fin), (mvr t).err.map (·.status))) = some (some (some .loop), some .loop) ∧
    after (chained) (.requestTimeout 3 true 1 0x77) (fun t => ((mvr t).halted, (mvr t).err, t.dev.rel.queue.map (·.code))) = some (true, some { status := .timeout, dirWrite := true, space := 1, addr := 0x77 }, [0x21]) ∧
    after (chained) (.busError 3 false 0 0x77) (fun t => ((mvr t).halted, t.dev.rel.queue.map (·.code))) = some (true, [0x20]) ∧
    after (chained) (.stop 3) (fun t => (mvr t).chain.map fun c => (c.stop, c.fin)) = some (some (true, none)) ∧
    after (ended .ok) (.chainCompletion 3) (fun t => ((mvr t).chain.isSome, done t 24 1)) = some (false, true) ∧ after (ended .loop) (.chainCompletion 3) (fun t => (stat t, t.dev.mov.failLoop)) = some (some .loop, 1) ∧
    after (chained id { halted := true }) (.resume 3) (fun t => (mvr t).halted) = some false := by decide +kernel
/-- While a chain is stalled on a page-in it has no request outstanding (R199), and STOP ends it at once (R637). -/
def stalledC : State := (chained id { chain := some { chain0 with stalled := true, targets := [1] } }).onDev fun d => { d with
  stk := { d.stk with shelves := [{ session := 9, idx := 1, handle := 1, place := .paged 0, spill := true }] } }
theorem test_stalled_chain : stays stalledC (.requestTimeout 3 true 1 0x77) = true ∧ after stalledC (.stop 3) (fun t => (mvr t).chain.map fun c => (c.stop, c.fin)) = some (some (true, some .cancelled)) := by decide +kernel
theorem meets_chains : let s := chained id { chain := some { chain0 with completed := 1, hops := 65536 } }
    (mvr s).chain.map (fun c => (c.act.crate, c.fin, c.completed)) = some (some 2, none, 1) ∧ act0.budget ≤ 65536 ∧ s.dev.rel.queue.length < 64 ∧ s.dev.served = true ∧
    (s.dev.live? 2).map (·.phase) = some .active ∧ s.dev.rel.devFault = false := by decide +kernel

/-- STREAM open: rate 5 MB/s, ring of 2^16 bytes, KIND 2 of queue tag 0; one module at rate 1. -/
def openE : List (Nat × Nat) := [(0, 3), (33, 255), (36, 5), (40, 0x10000), (48, 16), (56, 2)]
def strmDev (l : List (Nat × Nat)) (ss : Tbl Stream := []) : State := own l fun d => { d with hlk := { d.hlk with linkStat := 0x11 }, mov := { d.mov with streams := ss } }
def s9 : Stream := { session := 9, src := 2, cmpe := 0xFF, rate := 5, rbase := 0x10000, rlog2 := 16, mover := 0 }
theorem test_stream_open : after (strmDev openE) (.streamOpen 2) (fun t => (done t 0 1, (Tbl.find? t.dev.mov.streams 1).map fun x => (x.rlog2, x.rate))) = some (true, some (16, 5)) ∧
    after (strmDev [(0, 3), (33, 255), (36, 5), (40, 0x10000), (48, 15), (56, 2)]) (.streamOpen 2) stat = some (some .cfgRange) ∧
    after (strmDev [(0, 3), (32, 1), (33, 255), (34, 4)]) (.streamClose 2) stat = some (some .cfgRange) := by decide +kernel
/-- A STREAM Crate behind a more urgent activation on its mover, and one with its ring in the HDM window (R90, R191). -/
def waitsOpen : State := (strmDev openE).onDev fun d => { d with
  hlk := { d.hlk with live := d.hlk.live ++ [{ uid := 1, session := 9, hatch := 20, index := 1, raw := craw [(0, 2), (2, 0x34), (40, 0)], phase := .active }] }
  mov := { d.mov with movers := [(0, { queue := [{ act0 with crate := some 1 }] })] } }
def ringInHdm : State := (strmDev openE).onDev hdmUp
theorem test_stream_turn : stays waitsOpen (.streamOpen 2) = true ∧ after ringInHdm (.streamOpen 2) stat = some (some .grantFault) := by decide +kernel
theorem meets_streamTurn : waitsOpen.dev.mov.streamMover = 0 ∧ (waitsOpen.dev.starts 2 3 (fun c => c.num 32 1 == 0)).any (fun c => !waitsOpen.dev.streamTurn 0 c) = true ∧
    ((strmDev openE).dev.starts 2 3).any (fun c => (strmDev openE).dev.streamTurn 0 c) = true ∧ ringInHdm.dev.inHdm 0x10000 (2 ^ 16 + 64) = true := by decide +kernel
theorem meets_streams : let d := (strmDev openE).dev
    (d.starts 2 3 (fun c => c.num 32 1 == 0)).isSome = true ∧ d.declared + 5 ≤ d.streamCap * 1000 ∧ d.mov.nextSid = 1 ∧ fld (2 : BitVec 64) 0 4 = 2 ∧ fld (2 : BitVec 64) 4 4 ≤ 7 ∧ d.insts = [] ∧
    ((strmDev [(0, 3), (32, 1), (33, 255), (34, 4)] [(4, s9)]).dev.starts 2 3 (fun c => c.num 32 1 == 1)).isSome = true ∧ s9.closing = none := by decide +kernel

/-- Two cells of a raw stream in 40-bit form, bounded by a FENCE: a frame of 10 bytes. -/
def raw9 : Stream := { s9 with src := 0x41, queue := [{ cell := { data := 0x123456789 }, time := 0x77 }, { cell := { data := 1, tag := 2 } }], fences := [(50, 2)], write := 64, read := 0 }
theorem test_stream_frame : after (strmDev [] [(4, raw9)]) (.streamFrame 4) (fun t => (t.dev.host.map (fun x => match x with | .write a b => (false, a, b.length) | .itoMWr a b => (true, a, b.length) | _ => (false, 0, 0)), (Tbl.find? t.dev.mov.streams 4).map (·.write))) =
      some ([(true, 0x10040, 64), (true, 0x10080, 64), (false, 0x20000, 8), (false, 0x20010, 8)], some 192) ∧
    after (strmDev [] [(4, { raw9 with write := 0xFFC0 })]) (.streamFrame 4) (fun t => (t.dev.host, (Tbl.find? t.dev.mov.streams 4).map (·.wait))) = some ([], some true) ∧
    after (strmDev [] [(4, { raw9 with wait := true })]) (.readReread 4 64) (fun t => (Tbl.find? t.dev.mov.streams 4).map (·.read)) = some (some 64) := by decide +kernel
/-- R636: a HALTED mover writes no frame; R651: a READ beyond what was written. -/
def haltedFrame : State := (strmDev [] [(4, raw9)]).onDev fun d => { d with mov := { d.mov with movers := [(0, { halted := true })] } }
theorem test_frame_stops : stays haltedFrame (.streamFrame 4) = true ∧ (haltedFrame.dev.mover raw9.mover).halted = true ∧ raw9.halt = none ∧
    after (strmDev [] [(4, { raw9 with wait := true })]) (.readReread 4 65) (fun t => ((Tbl.find? t.dev.mov.streams 4).map (·.badRead), t.dev.rel.queue.map (·.sev))) = some (some true, [0]) := by decide +kernel
theorem meets_frames : raw9.kind = 1 ∧ (raw9.queueFrame.any fun f => !f.last && !f.comp && f.payload.length == 10) = true ∧ (strmDev [] [(4, raw9)]).dev.host = [] ∧
    64 + (64 + 10 + 54) ≤ 2 ^ raw9.rlog2 ∧ 2 ^ raw9.rlog2 < (0xFFC0 : BitVec 64).toNat + 128 := by decide +kernel
/-- The compression example, "ABABABA". -/
theorem test_compression : codeBlock [0x41, 0x42, 0x41, 0x42, 0x41, 0x42, 0x41] 16320 = ([0x41, 0x84, 0x04, 0x1C, 0x08, 0x10, 7, 0, 0, 0, 0xCB, 0x01, 0x2F, 0x07], 7) := by decide +kernel

def occ : EventOcc := { id := 0x300, time := 55 }
theorem test_event : after ((withProg { copy1 rc with ev := [(1, { sel := 0x1300, count := 254 }), (2, { sel := 0x1300, count := 255, last := 1 }), (3, { sel := 0x0300 })] }).onDev fun d => { d with raised := [occ] }) (.eventArrival 0)
      (fun t => (((inst t).entry 1).count, ((inst t).entry 1).last, ((inst t).entry 2).last, ((inst t).entry 3).count, t.dev.raised.length)) = some (255, 55, 1, 0, 0) ∧
    after (exDev [exLive .waiting [.event 0x300, .event 0x301]] 42 fun d => { d with raised := [occ] }) (.eventArrival 0) (fun t => (t.dev.hlk.live.map (·.deps), t.dev.hlk.arrivals, t.dev.hlk.arriveTick)) =
      some ([[.met, .event 0x301]], [occ], 1600000000) := by decide +kernel
theorem meets_event : ((withProg (copy1 rc)).onDev fun d => { d with raised := [occ] }).dev.raised[(0 : BitVec 16).toNat]? = some occ ∧ occ.reach = none := by decide
theorem test_queue_write : after (strmDev [] [(4, s9)]) (.queueWrite (.stream 4) false { data := 3 } 7 true) (fun t => (Tbl.find? t.dev.mov.streams 4).map (·.queue)) = some (some [{ cell := { data := 3 }, time := 7, eop := true }]) := by decide +kernel
/-- A reserved tag becomes GAP with a NOTE (R20); pointer copies that differ empty the queue (R66); a full queue is overrun (R68). -/
theorem test_queue_troubles :
    after (strmDev [] [(4, s9)]) (.queueWrite (.stream 4) false { data := 3, tag := 9 } 7 true) (fun t => ((Tbl.find? t.dev.mov.streams 4).map fun x => x.queue.map (·.cell.tag), t.dev.rel.queue.map (·.sev))) = some (some [tagGap], [0]) ∧
    after (strmDev [] [(4, raw9)]) (.queueWrite (.stream 4) true { data := 3 } 7 true) (fun t => ((Tbl.find? t.dev.mov.streams 4).map fun x => (x.queue.map (·.cell.tag), x.lost), t.dev.rel.queue.map fun r => (r.code, r.sev))) =
      some (some ([tagGap], 2), [(0x7F, 3)]) := by decide +kernel
theorem meets_queue_mismatch : raw9.kind = 1 ∧ tagReserved 0 = false ∧ tagReserved 9 = true ∧ (strmDev [] [(4, raw9)]).dev.rel.queue.length < 64 ∧
    (Tbl.get {} (strmDev [] [(4, raw9)]).dev.rel.domains (domMover raw9.mover).toNat).outstanding = false := by decide +kernel
theorem meets_queue_full : 16384 ≤ ({ s9 with queue := List.replicate 16384 { cell := {} } } : Stream).queue.length ∧ s9.gapNext = false ∧ s9.overrun = false := ⟨Nat.le_of_eq List.length_replicate.symm, rfl, rfl⟩

/-! Density and scan-out. -/

/-- Figures of the density example: the row of LP16 −1,701, the steady count, the log index, RGAIN 3,227, and the link rate. -/
theorem test_density_example : (PlaneRec.of [BitVec.ofNat 36 (4 + 512 * 8192), BitVec.ofNat 36 (512 * 65536), BitVec.ofNat 36 (65536 - 8504 + 20 * 65536), 0, 0]).row (-1701 * 4) = some 340 ∧
    (1280000 + 8) / 16 = 80000 ∧ logIndex 1280000 = 20774 ∧ logIndex 1 = 1024 ∧ (Den.pixel { cmap := [(1023, 7), (50, 9)] } 1 3227 1280000, Den.pixel { cmap := [(1023, 7), (50, 9)] } 1 3227 1) = (7, 9) ∧
    outFits { en := true, lanes := 2, rate := 2 } 594000 = false ∧ outFits { en := true, lanes := 2, rate := 3 } 594000 = true := by decide +kernel
/-- The plane of these tests: plane 0, COLS 512, BPC 0, ROWS 512, SPD 1, RSTEP 12, ROW0 -4096, DSH 4; DBASE and DPER as given. -/
def planeE (dbase dper : Nat) (cols rows : Nat := 512) : List (BitVec 36) :=
  [BitVec.ofNat 36 (4 + cols * 8192), BitVec.ofNat 36 (rows * 65536), BitVec.ofNat 36 (0xF000 + 12 * 65536), BitVec.ofNat 36 (dbase * 65536 + 4 * 2 ^ 17), BitVec.ofNat 36 dper]
def occE (count : Nat) : List (BitVec 36) := [1, 1 + 0 * 65536, BitVec.ofNat 36 count, 1 + 8 * 8, 0x1000, 0x2000 * 4096]
def renderE : List (BitVec 36) := [BitVec.ofNat 36 (1 * 2 ^ 10), 0x200000, 128 * 4096, 0x10000, 0x3000]
def denDev (e : Den) (i : RecIf := { com := [(256, planeE 0 2), (257, planeE 1 1), (512, occE 2)] }) : State := chnDev run8 [(16, { com := [(256, frameE)] }), (0x20, i)] fun d => { d with
  den := [(0, e)], insts := [], tim := { d.tim with count := 10000 }, stk := { d.stk with shelves := [{ session := 9, idx := 1, handle := 1, place := .resident 64, spill := false }] } }
def den0 (t : State) : Den := t.dev.dens 0

/-- DSH 4: 24 loses 2 (24 + 8 over 16), 8 loses 1, 1 loses 1. -/
theorem test_decay : let c : Tbl Nat := [(0, 24), (1, 8), (5, 1)]
    after (denDev { planes := [(0, { cnt := c, per := 2 })] }) (.decay 0 0) (fun t => (((den0 t).plane 0).cnt, ((den0 t).plane 0).decays, ((den0 t).plane 0).per)) = some ([(0, 22), (1, 7)], 1, 0) ∧
    stays (denDev { planes := [(0, { cnt := c, per := 1 })] }) (.decay 0 0) = true ∧
    after (denDev { planes := [(1, { cnt := [(0, 24)], perEnd := 10000 * 256 })] }) (.decay 0 1) (fun t => (((den0 t).plane 1).cnt, ((den0 t).plane 1).perEnd)) = some ([(0, 22)], 10000 * 256 + 524288) ∧
    stays (denDev { planes := [(1, { cnt := [(0, 24)], perEnd := 10000 * 256 + 1 })] }) (.decay 0 1) = true := by decide +kernel
theorem meets_decay : let d := (denDev {}).dev
    d.planeRec? 0 0 = some (PlaneRec.of (planeE 0 2)) ∧ (PlaneRec.of (planeE 0 2)).en = true ∧ (PlaneRec.of (planeE 0 2)).dper = 2 ∧ (PlaneRec.of (planeE 0 0)).dper = 0 ∧ (PlaneRec.of (planeE 0 0)).en = true ∧ (PlaneRec.of (planeE 0 2)).dbase = false ∧
    (PlaneRec.of (planeE 1 1)).dbase = true ∧ (d.eng 0).done = [] ∧ stampDiff d.stamp (10000 * 256) = 0 ∧ stampDiff d.stamp (10000 * 256 + 1) = -1 := by decide +kernel

theorem test_occupancy : after (denDev { oN := 2, oTally := [1, 2], oTime := 0x1000000005, oSeq := 7, oOwner := 9 }) (.occupancyRecord 0)
      (fun t => ((List.range 7).map fun i => (t.mem.loftGet (0x1000 + i)).data, (t.mem.loftGet 0x2000).data, (t.mem.loftGet 0x1000).tag, (den0 t).oN)) = some ([5, 1, 7, 2, 1, 2, 0], 1, 5, 0) ∧
    stays (denDev { oN := 1, oTally := [1, 2] }) (.occupancyRecord 0) = true ∧
    after ((denDev { oN := 2, oTally := [1, 2] }).onMem fun m => m.loftPut 0x2000 { data := 8 }) (.occupancyRecord 0) (fun t => ((den0 t).err, (t.mem.loftGet 0x2000).data, (den0 t).oN)) = some (2, 8, 0) := by decide +kernel
theorem meets_occupancy : let x := OccRec.of (occE 2)
    (denDev {}).dev.rec? (denUnit 0) 2 = some (occE 2) ∧ x.count = 2 ∧ x.cnt = 2 ∧ x.dest.kind = 1 ∧ x.dest.nrec = 8 ∧ x.dest.ovw = false := by decide +kernel

/-- A render of 2 columns by 2 rows at (1, 0) into Shelf 1; counters as they are. -/
def job (col : Nat) : DenRender := { cells := renderE, cols := 2, rows := 2, session := 9, col }
theorem test_render : let e : Den := { cmap := [(3, 0x11)], planes := [(0, { cnt := [(0, 3)], run := some (job 0) })] }
    after (denDev e) (.render 0 0 1) (fun t => (t.mem.cellarGet (64 * 2097152) 8, t.mem.cellarGet (64 * 2097152 + 8192) 8, ((den0 t).plane 0).run.map (·.col))) =
      some ([0, 0, 0, 0, 0, 0, 0, 0], [0, 0, 0, 0, 0x11, 0, 0, 0], some 1) ∧
    after (denDev e) (.render 0 0 2) (fun t => (((den0 t).plane 0).run, (t.mem.loftGet 0x3000).data)) = some (none, 1) ∧
    after ((denDev e).onDev fun d => { d with stk := { d.stk with shelves := [] } }) (.render 0 0 2) (fun t => ((den0 t).err, t.dev.rel.queue.map (·.code))) = some (4, [0x10]) := by decide +kernel
theorem meets_render : let e : Den := { planes := [(0, { run := some (job 1), pend := some (job 0) })] }
    let words := e.columnWords (job 0) [] 0
    (e.plane 0).run = some (job 1) ∧ (job 1).cols ≤ (job 1).col + 1 ∧ (job 0).col + 1 < (job 0).cols ∧ (denDev e).dev.cmapWaits 0 = false ∧
    ((denDev e).putWords 9 words).2 = true ∧ ((live id).putWords 9 words).2 = false := by decide +kernel

def cmapE : Shadow := { typ := 4, cells := [BitVec.ofNat 36 (1022 + 2 * 1024), 0x3FFFFFFF, 0x155] }
def mapping (e : Den) : State := denDev e { com := [(256, planeE 0 2)], shadow := [cmapE], result := 15 }
theorem test_cmap : after (mapping { planes := [(2, { pend := some (job 0) })] }) (.cmapCommit 0) (fun t => ((den0 t).cmap, ((den0 t).plane 2).run.isSome, (t.dev.unit 0x20).shadow.length, (t.dev.unit 0x20).result)) =
      some ([(1022, 0x3FFFFFFF), (1023, 0x155)], true, 0, 0) ∧
    stays (mapping { planes := [(2, { run := some (job 0) })] }) (.cmapCommit 0) = true := by decide +kernel
theorem meets_cmap : let d := (mapping {}).dev
    d.waiting? (denUnit 0) 4 = some cmapE ∧ cmapE.origin = none ∧ cmapE.go = (d.unit (denUnit 0)).gos ∧ (d.unit (denUnit 0)).result = 0xF ∧ (match d.denCheck 0 cmapE with | .ok _ => true | .error _ => false) = true ∧ (∀ k : Fin 4, ((d.dens 0).plane k).run = none) := by decide +kernel

/-- 640 × 480 at 25.2 MHz; output 0 enabled with one lane at 2.7 Gbit/s; layer 0 in Shelves 1 of session 9, pitch 2560. -/
def timingE : List (BitVec 36) := [BitVec.ofNat 36 (640 + 16 * 4096 + 96 * 2 ^ 24), BitVec.ofNat 36 (48 + 480 * 4096 + 10 * 2 ^ 24), 2 + 33 * 4096, 25200]
def layerE : List (BitVec 36) := [BitVec.ofNat 36 (2 + 40 * 4), 0x200000, 0]
def layerR : Shadow := { typ := 3, cells := layerE }
def scoDev (e : Sco) (p : Place := .resident 64) : State := live fun d => { d with
  units := [(0x30, { com := [(256, timingE), (512, [2 + 16]), (1024, [0x12345])], result := 15 })], sco := e,
  stk := { d.stk with shelves := [{ session := 9, idx := 1, handle := 1, place := p, spill := false }] } }
def waitE : Sco := { en := true, run := true, latched := true, frame := 4, layers := [(0, { pend := some (9, layerR), target := 5 })] }
theorem test_latch : after (scoDev waitE) .latchLine (fun t => ((t.dev.sco.layer 0).cur, (t.dev.sco.layer 0).pend.isSome)) = some (some (9, layerE), false) ∧
    after (scoDev waitE) .latchLine (fun t => (t.dev.sco.frame, t.dev.raised.map (·.id), t.dev.stk.shelves.map (·.refs))) = some (5, [0x800], [1]) := by decide +kernel
theorem test_latch_waits :
    after (scoDev waitE (.paged 3)) .latchLine (fun t => ((t.dev.sco.layer 0).cur.isSome, (t.dev.sco.layer 0).defers, (t.dev.sco.layer 0).target, t.dev.sco.err, t.dev.stk.xfers.map (·.requester))) = some (false, 1, 6, 8, [.layer 0]) ∧
    after (scoDev { waitE with en := false, layers := [] }) .latchLine (fun t => (t.dev.sco.run, t.dev.sco.frame)) = some (false, 0) ∧
    stays (scoDev { waitE with run := false }) .latchLine = true := by decide +kernel
theorem meets_latch : let d := (scoDev waitE).dev
    (d.unit scoUnit).shadow = [] ∧ (d.sco.layer 0).pend = some (9, layerR) ∧ (d.sco.layer 0).cur = none ∧ (d.sco.layer 1).pend = none ∧ layerR.origin = none ∧ layerR.go = (d.unit scoUnit).gos ∧ (d.unit scoUnit).result = 0xF ∧
    d.layerMapped 9 layerE = true ∧ d.layerShelves layerE = [1] ∧ d.stk.translate 9 (1 * shelfBytes) = .phys (64 * shelfBytes) ∧
    (scoDev waitE (.paged 3)).dev.stk.translate 9 (1 * shelfBytes) = .paged := by decide +kernel

theorem test_outputs : let s := scoDev { run := true, layers := [(0, { cur := some (9, layerE) })], outs := [(1, { st := 3, hpd := true })] }
    after s (.underrun 0 5 100) (fun t => ((t.dev.sco.layer 0).under, t.dev.sco.err, t.dev.rel.queue.length)) = some (1, 1, 1) ∧ stays s (.underrun 1 5 100) = true ∧
    after s (.plug 0) (fun t => (t.dev.sco.out 0).st) = some 2 ∧ after s (.unplug 0) (fun t => ((t.dev.sco.out 0).st, (t.dev.sco.out 0).seen)) = some (1, 2) ∧
    after s (.irqHpd 1 true) (fun t => ((t.dev.sco.out 1).st, (t.dev.sco.out 1).seen)) = some (2, 4) := by decide +kernel
/-- Overlay weight 2 of blue 3 over blue 2: (3 · 2 + 2 · 2 + 2) / 4 = 3. -/
def shown (w : List Byte) : State := (scoDev { layers := [(0, { cur := some (9, layerE) }), (1, { cur := some (9, [2 + 40 * 4, 0x200100, 0]) })] }).onMem fun m => (m.cellarPut (64 * 2097152) [2, 0, 0, 0]).cellarPut (64 * 2097152 + 256) w
/-- One underrun a line; from it to the end of the line layer 0 shows UCOLOR, and layer 1 nothing (R513). -/
def lostLine : State := (shown [9, 0, 0, 0xC0]).onDev fun d => { d with sco := { d.sco with run := true, layers := d.sco.layers.map fun (i, x) => (i, { x with lost := [(0, 3)] }) } }
theorem test_lost_line : stays lostLine (.underrun 0 0 9) = true ∧ (lostLine.layerPixel 0 3 0, lostLine.layerPixel 1 3 0, (lostLine.layerPixel 0 2 0).isSome) = (some 0, none, true) ∧
    (scoDev {}).dev.timing? ≠ none ∧ (lostLine.dev.sco.layer 0).lost = [(0, 3)] := by decide +kernel
theorem test_training : let s := scoDev { outs := [(0, { st := 2, hpd := true }), (1, { st := 3, busy := true, aux := 0x1000000 })] }
    after s (.linkTrainingDone 0 true) (fun t => (t.dev.sco.out 0).st) = some 3 ∧ after s (.linkTrainingDone 0 false) (fun t => ((t.dev.sco.out 0).st, (t.dev.sco.out 0).seen)) = some (4, 8) ∧
    after s (.auxGo 0) (fun t => (t.dev.sco.out 0).busy) = some true ∧ after s (.auxReply 1 0 [0xAB, 0xCD]) (fun t => ((t.dev.sco.out 1).busy, (t.dev.sco.out 1).data)) = some (false, 0xCDAB) ∧
    after s (.scoEnable true) (fun t => (t.dev.sco.en, t.dev.sco.run)) = some (true, true) := by decide +kernel
theorem meets_outputs : let s := scoDev { run := true, layers := [(0, { cur := some (9, layerE) })], outs := [(1, { st := 3, busy := true, aux := 0x1000000 })] }
    (s.dev.sco.layer 0).cur.isSome = true ∧ bit s.dev.sco.err 0 = false ∧ (s.dev.sco.out 1).busy = true ∧ (s.dev.sco.out 1).st ≠ 2 ∧ fld (s.dev.sco.out 1).aux 24 4 + 1 = 2 ∧
    s.dev.served = true ∧ s.dev.rel.devFault = false ∧ (s.dev.unit scoUnit).shadow = [] := by decide +kernel

theorem test_pixels : (scoDev {}).scoPixel 0 0 = 0x12345 ∧ (shown [3, 0, 0, 0x80]).scoPixel 0 0 = 3 ∧ (shown [9, 0, 0, 0xC0]).scoPixel 0 0 = 9 ∧ (shown [9, 0, 0, 0]).scoPixel 0 0 = 2 := by decide +kernel
theorem meets_pixels : (scoDev {}).layerPixel 0 0 0 = none ∧ (scoDev {}).layerPixel 1 0 0 = none ∧ (shown [3, 0, 0, 0x80]).layerPixel 0 0 0 = some 2 ∧ (shown [3, 0, 0, 0x80]).layerPixel 1 0 0 = some 0x80000003 := by decide +kernel

/-! The Cellar. -/

def celDev (c : Cel) (f : Dev → Dev := id) : State := live fun d => f { d with cel := { c with trained := 3 }, glb := { d.glb with cellarGib := 1 } }
def hostDev (poison : List Nat := []) : State := (celDev {} fun d => { d with hlk := { d.hlk with cwin := 0x80000000, hdmDecoder := some (1, 0), hdmGib := 1 } }).onMem fun m => { (m.cellarPut 0x100 [1, 2, 3]) with poison }
theorem test_host_access : after hostDev (.bar4Access 0x100 (.read 3)) (fun t => t.dev.host) = some [.reply [1, 2, 3]] ∧
    after hostDev (.bar4Access 0x200 (.write [7])) (fun t => t.mem.cellarGet 0x200 1) = some [7] ∧
    after (celDev {}) (.bar4Access 0x100 (.read 2)) (fun t => t.dev.host) = some [.reply [0xFF, 0xFF]] ∧ stays (celDev {}) (.bar4Access 0x100 (.write [1])) = true ∧
    after (hostDev [4]) (.bar4Access 0x100 (.read 3)) (fun t => (t.dev.host, t.dev.rel.queue.map (·.code))) = some ([.poisoned], [0x70]) := by decide +kernel
theorem test_cxl_access : after hostDev (.cxlMemAccess 0x10 (.write [7, 8])) (fun t => t.mem.cellarGet (t.dev.poolTop * 2097152 + 0x10) 2) = some [7, 8] ∧
    after hostDev (.cxlMemAccess 0x10 (.read 1)) (fun t => t.dev.host) = some [.reply [0]] := by decide +kernel
theorem meets_host_access : hostDev.dev.served = true ∧ hostDev.dev.cel.dead = 0 ∧ hostDev.mem.poisoned 0x100 3 = false ∧ (hostDev [4]).mem.poisoned 0x100 3 = true ∧
    bit hostDev.dev.hlk.cwin 31 = true ∧ 0x100 + 3 ≤ hostDev.dev.fittedShelves * 2097152 ∧ hostDev.dev.captured 0x200 = false := by decide +kernel

/-- A read of bank 5, and one that has waited for some ns, number n of its pseudo-channel. -/
def rq (port : Fin 7) (row : BitVec 20) (f : CelReq → CelReq := id) : CelReq := f { port, bank := 5, row, addr := 0x1240 }
def ent (port : Fin 7) (ns : Nat) (row : BitVec 20) (n : Nat) : CelEntry :=
  { req := rq port row fun r => { r with addr := 0x1240 + BitVec.ofNat 37 (n * 64) }, tick := 1000000 - BitVec.ofNat 64 ((ns * 256 + 124) / 125), n }
def bankDev (b : CelBank) (reads : List CelEntry := []) (writes : List CelEntry := []) : State :=
  celDev { pcs := [(2, { banks := [(5, b)], reads, writes, nextReq := 9 })] } fun d => { d with tim := { d.tim with ticks := 1000000 } }
def pc2 (t : State) : CelPc := t.dev.cel.pc 2
def bank5 (t : State) : CelBank := (pc2 t).bank 5
def b71 : CelBank := { row := some 7, c := 1, last := 1000000 }
/-- Port 2 has T 1,000 ns: urgency 2 from 1,000 ns on, 3 from 2,000 ns on. Port 3 has T 4,000. -/
theorem test_arbitration : after (bankDev b71 [ent 2 999 7 0, ent 3 3999 8 1]) (.cellarRequest 2 [] []) (fun t => (bank5 t, (pc2 t).reads.map (·.n))) = some ({ row := some 7, c := 2, last := 1000000 }, [1]) ∧
    after (bankDev b71 [ent 2 999 7 0, ent 3 4000 8 1]) (.cellarRequest 2 [] []) (fun t => ((bank5 t).c, (pc2 t).reads.map (·.n))) = some (0, [0]) ∧
    after (bankDev b71 [{ ent 0 9 8 0 with tokens := true }, ent 2 60000 7 1]) (.cellarRequest 2 [] []) (fun t => ((bank5 t).c, (pc2 t).reads.map (·.n))) = some (0, [1]) ∧
    after (bankDev { b71 with c := 3 }) (.cellarRequest 2 [rq 2 8] []) bank5 = some { row := some 8, c := 2, last := 1000000 } ∧
    after (bankDev { b71 with c := 3, last := 999800 }) (.cellarRequest 2 [rq 2 8] []) bank5 = some { row := some 8, c := 3, last := 1000000 } := by decide +kernel
theorem meets_requests : let c := (bankDev b71).dev.cel
    (c.pc 2).retired = false ∧ bit c.trained (2 / 32) = true ∧ bit c.selfref (2 / 32) = false ∧ c.autoRetire = false ∧ (ent 2 1 8 0).rank = 3 ∧ (rq 2 8).write = false ∧ (rq 2 8).mask ≠ 0 ∧
    (pc2 (bankDev b71 [ent 2 999 7 0, ent 3 3999 8 1])).ready ≠ [] ∧ (bankDev b71).dev.rel.queue.length < 64 := by decide +kernel

/-- A write of the first four bytes of the granule waits: a read of two of them is served from the queue, a read of others too waits behind it (R670). -/
def w4 : CelEntry := { req := rq 4 8 fun r => { r with write := true, mask := 0xF }, tick := 1000000, n := 3 }
theorem test_write_queue : after (bankDev b71 [] [w4]) (.cellarRequest 2 [rq 2 8 fun r => { r with mask := 3 }] []) (fun t => ((pc2 t).reads.length, (pc2 t).writes.length)) = some (0, 0) ∧
    after (bankDev b71 [] [w4]) (.cellarRequest 2 [rq 2 8 fun r => { r with mask := 0x18 }] []) (fun t => ((pc2 t).reads.map (·.n), (pc2 t).writes.length)) = some ([9], 0) := by decide +kernel
theorem meets_writeQueue : let x := pc2 (bankDev b71 [] [w4])
    x.writes = [w4] ∧ x.reads = [] ∧ w4.n < x.nextReq ∧ w4.granule = (rq 2 8).addr.toNat / 64 ∧ w4.req.mask &&& (0x18 : BitVec 64) ≠ 0 ∧ (3 : BitVec 64) &&& ~~~w4.req.mask = 0 ∧ (0x18 : BitVec 64) &&& ~~~w4.req.mask ≠ 0 ∧
    (bankDev b71).mem.fixable (w4.granule * 64) 64 = [] ∧ (bankDev b71).mem.poisoned (w4.granule * 64) 64 = false := by decide +kernel

/-- One symbol in error is corrected and written back, three are not (R793). -/
def e1 : List (Fin 72 × Byte) := [(0, 5)]
def e3 : List (Fin 72 × Byte) := [(0, 1), (1, 2), (70, 3)]
theorem test_cellar_errors : after (bankDev b71) (.cellarRequest 2 [rq 2 8] e1) (fun t => ((pc2 t).corr, t.dev.rel.queue.map (·.sev), t.mem.celErr.isEmpty)) = some (1, [1], true) ∧
    after (bankDev b71) (.cellarRequest 2 [rq 2 8] e3) (fun t => ((pc2 t).uncorr, t.dev.cel.err, t.dev.cel.errAddr, t.dev.rel.queue.map (·.sev))) = some (1, 4, 0x1240, [2]) := by decide +kernel
theorem meets_readErrors : let m := (bankDev b71).mem
    (m.granuleHit 0x49 (symbols e1)).fixable (0x49 * 64) 64 = [0x49] ∧ (m.granuleHit 0x49 (symbols e1)).poisoned (0x49 * 64) 64 = false ∧
    (m.granuleHit 0x49 (symbols e3)).fixable (0x49 * 64) 64 = [] ∧ (m.granuleHit 0x49 (symbols e3)).poisoned (0x49 * 64) 64 = true ∧ (0x1240 : BitVec 37).toNat / 64 = 0x49 ∧
    decide ((0x1005 : BitVec 16).toNat / 4096 = 1) = true ∧ (Tbl.get {} (bankDev b71).dev.rel.domains 0x1005).outstanding = false := by decide +kernel

/-- A corrected granule that the host reads is mended; a write into a table's frame is dropped (R158). -/
def dimHost : State := hostDev.onMem fun m => m.granuleHit 4 [(0, 5)]
def tableHost : State := hostDev.onDev fun d => { d with stk := { d.stk with tables := [{ session := 9, level := 3, key := 0, frame := 0 }], shelves := [shelf 1 (.resident 64)] } }
theorem test_host_checks : after dimHost (.bar4Access 0x100 (.read 3)) (fun t => (t.dev.host, t.mem.celErr.isEmpty, t.dev.rel.queue.map (·.sev))) = some ([.reply [1, 2, 3]], true, [1]) ∧
    stays tableHost (.bar4Access 0x8 (.write [7])) = true ∧ after tableHost (.bar4Access 0x8 (.read 8)) (fun t => t.dev.host) = some [.reply (leBytes 8 ((shelf 1 (.resident 64)).bits).toNat)] := by decide +kernel
theorem meets_host_checks : dimHost.mem.fixable 0x100 3 = [4] ∧ dimHost.mem.poisoned 0x100 3 = false ∧ dimHost.dev.cel.autoRetire = false ∧ (tableHost.dev.stk.tableAt? 8).isSome = true ∧ hostDev.dev.stk.tableAt? 0x200 = none ∧
    hostDev.mem.fixable 0x200 1 = [] := by decide +kernel

theorem test_refresh : after (bankDev { row := some 7, postponed := 3 }) (.refresh 2 5 true) bank5 = some {} ∧ after (bankDev { row := some 7, postponed := 7 }) (.refresh 2 5 false) bank5 = some { row := some 7, postponed := 8 } ∧
    after (bankDev { row := some 7, postponed := 8 }) (.refresh 2 5 false) bank5 = some {} ∧
    after (bankDev { row := some 7 }) (.selfRefreshEntry 0) (fun t => (t.dev.cel.selfref, bank5 t)) = some (1, {}) ∧ stays (bankDev b71 [ent 2 9 7 0]) (.selfRefreshEntry 0) = true ∧ after (celDev { selfref := 3 }) (.selfRefreshExit 0) (fun t => t.dev.cel.selfref) = some 2 := by decide +kernel
/-- R676: the exit completes the ARM that waited for it. -/
def armWaits : State := celDev { selfref := 1 } fun d => { d with
  barrels := [(3, { free3 with st := .arming, arm := some arm1, armUid := some 2 })], stk := { d.stk with shelves := shelves32, loft := [(200, { session := 7, handle := 6 })] }
  hlk := { d.hlk with live := [{ uid := 2, session := 7, hatch := 20, index := 0, raw := craw ([(0, 4), (2, 0x33), (33, 3)] ++ armE), phase := .active }] } }
theorem test_arm_after_selfref : after armWaits (.selfRefreshExit 0) (fun t => ((bar t).st, (bar t).armUid, stat t, t.dev.cel.selfref)) = some (.filling, none, some .ok, 0) := by decide +kernel
theorem meets_armAfterSelfref : armWaits.dev.stk.allResident 7 5 = true ∧ setBit armWaits.dev.cel.selfref 0 false = 0 ∧ (armWaits.dev.live? 2).map (·.decided) = some false := by decide +kernel
theorem test_retraining : after (celDev { pcs := [(2, { attempts := 1 })] }) (.periodicRetraining 2 false) (fun t => (t.dev.cel.pc 2).attempts) = some 2 ∧
    after (celDev { pcs := [(2, { attempts := 1 })] }) (.periodicRetraining 2 true) (fun t => (t.dev.cel.pc 2).attempts) = some 0 ∧
    after (celDev { pcs := [(2, { attempts := 2 })] }) (.periodicRetraining 2 false) (fun t => ((t.dev.cel.pc 2).migrating, t.mem.stuck, t.dev.cel.err)) = some (true, [2], 16) ∧
    after (celDev {}) .celCtlLock (fun t => t.dev.cel.lock) = some true ∧
    after (celDev {}) (.stackTemperature 1 106) (fun t => (Tbl.get 0 t.dev.cel.temps 1, t.dev.cel.err, t.dev.hkc.throttled)) = some (106, 8, true) := by decide +kernel
theorem meets_cellar_maintenance : let s := bankDev b71
    s.dev.cel.srEn = true ∧ (∀ p ∈ s.dev.barrels, p.2.armed = false) ∧ s.dev.sco.run = false ∧ s.dev.sco.en = false ∧ s.dev.cel.mig = none ∧ bit s.dev.cel.trained 0 = true ∧
    s.dev.cel.wanted 0 = false ∧ (bankDev b71 [ent 2 9 7 0]).dev.cel.wanted 0 = true ∧ (s.dev.cel.pc 2).attempts < 2 ∧ s.dev.served = true := by decide +kernel

/-- The retirement example: N 49,152, SET_HDM 8,192 Shelves, TT_SHELVES 64, RET_RESV 0; here every other Shelf is free, so the 768 donors are free ones. -/
def cel48 (c : Cel) : State := celDev c fun d => { d with glb := { d.glb with cellarGib := 96 }, hlk := { d.hlk with hdmGib := 16 } }
theorem test_cel_retire : (cel48 {}).dev.freeShelves = 40896 ∧ (cel48 {}).dev.fittedShelves / 64 = 768 ∧
    after (celDev {} ) (.celRetire 4) (fun t => ((t.dev.cel.pc 4).migrating, t.dev.cel.donors, t.dev.cel.mig.map fun m => (m.pc, m.need, m.donors))) = some (true, [511, 510, 509, 508, 507, 506, 505, 504], some (4, 0, 8)) ∧
    after (celDev { withheld := 9 }) (.celRetire 4) (fun t => (t.dev.cel.donors, t.dev.cel.withheld)) = some ([], 1) ∧
    stays (celDev { pcs := [(4, { retired := true })] }) (.celRetire 4) = true := by decide +kernel
def migE (copied need : Nat) : CelMig := { pc := 4, total := 2, copied, need, donors := 8 }
theorem test_migration : after (celDev { mig := some (migE 1 0), pcs := [(4, { migrating := true })] }) (.sliceMigration [7]) (fun t => (t.dev.cel.mig, t.mem.poison)) = some (some (migE 2 0), [7]) ∧
    after (celDev { mig := some (migE 2 0), pcs := [(4, { migrating := true })] }) .migrationEnd (fun t => ((t.dev.cel.pc 4).retired, t.dev.cel.donated, t.dev.atc.jobs.length, t.dev.rel.queue.map (·.code))) = some (true, 8, 1, [0x60]) ∧
    stays (celDev { mig := some (migE 1 0) }) .migrationEnd = true ∧ stays (celDev { mig := some (migE 2 1) }) .migrationEnd = true := by decide +kernel
theorem meets_cel_retire : let c := (celDev { withheld := 8 }).dev.cel
    c.mig = none ∧ (c.pc 4).retired = false ∧ (c.pc 4).migrating = false ∧ c.retired < 8 ∧ (celDev { withheld := 8 }).dev.fittedShelves / 64 ≤ c.withheld ∧
    (migE 1 0).copied < (migE 1 0).total ∧ (migE 2 0).copied = (migE 2 0).total ∧ (migE 2 0).need = 0 := by decide +kernel

/-! Power, resets and boot. -/

def syn0 (x : Syn) (f : Dev → Dev := id) : State := live fun d => f { d with spa := { d.spa with cs0 := x } }
def cs (t : State) : Syn := t.dev.spa.cs0
/-- 800 to 825 MHz is one leg, to the next grid point: its supply is the 650 mV of the next operating point. -/
theorem test_frequency : after (syn0 { target := 800, current := 800 }) (.target 0 1600) cs = some { target := 1600, current := 800, ramp := some 1600, mv := 820 } ∧
    after (syn0 { target := 800, current := 800 }) (.target 0 1610) (fun t => (cs t, t.dev.rel.queue.map (·.code))) = some ({ target := 800, current := 800 }, [0x51]) ∧
    stays (syn0 { target := 825, current := 800, ramp := some 825, mv := 650 }) (.rampDone 0) = true ∧
    after (syn0 { target := 825, current := 800, ramp := some 825, mv := 650, supplyReady := true }) (.rampDone 0) cs = some { target := 825, current := 825, mv := 650, supplyReady := true, vcoB := true } ∧
    after (syn0 { target := 800, current := 825, ramp := some 800, mv := 650, supplyReady := true }) (.rampDone 0) cs = some { target := 800, current := 800, mv := 600, vcoB := true } ∧
    supplyMv 0 1225 = 760 ∧ supplyMv 1 1350 = 700 ∧ supplyMv 2 1500 = 780 := by decide +kernel
theorem test_regulator : after (syn0 { target := 1600, current := 800, ramp := some 1600 }) (.regulatorReady 0) (fun t => (cs t).supplyReady) = some true ∧
    after (syn0 { target := 800, current := 1600 } fun d => { d with spa := { d.spa with deferred := true } }) .dvfsLoweringApply (fun t => ((cs t).ramp, t.dev.spa.deferred)) = some (some 800, false) ∧
    after (syn0 { target := 800, current := 800 } fun d => { d with spa := { d.spa with deferred := true } }) .dvfsLoweringApply (fun t => ((cs t).ramp, t.dev.spa.deferred)) = some (none, false) := by decide +kernel
theorem meets_frequency : let s := syn0 { target := 800, current := 800 }
    s.dev.served = true ∧ synOk 0 1600 = true ∧ synOk 0 1610 = false ∧ synOk 1 1800 = true ∧ synOk 2 750 = true ∧ s.dev.hkc.throttled = false ∧ s.dev.wouldMiss 800 = false ∧ s.dev.glb.grade = false ∧
    s.dev.holdsLowering 1600 800 = false ∧ s.dev.synAim 0 = 800 := by decide +kernel

/-- Whatever the clocks are that a Crate still needs, some deadline is one tick too early for them: a lowering to 800 MHz waits. -/
def tight (late : BitVec 64) : State := syn0 { target := 800, current := 1600 } fun d => { d with
  spa := { d.spa with deferred := true }, hlk := { d.hlk with live := [{ uid := 2, session := 9, hatch := 20, index := 0, raw := late.zeroExtend 512 <<< 64, phase := .waiting }] } }
def needs : BitVec 64 := 1000 + BitVec.ofNat 64 (Config.clocksLeft 2 1000 * 2048 / 800)
theorem late_before (x : BitVec 64) : ∃ y : BitVec 64, y.toNat ≠ 0 ∧ tickBefore y x = true := by
  by_cases h : x = 1
  · exact ⟨-1, by decide, by subst h; decide⟩
  · refine ⟨x - 1, by bv_omega, ?_⟩
    have : x - 1 - x = -1 := by bv_omega
    rw [tickBefore, this]; decide
set_option exponentiation.threshold 600 in
theorem meets_deferral : ∃ late, (tight late).dev.wouldMiss 800 = true ∧ (tight late).dev.holdsLowering 1600 800 = true ∧
    (800 : BitVec 11).toNat < (cs (tight late)).current.toNat ∧ (tight late).dev.served = true ∧ (tight late).dev.spa.deferred = true ∧ (cs (tight late)).ramp = none ∧ (tight late).dev.synAim 0 = 800 := by
  obtain ⟨y, h0, h⟩ := late_before needs
  have hd : fld (y.zeroExtend 512 <<< 64) 64 64 = y.toNat := by
    have := y.isLt
    simp [fld, BitVec.toNat_shiftLeft, BitVec.toNat_setWidth, Nat.shiftLeft_eq, Nat.shiftRight_eq_div_pow]
    omega
  have hw : (tight y).dev.wouldMiss 800 = true := by
    change (true && (fld (y.zeroExtend 512 <<< 64) 64 64 != 0) && tickBefore (BitVec.ofNat 64 (fld (y.zeroExtend 512 <<< 64) 64 64)) needs || false) = true
    rw [hd]; simp [h0, h]
  exact ⟨y, hw, by rw [Dev.holdsLowering]; exact (congrArg (_ && ·) hw).trans rfl, (by decide : (800 : BitVec 11).toNat < (1600 : BitVec 11).toNat), rfl, rfl, rfl, rfl⟩

/-- Die sensor 2 at 105.125 °C, in units of 0.125 °C; released below 100 °C. -/
def heated (t : Int) (f : Dev → Dev := id) : State := syn0 { target := 1600, current := 1600 } fun d => f { d with mon := { d.mon with temps := [(22, BitVec.ofInt 12 t)] } }
theorem test_throttle : after (heated 841) .throttleEntry (fun t => ((cs t).ramp, t.dev.hkc.throttled, t.dev.hkc.evtStat, t.dev.rel.queue.length)) = some (some 800, true, 4, 1) ∧
    stays (heated 840) .throttleEntry = true ∧
    after (heated 799 fun d => { d with hkc := { d.hkc with throttled := true } }) .throttleRelease (fun t => (t.dev.hkc.throttled, t.dev.hkc.evtStat)) = some (false, 4) ∧
    stays (heated 800 fun d => { d with hkc := { d.hkc with throttled := true } }) .throttleRelease = true ∧
    after (live fun d => { d with hkc := { d.hkc with railOk := 0xF } }) (.railOutOfRange 1) (fun t => (t.dev.hkc.railOk, t.dev.hkc.evtStat)) = some (0xD, 8) := by decide +kernel
theorem meets_throttle : (heated 841).dev.hot = true ∧ (heated 840).dev.hot = false ∧ (heated 799).dev.cool = true ∧ (∀ k, k < 3 → ((heated 841).dev.syn k).ramp = none) ∧
    (heated 841).dev.rel.queue.length < 64 ∧ (heated 799).dev.wouldMiss 1600 = false ∧ (syn0 { target := 800, current := 1600 } fun d => { d with spa := { d.spa with deferred := true } }).dev.spa.deferred = true := by decide +kernel

/-- A device with something in every part that a reset treats in its own way. -/
def used : State := (live fun d => { d with
  glb := { d.glb with scratch1 := 77, cellarGib := 96 }, insts := [(64, copy1 {})], units := [(9, {})], hkc := { d.hkc with ready := true, booting := false, stage := 9, tripped := true, args := [(0, 1)] }
  cel := { d.cel with trained := 3, retResv := 2, retResvSet := true }, hlk := { d.hlk with linkStat := 0x11, sessions := [(3, { st := .opened })] } }).onMem fun m =>
  { ((m.loftPut 9 { data := 5 }).cellarPut 64 [7]) with attic := [(0, 1)] }
theorem test_warm : after used .rstN (fun t => (t.dev.hkc.cause, t.dev.glb.scratch1, t.dev.cel.retResv, t.dev.hkc.tripped)) = some (1, 77, 2, true) ∧
    after used .rstN (fun t => ([t.mem.loft.length, t.mem.cellar.length, t.mem.attic.length, t.dev.insts.length], t.dev.hkc.booting)) = some ([0, 0, 1, 0], true) ∧
    after used .porstN (fun t => (t.dev.hkc.cause, t.dev.glb.scratch1, t.dev.cel.retResv, t.dev.hkc.tripped)) = some (0, 0, 0, false) ∧
    after used .smbusReset (fun t => t.dev.hkc.cause) = some 3 ∧
    after (used.onDev fun d => { d with atc := { d.atc with jobs := [(.map, 14, [])] } }) .smbusReset (fun t => (t.dev.hkc.resetWait, t.dev.hkc.ready)) = some (some 3, true) := by decide +kernel
theorem test_function : after used .functionReset (fun t => (t.dev.hkc.cause, t.dev.hkc.ready, t.dev.hkc.funcReset, t.dev.tim.count)) = some (5, false, some false, 1000) ∧
    after used .functionReset (fun t => (t.mem.cellar.length, t.mem.loft.length, t.dev.insts.length, t.dev.hlk.linkStat)) = some (1, 1, 0, 0x11) := by decide +kernel
theorem meets_resets : used.dev.atc.jobs = [] ∧ used.dev.hkc.resetWait = none ∧ used.dev.hkc.ready = true ∧ used.dev.hkc.funcReset = none ∧ used.dev.cel.retResvSet = true := by decide +kernel

/-- Stacks of 16 dice: 48 + 24 · 2 = 96 GiB. -/
theorem test_boot : after State.reset (.boot 0xF true [] (some 2) [] []) (fun t => (t.dev.hkc.stage, t.dev.glb.cellarGib, t.dev.tim.started, t.dev.cel.speed, t.dev.cel.trained)) = some (8, 96, true, 3, 3) ∧
    after State.reset (.boot 0x7 true [] (some 2) [] []) (fun t => (t.dev.hkc.stage, t.dev.hkc.fail)) = some (1, 1) ∧
    after State.reset (.boot 0xF false [] (some 2) [] []) (fun t => (t.dev.hkc.stage, t.dev.hkc.fail)) = some (3, 3) := by decide +kernel
theorem test_boot_trains : after State.reset (.boot 0xF true [7] (some 0) [(3, [40])] [(2, 5)]) (fun t => (t.dev.cel.speed, t.dev.cel.err, (t.dev.cel.pc 2).repaired, (Tbl.get {} t.dev.stk.spus 7).retired)) = some (2, 1, 5, true) ∧
    after State.reset (.boot 0xF true [] none [] []) (fun t => (t.dev.cel.dead, t.dev.rel.devFault, t.dev.glb.cellarGib)) = some (1, true, 0) := by decide +kernel
def stage8 : State := dev fun d => { d with hkc := { d.hkc with stage := 8 }, hlk := { d.hlk with linkStat := 1 } }
theorem test_ready : after stage8 (.ready 900) (fun t => (t.dev.hkc.ready, t.dev.hkc.stage, t.dev.hkc.bootMs)) = some (true, 9, 900) ∧ after stage8 .configurationRequest (fun t => t.dev.host) = some [.config false] ∧
    after (live fun d => { d with hkc := { d.hkc with ready := false, busy := true, funcReset := some true } }) (.ready 0) (fun t => (t.dev.hkc.ready, t.dev.hkc.busy, t.dev.hkc.status, t.dev.hkc.evtStat)) = some (true, false, 0, 1) := by decide +kernel
theorem meets_boot : State.reset.dev.hkc.booting = true ∧ State.reset.dev.hkc.ready = false ∧ State.reset.dev.hkc.stage = 0 ∧ State.reset.dev.cel.dead = 0 ∧ stage8.dev.hkc.stage = 8 ∧ stage8.dev.hkc.funcReset = none ∧
    fld stage8.dev.hlk.linkStat 0 2 ≠ 0 := by decide +kernel

def arg0 (v : Reg) (f : Dev → Dev := id) : State := live fun d => f { d with hkc := { d.hkc with args := [(0, v)] } }
def mb (t : State) : List Nat := [t.dev.hkc.cmd.toNat, t.dev.hkc.status.toNat, t.dev.hkc.busy.toNat, t.dev.hkc.done.toNat, t.dev.hkc.evtStat.toNat]
theorem test_mailbox : after (arg0 0 fun d => { d with glb := { d.glb with stepping := 0x12 } }) .version (fun t => (mb t, Tbl.get 0 t.dev.hkc.res 2, Tbl.get 0 t.dev.hkc.res 3)) = some ([1, 0, 0, 1, 1], 0x9640, 0x12) ∧
    after (arg0 0) (.sensors 18000 7500 9500 9005) (fun t => (mb t, (List.range 4).map fun k => Tbl.get 0 t.dev.hkc.res (4 + k))) = some ([4, 0, 0, 1, 1], [1800, 750, 950, 900]) ∧
    after (arg0 0) (.unknownMailboxCommand 6) mb = some [6, 0x51, 0, 1, 1] ∧ after (arg0 0) (.calibrate [] [] 0 []) mb = some [5, 0, 0, 1, 1] ∧
    after (arg0 3) .reset mb = some [2, 0x51, 0, 1, 1] := by decide +kernel
theorem test_mailbox_resets : after (arg0 1) .reset (fun t => (t.dev.hkc.cause, t.dev.hkc.ready, t.dev.hkc.booting)) = some (2, false, true) ∧
    after (arg0 2) .reset (fun t => (t.dev.hkc.cause, t.dev.hkc.funcReset, t.dev.hkc.busy)) = some (5, some true, true) ∧
    after (arg0 0 fun d => { d with hkc := { d.hkc with busy := true } }) .version (fun t => t.dev.hkc.ignored) = some 1 ∧
    after (arg0 0 fun d => { d with hkc := { d.hkc with busy := true, calWait := some 0x51 } }) (.atticWriteDone true) mb = some [0, 0x51, 0, 1, 1] := by decide +kernel
theorem meets_mailbox : (arg0 0).dev.hkc.ready = true ∧ (arg0 0).dev.hkc.busy = false ∧ Tbl.get 0 (arg0 1).dev.hkc.args 0 = 1 ∧ (Tbl.get 0 (arg0 3).dev.hkc.args 0).toNat = 3 ∧ (arg0 1).dev.atc.jobs = [] := by decide +kernel

/-- Comparator 2: FLEN 1, EDGE 0, WAKE; it is LOW on the upper threshold. -/
def cmpWake : List (BitVec 36) := [BitVec.ofNat 36 (2 + 8 + 2 ^ 31), 2 ^ 9]
def asleep : State := live fun d => { d with
  hkc := { d.hkc with ready := false, standby := true, pwrReq := false }, units := [(monUnit, { com := [(258, cmpWake)] })],
  mon := { d.mon with cmps := [(2, { upper := some false, lower := some false })] } }
theorem test_standby : after (live fun d => { d with hlk := { d.hlk with sessions := [(0, { st := .opened }), (4, {})] } }) .smbusStandby (fun t => (t.dev.hkc.stbyReq, t.dev.hkc.stbyAt, t.dev.hkc.smbStatus)) = some (true, some 1000, 0) ∧
    after (live fun d => { d with hlk := { d.hlk with sessions := [(4, { st := .opened })] } }) .smbusStandby (fun t => (t.dev.hkc.stbyReq, t.dev.hkc.smbStatus)) = some (false, 0x50) ∧
    after (live id) .standby (fun t => (t.dev.hkc.stbyReq, mb t)) = some (true, [3, 0, 0, 1, 1]) := by decide +kernel
theorem test_wake : after asleep .wake (fun t => (t.dev.hkc.cause, t.dev.hkc.wake, t.dev.hkc.pwrReq, t.dev.hkc.standby, t.dev.hkc.booting)) = some (4, 2, true, false, true) ∧
    after asleep (.wakeRequest (some 5)) (fun t => (t.dev.hkc.wake, t.dev.hkc.wakeCmp)) = some (1, 0x20) ∧
    after asleep (.standbyWakeEdge 2 [0, 1]) (fun t => (t.dev.hkc.cause, t.dev.hkc.wake, t.dev.hkc.wakeCmp)) = some (4, 1, 4) ∧
    after (live fun d => { d with hkc := { d.hkc with stbyReq := true, stbyAt := some 5 } }) (.wakeRequest none) (fun t => (t.dev.hkc.smbStatus, t.dev.hkc.stbyReq)) = some (2, false) := by decide +kernel
theorem test_smbus : after (live fun d => { d with hkc := { d.hkc with stage := 9, cause := 3, bootMs := 0x102 } }) (.smbusRead 1) (fun t => t.dev.host) = some [.reply [0x79, 0, 2, 1]] ∧
    after (heated 1001) .thermalTrip (fun t => (t.dev.hkc.tripped, t.dev.hkc.thermtrip, t.dev.hkc.ready)) = some (true, true, false) ∧ stays (heated 1000) .thermalTrip = true := by decide +kernel
theorem meets_standby : let s := asleep
    (s.dev.cmpRec 2).en = true ∧ (s.dev.cmpRec 2).wake = true ∧ (s.dev.cmpRec 2).test = 0 ∧
    ((s.dev.mon.cmp 2).sample (s.dev.cmpRec 2) false 1).2 = .edge ∧ 1000 < (Tbl.get 0 (heated 1001).dev.mon.temps 22).toInt := by decide +kernel
theorem test_smbus_waits : let busy := arg0 0 fun d => { d with hkc := { d.hkc with busy := true } }
    after busy .smbusStandby (fun t => t.dev.hkc.smbWait) = some [.standby] ∧ after busy .smbusReset (fun t => t.dev.hkc.smbWait) = some [.reset] := by decide +kernel

/-! The time base. -/

def timDev (f : Tim → Tim) (g : Dev → Dev := id) : State := live fun d => g { d with tim := f d.tim }
def tm (t : State) : Tim := t.dev.tim
def evs (t : State) : List Nat := t.dev.raised.map fun e => e.id.toNat

theorem test_reference : after (timDev fun t => { t with ref := .free }) (.refinValid true 5) (fun t => ((tm t).ref, (tm t).ref100, evs t)) = some (.acquire, true, [0x202]) ∧
    after (timDev fun t => { t with ref := .holdover, pboSum := 10 }) (.refinValid false (-3)) (fun t => ((tm t).ref, (tm t).pbo, (tm t).pboSum, (tm t).ret)) = some (.recover, 0xFFFFFFFD, 7, true) ∧
    after (timDev fun t => { t with ref := .recover, oven := true }) .pllLocked (fun t => (tm t).ref) = some .locked ∧ after (timDev fun t => { t with ref := .acquire }) .pllLocked (fun t => (tm t).ref) = some .warmup ∧
    after (timDev fun t => { t with ref := .locked }) .refinLoss (fun t => ((tm t).ref, (tm t).losses, evs t, t.dev.rel.queue.map (·.sev))) = some (.holdover, 1, [0x202], [0]) := by decide +kernel
theorem test_oven : after (timDev fun t => { t with ref := .locked, oven := true }) (.ovenReady false) (fun t => ((tm t).ref, (tm t).oven)) = some (.warmup, false) ∧
    after (timDev fun t => { t with ref := .locked, oven := true, refCtl := 0x20 }) (.ovenReady false) (fun t => (tm t).ref) = some .locked ∧
    after (timDev fun t => { t with ref := .acquire }) .refinLoss (fun t => (tm t).ref) = some .free ∧ stays (timDev fun t => { t with ref := .free }) .refinLoss = true := by decide +kernel

/-- 1,000 ticks and 3/256 back: the count loses 4 and 253 fine ticks are slewed forward. -/
theorem test_adjust : after (timDev id) (.stepTime (BitVec.ofInt 64 (-771))) (fun t => ((tm t).count, (tm t).rem, (tm t).slewRate, evs t, (tm t).steps)) = some (996, 253, 1000, [0x203], 1) ∧
    after (timDev id) (.set_ 77) (fun t => ((tm t).count, (tm t).unset, evs t)) = some (77, false, [0x203]) ∧
    after (timDev id) (.slew 9) (fun t => ((tm t).rem, (tm t).slewRate, (tm t).count, evs t)) = some (9, 1000, 1000, []) ∧
    after (timDev id) (.slew 0) (fun t => ((tm t).rem, evs t)) = some (0, [0x204]) ∧ after (timDev fun t => { t with rem := 1 }) .slewComplete (fun t => ((tm t).rem, evs t)) = some (0, [0x204]) := by decide +kernel
theorem meets_adjust : (timDev id).dev.served = true ∧ (timDev id).dev.rel.devFault = false ∧ (timDev fun t => { t with rem := 1 }).dev.tim.rem ≠ 0 ∧ (timDev id).dev.tim.rem = 0 := by decide +kernel

theorem test_alarm : after (timDev fun t => { t with alarms := [(2, { en := true, t := 1000, period := 50 })] }) (.tickAlarm 2) (fun t => ((tm t).alarm 2, evs t)) =
      some ({ en := true, t := 1050, period := 50, fires := 1 }, [0x20A]) ∧
    after (timDev fun t => { t with alarms := [(2, { en := true, t := 999 })] }) (.tickAlarm 2) (fun t => (((tm t).alarm 2).en, ((tm t).alarm 2).late)) = some (false, true) ∧
    stays (timDev fun t => { t with alarms := [(2, { en := true, t := 1001 })] }) (.tickAlarm 2) = true := by decide +kernel
/-- The count has wrapped: an alarm 2 ticks before the wrap is late by 7; one 5 ticks after it, seen before the wrap, is still to come. -/
theorem test_alarm_wraps : after (timDev fun t => { t with count := 5, alarms := [(2, { en := true, t := -2 })] }) (.tickAlarm 2) (fun t => (evs t, ((tm t).alarm 2).late)) = some ([0x20A], true) ∧
    stays (timDev fun t => { t with count := -2, alarms := [(2, { en := true, t := 5 })] }) (.tickAlarm 2) = true ∧
    stays (timDev fun t => { t with count := -2, atT := [{ t := 5, index := 7 }] }) .ringCommandAtT = true := by decide +kernel
/-- PIN_LEAD 4,096: 998 + 4,096 = 5,094, and the next multiple of 64 is 5,120. -/
theorem test_strobes : after (timDev fun t => { t with syncCfg := 0x10000001 }) .syncPinEdge (fun t => (tm t).atT) = some [{ t := 5120, index := 0, ring := false }] ∧
    after (timDev fun t => { t with atT := [{ t := 1000, index := 7, arg := 9 }, { t := 1001, index := 5 }] }) .ringCommandAtT (fun t => ((tm t).ring.arg, evs t, (tm t).atT.length)) = some (9, [0x607], 1) ∧
    after (timDev fun t => { t with atT := [{ t := 1000, index := 1 }], ring := { t.ring with off := 257 } }) .ringCommandAtT (fun t => ((tm t).count, (tm t).rem, (tm t).unset)) = some (998, 255, false) := by decide +kernel
theorem meets_strobes : bit (0x10000001 : Reg) 0 = true ∧ bit (timDev id).dev.tim.syncCfg 0 = false ∧ (timDev id).dev.tim.count.toNat + 65536 + 64 < 2 ^ 64 ∧ fld (0x10000001 : Reg) 16 16 = 4096 := by decide +kernel

/-- An edge 5 fine ticks after second 3; PPS_SEC 10. -/
def pps (mode : Nat) (last : Option Stamp := none) : State := timDev fun t => { t with ppsCfg := BitVec.ofNat 32 (mode + 100 * 4), ppsSec := 10, ppsLast := last, count := 6144000000 }
def edge3 : BitVec 72 := 3 * 524288000000 + 5
theorem test_pps : after (pps 1) (.ppsEdge edge3) (fun t => ((tm t).ppsOff, evs t, (tm t).ppsLast)) = some (5, [0x200], some edge3) ∧
    stays (pps 1 (some (edge3 - 1))) (.ppsEdge edge3) = true ∧
    after (pps 2) (.ppsEdge edge3) (fun t => ((tm t).count, (tm t).rem, fld (tm t).ppsCfg 0 2, evs t, (tm t).unset)) = some (6144000000 + 7 * 2048000000 - 1, 251, 1, [0x200, 0x203], false) ∧
    after (pps 1 (some 9)) .ppsMissing (fun t => ((tm t).ppsMissed, (tm t).ppsLast, evs t)) = some (1, none, [0x201]) ∧
    after (pps 1) (.mode 3) (fun t => t.dev.rel.queue.map (·.code)) = some [0x51] := by decide +kernel
theorem meets_pps : fld (pps 1).dev.tim.ppsCfg 0 2 = 1 ∧ fld (pps 1).dev.tim.ppsCfg 2 14 = 100 ∧ (stampDiff edge3 (edge3 - 524288000000 + 100 * 2048 * 256) - fineSecond).natAbs ≤ 100 * 2048 * 256 ∧
    ¬ (stampDiff edge3 (edge3 - 524288000000 + 100 * 2048 * 256 + 1) - fineSecond).natAbs ≤ 100 * 2048 * 256 ∧ (pps 1).dev.served = true ∧ 3 * fineSecond ≤ edge3.toNat ∧ edge3.toNat < 3 * fineSecond + fineSecond / 2 := by decide +kernel

/-- Input 2 stamps both edges into a ring of 4 records at 0x1000, with its event. -/
def tsiE : List (BitVec 36) := [2 + 16 + 2 * 32 + 128, 1 + 4 * 8, 0x1000, 0x800 * 4096]
def tsi (x : TsIn) (f : Tim → Tim := id) : State := timDev (fun t => f { t with inputs := [(2, x)] }) fun d => { d with units := [(timUnit, { com := [(258, tsiE)] })] }
def in2 (t : State) : TsIn := (tm t).input 2
theorem test_edge : after (tsi { last := some 959, cnt := 4096 }) (.stampEdge 2 false 319) in2 = some { cnt := 4097, last := some 1000, flight := [{ time := 1000 * 256 + 255, seq := 1, cal := true }] } ∧
    after (tsi { last := some 960 }) (.stampEdge 2 true 0) in2 = some { cnt := 1, last := some 960, lost := true, drop := 1 } ∧
    after (tsi {} fun t => { t with tables := [(4, [7, 8])] }) (.stampEdge 2 true 1) (fun t => (in2 t).flight) = some [{ time := 1000 * 256 + 8, seq := 1, cal := false }] ∧ stays (tsi {}) (.stampEdge 3 true 0) = true := by decide +kernel
def flown : TsIn := { flight := [{ time := 0x1000000005, seq := 3, cal := true, lost := true }] }
theorem test_stamp : after (tsi flown) (.stampReady 2) (fun t => ((List.range 4).map fun k => (t.mem.loftGet (0x1000 + k)).data, (t.mem.loftGet 0x800).data, evs t, (in2 t).lost)) = some ([5, 1, 0xF00302, 0], 1, [0x302], false) ∧
    after ((tsi flown).onMem fun m => m.loftPut 0x800 { data := 4 }) (.stampReady 2) (fun t => ((in2 t).ringFull, (in2 t).drop, t.dev.rel.queue.map (·.sev))) = some (true, 1, [2]) ∧ stays (tsi {}) (.stampReady 2) = true := by decide +kernel
theorem meets_stamps : let r := TsiRec.of tsiE
    ((tsi {}).dev.tsiRec? 2).isSome = true ∧ (r.en = true ∧ r.edge = 2 ∧ r.evt = true ∧ r.dest.kind = 1) ∧ (r.dest.nrec = 4 ∧ r.dest.ovw = false ∧ r.dest.idx = 0x800 ∧ r.dest.base = 0x1000) ∧
    Tbl.find? (tsi {}).dev.tim.tables 4 = none ∧ (∀ u, u < 4 → ((tsi {}).dev.statsRec? u).isNone = true) := by decide +kernel

def hits320 : List (BitVec 23) := List.replicate 64 13108 ++ List.replicate 256 13107
def collecting : State := tsi { calibrating := true }
theorem test_tdc : after collecting (.tdcCalibration 2 0x140 hits320) (fun t => (((Tbl.find? (tm t).tables 5).map fun f => [f[0]?, f[160]?, f[319]?]), Tbl.get 0 (tm t).calTemps 5, (in2 t).swap)) = some (some [some 0, some 128, some 256], 0x140, true) ∧
    after collecting (.tdcCalibration 2 0x140 (hits320.set 0 0 |>.set 1 26216)) (fun t => ((tm t).tables.length, (tm t).calErr, t.dev.rel.queue.length)) = some (0, true, 1) ∧
    after (tsi { swap := true }) (.lineSwap 2) in2 = some { line := true } ∧ stays (tsi { swap := true, flight := flown.flight }) (.lineSwap 2) = true := by decide +kernel
theorem test_tdc_control : after (tsi {}) (.tdcCalibrationDue 2) (fun t => (in2 t).calibrating) = some true ∧ stays (tsi {} fun t => { t with tdcCtl := 0 }) (.tdcCalibrationDue 2) = true ∧
    after (tsi {}) .tdcCal (fun t => ((List.range 9).map fun n => ((tm t).input n).calibrating, bit (tm t).tdcCtl 1)) = some (List.replicate 9 true, true) ∧
    after (tsi {}) .tdcSave (fun t => t.dev.atc.jobs.map fun j => (j.2.1, j.2.2.length)) = some [(6, 11556)] := by decide +kernel
theorem meets_tdc : let h := hits320.map BitVec.toNat
    hits320.length = 320 ∧ h.foldl (· + ·) 0 = 4194304 ∧ hitsValid h = true ∧ hitsValid ((h.set 0 0).set 1 26216) = false ∧ ((h.set 0 0).set 1 26216).foldl (· + ·) 0 = 4194304 := by decide +kernel

/-- The statistics example: MODE 0, WIN 5,243, N 4; its block's record. -/
def statsE (mode : Nat) : List (BitVec 36) := [BitVec.ofNat 36 (4 + mode * 8 + 2 * 16 + 3 * 256), 5243, 4, 1 + 8 * 8, 0x3000, 0x900 * 4096]
def stats (mode : Nat) (e : TimStat) : State := timDev (fun t => { t with stats := [(0, e)], count := 100000 }) fun d => { d with units := [(timUnit, { com := [(512, statsE mode)] })] }
def st0 (t : State) : TimStat := (tm t).stat 0
theorem test_stats_example : (({ n := 4, s1 := 5211, s2 := 13629741, min_ := -10, max_ := 2621, orphan := 1, unresolved := 1, first := some 5 } : TimStat).cells.map (·.data)) =
    [5, 0, 4, 0x0000516C0, 0x000051BC7, 0xFFFFFFFF6, 0x000000A3D, 0x001000001] := by decide +kernel
theorem test_stats : after (stats 0 { starts := [(10, false)], stops := [0] }) (.statsPairing 0) (fun t => ((st0 t).n, (st0 t).s1, (st0 t).s2, (st0 t).min_)) = some (1, -10, 100, -10) ∧
    after (stats 0 { starts := [(10, false)], stops := [6000] }) (.statsPairing 0) (fun t => ((st0 t).n, (st0 t).unpaired, (st0 t).stops)) = some (0, 1, [6000]) ∧
    after (stats 1 { starts := [(500, false)], prev := some 100 }) (.statsPairing 0) (fun t => ((st0 t).n, (st0 t).s1, (st0 t).prev)) = some (1, 400, some 500) ∧
    after (stats 1 { starts := [(500, true)], prev := some 100 }) (.statsPairing 0) (fun t => ((st0 t).n, (st0 t).unpaired)) = some (0, 1) ∧
    after (stats 0 { n := 3, s1 := 5, starts := [(0, false)], stops := [2600] }) (.statsPairing 0) (fun t => ((st0 t).n, (st0 t).blk, evs t, (t.mem.loftGet 0x900).data)) = some (0, 1, [0x210], 1) := by decide +kernel
theorem meets_stats : let x := StatsRec.of (statsE 0)
    ((stats 0 {}).dev.statsRec? 0).isSome = true ∧ (x.en = true ∧ x.mode = false ∧ x.win = 5243 ∧ x.n = 4) ∧ (StatsRec.of (statsE 1)).mode = true ∧ 10 + 5243 + 16384 ≤ (stats 0 {}).dev.tim.count.toNat * 256 ∧
    (stampDiff 0 (10 : Stamp)).natAbs ≤ 5243 ∧ stampDiff 500 (100 : Stamp) < 2 ^ 27 := by decide +kernel

/-- An alarm that a tick reaches fires on time; one that had passed fires at the next tick, late (R704, R726). -/
theorem test_alarm_tick : let alarm := fun (d : Dev) => (d.timTick.tim.alarm 1)
    let at_ := fun (n : Nat) => (timDev fun t => { t with started := true, count := 100, alarms := [(1, { en := true, t := BitVec.ofNat 64 n })] }).dev
    (alarm (at_ 101)).fires = 1 ∧ (alarm (at_ 101)).late = false ∧ (alarm (at_ 102)).fires = 0 ∧ (alarm (at_ 90)).fires = 1 ∧ (alarm (at_ 90)).late = true := by decide +kernel

/-! The sync ring. -/

def ring (r : Ring) : State := timDev fun t => { t with ring := { r with en := true } }
def rg (t : State) : Ring := t.dev.tim.ring
def types (t : State) : List (Nat × Nat) := (rg t).sent.map fun f => (f.1, fld f.2 0 8)
def frame1 (typ w1 w2 : Nat) (w3 : Nat := 0) : BitVec 256 := RingFrame.enc { typ, gen := 1, seq := 200, mid := 0x77, w1, w2, w3 }
theorem test_ring_sends : after (ring { master := true, mid := 0x77 }) .beacon types = some [(0, 1), (1, 1)] ∧ after (ring { master := true, rx0 := true, rx1 := true, gen := 4 }) .enum (fun t => (types t, (rg t).gen)) = some ([(0, 3), (1, 3)], 5) ∧
    after (ring {}) (.echoReq 5 6) (fun t => (types t, (rg t).sent.map fun f => fld f.2 64 64)) = some ([(0, 6), (1, 6)], [5, 6]) ∧
    after (ring {}) (.change true false) (fun t => (types t, (rg t).rx0)) = some ([(0, 8), (1, 8)], true) ∧ after (ring {}) .isolated (fun t => (rg t).isolated) = some true := by decide +kernel
/-- CRC-32C of "123456789" is 0xE3069283. -/
theorem test_crc32c : crc32c [0x31, 0x32, 0x33, 0x34, 0x35, 0x36, 0x37, 0x38, 0x39] = 0xE3069283 := by decide +kernel
/-- The ring example. Device 1 measures its hop; device 2 places the beacon; the master takes its lead. -/
theorem test_ring_example : after (ring { following := some 0x77 }) (.ringFrameReceive 0 (frame1 7 1000 10000) 65000 0) (fun t => (rg t).echo0) = some [27000] ∧
    after (ring { following := some 0x77, rx0 := true, hop0 := 27000 }) (.ringFrameReceive 0 (frame1 1 1000000000 0) (1000000000 * 256 + 27000) 6000) (fun t => (rg t).sent.map fun f => fld f.2 128 64) = some [33000] ∧
    after (ring { following := some 0x77, rx0 := true, hop0 := 14880 }) (.ringFrameReceive 0 (frame1 1 1000000000 33000) (1000000000 * 256 + 47900) 5000) (fun t => ((rg t).offs, (rg t).sent.map fun f => fld f.2 128 64, (tm t).rem)) = some ([20], [52880], 0) ∧
    (meanOf [20] true, meanOf [20] false) = (20, 20) ∧
    after (ring { master := true, mid := 0x77, hop0 := 20000 }) (.ringFrameReceive 0 (frame1 1 1000000000 52880) 0 0) (fun t => (rg t).lead) = some 8477 := by decide +kernel
theorem test_ring_frames : after (ring {}) (.ringFrameReceive 0 (frame1 6 1234 0) 0 77) (fun t => (types t, (rg t).sent.map fun f => (fld f.2 64 64, fld f.2 128 64))) = some ([(1, 7)], [(1234, 77)]) ∧
    after (ring {}) (.ringFrameReceive 0 (frame1 6 1234 0 ^^^ 1) 0 77) (fun t => ((rg t).crc, (rg t).crcRun, types t)) = some (1, 1, []) ∧
    after (ring { master := true, mid := 0x78 }) (.ringFrameReceive 1 (frame1 1 0 0) 0 0) (fun t => ((rg t).conflict, t.dev.rel.queue.length)) = some (true, 1) ∧
    after (ring { following := some 0x77 }) (.ringFrameReceive 1 (frame1 2 9000 (7 + 0x5500000000) 3) 0 0) (fun t => ((tm t).atT, (rg t).seen, types t)) = some ([{ t := 9000, index := 7, arg := 0x55 }], [3], [(1, 2)]) := by decide +kernel
theorem meets_ring : let f := RingFrame.dec (frame1 1 1000000000 33000)
    f = some { typ := 1, gen := 1, seq := 200, mid := 0x77, w1 := 1000000000, w2 := 33000 } ∧ RingFrame.dec (frame1 6 1234 0 ^^^ 1) = none ∧ (1, BitVec.ofNat 8 200) ∉ (ring {}).dev.tim.ring.own ∧
    (ring { following := some 0x77, rx0 := true }).dev.tim.ring.following = some (BitVec.ofNat 16 0x77) ∧ fld (BitVec.ofNat 64 (7 + 0x5500000000)) 0 8 ≠ 0 := by decide +kernel

/-! The monitors. -/

/-- Comparator 1: EDGE 2, FLEN 3, WSEL 0, capture on timer 2, event. Timer 2: PER 1,000, BSTART 10, BEND 20, CSTART 0, restart by an event. Sequence 0 by timer 2, DLY 50,
two steps: accumulator 0 and tracker 0 with NS 64, SETTLE 2; accumulator 1 with NS 32, SETTLE 2. Accumulator 1 publishes after 32. Tracker 0 has limits 100 and 3,000. -/
def cmp1 : List (BitVec 36) := [BitVec.ofNat 36 (1 + 8 + 3 * 2 ^ 31), BitVec.ofNat 36 (2 * 8 + 2 * 32 + 128 + 256)]
def tmr2 : List (BitVec 36) := [2 + 4 + 8 + 5 * 16, 1000, 10, 20, 0]
def seqE (dly : Nat) : List (BitVec 36) := [BitVec.ofNat 36 (4 + 2 * 16 + dly * 2 ^ 18), 1, BitVec.ofNat 36 (2 + 63 * 32 + 2 * 2 ^ 13 + 0 * 2 ^ 17 + 63 * 2 ^ 23), BitVec.ofNat 36 (24 + 31 * 32 + 2 * 2 ^ 13 + 1 * 2 ^ 17 + 63 * 2 ^ 23)]
def seqT : List (BitVec 36) := [1 + 4, 0, BitVec.ofNat 36 (2 + 1 * 32 + 0 * 2 ^ 13 + 63 * 2 ^ 17 + 0 * 2 ^ 23)]
def monDev (m : Mon) (dly : Nat := 50) (f : Dev → Dev := id) : State := live fun d => f { d with mon := m
                                                                                                 units := [(monUnit, { com := [(257, cmp1), (514, tmr2), (768, seqE dly), (769, seqT), (1025, [BitVec.ofNat 36 (1 + 32 + 31 * 64)]), (1280, [BitVec.ofNat 36 (32 + 100 * 64 + 3000 * 2 ^ 18)])] })] }
def mo (t : State) : Mon := t.dev.mon

theorem test_timer : after (monDev { timers := [(2, 999)] }) (.monitorTimerWrap 2 false) (fun t => (Tbl.get 0 (mo t).timers 2, ((mo t).seq 0).st, ((mo t).seq 0).delay)) = some (0, .delay, 50) ∧
    after (monDev { timers := [(2, 5)] }) (.monitorTimerWrap 2 true) (fun t => Tbl.get 0 (mo t).timers 2) = some 0 ∧ stays (monDev {}) (.monitorTimerWrap 1 false) = true := by decide +kernel
theorem meets_timer : let r := TimerRec.of tmr2
    ((monDev {}).dev.timerRec? 2).isSome = true ∧ (r.en = true ∧ r.revEn = true ∧ r.cstart = 0) ∧ ((monDev {}).dev.seqRec? 0).isSome = true ∧ (SeqRec.of (seqE 50)).en = true ∧
    ((SeqRec.of (seqE 50)).src = false ∧ (SeqRec.of (seqE 50)).tsel = 2 ∧ (SeqRec.of (seqE 50)).dly = 50) := by decide +kernel

/-- Two of the last three samples above HI: HIGH, an edge with capture and event; the third interrupt source is its first output. -/
def settled (h : List (BitVec 4)) (x : MonCmp := {}) : State := monDev { cmps := [(1, { x with hist := h, upper := some false, lower := some false })], timers := [(2, 777)], intEn := 0x1FF }
def cm (t : State) : MonCmp := (mo t).cmp 1
theorem test_comparator : after (settled [15, 12, 12]) (.comparatorEdge 1 [15]) (fun t => ((cm t).out, (cm t).edges, (cm t).cap, (cm t).capValid)) = some (true, 1, 777, true) ∧
    after (settled [15, 12, 12]) (.comparatorEdge 1 [15]) (fun t => ((mo t).intStat, t.dev.hkc.evtStat, evs t)) = some (2, 2, [0x401]) ∧
    after (settled [15, 12, 12]) (.comparatorEdge 1 [12]) (fun t => ((cm t).out, (cm t).edges, (cm t).hist)) = some (false, 0, [12, 15, 12]) ∧
    after (settled [12, 12, 12] { capValid := true }) (.comparatorEdge 1 [15, 15]) (fun t => (cm t).capOvr) = some true := by decide +kernel
def unsettled (h : List (BitVec 4)) (band : Nat := 0) : State := monDev { cmps := [(1, { hist := h, bandU := band, lower := some false })] }
theorem test_resolve : after (unsettled [5, 5]) (.comparatorResolve 1 [5]) (fun t => ((cm t).upper, (cm t).out, (mo t).intStat, evs t)) = some (some true, true, 0x200, []) ∧
    after (unsettled [2, 2] 254) (.comparatorResolve 1 [2]) (fun t => ((cm t).upper, (cm t).bandU)) = some (none, 255) ∧ after (unsettled [2, 2] 255) (.comparatorResolve 1 [2]) (fun t => (cm t).upper) = some (some false) ∧
    stays (settled [12, 12, 12]) (.comparatorResolve 1 [15]) = true := by decide +kernel
theorem meets_comparator : let r := (settled []).dev.cmpRec 1
    (r.en = true ∧ r.ben = false ∧ r.test = 0 ∧ r.flen = 3) ∧ (r.edge = 2 ∧ r.capEn = true ∧ r.evt = true ∧ r.wsel = 0) ∧ ((15 :: [15, 12, 12] : List (BitVec 4)).take 3).length = 3 ∧
    ((settled []).dev.unit monUnit).shadow = [] ∧ ((settled []).dev.cmpRec 0).en = false := by decide +kernel

/-- Codes 2,048 and 2,049: 1/75 · 64 codes a unit, from −1,600: 2,048.5 · 75 / 64 = 2,400.6, shown as 801. -/
theorem test_temperatures : after (monDev {}) (.temperatureService [[2048, 2049], [], [0]]) (fun t => ((List.range 3).map fun i => (Tbl.get 0 (mo t).temps (16 + i)).toInt)) = some [801, 0, -1600] := by decide +kernel

def seqIn (q0 q1 : MonSeq) (f : Mon → Mon := id) (dly : Nat := 50) : State := monDev (f { seqs := [(0, q0), (1, q1)] }) dly
def sq (t : State) : MonSeq := (mo t).seq 0
theorem test_sequence_start : after (seqIn {} {}) (.sequenceStart 0) sq = some { st := .delay, delay := 50 } ∧ after (seqIn {} {} id 0) (.sequenceStart 0) sq = some { st := .running } ∧
    after (seqIn { st := .running, pos := 3 } {}) (.sequenceStart 0) sq = some { st := .running, pos := 3, pend := true } ∧
    after (seqIn { st := .running, pend := true } {} fun m => { m with intEn := 0x40000 }) (.sequenceStart 0) (fun t => ((sq t).dropped, (mo t).intStat, t.dev.hkc.evtStat)) = some (1, 0x40000, 2) ∧
    after (seqIn { st := .delay, delay := 1 } { st := .running }) (.sequenceDelayEnd 0) sq = some { st := .ready } := by decide +kernel
theorem meets_sequences : let s := seqIn {} {}
    (s.dev.unit monUnit).shadow = [] ∧ (s.dev.mon.cal = false ∧ ∀ j : Nat, j < 4 → j ≠ 0 → (s.dev.mon.seq j).st ≠ .running ∧ (s.dev.mon.seq j).st ≠ .ready) ∧ (SeqRec.of (seqE 0)).dly = 0 := by decide +kernel

/-- The run of the monitor example: 66 and 34 conversions, and the slots that it takes; slot 127 serves temperatures. -/
def running (pos : Nat) (f : Mon → Mon := id) : State := seqIn { st := .running, pos } {} f
theorem test_example_slots : ((SeqRec.of (seqE 50)).steps.map fun x => x.settle + x.ns) = [66, 34] ∧ nextSlot 127 = 0 ∧ (81 + 100 + 1 - 1) = 181 := by decide
theorem test_conversion : after (running 1) (.accumulatorWindow 0 [2048]) (fun t => ((sq t).pos, (mo t).accs)) = some (2, []) ∧
    after (running 2) (.accumulatorWindow 0 [2048]) (fun t => (((mo t).acc 0).sum, ((mo t).acc 0).cnt)) = some (2048, 1) ∧
    after (running 68 fun m => { m with accs := [(1, { sum := 95232, cnt := 31 })] }) (.accumulatorWindow 0 [3072]) (fun t => (((mo t).acc 1).pubSum, ((mo t).acc 1).cnt, evs t)) = some (98304, 0, [0x501]) ∧
    after (running 99 fun m => { m with accs := [(1, {})] }) (.sequenceRunEnd 63 [3072]) (fun t => ((sq t).st, (sq t).runs, evs t)) = some (.idle, 1, [0x540]) ∧
    after (running 2 fun m => { m with slices := [(1, { off := 8, gain := 0xC000 })] }) (.accumulatorWindow 1 [1008]) (fun t => ((mo t).acc 0).sum) = some 1500 := by decide +kernel
def tracking (y : MonTrk) : State := seqIn {} { st := .running } fun m => { m with trks := [(0, y)] }
theorem test_tracker : after (tracking { lo := 200, hi := 300, valid := true }) (.trackerLimit 0 [99]) (fun t => (((mo t).trk 0).lo, ((mo t).trk 0).limit, (mo t).intStat, evs t)) = some (99, true, 0x10000, [0x520]) ∧
    after (tracking { lo := 200, hi := 300, valid := true, limit := true }) (.trackerLimit 0 [3001]) (fun t => (((mo t).trk 0).hi, evs t)) = some (3001, []) ∧
    after (tracking { lo := 200, hi := 300, valid := true }) (.trackerLimit 0 [3000]) (fun t => (((mo t).trk 0).hi, ((mo t).trk 0).limit)) = some (3000, false) := by decide +kernel
theorem meets_conversions : let r := SeqRec.of (seqE 50)
    ((running 1).dev.mon.seq 0).st = .running ∧ ((stepAt r.steps 1).map fun p => (p.1.settle, p.1.acc, p.1.trk, p.2)) = some (2, 0, 63, 1) ∧ (stepAt r.steps 2).isSome = true ∧
    ((stepAt r.steps 99).isSome = true ∧ (stepAt r.steps 100).isNone = true) ∧ (running 1).dev.accRec 1 = (true, 32) := by decide +kernel
theorem meets_tracker : let s := tracking { lo := 200, hi := 300, valid := true }
    (s.dev.mon.seq 1).st = .running ∧ (s.dev.mon.seq 0).st ≠ .running ∧ ((stepAt (SeqRec.of seqT).steps 0).map fun p => (p.1.settle, p.1.acc, p.1.trk, p.2)) = some (0, 63, 0, 0) ∧
    (stepAt (SeqRec.of seqT).steps 1).isSome = true ∧ (s.dev.mon.trk 0).valid = true := by decide +kernel

theorem test_monitor_clears : after (monDev { accs := [(0, { sum := 0x2100000003, cnt := 9 })] }) (.monAccSumLoRead 0) (fun t => (t.dev.host, ((mo t).acc 0).sumHi, ((mo t).acc 0).cntLatch)) = some ([.reply [3, 0, 0, 0]], 0x21, 9) ∧
    after (monDev { accs := [(0, { sum := 5, cnt := 9, sat := true })] }) (.accClr 0) (fun t => (mo t).acc 0) = some { sat := true } ∧ after (monDev { trks := [(3, { lo := 5, hi := 9, valid := true, limit := true })] }) (.trkClr 3) (fun t => (mo t).trk 3) = some { limit := true } ∧
    after (monDev {}) (.ctrim [1, 2, 3]) (fun t => ((List.range 3).map fun k => ((mo t).cmp k).trims)) = some [1, 0, 3] ∧
    after (monDev {}) .monSave (fun t => ((mo t).save, t.dev.atc.jobs.map fun j => (j.2.1, j.2.2.length))) = some (true, [(7, 20), (8, 32)]) := by decide +kernel
/-- References of 0.3 V and 0.9 V that read 1,024 and 3,072 give GAIN 0x8000 and OFF 0. -/
def calSums : List (BitVec 24 × BitVec 24) := List.replicate 4 (4194304, 12582912)
theorem test_monitor_cal : after (monDev { slices := [(2, { off := 9 })] }) (.cal calSums) (fun t => ((List.range 4).map fun k => ((mo t).slice k).gain, ((mo t).slice 2).off, (mo t).calErr)) = some (List.replicate 4 0x8000, 0, false) ∧
    after (monDev { slices := [(2, { off := 9 })] }) (.cal (calSums.set 3 (5, 5))) (fun t => (((mo t).slice 2).off, (mo t).calErr, t.dev.rel.queue.length)) = some (9, true, 1) := by decide +kernel
theorem meets_monitor_cal : calSums.length = 4 ∧ (calSums.all fun p => decide (p.1.toNat < p.2.toNat ∧ (2 ^ 39 + (p.2.toNat - p.1.toNat)) / (2 * (p.2.toNat - p.1.toNat)) = 0x8000)) = true ∧
    (monDev {}).dev.served = true ∧ (monDev {}).dev.rel.devFault = false ∧ (monDev {}).dev.mon.save = false := by decide +kernel

/-! Errors and the Attic. -/

def rel (t : State) : Rel := t.dev.rel
def mark (t : State) (n : Nat) : Bool := (Tbl.get {} (rel t).domains n).outstanding
def dom9 : BitVec 16 := 0x1009
/-- The nesting example: words 0 and 1 of record 0x0412, words 0 of the records after it. -/
theorem test_nesting_words : ({ code := 0x70, sev := 3, ovf := false, esc := false, domain := 0x1009, src := 0x85, cause := 1, seq := 0x412, addr := 0x600040, session := 9, time := 0, detail := 0 } : ErrRec).words.take 3 =
      [0x01009370, 0x04120185, 0x00600040] ∧ (({ code := 0x70, sev := 3, ovf := false, esc := false, domain := 0x3002, src := 0x12, cause := 1, seq := 0x413, addr := 0, session := 0, time := 0, detail := 0 } : ErrRec).words.take 1,
      ({ code := 0x70, sev := 3, ovf := false, esc := true, domain := 0x1009, src := 0x88, cause := 1, seq := 0x415, addr := 0, session := 9, time := 0, detail := 0 } : ErrRec).words.take 1) = ([0x03002370], [0x01009B70]) := by decide +kernel
def nested (out : Bool) : State := live fun d => { d with
  rel := { d.rel with seq := 0x412, domains := if out then [(0x1009, { outstanding := true }), (0x3002, { outstanding := true })] else [] }
  hlk := { d.hlk with sessions := [(9, { st := .opened })], live := [crate runRaw |> fun c => { c with session := 9 }] } }
def err9 (sev : BitVec 2) : Instr := .errorRecord .eccUncorrected sev 0x1009 0x85 1 0x600040 9 0 false
theorem test_nesting : after (nested false) (err9 3) (fun t => ((rel t).queue.map fun r => (r.code, r.esc, r.seq), mark t 0x1009, Tbl.get false t.dev.hlk.msiPending 0)) = some ([(0x70, false, 0x412)], true, true) ∧
    after (nested true) (err9 3) (fun t => ((rel t).queue.map fun r => (r.domain, r.esc, r.seq), mark t 0x1009, mark t 0x3002)) = some ([(0x1009, false, 0x412), (0x1009, true, 0x413)], false, true) ∧
    after (nested true) (err9 3) (fun t => ((t.dev.session 9).st, t.dev.hlk.live.map (·.status))) = some (.faulted, [.internal]) ∧
    after (nested true) (.relAck 0x3002) (fun t => (mark t 0x3002, mark t 0x1009)) = some (false, true) := by decide +kernel
theorem test_errors : after (nested false) (err9 1) (fun t => ((Tbl.get {} (rel t).domains 0x1009).corr, (rel t).ceSeen, Tbl.get false t.dev.hlk.msiPending 0)) = some (1, true, false) ∧
    after (nested false) (.errorRecord .internal 3 0 0x80 1 0 0 0 true) (fun t => ((rel t).devFault, (rel t).queue.map (·.esc), (t.dev.session 9).st)) = some (true, [false, true], .faulted) ∧
    after (live fun d => { d with den := [(1, { planes := [(2, { cnt := [(5, 7)] })] })] }) (.errorRecord .eccUncorrected 3 0x3001 0x21 1 0 0 2 false) (fun t => ((t.dev.dens 1).plane 2).cnt) = some [] := by decide +kernel
def full64 : State := live fun d => { d with rel := { d.rel with queue := List.replicate 64 { code := 0, sev := 0, ovf := false, esc := false, domain := 0, src := 0, cause := 0, seq := 0, addr := 0, session := 0, time := 0, detail := 0 } } }
theorem test_overflow : after full64 (err9 2) (fun t => ((rel t).overflow, (rel t).dropped, (rel t).queue.length, (rel t).seq)) = some (1, true, 64, 1) ∧ after full64 .pop (fun t => (rel t).queue.length) = some 63 ∧
    after (full64.onDev fun d => { d with rel := { d.rel with queue := [], dropped := true } }) (err9 2) (fun t => ((rel t).dropped, (rel t).queue.map (·.ovf))) = some (false, [true]) := by decide +kernel
theorem meets_errors : (nested false).dev.rel.devFault = false ∧ (nested false).dev.rel.queue.length < 63 ∧ 64 ≤ full64.dev.rel.queue.length ∧ ((nested true).dev.session 9).st = .opened ∧
    (Tbl.get {} (nested true).dev.rel.domains (0x1000 + 9)).outstanding = true := by decide +kernel

theorem test_ce_interval : after (live fun d => { d with rel := { d.rel with ceSeen := true }, hlk := { d.hlk with unmasked := [(1, true)] } }) .ceIntervalEnd (fun t => (t.dev.host, (rel t).ceSeen)) = some ([.msix 1], false) ∧
    after (live id) .ceIntervalEnd (fun t => t.dev.host) = some [] ∧ stays (dev id) .pop = true := by decide +kernel
theorem meets_ce_interval : (live id).dev.servedKept = true ∧ (dev id).dev.servedKept = false ∧ (dev id).dev.hkc.ready = false ∧ Tbl.get false (live id).dev.hlk.unmasked 1 = false := by decide +kernel

def patrol : State := live fun d => { d with glb := { d.glb with cellarGib := 1 }, cel := { d.cel with trained := 3 }, stk := { d.stk with loft := [(3, { session := 9, handle := 1 })], spus := [(7, { runs := some 5 })] }, insts := [(5, copy1 {})] }
def word5 : Nat := 3 * 16384 + 5
/-- Bits 40 and 41 inverted: a word of two errors. -/
def two : BitVec 48 := 3 <<< 40
def recs (t : State) : List (List Nat) := (rel t).queue.map fun r => [r.sev.toNat, r.domain.toNat, r.addr.toNat]
theorem test_patrol : after patrol (.patrolScrub (.loft 49157 1) 10 0) (fun t => (recs t, t.mem.scrub.isSome, (t.mem.loftGet word5).data)) = some ([[1, 0x1009, 49157]], true, 0) ∧
    after patrol (.patrolScrub (.loft 49157 two) 10 0) (fun t => (recs t, (rel t).scrubFound, t.mem.loftBad 49157)) = some ([[2, 0, 49157]], 1, true) ∧
    after patrol (.patrolScrub (.loc 7 9 two) 10 0) (fun t => (recs t, t.dev.spa.eccUncorr)) = some ([[2, 0x2007, 9]], 1) ∧
    after patrol (.patrolScrub (.loc 7 9 4) 10 0) (fun t => ((rel t).queue.map (·.sev), t.dev.spa.eccCorr, t.mem.scrub.isSome)) = some ([1], 1, true) ∧
    stays (patrol.onDev fun d => { d with rel := { d.rel with scrubCfg := 0 } }) (.patrolScrub (.loft 5 1) 10 0) = true := by decide +kernel
/-- Two symbols of a granule are corrected, three are not; the error of the check bytes is found too. -/
theorem test_patrol_granule : after patrol (.patrolScrub (.granule 0x1240 [(0, 1), (9, 4)]) 10 0) (fun t => ((rel t).queue.map (·.sev), t.mem.scrub, t.mem.poison)) = some ([1], some (.granule 0x49), []) ∧
    after patrol (.patrolScrub (.granule 0x1240 [(0, 1), (9, 4), (70, 2)]) 10 0) (fun t => (t.mem.poison, (rel t).scrubFound, (rel t).queue.map (·.addr))) = some ([0x49], 1, [0x1240]) := by decide +kernel
theorem test_write_back : let held := patrol.onMem fun m => { m.loftFlip 5 4 with scrub := some (.loft 5 ((m.loftFlip 5 4).loftWord 5)) }
    after held (.patrolScrub .writeBack 10 0) (fun t => (t.mem.loftErr.length, t.mem.scrub)) = some (0, none) ∧
    after (held.onMem fun m => m.loftPut 5 { data := 6 }) (.patrolScrub .writeBack 10 0) (fun t => ((t.mem.loftGet 5).data, t.mem.scrub)) = some (6, none) ∧
    after (patrol.onMem fun m => { m with celErr := [(9, [(1, 2)])], scrub := some (.granule 9) }) (.patrolScrub .writeBack 10 0) (fun t => t.mem.celErr.length) = some 0 := by decide +kernel
def good? (r : WordRead) : Nat := match r with | .good _ => 0 | .corrected _ => 1 | .bad _ => 2
theorem meets_patrol : bit patrol.dev.rel.scrubCfg 24 = true ∧ (patrol.dev.spu 8).runs = none ∧ (patrol.dev.spu 7).runs = some 5 ∧ (Tbl.find? patrol.dev.insts 5).isSome = true ∧
    0x1240 / shelfBytes < patrol.dev.fittedShelves ∧ patrol.dev.cel.autoRetire = false ∧ patrol.dev.rel.queue.length < 64 ∧
    (bit patrol.dev.cel.trained (patrol.mem.pcOf 0x1240 / 32) = true ∧ (patrol.dev.cel.pc (patrol.mem.pcOf 0x1240)).retired = false ∧ bit patrol.dev.cel.selfref (patrol.mem.pcOf 0x1240 / 32) = false) ∧
    [0, 1, two].map (fun f => good? ((patrol.mem.loftFlip word5 f).loftRead word5)) = [0, 1, 2] ∧ [4, two].map (fun f => good? (((copy1 {}).locFlip 9 f).locRead 9)) = [1, 2] ∧
    ((patrol.mem.granuleHit 0x49 (symbols [(0, 1), (9, 4), (70, 2)])).poisoned 0x1240 64 = true ∧ (patrol.mem.granuleHit 0x49 (symbols [(0, 1), (9, 4)])).poisoned 0x1240 64 = false ∧
      (patrol.mem.granuleHit 0x49 (symbols [(0, 1), (9, 4)])).fixable 0x1240 64 ≠ [] ∧ patrol.mem.fixable 0x1240 64 = [] ∧ patrol.mem.poisoned 0x1240 64 = false) ∧
    bit (patrol.onDev fun d => { d with cel := { d.cel with selfref := 3 } }).dev.cel.selfref (patrol.mem.pcOf 0x1240 / 32) = true ∧ patrol.mem.lostAt (0x49 * 64) 64 = false ∧ patrol.mem.scrub = none := by decide +kernel
theorem test_lost : after (live fun d => { d with ing := [(0, { en := true, st := .run, blind := true }), (1, {}), (2, { en := true, st := .fault })] }) .lostAnalysisTick (fun t => (List.range 3).map fun p => Tbl.get 0 (rel t).lostTicks p) = some [1, 0, 1] := by decide +kernel

/-- Record 13 is 12 bytes long. -/
def atc (a : Atc) : State := live fun d => { d with atc := a }
def at__ (t : State) : Atc := t.dev.atc
theorem test_attic_commands : after (atc { rec_ := 13 + 12 * 65536, stage := [(0, 7)] }) .writeRecord (fun t => ((at__ t).busy, (at__ t).jobs)) = some (true, [(.hostWrite, 13, 7 :: List.replicate 11 0)]) ∧
    after (atc { rec_ := 13 + 11 * 65536 }) .writeRecord (fun t => ((at__ t).busy, (at__ t).result)) = some (false, 1) ∧ after (atc { rec_ := 13, wlock := true }) .invalidateRecord (fun t => (at__ t).result) = some 2 ∧
    after (atc { rec_ := 0 }) .invalidateRecord (fun t => (at__ t).result) = some 1 ∧ after (atc { rec_ := 4 * 65536, ofs := 109 }) .writeIntegratorArea (fun t => (at__ t).jobs.map (·.2.1)) = some [0] := by decide +kernel
theorem test_attic_lock : after (atc {}) .wlock (fun t => (at__ t).wlock) = some true ∧ stays (atc { busy := true, rec_ := 13 + 12 * 65536 }) .writeRecord = true ∧
    after (atc { rec_ := 4 * 65536, ofs := 110 }) .writeIntegratorArea (fun t => (at__ t).result) = some 1 := by decide +kernel
theorem meets_attic_commands : (atc {}).dev.servedKept = true ∧ atticLen 13 = 12 ∧ atticLen 14 = 16 ∧ 0x12000 + 109 * 4096 + 4096 = 524288 := by decide

def body13 : List Byte := List.replicate 12 5
def writing (j : AtticJob) : State := (atc { jobs := [(j, 13, body13)], busy := true }).onMem fun m => { m with attic := [(atticOffset 13 / 4096 * 4096 + 4000, 9), (atticOffset 13 / 4096 * 4096 + 4096, 8)] }
theorem test_attic_write : after (writing .hostWrite) (.atticWriteDone true) (fun t => (t.mem.atticRun (atticOffset 13 + 16) 12, t.mem.atticValid 13, bit (at__ t).valid 13, (at__ t).busy)) = some (body13, true, true, false) ∧
    after (writing .hostWrite) (.atticWriteDone true) (fun t => (Tbl.get 0 t.mem.attic (atticOffset 13 / 4096 * 4096 + 4096), Tbl.get 0 (at__ t).erases (atticOffset 13 / 4096))) = some (8, 1) ∧
    after (writing .hostWrite) (.atticWriteDone false) (fun t => (bit (at__ t).valid 13, (at__ t).result, t.mem.attic.length)) = some (false, 3, 1) ∧
    after (writing .hostInvalidate) (.atticWriteDone true) (fun t => (t.mem.attic.length, (at__ t).result)) = some (1, 0) ∧
    after ((writing .tdcSave).onDev fun d => { d with tim := { d.tim with tdcCtl := 4 } }) (.atticWriteDone false) (fun t => (t.mem.attic.length, t.dev.tim.saveErr, t.dev.tim.tdcCtl, (rel t).queue.length)) = some (2, true, 0, 1) := by decide +kernel
theorem test_attic_waiting : after ((writing .hostWrite).onDev fun d => { d with hkc := { d.hkc with resetWait := some 3 } }) (.atticWriteDone true) (fun t => (t.dev.hkc.cause, t.dev.hkc.booting, t.mem.atticRun (atticOffset 13 + 16) 12)) = some (3, true, body13) ∧
    after ((writing .hostWrite).onDev fun d => { d with hkc := { d.hkc with stbyReq := true } }) (.atticWriteDone true) (fun t => (t.dev.hkc.stbyAt, t.dev.atc.jobs.length)) = some (some 1000, 0) := by decide +kernel
theorem meets_attic_write : body13.length = atticLen 13 ∧ (writing .hostWrite).dev.atc.jobs = [(.hostWrite, 13, body13)] ∧ (writing .tdcSave).dev.tim.saveErr = false ∧ (writing .tdcSave).dev.rel.queue.length < 64 ∧
    (writing .hostWrite).dev.hkc.calWait = none ∧ (writing .hostWrite).dev.hkc.smbWait = [] ∧ (writing .hostWrite).dev.hkc.resetWait = none := by decide

def rec1 (n : Nat) : ErrRec := { code := 0x70, sev := 3, ovf := false, esc := false, domain := 0x1009, src := 0x85, cause := 1, seq := BitVec.ofNat 16 n, addr := 0, session := 9, time := 0, detail := 0 }
def logging : State := live fun d => { d with rel := { d.rel with errlogWait := [rec1 1, rec1 2, rec1 3] }, atc := { d.atc with jobs := [(.errlog, 15, leBytes 4 65 ++ List.replicate 2052 0)] } }
theorem test_errlog : after logging .errlogCopy (fun t => (((at__ t).jobs.map fun j => (j.2.2.take 8, (j.2.2.drop 40).take 4)).drop 1, (rel t).errlogWait.length)) = some ([([66, 0, 0, 0, 2, 0, 0, 0], [0x70, 0x93, 0x00, 0x01])], 0) ∧
    stays (live id) .errlogCopy = true := by decide +kernel
theorem meets_errlog : logging.dev.rel.errlogWait = [rec1 1, rec1 2, rec1 3] ∧ (logging.latestBody 15 2056).length = 2056 := by decide +kernel
theorem test_crc_check : after (atc { valid := 0x2000 }) (.atticCrcCheck 0) (fun t => ((at__ t).valid, (rel t).queue.map fun r => (r.code, r.detail))) = some (0, [(0x70, 13)]) ∧ stays (atc { valid := 0 }) (.atticCrcCheck 0xFFFF) = true := by decide +kernel

/-! Registers, locks, vectors and pins. -/

def wr (o : BitVec 21) (v : Reg) : Instr := .registerWrite o (.w32 v)
def gl (t : State) : Glb := t.dev.glb
theorem test_register_write : after (live id) (wr 0x20 0xABCD) (fun t => (gl t).scratch1) = some 0xABCD ∧ stays (live id) (wr 0x00 5) = true ∧ stays (dev id) (wr 0x20 5) = true ∧
    after (live id) (.registerWrite 0x1C (.w64 0x2222222211111111)) (fun t => ((gl t).scratch0, (gl t).accPartial)) = some (0, true) ∧
    after (live id) (.registerWrite 0x20 (.w64 0x2222222211111111)) (fun t => ((gl t).scratch1, (gl t).scratch2)) = some (0x11111111, 0x22222222) := by decide +kernel
/-- The write of the locating example: two byte enables only, at CAP_BAR_IGN of Barrel 11. -/
theorem test_mailbox_go : after (live id) (wr 0x1D0000 0x80000009) (fun t => (t.dev.hkc.status, t.dev.hkc.done, t.dev.hkc.busy)) = some (Status.cfgRange.code, true, false) ∧
    after (live id) (wr 0x1D0000 0x9) (fun t => (t.dev.hkc.cmd, t.dev.hkc.done)) = some (9, false) := by decide +kernel
theorem test_locating_example : after (live id) (.registerWrite (0x150000 + 0x1000 + 11 * 0x40 + 0x10) .irregular) (fun t => ((gl t).accPartial, (gl t).accAddr, (gl t).accCount)) = some (true, 0x801512D0, 1) ∧
    after (live id) (wr 0x64 1) (fun t => ((gl t).accUnmapped, (gl t).accAddr)) = some (true, 0x80000064) ∧
    after (live fun d => { d with glb := { d.glb with accPartial := true, accUnmapped := true, accCount := 3 } }) (wr 0x3C 0xFFFF0001) (fun t => ((gl t).accPartial, (gl t).accUnmapped, (gl t).accCount)) = some (false, true, 0) := by decide +kernel
/-- Offsets of the locating example: Barrel 11's CAP_BAR_ERR, the vector control of vector 83, and a data word of the table. -/
theorem test_located : after (live fun d => { d with barrels := [(11, { err := 0x3F })] }) (wr 0x1512D4 0x05) (fun t => (t.dev.barrel 11).err) = some 0x3A ∧
    after (live fun d => { d with hlk := { d.hlk with msiPending := [(83, true)] } }) (wr (0x18530 + 12) 0) (fun t => (Tbl.get false t.dev.hlk.unmasked 83, Tbl.get false t.dev.hlk.msiPending 83, t.dev.host)) = some (true, false, [.msix 83]) ∧
    after (live id) (wr 0x18534 0x77) (fun t => Tbl.get 0 t.dev.hlk.msiTable (4 * 83 + 1)) = some 0x77 := by decide +kernel
theorem test_register_fields : after (live fun d => { d with hlk := { d.hlk with errStat := 0x7F } }) (wr 0x1000C 0x45) (fun t => t.dev.hlk.errStat) = some 0x7A ∧
    after (live fun d => { d with ing := [(1, { ovr := 9 })] }) (wr 0x60010 0xFFFFFFFF) (fun t => (t.dev.port 1).ovr) = some 0 ∧
    after (live id) (wr 0x1B0208 0x12345678) (fun t => Tbl.get 0 (t.dev.unit monUnit).buf 1) = some 0x12345678 ∧
    after (live fun d => { d with hkc := { d.hkc with ready := false, funcReset := some false } }) (wr 0x20 7) (fun t => (gl t).scratch1) = some 7 ∧
    stays (live fun d => { d with hkc := { d.hkc with ready := false, funcReset := some false } }) (wr 0x1000C 7) = true := by decide +kernel
theorem meets_registers : (live id).dev.servedKept = true ∧ (live id).dev.hkc.ready = true ∧ (dev id).dev.hkc.ready = false ∧ (dev id).dev.hkc.funcReset = none ∧ (0x20 : BitVec 21).toNat % 8 = 0 ∧
    0x1C % 8 ≠ 0 ∧ (0x1000C : BitVec 21).toNat / 65536 ≠ 0 := by decide

theorem test_latches : after (live fun d => { d with tim := { d.tim with count := 0x123456789A } }) .timNowRead (fun t => (t.dev.tim.nowLatch, t.dev.host)) = some (0x123456789A, [.reply [0x9A, 0x78, 0x56, 0x34]]) ∧
    after (live id) .lockAll (fun t => (t.dev.atc.wlock, t.dev.cel.lock, bit t.dev.stk.ctl 31)) = some (true, true, true) ∧
    after (live fun d => { d with hlk := { d.hlk with msiPending := [(5, true)] } }) (.msixVectorUnmask 5) (fun t => t.dev.host) = some [.msix 5] ∧ after (live id) (.msixVectorUnmask 5) (fun t => t.dev.host) = some [] := by decide +kernel

def pins (g : Glb) : State := live fun d => { d with glb := { g with gpioEvsel := 0x80000100 } }
theorem test_gpio : after (pins {}) (.gpioEdge 4 true) (fun t => ((gl t).gpioIn, t.dev.raised)) = some (0x10, [{ id := 0xB04, time := 998 * 256 }]) ∧
    after (pins { gpioIn := 0x10 }) (.gpioEdge 4 false) (fun t => ((gl t).gpioIn, t.dev.raised)) = some (0, []) ∧ stays (pins {}) (.gpioEdge 4 false) = true ∧
    after (pins { gpioLast := [(4, 993)] }) (.gpioEdge 4 true) (fun t => ((gl t).gpioDrop, t.dev.raised)) = some (1, []) ∧
    after (pins { gpioIn := 0x8000, gpioLast := [(15, 992)] }) (.gpioEdge 15 false) (fun t => (t.dev.raised.map (·.id), Tbl.find? (gl t).gpioLast 15)) = some ([0xB0F], some 1000) := by decide +kernel
theorem meets_gpio : bit (pins {}).dev.glb.gpioEvsel (2 * 4 + 0) = true ∧ bit (pins {}).dev.glb.gpioEvsel (2 * 15 + 1) = true ∧ bit (pins {}).dev.glb.gpioEvsel (2 * 4 + 1) = false ∧ (pins {}).dev.tim.started = true := by decide

/-! Plain reads. -/

theorem test_reads : (live fun d => { d with glb := { d.glb with scratch0 := 0xABCD, gpioIn := 0x11 } }).readReg 0x1C = 0xABCD ∧ (live fun d => { d with glb := { d.glb with gpioIn := 0x11 } }).readReg 0x58 = 0x11 ∧
    ((live id).read32 0x64).1 = 0 ∧ ((live id).read32 0x64).2.dev.glb.accUnmapped = true ∧ ((live id).read32 0x64).2.dev.glb.accAddr = 0x64 ∧
    ((live fun d => { d with tim := { d.tim with count := 0x123456789A } }).read64 0x40010).1 = 0x123456789A ∧
    (live fun d => { d with ing := [(1, { ovr := 9 })] }).readReg 0x60010 = 9 := by decide +kernel
theorem test_quota_reads : (live id).readReg 0x20044 = 0 ∧ (live fun d => { d with hlk := { d.hlk with sessions := [(0, { st := .opened })] } }).readReg 0x20050 = 0x0400C000 := by decide +kernel
theorem meets_reads : (live id).dev.served = true ∧ ((live id).dev.session (live id).dev.stk.sel.toNat).st = .closed ∧ 0x20044 % 4 = 0 := by decide +kernel

/-! The machine. -/

theorem test_step : (match step { live id with pending := [.lockAll, .pop] } with | .next t => t.pending | _ => []) = [.pop] ∧
    (match step (live id) with | .next t => some (t.dev.tim.count, t.dev.tim.ticks) | _ => none) = some (1001, 1001) ∧ (match step State.reset with | .next t => decide (t = State.reset) | _ => false) = true := by decide +kernel
theorem meets_tick : let s := live id
    s.pending = [] ∧ s.dev.tim.started = true ∧ (s.dev.tim.rem = 0 ∧ bit s.dev.tim.adjCtl 2 = false ∧ s.dev.tim.atT = [] ∧ s.dev.hkc.stbyAt = none) ∧ s.dev.units = [] := by decide
/-- The invariant holds of a state with something in every memory. -/
theorem meets_memory_form : ((used.onMem fun m => { m with pool := [(3, 1)] }).mem.wf) = true ∧ ({ loft := [(3, { data := 1 }), (2, { data := 1 })] } : Mem).wf = false ∧ ({ cellar := [(3, 0)] } : Mem).wf = false := by decide
theorem meets_waiting_host : (dev id).dev.hkc.ready = false ∧ (dev id).dev.hkc.funcReset = none := by decide
theorem test_no_words : decodeTableWord 8 0 = none ∧ (State.reset.withFetchWord 8 0 = State.reset) := by decide +kernel

/-! Ill-formed commands, one for each check. -/

theorem test_wf_host_data : (Instr.crateRead 1 0 (.bytes (List.replicate 8 0))).wf = true ∧ (Instr.crateRead 1 0 (.bytes [1])).wf = false ∧ (Instr.admissionResume 1 (.bytes [1])).wf = false ∧ (Instr.load 1 (.bytes [1])).wf = false := by decide
theorem test_wf_accesses : (Instr.bar4Access 0 (.read 0)).wf = false ∧ (Instr.cxlMemAccess 0 (.write [])).wf = false ∧ (Instr.cxlMemAccess 0 (.write [1])).wf = true := by decide
theorem test_wf_lengths : (Instr.eyeScan 0 3 { right := List.replicate 128 0 }).wf = false ∧ (Instr.laneAcquisition 0 3 0 { centre := 65537 }).wf = false ∧ (Instr.eyeScan 0 3 (eye 20 20)).wf = true ∧ (Instr.auxReply 0 0 (List.replicate 17 0)).wf = false ∧ (Instr.tdcCalibration 0 0 [1]).wf = false ∧ (Instr.tdcCalibration 0 0 hits320).wf = true := by decide +kernel
theorem test_wf_samples : (Instr.comparatorEdge 0 []).wf = false ∧ (Instr.comparatorResolve 0 []).wf = false ∧ (Instr.standbyWakeEdge 0 []).wf = false ∧ (Instr.comparatorEdge 0 [0]).wf = true := by decide
theorem test_wf_services : (Instr.temperatureService []).wf = false ∧ (Instr.cal []).wf = false ∧ (Instr.ctrim [1]).wf = false ∧ (Instr.ctrim (List.replicate 8 1)).wf = true := by decide
theorem test_wf_calibrate : (Instr.calibrate [] [] 0 []).wf = true ∧ (Instr.calibrate [(0, 0)] [] 0 []).wf = false ∧ (Instr.calibrate [] [1] 0 []).wf = false ∧ (Instr.calibrate [] [] 0 [[1]]).wf = false ∧
    (Instr.unknownMailboxCommand 5).wf = false ∧ (Instr.unknownMailboxCommand 6).wf = true := by decide

/-! Numbers. -/

/-- −30.000 dB is −10,205 as LP18 and −2,551 as LP16; 1.5 GHz at 10.24 GS/s is 75 · 2^39. -/
theorem test_lp_example : lp18 1 1000 = -10205 ∧ lp16 (-10205) = -2551 ∧ 75 * 2 ^ 39 = 0x258000000000 ∧ 75 * 2 ^ 39 * 10240 = 1500 * 2 ^ 48 := by decide +kernel
end Sys2Proof.Tests
end

section
namespace Sys2Proof.Machine

/-! Bit fields: what a field reads after a write of the same field, of another one, and of a bit. -/

section
variable {n : Nat} (w : BitVec n) (lo len v i : Nat)

theorem bit_eq_getLsbD : bit w i = w.getLsbD i := rfl

theorem testBit_fld : (fld w lo len).testBit i = (decide (i < len) && bit w (lo + i)) := by
  simp [fld, bit, Nat.testBit_mod_two_pow, Nat.testBit_shiftRight]

theorem bit_setFld (h : i < n) :
    bit (setFld w lo len v) i = if lo ≤ i ∧ i < lo + len then v.testBit (i - lo) else bit w i := by
  simp only [bit_eq_getLsbD, setFld, BitVec.getLsbD_or, BitVec.getLsbD_and, BitVec.getLsbD_not, BitVec.getLsbD_ofNat, h,
    Nat.testBit_shiftLeft, Nat.testBit_two_pow_sub_one, Nat.testBit_mod_two_pow]
  by_cases h₁ : lo ≤ i
  · by_cases h₂ : i < lo + len
    · simp [h₁, h₂, show i - lo < len by omega]
    · simp [h₁, h₂, show ¬ i - lo < len by omega]
  · simp [h₁]

theorem fld_setFld_same (h : lo + len ≤ n) : fld (setFld w lo len v) lo len = v % 2 ^ len := by
  refine Nat.eq_of_testBit_eq fun i => ?_
  rw [testBit_fld, Nat.testBit_mod_two_pow]
  by_cases k : i < len
  · simp [k, bit_setFld w lo len v (lo + i) (by omega)]
  · simp [k]

theorem fld_setFld_other (l k : Nat) (h : l + k ≤ n) (apart : l + k ≤ lo ∨ lo + len ≤ l) :
    fld (setFld w lo len v) l k = fld w l k := by
  refine Nat.eq_of_testBit_eq fun i => ?_
  rw [testBit_fld, testBit_fld]
  by_cases j : i < k
  · rw [bit_setFld w lo len v (l + i) (by omega), if_neg (by omega)]
  · simp [j]

theorem bit_setBit (j : Nat) (b : Bool) (h : i < n) : bit (setBit w j b) i = if i = j then b else bit w i := by
  rw [setBit, bit_setFld _ _ _ _ _ h]
  by_cases e : i = j
  · subst e; cases b <;> simp
  · rw [if_neg (by omega), if_neg e]

theorem bit_setBit_same (b : Bool) (h : i < n) : bit (setBit w i b) i = b := by
  rw [bit_setBit _ _ _ _ h, if_pos rfl]

end

end Sys2Proof.Machine
end

section
namespace Sys2Proof.Machine

/-! Error records: what one more record is, and what writing it leaves alone. -/

section
variable (d : Dev) (r : Report)

/-- The record that a report becomes (R785, R786). -/
def Dev.recordOf : ErrRec :=
  { code := r.code.code, sev := BitVec.ofNat 2 r.sev, ovf := d.rel.dropped, esc := r.esc, domain := r.domain
    src := r.src, cause := BitVec.ofNat 8 r.cause, seq := d.rel.seq, addr := BitVec.ofNat 64 r.addr
    session := BitVec.ofNat 12 r.session, time := d.now, detail := BitVec.ofNat 32 r.detail }

/-- A vector changes the messages to the host and the pending bits alone (R852). -/
theorem Dev.vector_frame (v : Nat) : d.vector v =
    { d with host := (d.vector v).host, hlk := { d.hlk with msiPending := (d.vector v).hlk.msiPending } } := by
  unfold Dev.vector; split <;> rfl

/-- A record changes REL, and where it raises a vector, that vector's message (R788). -/
theorem Dev.log_frame : d.log r =
    { d with rel := (d.log r).rel, host := (d.log r).host, hlk := { d.hlk with msiPending := (d.log r).hlk.msiPending } } := by
  unfold Dev.log; dsimp only
  split
  · rw [Dev.vector_frame]
  · rfl

/-- NOTE and CORRECTED raise no vector (R788). -/
theorem Dev.log_quiet (h : r.sev < 2) : d.log r = { d with rel := (d.log r).rel } := by
  unfold Dev.log; dsimp only
  rw [if_neg (by omega)]

theorem Dev.log_queue (room : d.rel.queue.length < 64) : (d.log r).rel.queue = d.rel.queue ++ [d.recordOf r] := by
  unfold Dev.log; dsimp only
  rw [apply_ite Dev.rel]
  simp [Dev.recordOf, Nat.not_le.mpr room]

@[simp] theorem Dev.log_seq : (d.log r).rel.seq = d.rel.seq + 1 := by
  unfold Dev.log; dsimp only
  rw [apply_ite Dev.rel]
  simp

@[simp] theorem Dev.log_now : (d.log r).now = d.now := by simp [Dev.now]

end

/-- A report on a queue with room is one further record. -/
theorem OneRecord.of_log {s t : State} {d : Dev} {r : Report} (room : s.dev.rel.queue.length < 64) (rel : d.rel = s.dev.rel)
    (now : d.now = s.dev.now) (logged : t.dev.rel = (d.log r).rel) (sev : r.sev < 4) : OneRecord s t r.code r.sev r.domain := by
  refine ⟨d.recordOf r, ?_, rfl, ?_, rfl, now, by simp [Dev.recordOf, rel], ?_⟩
  · rw [logged, d.log_queue r (by rwa [rel]), rel]
  · simpa [Dev.recordOf] using Nat.mod_eq_of_lt sev
  · rw [logged, d.log_seq r, rel]

end Sys2Proof.Machine
end

section
namespace Sys2Proof.Machine

/-! The commands of the time base. -/

section
variable (s : State)

theorem exec_refinValid (b : Bool) (o : BitVec 32) : exec (.refinValid b o) s = execRefinValid b o s := rfl
theorem exec_refinLoss : exec .refinLoss s = execRefinLoss s := rfl
theorem exec_pllLocked : exec .pllLocked s = execPllLocked s := rfl
theorem exec_ovenReady (b : Bool) : exec (.ovenReady b) s = execOvenReady b s := rfl
theorem exec_stepTime (v : BitVec 64) : exec (.stepTime v) s = execStepTime v s := rfl
theorem exec_slew (v : BitVec 64) : exec (.slew v) s = execSlew v s := rfl
theorem exec_set (v : BitVec 64) : exec (.set_ v) s = execSet v s := rfl
theorem exec_slewComplete : exec .slewComplete s = execSlewComplete s := rfl
theorem exec_tickAlarm (k : Fin 8) : exec (.tickAlarm k) s = execTickAlarm k s := rfl
theorem exec_syncPinEdge : exec .syncPinEdge s = execSyncPinEdge s := rfl
theorem exec_ringCommandAtT : exec .ringCommandAtT s = execRingCommandAtT s := rfl
theorem exec_ppsMissing : exec .ppsMissing s = execPpsMissing s := rfl
theorem exec_mode (m : BitVec 2) : exec (.mode m) s = execMode m s := rfl

end

/-! The time base: one lemma per operation. -/

section
variable (d : Dev)

/-- R691: a change of state raises event 0x202. -/
theorem Dev.setRef_of_ne {r : RefState} (h : d.tim.ref ≠ r) : d.setRef r =
    { d with tim := { d.tim with ref := r }, raised := d.raised ++ [{ id := 0x202, time := d.stamp }] } := by
  rw [Dev.setRef, if_neg h]; rfl

/-- R690: the record of a loss of REFIN. -/
def refinReport : Report := { code := .ok, sev := 0, domain := domDevice, src := BitVec.ofNat 8 timUnit, cause := 5 }

/-- R690: a loss of REFIN is counted, changes the state and writes a NOTE. -/
theorem Dev.refLost_of_ne {r : RefState} (h : d.tim.ref ≠ r) : d.refLost r =
    { d with
      rel := (d.log refinReport).rel
      raised := d.raised ++ [{ id := 0x202, time := d.stamp }]
      tim := { d.tim with ref := r, loss := true, losses := BitVec.ofNat 16 (min (d.tim.losses.toNat + 1) 65535) } } := by
  unfold Dev.refLost
  rw [Dev.setRef_of_ne _ (by exact h), Dev.timRecord, Dev.log_quiet _ _ (by decide)]
  rfl

/-- R700, R703: the count takes a value: the PPS edge moves along, and the change is counted, raises event 0x203 and is recorded. -/
theorem Dev.setCount_frame (v : BitVec 64) : d.setCount v =
    { d with
      rel := (d.setCount v).rel
      raised := d.raised ++ [{ id := 0x203, time := stampOf v }]
      tim := { d.tim with count := v, ppsLast := (d.setCount v).tim.ppsLast
                          steps := BitVec.ofNat 16 (min (d.tim.steps.toNat + 1) 65535) } } := by
  rw [Dev.setCount, Dev.timRecord, Dev.log_quiet _ _ (by decide)]
  rfl

/-- An operation written with its value, as it starts: GO is clear again (R700). -/
def Dev.adjusting (op : Nat) (v : BitVec 64) : Dev :=
  d.onTim fun t => { t with adjVal := v, adjCtl := setBit (setFld t.adjCtl 0 2 op) 2 false }

theorem Dev.adjustWith_step (v : BitVec 64) : d.adjustWith 1 v = (d.adjusting 1 v).stepTime v.toInt := by
  simp only [Dev.adjustWith, Dev.adjust, Dev.onTim, fld_setFld_same _ 0 2 _ (by decide : 0 + 2 ≤ 32)]; rfl

theorem Dev.adjustWith_slew (v : BitVec 64) : d.adjustWith 2 v = (d.adjusting 2 v).slew v.toInt (fld d.tim.adjCtl 4 10) := by
  simp only [Dev.adjustWith, Dev.adjust, Dev.onTim, fld_setFld_same _ 0 2 _ (by decide : 0 + 2 ≤ 32),
    fld_setFld_other _ 0 2 _ 4 10 (by decide : 4 + 10 ≤ 32) (by decide)]; rfl

theorem Dev.adjustWith_set (v : BitVec 64) : d.adjustWith 3 v = (d.adjusting 3 v).setTime v := by
  simp only [Dev.adjustWith, Dev.adjust, Dev.onTim, fld_setFld_same _ 0 2 _ (by decide : 0 + 2 ≤ 32)]; rfl

theorem Dev.adjusting_go (op : Nat) (v : BitVec 64) : bit (d.adjusting op v).tim.adjCtl 2 = false :=
  bit_setBit_same _ _ _ (by decide)

end

/-! The reference PLL (R690 to R692, R695): an equation per report and state. -/

/-- The time base changed and the PLL in a new state, with its event. -/
def State.refMoved (s : State) (y : Tim) (r : RefState) : State :=
  { s with dev := { s.dev with tim := { y with ref := r }, raised := s.dev.raised ++ [{ id := 0x202, time := s.dev.stamp }] } }

section
variable {s : State} {b : Bool} {o : BitVec 32}

theorem onTim_setRef {f : Tim → Tim} {r : RefState} (h : (f s.dev.tim).ref ≠ r) (c : (f s.dev.tim).count = s.dev.tim.count) :
    s.onDev (fun d => (d.onTim f).setRef r) = s.refMoved (f s.dev.tim) r := by
  have e : (s.dev.onTim f).stamp = s.dev.stamp := by simp only [Dev.stamp, Dev.now, Dev.onTim, c]
  simp only [State.onDev, Dev.setRef_of_ne (s.dev.onTim f) h, e]; rfl

theorem refinValid_free (h : s.dev.tim.ref = .free) :
    exec (.refinValid b o) s = .next (s.refMoved { s.dev.tim with ref100 := b } .acquire) := by
  rw [← onTim_setRef (s := s) (f := fun t => { t with ref100 := b }) (by simp [h]) rfl]
  simp only [exec_refinValid, execRefinValid, devStep, State.onDev, h]

theorem refinValid_holdover (h : s.dev.tim.ref = .holdover) : exec (.refinValid b o) s = .next (s.refMoved
    { s.dev.tim with ref100 := b, ret := true, pbo := o, pboSum := BitVec.ofInt 32 (satS 32 (s.dev.tim.pboSum.toInt + o.toInt)) }
    .recover) := by
  rw [← onTim_setRef (s := s) (f := fun t =>
    { t with ref100 := b, ret := true, pbo := o, pboSum := BitVec.ofInt 32 (satS 32 (t.pboSum.toInt + o.toInt)) }) (by simp [h]) rfl]
  simp only [exec_refinValid, execRefinValid, devStep, State.onDev, h]

theorem refinValid_other (h : s.dev.tim.ref ≠ .free) (k : s.dev.tim.ref ≠ .holdover) :
    exec (.refinValid b o) s = .next s := by
  cases r : s.dev.tim.ref <;> simp_all [exec_refinValid, execRefinValid, devStep, State.onDev]

theorem pllLocked_locks (h : s.dev.tim.ref = .acquire ∨ s.dev.tim.ref = .recover) : exec .pllLocked s =
    .next (s.refMoved s.dev.tim (if s.dev.tim.oven = true ∨ bit s.dev.tim.refCtl 5 = true then .locked else .warmup)) := by
  have e : s.dev.tim.lockState = if s.dev.tim.oven = true ∨ bit s.dev.tim.refCtl 5 = true then .locked else .warmup := by
    simp [Tim.lockState, Tim.ovenIgn]
  have n : s.dev.tim.ref ≠ s.dev.tim.lockState := by
    rw [e]; split <;> rcases h with h | h <;> simp [h]
  rw [← e, show s.refMoved s.dev.tim s.dev.tim.lockState = _ from (onTim_setRef (f := id) n rfl).symm]
  rcases h with h | h <;> simp only [exec_pllLocked, execPllLocked, devStep, State.onDev, h] <;> rfl

theorem pllLocked_other (h : s.dev.tim.ref ≠ .acquire) (k : s.dev.tim.ref ≠ .recover) : exec .pllLocked s = .next s := by
  cases r : s.dev.tim.ref <;> simp_all [exec_pllLocked, execPllLocked, devStep, State.onDev]

/-- The state after a loss of REFIN. -/
theorem refinLoss_of {r : RefState} (h : exec .refinLoss s = .next (s.onDev fun d => d.refLost r)) (n : s.dev.tim.ref ≠ r)
    (room : s.dev.rel.queue.length < 64) : ∃ t, exec .refinLoss s = .next t ∧ OneRecord s t .ok 0 domDevice ∧
      t = { s with dev := { s.dev with
        rel := t.dev.rel, raised := s.dev.raised ++ [{ id := 0x202, time := s.dev.stamp }]
        tim := { s.dev.tim with ref := r, loss := true, losses := BitVec.ofNat 16 (min (s.dev.tim.losses.toNat + 1) 65535) } } } := by
  refine ⟨_, h, ?_, ?_⟩ <;> simp only [State.onDev, Dev.refLost_of_ne _ n]
  exact .of_log (r := refinReport) room rfl rfl rfl (by decide)

theorem refinLoss_acquire (h : s.dev.tim.ref = .acquire) : exec .refinLoss s = .next (s.onDev fun d => d.refLost .free) := by
  simp only [exec_refinLoss, execRefinLoss, devStep, State.onDev, h]

theorem refinLoss_locked (h : s.dev.tim.ref = .locked ∨ s.dev.tim.ref = .warmup ∨ s.dev.tim.ref = .recover) :
    exec .refinLoss s = .next (s.onDev fun d => d.refLost .holdover) := by
  rcases h with h | h | h <;> simp only [exec_refinLoss, execRefinLoss, devStep, State.onDev, h]

theorem refinLoss_other (h : s.dev.tim.ref = .free ∨ s.dev.tim.ref = .holdover) : exec .refinLoss s = .next s := by
  rcases h with h | h <;> simp only [exec_refinLoss, execRefinLoss, devStep, State.onDev, h]

/-- R692: in LOCKED and WARMUP the state follows OVEN_READY. -/
theorem ovenReady_moves (h : s.dev.tim.ref = .locked ∨ s.dev.tim.ref = .warmup)
    (n : s.dev.tim.ref ≠ ({ s.dev.tim with oven := b } : Tim).lockState) : exec (.ovenReady b) s =
      .next (s.refMoved { s.dev.tim with oven := b } ({ s.dev.tim with oven := b } : Tim).lockState) := by
  rw [← onTim_setRef (s := s) (f := fun t => { t with oven := b }) n rfl]
  rcases h with h | h <;> simp only [exec_ovenReady, execOvenReady, devStep, State.onDev, Dev.followOven, Dev.onTim, h]

theorem ovenReady_low (h : s.dev.tim.ref = .locked) (k : bit s.dev.tim.refCtl 5 = false) :
    exec (.ovenReady false) s = .next (s.refMoved { s.dev.tim with oven := false } .warmup) := by
  have e : ({ s.dev.tim with oven := false } : Tim).lockState = .warmup := by simp [Tim.lockState, Tim.ovenIgn, k]
  rw [ovenReady_moves (.inl h) (by rw [e, h]; decide), e]

theorem ovenReady_high (h : s.dev.tim.ref = .warmup) :
    exec (.ovenReady true) s = .next (s.refMoved { s.dev.tim with oven := true } .locked) := by
  have e : ({ s.dev.tim with oven := true } : Tim).lockState = .locked := by simp [Tim.lockState]
  rw [ovenReady_moves (.inr h) (by rw [e, h]; decide), e]

theorem ovenReady_other (h : s.dev.tim.ref ≠ .locked) (k : s.dev.tim.ref ≠ .warmup) :
    exec (.ovenReady b) s = .next (s.onDev fun d => { d with tim := { d.tim with oven := b } }) := by
  cases r : s.dev.tim.ref <;> simp_all [exec_ovenReady, execOvenReady, devStep, State.onDev, Dev.followOven, Dev.onTim]

end
/-! Adjustments (R700 to R703). -/

section
variable {s : State} (v : BitVec 64)

/-- R703: what every change of the count leaves: one more step, event 0x203, and GO clear. -/
def Counted (s t : State) (v : BitVec 64) : Prop :=
  t = { s with dev := { s.dev with
      tim := t.dev.tim, rel := t.dev.rel, raised := s.dev.raised ++ [{ id := 0x203, time := stampOf v }] } } ∧
    t.dev.tim = { s.dev.tim with
      count := v, ppsLast := t.dev.tim.ppsLast, rem := t.dev.tim.rem, slewRate := t.dev.tim.slewRate, slewAcc := t.dev.tim.slewAcc
      unset := t.dev.tim.unset, adjVal := t.dev.tim.adjVal, adjCtl := t.dev.tim.adjCtl
      steps := BitVec.ofNat 16 (min (s.dev.tim.steps.toNat + 1) 65535) } ∧
    bit t.dev.tim.adjCtl 2 = false

theorem stepTime_counts (h : s.dev.served = true) (k : s.dev.rel.devFault = false) : ∃ t, exec (.stepTime v) s = .next t ∧
    Counted s t (s.dev.tim.count + BitVec.ofInt 64 (v.toInt / 256)) ∧ t.dev.tim.unset = s.dev.tim.unset ∧
    t.dev.tim.rem = v.toInt % 256 ∧ t.dev.tim.slewRate = 1000 := by
  refine ⟨_, startStep_served _ h k, ?_⟩
  rw [Dev.adjustWith_step, Dev.stepTime, Dev.setCount_frame]
  exact ⟨⟨rfl, rfl, Dev.adjusting_go _ 1 v⟩, rfl, rfl, rfl⟩

theorem set_counts (h : s.dev.served = true) (k : s.dev.rel.devFault = false) : ∃ t, exec (.set_ v) s = .next t ∧
    Counted s t v ∧ t.dev.tim.unset = false ∧ t.dev.tim.rem = s.dev.tim.rem := by
  refine ⟨_, startStep_served _ h k, ?_⟩
  rw [Dev.adjustWith_set, Dev.setTime, Dev.setCount_frame]
  exact ⟨⟨rfl, rfl, Dev.adjusting_go _ 3 v⟩, rfl, rfl⟩

theorem slew_takes (h : s.dev.served = true) (k : s.dev.rel.devFault = false) : ∃ t, exec (.slew v) s = .next t ∧
    t.dev.tim.count = s.dev.tim.count ∧ t.dev.tim.rem = v.toInt ∧ t.dev.tim.unset = s.dev.tim.unset ∧ t.mem = s.mem ∧
    (v ≠ 0 → t.dev.tim.slewRate = fld s.dev.tim.adjCtl 4 10 ∧ t.dev.raised = s.dev.raised) ∧
    (v = 0 → t.dev.raised = s.dev.raised ++ [{ id := 0x204, time := s.dev.stamp }]) := by
  refine ⟨_, startStep_served _ h k, ?_⟩
  rw [Dev.adjustWith_slew, Dev.slew]
  by_cases z : v = 0
  · subst z; exact ⟨rfl, rfl, rfl, rfl, fun n => absurd rfl n, fun _ => rfl⟩
  · have n : v.toInt ≠ 0 := fun e => z (BitVec.eq_of_toInt_eq e)
    rw [if_neg n]; exact ⟨rfl, rfl, rfl, rfl, fun _ => ⟨rfl, rfl⟩, fun e => absurd e z⟩

theorem slewComplete_ends (h : s.dev.tim.rem ≠ 0) : exec .slewComplete s = .next { s with dev := { s.dev with
    tim := { s.dev.tim with rem := 0, slewRate := 0, slewAcc := 0 }, raised := s.dev.raised ++ [{ id := 0x204, time := s.dev.stamp }] } } := by
  simp only [exec_slewComplete, execSlewComplete, devStep, State.onDev, if_neg h]; rfl

theorem slewComplete_idle (h : s.dev.tim.rem = 0) : exec .slewComplete s = .next s := by
  simp only [exec_slewComplete, execSlewComplete, devStep, State.onDev, if_pos h]

end

/-! Alarms (R726). -/

section
variable {s : State} {k : Fin 8}

theorem tickAlarm_waits (h : (s.dev.tim.alarm k).en = false ∨ (s.dev.tim.count - (s.dev.tim.alarm k).t).toInt < 0) :
    exec (.tickAlarm k) s = .next s := by
  have e : s.dev.fireAlarm k = s.dev := if_pos (by simpa [tickBefore, Dev.now] using h)
  simp only [exec_tickAlarm, execTickAlarm, devStep, State.onDev, e]

/-- R704, R726: the alarm after it fired. -/
def TimAlarm.fired (a : TimAlarm) (now : BitVec 64) : TimAlarm :=
  { t := a.t + a.period.zeroExtend 64, period := a.period, en := a.period != 0, late := a.late || decide (a.t ≠ now)
    fires := BitVec.ofNat 16 (min (a.fires.toNat + 1) 65535) }

theorem tickAlarm_fires (h : (s.dev.tim.alarm k).en = true) (due : ¬ (s.dev.tim.count - (s.dev.tim.alarm k).t).toInt < 0) :
    exec (.tickAlarm k) s = .next { s with dev := { s.dev with
      tim := { s.dev.tim with alarms := Tbl.set s.dev.tim.alarms k ((s.dev.tim.alarm k).fired s.dev.tim.count) }
      raised := s.dev.raised ++ [{ id := 0x208 + BitVec.ofNat 12 k.val, time := s.dev.stamp }] } } := by
  have e : s.dev.fireAlarm k = _ := if_neg (by simpa [tickBefore, Dev.now, h] using due)
  simp only [exec_tickAlarm, execTickAlarm, devStep, State.onDev, e, Dev.raise, BitVec.ofNat_add]; rfl

theorem Tim.alarm_set (x : Tim) (a : TimAlarm) (i j : Nat) :
    ({ x with alarms := Tbl.set x.alarms i a } : Tim).alarm j = if j = i then a else x.alarm j := Tbl.get_set ..

end

/-! Strobes and ring commands (R727, R728, R741). -/

section
variable (d : Dev)

/-- A strobe passes by the time base and the occurrences raised. -/
structure SameTime (d e : Dev) : Prop where
  tim : e.tim = d.tim
  raised : e.raised = d.raised

theorem SameTime.foldl {α : Type} {f : Dev → α → Dev} (h : ∀ d a, SameTime d (f d a)) (l : List α) : SameTime d (l.foldl f d) := by
  induction l generalizing d with
  | nil => exact ⟨rfl, rfl⟩
  | cons a l ih => exact ⟨(ih (f d a)).tim.trans (h d a).tim, (ih (f d a)).raised.trans (h d a).raised⟩

theorem Dev.speStrobe_sameTime (p : Nat) (T : Stamp) : SameTime d (d.speStrobe p T) := by
  unfold Dev.speStrobe; dsimp only
  split
  · exact ⟨rfl, rfl⟩
  · split
    · split <;> constructor <;> simp
    · constructor <;> simp

theorem Dev.chnStrobe_sameTime (p : Nat) (T : Stamp) : SameTime d (d.chnStrobe p T) := by
  constructor <;> simp [Dev.chnStrobe]

theorem Dev.strobe_waits (c : TimCmd) : (d.strobe c).tim.count = d.tim.count ∧ (d.strobe c).raised = d.raised ∧
    (d.strobe c).tim.atT = d.tim.atT ++ [c] := by
  have units := SameTime.foldl d (f := fun d p => (d.chnStrobe p (stampOf c.t)).speStrobe p (stampOf c.t)) (fun d p =>
    ⟨((d.chnStrobe p _).speStrobe_sameTime p _).tim.trans (d.chnStrobe_sameTime p _).tim,
      ((d.chnStrobe p _).speStrobe_sameTime p _).raised.trans (d.chnStrobe_sameTime p _).raised⟩) (List.range 4)
  unfold Dev.strobe; dsimp only
  split <;> simp [Dev.timRecord, Dev.onTim, units.tim, units.raised]

end

/-- R727: the next multiple of 64 at or after the count less 2 and the lead; the count is not about to wrap. -/
theorem syncTime_bounds (count : BitVec 64) (lead : Nat) (l : lead < 65536) (h : count.toNat + 65536 + 64 < 2 ^ 64) (k : 2 ≤ count.toNat) :
    let at_ := BitVec.ofNat 64 (((count - 2 + BitVec.ofNat 64 lead).toNat + 63) / 64 * 64)
    at_.toNat % 64 = 0 ∧ count.toNat - 2 + lead ≤ at_.toNat ∧ at_.toNat < count.toNat - 2 + lead + 64 := by
  have base : (count - 2 + BitVec.ofNat 64 lead).toNat = count.toNat - 2 + lead := by
    have two : (2 : BitVec 64) ≤ count := k
    rw [BitVec.toNat_add, BitVec.toNat_sub_of_le two, BitVec.toNat_ofNat]
    change (count.toNat - 2 + lead % 2 ^ 64) % 2 ^ 64 = _
    omega
  simp only [base, BitVec.toNat_ofNat]
  omega

section
variable {s : State}

theorem syncPinEdge_off (h : bit s.dev.tim.syncCfg 0 = false) : exec .syncPinEdge s = .next s := by
  have e : (!bit s.dev.tim.syncCfg 0) = true := by simp [h]
  simp only [exec_syncPinEdge, execSyncPinEdge, devStep, State.onDev, if_pos e]

theorem syncPinEdge_strobes (h : bit s.dev.tim.syncCfg 0 = true) : ∃ t at_, exec .syncPinEdge s = .next t ∧ t.mem = s.mem ∧
    t.dev.tim.count = s.dev.tim.count ∧ t.dev.raised = s.dev.raised ∧
    t.dev.tim.atT = s.dev.tim.atT ++ [{ t := at_, index := 0, ring := false }] ∧
    (s.dev.tim.count.toNat + 65536 + 64 < 2 ^ 64 → 2 ≤ s.dev.tim.count.toNat → at_.toNat % 64 = 0 ∧
      s.dev.tim.count.toNat - 2 + fld s.dev.tim.syncCfg 16 16 ≤ at_.toNat ∧
      at_.toNat < s.dev.tim.count.toNat - 2 + fld s.dev.tim.syncCfg 16 16 + 64) := by
  let at_ := BitVec.ofNat 64 (((s.dev.tim.count - 2 + BitVec.ofNat 64 (fld s.dev.tim.syncCfg 16 16)).toNat + 63) / 64 * 64)
  have e : exec .syncPinEdge s = .next (s.onDev fun d => d.strobe { t := at_, index := 0, ring := false }) := by
    simp only [exec_syncPinEdge, execSyncPinEdge, devStep, State.onDev, h]; rfl
  obtain ⟨count, raised, atT⟩ := s.dev.strobe_waits { t := at_, index := 0, ring := false }
  exact ⟨_, at_, e, rfl, count, raised, atT, syncTime_bounds _ _ (Nat.mod_lt _ (by decide))⟩

/-- R741: nothing is due. -/
theorem ringCommandAtT_waits (h : ∀ c ∈ s.dev.tim.atT, (s.dev.tim.count - c.t).toInt < 0) : exec .ringCommandAtT s = .next s := by
  have due : s.dev.tim.atT.filter (fun c => !tickBefore s.dev.now c.t) = [] :=
    List.filter_eq_nil_iff.2 fun c m => by simpa [tickBefore, Dev.now] using h c m
  have keep : s.dev.tim.atT.filter (fun c => !!tickBefore s.dev.now c.t) = s.dev.tim.atT :=
    List.filter_eq_self.2 fun c m => by simpa [tickBefore, Dev.now] using h c m
  simp only [exec_ringCommandAtT, execRingCommandAtT, devStep, State.onDev, Dev.fireDue, Dev.fireWhere, due, Dev.onTim, keep, List.foldl_nil]

/-- R741: the one strobe or command that waits is due. -/
theorem ringCommandAtT_fires {c : TimCmd} (h : s.dev.tim.atT = [c]) (due : ¬ (s.dev.tim.count - c.t).toInt < 0) :
    exec .ringCommandAtT s = .next (s.onDev fun d => (d.onTim fun t => { t with atT := [] }).atCmd c) := by
  have late : tickBefore s.dev.now c.t = false := decide_eq_false due
  simp only [exec_ringCommandAtT, execRingCommandAtT, devStep, State.onDev, Dev.fireDue, Dev.fireWhere, h, Dev.onTim, List.filter, late,
    Bool.not_false, Bool.not_true, List.foldl_cons, List.foldl_nil]

section
variable (d : Dev) (c : TimCmd)

/-- The event that a strobe or command raises at its time. -/
def Dev.cmdRaised : Dev := { d with raised := d.raised ++ [{ id := 0x600 + c.index.zeroExtend 12, time := d.stamp }] }

theorem Dev.raise_cmd : d.raise (0x600 + c.index.toNat) d.stamp = d.cmdRaised c := by
  have e : BitVec.ofNat 12 (0x600 + c.index.toNat) = 0x600 + c.index.zeroExtend 12 := by
    rw [BitVec.ofNat_add, BitVec.ofNat_toNat]; rfl
  rw [Dev.raise, e]; rfl

theorem Dev.atCmd_pin (h : c.ring = false) : d.atCmd c = d.cmdRaised c := by
  rw [Dev.atCmd, Dev.raise_cmd, h]; rfl

theorem Dev.atCmd_ring (h : c.ring = true) (k : c.index ≠ 1) : d.atCmd c =
    (d.cmdRaised c).onTim fun t => { t with ring := { t.ring with arg := c.arg } } := by
  simp only [Dev.atCmd, Dev.raise_cmd, h, if_neg k]; rfl

/-- R741: ALIGN steps the count by the offset to the master and ends UNSET. -/
theorem Dev.atCmd_align (h : c.ring = true) (k : c.index = 1) : (d.atCmd c).tim.unset = false ∧
    (d.atCmd c).tim.count = d.tim.count + BitVec.ofInt 64 (-d.tim.ring.off.toInt / 256) ∧
    (d.atCmd c).tim.rem = -d.tim.ring.off.toInt % 256 := by
  simp only [Dev.atCmd, Dev.raise_cmd, h, if_pos k, Dev.stepTime]
  rw [Dev.setCount_frame]
  exact ⟨rfl, rfl, rfl⟩

end

/-! PPS (R723, R724). -/

theorem ppsMissing_ignored (h : s.dev.tim.ppsLast = none ∨ fld s.dev.tim.ppsCfg 0 2 = 0) : exec .ppsMissing s = .next s := by
  have e : s.dev.tim.ppsLast.isNone ∨ s.dev.tim.ppsMode = 0 := by simpa [Tim.ppsMode] using h
  simp only [exec_ppsMissing, execPpsMissing, devStep, State.onDev, if_pos e]

theorem ppsMissing_counts (h : s.dev.tim.ppsLast ≠ none) (k : fld s.dev.tim.ppsCfg 0 2 ≠ 0) : exec .ppsMissing s =
    .next { s with dev := { s.dev with
      tim := { s.dev.tim with ppsLast := none, ppsMissing := true, ppsMissed := BitVec.ofNat 16 (min (s.dev.tim.ppsMissed.toNat + 1) 65535) }
      raised := s.dev.raised ++ [{ id := 0x201, time := s.dev.stamp }] } } := by
  have e : ¬ (s.dev.tim.ppsLast.isNone ∨ s.dev.tim.ppsMode = 0) := by simpa [Tim.ppsMode] using ⟨h, k⟩
  simp only [exec_ppsMissing, execPpsMissing, devStep, State.onDev, if_neg e]; rfl

theorem mode_writes (h : s.dev.served = true) {m : BitVec 2} (n : m ≠ 3) : exec (.mode m) s = .next { s with dev := { s.dev with
    tim := { s.dev.tim with ppsCfg := setFld s.dev.tim.ppsCfg 0 2 m.toNat, ppsLast := none } } } := by
  have e : ¬ m.toNat = 3 := fun e => n (BitVec.eq_of_toNat_eq e)
  rw [exec_mode, execMode, hostStep_served _ h, Dev.ppsSetMode, if_neg e]; rfl

/-- R38: MODE 3 is rejected with one NOTE. -/
theorem mode_reserved (h : s.dev.served = true) (room : s.dev.rel.queue.length < 64) : ∃ t, exec (.mode 3) s = .next t ∧
    t = { s with dev := { s.dev with rel := t.dev.rel } } ∧ OneRecord s t .cfgRange 0 domDevice := by
  let r : Report := { code := .cfgRange, sev := 0, domain := domDevice, src := BitVec.ofNat 8 timUnit }
  have e : exec (.mode 3) s = .next (s.onDev fun d => d.log r) := by rw [exec_mode, execMode, hostStep_served _ h]; rfl
  refine ⟨_, e, ?_, .of_log (r := r) room rfl rfl rfl (by decide)⟩
  rw [State.onDev, Dev.log_quiet _ r (by decide)]

end

/-- Settles O44, by the equation of each command of the time base in each of its cases. -/
theorem theTimeBaseFollowsReferenceAndAdjustment : Obligations.theTimeBaseFollowsReferenceAndAdjustment := by
  refine ⟨fun s => ⟨fun b o => ⟨refinValid_free, refinValid_holdover, refinValid_other⟩, pllLocked_locks, pllLocked_other,
      fun h => refinLoss_of (refinLoss_acquire h) (by simp [h]),
      fun h => refinLoss_of (refinLoss_locked h) (by rcases h with h | h | h <;> simp [h]), refinLoss_other, ovenReady_low, ovenReady_high,
      fun b => ovenReady_other⟩,
    fun s => ⟨fun h k v => ⟨stepTime_counts v h k, set_counts v h k, slew_takes v h k⟩, slewComplete_ends, slewComplete_idle⟩,
    fun s => ⟨fun k => ⟨tickAlarm_waits, fun h due => ⟨_, tickAlarm_fires h due, rfl, ?_, fun j n => ?_⟩⟩, syncPinEdge_off,
      syncPinEdge_strobes, ringCommandAtT_waits, fun c h due p => ?_, fun c h due r n => ?_, fun c h due r n => ?_⟩,
    fun s => ⟨ppsMissing_ignored, fun h k => ppsMissing_counts h k, fun h => ⟨fun m n => ⟨_, mode_writes h n, rfl, ?_, ?_⟩, mode_reserved h⟩⟩⟩
  · exact (Tim.alarm_set ..).trans (if_pos rfl)
  · exact (Tim.alarm_set ..).trans (if_neg n)
  · rw [ringCommandAtT_fires h due]; simp only [Dev.atCmd_pin _ c p]; rfl
  · rw [ringCommandAtT_fires h due]; simp only [Dev.atCmd_ring _ c r n]; rfl
  · exact ⟨_, ringCommandAtT_fires h due, rfl, Dev.atCmd_align _ c r n⟩
  · exact (fld_setFld_same _ 0 2 _ (by decide)).trans (Nat.mod_eq_of_lt m.isLt)
  · exact fld_setFld_other _ 0 2 _ 2 14 (by decide) (by decide)

end Sys2Proof.Machine
end

section
namespace Sys2Proof.Machine

/-! Bundles that issue: the rules, the waits and the commit of a bundle whose slots all ran (R536 to R546, R616 to R618). -/

section
variable {α : Type}

theorem dedup_of_nodup [DecidableEq α] : ∀ {l : List α}, l.Nodup → dedup l = l
  | [], _ => rfl
  | x :: t, h => by
    obtain ⟨n, k⟩ := List.nodup_cons.1 h
    rw [dedup, dedup_of_nodup k, List.filter_eq_self.2 fun y m => by simpa using fun e : y = x => n (e ▸ m)]

theorem Tbl.mem_of_find {t : Tbl α} {k : Nat} {v : α} (h : Tbl.find? t k = some v) : (k, v) ∈ t := by
  induction t with
  | nil => simp [Tbl.find?] at h
  | cons p t ih =>
    obtain ⟨a, w⟩ := p
    simp only [Tbl.find?] at h
    split at h
    · rename_i e; subst e; cases h; exact List.mem_cons_self ..
    · exact List.mem_cons_of_mem _ (ih h)

theorem Tbl.mem_set {t : Tbl α} {k : Nat} {v : α} {p : Nat × α} (h : p ∈ Tbl.set t k v) : p = (k, v) ∨ p ∈ t := by
  induction t with
  | nil => simpa [Tbl.set] using h
  | cons q t ih =>
    obtain ⟨a, w⟩ := q
    simp only [Tbl.set] at h
    split at h
    · simpa using h
    · split at h
      · rcases List.mem_cons.1 h with h | h <;> simp [h]
      · rcases List.mem_cons.1 h with h | h
        · simp [h]
        · rcases ih h with h | h <;> simp [h]

@[simp] theorem Tbl.find_set_self (t : Tbl α) (k : Nat) (v : α) : Tbl.find? (Tbl.set t k v) k = some v := by
  rw [Tbl.find_set, if_pos rfl]

theorem Tbl.find_set_ne {t : Tbl α} {k j : Nat} {v : α} (h : j ≠ k) : Tbl.find? (Tbl.set t k v) j = Tbl.find? t j := by
  rw [Tbl.find_set, if_neg h]

end

/-! Output queues that hold nothing. -/

/-- No output queue of a listed copy waits for delivery. -/
def QuietQueues (l : Tbl Inst) : Prop := ∀ p ∈ l, ∀ n, (p.2.outq n).cells = []

theorem Dev.pumpOq_quiet {d : Dev} {key n : Nat} (h : ∀ i, Tbl.find? d.insts key = some i → (i.outq n).cells = []) :
    d.pumpOq key n = d := by
  unfold Dev.pumpOq
  split
  · rfl
  · rename_i i k
    simp only [h i k, List.isEmpty_nil, if_true]

theorem Dev.pump_quiet {d : Dev} (h : QuietQueues d.insts) : d.pump = d := by
  have q : ∀ k n, d.pumpOq k n = d := fun k n => Dev.pumpOq_quiet fun i e => h _ (Tbl.mem_of_find e) n
  unfold Dev.pump
  generalize d.insts.map (·.1) = l
  induction l with
  | nil => rfl
  | cons k l ih => simpa only [List.foldl_cons, q] using ih

theorem QuietQueues.set {l : Tbl Inst} (h : QuietQueues l) (k : Nat) {j : Inst} (q : ∀ n, (j.outq n).cells = []) :
    QuietQueues (Tbl.set l k j) := fun p m => by
  rcases Tbl.mem_set m with rfl | m
  · exact q
  · exact h p m

/-! Commit. -/

/-- A copy after its bundle: the registers of R535 to R546, and no bundle under way. -/
def Inst.closed (i : Inst) (e : Issue) (stall : Nat) : Inst :=
  { i with regs := e.regsAfter i.regs (e.snap.pc + 1) stall, issue := none, waiting := false }

/-- A bundle that ends no level goes on with the next one (R543). -/
theorem loopEnd_inside {pc : Nat} {r : Regs} {l : List Level} (h : ∀ x, l.getLast? = some x → x.last ≠ pc) :
    loopEnd pc r l.reverse = { r with levels := l, pc := pc + 1 } := by
  cases e : l.reverse with
  | nil => rw [List.reverse_eq_nil_iff.1 e]; rfl
  | cons x t =>
    have top : l.getLast? = some x := by rw [← List.head?_reverse, e]; rfl
    have back : l = (x :: t).reverse := by rw [← e, List.reverse_reverse]
    rw [loopEnd, if_pos (h x top), back]

/-- A bundle that nothing forbids or holds back commits. -/
theorem Work.close_commits {w : Work} {k : Nat} (clean : w.iss.clean = true)
    (plain : w.iss.target = none ∧ w.iss.opened = none ∧ w.iss.skipTo = none ∧ w.iss.staged = [])
    (inside : ∀ l, w.iss.snap.levels.getLast? = some l → l.last ≠ w.iss.snap.pc)
    (room : w.iss.snap.pc + 1 < w.prog.codeBundles) (going : bit (w.st.dev.spu k).dbgCtl 0 = false) :
    w.close k = w.st.onDev fun d => ((d.freed.setInst w.key (w.inst.closed w.iss w.st.stall)).countIssue k).pump := by
  simp only [Issue.clean, Bool.and_eq_true, Bool.not_eq_true', Option.isNone_iff_eq_none] at clean
  obtain ⟨⟨⟨⟨legal, transfer⟩, stalled⟩, trap⟩, exit⟩ := clean
  obtain ⟨target, opened, skip, staged⟩ := plain
  have next : ∀ r, w.iss.next r = { r with levels := w.iss.snap.levels, pc := w.iss.snap.pc + 1 } := fun r => by
    simp only [Issue.next, target, opened, skip, loopEnd_inside inside]
  have goes : ∀ d : Dev, (d.spu k).dbgCtl = (w.st.dev.spu k).dbgCtl → d.haltAt w.key k = d := fun d e => by
    simp only [Dev.haltAt, e, going]; rfl
  have issued : ∀ i, ((w.st.dev.freed.setInst w.key i).countIssue k).haltAt w.key k = (w.st.dev.freed.setInst w.key i).countIssue k :=
    fun i => goes _ (by simp [Dev.countIssue, Dev.onSpu, Dev.spu])
  simp only [Work.close, legal, transfer, stalled, trap, exit, Work.commit, staged, target, next, State.onDev, issued, List.foldl_nil,
    Option.isSome_none, Bool.false_eq_true, false_and, or_self, if_false, Bool.false_and, Nat.not_le.mpr room, Nat.add_zero]
  rfl

/-! A slot that closes its bundle. -/

theorem Issue.joined_clean {e : Issue} {p : Plan} (clean : e.clean = true) (legal : p.legal = true) (exit : p.isExit = false)
    (transfer : p.transfer = false) (fresh : ∀ x ∈ p.writes, x ∉ e.written) (once : p.writes.Nodup) : (e.joined p).clean = true := by
  simp only [Issue.clean, Bool.and_eq_true, Bool.not_eq_true', Option.isNone_iff_eq_none] at clean ⊢
  obtain ⟨⟨⟨⟨illegal, bad⟩, stalled⟩, trap⟩, quits⟩ := clean
  have seen : p.writes.any e.written.contains = false := by simpa using fresh
  simp [Issue.joined, illegal, bad, stalled, trap, quits, legal, exit, transfer, seen, dedup_of_nodup once]

/-- A slot that runs in a bundle that nothing forbids. -/
theorem Work.runPlan_on {w w' : Work} {h : Slot} {p : Plan} (clean : w.iss.clean = true)
    (on : (if p.lanes then w.src.guard h != 0 else bit (w.src.guard h) 0) = true) (ready : p.ready (w.src.guard h) w = .ok true)
    (run : p.run (w.src.guard h) w = .ok w') : w.runPlan h p = w' := by
  simp only [Issue.clean, Bool.and_eq_true, Bool.not_eq_true', Option.isNone_iff_eq_none] at clean
  obtain ⟨⟨⟨⟨illegal, bad⟩, stalled⟩, trap⟩, quits⟩ := clean
  simp only [Work.runPlan, on, ready, run, illegal, bad, stalled, trap, quits, Bool.not_true, Bool.false_eq_true, if_false, false_and,
    or_self, Option.isSome_none]

/-- A plan of the L slot that a bundle may hold: what the bundle rules ask of it (R583, R584, R616). -/
structure Plan.Fits (p : Plan) (e : Issue) : Prop where
  slot : p.slot = 3
  legal : p.legal = true
  plain : p.isExit = false ∧ p.transfer = false
  fresh : ∀ x ∈ p.writes, x ∉ e.written
  once : p.writes.Nodup

variable {s : State} {h : Slot} {key : Nat} {i : Inst} {e : Issue} {p : Plan}

/-- The bundle as its last slot finds it. -/
def workOf (s : State) (key : Nat) (i : Inst) (e : Issue) : Work := { st := s, key, inst := i, iss := e }

/-- The last slot of a bundle, up to the delivery of output queues: it changed memories, the copy and FLAGS bits. -/
theorem State.slot_commits {m : Mem} {j : Inst} {sets : BitVec 6} (turn : SlotTurn s h 3 key i e) (cl : Closes s h i e) (fits : p.Fits e)
    (ran : (workOf s key i (e.joined p)).runPlan h p = workOf (s.onMem fun _ => m) key j { e.joined p with sets })
    (same : j.session = i.session ∧ j.prog = i.prog) :
    s.slot h p = (s.onMem fun _ => m).onDev fun d =>
      ((d.freed.setInst key (j.closed { e with sets } s.stall)).countIssue h.spu.val).pump := by
  obtain ⟨plain, ⟨g, hg, room⟩, inside, going, -⟩ := cl
  obtain ⟨session, prog⟩ := same
  have clean := Issue.joined_clean turn.clean fits.legal fits.plain.1 fits.plain.2 fits.fresh fits.once
  let w := workOf (s.onMem fun _ => m) key j { e.joined p with sets }
  have room' : e.snap.pc + 1 < w.prog.codeBundles := by
    have found : w.prog = g := by
      simp only [w, Work.prog, workOf, session, prog, State.onMem_dev, hg, Option.getD_some]
    rwa [found]
  have closes : w.close h.spu.val = _ := Work.close_commits (w := w) clean plain inside room' going
  rw [State.slot_turn (fits.slot ▸ turn)]
  exact (if_pos (.inr fits.slot)).trans ((congrArg (Work.close · h.spu.val) ran).trans closes)

/-- The same where the copy's output queues are as before: nothing is delivered. -/
theorem State.slot_closes {m : Mem} {j : Inst} {sets : BitVec 6} (turn : SlotTurn s h 3 key i e) (cl : Closes s h i e) (fits : p.Fits e)
    (ran : (workOf s key i (e.joined p)).runPlan h p = workOf (s.onMem fun _ => m) key j { e.joined p with sets })
    (same : j.session = i.session ∧ j.prog = i.prog) (oq : j.oq = i.oq) :
    s.slot h p = (s.onMem fun _ => m).issued h key (j.closed { e with sets } s.stall) := by
  rw [State.slot_commits turn cl fits ran same, State.issued]
  have quiet : QuietQueues ((s.dev.freed.setInst key (j.closed { e with sets } s.stall)).countIssue h.spu.val).insts :=
    QuietQueues.set cl.quiet key fun n => by
      have := cl.quiet _ (Tbl.mem_of_find turn.copy) n
      simpa [Inst.outq, Inst.closed, oq] using this
  simp only [State.onDev, State.onMem, Dev.pump_quiet quiet]

end Sys2Proof.Machine
end

section
namespace Sys2Proof.Machine

/-! Runs of writes: what a place reads after cells were written to a list of places. -/

section
variable {σ : Type} {put : σ → Nat → Cell → σ} {get : σ → Nat → Cell}

/-- A memory whose reads follow its writes (R19). -/
def ReadsBack (put : σ → Nat → Cell → σ) (get : σ → Nat → Cell) : Prop :=
  ∀ m a c j, get (put m a c) j = if j = a then c.stored else get m j

theorem ReadsBack.other (law : ReadsBack put get) {a : Nat} : ∀ (l : List (Nat × Cell)) (m : σ), (∀ p ∈ l, p.1 ≠ a) →
    get (l.foldl (fun m p => put m p.1 p.2) m) a = get m a
  | [], _, _ => rfl
  | p :: l, m, h => by
    rw [List.foldl_cons, ReadsBack.other law l _ fun q k => h q (List.mem_cons_of_mem _ k), law,
      if_neg (h p (List.mem_cons_self ..)).symm]

theorem ReadsBack.written (law : ReadsBack put get) {a : Nat} {c : Cell} : ∀ (l : List (Nat × Cell)) (m : σ),
    (∀ p ∈ l, p.1 = a → p.2 = c) → (∃ p ∈ l, p.1 = a) → get (l.foldl (fun m p => put m p.1 p.2) m) a = c.stored
  | [], _, _, h => by obtain ⟨p, k, -⟩ := h; cases k
  | p :: l, m, same, h => by
    rw [List.foldl_cons]
    by_cases later : ∃ q ∈ l, q.1 = a
    · exact ReadsBack.written law l _ (fun q k => same q (List.mem_cons_of_mem _ k)) later
    · obtain ⟨q, k, e⟩ := h
      have first : q = p := (List.mem_cons.1 k).resolve_right fun k => later ⟨q, k, e⟩
      subst first
      rw [ReadsBack.other law l _ fun r k e => later ⟨r, k, e⟩, law, if_pos e.symm, same q (List.mem_cons_self ..) e]

end

theorem Mem.loftPut_readsBack : ReadsBack Mem.loftPut Mem.loftGet := fun m a c j => m.loftGet_put a j c

theorem Tbl.set_readsBack : ReadsBack (fun (t : Tbl Cell) a c => Tbl.set t a c.stored) (Tbl.get {}) := fun t a c j => Tbl.get_set {} t a j c.stored

/-- Cells written to a list of Loft addresses. -/
def Mem.loftPutAll (m : Mem) (l : List (Nat × Cell)) : Mem := l.foldl (fun m p => m.loftPut p.1 p.2) m

/-- Writes of the Loft change the Loft and its error bits alone. -/
theorem Mem.loftPutAll_frame (l : List (Nat × Cell)) : ∀ m : Mem, m.loftPutAll l =
    { m with loft := (m.loftPutAll l).loft, loftErr := (m.loftPutAll l).loftErr } := by
  induction l with
  | nil => exact fun _ => rfl
  | cons p l ih => exact fun m => ih (m.loftPut p.1 p.2)

/-- Cells written to a list of places of the copy's local memory. -/
def Inst.locPutAll (i : Inst) (l : List (Nat × Cell)) : Inst :=
  l.foldl (fun i p => { i with loc := Tbl.set i.loc p.1 p.2.stored, locErr := Tbl.erase i.locErr p.1 }) i

theorem Inst.locPutAll_loc (l : List (Nat × Cell)) : ∀ i : Inst,
    (i.locPutAll l).loc = l.foldl (fun t p => Tbl.set t p.1 p.2.stored) i.loc := by
  induction l with
  | nil => exact fun _ => rfl
  | cons p l ih => exact fun i => ih _

theorem Inst.locPutAll_frame (l : List (Nat × Cell)) : ∀ i : Inst, i.locPutAll l =
    { i with loc := (i.locPutAll l).loc, locErr := (i.locPutAll l).locErr } := by
  induction l with
  | nil => exact fun _ => rfl
  | cons p l ih => exact fun i => ih _

section
variable (l : List (Nat × Cell)) (i : Inst)

@[simp] theorem Inst.locPutAll_session : (i.locPutAll l).session = i.session := by rw [locPutAll_frame]
@[simp] theorem Inst.locPutAll_prog : (i.locPutAll l).prog = i.prog := by rw [locPutAll_frame]
@[simp] theorem Inst.locPutAll_regs : (i.locPutAll l).regs = i.regs := by rw [locPutAll_frame]
@[simp] theorem Inst.locPutAll_oq : (i.locPutAll l).oq = i.oq := by rw [locPutAll_frame]

end

/-! The Loft window (R526). -/

/-- Distinct addresses of the window name distinct cells. -/
theorem windowCell_inj {lwin : BitVec 10} {a b : Nat} (ha : 0x800000 ≤ a) (hb : 0x800000 ≤ b) (ka : a < 0x1000000) (kb : b < 0x1000000)
    (h : windowCell lwin a = windowCell lwin b) : a = b := by
  simp only [windowCell] at h
  have := lwin.isLt
  omega

/-! Writes of one slot. -/

theorem mapM_ok {ε α β : Type} {f : α → Except ε β} : ∀ {l : List α}, (∀ a ∈ l, ∃ b, f a = .ok b) → ∃ bs, l.mapM f = .ok bs
  | [], _ => ⟨[], rfl⟩
  | a :: l, h => by
    obtain ⟨b, hb⟩ := h a (List.mem_cons_self ..)
    obtain ⟨bs, hbs⟩ := mapM_ok fun a k => h a (List.mem_cons_of_mem _ k)
    exact ⟨b :: bs, by rw [List.mapM_cons, hb, hbs]; rfl⟩

section
variable {w : Work}

/-- One address of the window that the copy's session owns. -/
def Work.ownsCell (w : Work) (a : Nat) : Prop :=
  0x800000 ≤ a ∧ w.st.dev.ownsPage w.inst.session (windowCell w.src.lwin a / 16384) = true

theorem Work.place_window {a : Nat} (h : w.ownsCell a) : w.place a = .ok (.loft (windowCell w.src.lwin a)) := by
  obtain ⟨lo, own⟩ := h
  simp only [Work.place, if_neg (show ¬ a < 0x20000 by omega), if_neg (show ¬ a < 0x800000 by omega), own, if_true]

theorem Work.place_local {a : Nat} (h : a < 0x20000) : w.place a = .ok (.loc a) := if_pos h

theorem Work.writeCell_window {a : Nat} (h : w.ownsCell a) (c : Cell) :
    w.writeCell a c = .ok { w with st := w.st.onMem fun m => m.loftPut (windowCell w.src.lwin a) c } := by
  rw [Work.writeCell, Work.place_window h]; rfl

theorem Work.writeCell_local {a : Nat} (h : a < 0x20000) (c : Cell) :
    w.writeCell a c = .ok { w with inst := w.inst.locPutAll [(a, c)] } := by
  rw [Work.writeCell, Work.place_local h]; rfl

theorem Work.writeAll_ok {l : List (Nat × Cell)} (h : ∀ p ∈ l, ∃ x, w.place p.1 = .ok x) :
    w.writeAll l = l.foldlM (fun w p => w.writeCell p.1 p.2) w := by
  obtain ⟨bs, e⟩ := mapM_ok (f := fun p : Nat × Cell => w.place p.1) h
  unfold Work.writeAll
  have e' : (l.mapM fun x => match x with | (a, _) => w.place a) = .ok bs := e
  rw [e']; rfl

/-- A run of writes into the window, all of it owned. -/
theorem Work.writeAll_window (l : List (Nat × Cell)) (h : ∀ p ∈ l, w.ownsCell p.1) : w.writeAll l =
    .ok { w with st := w.st.onMem fun m => m.loftPutAll (l.map fun p => (windowCell w.src.lwin p.1, p.2)) } := by
  rw [Work.writeAll_ok fun p k => ⟨_, Work.place_window (h p k)⟩]
  induction l generalizing w with
  | nil => rfl
  | cons p l ih =>
    rw [List.foldlM_cons, Work.writeCell_window (h p (List.mem_cons_self ..))]
    exact ih (w := { w with st := w.st.onMem _ }) fun q k => h q (List.mem_cons_of_mem _ k)

/-- A run of writes into local memory. -/
theorem Work.writeAll_local (l : List (Nat × Cell)) (h : ∀ p ∈ l, p.1 < 0x20000) :
    w.writeAll l = .ok { w with inst := w.inst.locPutAll l } := by
  rw [Work.writeAll_ok fun p k => ⟨_, Work.place_local (h p k)⟩]
  induction l generalizing w with
  | nil => rfl
  | cons p l ih =>
    rw [List.foldlM_cons, Work.writeCell_local (h p (List.mem_cons_self ..))]
    exact ih (w := { w with inst := _ }) fun q k => h q (List.mem_cons_of_mem _ k)

/-- A single write is a run of one. -/
theorem Work.writeAll_one (a : Nat) (c : Cell) : w.writeAll [(a, c)] = w.writeCell a c := by
  simp only [Work.writeAll, Work.writeCell, List.mapM_cons, List.mapM_nil, List.foldlM_cons, List.foldlM_nil]
  cases w.place a with
  | error t => rfl
  | ok x => cases x <;> rfl

theorem Work.checkRun_window {a n : Nat} {write : Bool} (lo : 0x800000 ≤ a) (hi : a + n ≤ 0x1000000) : w.checkRun a n write = .ok () := by
  rw [Work.checkRun, if_neg (by omega), if_neg (by omega), if_neg (by omega), if_pos hi]

end

/-! Stores (R608 to R610). -/

/-- A list of cells at offsets of a run spells what a store writes at each offset of `n`. -/
structure Spells (l : List (Nat × Cell)) (n : Nat) (cells : Nat → Option Cell) : Prop where
  sound : ∀ p ∈ l, p.1 < n ∧ cells p.1 = some p.2
  complete : ∀ k c, k < n → cells k = some c → (k, c) ∈ l

/-- A plan that stores: it checks a run of `n` cells, writes the cells of a list at their offsets, and post-modifies. -/
structure Plan.Stores (p : Plan) (h : Slot) (ad : AddrOp) (e : Issue) (n : Nat) (l : List (Nat × Cell)) : Prop where
  slot : p.slot = 3
  legal : p.legal = true
  plain : p.isExit = false ∧ p.transfer = false
  writes : p.writes = addrWrites ad
  on : (if p.lanes then e.snap.guard h != 0 else bit (e.snap.guard h) 0) = true
  ready : ∀ w, p.ready (e.snap.guard h) w = .ok true
  run : ∀ w : Work, w.src = e.snap → p.run (e.snap.guard h) w = (do
    w.checkRun (addrBase ad e.snap) n true
    return addrPost ad (← w.writeAll (l.map fun q => (addrBase ad e.snap + q.1, q.2))))

section
variable {s : State} {h : Slot} {key : Nat} {i : Inst} {e : Issue} {ad : AddrOp} {p : Plan} {n : Nat} {l : List (Nat × Cell)}
  {cells : Nat → Option Cell}

theorem Plan.Stores.fits (st : p.Stores h ad e n l) (fresh : ad.pm ≠ 0 → RName.a ad.a.toNat ∉ e.written) : p.Fits e where
  slot := st.slot
  legal := st.legal
  plain := st.plain
  fresh := by
    rw [st.writes, addrWrites]
    split
    · simp
    · rename_i pm; simpa using fresh pm
  once := by rw [st.writes, addrWrites]; split <;> simp

/-- The registers after the post-modify of an access (R541). -/
def postRegs (ad : AddrOp) (e : Issue) (r : Regs) : Regs := if ad.pm = 0 then r else r.sa ad.a.toNat (addrModified ad e.snap)

theorem addrPost_eq {m : Mem} {j : Inst} : addrPost ad (workOf (s.onMem fun _ => m) key j e) =
    workOf (s.onMem fun _ => m) key { j with regs := postRegs ad e j.regs } e := by
  unfold addrPost postRegs
  split <;> rfl

/-- A store into owned cells of the window ends its bundle. -/
theorem Plan.Stores.window (st : p.Stores h ad e n l) (sp : Spells l n cells) (turn : SlotTurn s h 3 key i e) (cl : Closes s h i e)
    (fresh : ad.pm ≠ 0 → RName.a ad.a.toNat ∉ e.written) (lo : 0x800000 ≤ addrBase ad e.snap) (hi : addrBase ad e.snap + n ≤ 0x1000000)
    (own : ∀ k, k < n → WindowOwned s i e (addrBase ad e.snap + k)) :
    s.slot h p = (s.onMem fun m => m.loftPutAll (l.map fun q => (windowCell e.snap.lwin (addrBase ad e.snap + q.1), q.2))).issued h key
      { i with regs := e.regsAfter (postRegs ad e i.regs) (e.snap.pc + 1) s.stall, issue := none, waiting := false } := by
  have fits := st.fits fresh
  have clean := Issue.joined_clean turn.clean fits.legal fits.plain.1 fits.plain.2 fits.fresh fits.once
  have owned : ∀ q ∈ l.map fun q => (addrBase ad e.snap + q.1, q.2), (workOf s key i (e.joined p)).ownsCell q.1 := fun q k => by
    obtain ⟨r, hr, rfl⟩ := List.mem_map.1 k
    exact ⟨by simp; omega, own _ (sp.sound r hr).1⟩
  refine (State.slot_closes (sets := e.sets) (j := { i with regs := postRegs ad e i.regs }) turn cl fits
    (Work.runPlan_on clean st.on (st.ready _) ?_) ⟨rfl, rfl⟩ rfl)
  rw [show (workOf s key i (e.joined p)).src.guard h = e.snap.guard h from rfl, st.run _ rfl, Work.checkRun_window lo hi,
    Work.writeAll_window _ owned]
  simp only [List.map_map]
  exact congrArg Except.ok addrPost_eq

/-- A store into local memory ends its bundle. -/
theorem Plan.Stores.local (st : p.Stores h ad e n l) (sp : Spells l n cells) (turn : SlotTurn s h 3 key i e) (cl : Closes s h i e)
    (fresh : ad.pm ≠ 0 → RName.a ad.a.toNat ∉ e.written) (hi : addrBase ad e.snap + n ≤ 0x20000)
    (allowed : RunAllowed s i e key (addrBase ad e.snap) n true) :
    s.slot h p = s.issued h key { i.locPutAll (l.map fun q => (addrBase ad e.snap + q.1, q.2)) with
      regs := e.regsAfter (postRegs ad e i.regs) (e.snap.pc + 1) s.stall, issue := none, waiting := false } := by
  have fits := st.fits fresh
  have clean := Issue.joined_clean turn.clean fits.legal fits.plain.1 fits.plain.2 fits.fresh fits.once
  have inside : ∀ q ∈ l.map fun q => (addrBase ad e.snap + q.1, q.2), q.1 < 0x20000 := fun q k => by
    obtain ⟨r, hr, rfl⟩ := List.mem_map.1 k
    have := (sp.sound r hr).1
    dsimp only; omega
  let j : Inst := { i.locPutAll (l.map fun q => (addrBase ad e.snap + q.1, q.2)) with regs := postRegs ad e i.regs }
  have runs : p.run (e.snap.guard h) (workOf s key i (e.joined p)) = .ok (workOf (s.onMem fun _ => s.mem) key j (e.joined p)) := by
    rw [st.run _ rfl, show (workOf s key i (e.joined p)).checkRun _ n true = .ok () from allowed, Work.writeAll_local _ inside]
    refine congrArg Except.ok ((addrPost_eq (s := s) (m := s.mem)).trans ?_)
    rw [show (workOf s key i (e.joined p)).inst = i from rfl, i.locPutAll_regs]
    rfl
  have closes := State.slot_closes (m := s.mem) (sets := e.sets) turn cl fits (Work.runPlan_on clean st.on (st.ready _) runs)
    ⟨i.locPutAll_session _, i.locPutAll_prog _⟩ (i.locPutAll_oq _)
  exact closes

theorem Spells.window_reads (sp : Spells l n cells) {b : Nat} {lwin : BitVec 10} (lo : 0x800000 ≤ b) (hi : b + n ≤ 0x1000000) {m : Mem} :
    let m' := m.loftPutAll (l.map fun q => (windowCell lwin (b + q.1), q.2))
    (∀ k c, k < n → cells k = some c → m'.loftGet (windowCell lwin (b + k)) = c.stored) ∧
    ∀ a, (∀ k, k < n → cells k ≠ none → a ≠ windowCell lwin (b + k)) → m'.loftGet a = m.loftGet a := by
  refine ⟨fun k c hk hc => Mem.loftPut_readsBack.written _ _ (fun q m e => ?_) ?_, fun a h => Mem.loftPut_readsBack.other _ _ fun q m => ?_⟩
  · obtain ⟨r, hr, rfl⟩ := List.mem_map.1 m
    obtain ⟨lt, spelt⟩ := sp.sound r hr
    have same := windowCell_inj (by omega) (by omega) (by omega) (by omega) e
    obtain rfl : r.1 = k := by omega
    exact Option.some.inj (spelt.symm.trans hc)
  · exact ⟨_, List.mem_map_of_mem (sp.complete k c hk hc), rfl⟩
  · obtain ⟨r, hr, rfl⟩ := List.mem_map.1 m
    obtain ⟨lt, spelt⟩ := sp.sound r hr
    exact (h r.1 lt (by simp [spelt])).symm

theorem Spells.local_reads (sp : Spells l n cells) {b : Nat} :
    let j := i.locPutAll (l.map fun q => (b + q.1, q.2))
    (∀ k c, k < n → cells k = some c → Tbl.get {} j.loc (b + k) = c.stored) ∧
    ∀ a, (∀ k, k < n → cells k ≠ none → a ≠ b + k) → Tbl.get {} j.loc a = Tbl.get {} i.loc a := by
  simp only [Inst.locPutAll_loc]
  refine ⟨fun k c hk hc => Tbl.set_readsBack.written _ _ (fun q m e => ?_) ?_, fun a h => Tbl.set_readsBack.other _ _ fun q m => ?_⟩
  · obtain ⟨r, hr, rfl⟩ := List.mem_map.1 m
    obtain rfl : r.1 = k := Nat.add_left_cancel e
    exact Option.some.inj ((sp.sound r hr).2.symm.trans hc)
  · exact ⟨_, List.mem_map_of_mem (sp.complete k c hk hc), rfl⟩
  · obtain ⟨r, hr, rfl⟩ := List.mem_map.1 m
    obtain ⟨lt, spelt⟩ := sp.sound r hr
    exact (h r.1 lt (by simp [spelt])).symm

/-! The four stores. -/

theorem scalarCell_eq (v : BitVec 32) : scalarCell v = { data := v.signExtend 36, tag := tagValid } :=
  congrArg (Cell.mk · tagValid) (BitVec.and_allOnes (x := v.signExtend 36))

theorem spells_one (c : Cell) : Spells [(0, c)] 1 fun _ => some c where
  sound q k := by obtain rfl := List.mem_singleton.1 k; exact ⟨Nat.one_pos, rfl⟩
  complete k d lt some := by
    obtain rfl : k = 0 := by omega
    simpa using some.symm

/-- What a vector store writes in the enabled lanes. -/
theorem spells_lanes (g : BitVec 8) (f : Nat → Cell) :
    Spells ((lanesOf g).map fun k => (k, f k)) 8 fun k => if bit g k then some (f k) else none where
  sound q k := by
    obtain ⟨r, hr, rfl⟩ := List.mem_map.1 k
    obtain ⟨lt, on⟩ := List.mem_filter.1 hr
    exact ⟨List.mem_range.1 lt, if_pos on⟩
  complete k c lt some := by
    by_cases on : bit g k = true
    · obtain rfl : f k = c := by simpa [on] using some
      exact List.mem_map_of_mem (f := fun k => (k, f k)) (List.mem_filter.2 ⟨List.mem_range.2 lt, on⟩)
    · simp [on] at some

/-- R610: the cells of an accumulator store. -/
def qCellAt (v : QLane) (k : Nat) : Cell :=
  match k % 3 with
  | 0 => { data := v.i.extractLsb' 0 36, tag := v.tag }
  | 1 => { data := v.q.extractLsb' 0 36, tag := v.tag }
  | _ => { data := (v.q.extractLsb' 36 12 ++ v.i.extractLsb' 36 12).zeroExtend 36, tag := v.tag }

/-- The cells of an accumulator store repeat lane by lane. -/
theorem qCellAt_offset (v : QLane) (r k : Nat) : qCellAt v (3 * r + k) = qCellAt v k := by
  rw [qCellAt, qCellAt, Nat.mul_add_mod]

theorem qlaneCells_eq (v : QLane) : qlaneCells v = [qCellAt v 0, qCellAt v 1, qCellAt v 2] := by
  have low : ∀ x : BitVec 48, x.truncate 36 = x.extractLsb' 0 36 := fun x => by
    apply BitVec.eq_of_toNat_eq; simp [BitVec.extractLsb'_toNat]
  have high : BitVec.ofNat 36 (fld v.i 36 12 + fld v.q 36 12 * 2 ^ 12) = (v.q.extractLsb' 36 12 ++ v.i.extractLsb' 36 12).zeroExtend 36 := by
    apply BitVec.eq_of_toNat_eq
    have lt : fld v.i 36 12 < 2 ^ 12 := Nat.mod_lt _ (by decide)
    have join := Nat.shiftLeft_add_eq_or_of_lt lt (fld v.q 36 12)
    simp only [BitVec.toNat_ofNat, BitVec.truncate_eq_setWidth, BitVec.toNat_setWidth, BitVec.toNat_append, BitVec.extractLsb'_toNat]
    rw [show v.i.toNat >>> 36 % 2 ^ 12 = fld v.i 36 12 from rfl, show v.q.toNat >>> 36 % 2 ^ 12 = fld v.q 36 12 from rfl, ← join,
      Nat.shiftLeft_eq, Nat.add_comm]
  rw [qlaneCells, low, low, high]; rfl

theorem spells_qlanes (g : BitVec 8) (f : Nat → QLane) :
    Spells ((lanesOf g).flatMap fun r => (qlaneCells (f r)).zipIdx.map fun x => (3 * r + x.2, x.1)) 24
      fun k => if bit g (k / 3) then some (qCellAt (f (k / 3)) k) else none := by
  have mem : ∀ q : Nat × Cell, q ∈ ((lanesOf g).flatMap fun r => (qlaneCells (f r)).zipIdx.map fun x => (3 * r + x.2, x.1)) ↔
      ∃ r ∈ lanesOf g, ∃ j, j < 3 ∧ q = (3 * r + j, qCellAt (f r) j) := fun q => by
    simp only [List.mem_flatMap, qlaneCells_eq, List.zipIdx_cons, List.zipIdx_nil, List.map_cons, List.map_nil, List.mem_cons,
      List.not_mem_nil, or_false]
    refine exists_congr fun r => and_congr_right fun _ => ⟨?_, ?_⟩
    · rintro (h | h | h)
      exacts [⟨0, by decide, h⟩, ⟨1, by decide, h⟩, ⟨2, by decide, h⟩]
    · rintro ⟨j, lt, h⟩
      match j, lt with
      | 0, _ => exact .inl h
      | 1, _ => exact .inr (.inl h)
      | 2, _ => exact .inr (.inr h)
  constructor
  · intro q k
    obtain ⟨r, hr, j, lt, rfl⟩ := (mem q).1 k
    obtain ⟨small, on⟩ := List.mem_filter.1 hr
    have small := List.mem_range.1 small
    have lane : (3 * r + j) / 3 = r := by omega
    exact ⟨by dsimp only; omega, by simp only [lane, on, if_true, qCellAt_offset]⟩
  · intro k c lt some
    by_cases on : bit g (k / 3) = true
    · obtain rfl : qCellAt (f (k / 3)) k = c := by simpa [on] using some
      refine (mem _).2 ⟨k / 3, List.mem_filter.2 ⟨List.mem_range.2 (by omega), on⟩, k % 3, Nat.mod_lt _ (by decide), ?_⟩
      rw [← qCellAt_offset _ (k / 3) (k % 3), Nat.div_add_mod]
    · simp [on] at some

/-- A guard of lanes that is not all off. -/
theorem lanes_on {g : BitVec 8} (h : g ≠ 0) : (if true = true then g != 0 else bit g 0) = true := by simpa using h

theorem sts_stores (x : BitVec 5) (legal : addrLegal ad false = true) (on : e.on h = true) :
    (planSts ad x).Stores h ad e 1 [(0, { data := (e.snap.gs x.toNat).signExtend 36, tag := tagValid })] where
  slot := rfl
  legal := legal
  plain := ⟨rfl, rfl⟩
  writes := rfl
  on := on
  ready _ := rfl
  run w src := by
    simp only [List.map_cons, List.map_nil, Work.writeAll_one, ← scalarCell_eq, ← src]; rfl

theorem st1_stores (x : BitVec 5) (legal : addrLegal ad true = true) (on : e.on h = true) :
    (planSt1 ad x).Stores h ad e 1 [(0, e.snap.gc x.toNat ad.k.toNat)] where
  slot := rfl
  legal := legal
  plain := ⟨rfl, rfl⟩
  writes := rfl
  on := on
  ready _ := rfl
  run w src := by
    simp only [List.map_cons, List.map_nil, Work.writeAll_one, ← src]; rfl

theorem stv_stores (x : BitVec 5) (legal : addrLegal ad false = true) (on : e.snap.guard h ≠ 0) :
    (planStv ad x).Stores h ad e 8 ((lanesOf (e.snap.guard h)).map fun k => (k, e.snap.gc x.toNat k)) where
  slot := rfl
  legal := legal
  plain := ⟨rfl, rfl⟩
  writes := rfl
  on := lanes_on on
  ready _ := rfl
  run w src := by
    simp only [List.map_map, ← src]; rfl

theorem stq_stores (x : BitVec 3) (legal : addrLegal ad false = true) (on : e.snap.guard h ≠ 0) :
    (planStq ad x).Stores h ad e 24 ((lanesOf (e.snap.guard h)).flatMap fun r =>
      (qlaneCells (e.snap.gq x.toNat r)).zipIdx.map fun c => (3 * r + c.2, c.1)) where
  slot := rfl
  legal := legal
  plain := ⟨rfl, rfl⟩
  writes := rfl
  on := lanes_on on
  ready _ := rfl
  run w src := by
    simp only [List.map_flatMap, List.map_map, ← src, Function.comp_def, ← Nat.add_assoc]; rfl

/-- What holds of every plan that stores holds of the four stores. -/
theorem storeForms_of {stores : Instr → Nat → (Nat → Option Cell) → Prop}
    (all : ∀ c p n l cells, (∀ s, exec c s = .next (s.slot h p)) → p.Stores h ad e n l → Spells l n cells → stores c n cells) :
    StoreForms h ad e stores :=
  ⟨fun x legal on => all _ _ _ _ _ (fun _ => rfl) (sts_stores x legal on) (spells_one _),
   fun x legal on => all _ _ _ _ _ (fun _ => rfl) (st1_stores x legal on) (spells_one _),
   fun x legal on => all _ _ _ _ _ (fun _ => rfl) (stv_stores x legal on) (spells_lanes _ _),
   fun x legal on => all _ _ _ _ _ (fun _ => rfl) (stq_stores x legal on) (spells_qlanes _ _)⟩

end

/-! Reads of one cell. -/

section
variable {s : State} {h : Slot} {key : Nat} {i : Inst} {e : Issue} {a : Nat} {c : Cell}

/-- Where a cell lies, and what reading it does, rests on the registers at issue alone. -/
theorem Work.mendCell_iss (w : Work) {e : Issue} (same : e.snap = w.iss.snap) (a : Nat) :
    ({ w with iss := e } : Work).mendCell a = { w.mendCell a with iss := e } := by
  have place : ({ w with iss := e } : Work).place a = w.place a := by
    unfold Work.place Work.src; dsimp only; rw [same]; rfl
  unfold Work.mendCell
  rw [place]
  cases w.place a with
  | error t => rfl
  | ok x => cases x with
    | loc k =>
      dsimp only
      split <;> rfl
    | image k => rfl
    | loft k => rfl

/-- A cell read without a check error, as a slot of the bundle finds it. -/
theorem ReadsCell.joined (r : ReadsCell s i e key a c) (p : Plan) : (workOf s key i (e.joined p)).readCell a = .ok c ∧
    (workOf s key i (e.joined p)).mend [a] = workOf s key i (e.joined p) := by
  refine ⟨r.1, ?_⟩
  have same := Work.mendCell_iss (workOf s key i e) (e := e.joined p) rfl a
  rw [show (workOf s key i e).mendCell a = workOf s key i e from r.2] at same
  exact same

/-- The larger of two words as signed numbers. -/
theorem maxSigned_eq (x y : BitVec 32) : (if x.slt y then y else x) = BitVec.ofInt 32 (max x.toInt y.toInt) := by
  by_cases lt : x.slt y = true
  · rw [if_pos lt, max_eq_right (BitVec.slt_iff_toInt_lt.1 lt).le, BitVec.ofInt_toInt]
  · rw [if_neg lt, max_eq_left (not_lt.1 (mt BitVec.slt_iff_toInt_lt.2 lt)), BitVec.ofInt_toInt]

theorem atomNew_eq (op : BitVec 3) (old y d : BitVec 32) : atomNew op old y d = match op.toNat with
    | 0 => old + y
    | 1 => y
    | 2 => old &&& y
    | 3 => old ||| y
    | 4 => BitVec.ofInt 32 (max old.toInt y.toInt)
    | _ => if old = d then y else old :=
  congrArg (fun larger => match op.toNat with
    | 0 => old + y
    | 1 => y
    | 2 => old &&& y
    | 3 => old ||| y
    | 4 => larger
    | _ => if old = d then y else old) (maxSigned_eq old y)

/-- R614: ATOM on an owned cell of the window ends its bundle. -/
theorem atom_closes {d y : BitVec 5} {ax : BitVec 4} {op : BitVec 3} (turn : SlotTurn s h 3 key i e) (cl : Closes s h i e)
    (on : e.on h = true) (fresh : RName.s d.toNat ∉ e.written) (legal : op.toNat ≤ 5) (lo : 0x800000 ≤ (e.snap.ga ax.toNat).toNat)
    (own : WindowOwned s i e (e.snap.ga ax.toNat).toNat) (read : ReadsCell s i e key (e.snap.ga ax.toNat).toNat c) :
    s.slot h (planAtom d ax y op) = (s.onMem fun m => m.loftPut (windowCell e.snap.lwin (e.snap.ga ax.toNat).toNat)
        (scalarCell (atomNew op (cellScalar c) (e.snap.gs y.toNat) (e.snap.gs d.toNat)))).issued h key
      { i with regs := e.regsAfter (i.regs.ss d.toNat (cellScalar c)) (e.snap.pc + 1) s.stall, issue := none, waiting := false } := by
  have fits : (planAtom d ax y op).Fits e :=
    { slot := rfl, legal := decide_eq_true legal, plain := ⟨rfl, rfl⟩, fresh := by simpa [planAtom] using fresh, once := by simp [planAtom] }
  have clean := Issue.joined_clean turn.clean fits.legal fits.plain.1 fits.plain.2 fits.fresh fits.once
  obtain ⟨reads, mends⟩ := read.joined (planAtom d ax y op)
  let w := workOf s key i (e.joined (planAtom d ax y op))
  have own' : w.ownsCell (e.snap.ga ax.toNat).toNat := ⟨lo, own⟩
  refine State.slot_closes (sets := e.sets) (j := { i with regs := i.regs.ss d.toNat (cellScalar c) }) turn cl fits
    (Work.runPlan_on clean on rfl ?_) ⟨rfl, rfl⟩ rfl
  have runs : (planAtom d ax y op).run (w.src.guard h) w = (do
      let old := cellScalar (← w.readCell (e.snap.ga ax.toNat).toNat)
      let v ← (w.mend [(e.snap.ga ax.toNat).toNat]).writeCell (e.snap.ga ax.toNat).toNat
        (scalarCell (atomNew op old (e.snap.gs y.toNat) (e.snap.gs d.toNat)))
      return v.onRegs fun r => r.ss d.toNat old) := if_neg (Nat.not_lt.2 lo)
  refine runs.trans ?_
  rw [reads, mends]
  simp only [bind, Except.bind]
  rw [show workOf s key i (e.joined (planAtom d ax y op)) = w from rfl, Work.writeCell_window own']
  rfl

end

/-- Settles O8: every store writes a list of cells at their offsets, in the window or in local memory; ATOM writes one. -/
theorem storesWriteTheirCells : Obligations.storesWriteTheirCells := by
  refine ⟨fun s h key i e ad turn cl fresh => storeForms_of fun c p n l cells ex st sp lo hi own => ?_,
    fun s h key i e ad turn cl fresh => storeForms_of fun c p n l cells ex st sp hi allowed => ?_,
    fun s h key i e d y ax op c turn cl on fresh legal lo own read => ?_⟩
  · exact ⟨_, (ex s).trans (congrArg _ (st.window sp turn cl fresh lo hi own)), Mem.loftPutAll_frame _ _, sp.window_reads lo hi⟩
  · refine ⟨_, (ex s).trans (congrArg _ (st.local sp turn cl fresh hi allowed)), ?_, sp.local_reads⟩
    dsimp only
    rw [Inst.locPutAll_frame]
    rfl
  · refine ⟨_, congrArg _ (atom_closes turn cl on fresh legal lo own read), rfl, fun k => ?_⟩
    refine (Mem.loftGet_put ..).trans ?_
    rw [scalarCell_eq, atomNew_eq]; rfl

end Sys2Proof.Machine
end

section
namespace Sys2Proof.Machine

/-! Reads of an input queue, QFLUSH and LFENCE (R552, R559, R612, R613). -/

section
variable {s : State} {h : Slot} {key : Nat} {i j : Inst} {e : Issue} {p : Plan} {sets : BitVec 6}

/-- A plan of the L slot that writes no register may stand in any bundle. -/
theorem Plan.Fits.of_silent (h : p.slot = 3 ∧ p.legal = true ∧ (p.isExit = false ∧ p.transfer = false) ∧ p.writes = []) : p.Fits e := by
  obtain ⟨slot, legal, plain, writes⟩ := h
  exact ⟨slot, legal, plain, by simp [writes], by simp [writes]⟩

/-- A slot that ends its bundle and works on its copy alone. -/
theorem Plan.Fits.issued (fits : p.Fits e) (turn : SlotTurn s h 3 key i e) (cl : Closes s h i e)
    (on : (if p.lanes then e.snap.guard h != 0 else bit (e.snap.guard h) 0) = true)
    (ready : p.ready (e.snap.guard h) (workOf s key i (e.joined p)) = .ok true)
    (run : p.run (e.snap.guard h) (workOf s key i (e.joined p)) = .ok (workOf s key j { e.joined p with sets }))
    (same : j.session = i.session ∧ j.prog = i.prog) (oq : j.oq = i.oq) :
    s.slot h p = s.issued h key (j.closed { e with sets } s.stall) :=
  State.slot_closes (m := s.mem) turn cl fits (Work.runPlan_on
    (Issue.joined_clean turn.clean fits.legal fits.plain.1 fits.plain.2 fits.fresh fits.once) on ready run) same oq

/-- A read of a queue writes one vector register. -/
theorem planQrd_fits {d : BitVec 5} {n : BitVec 2} {nb lanes : Bool} {sel : BitVec 8 → List Nat} (fresh : RName.c d.toNat ∉ e.written) :
    (planQrd d n nb lanes sel).Fits e where
  slot := rfl
  legal := rfl
  plain := ⟨rfl, rfl⟩
  fresh := by simpa [planQrd] using fresh
  once := by simp [planQrd]

/-- The cells that a read takes, and the copy it leaves. -/
theorem Work.takeIq_of {q n : Nat} {taken rest : List QCell} (take : (i.inq q).cells.take n = taken) (drop : (i.inq q).cells.drop n = rest) :
    (workOf s key i e).takeIq q n =
      (taken.map (·.cell), workOf s key { i with iq := Tbl.set i.iq q { i.inq q with cells := rest } } e) := by
  subst take drop; rfl

theorem planQrd_run {w w' : Work} {g : BitVec 8} {cells : List Cell} {d : BitVec 5} {n : BitVec 2} {nb lanes : Bool} {sel : BitVec 8 → List Nat}
    (takes : w.takeIq n.toNat (sel g).length = (cells, w')) :
    (planQrd d n nb lanes sel).run g w = .ok (w'.fillLanes d.toNat (sel g) cells) := by
  simp only [planQrd, takes]

/-- Lanes of one vector register filled from a function of the lane. -/
def Regs.fillC (r : Regs) (d : Nat) (f : Nat → Cell) (ls : List Nat) : Regs := ls.foldl (fun r k => r.sc d k (f k)) r

theorem Regs.fillC_frame (d : Nat) (f : Nat → Cell) (ls : List Nat) : ∀ r : Regs, r.fillC d f ls = { r with c := (r.fillC d f ls).c } := by
  induction ls with
  | nil => exact fun _ => rfl
  | cons k ls ih => exact fun r => ih (r.sc d k (f k))

theorem Regs.gc_fillC {d : Nat} {f : Nat → Cell} {m l : Nat} (hl : l < 8) : ∀ (ls : List Nat) (r : Regs), (∀ k ∈ ls, k < 8) →
    (r.fillC d f ls).gc m l = if m = d ∧ l ∈ ls then f l else r.gc m l
  | [], _, _ => by simp [Regs.fillC]
  | k :: ls, r, small => by
    have hk := small k (List.mem_cons_self ..)
    have lane : 8 * m + l = 8 * d + k ↔ m = d ∧ l = k := by omega
    have step : (r.sc d k (f k)).gc m l = if m = d ∧ l = k then f k else r.gc m l := by
      simp only [Regs.gc, Regs.sc, Tbl.get_set, lane]
    rw [show r.fillC d f (k :: ls) = (r.sc d k (f k)).fillC d f ls from rfl, gc_fillC hl ls _ fun q hq => small q (List.mem_cons_of_mem _ hq), step]
    by_cases hd : m = d
    · by_cases same : l = k <;> simp [hd, same]
    · simp [hd]

/-- Lanes filled from enough cells. -/
theorem Work.fillLanes_enough {d : Nat} {lanes : List Nat} {cells : List Cell} (enough : lanes.length ≤ cells.length) :
    (workOf s key i e).fillLanes d lanes cells =
      workOf s key { i with regs := lanes.zipIdx.foldl (fun r x => r.sc d x.1 ((cells[x.2]?).getD Cell.empty)) i.regs } e := by
  rw [Work.fillLanes, if_neg (Nat.not_lt.2 enough)]
  generalize lanes.zipIdx = l
  induction l generalizing i with
  | nil => rfl
  | cons x l ih => exact ih (i := { i with regs := i.regs.sc d x.1 ((cells[x.2]?).getD Cell.empty) })

theorem lanesOf_full : lanesOf 0xFF = List.range 8 := by decide

section
variable (turn : SlotTurn s h 3 key i e) (cl : Closes s h i e)
include turn cl

theorem qrd1_issued {d : BitVec 5} {n : BitVec 2} {nb : Bool} {k : BitVec 3} {c : QCell} {cs : List QCell} (on : e.on h = true)
    (fresh : RName.c d.toNat ∉ e.written) (holds : (i.inq n.toNat).cells = c :: cs) :
    s.slot h (planQrd1 d n nb k) = s.issued h key (Inst.closed { i with
      regs := i.regs.sc d.toNat k.toNat c.cell, iq := Tbl.set i.iq n.toNat { i.inq n.toNat with cells := cs } } e s.stall) := by
  refine (planQrd_fits fresh).issued (sets := e.sets) turn cl on ?_ ?_ ⟨rfl, rfl⟩ rfl
  · simp [planQrd, workOf, holds]
  · rw [planQrd_run (Work.takeIq_of (taken := [c]) (rest := cs) (by rw [holds]; rfl) (by rw [holds]; rfl))]; rfl

/-- R613: a read that need not wait, of an empty queue, yields EMPTY and sets QEMPTY. -/
theorem qrd1_empty {d : BitVec 5} {n : BitVec 2} {k : BitVec 3} (on : e.on h = true) (fresh : RName.c d.toNat ∉ e.written)
    (holds : (i.inq n.toNat).cells = []) :
    s.slot h (planQrd1 d n true k) = s.issued h key (Inst.closed { i with
      regs := i.regs.sc d.toNat k.toNat { data := 0, tag := tagEmpty }, iq := Tbl.set i.iq n.toNat { i.inq n.toNat with cells := [] } }
      { e with sets := e.sets ||| flagQempty } s.stall) := by
  refine (planQrd_fits fresh).issued (sets := e.sets ||| flagQempty) turn cl on rfl ?_ ⟨rfl, rfl⟩ rfl
  rw [planQrd_run (Work.takeIq_of (taken := []) (rest := []) (by rw [holds]; rfl) (by rw [holds]; rfl))]; rfl

/-- A read into all eight lanes takes eight cells. -/
theorem qrd8_issued {d : BitVec 5} {n : BitVec 2} {nb : Bool} (full : e.snap.guard h = 0xFF) (fresh : RName.c d.toNat ∉ e.written)
    (holds : 8 ≤ (i.inq n.toNat).cells.length) :
    s.slot h (planQrd8 d n nb) = s.issued h key (Inst.closed { i with
      regs := i.regs.fillC d.toNat (fun l => ((((i.inq n.toNat).cells.take 8).map (·.cell))[l]?).getD Cell.empty) (List.range 8)
      iq := Tbl.set i.iq n.toNat { i.inq n.toNat with cells := (i.inq n.toNat).cells.drop 8 } } e s.stall) := by
  have eight : (List.range 8).zipIdx = (List.range 8).map fun k => (k, k) := by decide
  refine (planQrd_fits fresh).issued (sets := e.sets) turn cl ?_ ?_ ?_ ⟨rfl, rfl⟩ rfl
  · rw [full]; rfl
  · have ready : (nb || decide ((lanesOf (e.snap.guard h)).length ≤ (i.inq n.toNat).cells.length)) = true := by
      rw [full, lanesOf_full]; simp [holds]
    exact congrArg Except.ok ready
  · rw [planQrd_run (Work.takeIq_of rfl rfl), full, lanesOf_full, Work.fillLanes_enough (by simpa using holds), eight, List.foldl_map]
    rfl

theorem qflush_issued {n : BitVec 2} (on : e.on h = true) : s.slot h (planQflush n) = s.issued h key (Inst.closed { i with
    iq := Tbl.set i.iq n.toNat (i.inq n.toNat).flush } e s.stall) :=
  (Plan.Fits.of_silent (p := planQflush n) ⟨rfl, rfl, ⟨rfl, rfl⟩, rfl⟩).issued (sets := e.sets) turn cl on rfl rfl ⟨rfl, rfl⟩ rfl

/-- R552: a fence does nothing, whatever its guard. -/
theorem lfence_issued : s.slot h planLfence = s.issued h key (i.closed e s.stall) := by
  have fits : planLfence.Fits e := .of_silent ⟨rfl, rfl, ⟨rfl, rfl⟩, rfl⟩
  by_cases on : e.on h = true
  · exact fits.issued (sets := e.sets) turn cl on rfl rfl ⟨rfl, rfl⟩ rfl
  · refine State.slot_closes (m := s.mem) (sets := e.sets) turn cl fits ?_ ⟨rfl, rfl⟩ rfl
    exact Work.runPlan_off (Bool.eq_false_of_not_eq_true on) rfl

end

/-! Queue writes (R561, R613). -/

/-- R561: a queue with no destination is not bound. -/
theorem oqBound_unbound {d : Dev} {n : Nat} {ok : Nat → Nat → Bool} (none : fld (i.outq n).bind 0 2 = 0) : d.oqBound i n ok = false := by
  simp only [Dev.oqBound, none]

theorem oqBound_stream {d : Dev} {n : Nat} {ok : Nat → Nat → Bool} (dest : fld (i.outq n).bind 0 2 = 1) :
    d.oqBound i n ok = ok (fld (i.outq n).bind 2 16) n := by
  simp only [Dev.oqBound, dest]

theorem streamTakes_open {d : Dev} {sid oq : Nat} {t : Stream} (stream : Tbl.find? d.mov.streams sid = some t) (kind : fld t.src 0 4 = 2)
    (opened : t.closing = none) : d.streamTakes key sid oq = true := by
  simp [Dev.streamTakes, stream, kind, opened]

section
variable {x : BitVec 5} {n : BitVec 1} {wt eop lanes : Bool} {sel : BitVec 8 → List Nat}

theorem planQwr_fits : (planQwr x n wt eop lanes sel Dev.streamTakes).Fits e :=
  .of_silent ⟨rfl, rfl, ⟨rfl, rfl⟩, rfl⟩

/-- R561: a write to a queue without destination is dropped whole. -/
theorem qwr_dropped (turn : SlotTurn s h 3 key i e) (cl : Closes s h i e) (none : fld (i.outq n.toNat).bind 0 2 = 0)
    (on : (if lanes then e.snap.guard h != 0 else bit (e.snap.guard h) 0) = true) :
    s.slot h (planQwr x n wt eop lanes sel Dev.streamTakes) = s.issued h key (i.closed { e with sets := e.sets ||| flagQdrop } s.stall) := by
  refine planQwr_fits.issued (sets := e.sets ||| flagQdrop) turn cl on ?_ ?_ ⟨rfl, rfl⟩ rfl
  · simp [planQwr, workOf, oqBound_unbound none]
  · simp [planQwr, workOf, oqBound_unbound none, Work.flag, Issue.joined]

end

/-! Delivery to a stream (R561, R645). -/

/-- A NOTE on reserved tags changes REL at most. -/
theorem Dev.noteTags_frame (d : Dev) (cells : List QCell) (domain : BitVec 16) (src : BitVec 8) (session : Nat) :
    d.noteTags cells domain src session = { d with rel := (d.noteTags cells domain src session).rel } := by
  unfold Dev.noteTags
  split
  · rw [Dev.log_quiet _ _ (by decide : (0 : Nat) < 2)]
  · rfl

theorem Dev.noteTags_valid {d : Dev} {cells : List QCell} {domain : BitVec 16} {src : BitVec 8} {session : Nat}
    (valid : ∀ c ∈ cells, tagReserved c.cell.tag = false) : d.noteTags cells domain src session = d :=
  if_neg (by simpa using valid)

/-- The packet that a queue holds ends with the queue, or not at all. -/
def WholePacket (cells : List QCell) : Prop := ∀ j, cells.findIdx? (·.eop) = some j → j + 1 = cells.length

/-- The stream after all cells of a queue (R122, R645). -/
def Stream.took (t : Stream) (q : OutQueue) (me : Nat) : Stream :=
  { t with
    queue := t.queue ++ q.cells.map QCell.clean
    from_ := if q.cells.any (·.eop) then none else if q.cells.length = 0 then none else some me
    fences := t.fences ++ (q.fences.partition fun f => decide (f.2 ≤ q.cells.length)).1.map fun f => (f.1, t.queue.length + f.2) }

/-- The queue after all its cells went. -/
def OutQueue.sent (q : OutQueue) : OutQueue :=
  { q with cells := [], fences := (q.fences.partition fun f => decide (f.2 ≤ q.cells.length)).2.map fun f => (f.1, f.2 - q.cells.length) }

/-- A queue bound to an open stream that no other queue writes, with room for all of it, empties into the stream. -/
theorem Dev.pumpOq_stream {d : Dev} {n : Nat} {t : Stream} (copy : Tbl.find? d.insts key = some i) (holds : (i.outq n).cells ≠ [])
    (dest : fld (i.outq n).bind 0 2 = 1) (stream : Tbl.find? d.mov.streams (fld (i.outq n).bind 2 16) = some t)
    (kind : fld t.src 0 4 = 2) (opened : t.closing = none) (free : t.from_ = none)
    (room : t.queue.length + (i.outq n).cells.length ≤ 16384) (whole : WholePacket (i.outq n).cells) :
    ∃ rel, ((∀ c ∈ (i.outq n).cells, tagReserved c.cell.tag = false) → rel = d.rel) ∧
      d.pumpOq key n = { d with
        mov := { d.mov with streams := Tbl.set d.mov.streams (fld (i.outq n).bind 2 16) (t.took (i.outq n) (key * 2 + n)) }, rel
        insts := Tbl.set d.insts key (i.setOq n (i.outq n).sent) } := by
  have bound : d.oqBound i n (d.streamTakes key) = true := by rw [oqBound_stream dest, streamTakes_open stream kind opened]
  have all : min (i.outq n).cells.length (16384 - t.queue.length) = (i.outq n).cells.length := by omega
  let d₁ : Dev := { d with mov := { d.mov with streams := Tbl.set d.mov.streams (fld (i.outq n).bind 2 16) (t.took (i.outq n) (key * 2 + n)) } }
  let d₂ := d₁.noteTags (i.outq n).cells (domMover t.mover) srcMov t.session
  have moved : d.pumpOq key n = d₂.onInst key fun i' => i'.setOq n (i.outq n).sent := by
    simp only [Dev.pumpOq, copy, List.isEmpty_eq_false_iff.2 holds, bound, dest, stream, free, Option.any_none, Bool.not_true,
      Bool.false_eq_true, if_false, Nat.reduceEqDiff]
    cases ends : (i.outq n).cells.findIdx? (·.eop) with
    | none => simp only [all, List.take_length, List.drop_length]; rfl
    | some j => simp only [whole j ends, all, List.take_length, List.drop_length]; rfl
  have frame : d₂ = { d₁ with rel := d₂.rel } := Dev.noteTags_frame ..
  refine ⟨d₂.rel, fun valid => (congrArg Dev.rel (Dev.noteTags_valid valid) : d₂.rel = d₁.rel), moved.trans ?_⟩
  rw [frame]
  simp only [Dev.onInst, d₁, copy]
  rfl

/-- Every output queue but one is empty. -/
def Dev.QuietBut (d : Dev) (key n : Nat) : Prop :=
  ∀ k m i, Tbl.find? d.insts k = some i → (k, m) ≠ (key, n) → (i.outq m).cells = []

/-- Where one queue alone holds cells and delivers them all, a pump is that delivery. -/
theorem Dev.pump_one {d : Dev} {n : Nat} (two : n < 2) (before : d.QuietBut key n) (listed : key ∈ d.insts.map (·.1))
    (after : ∀ k m i, Tbl.find? (d.pumpOq key n).insts k = some i → (i.outq m).cells = []) : d.pump = d.pumpOq key n := by
  have still : ∀ l : List Nat, l.foldl (fun d k => (d.pumpOq k 0).pumpOq k 1) (d.pumpOq key n) = d.pumpOq key n := fun l => by
    have q : ∀ k m, (d.pumpOq key n).pumpOq k m = d.pumpOq key n := fun k m =>
      Dev.pumpOq_quiet (after k m)
    induction l with
    | nil => rfl
    | cons k l ih => simpa only [List.foldl_cons, q] using ih
  have here : (d.pumpOq key 0).pumpOq key 1 = d.pumpOq key n := by
    rcases Nat.lt_succ_iff_lt_or_eq.1 two with zero | rfl
    · obtain rfl : n = 0 := by omega
      exact Dev.pumpOq_quiet (after key 1)
    · rw [Dev.pumpOq_quiet (n := 0) fun i h => before key 0 i h (by simp)]
  unfold Dev.pump
  generalize d.insts.map (·.1) = l at listed
  induction l with
  | nil => cases listed
  | cons k l ih =>
    rw [List.foldl_cons]
    by_cases same : k = key
    · rw [same, here, still]
    · have idle : ∀ m, d.pumpOq k m = d := fun m => Dev.pumpOq_quiet fun i h => before k m i h (by simp [same])
      rw [idle, idle]
      exact ih ((List.mem_cons.1 listed).resolve_left (Ne.symm same))

/-! A queue write that reaches its stream. -/

section
variable {x : BitVec 5} {n : BitVec 1} {wt eop lanes : Bool} {sel : BitVec 8 → List Nat} {t : Stream}

/-- The cells of a queue write (R613). -/
def qwrCells (e : Issue) (x : BitVec 5) (eop : Bool) (ls : List Nat) : List QCell :=
  ls.zipIdx.map fun y => { cell := e.snap.gc x.toNat y.1, eop := eop && y.2 + 1 == ls.length }

theorem qwrCells_whole (e : Issue) (x : BitVec 5) (eop : Bool) (ls : List Nat) : WholePacket (qwrCells e x eop ls) := fun j found => by
  obtain ⟨lt, ends, _⟩ := List.findIdx?_eq_some_iff_getElem.1 found
  simp only [qwrCells, List.getElem_map, List.getElem_zipIdx, Bool.and_eq_true, beq_iff_eq] at ends
  simpa [qwrCells] using ends.2

/-- A queue write ends its bundle with its cells in the queue, and the queue is delivered. -/
theorem qwr_commits (turn : SlotTurn s h 3 key i e) (cl : Closes s h i e) (on : (if lanes then e.snap.guard h != 0 else bit (e.snap.guard h) 0) = true)
    (bound : s.dev.oqBound i n.toNat (s.dev.streamTakes key) = true) (small : (sel (e.snap.guard h)).length ≤ 8) :
    s.slot h (planQwr x n wt eop lanes sel Dev.streamTakes) = s.onDev fun d => ((d.freed.setInst key (Inst.closed
      (i.setOq n.toNat { i.outq n.toNat with cells := qwrCells e x eop (sel (e.snap.guard h)) }) e s.stall)).countIssue h.spu.val).pump := by
  have empty : (i.outq n.toNat).cells = [] := cl.quiet _ (Tbl.mem_of_find turn.copy) _
  have fits : (planQwr x n wt eop lanes sel Dev.streamTakes).Fits e := planQwr_fits
  have clean := Issue.joined_clean turn.clean fits.legal fits.plain.1 fits.plain.2 fits.fresh fits.once
  refine State.slot_commits (m := s.mem) (sets := e.sets) turn cl fits (Work.runPlan_on clean on ?_ ?_) ⟨rfl, rfl⟩
  · have ready : (!wt || !s.dev.oqBound i n.toNat (s.dev.streamTakes key) ||
        decide ((i.outq n.toNat).cells.length + (sel (e.snap.guard h)).length ≤ 1024)) = true := by
      simp [bound, empty]; omega
    exact congrArg Except.ok ready
  · have fits : ¬ ((!s.dev.oqBound i n.toNat (s.dev.streamTakes key)) = true ∨
        (i.outq n.toNat).cells.length + (sel (e.snap.guard h)).length > 1024) := by
      simp [bound, empty]; omega
    refine (if_neg fits).trans ?_
    simp only [workOf, empty, List.nil_append]
    rfl

/-- A queue write bound to an open stream with room reaches it whole. -/
theorem qwr_reaches (turn : SlotTurn s h 3 key i e) (cl : Closes s h i e) (on : (if lanes then e.snap.guard h != 0 else bit (e.snap.guard h) 0) = true)
    (dest : fld (i.outq n.toNat).bind 0 2 = 1) (stream : Tbl.find? s.dev.mov.streams (fld (i.outq n.toNat).bind 2 16) = some t)
    (kind : fld t.src 0 4 = 2) (opened : t.closing = none) (free : t.from_ = none) (room : t.queue.length + 8 ≤ 16384)
    {cells : List QCell} (spelt : qwrCells e x eop (sel (e.snap.guard h)) = cells) 
    (some : sel (e.snap.guard h) ≠ []) (small : (sel (e.snap.guard h)).length ≤ 8) :
    ∃ d', s.slot h (planQwr x n wt eop lanes sel Dev.streamTakes) = { s with dev := d' } ∧
      d' = { s.dev with insts := d'.insts, stk := d'.stk, mov := d'.mov, rel := d'.rel, freeCtr := d'.freeCtr } ∧
      ((∀ c ∈ cells, tagReserved c.cell.tag = false) → d'.rel = s.dev.rel) ∧
      (∃ t', Tbl.find? d'.mov.streams (fld (i.outq n.toNat).bind 2 16) = Option.some t' ∧ t'.queue = t.queue ++ cells.map QCell.clean) ∧
      ∃ j, Tbl.find? d'.insts key = Option.some j ∧ (j.outq n.toNat).cells = [] ∧ j.regs = e.regsAfter i.regs (e.snap.pc + 1) s.stall := by
  have commits := qwr_commits (x := x) (wt := wt) (eop := eop) turn cl on
    (by rw [oqBound_stream dest, streamTakes_open stream kind opened]) small
  rw [spelt] at commits
  have length : cells.length ≤ 8 := by rw [← spelt]; simpa [qwrCells] using small
  have holds : cells ≠ [] := by rw [← spelt]; simpa [qwrCells] using some
  have whole : WholePacket cells := spelt ▸ qwrCells_whole e x eop _
  let q : OutQueue := { i.outq n.toNat with cells }
  let i' := Inst.closed (i.setOq n.toNat q) e s.stall
  let d := (s.dev.freed.setInst key i').countIssue h.spu.val
  have queues : ∀ m, i'.outq m = if m = n.toNat then q else i.outq m := fun m => Tbl.get_set ..
  have own : i'.outq n.toNat = q := (queues _).trans (if_pos rfl)
  have copy : Tbl.find? d.insts key = Option.some i' := Tbl.find_set_self ..
  have others : d.QuietBut key n.toNat := fun k m j found other => by
    by_cases same : k = key
    · subst same
      obtain rfl : i' = j := Option.some.inj (copy.symm.trans found)
      rw [queues, if_neg fun e => other (by rw [e])]
      exact cl.quiet _ (Tbl.mem_of_find turn.copy) _
    · exact cl.quiet _ (Tbl.mem_of_find ((Tbl.find_set_ne same).symm.trans found)) _
  obtain ⟨rel, quiet, moved⟩ := Dev.pumpOq_stream (d := d) (key := key) (t := t) copy (by rwa [own]) (by rwa [own]) (by rwa [own]) kind opened free
    (by rw [own]; exact le_trans (Nat.add_le_add_left length _) room) (by rwa [own])
  have after : ∀ k m j, Tbl.find? (d.pumpOq key n.toNat).insts k = Option.some j → (j.outq m).cells = [] := fun k m j found => by
    rw [moved, Tbl.find_set] at found
    by_cases moves : (k, m) = (key, n.toNat)
    · obtain ⟨rfl, rfl⟩ := Prod.mk.inj moves
      rw [if_pos rfl] at found
      rw [← Option.some.inj found]
      exact congrArg OutQueue.cells (Tbl.get_set_self ..)
    · by_cases same : k = key
      · rw [if_pos same] at found
        have other : m ≠ n.toNat := fun e => moves (by rw [same, e])
        rw [← Option.some.inj found, Inst.outq, Inst.setOq, Tbl.get_set, if_neg other]
        exact others key m i' copy (by simpa using other)
      · rw [if_neg same] at found
        exact others k m j found moves
  rw [commits, State.onDev, Dev.pump_one (d := d) n.isLt others (List.mem_map_of_mem (Tbl.mem_of_find copy)) after, moved, own]
  refine ⟨_, rfl, rfl, fun valid => quiet (by rwa [own]), ⟨_, Tbl.find_set_self .., rfl⟩, _, Tbl.find_set_self .., ?_, rfl⟩
  exact congrArg OutQueue.cells (Tbl.get_set_self ..)

end

end

/-- Eight lanes of a queue write end their packet together. -/
theorem qwrCells_full (e : Issue) (x : BitVec 5) (eop : Bool) : qwrCells e x eop (List.range 8) =
    (List.range 8).map fun l => { cell := e.snap.gc x.toNat l, eop := eop && l == 7 } := rfl

/-- Settles O9: each plan's run is read off, and a queue write's cells go to the stream in the one delivery after the bundle. -/
theorem programQueuesAreReadAndWritten : Obligations.programQueuesAreReadAndWritten := by
  refine ⟨fun s h key i e turn cl => ⟨fun d n nb k c cs on fresh holds => ?_, fun d n k on fresh holds => ?_,
      fun d n nb full fresh holds => ?_, fun n on => ?_, ?_⟩,
    fun s h key i e x n wt eop turn cl => ⟨fun none => ⟨fun k on => ?_, fun on => ?_⟩,
      fun t dest stream kind opened free room => ⟨fun k on => ?_, fun full => ?_⟩⟩⟩
  · exact congrArg _ (qrd1_issued turn cl on fresh holds)
  · refine congrArg _ ((qrd1_empty turn cl on fresh holds).trans ?_)
    simp only [Inst.closed, Issue.regsAfter, ← BitVec.or_assoc]
    rfl
  · refine ⟨_, congrArg _ (qrd8_issued turn cl full fresh holds), Regs.fillC_frame _ _ _ _, fun m l hl => ?_⟩
    rw [Regs.gc_fillC hl _ _ fun k => List.mem_range.1]
    refine ite_congr (by simp [hl]) (fun _ => ?_) fun _ => rfl
    have lane : l < ((i.inq n.toNat).cells.map (·.cell)).length := by simp; omega
    rw [List.map_take, List.getElem?_take_of_lt hl, List.getElem?_eq_getElem lane]
    rfl
  · exact congrArg _ (qflush_issued turn cl on)
  · exact congrArg _ (lfence_issued turn cl)
  · refine congrArg _ ((qwr_dropped (lanes := false) turn cl none on).trans ?_)
    simp only [Inst.closed, Issue.regsAfter, ← BitVec.or_assoc]
    rfl
  · refine congrArg _ ((qwr_dropped (lanes := true) turn cl none (lanes_on on)).trans ?_)
    simp only [Inst.closed, Issue.regsAfter, ← BitVec.or_assoc]
    rfl
  · obtain ⟨d', ran, reached⟩ := qwr_reaches (lanes := false) (sel := fun _ => [k.toNat]) (x := x) (wt := wt) (eop := eop)
      turn cl on dest stream kind opened free room (cells := [{ cell := e.snap.gc x.toNat k.toNat, eop }]) (by simp [qwrCells])
      (by simp) (by simp)
    exact ⟨d', congrArg _ ran, reached⟩
  · obtain ⟨d', ran, reached⟩ := qwr_reaches (lanes := true) (sel := lanesOf) (x := x) (wt := wt) (eop := eop)
      turn cl (by rw [full]; rfl) dest stream kind opened free room (by rw [full, lanesOf_full, qwrCells_full])
      (by rw [full, lanesOf_full]; decide) (by rw [full, lanesOf_full]; rfl)
    exact ⟨d', congrArg _ ran, reached⟩

end Sys2Proof.Machine
end

section
namespace Sys2Proof.Machine

/-! What an occurrence reaches (R118, R562, R858). -/

/-- What the rest of a delivery leaves alone: the copies, the Crates, the occurrences of the tick, and all that is raised already. -/
structure Dev.KeepsDelivered (d d' : Dev) : Prop where
  insts : d'.insts = d.insts
  live : d'.hlk.live = d.hlk.live
  arrivals : d'.hlk.arrivals = d.hlk.arrivals
  arriveTick : d'.hlk.arriveTick = d.hlk.arriveTick
  raised : d.raised.length ≤ d'.raised.length

namespace Dev.KeepsDelivered
variable {d d' d'' : Dev}

theorem refl (d : Dev) : d.KeepsDelivered d := ⟨rfl, rfl, rfl, rfl, le_rfl⟩

theorem trans (a : d.KeepsDelivered d') (b : d'.KeepsDelivered d'') : d.KeepsDelivered d'' :=
  ⟨b.insts.trans a.insts, b.live.trans a.live, b.arrivals.trans a.arrivals, b.arriveTick.trans a.arriveTick, a.raised.trans b.raised⟩

theorem foldl {α : Type} {f : Dev → α → Dev} (h : ∀ d a, Dev.KeepsDelivered d (f d a)) :
    ∀ (l : List α) (d : Dev), d.KeepsDelivered (l.foldl f d)
  | [], d => refl d
  | a :: l, d => (h d a).trans (foldl h l _)

theorem ite {p : Prop} [Decidable p] (a : d.KeepsDelivered d') (b : d.KeepsDelivered d'') : d.KeepsDelivered (if p then d' else d'') := by
  split
  · exact a
  · exact b

theorem onTrig (p : Nat) (f : Trg → Trg) : d.KeepsDelivered (d.onTrig p f) := ⟨rfl, rfl, rfl, rfl, le_rfl⟩
theorem onMon (f : Mon → Mon) : d.KeepsDelivered (d.onMon f) := ⟨rfl, rfl, rfl, rfl, le_rfl⟩
theorem onSeq (k : Nat) (f : MonSeq → MonSeq) : d.KeepsDelivered (d.onSeq k f) := onMon _
theorem onBarrel (b : Nat) (f : Barrel → Barrel) : d.KeepsDelivered (d.onBarrel b f) := ⟨rfl, rfl, rfl, rfl, le_rfl⟩

theorem vector (v : Nat) : d.KeepsDelivered (d.vector v) := by
  rw [Dev.vector_frame]; exact ⟨rfl, rfl, rfl, rfl, le_rfl⟩

theorem log (r : Report) : d.KeepsDelivered (d.log r) := by
  rw [Dev.log_frame]; exact ⟨rfl, rfl, rfl, rfl, le_rfl⟩

theorem trgErr (p b sev : Nat) : d.KeepsDelivered (d.trgErr p b sev) :=
  (ite (refl d) (log _)).trans (onTrig ..)

theorem placeOuter (p c : Nat) (time : Stamp) (level value : Bool) : d.KeepsDelivered (d.placeOuter p c time level value) :=
  ite ((onTrig ..).trans (trgErr ..)) ((ite ((onTrig ..).trans (trgErr ..)) (refl d)).trans (onTrig ..))

theorem trgEvent (id : BitVec 12) (reach : Option Nat) : d.KeepsDelivered (d.trgEvent id reach) := by
  refine foldl (fun d p => ite (refl d) (.trans (foldl (fun d c => ?_) _ d) (onTrig ..))) _ d
  exact ite (placeOuter ..) (refl d)

theorem hkcEvt (i : Nat) : d.KeepsDelivered (d.hkcEvt i) := by
  have noted : d.KeepsDelivered { d with hkc := { d.hkc with evtStat := setBit d.hkc.evtStat i true } } := ⟨rfl, rfl, rfl, rfl, le_rfl⟩
  exact ite (noted.trans (vector 2)) noted

theorem monInt (i : Nat) : d.KeepsDelivered (d.monInt i) :=
  ite ((onMon _).trans (hkcEvt 1)) (onMon _)

theorem seqRun : d.KeepsDelivered d.seqRun := by
  unfold Dev.seqRun
  refine ite (refl d) ?_
  split
  · exact onSeq ..
  · exact refl d

theorem seqDelay (k dly : Nat) : d.KeepsDelivered (d.seqDelay k dly) :=
  ite ((onSeq ..).trans ((onSeq ..).trans seqRun)) (onSeq ..)

theorem seqStart (k : Nat) : d.KeepsDelivered (d.seqStart k) := by
  unfold Dev.seqStart
  split
  · exact refl d
  · exact ite (refl d) (ite (seqDelay ..) (ite ((onSeq ..).trans (monInt _)) (onSeq ..)))

theorem monEvent (e : EventOcc) : d.KeepsDelivered (d.monEvent e) := by
  refine ite (refl d) (.trans (foldl (fun d k => ?_) _ d) (foldl (fun d k => ?_) _ _))
  · split
    · exact ite (onMon _) (refl d)
    · exact refl d
  · split
    · exact ite (seqStart _) (refl d)
    · exact refl d

theorem barEvent (b kind : Nat) (t : Stamp) : d.KeepsDelivered (d.barEvent b kind t) :=
  ⟨rfl, rfl, rfl, rfl, by simp [Dev.barEvent, Dev.raise]⟩

theorem barAccept (b : Nat) (t : Int) (time : Stamp) (S : Nat) (flag : BitVec 6) : d.KeepsDelivered (d.barAccept b t time S flag) :=
  (onBarrel ..).trans (barEvent ..)

theorem barTake (b : Nat) (t : Int) (time : Stamp) : d.KeepsDelivered (d.barTake b t time) := by
  refine ite (refl d) ?_
  split
  · exact refl d
  · exact refl d
  · exact refl d
  · exact ite (barAccept ..) (onBarrel ..)
  · exact barAccept ..
  · exact ite (onBarrel ..) (ite (onBarrel ..) (onBarrel ..))

theorem barOccurrence (b : Nat) (e : EventOcc) : d.KeepsDelivered (d.barOccurrence b e) := by
  refine ite (refl d) ?_
  split
  · exact onBarrel ..
  · exact barTake ..

end Dev.KeepsDelivered

/-! The occurrence itself. -/

theorem Tbl.find_map {α : Type} (f : α → α) (t : Tbl α) (k : Nat) :
    Tbl.find? (t.map fun x => (x.1, f x.2)) k = (Tbl.find? t k).map f := by
  induction t with
  | nil => rfl
  | cons p t ih =>
    simp only [List.map_cons, Tbl.find?, ih]
    split <;> rfl

/-- One entry of a copy's subscriptions after an occurrence (R562). -/
def EvEntry.told (x : EvEntry) (e : EventOcc) : EvEntry :=
  if bit x.sel 12 = true ∧ fld x.sel 0 12 = e.id.toNat ∧ x.count ≠ 255 then { x with count := x.count + 1, last := e.time } else x

/-- What one of a copy's entries makes of the occurrence. -/
def Inst.eventAt (i : Inst) (e : EventOcc) (k : Nat) : Inst :=
  let x := i.entry k
  if !bit x.sel 12 ∨ fld x.sel 0 12 ≠ e.id.toNat then i
  else if x.count = 255 then { i with regs := { i.regs with flags := i.regs.flags ||| flagEvovf } }
  else { i with ev := Tbl.set i.ev k { x with count := x.count + 1, last := e.time } }

/-- One entry takes the occurrence; the others stay. -/
theorem Inst.entry_eventAt (i : Inst) (e : EventOcc) (k n : Nat) :
    (i.eventAt e k).entry n = if n = k then (i.entry k).told e else i.entry n := by
  have kept : (i.entry k).told e = i.entry k → i.entry n = if n = k then (i.entry k).told e else i.entry n := fun same => by
    by_cases here : n = k
    · rw [if_pos here, same, here]
    · rw [if_neg here]
  unfold Inst.eventAt
  dsimp only
  split
  · rename_i other
    exact kept (if_neg fun ⟨on, mine, _⟩ => by simp [on, mine] at other)
  · rename_i mine
    split
    · rename_i full
      exact kept (if_neg fun ⟨_, _, room⟩ => room full)
    · rename_i room
      obtain ⟨on, same⟩ : bit (i.entry k).sel 12 = true ∧ fld (i.entry k).sel 0 12 = e.id.toNat := by simpa using mine
      have told : (i.entry k).told e = { i.entry k with count := (i.entry k).count + 1, last := e.time } := if_pos ⟨on, same, room⟩
      rw [told]
      exact Tbl.get_set ..

theorem Inst.entry_eventAt_foldl (e : EventOcc) (n : Nat) : ∀ (l : List Nat) (i : Inst), l.Nodup →
    (l.foldl (fun i k => i.eventAt e k) i).entry n = if n ∈ l then (i.entry n).told e else i.entry n
  | [], _, _ => rfl
  | k :: l, i, once => by
    obtain ⟨fresh, once⟩ := List.nodup_cons.1 once
    rw [List.foldl_cons, entry_eventAt_foldl e n l _ once, entry_eventAt]
    by_cases same : n = k
    · subst same; simp [fresh]
    · simp [same]

/-- R562: every one of a copy's eight entries takes the occurrence. -/
theorem Inst.entry_event (i : Inst) (e : EventOcc) {n : Nat} (h : n < 8) : (i.event e).entry n = (i.entry n).told e :=
  (entry_eventAt_foldl e n _ i List.nodup_range).trans (if_pos (List.mem_range.2 h))

/-- R118: the dependencies of a waiting Crate after an occurrence without a session of its own. -/
theorem eventDeps_live {d : Dev} {e : EventOcc} (wide : e.reach = none) {uid : Nat} {c : Live} (here : d.live? uid = some c)
    (waits : c.phase = .waiting) :
    (d.eventDeps e).live? uid = some { c with deps := c.deps.map fun x => if x = Dep.event e.id then Dep.met else x } := by
  have settled : (e.reaches c.session && c.phase == Phase.waiting) = true := by simp [EventOcc.reaches, wide, waits]
  have found : (d.eventDeps e).live? uid = (d.live? uid).map fun c => if (e.reaches c.session && c.phase == Phase.waiting) = true then
      { c with deps := c.deps.map fun x => if x = Dep.event e.id then Dep.met else x } else c := by
    unfold Dev.live? Dev.eventDeps mapIf
    rw [List.find?_map]
    congr 2
    funext c
    simp only [Function.comp]
    split <;> rfl
  rw [found, here, Option.map_some, if_pos settled]

theorem exec_eventArrival (k : BitVec 16) (s : State) : exec (.eventArrival k) s = .next (s.onDev fun d =>
    match d.raised[k.toNat]? with
    | none => d
    | some e => ({ d with raised := d.raised.eraseIdx k.toNat }).arrive e) := rfl

/-- R118, R562, R858: what a delivery with no session of its own does. -/
theorem arrive_reaches {d : Dev} {e : EventOcc} (wide : e.reach = none) :
    d.raised.length ≤ (d.arrive e).raised.length ∧ e ∈ (d.arrive e).hlk.arrivals ∧ (d.arrive e).hlk.arriveTick = d.tim.ticks ∧
    (∀ key i, Tbl.find? d.insts key = some i → Tbl.find? (d.arrive e).insts key = some (i.event e)) ∧
    ∀ uid c, d.live? uid = some c → c.phase = .waiting → (d.arrive e).live? uid =
      some { c with deps := c.deps.map fun x => if x = Dep.event e.id then Dep.met else x } := by
  let d₁ : Dev := { d with insts := d.insts.map fun x => (x.1, if e.reaches x.2.session then x.2.event e else x.2) }
  have steps : d.arrive e = (List.range 16).foldl (fun d b => d.barOccurrence b e) (((d₁.eventDeps e).trgEvent e.id e.reach).monEvent e) := rfl
  have kept : (d₁.eventDeps e).KeepsDelivered (d.arrive e) := by
    rw [steps]
    exact (Dev.KeepsDelivered.trgEvent ..).trans ((Dev.KeepsDelivered.monEvent e).trans
      (Dev.KeepsDelivered.foldl (fun d b => Dev.KeepsDelivered.barOccurrence b e) _ _))
  have raised : (d₁.eventDeps e).raised = d.raised := rfl
  have tick : (d₁.eventDeps e).hlk.arriveTick = d.tim.ticks := rfl
  refine ⟨(congrArg List.length raised).symm.trans_le kept.raised, ?_, kept.arriveTick.trans tick, fun key i found => ?_, fun uid c here waits => ?_⟩
  · rw [kept.arrivals]
    simp only [Dev.eventDeps, List.mem_append, List.mem_singleton, or_true]
  · rw [kept.insts]
    refine (Tbl.find_map (fun i => if e.reaches i.session then i.event e else i) d.insts key).trans ?_
    rw [found, Option.map_some, if_pos (by simp [EventOcc.reaches, wide])]
  · rw [Dev.live?, kept.live]
    exact eventDeps_live (d := d₁) wide here waits

/-! A producer's write into a stream (R20, R66, R68, R71). -/

section
variable {x t : Stream} {c : QCell} {sid : Nat}

theorem Stream.accept_room (gap : t.gapNext = false) (room : t.queue.length < 16384) : t.accept [c] = { t with queue := t.queue ++ [c.clean] } := by
  simp only [Stream.accept, List.foldl_cons, List.foldl_nil, if_neg (Nat.not_le.2 room), gap, Bool.false_eq_true, if_false]

theorem Stream.accept_gap (gap : t.gapNext = true) (room : t.queue.length < 16384) :
    t.accept [c] = { t with queue := t.queue ++ [{ c with cell := { c.cell with tag := tagGap } }], gapNext := false } := by
  simp only [Stream.accept, List.foldl_cons, List.foldl_nil, if_neg (Nat.not_le.2 room), gap, if_true]

theorem Stream.accept_full (full : 16384 ≤ t.queue.length) :
    t.accept [c] = { t with overrun := true, gapNext := true, lost := t.lost + 1, lostFrame := t.lostFrame + 1 } :=
  if_pos full

/-- One stream replaced. -/
def Dev.putStream (d : Dev) (sid : Nat) (t : Stream) : Dev := { d with mov := { d.mov with streams := Tbl.set d.mov.streams sid t } }

theorem Dev.onStream_eq {d : Dev} (here : Tbl.find? d.mov.streams sid = some t) (f : Stream → Stream) : d.onStream sid f = d.putStream sid (f t) := by
  rw [Dev.onStream, here]; rfl

/-- The record of cells with a reserved tag, where there is one (R20). -/
theorem Dev.noteTags_one {d : Dev} {domain : BitVec 16} {src : BitVec 8} {session : Nat} : d.noteTags [c] domain src session =
    if tagReserved c.cell.tag then d.log { code := .ok, sev := 0, domain, src, session } else d := by
  simp [Dev.noteTags]

/-- A write into a stream that was not just overrun: the stream takes the cell, and a reserved tag is noted. -/
theorem queueWrite_taken {d : Dev} (here : Tbl.find? d.mov.streams sid = some t) (same : (t.accept [c]).overrun = t.overrun) :
    d.queueWrite (.stream sid) c = (d.putStream sid (t.accept [c])).noteTags [c] (domMover t.mover) srcMov t.session := by
  simp only [Dev.queueWrite, here, Dev.onStream_eq here, same]
  simp

/-- The first cell that a full queue loses is reported (R68). -/
theorem queueWrite_lost {d : Dev} (here : Tbl.find? d.mov.streams sid = some t) (full : 16384 ≤ t.queue.length)
    (valid : tagReserved c.cell.tag = false) : d.queueWrite (.stream sid) c = if t.overrun then d.putStream sid (t.accept [c]) else
      (d.putStream sid (t.accept [c])).log { code := .ok, sev := 2, domain := domMover t.mover, src := srcMov, session := t.session, detail := sid } := by
  have lost : (t.accept [c]).overrun = true := by rw [Stream.accept_full full]
  simp only [Dev.queueWrite, here, Dev.onStream_eq here, lost, Dev.noteTags_one, valid]
  cases t.overrun <;> simp

/-- The write changed one stream, and at most REL, the messages to the host and the pending vectors besides. -/
def StreamHolds (s : State) (sid : Nat) (t : State) (y : Stream) : Prop :=
  Tbl.find? t.dev.mov.streams sid = some y ∧
    (∀ k, k ≠ sid → Tbl.find? t.dev.mov.streams k = Tbl.find? s.dev.mov.streams k) ∧
    t = { s with dev := { s.dev with mov := { s.dev.mov with streams := t.dev.mov.streams }, rel := t.dev.rel, host := t.dev.host
                                     hlk := { s.dev.hlk with msiPending := t.dev.hlk.msiPending } } }

theorem StreamHolds.put (s : State) (y : Stream) : StreamHolds s sid (s.onDev fun d => d.putStream sid y) y :=
  ⟨Tbl.find_set_self .., fun _ ne => Tbl.find_set_ne ne, rfl⟩

theorem StreamHolds.log (s : State) (y : Stream) (r : Report) : StreamHolds s sid (s.onDev fun d => (d.putStream sid y).log r) y := by
  rw [State.onDev, Dev.log_frame]
  exact ⟨Tbl.find_set_self .., fun _ ne => Tbl.find_set_ne ne, rfl⟩

/-- A queue that was emptied and then written. -/
theorem StreamHolds.flushed (s : State) (y z : Stream) (r : Report) :
    StreamHolds s sid (s.onDev fun d => ((d.putStream sid z).log r).putStream sid y) y := by
  rw [State.onDev, Dev.log_frame]
  exact ⟨Tbl.find_set_self .., fun _ ne => (Tbl.find_set_ne ne).trans (Tbl.find_set_ne ne), rfl⟩

theorem exec_queueWrite (cell : Cell) (time : BitVec 72) (eop : Bool) (s : State) :
    exec (.queueWrite (.stream sid) false cell time eop) s = .next (s.onDev fun d => d.queueWrite (.stream sid) { cell, time, eop }) := rfl

theorem exec_queueWrite_mismatch (cell : Cell) (time : BitVec 72) (eop : Bool) (s : State) :
    exec (.queueWrite (.stream sid) true cell time eop) s =
      .next ((s.pointerMismatch (.stream sid)).onDev fun d => d.queueWrite (.stream sid) { cell, time, eop }) := rfl

/-- The record of a cell with a reserved tag (R20), and that of the first cell lost (R68). -/
def tagReport (x : Stream) : Report := { code := .ok, sev := 0, domain := domMover x.mover, src := srcMov, session := x.session }
def lossReport (x : Stream) (sid : Nat) : Report :=
  { code := .ok, sev := 2, domain := domMover x.mover, src := srcMov, session := x.session, detail := sid }

/-- The record of a queue whose pointers differ (R66, R780). -/
def mismatchReport (x : Stream) : Report :=
  { code := .internal, sev := 3, domain := domMover x.mover, src := srcMov, session := x.session, detail := x.queue.length }

/-- R66, R71: a queue whose pointers differ is emptied and reported; its domain had no error before, so that nothing escalates. -/
theorem pointerMismatch_stream {s : State} (here : Tbl.find? s.dev.mov.streams sid = some x)
    (calm : (Tbl.get {} s.dev.rel.domains (domMover x.mover).toNat).outstanding = false) :
    s.pointerMismatch (.stream sid) = s.onDev fun d => (d.putStream sid x.flush).log (mismatchReport x) := by
  have stays : (s.dev.putStream sid x.flush).escalates (mismatchReport x) false = false := by
    simp only [Dev.escalates, Dev.putStream, mismatchReport, calm, Bool.or_self, Bool.and_false]
  simp only [State.pointerMismatch, here, State.onDev, Dev.onStream_eq here, State.report]
  exact if_pos (by rw [← mismatchReport, stays]; rfl)

end

/-- Settles O34: what a delivery does after the copies and Crates leaves both alone; a write into a stream is one of its three cases. -/
theorem eventsAndProducersReachTheirQueues : Obligations.eventsAndProducersReachTheirQueues := by
  refine ⟨fun s k e raised wide => ?_, fun s sid x cell time eop here => ⟨fun gap room => ⟨fun valid => ?_, fun reserved queue => ?_⟩,
    fun valid full => ?_, fun valid kind queue calm => ?_⟩⟩
  · have ran : exec (.eventArrival k) s = .next { s with dev := ({ s.dev with raised := s.dev.raised.eraseIdx k.toNat } : Dev).arrive e } := by
      rw [exec_eventArrival, State.onDev, raised]
    obtain ⟨more, arrived, tick, told, met⟩ := arrive_reaches (d := { s.dev with raised := s.dev.raised.eraseIdx k.toNat }) wide
    generalize ({ s.dev with raised := s.dev.raised.eraseIdx k.toNat } : Dev).arrive e = d' at *
    have one := List.length_eraseIdx_add_one (List.getElem?_eq_some_iff.1 raised).1
    exact ⟨_, ran, rfl, one ▸ Nat.succ_le_succ more, arrived, tick,
      fun key i found => ⟨_, told key i found, fun n lt => i.entry_event e lt⟩, fun uid c found waits => ⟨_, met uid c found waits, waits, rfl⟩⟩
  · have taken := Stream.accept_room (c := { cell, time, eop }) gap room
    have ran := queueWrite_taken here (c := { cell, time, eop }) (by rw [taken])
    rw [taken, Dev.noteTags_one, if_neg (by simp [valid]), QCell.clean, if_neg (by simp [valid])] at ran
    exact ⟨_, (exec_queueWrite ..).trans (by rw [State.onDev, ran]; rfl), StreamHolds.put s _, rfl⟩
  · have taken := Stream.accept_room (c := { cell, time, eop }) gap room
    have ran := queueWrite_taken here (c := { cell, time, eop }) (by rw [taken])
    rw [taken, Dev.noteTags_one, if_pos reserved, QCell.clean, if_pos reserved] at ran
    exact ⟨_, (exec_queueWrite ..).trans (by rw [State.onDev, ran]; rfl), StreamHolds.log s _ _,
      OneRecord.of_log queue (d := s.dev.putStream _ _) (r := tagReport x) rfl rfl rfl (by decide : 0 < 4)⟩
  · have ran := queueWrite_lost here (c := { cell, time, eop }) full valid
    rw [Stream.accept_full full] at ran
    cases before : x.overrun with
    | true =>
      rw [if_pos before] at ran
      exact ⟨_, (exec_queueWrite ..).trans (by rw [State.onDev, ran]; rfl), StreamHolds.put s _, nofun⟩
    | false =>
      rw [if_neg (by simp [before])] at ran
      exact ⟨_, (exec_queueWrite ..).trans (by rw [State.onDev, ran]; rfl), StreamHolds.log s _ _,
        fun _ queue => OneRecord.of_log queue (d := s.dev.putStream _ _) (r := lossReport x sid.toNat) rfl rfl rfl (by decide : 2 < 4)⟩
  · have gap : x.flush.gapNext = true := beq_iff_eq.2 kind
    have taken := Stream.accept_gap (c := { cell, time, eop }) gap (by simp [Stream.flush])
    let d := (s.dev.putStream sid.toNat x.flush).log (mismatchReport x)
    have frame : d = { s.dev.putStream sid.toNat x.flush with rel := d.rel, host := d.host, hlk := { s.dev.hlk with msiPending := d.hlk.msiPending } } :=
      Dev.log_frame ..
    have there : Tbl.find? d.mov.streams sid.toNat = some x.flush := by rw [frame]; exact Tbl.find_set_self ..
    have ran := queueWrite_taken there (c := { cell, time, eop }) (by rw [taken])
    rw [taken, Dev.noteTags_one, if_neg (by simp [valid])] at ran
    exact ⟨_, (exec_queueWrite_mismatch ..).trans (by rw [pointerMismatch_stream here calm, State.onDev, State.onDev, ran]; rfl),
      StreamHolds.flushed s _ x.flush (mismatchReport x), 
      OneRecord.of_log queue (d := s.dev.putStream _ _) (r := mismatchReport x) rfl rfl rfl (by decide : 3 < 4)⟩

end Sys2Proof.Machine
end

section
namespace Sys2Proof.Machine

/-! The density unit's state (R483 to R503). -/

section
variable (d : Dev) (p : Nat)

theorem Dev.dens_onDen_ne {p k : Nat} (h : k ≠ p) (f : Den → Den) : (d.onDen p f).dens k = d.dens k :=
  (Tbl.get_upd ..).trans (if_neg h)

@[simp] theorem Dev.dens_onDen (f : Den → Den) : (d.onDen p f).dens p = f (d.dens p) := Tbl.get_upd_self ..

@[simp] theorem Den.plane_onPlane (e : Den) (i : Nat) (f : DenPlane → DenPlane) : (e.onPlane i f).plane i = f (e.plane i) := Tbl.get_upd_self ..

@[simp] theorem Dev.dens_onPlane (i : Nat) (f : DenPlane → DenPlane) : (d.onPlane p i f).dens p = (d.dens p).onPlane i f := dens_onDen ..

/-- One function of all planes of a list. -/
def Den.onPlanes (e : Den) (l : List Nat) (f : DenPlane → DenPlane) : Den := l.foldl (fun e i => e.onPlane i f) e

theorem Den.onPlanes_frame (f : DenPlane → DenPlane) (l : List Nat) : ∀ e : Den, e.onPlanes l f = { e with planes := (e.onPlanes l f).planes } := by
  induction l with
  | nil => exact fun _ => rfl
  | cons i l ih => exact fun e => ih (e.onPlane i f)

theorem Den.plane_onPlanes {f : DenPlane → DenPlane} {k : Nat} : ∀ (l : List Nat) (e : Den), l.Nodup →
    (e.onPlanes l f).plane k = if k ∈ l then f (e.plane k) else e.plane k
  | [], _, _ => rfl
  | i :: l, e, once => by
    obtain ⟨fresh, once⟩ := List.nodup_cons.1 once
    have step : (e.onPlane i f).plane k = if k = i then f (e.plane i) else e.plane k := Tbl.get_upd ..
    rw [show e.onPlanes (i :: l) f = (e.onPlane i f).onPlanes l f from rfl, plane_onPlanes l _ once, step]
    by_cases same : k = i
    · subst same; simp [fresh]
    · simp [same]

/-- The same, over the device. -/
def Dev.onPlanes (l : List Nat) (f : DenPlane → DenPlane) : Dev := l.foldl (fun d i => d.onPlane p i f) d

theorem Dev.onPlanes_frame (f : DenPlane → DenPlane) (l : List Nat) : ∀ d : Dev, d.onPlanes p l f = { d with den := (d.onPlanes p l f).den } := by
  induction l with
  | nil => exact fun _ => rfl
  | cons i l ih => exact fun d => ih (d.onPlane p i f)

theorem Dev.dens_onPlanes (f : DenPlane → DenPlane) (l : List Nat) : ∀ d : Dev, (d.onPlanes p l f).dens p = (d.dens p).onPlanes l f := by
  induction l with
  | nil => exact fun _ => rfl
  | cons i l ih => exact fun d => (ih (d.onPlane p i f)).trans (by rw [Dev.dens_onPlane]; rfl)

end

/-! The tally's record (R25, R377 to R379, R493). -/

section
variable {s : State} {p : Fin 4} {c : List (BitVec 36)}

/-- The record that a tally writes: four header cells and a count for each bin. -/
def Den.tallyCells (e : Den) (x : OccRec) : List Cell :=
  ([BitVec.ofNat 36 e.oTime.toNat, BitVec.ofNat 36 (e.oTime.toNat / 2 ^ 36), e.oSeq, BitVec.ofNat 36 e.oN].map fun v =>
      ({ data := v, tag := tagHeader } : Cell)) ++
    (List.range x.cnt).map fun i => { data := BitVec.ofNat 36 ((e.oTally[i]?).getD 0) }

/-- The tally starts anew. -/
def Dev.clearTally (d : Dev) (p : Nat) : Dev := d.onDen p fun e => { e with oN := 0, oTally := [] }

theorem exec_occupancyRecord_short (record : s.dev.rec? (denUnit p) 2 = some c) (short : (s.dev.dens p).oN < (OccRec.of c).count) :
    exec (.occupancyRecord p) s = .next s := by
  show execOccupancyRecord p s = .next s
  simp only [execOccupancyRecord, record, if_neg (Nat.not_le.2 short)]

theorem exec_occupancyRecord (record : s.dev.rec? (denUnit p) 2 = some c) (full : (OccRec.of c).count ≤ (s.dev.dens p).oN) :
    exec (.occupancyRecord p) s = .next (s.closeOcc p) := by
  show execOccupancyRecord p s = .next (s.closeOcc p)
  simp only [execOccupancyRecord, record, if_pos full]

/-- R378: a Loft ring with a free record takes one. -/
theorem ringPut_loft {session : Nat} {q : Dest} {cells : List Cell} {bytes : List Byte} (kind : q.kind = 1)
    (room : ((s.mem.loftGet q.idx).data.toNat + 2 ^ 36 - (s.mem.loftGet (q.idx + 1)).data.toNat) % 2 ^ 36 < q.nrec) :
    s.ringPut session q cells bytes = (s.onMem fun m => (m.loftPutRun (q.base + (s.mem.loftGet q.idx).data.toNat % q.nrec * cells.length) cells).loftPut
      q.idx { data := BitVec.ofNat 36 ((s.mem.loftGet q.idx).data.toNat + 1) }, .written) := by
  have one : max q.nrec 1 = q.nrec := by omega
  simp only [State.ringPut, State.ringCounts, kind, Nat.one_ne_zero, if_false, ge_iff_le, Nat.not_le.2 room, false_and, one, if_true]
  rfl

/-- R379: a full ring that may not be overwritten takes nothing. -/
theorem ringPut_full {session : Nat} {q : Dest} {cells : List Cell} {bytes : List Byte} (kind : q.kind = 1)
    (full : q.nrec ≤ ((s.mem.loftGet q.idx).data.toNat + 2 ^ 36 - (s.mem.loftGet (q.idx + 1)).data.toNat) % 2 ^ 36) (keep : q.ovw = false) :
    s.ringPut session q cells bytes = (s, .full) := by
  simp only [State.ringPut, State.ringCounts, kind, Nat.one_ne_zero, if_false, ge_iff_le, full, keep, Bool.not_false, and_self, if_true]

/-- A tally with a record to write. -/
structure TallyCloses (s : State) (p : Fin 4) (c : List (BitVec 36)) : Prop where
  record : s.dev.rec? (denUnit p) 2 = some c
  full : (OccRec.of c).count ≤ (s.dev.dens p).oN
  some : (s.dev.dens p).oN ≠ 0
  going : (s.dev.dens p).oStopped = false

/-- What follows the ring's answer. -/
def State.tallyEnds (s : State) (p owner : Nat) : RingEnd → State
  | .written => s
  | .full => s.onDev fun d => d.denErr p 1 2
  | .fault => s.onDev fun d => (d.onDen p fun e => { e with oStopped := true, err := setBit e.err 2 true }).log
      { code := .grantFault, sev := 2, domain := d.portDom p, src := BitVec.ofNat 8 (denUnit p), cause := 2, session := owner }

theorem TallyCloses.ends (t : TallyCloses s p c) {s' : State} {r : RingEnd} (put : ∀ bytes, (s.onDev fun d => d.clearTally p).ringPut
    (s.dev.dens p).oOwner (OccRec.of c).dest ((s.dev.dens p).tallyCells (OccRec.of c)) bytes = (s', r)) :
    exec (.occupancyRecord p) s = .next (s'.tallyEnds p (s.dev.dens p).oOwner r) := by
  have still : (s.onDev fun d => d.clearTally p).dev.rec? (denUnit p) 2 = Option.some c := t.record
  rw [exec_occupancyRecord t.record t.full, State.closeOcc]
  simp only [Dev.clearTally, Den.tallyCells, stampCells] at still put ⊢
  simp only [still, t.some, t.going, Bool.false_eq_true, or_self, if_false, List.cons_append, List.nil_append] at put ⊢
  rw [put]
  cases r <;> rfl

/-- R859: an error bit of the density unit changes its register, and REL where the bit rises. -/
theorem Dev.denErr_frame (d : Dev) (p b sev : Nat) : d.denErr p b sev = { d with
    den := (d.onDen p fun e => { e with err := setBit e.err b true }).den, rel := (d.denErr p b sev).rel, host := (d.denErr p b sev).host
    hlk := (d.denErr p b sev).hlk } := by
  unfold Dev.denErr
  split
  · rfl
  · rw [Dev.log_frame]; rfl

end

/-- What the unit shows of its state after an error bit. -/
theorem Dev.dens_denErr (d : Dev) (p b sev k : Nat) :
    (d.denErr p b sev).dens k = (d.onDen p fun e => { e with err := setBit e.err b true }).dens k := by
  rw [Dev.denErr_frame]; rfl

/-! Renders (R495 to R500). -/

/-- Writes of session bytes: the memories, the Stacks' marks of Shelves, host bytes, and readings of the free value. -/
def State.WritesSession (s s' : State) : Prop :=
  s' = { s with mem := s'.mem, dev := { s.dev with stk := s'.dev.stk, host := s'.dev.host, freeCtr := s'.dev.freeCtr } }

theorem State.WritesSession.trans {s s' s'' : State} (a : s.WritesSession s') (b : s'.WritesSession s'') : s.WritesSession s'' := by
  unfold WritesSession at a b ⊢
  rw [b, a]

theorem Dev.touch_frame (d : Dev) (session idx : Nat) : d.touch session idx =
    { d with stk := (d.touch session idx).stk, freeCtr := (d.touch session idx).freeCtr } := by
  unfold Dev.touch
  dsimp only
  split
  · rfl
  · split
    · rfl
    · split <;> rfl

theorem State.WritesSession.touch (s : State) (session idx : Nat) : s.WritesSession (s.onDev fun d => d.touch session idx) := by
  unfold WritesSession
  rw [State.onDev, Dev.touch_frame]

theorem State.sessionPut_writes {session : Nat} : ∀ (fuel a : Nat) (b : List Byte) {s s' : State}, s.sessionPut session fuel a b = some s' →
    s.WritesSession s'
  | 0, a, b, s, s', h => by
    simp only [State.sessionPut] at h
    split at h
    · cases h; rfl
    · cases h
  | fuel + 1, a, b, s, s', h => by
    simp only [State.sessionPut] at h
    split at h
    · cases h; rfl
    · split at h
      · cases h
      · refine .trans ?_ (sessionPut_writes fuel _ _ h)
        refine .trans (State.WritesSession.touch s session (a / shelfBytes)) ?_
        split <;> rfl

theorem State.putWords_writes {session : Nat} : ∀ (l : List (Nat × Nat)) {s s' : State} {b : Bool}, s.putWords session l = (s', b) →
    s.WritesSession s'
  | [], s, s', b, h => by cases h; rfl
  | (a, w) :: l, s, s', b, h => by
    simp only [State.putWords] at h
    split at h
    · cases h; rfl
    · rename_i put
      exact (sessionPut_writes _ _ _ put).trans (putWords_writes l h)

/-- The decays that are due change the density unit alone. -/
theorem Dev.decayDue_frame (d : Dev) (p i : Nat) : d.decayDue p i = { d with den := (d.decayDue p i).den } := by
  unfold Dev.decayDue
  split
  · rfl
  · split
    · rfl
    · dsimp only
      split <;> rfl

/-- One column of a render that runs, with the words it writes. -/
structure RenderColumn (s : State) (p i : Fin 4) (r : DenRender) (s' : State) (all : Bool) : Prop where
  run : (((s.dev.decayDue p i).dens p).plane i).run = some r
  puts : ({ s with dev := s.dev.decayDue p i } : State).putWords r.session
    (((s.dev.decayDue p i).dens p).columnWords r (((s.dev.decayDue p i).dens p).plane i).cnt r.col) = (s', all)

theorem exec_render_one (p i : Fin 4) (s : State) : exec (.render p i 1) s = .next (s.renderColumn p i) := rfl

namespace RenderColumn
variable {s s' : State} {p i : Fin 4} {r : DenRender} {all : Bool}

/-- What a column leaves alone. -/
theorem frame (k : RenderColumn s p i r s' all) : s' = { s with mem := s'.mem, dev := { s.dev with
    den := (s.dev.decayDue p i).den, stk := s'.dev.stk, host := s'.dev.host, freeCtr := s'.dev.freeCtr } } := by
  have w := State.putWords_writes _ k.puts
  unfold State.WritesSession at w
  dsimp only at w
  rw [Dev.decayDue_frame] at w
  exact w

theorem dens (k : RenderColumn s p i r s' all) : s'.dev.dens p = (s.dev.decayDue p i).dens p := by
  rw [k.frame]; rfl

theorem pending (k : RenderColumn s p i r s' all) : s'.pending = s.pending := by rw [k.frame]

theorem rel (k : RenderColumn s p i r s' all) : s'.dev.rel = s.dev.rel := by rw [k.frame]

theorem now (k : RenderColumn s p i r s' all) : s'.dev.now = s.dev.now := by rw [k.frame]; rfl

theorem portDom (k : RenderColumn s p i r s' all) (n : Nat) : s'.dev.portDom n = s.dev.portDom n := by rw [k.frame]; rfl

theorem cmapWaits (k : RenderColumn s p i r s' all) : s'.dev.cmapWaits p = s.dev.cmapWaits p := by
  rw [k.frame]; rfl

theorem more (k : RenderColumn s p i r s' true) (next : r.col + 1 < r.cols) :
    s.renderColumn p i = s'.onDev fun d => d.onPlane p i fun y => { y with run := some { r with col := r.col + 1 } } := by
  obtain ⟨run, puts⟩ := k
  simp only [State.renderColumn, State.onDev, run, puts, next, if_true]

theorem last (k : RenderColumn s p i r s' true) (next : r.cols ≤ r.col + 1) :
    s.renderColumn p i = (s'.onMem fun m => m.loftPut (RenderRec.of r.cells).done
      { m.loftGet (RenderRec.of r.cells).done with data := (m.loftGet (RenderRec.of r.cells).done).data + 1 }).onDev fun d => d.renderEnds p i := by
  obtain ⟨run, puts⟩ := k
  simp only [State.renderColumn, State.onDev, run, puts, Nat.not_lt.2 next, if_false]

end RenderColumn

/-- The end of a render with no colour map waiting. -/
theorem Dev.renderEnds_next {d : Dev} {p i : Nat} (free : d.cmapWaits p = false) :
    d.renderEnds p i = d.onPlane p i fun y => { y with run := y.pend, pend := none } :=
  if_neg (by simp [free])

/-- A render that meets an unmapped Shelf ends, and sets bit 2 of DEN_ERR (R499, R500). -/
def Dev.renderFaulted (d : Dev) (p i : Nat) : Dev :=
  (d.onPlane p i fun y => { y with run := y.pend, pend := none }).onDen p fun e => { e with err := setBit e.err 2 true }

def faultReport (d : Dev) (p : Nat) (r : DenRender) : Report :=
  { code := .grantFault, sev := 2, domain := d.portDom p, src := BitVec.ofNat 8 (denUnit p), cause := 2, session := r.session }

theorem Dev.plane_renderFaulted (d : Dev) (p i : Nat) : ((d.renderFaulted p i).dens p).plane i =
    { (d.dens p).plane i with run := ((d.dens p).plane i).pend, pend := none } := by
  rw [Dev.renderFaulted, Dev.dens_onDen, Dev.dens_onPlane]
  exact Den.plane_onPlane _ i fun y => { y with run := y.pend, pend := none }

theorem Dev.err_renderFaulted (d : Dev) (p i : Nat) : ((d.renderFaulted p i).dens p).err = setBit (d.dens p).err 2 true := by
  rw [Dev.renderFaulted, Dev.dens_onDen, Dev.dens_onPlane]; rfl

theorem Dev.dens_log (d : Dev) (r : Report) (p : Nat) : (d.log r).dens p = d.dens p := by rw [Dev.log_frame]; rfl

namespace RenderColumn
variable {s s' : State} {p i : Fin 4} {r : DenRender}

theorem fault (k : RenderColumn s p i r s' false) (free : s.dev.cmapWaits p = false) :
    s.renderColumn p i = s'.onDev fun d => (d.renderFaulted p i).log (faultReport s.dev p r) := by
  have ends := Dev.renderEnds_next (i := i) (k.cmapWaits.trans free)
  have domain := k.portDom p
  obtain ⟨run, puts⟩ := k
  simp only [State.renderColumn, State.onDev, run, puts, ends, faultReport, ← domain]
  rfl

/-- What a faulted column shows. -/
theorem fault_shows (k : RenderColumn s p i r s' false) (room : s.dev.rel.queue.length < 64) :
    let t := s'.onDev fun d => (d.renderFaulted p i).log (faultReport s.dev p r)
    ((t.dev.dens p).plane i).run = (((s.dev.decayDue p i).dens p).plane i).pend ∧ bit (t.dev.dens p).err 2 = true ∧
      OneRecord s t .grantFault 2 (s.dev.portDom p) := by
  refine ⟨?_, ?_, OneRecord.of_log (d := s'.dev.renderFaulted p i) (r := faultReport s.dev p r) room k.rel k.now rfl (by decide : 2 < 4)⟩
  · rw [State.onDev_dev, Dev.dens_log, Dev.plane_renderFaulted, k.dens]
  · rw [State.onDev_dev, Dev.dens_log, Dev.err_renderFaulted]
    exact bit_setBit_same _ _ _ (by decide : 2 < 4)

end RenderColumn

/-! Colour maps (R500). -/

section
variable {s : State} {p : Fin 4} {q : Shadow}

theorem exec_cmapCommit (p : Fin 4) (s : State) : exec (.cmapCommit p) s = .next (s.onDev fun d => d.cmapCommit p) := rfl

/-- A colour map waits for the renders that run. -/
theorem cmapCommit_waits {d : Dev} (k : Fin 4) (runs : ((d.dens p).plane k).run.isSome = true) : d.cmapCommit p = d := by
  have busy : ((List.range 4).any fun i => ((d.dens p).plane i).run.isSome) = true :=
    List.any_eq_true.2 ⟨k.val, List.mem_range.2 k.isLt, runs⟩
  rw [Dev.cmapCommit]
  exact if_pos busy

/-- The colour map taken from shadow storage, its result, and its entries. -/
def Dev.mapped (d : Dev) (p : Nat) (q : Shadow) : Dev :=
  ((d.onUnit (denUnit p) fun i => { i with shadow := i.shadow.filter fun x => x.typ != 4 }).decideRec (denUnit p) q .ok).onDen p fun e =>
    { e with cmap := Tbl.putRun 0 e.cmap (fld (cellOf q.cells 0) 0 10) ((q.cells.drop 1).map fun v => v.truncate 30) }

theorem cmapCommit_takes {d : Dev} (still : ∀ k : Fin 4, ((d.dens p).plane k).run = none) (waits : d.waiting? (denUnit p) 4 = some q)
    (checked : d.denCheck p q = .ok ()) :
    d.cmapCommit p = (d.mapped p q).onPlanes p (List.range 4) fun y => { y with run := y.pend, pend := none } := by
  have idle : ((List.range 4).any fun i => ((d.dens p).plane i).run.isSome) = false :=
    List.any_eq_false.2 fun k mem => by simp [still ⟨k, List.mem_range.1 mem⟩]
  simp only [Dev.cmapCommit, idle, waits, checked, Bool.false_eq_true, if_false]
  rfl

@[simp] theorem Dev.unit_onUnit (d : Dev) (u : Nat) (f : RecIf → RecIf) : (d.onUnit u f).unit u = f (d.unit u) := Tbl.get_upd_self ..

section
variable {d : Dev} (origin : q.origin = none)
include origin

/-- A record of the register path changes its unit alone, and the density unit its map. -/
theorem Dev.mapped_frame : d.mapped p q = { d with den := (d.mapped p q).den, units := (d.mapped p q).units } := by
  simp only [Dev.mapped, Dev.decideRec, origin]
  rfl

theorem Dev.unit_mapped (go : q.go = (d.unit (denUnit p)).gos) (shown : (d.unit (denUnit p)).result = 0xF) : (d.mapped p q).unit (denUnit p) =
    { d.unit (denUnit p) with shadow := (d.unit (denUnit p)).shadow.filter fun x => x.typ != 4, result := 0 } := by
  have taken : (d.mapped p q).unit (denUnit p) = ((d.onUnit (denUnit p) fun i => { i with shadow := i.shadow.filter fun x => x.typ != 4 }).decideRec
      (denUnit p) q .ok).unit (denUnit p) := rfl
  rw [taken, Dev.decideRec, origin]
  simp only [Dev.unit_onUnit, go, shown, and_self, if_true]
  rfl

theorem Dev.dens_mapped : (d.mapped p q).dens p = { d.dens p with
    cmap := Tbl.putRun 0 (d.dens p).cmap (fld (cellOf q.cells 0) 0 10) ((q.cells.drop 1).map fun v => v.truncate 30) } := by
  rw [Dev.mapped, Dev.dens_onDen, Dev.decideRec, origin]
  rfl

/-- What a colour map leaves once it took force (R500). -/
theorem mapped_shows (go : q.go = (d.unit (denUnit p)).gos) (shown : (d.unit (denUnit p)).result = 0xF) {d' : Dev}
    (frame : d' = { d.mapped p q with den := d'.den })
    (dens : d'.dens p = ((d.mapped p q).dens p).onPlanes (List.range 4) fun y => { y with run := y.pend, pend := none }) :
    d' = { d with den := d'.den, units := d'.units } ∧
      (d'.unit (denUnit p)).shadow = (d.unit (denUnit p)).shadow.filter (fun x => x.typ != 4) ∧ (d'.unit (denUnit p)).result = 0 ∧
      (∀ k : Fin 4, (d'.dens p).plane k = { (d.dens p).plane k with run := ((d.dens p).plane k).pend, pend := none }) ∧
      ∀ k v, q.cells[k + 1]? = some v → Tbl.get 0 (d'.dens p).cmap (fld (cellOf q.cells 0) 0 10 + k) = v.truncate 30 := by
  have units : d'.units = (d.mapped p q).units := (congrArg Dev.units frame).trans rfl
  have unit : d'.unit (denUnit p) = (d.mapped p q).unit (denUnit p) := by rw [Dev.unit, Dev.unit, units]
  rw [Dev.unit_mapped origin go shown] at unit
  rw [Dev.dens_mapped origin] at dens
  refine ⟨?_, by rw [unit], by rw [unit], fun k => ?_, fun k v here => ?_⟩
  · rw [frame, Dev.mapped_frame origin]
  · rw [dens, Den.plane_onPlanes _ _ List.nodup_range, if_pos (List.mem_range.2 k.isLt)]
    rfl
  · obtain ⟨lt, rfl⟩ := List.getElem?_eq_some_iff.1 here
    have inside : k < ((q.cells.drop 1).map fun v => (v.truncate 30 : BitVec 30)).length := by simp; omega
    rw [dens, Den.onPlanes_frame]
    refine (Tbl.get_putRun_in _ _ _ _ _ inside).trans ?_
    simp

end

end

/-- Settles O36: the ring's answer decides the tally's end, one column's writes the render's, and a colour map is one write of its run. -/
theorem talliesAndRendersTakeEffect : Obligations.talliesAndRendersTakeEffect := by
  refine ⟨fun s p c record => ⟨fun short => exec_occupancyRecord_short record short,
      fun full some going kind => ⟨fun room => ?_, fun ring keep => ?_⟩⟩,
    fun s p i => ⟨fun r run => ⟨fun s' puts next => ?_, fun s' puts next free => ?_, fun s' puts free room => ?_⟩,
      fun q still waits origin go shown checked => ?_, fun ⟨k, runs⟩ => ?_⟩⟩
  · have closes : TallyCloses s p c := ⟨record, full, some, going⟩
    exact ⟨_, closes.ends fun bytes => ringPut_loft kind room, rfl, fun k other => Dev.dens_onDen_ne _ other _, Dev.dens_onDen ..⟩
  · have closes : TallyCloses s p c := ⟨record, full, some, going⟩
    refine ⟨_, closes.ends fun bytes => ringPut_full kind ring keep, ?_⟩
    refine ⟨?_, fun k other => ?_, ?_⟩
    · rw [State.tallyEnds, State.onDev, Dev.denErr_frame]
      rfl
    · exact (Dev.dens_denErr ..).trans ((Dev.dens_onDen_ne _ other _).trans (Dev.dens_onDen_ne _ other _))
    · exact (Dev.dens_denErr ..).trans ((Dev.dens_onDen ..).trans (congrArg (fun e : Den => { e with err := setBit e.err 1 true }) (Dev.dens_onDen ..)))
  · have column : RenderColumn s p i r s' true := ⟨run, puts⟩
    refine ⟨_, (exec_render_one p i s).trans (congrArg _ (column.more next)), rfl, ?_, by rw [← column.pending]; rfl⟩
    rw [State.onDev_dev, Dev.dens_onPlane, Den.plane_onPlane, column.dens]
  · have column : RenderColumn s p i r s' true := ⟨run, puts⟩
    refine ⟨_, (exec_render_one p i s).trans (congrArg _ (column.last next)), rfl, ?_, ?_⟩
    · rw [State.onDev_dev, State.onMem_dev, Dev.renderEnds_next (column.cmapWaits.trans free), Dev.dens_onPlane, Den.plane_onPlane, column.dens]
    · rw [← column.pending, State.onDev, State.onMem_dev, Dev.renderEnds_next (column.cmapWaits.trans free)]
      rfl
  · have column : RenderColumn s p i r s' false := ⟨run, puts⟩
    obtain ⟨next, err, record⟩ := column.fault_shows room
    exact ⟨_, (exec_render_one p i s).trans (congrArg _ (column.fault free)), rfl, next, err, record⟩
  · obtain ⟨frame, taken, result, planes, entries⟩ := mapped_shows (d := s.dev) origin go shown (Dev.onPlanes_frame ..) (Dev.dens_onPlanes ..)
    have ran : exec (.cmapCommit p) s = .next { s with dev := _ } :=
      (exec_cmapCommit p s).trans (congrArg (fun d => Host.Outcome.next { s with dev := d }) (cmapCommit_takes still waits checked))
    exact ⟨_, ran, congrArg (fun d => { s with dev := d }) frame, taken, result, planes, entries⟩
  · exact (exec_cmapCommit p s).trans (congrArg (fun d => Host.Outcome.next { s with dev := d }) (cmapCommit_waits k runs))

end Sys2Proof.Machine
end

section
namespace Sys2Proof.Machine

/-! Refresh, self-refresh and retraining (R27, R673 to R680). -/

theorem Cel.pc_of_pcs {c c' : Cel} {p : Nat} {f : CelPc → CelPc} (pcs : c'.pcs = Tbl.upd {} c.pcs p f) : c'.pc p = f (c.pc p) := by
  rw [Cel.pc, pcs]
  exact Tbl.get_upd_self ..

@[simp] theorem Cel.pc_upd (c : Cel) (p : Nat) (f : CelPc → CelPc) :
    ({ c with pcs := Tbl.upd {} c.pcs p f } : Cel).pc p = f (c.pc p) := Cel.pc_of_pcs rfl

@[simp] theorem CelPc.bank_set (x : CelPc) (k : Nat) (b : CelBank) : ({ x with banks := Tbl.set x.banks k b } : CelPc).bank k = b := Tbl.get_set_self ..

/-- A command that changes the Cellar controllers alone. -/
def CelOnly (s : State) (i : Instr) (q : Cel → Prop) : Prop :=
  ∃ t, exec i s = .next t ∧ t = { s with dev := { s.dev with cel := t.dev.cel } } ∧ q t.dev.cel

theorem CelOnly.of_onCel {s : State} {i : Instr} {q : Cel → Prop} {f : Cel → Cel} (ran : exec i s = .next (s.onDev fun d => d.onCel f))
    (shows : q (f s.dev.cel)) : CelOnly s i q := ⟨_, ran, rfl, shows⟩

section
variable {s : State} {pc : Fin 64} {stack : Fin 2}

/-- R673: a bank at the end of a refresh interval. -/
def CelBank.refreshed (b : CelBank) (idle : Bool) : CelBank :=
  if idle ∨ 8 ≤ b.postponed then { b with row := none, postponed := 0 } else { b with postponed := b.postponed + 1 }

theorem refresh_bank {bank : BitVec 6} {idle : Bool} (awake : bit s.dev.cel.selfref (pc / 32) = false) {b : CelBank}
    (after : ((s.dev.cel.pc pc).bank bank.toNat).refreshed idle = b) :
    CelOnly s (.refresh pc bank idle) fun e => (e.pc pc).bank bank.toNat = b := by
  have ran : exec (.refresh pc bank idle) s = .next (s.onDev fun d => if bit d.cel.selfref (pc.val / 32) then d else
      d.onPc pc fun x => { x with banks := Tbl.set x.banks bank.toNat ((x.bank bank.toNat).refreshed idle) }) := rfl
  rw [State.onDev, if_neg (by simp [awake])] at ran
  exact .of_onCel ran (by rw [Cel.pc_upd, CelPc.bank_set, after])

/-- What a table holds after a change of every entry. -/
theorem Tbl.find_mapKey {α : Type} (f : Nat → α → α) (t : Tbl α) (k : Nat) :
    Tbl.find? (t.map fun x => (x.1, f x.1 x.2)) k = (Tbl.find? t k).map (f k) := by
  induction t with
  | nil => rfl
  | cons p t ih =>
    simp only [List.map_cons, Tbl.find?, ih]
    split
    · rename_i same; rw [same]; rfl
    · rfl

/-- A stack's pseudo-channel as self-refresh begins: its queues drained, its banks precharged. -/
def CelPc.rested (x : CelPc) : CelPc := { x with writes := [], banks := x.banks.map fun b => (b.1, { b.2 with row := none }) }

theorem CelPc.row_rested (x : CelPc) (k : Nat) : (x.rested.bank k).row = none := by
  have found : Tbl.find? x.rested.banks k = (Tbl.find? x.banks k).map fun y => { y with row := none } :=
    Tbl.find_mapKey (fun _ (y : CelBank) => { y with row := none }) x.banks k
  rw [CelPc.bank, Tbl.get, found]
  cases Tbl.find? x.banks k <;> rfl

/-- The Cellar controllers as a stack enters self-refresh (R675). -/
def Cel.entered (c : Cel) (stack : Nat) : Cel :=
  { c with
    selfref := setBit c.selfref stack true
    pcs := c.pcs.map fun (p, x) => if p / 32 = stack then (p, x.rested) else (p, x) }

theorem Cel.pcs_entered (c : Cel) (stack : Nat) :
    (c.entered stack).pcs = c.pcs.map fun x => (x.1, if x.1 / 32 = stack then x.2.rested else x.2) :=
  List.map_congr_left fun x _ => by dsimp only; split <;> rfl

theorem Cel.row_entered (c : Cel) {stack p : Nat} (k : Nat) (mine : p / 32 = stack) : (((c.entered stack).pc p).bank k).row = none := by
  have found : Tbl.find? (c.entered stack).pcs p = (Tbl.find? c.pcs p).map fun x => if p / 32 = stack then x.rested else x := by
    rw [Cel.pcs_entered]
    exact Tbl.find_mapKey (fun q (x : CelPc) => if q / 32 = stack then x.rested else x) c.pcs p
  rw [Cel.pc, Tbl.get, found]
  cases Tbl.find? c.pcs p with
  | none => rfl
  | some x => simp only [Option.map_some, if_pos mine, Option.getD_some, CelPc.row_rested]

theorem exec_selfRefreshEntry (s : State) (stack : Fin 2) : exec (.selfRefreshEntry stack) s = .next (s.onDev fun d =>
    if !d.mayRest ∨ !bit d.cel.trained stack ∨ d.cel.wanted stack then d else d.onCel fun c => c.entered stack) := rfl

/-- R674, R675: a stack with nothing to do enters self-refresh. -/
theorem selfRefreshEntry_enters (rests : s.dev.mayRest = true) (trained : bit s.dev.cel.trained stack = true)
    (free : s.dev.cel.wanted stack = false) :
    CelOnly s (.selfRefreshEntry stack) fun e => bit e.selfref stack = true ∧ bit e.selfref (1 - stack) = bit s.dev.cel.selfref (1 - stack) ∧
      ∀ p k, p / 32 = stack.val → ((e.pc p).bank k).row = none := by
  have ran := exec_selfRefreshEntry s stack
  rw [State.onDev, if_neg (by simp [rests, trained, free])] at ran
  refine .of_onCel ran ⟨bit_setBit_same _ _ _ stack.isLt, ?_, fun p k mine => Cel.row_entered _ k mine⟩
  refine (bit_setBit _ _ _ _ (by omega)).trans (if_neg ?_)
  omega

theorem mayRest_of (on : s.dev.cel.srEn = true) (idle : ∀ p ∈ s.dev.barrels, p.2.armed = false)
    (quiet : s.dev.sco.run = false ∧ s.dev.sco.en = false)
    (none : s.dev.cel.mig = none) : s.dev.mayRest = true := by
  have unarmed : (s.dev.barrels.any fun (_, r) => r.armed) = false := List.any_eq_false.2 fun p m => by simp [idle p m]
  simp only [Dev.mayRest, on, unarmed, quiet.1, quiet.2, none]
  rfl

/-- R675: a read that waits keeps its stack awake. -/
theorem selfRefreshEntry_wanted (wanted : s.dev.cel.wanted stack = true) : exec (.selfRefreshEntry stack) s = .next s := by
  rw [exec_selfRefreshEntry, State.onDev, if_pos (by simp [wanted])]

theorem exec_selfRefreshExit (s : State) (stack : Fin 2) : exec (.selfRefreshExit stack) s =
    .next (s.onDev fun d => d.onCel fun c => { c with selfref := setBit c.selfref stack false }).armsAwake := rfl

/-- A Barrel without an ARM under way is left alone. -/
theorem armDone_idle {s : State} {b : Nat} (idle : (s.dev.barrel b).armUid = none) : s.armDone b = s := by
  have same : s.dev.armDone b = s.dev := by unfold Dev.armDone; simp only [idle]
  rw [State.armDone]
  simp only [State.onDev, same, idle]
  rfl

theorem armsAwake_idle {s : State} (idle : ∀ p ∈ s.dev.barrels, p.2.armUid = none) : s.armsAwake = s := by
  have each : ∀ b, s.armDone b = s := fun b => armDone_idle (by
    rw [Dev.barrel, Tbl.get]
    cases found : Tbl.find? s.dev.barrels b with
    | none => rfl
    | some r => exact idle _ (Tbl.mem_of_find found))
  unfold State.armsAwake
  generalize s.dev.barrels.map (·.1) = l
  induction l with
  | nil => rfl
  | cons b l ih => rw [List.foldl_cons, each, ih]

/-- R675, R676: with no ARM waiting, an exit clears its bit alone. -/
theorem selfRefreshExit_idle (idle : ∀ p ∈ s.dev.barrels, p.2.armUid = none) :
    CelOnly s (.selfRefreshExit stack) fun e => e = { s.dev.cel with selfref := setBit s.dev.cel.selfref stack false } := by
  let t := s.onDev fun d => d.onCel fun c => { c with selfref := setBit c.selfref stack false }
  have quiet : t.armsAwake = t := armsAwake_idle idle
  exact .of_onCel ((exec_selfRefreshExit s stack).trans (congrArg _ quiet)) rfl

/-- R679, R680: a retraining ends. -/
theorem retraining_passed (stays : (s.dev.cel.pc pc).retired = false) (awake : bit s.dev.cel.selfref (pc / 32) = false) :
    CelOnly s (.periodicRetraining pc true) fun e => e.pc pc = { s.dev.cel.pc pc with attempts := 0 } := by
  have ran : exec (.periodicRetraining pc true) s = .next (if (s.dev.cel.pc pc).retired ∨ bit s.dev.cel.selfref (pc.val / 32) then s else
      s.onDev fun d => d.onPc pc fun x => { x with attempts := 0 }) := rfl
  rw [if_neg (by simp [stays, awake])] at ran
  exact .of_onCel ran (Cel.pc_upd ..)

theorem retraining_failed (stays : (s.dev.cel.pc pc).retired = false) (awake : bit s.dev.cel.selfref (pc / 32) = false)
    (few : (s.dev.cel.pc pc).attempts < 2) :
    CelOnly s (.periodicRetraining pc false) fun e => e.pc pc = { s.dev.cel.pc pc with attempts := (s.dev.cel.pc pc).attempts + 1 } := by
  let t := s.onDev fun d => d.onPc pc fun x => { x with attempts := min 3 (x.attempts + 1) }
  have ran : exec (.periodicRetraining pc false) s = .next (if (s.dev.cel.pc pc).retired ∨ bit s.dev.cel.selfref (pc.val / 32) then s else
      if 3 ≤ (t.dev.cel.pc pc).attempts then t.celRetire pc false else t) := rfl
  have after : t.dev.cel.pc pc = { s.dev.cel.pc pc with attempts := (s.dev.cel.pc pc).attempts + 1 } :=
    (Cel.pc_upd ..).trans (by rw [min_eq_right (by omega)])
  rw [if_neg (by simp [stays, awake]), after, if_neg (by dsimp only; omega)] at ran
  exact .of_onCel ran after

/-- R27. -/
theorem celCtlLock_locks (served : s.dev.served = true) : CelOnly s .celCtlLock fun e => e = { s.dev.cel with lock := true } := by
  have ran : exec .celCtlLock s = .next (s.onDev fun d => if d.served then d.onCel fun c => { c with lock := true } else d) := rfl
  rw [State.onDev, if_pos served] at ran
  exact .of_onCel ran rfl

end

end Sys2Proof.Machine
end

section
namespace Sys2Proof.Machine

/-! ARMs that met self-refresh (R49, R676). -/

@[simp] theorem Dev.barrel_onBarrel (d : Dev) (b : Nat) (f : Barrel → Barrel) : (d.onBarrel b f).barrel b = f (d.barrel b) := Tbl.get_upd_self ..

@[simp] theorem Dev.barrel_barEvent (d : Dev) (b k n : Nat) (t : Stamp) : (d.barEvent b k t).barrel n = d.barrel n := rfl

theorem Dev.live_onLive (d : Dev) (uid : Nat) {f : Live → Live} (keeps : ∀ c, (f c).uid = c.uid) :
    (d.onLive uid f).live? uid = (d.live? uid).map f := by
  unfold Dev.live? Dev.onLive mapIf
  rw [List.find?_map]
  have same : ((fun c : Live => c.uid == uid) ∘ fun x => if (x.uid == uid) = true then f x else x) = fun c => c.uid == uid := by
    funext x
    simp only [Function.comp]
    split
    · rw [keeps]
    · rfl
  rw [same]
  cases e : List.find? (fun c => c.uid == uid) d.hlk.live with
  | none => rfl
  | some x => rw [Option.map_some, Option.map_some, if_pos (List.find?_some (p := fun c : Live => c.uid == uid) e)]

/-- R59, R133: the Crate that finishes takes its status and results. -/
theorem Decided.of_finish {s t : State} {d : Dev} {uid : Nat} {c : Live} {st : Status} {r0 r1 : Nat} (here : s.dev.live? uid = some c)
    (waits : c.decided = false) (live : d.hlk.live = s.dev.hlk.live) (now : d.now = s.dev.now)
    (after : t.dev.hlk.live = (d.finish uid st r0 r1).hlk.live) : Decided s t uid st r0 r1 := by
  have there : d.live? uid = some c := by rw [Dev.live?, live]; exact here
  have found : t.dev.live? uid = (d.finish uid st r0 r1).live? uid := by rw [Dev.live?, after]; rfl
  rw [Dev.finish, Dev.live_onLive d uid fun c => by split <;> rfl, there, Option.map_some] at found
  refine ⟨c, _, here, found, ?_⟩
  simp only [waits, Bool.false_eq_true, if_false, now, and_self]

/-- A Barrel's first capture, opened at position 0. -/
structure Dev.Opened (d d' : Dev) (b : Nat) : Prop where
  frame : d' = { d with barrels := d'.barrels, raised := d'.raised }
  st : (d'.barrel b).st = if (d.barrel b).params.pre = 0 then .ready else .filling
  pos : (d'.barrel b).pos = 0
  armUid : (d'.barrel b).armUid = (d.barrel b).armUid
  armTick : (d'.barrel b).armTick = (d.barrel b).armTick
  srcRec : (d'.barrel b).srcRec = (d.barrel b).srcRec

/-- FILLING with no sample to wait for becomes READY at once. -/
theorem Dev.barReady_opens {d : Dev} {b : Nat} (st : (d.barrel b).st = .filling) (pos : (d.barrel b).pos = 0) (start : (d.barrel b).start = 0) :
    d.Opened (d.barReady b) b := by
  by_cases none : (d.barrel b).params.pre = 0
  · have ready : d.barReady b = (d.onBarrel b fun r => { r with st := .ready }).barEvent b 0
        ((d.barrel b).timeOf ((d.barrel b).start + max (d.barrel b).params.pre 1 - 1 : Nat) d.stamp) :=
      if_pos ⟨st, by rw [none]; exact Nat.zero_le _⟩
    have barrel : (d.barReady b).barrel b = { d.barrel b with st := .ready } := by
      rw [ready, Dev.barrel_barEvent, Dev.barrel_onBarrel]
    refine ⟨by rw [ready]; rfl, ?_, ?_, ?_, ?_, ?_⟩ <;> rw [barrel]
    · rw [if_pos none]
    · exact pos
    · rfl
  · have waits : d.barReady b = d := if_neg fun h => by rw [pos, start] at h; omega
    rw [waits]
    exact ⟨rfl, st.trans (if_neg none).symm, pos, rfl, rfl, rfl⟩

/-- R457, R461. -/
theorem Dev.barOpen_opens {d : Dev} {b : Nat} (held : (d.barrel b).held = none) (later : (d.barrel b).later = []) (pos : (d.barrel b).pos = 0) :
    d.Opened (d.barOpen b 0 0) b := by
  let g : Barrel → Barrel := fun r => { r with
    st := .filling, capture := 0, start := 0, tpos := 0, npre := 0, lastPos := 0, capIgn := 0, flags := 0, held := none, tmapStart := r.tmapCount
    origins := Tbl.set r.origins (0 % (d.barrel b).regions) 0 }
  let d₁ := (d.onBarrel b g).onBarrel b fun r => { r with later := [] }
  have opens : d.barOpen b 0 0 = d₁.barReady b := by
    simp only [Dev.barOpen, held, later, List.foldl_nil, true_or, if_true]
    rfl
  have barrel : d₁.barrel b = { g (d.barrel b) with later := [] } := by simp only [d₁, Dev.barrel_onBarrel]
  have o := Dev.barReady_opens (d := d₁) (b := b) (by rw [barrel]) (by rw [barrel]; exact pos) (by rw [barrel])
  rw [opens]
  refine ⟨?_, ?_, o.pos, ?_, ?_, ?_⟩
  · exact o.frame
  · rw [o.st, barrel]; rfl
  · rw [o.armUid, barrel]
  · rw [o.armTick, barrel]
  · rw [o.srcRec, barrel]; rfl

/-- A Barrel whose ARM met self-refresh, with its Shelves resident and no stack in self-refresh. -/
structure ArmWakes (d : Dev) (b uid : Nat) (r : Barrel) : Prop where
  barrel : d.barrel b = r
  arming : r.armUid = some uid
  resident : d.stk.allResident (r.owner.getD 0) r.params.handle = true
  awake : d.cel.selfref = 0

/-- The Barrel as its ARM completes: position 0, and nothing held from before (log entry 78). -/
def Barrel.emptied (r : Barrel) (now : BitVec 64) : Barrel :=
  { r with
    armUid := none, before := none, armTick := now, pos := 0, anchor := none, res := r.rate, origins := [], run := none, entries := [], gapNext := false
    later := [], held := none, pendHalf := none, paused := false, queue := [], gaps := [], prior := none, wait := [], tmapCount := 0 }

/-- R49, R461: the ARM completes: its Crate takes its status, and its first capture opens. -/
theorem ArmWakes.done {d : Dev} {b uid : Nat} {r : Barrel} (w : ArmWakes d b uid r) :
    let d' := d.armDone b
    d'.hlk.live = (({ d with stk := d.stk.holdBarrel r true } : Dev).finish uid .ok 0 b).hlk.live ∧ d'.cel.selfref = 0 ∧
      (d'.barrel b).st = (if r.params.pre = 0 then .ready else .filling) ∧ (d'.barrel b).pos = 0 ∧ (d'.barrel b).armUid = none ∧
      (d'.barrel b).armTick = d.now ∧ (d'.barrel b).srcRec = r.srcRec := by
  let d₁ := ({ d with stk := d.stk.holdBarrel r true } : Dev).finish uid .ok 0 b
  let d₂ := ({ d₁ with cel := { d₁.cel with buckets := Tbl.set d₁.cel.buckets b (0, d₁.tim.ticks) } } : Dev).onBarrel b fun r =>
    r.emptied d₁.now
  have opens : d.armDone b = d₂.barOpen b 0 0 := by
    have passes : (!d.stk.allResident (r.owner.getD 0) r.params.handle || d.cel.selfref != 0) = false := by simp [w.resident, w.awake]
    simp only [Dev.armDone, w.barrel, w.arming, passes, Bool.false_eq_true, if_false]
    rfl
  have barrel : d₂.barrel b = r.emptied d₁.now := by
    rw [← w.barrel]; exact Dev.barrel_onBarrel ..
  have o := Dev.barOpen_opens (d := d₂) (b := b) (by rw [barrel]; rfl) (by rw [barrel]; rfl) (by rw [barrel]; rfl)
  rw [← opens] at o
  refine ⟨?_, ?_, ?_, o.pos, ?_, ?_, ?_⟩
  · rw [o.frame]; rfl
  · rw [o.frame]; exact w.awake
  · rw [o.st, barrel]; rfl
  · rw [o.armUid, barrel]; rfl
  · rw [o.armTick, barrel]; rfl
  · rw [o.srcRec, barrel]; rfl

/-- R676: an exit from self-refresh completes the one ARM that met it. -/
theorem selfRefreshExit_arms {s : State} {stack : Fin 2} {b uid : Nat} {r : Barrel} {c : Live} (one : s.dev.barrels = [(b, r)])
    (arming : r.armUid = some uid) (here : s.dev.live? uid = some c) (waits : c.decided = false)
    (resident : s.dev.stk.allResident (r.owner.getD 0) r.params.handle = true) (awake : setBit s.dev.cel.selfref stack false = 0) :
    ∃ t, exec (.selfRefreshExit stack) s = .next t ∧ Decided s t uid .ok 0 b ∧ t.dev.cel.selfref = 0 ∧
      t.mem = s.mem.loftPutRun r.srcRec.tmapBase [{}, {}, {}, {}] ∧ (t.dev.barrel b).st = (if r.params.pre = 0 then .ready else .filling) ∧
      (t.dev.barrel b).pos = 0 ∧ (t.dev.barrel b).armUid = none ∧ (t.dev.barrel b).armTick = s.dev.now := by
  let d := s.dev.onCel fun c => { c with selfref := setBit c.selfref stack false }
  have barrel : d.barrel b = r := by
    rw [Dev.barrel, show d.barrels = [(b, r)] from one]
    simp [Tbl.get, Tbl.find?]
  have wakes : ArmWakes d b uid r := ⟨barrel, arming, resident, awake⟩
  obtain ⟨live, selfref, st, pos, armUid, armTick, src⟩ := wakes.done
  have writing : (d.barrel b).armUid.isSome ∧ ((d.armDone b).barrel b).writing := by
    refine ⟨by rw [barrel, arming]; rfl, ?_⟩
    by_cases first : r.params.pre = 0 <;> simp [Barrel.writing, st, first]
  have awakes : ({ s with dev := d } : State).armsAwake = ({ s with dev := d.armDone b } : State).onMem fun m =>
      m.loftPutRun r.srcRec.tmapBase [{}, {}, {}, {}] := by
    rw [← src, State.armsAwake, show ({ s with dev := d } : State).dev.barrels = [(b, r)] from one]
    exact if_pos writing
  refine ⟨_, (exec_selfRefreshExit s stack).trans (congrArg _ awakes), ?_, selfref, rfl, st, pos, armUid, armTick⟩
  exact Decided.of_finish here waits rfl rfl live

end Sys2Proof.Machine
end

section
namespace Sys2Proof.Machine

/-! Retirement and migration (R681 to R686, R806). -/

section
variable {s : State}

/-- An empty queue of transfers starts nothing. -/
theorem Dev.pageStep_idle {d : Dev} (none : d.stk.xfers = []) : d.pageStep = d := by
  have running : d.stk.running = [] := by rw [Stk.running, none]; rfl
  have waiting : d.stk.waitingIns = [] := by rw [Stk.waitingIns, none]; rfl
  have ins : d.startIns 8 = d := by simp [Dev.startIns, running, waiting]
  have victims : d.pageVictims 8 = d := by simp [Dev.pageVictims, running, waiting]
  have outs : d.startOuts 8 = d := by simp [Dev.startOuts, running, none]
  rw [Dev.pageStep, ins, victims, outs]

theorem loseShelves_zero : s.loseShelves 0 = s := rfl

/-- R682: donors withheld at boot suffice: nothing is paged out and nothing is lost. -/
theorem takeDonors_withheld {pc : Nat} (enough : s.dev.fittedShelves / 64 ≤ s.dev.cel.withheld) (none : s.dev.stk.xfers = []) :
    ∃ total, s.takeDonors pc true = s.onDev fun d => d.onCel fun c =>
      { c with withheld := c.withheld - d.fittedShelves / 64, mig := some { pc, total, need := 0, donors := 0 } } := by
  have all : min (s.dev.fittedShelves / 64) s.dev.cel.withheld = s.dev.fittedShelves / 64 := by omega
  let d := s.dev.onCel fun c => { c with withheld := c.withheld - s.dev.fittedShelves / 64 }
  have idle : d.pageStep = d := Dev.pageStep_idle none
  have taken : (s.dev.onCel fun c => { c with withheld := c.withheld - s.dev.fittedShelves / 64, donors := c.donors ++ [] }) = d := by
    simp only [List.append_nil]; rfl
  refine ⟨d.fittedShelves - d.cel.top - d.cel.donors.length - d.freeShelves, ?_⟩
  simp only [State.takeDonors, all, Nat.sub_self, highest, List.take_zero, List.length_nil, Dev.pageOutMany, State.onDev, taken, idle]
  rfl

/-- R684: the retirement of a pseudo-channel begins its migration. -/
theorem celRetire_begins {pc : Fin 64} (served : s.dev.served = true) (free : s.dev.cel.mig = none) (stays : (s.dev.cel.pc pc).retired = false)
    (still : (s.dev.cel.pc pc).migrating = false) (few : s.dev.cel.retired < 8) (enough : s.dev.fittedShelves / 64 ≤ s.dev.cel.withheld)
    (none : s.dev.stk.xfers = []) :
    ∃ t m, exec (.celRetire pc) s = .next t ∧ t = { s with dev := { s.dev with cel := t.dev.cel } } ∧
      t.dev.cel.pc pc = { s.dev.cel.pc pc with migrating := true } ∧ t.dev.cel.withheld = s.dev.cel.withheld - s.dev.fittedShelves / 64 ∧
      t.dev.cel.donors = s.dev.cel.donors ∧ t.dev.cel.mig = some m ∧ m.pc = pc ∧ m.copied = 0 ∧ m.need = 0 ∧ m.donors = 0 := by
  have ran : exec (.celRetire pc) s = .next (if s.dev.served then (if s.dev.cel.mig.isSome then s else s.celRetire pc true) else s) := rfl
  have starts : s.celRetire pc true = (s.onDev fun d => d.onPc pc fun x => { x with migrating := true }).takeDonors pc true := by
    simp only [State.celRetire, stays, still, free, State.startRetire, Nat.not_le.2 few, Option.isSome_none,
      Bool.false_eq_true, or_self, if_false, if_true]
  obtain ⟨total, taken⟩ := takeDonors_withheld (s := s.onDev fun d => d.onPc pc fun x => { x with migrating := true }) (pc := pc) enough none
  rw [if_pos served, if_neg (by simp [free]), starts, taken] at ran
  exact ⟨_, _, ran, rfl, Cel.pc_of_pcs (c := s.dev.cel) (f := fun x => { x with migrating := true }) rfl, rfl, rfl, rfl, rfl, rfl, rfl, rfl⟩

/-- R794: poisoning a list of granules. -/
theorem poisonAll (bad : List (BitVec 31)) : ∀ s : State, ∃ poison,
    bad.foldl (fun s g => s.poisonGranule g.toNat) s = { s with mem := { s.mem with poison } } ∧
    ∀ g, g ∈ poison ↔ g ∈ s.mem.poison ∨ ∃ b ∈ bad, b.toNat = g := by
  induction bad with
  | nil => exact fun s => ⟨_, rfl, fun g => by simp⟩
  | cons b bad ih =>
    intro s
    obtain ⟨poison, ran, holds⟩ := ih (s.poisonGranule b.toNat)
    refine ⟨poison, ran, fun g => (holds g).trans ?_⟩
    have one : g ∈ (s.poisonGranule b.toNat).mem.poison ↔ g ∈ s.mem.poison ∨ b.toNat = g := by
      simp only [State.poisonGranule, State.onMem]
      split
      · rename_i held
        exact ⟨.inl, fun h => h.elim id fun e => e ▸ by simpa using held⟩
      · simp [eq_comm]
    rw [one]
    simp only [List.mem_cons, exists_eq_or_imp, or_assoc]

/-- R684: one slice more is copied, and what could not be read stays poisoned. -/
theorem sliceMigration_copies {m : CelMig} (runs : s.dev.cel.mig = some m) (more : m.copied < m.total) (bad : List (BitVec 31)) :
    ∃ t, exec (.sliceMigration bad) s = .next t ∧
      t = { s with mem := { s.mem with poison := t.mem.poison }
                   dev := { s.dev with cel := { s.dev.cel with mig := some { m with copied := m.copied + 1 } } } } ∧
      ∀ g, g ∈ t.mem.poison ↔ g ∈ s.mem.poison ∨ ∃ b ∈ bad, b.toNat = g := by
  obtain ⟨poison, ran, holds⟩ := poisonAll bad (s.onDev fun d => d.onCel fun c => { c with mig := some { m with copied := m.copied + 1 } })
  have copies : exec (.sliceMigration bad) s = .next (bad.foldl (fun s g => s.poisonGranule g.toNat)
      (s.onDev fun d => d.onCel fun c => { c with mig := some { m with copied := m.copied + 1 } })) := by
    show execSliceMigration bad s = _
    simp only [execSliceMigration, runs, Nat.not_le.2 more, if_false]
  rw [ran] at copies
  exact ⟨_, copies, rfl, holds⟩

/-- R686: the pseudo-channel of a migration that copied everything. -/
def Dev.migrated (d : Dev) (m : CelMig) : Dev :=
  (d.onPc m.pc fun x => { x with retired := true, migrating := false }).onCel fun c =>
    { c with mig := none, donated := c.donated + m.donors, err := setBit c.err 1 true }

def migrationReport (m : CelMig) : Report :=
  { code := .linkDegraded, sev := 2, domain := domCel (m.pc / 32), src := srcCel, cause := 1, detail := m.pc }

/-- The report of the end, and the write of the map (R806). -/
def Dev.reported (d : Dev) (m : CelMig) : Dev :=
  let d := (d.migrated m).log (migrationReport m)
  d.atticPush .map 14 d.cel.mapBody

theorem Dev.reported_frame (d : Dev) (m : CelMig) : (d.reported m).cel = (d.migrated m).cel ∧
    (d.reported m).atc.jobs = d.atc.jobs ++ [(.map, 14, (d.migrated m).cel.mapBody)] := by
  have cel : ((d.migrated m).log (migrationReport m)).cel = (d.migrated m).cel := by rw [Dev.log_frame]
  have atc : ((d.migrated m).log (migrationReport m)).atc = d.atc := by rw [Dev.log_frame]; rfl
  refine ⟨cel, ?_⟩
  simp only [Dev.reported, Dev.atticPush, cel, atc]

theorem exec_migrationEnd (s : State) : exec .migrationEnd s = .next s.endMigration := rfl

theorem migrationEnd_waits {m : CelMig} (runs : s.dev.cel.mig = some m) (more : m.need ≠ 0 ∨ m.copied < m.total) : exec .migrationEnd s = .next s := by
  rw [exec_migrationEnd]
  simp only [State.endMigration, runs, more, if_true]

theorem migrationEnd_ends {m : CelMig} (runs : s.dev.cel.mig = some m) (need : m.need = 0) (all : m.copied = m.total) (last : s.dev.cel.waiting = []) :
    exec .migrationEnd s = .next (s.onDev fun d => d.reported m) := by
  have ended : ¬ (m.need ≠ 0 ∨ m.copied < m.total) := by omega
  have waiting : (s.dev.reported m).cel.waiting = [] := by rw [(s.dev.reported_frame m).1]; exact last
  rw [exec_migrationEnd]
  simp only [State.endMigration, runs, ended, if_false]
  show Host.Outcome.next (match (s.dev.reported m).cel.waiting with
    | [] => s.onDev fun d => d.reported m
    | (pc, copy) :: rest => ((s.onDev fun d => d.reported m).onDev fun d => d.onCel fun c => { c with waiting := rest }).startRetire pc copy) = _
  rw [waiting]

/-- R684, R686: what the end of a migration shows. -/
theorem migrationEnd_shows {m : CelMig} (runs : s.dev.cel.mig = some m) (need : m.need = 0) (all : m.copied = m.total)
    (last : s.dev.cel.waiting = []) (room : s.dev.rel.queue.length < 64) :
    ∃ t b, exec .migrationEnd s = .next t ∧ t.mem = s.mem ∧ t.dev.cel.mig = none ∧
      t.dev.cel.pc m.pc = { s.dev.cel.pc m.pc with retired := true, migrating := false } ∧ t.dev.cel.donated = s.dev.cel.donated + m.donors ∧
      OneRecord s t .linkDegraded 2 (domCel (m.pc / 32)) ∧ t.dev.atc.jobs = s.dev.atc.jobs ++ [(.map, 14, b)] := by
  obtain ⟨cel, jobs⟩ := s.dev.reported_frame m
  refine ⟨_, _, migrationEnd_ends runs need all last, rfl, ?_, ?_, ?_, ?_, jobs⟩
  · exact congrArg Cel.mig cel
  · exact Cel.pc_of_pcs (c := s.dev.cel) (f := fun x => { x with retired := true, migrating := false }) (congrArg Cel.pcs cel)
  · exact congrArg Cel.donated cel
  · exact OneRecord.of_log (d := s.dev.migrated m) (r := migrationReport m) room rfl rfl rfl (by decide : 2 < 4)

end

/-! Temperatures (R673, R830, R831). -/

/-- What throttling leaves alone: the Cellar controllers, and its own mark. -/
structure Dev.SameHeat (d d' : Dev) : Prop where
  cel : d'.cel = d.cel
  throttled : d'.hkc.throttled = d.hkc.throttled

namespace Dev.SameHeat
variable {d d' d'' : Dev}

theorem refl (d : Dev) : d.SameHeat d := ⟨rfl, rfl⟩

theorem trans (a : d.SameHeat d') (b : d'.SameHeat d'') : d.SameHeat d'' := ⟨b.cel.trans a.cel, b.throttled.trans a.throttled⟩

theorem ite {p : Prop} [Decidable p] (a : d.SameHeat d') (b : d.SameHeat d'') : d.SameHeat (if p then d' else d'') := by
  split
  · exact a
  · exact b

theorem defer (b : Bool) : d.SameHeat (d.defer b) := ⟨rfl, rfl⟩

theorem onSyn (k : Nat) (f : Syn → Syn) : d.SameHeat (d.onSyn k f) := by
  unfold Dev.onSyn
  split <;> exact ⟨rfl, rfl⟩

theorem retune (k : Nat) : d.SameHeat (d.retune k) := by
  unfold Dev.retune
  dsimp only
  split
  · exact ite (defer _) (refl d)
  · exact ite (ite (defer _) (refl d)) (ite (defer _) (ite ((onSyn ..).trans (defer _)) (onSyn ..)))

theorem log (r : Report) : d.SameHeat (d.log r) := by
  rw [Dev.log_frame]; exact ⟨rfl, rfl⟩

theorem hkcEvt (i : Nat) : d.SameHeat (d.hkcEvt i) := by
  unfold Dev.hkcEvt
  refine ite ?_ ⟨rfl, rfl⟩
  rw [Dev.vector_frame]
  exact ⟨rfl, rfl⟩

end Dev.SameHeat

/-- R831: a hot device throttles, whether it did before or not. -/
theorem throttle_hot {d : Dev} (hot : d.hot = true) : d.throttle.cel = d.cel ∧ d.throttle.hkc.throttled = true := by
  by_cases before : d.hkc.throttled = true
  · have same : d.throttle = d := if_pos (.inl before)
    rw [same]
    exact ⟨rfl, before⟩
  · let d₁ := d.onHkc fun h => { h with throttled := true }
    let r : Report := { code := .ok, sev := 0, domain := domDevice, src := srcHkc }
    have begins : d.throttle = ((d₁.defer false).retuneAll.log r).hkcEvt 2 := if_neg (by simp [before, hot])
    have kept : d₁.SameHeat d.throttle := by
      rw [begins]
      exact (Dev.SameHeat.defer false).trans ((Dev.SameHeat.retune 0).trans ((Dev.SameHeat.retune 1).trans ((Dev.SameHeat.retune 2).trans
        ((Dev.SameHeat.log r).trans (Dev.SameHeat.hkcEvt 2)))))
    exact ⟨kept.cel, kept.throttled⟩

/-- R859: an error bit of a stack. -/
theorem Dev.celErr_cel (d : Dev) (stack b sev detail : Nat) (code : Status) :
    (d.celErr stack b sev detail code).cel = { d.cel with err := setBit d.cel.err b true } := by
  unfold Dev.celErr
  dsimp only [Dev.onCel]
  split
  · rfl
  · rw [Dev.log_frame]

theorem exec_stackTemperature (s : State) (k : Fin 2) (temp : BitVec 8) : exec (.stackTemperature k temp) s = .next (s.onDev fun d =>
    if temp.toInt ≤ 105 then d.onCel fun c => { c with temps := Tbl.set c.temps k temp }
    else ((d.onCel fun c => { c with temps := Tbl.set c.temps k temp }).celErr k 3 0 k).throttle) := rfl

theorem stackTemperature_hot {s : State} {k : Fin 2} {temp : BitVec 8} (above : 105 < temp.toInt) :
    ∃ t, exec (.stackTemperature k temp) s = .next t ∧ t.mem = s.mem ∧ Tbl.get 0 t.dev.cel.temps k = temp ∧ bit t.dev.cel.err 3 = true ∧
      t.dev.hkc.throttled = true := by
  have ran := exec_stackTemperature s k temp
  rw [State.onDev, if_neg (not_le.2 above)] at ran
  have cel := (s.dev.onCel fun c => { c with temps := Tbl.set c.temps k temp }).celErr_cel k 3 0 k .ok
  have hot : ((s.dev.onCel fun c => { c with temps := Tbl.set c.temps k temp }).celErr k 3 0 k).hot = true := by
    refine Bool.or_eq_true_iff.2 (.inr (List.any_eq_true.2 ⟨temp.toInt, ?_, decide_eq_true above⟩))
    refine List.mem_map.2 ⟨k, List.mem_range.2 k.isLt, ?_⟩
    rw [cel]
    exact congrArg BitVec.toInt (Tbl.get_set_self ..)
  obtain ⟨kept, throttled⟩ := throttle_hot hot
  rw [cel] at kept
  refine ⟨_, ran, rfl, ?_, ?_, throttled⟩
  · rw [kept]; exact Tbl.get_set_self ..
  · rw [kept]; exact bit_setBit_same _ _ _ (by decide : 3 < 5)

/-- Settles O39: each maintenance command changes one part of the controllers, and retirement, migration and heat follow step by step. -/
theorem cellarIsMaintainedAndRetired : Obligations.cellarIsMaintainedAndRetired := by
  refine ⟨fun s pc stack => ⟨fun bank awake => ⟨refresh_bank awake ?_, fun few => refresh_bank awake ?_, fun due => refresh_bank awake ?_⟩,
      fun on idle run en none trained free => selfRefreshEntry_enters (mayRest_of on idle ⟨run, en⟩ none) trained free, selfRefreshEntry_wanted,
      fun idle => ?_, fun stays awake => ⟨retraining_passed stays awake, retraining_failed stays awake⟩, celCtlLock_locks⟩,
    fun s stack b uid r c one _ arming here waits resident awake => selfRefreshExit_arms one arming here waits resident awake,
    fun s pc => ⟨fun served free stays still few enough none => celRetire_begins served free stays still few enough none,
      fun m runs => ⟨fun bad more => sliceMigration_copies runs more bad, fun need all last room => migrationEnd_shows runs need all last room,
        migrationEnd_waits runs⟩⟩,
    fun s k temp => ⟨fun mild => ?_, stackTemperature_hot⟩⟩
  · exact if_pos (.inl rfl)
  · exact if_neg fun h => h.elim Bool.false_ne_true fun due => by omega
  · exact if_pos (.inr due)
  · exact selfRefreshExit_idle idle
  · rw [exec_stackTemperature, State.onDev, if_pos mild]
    rfl

end Sys2Proof.Machine
end

section
namespace Sys2Proof.Machine

/-! Synthesisers: what a change of one of them leaves alone (R57, R705, R707). -/

/-- Nothing changes but the synthesisers, the mark of a deferred lowering and the free readings. -/
def Dev.SynFrame (d d' : Dev) : Prop :=
  d' = { d with freeCtr := d'.freeCtr, spa := { d.spa with cs0 := d'.spa.cs0, deferred := d'.spa.deferred }
                tim := { d.tim with cs1 := d'.tim.cs1, cs2 := d'.tim.cs2 } }

/-- Within that, no synthesiser but `k` changes. -/
structure Dev.OnlySyn (k : Nat) (d d' : Dev) : Prop where
  frame : d.SynFrame d'
  others : ∀ j, j < 3 → j ≠ k → d'.syn j = d.syn j

section
variable {d d' d'' : Dev} {k j : Nat}

theorem Dev.SynFrame.trans (a : d.SynFrame d') (b : d'.SynFrame d'') : d.SynFrame d'' := by
  unfold Dev.SynFrame at a b ⊢
  rw [a] at b
  exact b

theorem Dev.SynFrame.rel (a : d.SynFrame d') : d'.rel = d.rel := by rw [a]
theorem Dev.SynFrame.hkc (a : d.SynFrame d') : d'.hkc = d.hkc := by rw [a]
theorem Dev.SynFrame.glb (a : d.SynFrame d') : d'.glb = d.glb := by rw [a]
theorem Dev.SynFrame.now (a : d.SynFrame d') : d'.now = d.now := by rw [a]; rfl

theorem Dev.OnlySyn.refl (d : Dev) : d.OnlySyn k d := ⟨rfl, fun _ _ _ => rfl⟩

theorem Dev.OnlySyn.trans (a : d.OnlySyn k d') (b : d'.OnlySyn k d'') : d.OnlySyn k d'' :=
  ⟨a.frame.trans b.frame, fun j lt ne => (b.others j lt ne).trans (a.others j lt ne)⟩

theorem Dev.OnlySyn.ite {p : Prop} [Decidable p] (a : d.OnlySyn k d') (b : d.OnlySyn k d'') : d.OnlySyn k (if p then d' else d'') := by
  split
  · exact a
  · exact b

theorem Dev.syn_onSyn_same (d : Dev) (k : Nat) (f : Syn → Syn) : (d.onSyn k f).syn k = f (d.syn k) :=
  match k with
  | 0 | 1 | _ + 2 => rfl

theorem Dev.OnlySyn.onSyn (f : Syn → Syn) (small : k < 3) : d.OnlySyn k (d.onSyn k f) := by
  refine ⟨?_, fun j lt ne => ?_⟩
  · match k with
    | 0 | 1 | _ + 2 => rfl
  · match k, j, ne with
    | 0, 1, _ | 0, _ + 2, _ | 1, 0, _ | 1, _ + 2, _ | _ + 2, 0, _ | _ + 2, 1, _ => rfl
    | a + 2, b + 2, ne => omega

theorem Dev.OnlySyn.defer (b : Bool) : d.OnlySyn k (d.defer b) :=
  ⟨rfl, fun j _ _ => match j with
    | 0 | 1 | _ + 2 => rfl⟩

theorem Dev.OnlySyn.freeCtr (n : Nat) : d.OnlySyn k { d with freeCtr := n } :=
  ⟨rfl, fun j _ _ => match j with
    | 0 | 1 | _ + 2 => rfl⟩

@[simp] theorem Dev.syn_defer (d : Dev) (b : Bool) (k : Nat) : (d.defer b).syn k = d.syn k :=
  match k with
  | 0 | 1 | _ + 2 => rfl

/-- The aim of a synthesiser rests on its target, the speed grade and the throttle (R822, R831). -/
theorem Dev.synAim_congr (hkc : d'.hkc = d.hkc) (glb : d'.glb = d.glb) (target : (d'.syn k).target = (d.syn k).target) :
    d'.synAim k = d.synAim k := by
  unfold Dev.synAim
  rw [hkc, glb]
  by_cases zero : k = 0
  · subst zero; rw [target]
  · simp only [zero, false_and, if_false, target]

/-- Not throttled and within its grade, a synthesiser aims at its target. -/
theorem Dev.synAim_target (cool : d.hkc.throttled = false) (grade : k = 0 → d.glb.grade = false ∨ (d.syn 0).target.toNat ≤ 1400) :
    d.synAim k = (d.syn k).target := by
  unfold Dev.synAim
  rw [cool, if_neg Bool.false_ne_true, if_neg]
  rintro ⟨zero, slow, above⟩
  rcases grade zero with fast | low
  · rw [fast] at slow; cases slow
  · exact absurd above (Nat.not_lt.2 low)

theorem Dev.synAim_throttled (hot : d.hkc.throttled = true) : d.synAim k = BitVec.ofNat 11 (synRange k).1 := by
  rw [Dev.synAim, hot, if_pos rfl]

/-! The begin of a change (steps 1 and 2 of R707). -/

/-- A synthesiser begins a change: a rise takes the voltage of its operating point first (R63, R812). -/
def Syn.begins (x : Syn) (k : Nat) (aim : BitVec 11) : Syn :=
  { (if x.current.toNat < aim.toNat then x.supply (supplyMv k aim.toNat) else x) with ramp := some aim }

@[simp] theorem Syn.begins_ramp (x : Syn) (k : Nat) (aim : BitVec 11) : (x.begins k aim).ramp = some aim := rfl

@[simp] theorem Syn.begins_target (x : Syn) (k : Nat) (aim : BitVec 11) : (x.begins k aim).target = x.target := by
  unfold Syn.begins Syn.supply
  split <;> rfl

/-- A lowering of CS0 that R58 holds back. -/
def Dev.lowersLate (d : Dev) (k : Nat) : Prop := k = 0 ∧ d.holdsLowering (d.syn k).current (d.synAim k) = true

theorem Dev.retune_idle (still : (d.syn k).ramp = none) (there : d.synAim k = (d.syn k).current) :
    d.retune k = if k = 0 then d.defer false else d := by
  simp only [Dev.retune, still, there, if_true]

theorem Dev.retune_held (still : (d.syn k).ramp = none) (held : d.lowersLate k) : d.retune k = d.defer true := by
  have away : d.synAim k ≠ (d.syn k).current := fun there => by
    have := held.2
    rw [there] at this
    simp [Dev.holdsLowering] at this
  simp only [Dev.retune, still, away, if_false]
  exact if_pos held

theorem Dev.retune_begins (still : (d.syn k).ramp = none) (away : d.synAim k ≠ (d.syn k).current) (free : ¬ d.lowersLate k) :
    d.retune k = if k = 0 then (d.onSyn k fun x => x.begins k (d.synAim k)).defer false else d.onSyn k fun x => x.begins k (d.synAim k) := by
  simp only [Dev.retune, still, away, if_false]
  exact if_neg free

theorem Dev.OnlySyn.retune (small : k < 3) : d.OnlySyn k (d.retune k) := by
  unfold Dev.retune
  dsimp only
  split
  · exact .ite (.defer _) (.refl d)
  · exact .ite (.ite (.defer _) (.refl d)) (.ite (.defer _) (.ite ((onSyn _ small).trans (.defer _)) (onSyn _ small)))

/-- A synthesiser at rest, after a retune that R58 does not hold back. -/
theorem Dev.retune_syn (still : (d.syn k).ramp = none) (free : ¬ d.lowersLate k) :
    (d.retune k).syn k = if d.synAim k = (d.syn k).current then d.syn k else (d.syn k).begins k (d.synAim k) := by
  by_cases there : d.synAim k = (d.syn k).current
  · rw [Dev.retune_idle still there, if_pos there]
    split <;> simp
  · rw [Dev.retune_begins still there free, if_neg there]
    split <;> simp [Dev.syn_onSyn_same]

end

/-! The host's targets (R705, R707). -/

section
variable (s : State) (k : Fin 3)

theorem exec_target (f : BitVec 11) : exec (.target k f) s = execTarget k f s := rfl
theorem exec_regulatorReady : exec (.regulatorReady k) s = .next (s.onDev fun d => d.onSyn k fun x => { x with supplyReady := true }) := rfl
theorem exec_rampDone : exec (.rampDone k) s = execRampDone k s := rfl
theorem exec_dvfsLoweringApply : exec .dvfsLoweringApply s =
    .next (s.onDev fun d => if d.spa.deferred ∧ d.spa.cs0.ramp.isNone then d.retune 0 else d) := rfl
theorem exec_throttleEntry : exec .throttleEntry s = .next (s.onDev Dev.throttle) := rfl
theorem exec_throttleRelease : exec .throttleRelease s = .next (s.onDev fun d => if !d.hkc.throttled ∨ !d.cool then d
    else ((d.onHkc fun h => { h with throttled := false }).retuneAll).hkcEvt 2) := rfl
theorem exec_railOutOfRange (r : Fin 4) : exec (.railOutOfRange r) s = .next (s.onDev fun d => d.rail r false) := rfl

end

section
variable {s : State} {d : Dev} {k : Fin 3} {f : BitVec 11}

/-- A synthesiser whose target is replaced. -/
def Dev.retarget (d : Dev) (k : Nat) (f : BitVec 11) : Dev := d.onSyn k fun x => { x with target := f }

theorem Dev.syn_retarget : (d.retarget k f).syn k = { d.syn k with target := f } := Dev.syn_onSyn_same ..

theorem Dev.OnlySyn.retarget : d.OnlySyn k (d.retarget k f) := .onSyn _ k.isLt

/-- Missed deadlines rest on the frequencies, not on the targets. -/
theorem Dev.wouldMiss_retarget (k : Nat) (mhz : Nat) : (d.retarget k f).wouldMiss mhz = d.wouldMiss mhz :=
  match k with
  | 0 | 1 | _ + 2 => rfl

/-- A new target in range, on a device that is not throttled. -/
structure Dev.TakesTarget (d : Dev) (k : Fin 3) (f : BitVec 11) : Prop where
  cool : d.hkc.throttled = false
  still : (d.syn k).ramp = none
  away : f ≠ (d.syn k).current
  grade : k = 0 → d.glb.grade = false ∨ f.toNat ≤ 1400

theorem Dev.TakesTarget.aim (h : d.TakesTarget k f) : (d.retarget k f).synAim k = f := by
  have frame := (Dev.OnlySyn.retarget (d := d) (k := k) (f := f)).frame
  rw [Dev.synAim_target (frame.hkc ▸ h.cool) fun zero => ?_, Dev.syn_retarget]
  obtain rfl : k = 0 := Fin.ext zero
  rw [frame.glb, show (d.retarget (0 : Fin 3) f).syn 0 = _ from Dev.syn_retarget (k := 0)]
  exact h.grade rfl

theorem Dev.TakesTarget.lowersLate_iff (h : d.TakesTarget k f) :
    (d.retarget k f).lowersLate k ↔ k = 0 ∧ f.toNat < (d.syn k).current.toNat ∧ d.wouldMiss f.toNat = true := by
  have frame := (Dev.OnlySyn.retarget (d := d) (k := k) (f := f)).frame
  rw [Dev.lowersLate, h.aim, Dev.syn_retarget, Dev.holdsLowering, Dev.wouldMiss_retarget, frame.hkc, h.cool]
  simp only [Bool.not_false, Bool.and_true, Bool.and_eq_true, decide_eq_true_eq, Fin.ext_iff, Fin.coe_ofNat_eq_mod, Nat.zero_mod]

theorem exec_target_inRange (on : s.dev.served = true) (ok : synOk k f.toNat = true) :
    exec (.target k f) s = .next (s.onDev fun d => (d.retarget k f).retune k) := by
  rw [exec_target, execTarget, hostStep_served _ on]
  simp only [ok, Bool.not_true, Bool.false_eq_true, if_false]
  rfl

/-- R705, R707: the target is taken and the ramp begins. -/
theorem Dev.TakesTarget.ramps (h : d.TakesTarget k f) (free : k ≠ 0 ∨ (d.syn k).current.toNat ≤ f.toNat ∨ d.wouldMiss f.toNat = false) :
    ((d.retarget k f).retune k).syn k = { d.syn k with target := f }.begins k f := by
  rw [Dev.retune_syn, h.aim, Dev.syn_retarget, if_neg h.away]
  · rw [Dev.syn_retarget]; exact h.still
  · rw [h.lowersLate_iff]
    rintro ⟨zero, lower, miss⟩
    rcases free with other | rise | meets
    · exact other zero
    · omega
    · rw [meets] at miss; cases miss

/-- R58: a lowering by which a Crate would miss its deadline waits. -/
theorem Dev.TakesTarget.waits (h : d.TakesTarget k f) (zero : k = 0) (lower : f.toNat < (d.syn k).current.toNat)
    (miss : d.wouldMiss f.toNat = true) : (d.retarget k f).retune k = (d.retarget k f).defer true :=
  Dev.retune_held (by rw [Dev.syn_retarget]; exact h.still) (h.lowersLate_iff.2 ⟨zero, lower, miss⟩)

/-- R705: a target out of range is reported by the synthesiser's unit. -/
theorem exec_target_outOfRange (on : s.dev.served = true) (bad : synOk k f.toNat = false) : ∃ src, exec (.target k f) s =
    .next (s.onDev fun d => d.note .cfgRange domDevice src) := by
  rw [exec_target, execTarget, hostStep_served _ on]
  simp only [bad, Bool.not_false, if_true]
  by_cases zero : k.val = 0
  · exact ⟨_, by rw [if_pos zero]; rfl⟩
  · exact ⟨_, by rw [if_neg zero]; rfl⟩

theorem target_reported (on : s.dev.served = true) (bad : synOk k f.toNat = false) (room : s.dev.rel.queue.length < 64) :
    ∃ t, exec (.target k f) s = .next t ∧ t = { s with dev := { s.dev with rel := t.dev.rel } } ∧ OneRecord s t .cfgRange 0 domDevice := by
  obtain ⟨src, ran⟩ := exec_target_outOfRange on bad
  refine ⟨_, ran, ?_, .of_log (r := { code := .cfgRange, sev := 0, domain := domDevice, src }) room rfl rfl rfl (by decide : (0 : Nat) < 4)⟩
  rw [State.onDev, Dev.note, Dev.log_quiet _ _ (by decide : (0 : Nat) < 2)]

end

/-! The end of a ramp (steps 3 to 6 of R707, R708). -/

section
variable {k : Nat} {t : Int} {g : Nat}

/-- The legs of a ramp change the idle VCO's entries and the VCO alone. -/
theorem Syn.legs_frame : ∀ (fuel f : Nat) (p : Syn × Nat),
    (Syn.legs k t g fuel f p).1 = { p.1 with vcoB := (Syn.legs k t g fuel f p).1.vcoB, found := (Syn.legs k t g fuel f p).1.found }
  | 0, _, _ => rfl
  | fuel + 1, f, (x, ctr) => by
    rw [Syn.legs]
    split
    · rfl
    · dsimp only
      rw [Syn.legs_frame fuel]
      unfold Syn.search
      split <;> rfl

@[simp] theorem Syn.search_vcoB (x : Syn) (ctr f : Nat) : (x.search t ctr f).1.vcoB = x.vcoB := by
  unfold Syn.search
  split <;> rfl

/-- R708: a ramp to a point that the idle VCO reaches at once is one leg, which switches to that VCO. -/
theorem Syn.legs_one {fuel f ctr : Nat} {x : Syn} (away : f ≠ g) (near : gridStep g f = f ∨
    Config.bandCovers k (!x.vcoB) (Config.vcoBand k (!x.vcoB) g (x.entry t ctr g).2) f = true) :
    (Syn.legs k t g (fuel + 1) f (x, ctr)).1.vcoB = !x.vcoB := by
  have reached : x.reach k t ctr f 64 g = g := if_pos near
  rw [Syn.legs, if_neg away, reached]
  cases fuel with
  | zero => simp [Syn.legs]
  | succ fuel => simp [Syn.legs]

end

/-- R707: a rise waits for its regulator. -/
theorem rampDone_waits {s : State} {k : Fin 3} {f : BitVec 11} (ramps : (s.dev.syn k).ramp = some f)
    (rises : (s.dev.syn k).current.toNat < f.toNat) (unready : (s.dev.syn k).supplyReady = false) : exec (.rampDone k) s = .next s := by
  rw [exec_rampDone, execRampDone, devStep_eq]
  simp only [ramps, rises, unready, Bool.not_false, and_self, if_true]

/-- The synthesiser as its ramp ends. -/
def Dev.ramped (d : Dev) (k : Nat) (f : BitVec 11) : Syn × Nat := Syn.legs k d.dieTemp f.toNat 64 (d.syn k).current.toNat (d.syn k, d.freeCtr)

def Dev.settled (d : Dev) (k : Nat) (f : BitVec 11) : Syn :=
  { (d.ramped k f).1.supply (supplyMv k f.toNat) with current := f, ramp := none }

theorem exec_rampDone_ends {s : State} {k : Fin 3} {f : BitVec 11} (ramps : (s.dev.syn k).ramp = some f)
    (ready : f.toNat ≤ (s.dev.syn k).current.toNat ∨ (s.dev.syn k).supplyReady = true) : exec (.rampDone k) s =
      .next { s with dev := ({ s.dev with freeCtr := (s.dev.ramped k f).2 }.onSyn k fun _ => s.dev.settled k f).retune k } := by
  have goes : ¬ ((s.dev.syn k).current.toNat < f.toNat ∧ (!(s.dev.syn k).supplyReady) = true) := by
    rintro ⟨rises, unready⟩
    rcases ready with falls | ready
    · omega
    · simp [ready] at unready
  rw [exec_rampDone, execRampDone, devStep_eq]
  simp only [ramps, if_neg goes]
  rfl

theorem Dev.settled_eq (d : Dev) (k : Nat) (f : BitVec 11) : d.settled k f = { d.syn k with
    current := f, ramp := none, mv := supplyMv k f.toNat, supplyReady := (d.syn k).supplyReady && (d.syn k).mv == supplyMv k f.toNat
    vcoB := (d.settled k f).vcoB, found := (d.settled k f).found } := by
  have frame : (d.ramped k f).1 = _ := Syn.legs_frame ..
  unfold Dev.settled Syn.supply
  rw [frame]

/-- A synthesiser at rest at its aim stays there. -/
theorem Dev.retune_rests {d : Dev} {k : Nat} {y : Syn} (here : d.syn k = y) (still : y.ramp = none) (aim : d.synAim k = y.current) :
    (d.retune k).syn k = y := by
  subst here
  rw [Dev.retune_idle still aim]
  split
  · exact Dev.syn_defer ..
  · rfl

/-- R707: a ramp to the present aim ends with the synthesiser at rest there. -/
theorem rampDone_settles {s : State} {k : Fin 3} {f : BitVec 11} (ramps : (s.dev.syn k).ramp = some f)
    (ready : f.toNat ≤ (s.dev.syn k).current.toNat ∨ (s.dev.syn k).supplyReady = true) (aim : s.dev.synAim k = f) :
    ∃ d, exec (.rampDone k) s = .next { s with dev := d } ∧ s.dev.OnlySyn k d ∧ d.syn k = s.dev.settled k f := by
  have only : s.dev.OnlySyn k ({ s.dev with freeCtr := (s.dev.ramped k f).2 }.onSyn k fun _ => s.dev.settled k f) :=
    (Dev.OnlySyn.freeCtr _).trans (.onSyn _ k.isLt)
  have here := Dev.syn_onSyn_same { s.dev with freeCtr := (s.dev.ramped k f).2 } k fun _ => s.dev.settled k f
  have target : (s.dev.settled k f).target = (s.dev.syn k).target := by rw [Dev.settled_eq]
  refine ⟨_, exec_rampDone_ends ramps ready, only.trans (.retune k.isLt), Dev.retune_rests here rfl ?_⟩
  exact (Dev.synAim_congr only.frame.hkc only.frame.glb (by rw [here, target])).trans aim

/-- R707, R708: a ramp that one leg serves switches to the idle VCO. -/
theorem settled_switches {d : Dev} {k : Nat} {f : BitVec 11} (away : f ≠ (d.syn k).current)
    (near : gridStep f.toNat (d.syn k).current.toNat = (d.syn k).current.toNat ∨
      Config.bandCovers k (!(d.syn k).vcoB) (Config.vcoBand k (!(d.syn k).vcoB) f.toNat ((d.syn k).entry d.dieTemp d.freeCtr f.toNat).2)
        (d.syn k).current.toNat = true) : (d.settled k f).vcoB = !(d.syn k).vcoB :=
  Syn.legs_one (fun same => away (BitVec.eq_of_toNat_eq same.symm)) near

/-! A deferred lowering (R58). -/

theorem dvfsLoweringApply_retunes {s : State} (waits : s.dev.spa.deferred = true) (still : s.dev.spa.cs0.ramp = none) :
    exec .dvfsLoweringApply s = .next (s.onDev fun d => d.retune 0) := by
  rw [exec_dvfsLoweringApply, State.onDev, if_pos ⟨waits, by rw [still]; rfl⟩]
  rfl

/-! Throttling (R830, R831). -/

section
variable {d : Dev}

theorem Dev.retuneAll_frame (d : Dev) : d.SynFrame d.retuneAll :=
  (Dev.OnlySyn.retune (by decide : 0 < 3)).frame.trans
    ((Dev.OnlySyn.retune (by decide : 1 < 3)).frame.trans (Dev.OnlySyn.retune (by decide : 2 < 3)).frame)

/-- Each synthesiser at rest begins its own change, where R58 holds none back. -/
theorem Dev.retuneAll_syn (still : ∀ k, k < 3 → (d.syn k).ramp = none) (free : ¬ d.lowersLate 0) (k : Fin 3) :
    d.retuneAll.syn k = if d.synAim k = (d.syn k).current then d.syn k else (d.syn k).begins k (d.synAim k) := by
  have a : d.OnlySyn 0 (d.retune 0) := .retune (by decide)
  have b : (d.retune 0).OnlySyn 1 ((d.retune 0).retune 1) := .retune (by decide)
  have c : ((d.retune 0).retune 1).OnlySyn 2 d.retuneAll := .retune (by decide)
  have late : ∀ {e : Dev} {j : Nat}, j ≠ 0 → ¬ e.lowersLate j := fun ne late => ne late.1
  match k with
  | 0 => exact (c.others 0 (by decide) (by decide)).trans ((b.others 0 (by decide) (by decide)).trans
      (Dev.retune_syn (still 0 (by decide)) free))
  | 1 =>
    have same : (d.retune 0).syn 1 = d.syn 1 := a.others 1 (by decide) (by decide)
    have aim : (d.retune 0).synAim 1 = d.synAim 1 := Dev.synAim_congr a.frame.hkc a.frame.glb (by rw [same])
    refine (c.others 1 (by decide) (by decide)).trans ((Dev.retune_syn ?_ (late (by decide))).trans ?_)
    · rw [same]; exact still 1 (by decide)
    · rw [same, aim]; rfl
  | 2 =>
    have same : ((d.retune 0).retune 1).syn 2 = d.syn 2 := (b.others 2 (by decide) (by decide)).trans (a.others 2 (by decide) (by decide))
    have aim : ((d.retune 0).retune 1).synAim 2 = d.synAim 2 :=
      Dev.synAim_congr (b.frame.hkc.trans a.frame.hkc) (b.frame.glb.trans a.frame.glb) (by rw [same])
    refine (Dev.retune_syn ?_ (late (by decide))).trans ?_
    · rw [same]; exact still 2 (by decide)
    · rw [same, aim]; rfl

theorem Dev.retune_deferred {j : Nat} (other : j ≠ 0) : (d.retune j).spa.deferred = d.spa.deferred := by
  have onSyn : ∀ f, (d.onSyn j f).spa.deferred = d.spa.deferred := fun f =>
    match j, other with
    | 1, _ | _ + 2, _ => rfl
  unfold Dev.retune
  dsimp only
  split
  · rw [if_neg other]
  · simp only [other, false_and, if_false]
    split
    · rfl
    · exact onSyn _

theorem Dev.retune_releases (still : (d.syn 0).ramp = none) (free : ¬ d.lowersLate 0) : (d.retune 0).spa.deferred = false := by
  by_cases there : d.synAim 0 = (d.syn 0).current
  · rw [Dev.retune_idle still there]; rfl
  · rw [Dev.retune_begins still there free]; rfl

theorem Dev.retuneAll_deferred (still : (d.syn 0).ramp = none) (free : ¬ d.lowersLate 0) : d.retuneAll.spa.deferred = false := by
  rw [Dev.retuneAll, Dev.retune_deferred (by decide), Dev.retune_deferred (by decide), Dev.retune_releases still free]

/-- HKC_EVT_STAT changes, and a vector's message (R828, R852). -/
theorem Dev.hkcEvt_frame (d : Dev) (i : Nat) : d.hkcEvt i = { d with
    hkc := { d.hkc with evtStat := setBit d.hkc.evtStat i true }, hlk := (d.hkcEvt i).hlk, host := (d.hkcEvt i).host } := by
  unfold Dev.hkcEvt
  dsimp only
  split
  · rw [Dev.vector_frame]
  · rfl

/-- The device as it throttles, before it retunes. -/
def Dev.throttling (d : Dev) : Dev := (d.onHkc fun h => { h with throttled := true }).defer false

theorem Dev.throttle_begins (before : d.hkc.throttled = false) (hot : d.hot = true) : d.throttle =
    (d.throttling.retuneAll.log { code := .ok, sev := 0, domain := domDevice, src := srcHkc }).hkcEvt 2 :=
  if_neg (by simp [before, hot])

theorem Dev.throttling_free : ¬ d.throttling.lowersLate 0 := by
  rintro ⟨-, held⟩
  simp [Dev.holdsLowering, Dev.throttling, Dev.onHkc, Dev.defer] at held

theorem Dev.syn_congr {d' : Dev} (spa : d'.spa = d.spa) (tim : d'.tim = d.tim) (k : Nat) : d'.syn k = d.syn k := by
  unfold Dev.syn
  rw [spa, tim]

theorem Dev.syn_hkcEvt (d : Dev) (i k : Nat) : (d.hkcEvt i).syn k = d.syn k := by
  rw [Dev.hkcEvt_frame]; exact Dev.syn_congr rfl rfl k

theorem Dev.hkcEvt_bit (d : Dev) {i : Nat} (h : i < 4) : bit (d.hkcEvt i).hkc.evtStat i = true := by
  rw [Dev.hkcEvt_frame]; exact bit_setBit_same _ _ _ h

theorem Dev.hkcEvt_throttled (d : Dev) (i : Nat) : (d.hkcEvt i).hkc.throttled = d.hkc.throttled := by rw [Dev.hkcEvt_frame]
theorem Dev.hkcEvt_rel (d : Dev) (i : Nat) : (d.hkcEvt i).rel = d.rel := by rw [Dev.hkcEvt_frame]
theorem Dev.hkcEvt_spa (d : Dev) (i : Nat) : (d.hkcEvt i).spa = d.spa := by rw [Dev.hkcEvt_frame]

theorem Dev.syn_throttling (d : Dev) (k : Nat) : d.throttling.syn k = d.syn k :=
  (Dev.syn_defer ..).trans (Dev.syn_congr rfl rfl k)

/-- R831: throttling aims every synthesiser at its lowest frequency, whatever R58 would hold back. -/
theorem Dev.throttling_syn (still : ∀ k, k < 3 → (d.syn k).ramp = none) (k : Fin 3) : d.throttling.retuneAll.syn k =
    if BitVec.ofNat 11 (synRange k).1 = (d.syn k).current then d.syn k else (d.syn k).begins k (BitVec.ofNat 11 (synRange k).1) := by
  rw [Dev.retuneAll_syn (fun k lt => by rw [Dev.syn_throttling, still k lt]) Dev.throttling_free, Dev.syn_throttling,
    Dev.synAim_throttled rfl]

end

section
variable {s : State}

theorem throttleEntry_throttles (before : s.dev.hkc.throttled = false) (hot : s.dev.hot = true) (room : s.dev.rel.queue.length < 64)
    (still : ∀ k, k < 3 → (s.dev.syn k).ramp = none) :
    ∃ t, exec .throttleEntry s = .next t ∧ t.mem = s.mem ∧ t.dev.hkc.throttled = true ∧ bit t.dev.hkc.evtStat 2 = true ∧
      OneRecord s t .ok 0 domDevice ∧ t.dev.spa.deferred = false ∧ ∀ k : Fin 3, (t.dev.syn k).target = (s.dev.syn k).target ∧
        ((t.dev.syn k).ramp = some (BitVec.ofNat 11 (synRange k).1) ∨
          (s.dev.syn k).current = BitVec.ofNat 11 (synRange k).1 ∧ (t.dev.syn k).ramp = none) := by
  have frame := s.dev.throttling.retuneAll_frame
  let r : Report := { code := .ok, sev := 0, domain := domDevice, src := srcHkc }
  have ran : exec .throttleEntry s = .next { s with dev := (s.dev.throttling.retuneAll.log r).hkcEvt 2 } := by
    rw [exec_throttleEntry, State.onDev, Dev.throttle_begins before hot]
  refine ⟨_, ran, rfl, ?_, Dev.hkcEvt_bit _ (by decide),
    .of_log (d := s.dev.throttling.retuneAll) (r := r) room ?_ ?_ ?_ (by decide : (0 : Nat) < 4), ?_, fun k => ?_⟩
  · rw [Dev.hkcEvt_throttled, Dev.log_hkc, frame.hkc]; rfl
  · exact frame.rel
  · exact frame.now
  · exact Dev.hkcEvt_rel ..
  · rw [Dev.hkcEvt_spa, Dev.log_spa]
    exact Dev.retuneAll_deferred ((congrArg Syn.ramp (Dev.syn_throttling ..)).trans (still 0 (by decide))) Dev.throttling_free
  · rw [Dev.syn_hkcEvt, Dev.syn_congr (Dev.log_spa ..) (Dev.log_tim ..), Dev.throttling_syn still]
    split
    next there => exact ⟨rfl, .inr ⟨there.symm, still k k.isLt⟩⟩
    next => exact ⟨Syn.begins_target .., .inl rfl⟩

/-- The device as its throttling ends, before it retunes. -/
def Dev.released (d : Dev) : Dev := d.onHkc fun h => { h with throttled := false }

theorem Dev.syn_released (d : Dev) (k : Nat) : d.released.syn k = d.syn k := Dev.syn_congr rfl rfl k

theorem throttleRelease_retunes (throttled : s.dev.hkc.throttled = true) (cool : s.dev.cool = true)
    (still : ∀ k, k < 3 → (s.dev.syn k).ramp = none) (fast : s.dev.glb.grade = false)
    (free : s.dev.spa.cs0.current.toNat ≤ s.dev.spa.cs0.target.toNat ∨ s.dev.wouldMiss s.dev.spa.cs0.target.toNat = false) :
    ∃ t, exec .throttleRelease s = .next t ∧ t.mem = s.mem ∧ t.dev.hkc.throttled = false ∧ bit t.dev.hkc.evtStat 2 = true ∧
      t.dev.rel = s.dev.rel ∧ ∀ k : Fin 3, (t.dev.syn k).ramp =
        if (s.dev.syn k).target = (s.dev.syn k).current then none else some (s.dev.syn k).target := by
  have frame := s.dev.released.retuneAll_frame
  have ran : exec .throttleRelease s = .next { s with dev := s.dev.released.retuneAll.hkcEvt 2 } := by
    rw [exec_throttleRelease, State.onDev, if_neg (by simp [throttled, cool])]; rfl
  have aim : ∀ k, s.dev.released.synAim k = (s.dev.syn k).target := fun k => by
    rw [Dev.synAim_target (d := s.dev.released) rfl fun _ => .inl fast, Dev.syn_released]
  have meets : ¬ s.dev.released.lowersLate 0 := by
    rintro ⟨-, held⟩
    rw [aim, Dev.syn_released, Dev.holdsLowering, Bool.and_eq_true, Bool.and_eq_true] at held
    obtain ⟨⟨lower, -⟩, miss⟩ := held
    rcases free with rise | meets
    · exact absurd (of_decide_eq_true lower) (Nat.not_lt.2 rise)
    · exact Bool.false_ne_true (meets.symm.trans miss)
  refine ⟨_, ran, rfl, ?_, Dev.hkcEvt_bit _ (by decide), (Dev.hkcEvt_rel ..).trans frame.rel, fun k => ?_⟩
  · rw [Dev.hkcEvt_throttled, frame.hkc]; rfl
  · rw [Dev.syn_hkcEvt, Dev.retuneAll_syn (fun k lt => by rw [Dev.syn_released, still k lt]) meets, aim, Dev.syn_released]
    split
    · exact still k k.isLt
    · rfl

/-- R808: a rail out of range. -/
theorem Dev.rail_clears (d : Dev) (r : Fin 4) : d.rail r false = { d with hkc := (d.rail r false).hkc, hlk := (d.rail r false).hlk, host := (d.rail r false).host } ∧
    (d.rail r false).hkc.railOk = setBit d.hkc.railOk r false ∧ (bit d.hkc.railOk r = true → bit (d.rail r false).hkc.evtStat 3 = true) := by
  unfold Dev.rail
  dsimp only
  by_cases was : bit d.hkc.railOk r = true
  · rw [was]
    refine ⟨?_, ?_, fun _ => Dev.hkcEvt_bit _ (by decide)⟩
    · simp only [Bool.not_false, Bool.and_true, if_true]
      rw [Dev.hkcEvt_frame]
      rfl
    · simp only [Bool.not_false, Bool.and_true, if_true]
      rw [Dev.hkcEvt_frame]
      rfl
  · rw [Bool.eq_false_of_not_eq_true was]
    exact ⟨rfl, rfl, fun h => absurd h Bool.false_ne_true⟩

end

/-- A synthesiser's change is a change of the device in its frame. -/
theorem Dev.OnlySyn.state {s : State} {d : Dev} {k : Nat} (h : s.dev.OnlySyn k d) : ({ s with dev := d } : State) =
      { s with dev := { s.dev with freeCtr := d.freeCtr, spa := { s.dev.spa with cs0 := d.spa.cs0, deferred := d.spa.deferred }
                                   tim := { s.dev.tim with cs1 := d.tim.cs1, cs2 := d.tim.cs2 } } } ∧
    ∀ j, j < 3 → j ≠ k → d.syn j = s.dev.syn j :=
  ⟨congrArg (fun d : Dev => { s with dev := d }) h.frame, h.others⟩

/-- Settles O40: each command is a retune in one of its cases, and a retune leaves all but its synthesiser alone. -/
theorem frequenciesAndPowerFollowTheirRequests : Obligations.frequenciesAndPowerFollowTheirRequests := by
  refine ⟨fun s k => ⟨fun f on ok cool still away grade => ?_, fun f on bad room => target_reported on bad room, ?_, fun f ramps => ?_⟩,
    fun s => ⟨fun waits still => ⟨fun there => ?_, fun held => ?_, fun away free => ?_⟩,
      fun before hot room still => throttleEntry_throttles before hot room still, fun mild => ?_,
      fun throttled cool still fast free => throttleRelease_retunes throttled cool still fast free, fun r => ?_⟩⟩
  · have takes : s.dev.TakesTarget k f := ⟨cool, still, away, grade⟩
    refine ⟨fun free => ⟨_, exec_target_inRange on ok, (Dev.OnlySyn.retarget.trans (.retune k.isLt)).state, ?_⟩,
      fun zero lower miss => ⟨_, exec_target_inRange on ok, (Dev.OnlySyn.retarget.trans (.retune k.isLt)).state, ?_⟩⟩
    · refine (takes.ramps free).trans ?_
      unfold Syn.begins
      dsimp only
      split <;> rfl
    · rw [State.onDev, takes.waits zero lower miss]
      exact ⟨(Dev.syn_defer ..).trans Dev.syn_retarget, rfl⟩
  · exact ⟨_, exec_regulatorReady s k, (Dev.OnlySyn.onSyn _ k.isLt).state, Dev.syn_onSyn_same ..⟩
  · refine ⟨fun rises unready => rampDone_waits ramps rises unready, fun ready aim => ?_⟩
    obtain ⟨d, ran, only, settled⟩ := rampDone_settles ramps ready aim
    refine ⟨_, ran, only.state, ?_, fun away near => ?_⟩
    · rw [settled]; exact Dev.settled_eq ..
    · rw [settled]; exact settled_switches away near
  · rw [dvfsLoweringApply_retunes waits still, State.onDev, Dev.retune_idle (k := 0) still there]; rfl
  · rw [dvfsLoweringApply_retunes waits still, State.onDev, Dev.retune_held (k := 0) still ⟨rfl, held⟩, Dev.defer, ← waits]
  · refine ⟨_, dvfsLoweringApply_retunes waits still, ?_⟩
    rw [State.onDev, Dev.retune_begins (k := 0) still away fun late => Bool.false_ne_true (free.symm.trans late.2)]
    rfl
  · rw [exec_throttleEntry, State.onDev, Dev.throttle, if_pos (.inr (by rw [mild]; rfl))]
  · obtain ⟨frame, bits⟩ := s.dev.rail_clears r
    exact ⟨_, exec_railOutOfRange s r, congrArg (fun d : Dev => { s with dev := d }) frame, bits⟩

end Sys2Proof.Machine
end

section
namespace Sys2Proof.Machine

/-! What a result on its way to the combiner changes (R399, R423). -/

/-- Nothing changes but the trigger units and the error records. -/
def Dev.TrgFrame (d d' : Dev) : Prop := d' = { d with trg := d'.trg, rel := d'.rel }

section
variable {d d' d'' : Dev}

theorem Dev.TrgFrame.refl (d : Dev) : d.TrgFrame d := rfl

theorem Dev.TrgFrame.trans (a : d.TrgFrame d') (b : d'.TrgFrame d'') : d.TrgFrame d'' := by
  unfold Dev.TrgFrame at a b ⊢
  rw [a] at b
  exact b

theorem Dev.TrgFrame.condRec (a : d.TrgFrame d') (p c : Nat) : d'.condRec p c = d.condRec p c := by rw [a]; rfl
theorem Dev.TrgFrame.port (a : d.TrgFrame d') (p : Nat) : d'.port p = d.port p := by rw [a]; rfl
theorem Dev.TrgFrame.instr (a : d.TrgFrame d') : d'.instr = d.instr := by rw [a]

end

@[simp] theorem Dev.trig_onTrig_self (d : Dev) (p : Nat) (f : Trg → Trg) : (d.onTrig p f).trig p = f (d.trig p) := Tbl.get_upd_self ..

theorem Dev.trig_onTrig_ne (d : Dev) {p q : Nat} (f : Trg → Trg) (other : q ≠ p) : (d.onTrig p f).trig q = d.trig q :=
  (Tbl.get_upd ..).trans (if_neg other)

theorem Dev.trig_raise (d : Dev) (id p : Nat) (time : Stamp) (reach : Option Nat) : (d.raise id time reach).trig p = d.trig p := rfl

@[simp] theorem Trg.cond_onCond_self (t : Trg) (c : Nat) (f : TrgCond → TrgCond) : (t.onCond c f).cond c = f (t.cond c) := Tbl.get_upd_self ..

theorem Trg.cond_onCond_ne (t : Trg) {c e : Nat} (f : TrgCond → TrgCond) (other : e ≠ c) : (t.onCond c f).cond e = t.cond e :=
  (Tbl.get_upd ..).trans (if_neg other)

/-- A unit after something reached condition `c` alone: no result is lost. -/
structure Trg.Reached (c : Nat) (t t' : Trg) : Prop where
  conds : ∀ e, e ≠ c → t'.cond e = t.cond e
  results : ∀ r ∈ t.results, r ∈ t'.results

/-- The same where the accepted pin level stays. -/
structure Trg.Placed (c : Nat) (t t' : Trg) : Prop extends t.Reached c t' where
  pin : (t'.cond c).pin = (t.cond c).pin

section
variable {c : Nat} {t t' t'' : Trg}

theorem Trg.Reached.refl (t : Trg) : t.Reached c t := ⟨fun _ _ => rfl, fun _ h => h⟩

theorem Trg.Reached.trans (a : t.Reached c t') (b : t'.Reached c t'') : t.Reached c t'' :=
  ⟨fun e ne => (b.conds e ne).trans (a.conds e ne), fun r h => b.results r (a.results r h)⟩

theorem Trg.Reached.onCond (f : TrgCond → TrgCond) : t.Reached c (t.onCond c f) := ⟨fun _ ne => t.cond_onCond_ne f ne, fun _ h => h⟩

theorem Trg.Placed.refl (t : Trg) : t.Placed c t := ⟨.refl t, rfl⟩

theorem Trg.Placed.trans (a : t.Placed c t') (b : t'.Placed c t'') : t.Placed c t'' :=
  ⟨a.toReached.trans b.toReached, b.pin.trans a.pin⟩

theorem Trg.Placed.place (time : Stamp) (level value late : Bool) : t.Placed c (t.place c time level value late) := by
  unfold Trg.place
  by_cases idle : (level && (t.cond c).sent == value) = true
  · rw [if_pos idle]; exact .refl t
  · rw [if_neg idle]
    cases level with
    | false => exact ⟨⟨fun _ _ => rfl, fun _ h => List.mem_append_left _ h⟩, rfl⟩
    | true => exact ⟨⟨fun _ ne => t.cond_onCond_ne (fun x => { x with sent := value }) ne, fun _ h => List.mem_append_left _ h⟩,
        (congrArg TrgCond.pin (t.cond_onCond_self c fun x => { x with sent := value })).trans rfl⟩

/-- A pulse is placed whatever the condition last sent. -/
theorem Trg.place_pulse (t : Trg) (c : Nat) (time : Stamp) (value late : Bool) :
    t.place c time false value late = { t with results := t.results ++ [{ cond := c, time, level := false, value, late }] } := rfl

end

/-- Something reached condition `c` of unit `p`. -/
structure Dev.Placed (p c : Nat) (d d' : Dev) : Prop where
  frame : d.TrgFrame d'
  others : ∀ q, q ≠ p → d'.trig q = d.trig q
  here : (d.trig p).Placed c (d'.trig p)

/-- What lies elsewhere: condition `c` of unit `p` is as before, and no result of the unit is lost. -/
structure Dev.Spared (p c : Nat) (d d' : Dev) : Prop where
  frame : d.TrgFrame d'
  cond : (d'.trig p).cond c = (d.trig p).cond c
  results : ∀ r ∈ (d.trig p).results, r ∈ (d'.trig p).results

section
variable {p c q e : Nat} {d d' d'' : Dev}

theorem Dev.Placed.refl (d : Dev) : d.Placed p c d := ⟨rfl, fun _ _ => rfl, .refl _⟩

theorem Dev.Placed.trans (a : d.Placed p c d') (b : d'.Placed p c d'') : d.Placed p c d'' :=
  ⟨a.frame.trans b.frame, fun q ne => (b.others q ne).trans (a.others q ne), a.here.trans b.here⟩

theorem Dev.Placed.onTrig {f : Trg → Trg} (h : (d.trig p).Placed c (f (d.trig p))) : d.Placed p c (d.onTrig p f) :=
  ⟨rfl, fun _ ne => d.trig_onTrig_ne f ne, by rwa [Dev.trig_onTrig_self]⟩

theorem Dev.Placed.trgErr (b : Nat) : d.Placed p c (d.trgErr p b 0) := by
  refine .trans (d' := if bit (d.trig p).err b then d else d.log _) ?_ (.onTrig ⟨⟨fun _ _ => rfl, fun _ h => h⟩, rfl⟩)
  split
  · exact .refl d
  · rw [Dev.log_quiet _ _ (by decide : (0 : Nat) < 2)]
    exact ⟨rfl, fun _ _ => rfl, .refl _⟩

/-- The count of results that came too late or on a port that emits nothing. -/
theorem Dev.Placed.lost : d.Placed p c (d.onTrig p fun t => { t with lost2 := sat32 t.lost2 }) :=
  .onTrig ⟨⟨fun _ _ => rfl, fun _ h => h⟩, rfl⟩

theorem Dev.Placed.placeOuter (time : Stamp) (level value : Bool) : d.Placed p c (d.placeOuter p c time level value) := by
  unfold Dev.placeOuter
  dsimp only
  split
  · exact lost.trans (trgErr 5)
  · split
    · exact (lost.trans (trgErr 3)).trans (.onTrig (.place ..))
    · exact .onTrig (.place ..)

/-- A unit's list of results holds a pulse of condition `c` at a time. -/
def Dev.Sends (d : Dev) (p c : Nat) (time : Stamp) : Prop :=
  ∃ r ∈ (d.trig p).results, r.cond = c ∧ r.time = time ∧ r.level = false ∧ r.value = true

/-- R423: on a port that emits, a pulse goes to the combiner, late or not. -/
theorem Dev.placeOuter_sends (time : Stamp) (emits : (d.port p).emits = true) : (d.placeOuter p c time false true).Sends p c time := by
  have last : ∀ (e : Dev) (late : Bool), (e.onTrig p fun t => t.place c time false true late).Sends p c time := fun e late => by
    unfold Dev.Sends
    rw [Dev.trig_onTrig_self, Trg.place_pulse]
    exact ⟨_, List.mem_append_right _ (List.mem_singleton_self _), rfl, rfl, rfl, rfl⟩
  unfold Dev.placeOuter
  dsimp only
  rw [emits]
  exact last _ _

theorem Dev.Spared.refl (d : Dev) : d.Spared p c d := ⟨rfl, rfl, fun _ h => h⟩

theorem Dev.Spared.trans (a : d.Spared p c d') (b : d'.Spared p c d'') : d.Spared p c d'' :=
  ⟨a.frame.trans b.frame, b.cond.trans a.cond, fun r h => b.results r (a.results r h)⟩

/-- What reaches one condition spares every other one. -/
theorem Dev.Spared.of_reached (frame : d.TrgFrame d') (others : ∀ r, r ≠ q → d'.trig r = d.trig r) (here : (d.trig q).Reached e (d'.trig q))
    (apart : p ≠ q ∨ c ≠ e) : d.Spared p c d' := by
  by_cases same : p = q
  · subst same
    exact ⟨frame, here.conds c (apart.resolve_left fun h => h rfl), here.results⟩
  · have rest := others p same
    exact ⟨frame, by rw [rest], by rw [rest]; exact fun _ h => h⟩

theorem Dev.Sends.spared {time : Stamp} (sends : d.Sends p c time) (spared : d.Spared p c d') : d'.Sends p c time := by
  obtain ⟨r, mem, is⟩ := sends
  exact ⟨r, spared.results r mem, is⟩

end

/-! A walk over every condition of every unit. -/

/-- A command that visits the conditions one after the other. -/
def visitConds (f : Dev → Nat → Nat → Dev) (d : Dev) : Dev :=
  (List.range 4).foldl (fun d p => (List.range 8).foldl (fun d c => f d p c) d) d

section
variable {α β : Type} {R : β → β → Prop} {f : β → α → β}

theorem foldl_keeps (refl : ∀ b, R b b) (trans : ∀ {a b c}, R a b → R b c → R a c) :
    ∀ (l : List α) (b : β), (∀ b, ∀ y ∈ l, R b (f b y)) → R b (l.foldl f b)
  | [], b, _ => refl b
  | y :: l, b, keeps => trans (keeps b y (List.mem_cons_self ..))
      (foldl_keeps refl trans l _ fun b z mem => keeps b z (List.mem_cons_of_mem _ mem))

/-- One element of a list without repetitions has its own step, with only steps of the others before and after it. -/
theorem foldl_visits (refl : ∀ b, R b b) (trans : ∀ {a b c}, R a b → R b c → R a c) {x : α} :
    ∀ {l : List α} (b : β), x ∈ l → l.Nodup → (∀ b, ∀ y ∈ l, y ≠ x → R b (f b y)) → ∃ b', R b b' ∧ R (f b' x) (l.foldl f b)
  | y :: l, b, mem, nodup, keeps => by
    obtain ⟨fresh, nodup⟩ := List.nodup_cons.1 nodup
    have later : ∀ b, ∀ z ∈ l, z ≠ x → R b (f b z) := fun b z mem => keeps b z (List.mem_cons_of_mem _ mem)
    by_cases same : y = x
    · subst same
      exact ⟨b, refl b, foldl_keeps refl trans l _ fun b z mem => later b z mem fun e => fresh (e ▸ mem)⟩
    · obtain ⟨b', before, after⟩ := foldl_visits refl trans (f b y) ((List.mem_cons.1 mem).resolve_left (Ne.symm same)) nodup later
      exact ⟨b', trans (keeps b y (List.mem_cons_self ..) same) before, after⟩

end

section
variable {f : Dev → Nat → Nat → Dev}

theorem visitConds_frame (frame : ∀ (d : Dev) p c, d.TrgFrame (f d p c)) (d : Dev) : d.TrgFrame (visitConds f d) :=
  foldl_keeps Dev.TrgFrame.refl Dev.TrgFrame.trans _ d fun d p _ =>
    foldl_keeps Dev.TrgFrame.refl Dev.TrgFrame.trans _ d fun d c _ => frame d p c

/-- Each condition is visited once, on a device that holds it as it was, and stays as the visit left it. -/
theorem visitConds_once {p c : Nat} (spares : ∀ (d : Dev) q e, p ≠ q ∨ c ≠ e → d.Spared p c (f d q e)) (d : Dev) (hp : p < 4) (hc : c < 8) :
    ∃ d', d.Spared p c d' ∧ (f d' p c).Spared p c (visitConds f d) := by
  obtain ⟨d₁, before, after⟩ := foldl_visits (f := fun d p => (List.range 8).foldl (fun d c => f d p c) d) Dev.Spared.refl
    Dev.Spared.trans d (List.mem_range.2 hp) List.nodup_range fun d q _ other =>
      foldl_keeps Dev.Spared.refl Dev.Spared.trans _ d fun d e _ => spares d q e (.inl (Ne.symm other))
  obtain ⟨d₂, before', after'⟩ := foldl_visits (f := fun d c => f d p c) Dev.Spared.refl Dev.Spared.trans d₁
    (List.mem_range.2 hc) List.nodup_range fun d e _ other => spares d p e (.inr (Ne.symm other))
  exact ⟨d₂, before.trans before', after'.trans after⟩

end

/-! Pins and the instrument line (R418 to R421). -/

/-- R418, R421: the level of a trigger input at one condition. -/
def Dev.pinVisit (pin : Fin 3) (level : Bool) (held : Nat) (time : Stamp) (d : Dev) (p c : Nat) : Dev :=
  let r := d.condRec p c
  if r.typ ≠ 7 ∨ r.pin ≠ pin.val ∨ ((d.trig p).cond c).pin = level ∨ held < (if r.compat then 41 else r.filt + 1) then d else
  let d := d.onTrig p fun t => t.onCond c fun x => { x with pin := level }
  match (if r.compat then 0 else r.mode) with
  | 0 => if level then d.placeOuter p c time false true else d
  | 1 => if level then d else d.placeOuter p c time false true
  | 2 => d.placeOuter p c time false true
  | _ => d.placeOuter p c time true level

/-- R420, R421: the level of the instrument line at one condition. -/
def Dev.lineVisit (low : Bool) (time : Stamp) (d : Dev) (p c : Nat) : Dev :=
  let r := d.condRec p c
  if r.typ ≠ 8 then d
  else if r.mode = 3 then d.placeOuter p c time true low
  else if low then d.placeOuter p c time false true
  else d

/-- The start of a level that has held for some ticks up to now. -/
def Dev.levelStart (d : Dev) (held : BitVec 16) : BitVec 64 := d.now - BitVec.ofNat 64 held.toNat + 1

section
variable (s : State)

theorem exec_externalInputEdge (pin : Fin 3) (level : Bool) (held : BitVec 16) : exec (.externalInputEdge pin level held) s =
    .next { s with dev := visitConds (Dev.pinVisit pin level held.toNat (stampOf (s.dev.levelStart held - 2)))
                     ({ s.dev with instr := { s.dev.instr with pins := setBit s.dev.instr.pins pin level } }) } := by
  rw [show exec (.externalInputEdge pin level held) s = execExternalInputEdge pin level held s from rfl, execExternalInputEdge, devStep_eq]
  unfold visitConds Dev.pinVisit
  rfl

/-- The filter and the blanking of the instrument line, in ticks (R420, R421). -/
def Dev.lineFilter (d : Dev) : Nat := if bit d.instr.force 31 then 41 else fld d.instr.cfg 12 8 + 1
def Dev.blanking (d : Dev) : Nat := if bit d.instr.force 31 then 4096 else fld d.instr.force 20 11 * 4

theorem exec_instrAssertion (low : Bool) (held : BitVec 16) : exec (.instrAssertion low held) s = .next (s.onDev fun d =>
    if held.toNat < d.lineFilter ∨ d.instr.low = low then d
    else if low ∧ d.instr.began.any (fun b => (d.levelStart held - b).toNat < d.blanking) then d
    else visitConds (Dev.lineVisit low (stampOf (d.levelStart held - 2))) { d with instr := { d.instr with low } }) := by
  rw [show exec (.instrAssertion low held) s = execInstrAssertion low held s from rfl, execInstrAssertion, devStep_eq, State.onDev]
  unfold visitConds Dev.lineVisit
  rfl

end

section
variable {pin : Fin 3} {level low : Bool} {held p c : Nat} {time : Stamp} {d : Dev}

/-- R418: what a condition asks of a level before it accepts it. -/
def Dev.Accepts (d : Dev) (pin : Fin 3) (level : Bool) (held p c : Nat) : Prop :=
  (d.condRec p c).typ = 7 ∧ (d.condRec p c).pin = pin.val ∧ ((d.trig p).cond c).pin ≠ level ∧
    (if (d.condRec p c).compat then 41 else (d.condRec p c).filt + 1) ≤ held

theorem Dev.pinVisit_skips (h : ¬ d.Accepts pin level held p c) : d.pinVisit pin level held time p c = d := by
  refine if_pos ?_
  by_contra all
  simp only [not_or, not_not, Nat.not_lt] at all
  exact h all

/-- The device as the condition takes the level, before it sends. -/
def Dev.takesPin (d : Dev) (p c : Nat) (level : Bool) : Dev := d.onTrig p fun t => t.onCond c fun x => { x with pin := level }

theorem Dev.pinVisit_accepts (h : d.Accepts pin level held p c) : d.pinVisit pin level held time p c =
    match (if (d.condRec p c).compat then 0 else (d.condRec p c).mode) with
    | 0 => if level then (d.takesPin p c level).placeOuter p c time false true else d.takesPin p c level
    | 1 => if level then d.takesPin p c level else (d.takesPin p c level).placeOuter p c time false true
    | 2 => (d.takesPin p c level).placeOuter p c time false true
    | _ => (d.takesPin p c level).placeOuter p c time true level := by
  obtain ⟨typ, same, change, long⟩ := h
  exact if_neg (by simp only [typ, same, change, Nat.not_lt.2 long, ne_eq, not_true_eq_false, or_self, not_false_eq_true])

/-- An accepted level is the condition's, and whatever it sends is placed. -/
theorem Dev.pinVisit_placed (h : d.Accepts pin level held p c) :
    (d.takesPin p c level).Placed p c (d.pinVisit pin level held time p c) := by
  rw [Dev.pinVisit_accepts h]
  split
  · split
    · exact .placeOuter ..
    · exact .refl _
  · split
    · exact .refl _
    · exact .placeOuter ..
  · exact .placeOuter ..
  · exact .placeOuter ..

theorem Dev.takesPin_reached (d : Dev) (p c : Nat) (level : Bool) : d.TrgFrame (d.takesPin p c level) ∧
    (∀ q, q ≠ p → (d.takesPin p c level).trig q = d.trig q) ∧ (d.trig p).Reached c ((d.takesPin p c level).trig p) :=
  ⟨rfl, fun _ ne => d.trig_onTrig_ne _ ne, by rw [Dev.takesPin, Dev.trig_onTrig_self]; exact .onCond _⟩

theorem Dev.pinVisit_frame (d : Dev) (p c : Nat) : d.TrgFrame (d.pinVisit pin level held time p c) := by
  by_cases h : d.Accepts pin level held p c
  · exact (d.takesPin_reached p c level).1.trans (Dev.pinVisit_placed h).frame
  · rw [Dev.pinVisit_skips h]; exact .refl d

theorem Dev.pinVisit_spares {q e : Nat} (d : Dev) (apart : p ≠ q ∨ c ≠ e) : d.Spared p c (d.pinVisit pin level held time q e) := by
  by_cases h : d.Accepts pin level held q e
  · obtain ⟨frame, others, here⟩ := d.takesPin_reached q e level
    have placed := Dev.pinVisit_placed (time := time) h
    exact (Dev.Spared.of_reached frame others here apart).trans (.of_reached placed.frame placed.others placed.here.toReached apart)
  · rw [Dev.pinVisit_skips h]; exact .refl d

theorem Dev.pinVisit_pin (h : d.Accepts pin level held p c) : (((d.pinVisit pin level held time p c).trig p).cond c).pin = level := by
  rw [(Dev.pinVisit_placed h).here.pin, Dev.takesPin, Dev.trig_onTrig_self, Trg.cond_onCond_self]

/-- R418: both edges of a pin, or its rise, send a pulse. -/
theorem Dev.pinVisit_sends (h : d.Accepts pin level held p c) (emits : (d.port p).emits = true)
    (edge : (d.condRec p c).mode = 2 ∧ (d.condRec p c).compat = false ∨ (d.condRec p c).mode = 0 ∧ level = true) :
    (d.pinVisit pin level held time p c).Sends p c time := by
  rw [Dev.pinVisit_accepts h]
  rcases edge with ⟨mode, compat⟩ | ⟨mode, rise⟩
  · rw [mode, compat]
    exact Dev.placeOuter_sends time emits
  · rw [mode, ite_self, rise]
    exact Dev.placeOuter_sends time emits

theorem Dev.lineVisit_placed (d : Dev) (p c : Nat) : d.Placed p c (d.lineVisit low time p c) := by
  unfold Dev.lineVisit
  dsimp only
  split
  · exact .refl d
  · split
    · exact .placeOuter ..
    · split
      · exact .placeOuter ..
      · exact .refl d

theorem Dev.lineVisit_spares {q e : Nat} (d : Dev) (apart : p ≠ q ∨ c ≠ e) : d.Spared p c (d.lineVisit low time q e) :=
  have placed := d.lineVisit_placed q e
  .of_reached placed.frame placed.others placed.here.toReached apart

theorem Dev.lineVisit_sends (emits : (d.port p).emits = true) (typ : (d.condRec p c).typ = 8) (mode : (d.condRec p c).mode ≠ 3) :
    (d.lineVisit true time p c).Sends p c time := by
  unfold Dev.lineVisit
  simp only [typ, mode, ne_eq, not_true_eq_false, if_false, if_true]
  exact Dev.placeOuter_sends time emits

end

section
variable {s : State} {held : BitVec 16}

/-- R418: one condition after an edge of a pin. -/
theorem pinVisits_cond (d : Dev) (pin : Fin 3) (level : Bool) (held : Nat) (time : Stamp) {p c : Nat} (hp : p < 4) (hc : c < 8) :
    let t := visitConds (Dev.pinVisit pin level held time) d
    let r := d.condRec p c
    (d.Accepts pin level held p c → ((t.trig p).cond c).pin = level ∧
      ((d.port p).emits = true → r.mode = 2 → r.compat = false → t.Sends p c time) ∧
      ((d.port p).emits = true → r.mode = 0 → level = true → t.Sends p c time)) ∧
    (¬ d.Accepts pin level held p c → (t.trig p).cond c = (d.trig p).cond c) := by
  obtain ⟨d', before, after⟩ := visitConds_once (f := Dev.pinVisit pin level held time) (fun d _ _ => d.pinVisit_spares) d hp hc
  have rec_ := before.frame.condRec p c
  have same : d'.Accepts pin level held p c ↔ d.Accepts pin level held p c := by
    unfold Dev.Accepts; rw [rec_, before.cond]
  refine ⟨fun accepts => ?_, fun skips => ?_⟩
  · have here := same.2 accepts
    refine ⟨?_, fun emits mode compat => ?_, fun emits mode rise => ?_⟩
    · rw [after.cond, Dev.pinVisit_pin here]
    · exact (Dev.pinVisit_sends here (by rwa [before.frame.port]) (.inl (by rw [rec_]; exact ⟨mode, compat⟩))).spared after
    · exact (Dev.pinVisit_sends here (by rwa [before.frame.port]) (.inr (by rw [rec_]; exact ⟨mode, rise⟩))).spared after
  · rw [after.cond, Dev.pinVisit_skips fun h => skips (same.1 h), before.cond]

/-- The same where the walk begins with another state of the line. -/
theorem externalInputEdge_cond (d : Dev) (i : Instr_) (pin : Fin 3) (level : Bool) (held : Nat) (time : Stamp) {p c : Nat} (hp : p < 4) (hc : c < 8) :
    let t := visitConds (Dev.pinVisit pin level held time) { d with instr := i }
    let r := d.condRec p c
    (d.Accepts pin level held p c → ((t.trig p).cond c).pin = level ∧
      ((d.port p).emits = true → r.mode = 2 → r.compat = false → t.Sends p c time) ∧
      ((d.port p).emits = true → r.mode = 0 → level = true → t.Sends p c time)) ∧
    (¬ d.Accepts pin level held p c → (t.trig p).cond c = (d.trig p).cond c) :=
  pinVisits_cond { d with instr := i } pin level held time hp hc

/-- R420: a low level of the line that began while the device's own pull blanks it. -/
def Dev.Blanks (d : Dev) (held : BitVec 16) : Prop := ∃ b, d.instr.began = some b ∧ (d.levelStart held - b).toNat < d.blanking

theorem Dev.blanks_iff (d : Dev) (held : BitVec 16) :
    (d.instr.began.any fun b => (d.levelStart held - b).toNat < d.blanking) = true ↔ d.Blanks held := by
  simp [Option.any_eq_true, Dev.Blanks]

theorem instrAssertion_takes {low : Bool} (change : s.dev.instr.low ≠ low) (long : s.dev.lineFilter ≤ held.toNat)
    (open_ : low = true → ¬ s.dev.Blanks held) : exec (.instrAssertion low held) s =
      .next { s with dev := visitConds (Dev.lineVisit low (stampOf (s.dev.levelStart held - 2)))
                       ({ s.dev with instr := { s.dev.instr with low } }) } := by
  rw [exec_instrAssertion, State.onDev, if_neg (not_or.2 ⟨Nat.not_lt.2 long, change⟩),
    if_neg fun h => open_ h.1 ((s.dev.blanks_iff held).1 h.2)]

theorem instrAssertion_blanked (change : s.dev.instr.low ≠ true) (long : s.dev.lineFilter ≤ held.toNat) (blank : s.dev.Blanks held) :
    exec (.instrAssertion true held) s = .next s := by
  rw [exec_instrAssertion, State.onDev, if_neg (not_or.2 ⟨Nat.not_lt.2 long, change⟩), if_pos ⟨rfl, (s.dev.blanks_iff held).2 blank⟩]

/-- R420: the line's fall at one condition. -/
theorem lineFall_sends (d : Dev) (i : Instr_) (time : Stamp) {p c : Nat} (hp : p < 4) (hc : c < 8) (typ : (d.condRec p c).typ = 8)
    (mode : (d.condRec p c).mode ≠ 3) (emits : (d.port p).emits = true) : (visitConds (Dev.lineVisit true time) { d with instr := i }).Sends p c time := by
  obtain ⟨d', before, after⟩ := visitConds_once (f := Dev.lineVisit true time) (fun d _ _ => d.lineVisit_spares) { d with instr := i } hp hc
  have rec_ : d'.condRec p c = d.condRec p c := before.frame.condRec p c
  exact (Dev.lineVisit_sends (by rwa [before.frame.port]) (by rwa [rec_]) (by rwa [rec_])).spared after

/-- A walk from a device with another state of the instrument line changes that, the units and the records. -/
theorem Dev.TrgFrame.state {d : Dev} {i : Instr_} (h : Dev.TrgFrame { s.dev with instr := i } d) :
    ({ s with dev := d } : State) = { s with dev := { s.dev with trg := d.trg, rel := d.rel, instr := d.instr } } ∧ d.instr = i := by
  have whole : d = { s.dev with trg := d.trg, rel := d.rel, instr := i } := h
  refine ⟨congrArg (fun d : Dev => { s with dev := d }) (whole.trans ?_), h.instr⟩
  rw [h.instr]

end

/-! Timeouts, windows, hold-off, and the controls (R415, R426 to R440). -/

section
variable {s : State} {p : Fin 4}

theorem exec_timeoutCondition (s : State) (p : Fin 4) (c : Fin 8) : exec (.timeoutCondition p c) s =
    .next (s.onDev fun d => d.onTrig p fun t => t.fireTimeout c (d.condRec p c)) := rfl
theorem exec_sequencerWindowExpiry (s : State) (p : Fin 4) : exec (.sequencerWindowExpiry p) s =
    .next (s.onDev fun d => d.onTrig p fun t => { t with window := t.window.filter fun a => t.n ≤ a + (d.unitRec p).win }) := rfl
theorem exec_holdoffEnd (s : State) (p : Fin 4) : exec (.holdoffEnd p) s = execHoldoffEnd p s := rfl
theorem exec_trgForce (s : State) (p : Fin 4) : exec (.trgForce p) s = execTrgForce p s := rfl
theorem exec_clrPend (s : State) (p : Fin 4) : exec (.clrPend p) s = hostStep s fun d => d.onTrig p Trg.dropPend := rfl
theorem exec_trgoScheduledStart (s : State) (p : Fin 4) : exec (.trgoScheduledStart p) s = execTrgoScheduledStart p s := rfl
theorem exec_trgoPulseEnd (s : State) (p : Fin 4) : exec (.trgoPulseEnd p) s =
    .next (s.onDev fun d => d.onTrig p fun t => { t with pulse := none }) := rfl
theorem exec_instrPullEnd (s : State) : exec .instrPullEnd s =
    .next (s.onDev fun d => { d with instr := { d.instr with pulls := d.instr.pulls.drop 1 } }) := rfl
theorem exec_trgMaskData (s : State) (p : Fin 4) (a b : BitVec 16) : exec (.trgMaskData p a b) s = execTrgMaskData p a b s := rfl

/-- A command that changes one unit alone. -/
def TrigAlone (c : Instr) (s : State) (p : Fin 4) (g : Trg) : Prop :=
  ∃ t, exec c s = .next t ∧ t = { s with dev := { s.dev with trg := t.dev.trg } } ∧ t.dev.trig p = g ∧ ∀ k, k ≠ p.val → t.dev.trig k = s.dev.trig k

theorem TrigAlone.of_onTrig {c : Instr} {f : Trg → Trg} {g : Trg} (ran : exec c s = .next (s.onDev fun d => d.onTrig p f))
    (is : f (s.dev.trig p) = g) : TrigAlone c s p g :=
  ⟨_, ran, rfl, (Dev.trig_onTrig_self ..).trans is, fun _ ne => Dev.trig_onTrig_ne _ _ ne⟩

/-- R415: a timeout whose time has run fires once. -/
theorem Trg.fireTimeout_due {t : Trg} {c k : Nat} {r : CondRec} (typ : r.typ = 5) (crossed : (t.cond c).crossed = some k)
    (due : k + r.w1 ≤ (t.env r.env).n) (mode : r.mode = 2) : t.fireTimeout c r = { t.onCond c fun x => { x with crossed := none } with
      results := t.results ++ [{ cond := c, time := (t.env r.env).last, level := false, value := true }] } := by
  simp only [Trg.fireTimeout, typ, crossed, if_neg (Nat.not_lt.2 due), mode, true_or, if_true, Trg.place_pulse]
  rfl

theorem Trg.fireTimeout_early {t : Trg} {c k : Nat} {r : CondRec} (typ : r.typ = 5) (crossed : (t.cond c).crossed = some k)
    (early : (t.env r.env).n < k + r.w1) : t.fireTimeout c r = t := by
  simp only [Trg.fireTimeout, typ, crossed, if_pos early]

/-- R430: the hold-off has run. -/
def TrgHold.Over (h : TrgHold) (n : Nat) : Prop := h.mode = 1 ∧ h.last < n ∨ h.mode = 2 ∧ h.need ≤ h.count

theorem TrgHold.over_iff (h : TrgHold) (n : Nat) :
    ((h.mode == 1 && decide (h.last < n)) || (h.mode == 2 && decide (h.need ≤ h.count))) = true ↔ h.Over n := by
  simp [TrgHold.Over]

theorem holdoffEnd_ends {h : TrgHold} {x : Stamp} (holds : (s.dev.trig p).hold = some h) (time : (s.dev.trig p).lastTime = some x)
    (ended : h.Over (s.dev.trig p).n) : exec (.holdoffEnd p) s =
      .next { s with dev := (s.dev.onTrig p fun t => { t with hold := none }).raise (p * 16 + 14) x } := by
  rw [exec_holdoffEnd, execHoldoffEnd, devStep_eq]
  simp only [holds, time, Option.any_some, Option.getD_some]
  rw [if_pos ((h.over_iff _).2 ended)]

theorem holdoffEnd_runs {h : TrgHold} (holds : (s.dev.trig p).hold = some h) (runs : ¬ h.Over (s.dev.trig p).n) :
    exec (.holdoffEnd p) s = .next s := by
  rw [exec_holdoffEnd, execHoldoffEnd, devStep_eq]
  simp only [holds, Option.any_some]
  rw [if_neg (mt (h.over_iff _).1 runs)]

/-- R427: FORCE stands for the next beat. -/
theorem trgForce_forces (on : s.dev.served = true) (sound : s.dev.rel.devFault = false) (free : s.dev.writeHeld (trgUnit p) = false)
    (lower : s.dev.upperPort p = false) : exec (.trgForce p) s = .next (s.onDev fun d => d.onTrig p fun t => { t with force := true }) := by
  rw [exec_trgForce, execTrgForce, startStep_served _ on sound, free, lower]
  rfl

/-- R35: FORCE of a unit that a session holds is reported. -/
theorem trgForce_locked (on : s.dev.served = true) (sound : s.dev.rel.devFault = false) (held : s.dev.writeHeld (trgUnit p) = true)
    (room : s.dev.rel.queue.length < 64) : ∃ t, exec (.trgForce p) s = .next t ∧ t = { s with dev := { s.dev with rel := t.dev.rel } } ∧
      OneRecord s t .cfgLocked 0 (s.dev.portDom p) := by
  let r : Report := { code := .cfgLocked, sev := 0, domain := s.dev.portDom p, src := BitVec.ofNat 8 (trgUnit p) }
  have ran : exec (.trgForce p) s = .next (s.onDev fun d => d.log r) := by
    rw [exec_trgForce, execTrgForce, startStep_served _ on sound, held]; rfl
  refine ⟨_, ran, ?_, .of_log (r := r) room rfl rfl rfl (by decide : (0 : Nat) < 4)⟩
  rw [State.onDev, Dev.log_quiet _ _ (by decide : (0 : Nat) < 2)]

theorem Trg.dropPend_pending {t : Trg} (pending : t.pend.isSome = true) : t.dropPend = { t with
    pend := none, dropped := BitVec.ofNat 36 (min (t.dropped.toNat + 1) (2 ^ 36 - 1)), ign0 := BitVec.ofNat 32 (min (t.ign0.toNat + 1) (2 ^ 32 - 1)) } := by
  rw [Trg.dropPend, if_pos pending]; rfl

/-- R439: the earliest start, and the pulse it begins. -/
theorem trgoScheduledStart_pulses {x : BitVec 64} {rest : List (BitVec 64)} (starts : (s.dev.trig p).starts = x :: rest) :
    TrigAlone (.trgoScheduledStart p) s p
      { s.dev.trig p with starts := rest, pulse := some (s.dev.now + BitVec.ofNat 64 (s.dev.outRec p).owid) } := by
  have ran : exec (.trgoScheduledStart p) s = .next { s with dev := (s.dev.onTrig p fun t => { t with starts := rest }).pulse p } := by
    rw [exec_trgoScheduledStart, execTrgoScheduledStart, devStep_eq, starts]
  refine ⟨_, ran, rfl, ?_, fun k ne => ?_⟩
  · rw [Dev.pulse, Dev.trig_onTrig_self, Dev.trig_onTrig_self]; rfl
  · exact (Dev.trig_onTrig_ne _ _ ne).trans (Dev.trig_onTrig_ne _ _ ne)

/-- R408: the halves of an entry, as the register's two fields spell them. -/
theorem maskEntry_eq (a b : BitVec 16) : BitVec.ofNat 36 ((b.toInt % 2 ^ 18).toNat * 2 ^ 18 + (a.toInt % 2 ^ 18).toNat) =
    (b.signExtend 18 ++ a.signExtend 18 : BitVec 36) := by
  have half : ∀ x : BitVec 16, (x.toInt % 2 ^ 18).toNat = (x.signExtend 18).toNat := fun x => by
    rw [BitVec.signExtend, BitVec.toNat_ofInt]; rfl
  refine BitVec.eq_of_toNat_eq ?_
  have ha := (a.signExtend 18).isLt
  have hb := (b.signExtend 18).isLt
  rw [half, half, BitVec.toNat_ofNat, BitVec.toNat_append, ← Nat.shiftLeft_add_eq_or_of_lt ha, Nat.shiftLeft_eq]
  omega

end

/-- Settles O28: an edge walks over the conditions, each visited once; the other commands change one unit or the line. -/
theorem triggerPinsTimersAndControlsTakeEffect : Obligations.triggerPinsTimersAndControlsTakeEffect := by
  refine ⟨fun s held => ⟨fun pin level => ?_, fun low change long => ⟨fun clear => ?_, fun b fall began short => ?_⟩⟩,
    fun s p => ⟨fun c k typ crossed => ⟨fun due mode => ?_, fun early => ?_⟩, fun a opened => ?_, fun h x holds time => ⟨fun ended => ?_, fun runs => ?_⟩⟩,
    fun s p => ⟨fun on sound free lower => TrigAlone.of_onTrig (trgForce_forces on sound free lower) rfl,
      fun on sound locked room => trgForce_locked on sound locked room, fun on pending => ?_, fun x rest starts => trgoScheduledStart_pulses starts,
      TrigAlone.of_onTrig (exec_trgoPulseEnd s p) rfl, fun x rest pulls => ?_, fun a b on => ?_⟩⟩
  · obtain ⟨frame, instr⟩ := Dev.TrgFrame.state (s := s) (visitConds_frame (f := Dev.pinVisit pin level held.toNat (stampOf (s.dev.levelStart held - 2))) 
      (fun d _ _ => d.pinVisit_frame ..) { s.dev with instr := { s.dev.instr with pins := setBit s.dev.instr.pins pin level } })
    exact ⟨_, exec_externalInputEdge s pin level held, frame, instr, fun p c hp hc => externalInputEdge_cond s.dev _ pin level _ _ hp hc⟩
  · have open_ : low = true → ¬ s.dev.Blanks held := fun fall ⟨b, began, short⟩ => absurd (clear fall b began) (Nat.not_le.2 short)
    obtain ⟨frame, instr⟩ := Dev.TrgFrame.state (s := s) (visitConds_frame (f := Dev.lineVisit low (stampOf (s.dev.levelStart held - 2)))
      (fun d _ _ => (d.lineVisit_placed ..).frame) { s.dev with instr := { s.dev.instr with low } })
    refine ⟨_, instrAssertion_takes change long open_, frame, instr, fun fall p c hp hc typ mode emits => ?_⟩
    subst fall
    exact lineFall_sends s.dev _ _ hp hc typ mode emits
  · subst fall
    exact instrAssertion_blanked change long ⟨b, began, short⟩
  · refine ⟨_, exec_timeoutCondition s p c, ⟨rfl, fun _ ne => Dev.trig_onTrig_ne _ _ ne⟩, rfl, ?_, ?_⟩
    · rw [State.onDev, Dev.trig_onTrig_self, Trg.fireTimeout_due typ crossed due mode]
      exact Trg.cond_onCond_self (s.dev.trig p) c fun x => { x with crossed := none }
    · rw [State.onDev, Dev.trig_onTrig_self, Trg.fireTimeout_due typ crossed due mode]
      rfl
  · refine ⟨_, exec_timeoutCondition s p c, ⟨rfl, fun _ ne => Dev.trig_onTrig_ne _ _ ne⟩, rfl, ?_⟩
    rw [State.onDev, Dev.trig_onTrig_self, Trg.fireTimeout_early typ crossed early]
  · refine ⟨_, exec_sequencerWindowExpiry s p, ⟨rfl, fun _ ne => Dev.trig_onTrig_ne _ _ ne⟩, rfl, ?_⟩
    rw [State.onDev, Dev.trig_onTrig_self, opened]
    simp only [Option.filter_some, decide_eq_true_eq]
  · exact ⟨_, holdoffEnd_ends holds time ended, ⟨rfl, fun _ ne => (Dev.trig_raise ..).trans (Dev.trig_onTrig_ne _ _ ne)⟩,
      (Dev.trig_raise ..).trans (Dev.trig_onTrig_self ..), rfl⟩
  · exact holdoffEnd_runs holds runs
  · exact TrigAlone.of_onTrig ((exec_clrPend s p).trans (hostStep_served _ on)) (Trg.dropPend_pending pending)
  · rw [exec_instrPullEnd, State.onDev, pulls]; rfl
  · refine ⟨_, (exec_trgMaskData s p a b).trans (hostStep_served _ on), rfl, fun _ ne => Dev.trig_onTrig_ne _ _ ne, ?_, fun k => ?_⟩
    · rw [Dev.trig_onTrig_self]
    · rw [Dev.trig_onTrig_self, maskEntry_eq]
      exact Tbl.get_put ..

end Sys2Proof.Machine
end

section
namespace Sys2Proof.Machine

/-! Record interfaces: one unit after another, and the domain of a port (R35, R248, R777). -/

section
variable {d d' d'' : Dev} {u v : Nat}

theorem Dev.unit_onUnit_ne (d : Dev) (f : RecIf → RecIf) (other : v ≠ u) : (d.onUnit u f).unit v = d.unit v :=
  (Tbl.get_upd ..).trans (if_neg other)

theorem Dev.onUnit_congr {f g : RecIf → RecIf} (same : f (d.unit u) = g (d.unit u)) : d.onUnit u f = d.onUnit u g :=
  congrArg (fun i => ({ d with units := Tbl.set d.units u i } : Dev)) same

/-- Nothing changes but one unit's record interface, the program copies and the error records. -/
structure Dev.UnitAlone (u : Nat) (d d' : Dev) : Prop where
  frame : d' = { d with units := d'.units, insts := d'.insts, rel := d'.rel }
  others : ∀ v, v ≠ u → d'.unit v = d.unit v

theorem Dev.UnitAlone.refl (d : Dev) : d.UnitAlone u d := ⟨rfl, fun _ _ => rfl⟩

theorem Dev.UnitAlone.trans (a : d.UnitAlone u d') (b : d'.UnitAlone u d'') : d.UnitAlone u d'' := by
  refine ⟨?_, fun v ne => (b.others v ne).trans (a.others v ne)⟩
  have last := b.frame
  rw [a.frame] at last
  exact last

theorem Dev.UnitAlone.onUnit (f : RecIf → RecIf) : d.UnitAlone u (d.onUnit u f) := ⟨rfl, fun _ ne => d.unit_onUnit_ne f ne⟩

theorem Dev.UnitAlone.setInst (key : Nat) (i : Inst) : d.UnitAlone u (d.setInst key i) := ⟨rfl, fun _ _ => rfl⟩

theorem Dev.UnitAlone.note (code : Status) (domain : BitVec 16) (src : BitVec 8) : d.UnitAlone u (d.note code domain src) := by
  rw [Dev.note, Dev.log_quiet _ _ (by decide : (0 : Nat) < 2)]
  exact ⟨rfl, fun _ _ => rfl⟩

theorem Dev.UnitAlone.decideRec (r : Shadow) (st : Status) : d.UnitAlone u (d.decideRec u r st) := by
  unfold Dev.decideRec
  split
  · exact .onUnit _
  · split
    · exact .refl d
    · exact .setInst ..

theorem Dev.rel_decideRec (d : Dev) (u : Nat) (r : Shadow) (st : Status) : (d.decideRec u r st).rel = d.rel := by
  unfold Dev.decideRec
  split
  · rfl
  · split <;> rfl

/-- A port is its pair's upper one by the records of the port below it. -/
theorem Dev.UnitAlone.upperPort (a : d.UnitAlone u d') {p : Nat} (other : p - 1 ≠ u) : d'.upperPort p = d.upperPort p := by
  unfold Dev.upperPort Dev.rec?
  rw [a.others _ other]

theorem Dev.UnitAlone.portDom (a : d.UnitAlone u d') {p : Nat} (other : p - 1 ≠ u) : d'.portDom p = d.portDom p := by
  unfold Dev.portDom
  rw [a.upperPort other]

end

/-! Channeliser units (R567, R854). -/

section
variable {d : Dev} (p : Fin 4)

/-- The record interface of a port's channeliser. -/
def chanUnit (p : Fin 4) : Nat := 0x08 + p.val

theorem below_ne_chanUnit : p.val - 1 ≠ chanUnit p := by
  unfold chanUnit
  omega

theorem chanUnit_toNat : (BitVec.ofNat 8 (chanUnit p)).toNat = chanUnit p := by
  revert p; decide

theorem recUnit_chanUnit : recUnit (chanUnit p) = true := by
  revert p; decide

theorem Dev.unitDom_chanUnit (d : Dev) : d.unitDom (chanUnit p) = d.portDom p :=
  match p with
  | 0 | 1 | 2 | 3 => rfl

theorem Dev.submitRec_chanUnit (d : Dev) (r : Shadow) : d.submitRec (chanUnit p) r = d.submit (chanUnit p) r (need (!d.upperPort p)) :=
  match p with
  | 0 | 1 | 2 | 3 => rfl

theorem recLen_chanUnit (c : List (BitVec 36)) : recLen (chanUnit p) 1 c = some 4 :=
  match p with
  | 0 | 1 | 2 | 3 => rfl

theorem Dev.pathHeld_chanUnit (d : Dev) (c : List (BitVec 36)) : d.pathHeld (chanUnit p) c = d.writeHeld (chanUnit p) :=
  match p with
  | 0 | 1 | 2 | 3 => rfl

/-- A record is taken while no other one of its type waits. -/
theorem Dev.shadowPut_fresh {u : Nat} {r : Shadow} (fresh : ∀ x ∈ (d.unit u).shadow, x.typ ≠ r.typ) :
    d.shadowPut u r = d.onUnit u fun i => { i with shadow := i.shadow.filter (fun x => x.typ != r.typ) ++ [r] } := by
  have none : (d.unit u).shadow.filter (fun x => x.typ == r.typ) = [] :=
    List.filter_eq_nil_iff.2 fun x mem => by simpa using fresh x mem
  unfold Dev.shadowPut
  rw [none]
  rfl

theorem Dev.unit_shadowPut {u : Nat} {r : Shadow} (fresh : ∀ x ∈ (d.unit u).shadow, x.typ ≠ r.typ) :
    (d.shadowPut u r).unit u = { d.unit u with shadow := (d.unit u).shadow ++ [r] } := by
  have keeps : (d.unit u).shadow.filter (fun x => x.typ != r.typ) = (d.unit u).shadow :=
    List.filter_eq_self.2 fun x mem => by simpa using fresh x mem
  rw [Dev.shadowPut_fresh fresh, Dev.unit_onUnit, keeps]

/-- A rejected record is one NOTE, on a queue with room. -/
theorem OneRecord.of_reject {s t : State} {u : Nat} {r : Shadow} {st : Status} {dom : BitVec 16} (alone : s.dev.UnitAlone u d)
    (same : d.rel = s.dev.rel) (room : s.dev.rel.queue.length < 64) (rejected : t.dev.rel = (d.rejectRec u r st).rel)
    (dom_eq : d.unitDom u = dom) : OneRecord s t st 0 dom := by
  subst dom_eq
  have whole := alone.trans (Dev.UnitAlone.decideRec r st)
  refine .of_log (d := d.decideRec u r st)
    (r := { code := st, sev := 0, domain := d.unitDom u, src := BitVec.ofNat 8 u, cause := 0, detail := 0 }) room ((Dev.rel_decideRec ..).trans same) ?_
    rejected (by decide : (0 : Nat) < 4)
  rw [whole.frame]
  rfl

end

/-! The register path (R854). -/

section
variable {s : State} {d : Dev} {p : Fin 4}

/-- The record that a GO submits. -/
def RecIf.pathRecord (f : RecIf) : Shadow := { typ := f.typ, cells := (List.range f.len).map fun k => Tbl.get 0 f.buf k, go := f.gos + 1 }

theorem RecIf.pathRecord_eq {f : RecIf} {n : Nat} (typ : f.typ = n) :
    f.pathRecord = { typ := n, cells := (List.range f.len).map fun k => Tbl.get 0 f.buf k, go := f.gos + 1 } := by
  subst typ; rfl

/-- A unit as its GO begins. -/
def Dev.going (d : Dev) (u : Nat) : Dev := d.onUnit u fun i => { i with gos := i.gos + 1, result := 0xF }

theorem Dev.going_alone (d : Dev) (u : Nat) : d.UnitAlone u (d.going u) := .onUnit _

theorem Dev.unit_going (d : Dev) (u : Nat) : (d.going u).unit u = { d.unit u with gos := (d.unit u).gos + 1, result := 0xF } := d.unit_onUnit ..

theorem exec_go {d : Dev} (on : s.dev.served = true) (sound : s.dev.rel.devFault = false) (goes : s.dev.recGo (chanUnit p) = d) :
    exec (.go (BitVec.ofNat 8 (chanUnit p))) s = .next { s with dev := d } := by
  rw [show exec (.go (BitVec.ofNat 8 (chanUnit p))) s = execGo (BitVec.ofNat 8 (chanUnit p)) s from rfl, execGo, startStep_served _ on sound,
    chanUnit_toNat, recUnit_chanUnit, ← goes]
  rfl

/-- RESULT shows what became of the last GO. -/
theorem Dev.unit_decided (d : Dev) (u : Nat) (st : Status) : ((d.going u).decideRec u (d.unit u).pathRecord st).unit u =
    { d.unit u with gos := (d.unit u).gos + 1, result := resultCode st } := by
  have path : (d.unit u).pathRecord.origin = none := rfl
  rw [Dev.decideRec, path, Dev.unit_onUnit, Dev.unit_going, if_pos ⟨rfl, rfl⟩]

/-- R567: a record whose length is not its type's. -/
theorem Dev.recGo_wrongLength (typ : (d.unit (chanUnit p)).typ = 1) (len : (d.unit (chanUnit p)).len ≠ 4) : d.recGo (chanUnit p) =
    (d.going (chanUnit p)).decideRec (chanUnit p) (d.unit (chanUnit p)).pathRecord .cfgRange := by
  unfold Dev.recGo
  dsimp only
  rw [if_pos]
  · rfl
  · rw [typ, recLen_chanUnit]
    exact .inr (.inr fun same => len (Option.some.inj same).symm)

section
variable (typ : (d.unit (chanUnit p)).typ = 1) (len : (d.unit (chanUnit p)).len = 4)
include typ len

theorem Dev.recGo_checked : d.recGo (chanUnit p) =
    if d.writeHeld (chanUnit p) then (d.going (chanUnit p)).rejectRec (chanUnit p) (d.unit (chanUnit p)).pathRecord .cfgLocked
    else (d.going (chanUnit p)).submitRec (chanUnit p) (d.unit (chanUnit p)).pathRecord := by
  unfold Dev.recGo
  dsimp only
  rw [if_neg, Dev.pathHeld_chanUnit]
  · rfl
  · rw [typ, len, recLen_chanUnit]
    decide

/-- R35: a session holds the unit. -/
theorem Dev.recGo_locked (held : d.writeHeld (chanUnit p) = true) : d.recGo (chanUnit p) =
    (d.going (chanUnit p)).rejectRec (chanUnit p) (d.unit (chanUnit p)).pathRecord .cfgLocked := by
  rw [Dev.recGo_checked typ len, if_pos held]

variable (free : d.writeHeld (chanUnit p) = false)
include free

/-- R248: the unit of a pair's upper port takes no record. -/
theorem Dev.recGo_upper (upper : d.upperPort p = true) : d.recGo (chanUnit p) =
    (d.going (chanUnit p)).rejectRec (chanUnit p) (d.unit (chanUnit p)).pathRecord .cfgRange := by
  rw [Dev.recGo_checked typ len, free, if_neg Bool.false_ne_true, Dev.submitRec_chanUnit, (d.going_alone _).upperPort (below_ne_chanUnit p),
    upper]
  rfl

theorem Dev.recGo_taken (lower : d.upperPort p = false) : d.recGo (chanUnit p) =
    (d.going (chanUnit p)).shadowPut (chanUnit p) (d.unit (chanUnit p)).pathRecord := by
  rw [Dev.recGo_checked typ len, free, if_neg Bool.false_ne_true, Dev.submitRec_chanUnit, (d.going_alone _).upperPort (below_ne_chanUnit p),
    lower]
  rfl

end

/-- What a GO leaves: its unit with the given interface, and no copy touched. -/
structure Dev.GoLeaves (d : Dev) (p : Fin 4) (g : RecIf) (d' : Dev) : Prop where
  alone : d.UnitAlone (chanUnit p) d'
  insts : d'.insts = d.insts
  unit : d'.unit (chanUnit p) = g

theorem Dev.GoLeaves.decided (d : Dev) (p : Fin 4) (st : Status) :
    d.GoLeaves p { d.unit (chanUnit p) with gos := (d.unit (chanUnit p)).gos + 1, result := resultCode st }
      ((d.going (chanUnit p)).decideRec (chanUnit p) (d.unit (chanUnit p)).pathRecord st) :=
  ⟨(d.going_alone _).trans (.decideRec _ st), rfl, d.unit_decided _ st⟩

theorem Dev.GoLeaves.rejected (d : Dev) (p : Fin 4) (st : Status) :
    d.GoLeaves p { d.unit (chanUnit p) with gos := (d.unit (chanUnit p)).gos + 1, result := resultCode st }
      ((d.going (chanUnit p)).rejectRec (chanUnit p) (d.unit (chanUnit p)).pathRecord st) where
  alone := (GoLeaves.decided d p st).alone.trans (.note ..)
  insts := (Dev.note_insts ..).trans (GoLeaves.decided d p st).insts
  unit := by
    rw [Dev.rejectRec, Dev.unit, Dev.note_units]
    exact (GoLeaves.decided d p st).unit

theorem Dev.GoLeaves.taken (fresh : ∀ x ∈ (d.unit (chanUnit p)).shadow, x.typ ≠ (d.unit (chanUnit p)).typ) :
    d.GoLeaves p { d.unit (chanUnit p) with
        gos := (d.unit (chanUnit p)).gos + 1, result := 0xF, shadow := (d.unit (chanUnit p)).shadow ++ [(d.unit (chanUnit p)).pathRecord] }
      ((d.going (chanUnit p)).shadowPut (chanUnit p) (d.unit (chanUnit p)).pathRecord) ∧
    ((d.going (chanUnit p)).shadowPut (chanUnit p) (d.unit (chanUnit p)).pathRecord).rel = d.rel := by
  have free : ∀ x ∈ ((d.going (chanUnit p)).unit (chanUnit p)).shadow, x.typ ≠ (d.unit (chanUnit p)).pathRecord.typ := by
    rw [Dev.unit_going]; exact fresh
  have shown := Dev.unit_shadowPut free
  rw [Dev.shadowPut_fresh free] at shown ⊢
  exact ⟨⟨(d.going_alone _).trans (.onUnit _), rfl, shown.trans (by rw [Dev.unit_going])⟩, rfl⟩

theorem Dev.GoLeaves.state {d' : Dev} {g : RecIf} (h : s.dev.GoLeaves p g d') : d'.unit (chanUnit p) = g ∧
    ({ s with dev := d' } : State) = { s with dev := { s.dev with units := d'.units, rel := d'.rel, hlk := d'.hlk } } ∧
    ∀ v, v ≠ chanUnit p → d'.unit v = s.dev.unit v := by
  have whole := h.alone.frame
  rw [h.insts] at whole
  refine ⟨h.unit, congrArg (fun d : Dev => { s with dev := d }) (whole.trans ?_), h.alone.others⟩
  rw [whole]

/-- R37, R780: the record of a rejected GO stands in the port's domain. -/
theorem going_reported {st : Status} (room : s.dev.rel.queue.length < 64) : OneRecord s
    { s with dev := (s.dev.going (chanUnit p)).rejectRec (chanUnit p) (s.dev.unit (chanUnit p)).pathRecord st } st 0 (s.dev.portDom p) :=
  .of_reject (s.dev.going_alone _) rfl room rfl ((Dev.unitDom_chanUnit p _).trans ((s.dev.going_alone _).portDom (below_ne_chanUnit p)))

end

/-! Results (R570), and the monitors' boundary (R36, R775). -/

section
variable {d : Dev} {u : Nat} {r : Shadow} {st : Status}

/-- A result changes no record of its unit. -/
theorem Dev.unit_decideRec (d : Dev) (u : Nat) (r : Shadow) (st : Status) :
    (d.decideRec u r st).unit u = { d.unit u with result := ((d.decideRec u r st).unit u).result } := by
  unfold Dev.decideRec
  split
  · rw [Dev.unit_onUnit]
    split <;> rfl
  · split <;> rfl

theorem Dev.decideRec_path (path : r.origin = none) : (d.decideRec u r st).insts = d.insts ∧ ((d.decideRec u r st).unit u).result =
    if (d.unit u).gos = r.go ∧ (d.unit u).result = 0xF then resultCode st else (d.unit u).result := by
  rw [Dev.decideRec, path]
  refine ⟨rfl, ?_⟩
  rw [Dev.unit_onUnit, apply_ite RecIf.result]

/-- The undecided SETUPs with an issue index take the result. -/
def Inst.decided (i : Inst) (idx : Nat) (st : Status) : Inst :=
  { i with setups := mapIf (fun e => e.idx == idx && e.result.isNone) (fun e => { e with result := some st }) i.setups }

theorem Dev.decideRec_setup {key idx : Nat} {i : Inst} (sent : r.origin = some (key, idx)) (copy : Tbl.find? d.insts key = some i) :
    d.decideRec u r st = d.setInst key (i.decided idx st) := by
  rw [Dev.decideRec, sent]
  simp only [copy]
  rfl

theorem Inst.decided_setups {i : Inst} {idx : Nat} (open_ : ∀ q ∈ i.setups, q.idx = idx → q.result = none) :
    ∀ q ∈ (i.decided idx st).setups, q.idx = idx → q.result = some st := by
  intro q mem is
  obtain ⟨e, old, rfl⟩ := List.mem_map.1 mem
  by_cases it : (e.idx == idx && e.result.isNone) = true
  · rw [if_pos it]
  · rw [if_neg it] at is
    exact absurd (by simp [is, open_ e old is]) it

end

section
variable {s : State} {d : Dev} {c : BitVec 36} {r : Shadow}

/-- The monitors' unit as its only waiting record comes into force. -/
def Dev.accInForce (d : Dev) (r : Shadow) : Dev :=
  (d.onUnit monUnit fun i => { i with shadow := [] }).setRec monUnit 4 (monSub r) r.cells

theorem Dev.unit_accInForce (d : Dev) (r : Shadow) : (d.accInForce r).unit monUnit =
    { d.unit monUnit with shadow := [], com := Tbl.set (d.unit monUnit).com (4 * 256 + monSub r) r.cells } := by
  rw [Dev.accInForce, Dev.setRec, Dev.unit_onUnit, Dev.unit_onUnit]

theorem Dev.monCommit_acc (waits : (d.unit monUnit).shadow = [r]) (typ : r.typ = 4) (cells : r.cells = [c]) (reserved : fld c 30 6 = 0) :
    d.monCommit = (d.accInForce r).decideRec monUnit r .ok := by
  have due : (if r.typ = 3 then (d.mon.seq (monSub r)).st == .idle else true) = true := by rw [typ]; rfl
  have checked : ∀ e : Dev, e.monCheck r = .ok () := fun e => by
    simp only [Dev.monCheck, typ, cells, cellOf, List.getElem?_cons_zero, Option.getD_some, reserved]
    rfl
  have taken : (d.onUnit monUnit fun i => { i with shadow := i.shadow.filter fun x =>
      !(if x.typ = 3 then (d.mon.seq (monSub x)).st == .idle else true) }) = d.onUnit monUnit fun i => { i with shadow := [] } := by
    refine Dev.onUnit_congr ?_
    rw [waits, List.filter_cons_of_neg (by rw [due]; decide), List.filter_nil]
  rw [Dev.monCommit, Dev.monCommitWith, Dev.takeShadow]
  simp only [waits, taken, List.filter_cons_of_pos (p := fun r : Shadow => if r.typ = 3 then (d.mon.seq (monSub r)).st == .idle else true) due,
    List.filter_nil, List.foldl_cons, List.foldl_nil, Dev.monCommitOne, checked, Dev.settle, typ]
  rfl

theorem exec_recordCommit_mon (started : s.dev.tim.started = true) : exec (.recordCommit 0x40) s = .next { s with dev := s.dev.monCommit } :=
  congrArg Host.Outcome.next (if_pos started : (if s.dev.tim.started then s.onDev Dev.monCommit else s) = _)

end

/-- R36, R775: what the monitors' commit leaves of the device. -/
theorem accInForce_decided (d : Dev) (r : Shadow) : d.UnitAlone monUnit ((d.accInForce r).decideRec monUnit r .ok) ∧
    (((d.accInForce r).decideRec monUnit r .ok).unit monUnit).shadow = [] ∧
    ((d.accInForce r).decideRec monUnit r .ok).rec? monUnit 4 (monSub r) = some r.cells := by
  refine ⟨((Dev.UnitAlone.onUnit _).trans (.onUnit _)).trans (.decideRec r .ok), ?_, ?_⟩
  · rw [Dev.unit_decideRec, Dev.unit_accInForce]
  · rw [Dev.rec?, Dev.unit_decideRec, Dev.unit_accInForce]
    exact Tbl.find_set_self ..

/-- Settles O11: a GO ends in one of its four cases; the monitors' record is committed and its result decided. -/
theorem setupRecordsComeIntoForce : Obligations.setupRecordsComeIntoForce := by
  refine ⟨fun s p on sound => ⟨fun typ len free upper room => ?_, fun typ len free lower fresh => ?_, fun typ len held room => ?_,
    fun typ len => ?_⟩, fun s c origin go started reserved waits => ?_⟩
  · exact ⟨_, ⟨exec_go on sound (Dev.recGo_upper typ len free upper), (Dev.GoLeaves.rejected s.dev p .cfgRange).state⟩, going_reported room⟩
  · obtain ⟨leaves, rel⟩ := Dev.GoLeaves.taken (d := s.dev) (p := p) fun x mem same => fresh x mem (same.trans typ)
    obtain ⟨unit, rest⟩ := leaves.state
    refine ⟨_, ⟨exec_go on sound (Dev.recGo_taken typ len free lower), unit.trans ?_, rest⟩, rel, ?_⟩
    · rw [RecIf.pathRecord_eq (f := s.dev.unit (chanUnit p)) typ]; rfl
    · rw [leaves.alone.frame]
  · exact ⟨_, ⟨exec_go on sound (Dev.recGo_locked typ len held), (Dev.GoLeaves.rejected s.dev p .cfgLocked).state⟩, going_reported room⟩
  · exact ⟨_, ⟨exec_go on sound (Dev.recGo_wrongLength typ len), (Dev.GoLeaves.decided s.dev p .cfgRange).state⟩, rfl, rfl⟩
  · let r : Shadow := { typ := 4, cells := [c], origin, go }
    have ran := exec_recordCommit_mon started
    rw [Dev.monCommit_acc (r := r) waits rfl rfl reserved] at ran
    obtain ⟨alone, empty, inForce⟩ := accInForce_decided s.dev r
    have rel := Dev.rel_decideRec (s.dev.accInForce r) monUnit r .ok
    refine ⟨_, ran, ?_, empty, ⟨_, inForce, rfl⟩, alone.others, fun path => ?_, fun key idx i sent copy open_ => ?_⟩
    · have whole := alone.frame
      rw [rel] at whole
      exact congrArg (fun d : Dev => { s with dev := d }) whole
    · obtain ⟨insts, result⟩ := Dev.decideRec_path (d := s.dev.accInForce r) (u := monUnit) (r := r) (st := .ok) path
      rw [Dev.unit_accInForce] at result
      exact ⟨insts, result⟩
    · rw [Dev.decideRec_setup (d := s.dev.accInForce r) (r := r) sent copy]
      exact ⟨_, Tbl.find_set_self .., Inst.decided_setups open_⟩

end Sys2Proof.Machine
end

section
namespace Sys2Proof.Machine

/-! Bundles whose last slot reached the device (R39, R615). -/

section
variable {s : State} {h : Slot} {key : Nat} {i j : Inst} {e : Issue} {p : Plan} {d : Dev}

/-- The copy in the device is the one that the operation left. -/
structure Dev.Carries (s : State) (d : Dev) (i j : Inst) : Prop where
  stk : d.stk = s.dev.stk
  freeCtr : d.freeCtr = s.dev.freeCtr
  quiet : QuietQueues d.insts
  place : j.session = i.session ∧ j.prog = i.prog
  oq : j.oq = i.oq

/-- The last slot of a bundle where its operation changed the device as well as the copy. -/
theorem State.slot_reaches (turn : SlotTurn s h 3 key i e) (cl : Closes s h i e) (fits : p.Fits e) (carries : d.Carries s i j)
    (ran : (workOf s key i (e.joined p)).runPlan h p = workOf { s with dev := d } key j (e.joined p)) :
    s.slot h p = { s with dev := (d.freed.setInst key (j.closed e s.stall)).countIssue h.spu.val } := by
  obtain ⟨stk, free, quiet, ⟨session, prog⟩, oq⟩ := carries
  obtain ⟨plain, ⟨g, hg, room⟩, inside, going, still⟩ := cl
  have clean := Issue.joined_clean turn.clean fits.legal fits.plain.1 fits.plain.2 fits.fresh fits.once
  let w := workOf { s with dev := d } key j (e.joined p)
  have room' : e.snap.pc + 1 < w.prog.codeBundles := by
    have same : d.program? j.session j.prog = some g := by rw [← hg, session, prog, Dev.program?, Dev.program?, stk]
    rwa [show w.prog = g by simp only [w, Work.prog, workOf, same, Option.getD_some]]
  have going' : bit (d.spu h.spu.val).dbgCtl 0 = false := by rw [Dev.spu, stk]; exact going
  have closes := Work.close_commits (w := w) clean plain inside room' going'
  rw [State.slot_turn (fits.slot ▸ turn)]
  refine (if_pos (.inr fits.slot)).trans ((congrArg (Work.close · h.spu.val) ran).trans (closes.trans ?_))
  have stall : w.st.stall = s.stall := congrArg Config.stallClocks free
  have idle : QuietQueues ((d.freed.setInst key (j.closed e s.stall)).countIssue h.spu.val).insts :=
    QuietQueues.set quiet key fun n => by
      have := still _ (Tbl.mem_of_find turn.copy) n
      simpa [Inst.outq, Inst.closed, oq] using this
  rw [stall]
  exact congrArg (fun d : Dev => { s with dev := d }) (Dev.pump_quiet idle)

end

/-- An operation that holds its bundle back. -/
theorem Work.runPlan_holds {w : Work} {h : Slot} {p : Plan}
    (on : (if p.lanes then w.src.guard h != 0 else bit (w.src.guard h) 0) = true) (ready : p.ready (w.src.guard h) w = .ok false) :
    w.runPlan h p = { w with iss := { w.iss with stalled := true, waits := w.iss.waits || p.waits } } := by
  simp only [Work.runPlan, on, ready, Bool.not_true, Bool.false_eq_true, if_false]

theorem Work.close_waits {w : Work} {k : Nat} (legal : w.iss.illegal = false) (stays : w.iss.isExit = false) (transfer : w.iss.badTransfer = false)
    (stalled : w.iss.stalled = true) : w.close k = w.wait k := by
  simp only [Work.close, legal, stays, transfer, stalled, Bool.false_eq_true, false_and, or_self, if_false, if_true]

theorem Work.wait_goes {w : Work} {k : Nat} (going : bit (w.st.dev.spu k).dbgCtl 0 = false) : w.wait k = w.st.onDev fun d => d.freed.setInst w.key
    { w.inst with
        regs := { w.iss.snap with cyc := w.iss.snap.cyc + 1 + BitVec.ofNat 64 w.st.stall, flags := w.inst.regs.flags }
        issue := none, waiting := w.iss.waits } :=
  congrArg (fun d : Dev => { w.st with dev := d }) (if_neg (show ¬ bit (w.st.dev.spu k).dbgCtl 0 = true by rw [going]; exact Bool.false_ne_true))

/-! SETUP (R39, R567 to R571). -/

section
variable {s : State} {h : Slot} {key : Nat} {i : Inst} {e : Issue} {v : BitVec 8} {ax typ : BitVec 4}

theorem planSetup_fits : (planSetup v ax typ).Fits e := .of_silent ⟨rfl, rfl, ⟨rfl, rfl⟩, rfl⟩

/-- R571: with 16 undecided results the bundle does not issue, which is no wait of R588. -/
theorem setup_stalls (turn : SlotTurn s h 3 key i e) (cl : Closes s h i e) (on : e.on h = true) (full : 16 ≤ i.undecided)
    (waits : e.waits = false) : s.slot h (planSetup v ax typ) = s.onDev fun d => d.freed.setInst key
      { i with regs := { e.snap with cyc := e.snap.cyc + 1 + BitVec.ofNat 64 s.stall, flags := i.regs.flags }, issue := none, waiting := false } := by
  have fits := planSetup_fits (v := v) (ax := ax) (typ := typ) (e := e)
  have clean := Issue.joined_clean turn.clean fits.legal fits.plain.1 fits.plain.2 fits.fresh fits.once
  simp only [Issue.clean, Bool.and_eq_true, Bool.not_eq_true', Option.isNone_iff_eq_none] at clean
  obtain ⟨⟨⟨⟨illegal, bad⟩, -⟩, -⟩, quits⟩ := clean
  let w := workOf s key i { e.joined (planSetup v ax typ) with stalled := true, waits := e.waits || (planSetup v ax typ).waits }
  have held : (workOf s key i (e.joined (planSetup v ax typ))).runPlan h (planSetup v ax typ) = w :=
    Work.runPlan_holds on (congrArg Except.ok (decide_eq_false (Nat.not_lt.2 full)))
  rw [State.slot_turn (p := planSetup v ax typ) turn]
  refine (if_pos (.inr rfl)).trans ((congrArg (Work.close · h.spu.val) held).trans ((Work.close_waits (w := w) illegal quits bad rfl).trans ?_))
  rw [Work.wait_goes (w := w) cl.going, show w.iss.waits = false by simp [w, workOf, waits, planSetup]]
  rfl

end

theorem mapM_pure_eq {ε α β : Type} {f : α → Except ε β} {g : α → β} : ∀ {l : List α}, (∀ a ∈ l, f a = .ok (g a)) → l.mapM f = .ok (l.map g)
  | [], _ => rfl
  | a :: l, h => by
    rw [List.mapM_cons, h a (List.mem_cons_self ..), mapM_pure_eq fun b k => h b (List.mem_cons_of_mem _ k)]
    rfl

section
variable {w : Work} {a n : Nat} {cells : Nat → Cell}

theorem Work.windowRun_reads (lo : 0x800000 ≤ a) (hi : a + n ≤ 0x1000000) (reads : ∀ k, k < n → w.readCell (a + k) = .ok (cells k)) :
    w.windowRun a n = .ok ((List.range n).map fun k => (cells k).data) := by
  rw [Work.windowRun, if_neg (by omega)]
  refine mapM_pure_eq fun k mem => ?_
  rw [reads k (List.mem_range.1 mem)]
  rfl

theorem Work.mend_idle {l : List Nat} (idle : ∀ b ∈ l, w.mend [b] = w) : w.mend l = w := by
  induction l with
  | nil => rfl
  | cons b l ih =>
    have first : w.mendCell b = w := idle b (List.mem_cons_self ..)
    rw [Work.mend, List.foldl_cons, first]
    exact ih fun c mem => idle c (List.mem_cons_of_mem _ mem)

/-- R569: what SETUP does with the four cells of a channeliser's record. -/
theorem planSetup_run {p : Fin 4} {ax : BitVec 4} {g : BitVec 8} (base : (w.src.ga ax.toNat).toNat = a) (lo : 0x800000 ≤ a) (hi : a + 4 ≤ 0x1000000)
    (reads : ∀ k, k < 4 → w.readCell (a + k) = .ok (cells k)) (mends : ∀ k, k < 4 → w.mend [a + k] = w) :
    (planSetup (BitVec.ofNat 8 (chanUnit p)) ax 1).run g w =
      if w.granted 2 (chanUnit p) 2 then .ok ((w.addSetup none).through fun d => d.submitRec (chanUnit p)
        { typ := 1, cells := (List.range 4).map fun k => (cells k).data, origin := some (w.key, w.inst.nextSetup) })
      else .ok (w.addSetup (some .grantFault)) := by
  have run : ∀ n, n ≤ 4 → w.windowRun a n = .ok ((List.range n).map fun k => (cells k).data) := fun n le =>
    Work.windowRun_reads lo (by omega) fun k lt => reads k (by omega)
  have healed : w.mend ((List.range 4).map (a + ·)) = w := Work.mend_idle fun b mem => by
    obtain ⟨k, lt, rfl⟩ := List.mem_map.1 mem
    exact mends k (List.mem_range.1 lt)
  have may : ∀ c, w.maySetup (chanUnit p) c = w.granted 2 (chanUnit p) 2 := fun c => by
    have apart : (chanUnit p == capUnit) = false := by revert p; decide
    rw [Work.maySetup, apart, Bool.false_and, Bool.or_false]
  simp only [planSetup, chanUnit_toNat, show (1 : BitVec 4).toNat = 1 from rfl, recLen_chanUnit, base, Option.isNone_some, Bool.false_eq_true, if_false,
    Option.getD_some, run 1 (by decide), run 4 (by decide), run (min 4 2) (by decide), bind, Except.bind, Nat.not_lt.2 hi, healed, may]
  cases w.granted 2 (chanUnit p) 2 <;> rfl

/-- R567: the channelisers have no record of type 0. -/
theorem planSetup_noType {p : Fin 4} {ax : BitVec 4} {g : BitVec 8} :
    (planSetup (BitVec.ofNat 8 (chanUnit p)) ax 0).run g w = .ok (w.addSetup (some .cfgRange)) := by
  have none : recLen (chanUnit p) 0 [] = none := match p with
    | 0 | 1 | 2 | 3 => rfl
  simp only [planSetup, chanUnit_toNat, show (0 : BitVec 4).toNat = 0 from rfl, none, Option.isNone_none, if_true]
  rfl

end

/-- The copy after a SETUP (R570). -/
def Inst.afterSetup (i : Inst) (result : Option Status) : Inst :=
  { i with setups := i.setups ++ [{ idx := i.nextSetup, result }], nextSetup := i.nextSetup + 1 }

section
variable {s : State} {h : Slot} {key : Nat} {i : Inst} {e : Issue} {v : BitVec 8} {ax typ : BitVec 4} {p : Fin 4}

/-- What an operation on the device leaves the copy as, where the device then holds it. -/
theorem Work.through_of {w : Work} {f : Dev → Dev} {d : Dev} {j : Inst} (acts : f (w.st.dev.setInst w.key w.inst) = d)
    (holds : Tbl.find? d.insts w.key = some j) : w.through f = { w with st := { w.st with dev := d }, inst := j } := by
  subst acts
  simp only [Work.through, holds, Option.getD_some]

section
variable (turn : SlotTurn s h 3 key i e) (cl : Closes s h i e)
include turn cl

/-- A table of copies stays quiet as the bundle's copy is replaced by one with the same output queues. -/
theorem Closes.quiet_set {l : Tbl Inst} (quiet : QuietQueues l) {j : Inst} (oq : j.oq = i.oq) : QuietQueues (Tbl.set l key j) :=
  quiet.set key fun n => by
    have := cl.quiet _ (Tbl.mem_of_find turn.copy) n
    simpa [Inst.outq, oq] using this

variable (on : e.on h = true) (few : i.undecided < 16)
include on few

/-- A SETUP whose result is decided at once. -/
theorem setup_decided {st : Status} (run : (planSetup v ax typ).run (e.snap.guard h) (workOf s key i (e.joined (planSetup v ax typ))) =
    .ok ((workOf s key i (e.joined (planSetup v ax typ))).addSetup (some st))) :
    s.slot h (planSetup v ax typ) = s.issued h key ((i.afterSetup (some st)).closed e s.stall) :=
  planSetup_fits.issued (sets := e.sets) turn cl on (congrArg Except.ok (decide_eq_true few)) run ⟨rfl, rfl⟩ rfl

/-- A SETUP that the unit takes or rejects. -/
theorem setup_submitted {r : Shadow} {d : Dev} {j : Inst} (run : (planSetup v ax typ).run (e.snap.guard h) (workOf s key i (e.joined (planSetup v ax typ))) =
      .ok (((workOf s key i (e.joined (planSetup v ax typ))).addSetup none).through fun d => d.submitRec (chanUnit p) r))
    (acts : (s.dev.setInst key (i.afterSetup none)).submitRec (chanUnit p) r = d) (holds : Tbl.find? d.insts key = some j)
    (carries : d.Carries s i j) :
    s.slot h (planSetup v ax typ) = { s with dev := (d.freed.setInst key (j.closed e s.stall)).countIssue h.spu.val } := by
  have fits := planSetup_fits (v := v) (ax := ax) (typ := typ) (e := e)
  have clean := Issue.joined_clean turn.clean fits.legal fits.plain.1 fits.plain.2 fits.fresh fits.once
  have through := Work.through_of (w := (workOf s key i (e.joined (planSetup v ax typ))).addSetup none)
    (f := fun d => d.submitRec (chanUnit p) r) acts holds
  exact State.slot_reaches turn cl fits carries
    (Work.runPlan_on clean on (congrArg Except.ok (decide_eq_true few)) (run.trans (congrArg Except.ok through)))

end

/-- The record that a SETUP sends. -/
def setupRecord (key : Nat) (i : Inst) (cells : Nat → Cell) : Shadow :=
  { typ := 1, cells := (List.range 4).map fun k => (cells k).data, origin := some (key, i.nextSetup) }

/-- R36: the unit takes the record. -/
theorem submit_taken {cells : Nat → Cell} (lower : s.dev.upperPort p = false) (fresh : ∀ x ∈ (s.dev.unit (chanUnit p)).shadow, x.typ ≠ 1) :
    (s.dev.setInst key (i.afterSetup none)).submitRec (chanUnit p) (setupRecord key i cells) =
      (s.dev.setInst key (i.afterSetup none)).onUnit (chanUnit p)
        fun f => { f with shadow := f.shadow.filter (fun x => x.typ != 1) ++ [setupRecord key i cells] } := by
  rw [Dev.submitRec_chanUnit, show (s.dev.setInst key (i.afterSetup none)).upperPort p = false from lower]
  exact Dev.shadowPut_fresh (d := s.dev.setInst key (i.afterSetup none)) fresh

/-- R248: the unit of a pair's upper port rejects it. -/
theorem submit_upper {r : Shadow} (upper : s.dev.upperPort p = true) :
    (s.dev.setInst key (i.afterSetup none)).submitRec (chanUnit p) r = (s.dev.setInst key (i.afterSetup none)).rejectRec (chanUnit p) r .cfgRange := by
  rw [Dev.submitRec_chanUnit, show (s.dev.setInst key (i.afterSetup none)).upperPort p = true from upper]
  rfl

/-- R570: the result goes to the SETUP that has none yet. -/
theorem Inst.afterSetup_decided {st : Status} (old : ∀ x ∈ i.setups, x.idx = i.nextSetup → x.result ≠ none) :
    ((i.afterSetup none).decided i.nextSetup st).setups = i.setups ++ [{ idx := i.nextSetup, result := some st }] := by
  have rest : mapIf (fun x : SetupRes => x.idx == i.nextSetup && x.result.isNone) (fun x => { x with result := some st }) i.setups = i.setups := by
    unfold mapIf
    refine (List.map_congr_left fun x mem => if_neg fun is => ?_).trans (List.map_id _)
    simp only [Bool.and_eq_true, beq_iff_eq, Option.isNone_iff_eq_none] at is
    exact old x mem is.1 is.2
  have split : ((i.afterSetup none).decided i.nextSetup st).setups =
      mapIf (fun x => x.idx == i.nextSetup && x.result.isNone) (fun x => { x with result := some st }) i.setups ++
        mapIf (fun x => x.idx == i.nextSetup && x.result.isNone) (fun x => { x with result := some st }) [{ idx := i.nextSetup }] :=
    List.map_append
  rw [split, rest]
  simp [mapIf]

end

/-! MVGO and MVSTOP (R615, R631, R866). -/

section
variable {d : Dev} {m : Nat}

@[simp] theorem Dev.mover_onMover (d : Dev) (m : Nat) (f : Mover → Mover) : (d.onMover m f).mover m = f (d.mover m) := Tbl.get_upd_self ..

theorem Dev.mover_onMover_ne (d : Dev) {k : Nat} (f : Mover → Mover) (other : k ≠ m) : (d.onMover m f).mover k = d.mover k :=
  (Tbl.get_upd ..).trans (if_neg other)

/-- The fields of a register that names a mover. -/
theorem moverName_fields : ∀ m : Fin 16,
    fld (BitVec.ofNat 32 m.val) 8 24 = 0 ∧ fld (BitVec.ofNat 32 m.val) 0 8 = m.val ∧ fld (BitVec.ofNat 32 m.val) 0 4 = m.val := by decide

/-- A free mover that is named takes the chain, unless its queue is full. -/
theorem Dev.moverFor_named (m : Fin 16) (going : (d.mover m).halted = false) :
    d.moverFor (BitVec.ofNat 32 m) = if 64 ≤ (d.mover m).queue.length then .error .quota else .ok m.val := by
  obtain ⟨rest, name, -⟩ := moverName_fields m
  have small := m.isLt
  simp only [Dev.moverFor, rest, name, ne_eq, not_true_eq_false, if_false, Nat.ne_of_lt (show m.val < 255 by omega), Nat.not_le.2 small,
    not_false_eq_true, and_false, going, Bool.false_eq_true, ge_iff_le]

/-- An idle mover starts the one chain queued on it. -/
theorem Dev.kick_only {act : Activation} (still : (d.mover m).chain = none) (going : (d.mover m).halted = false)
    (only : (d.mover m).queue = [act]) : d.kick m = d.onMover m fun v =>
      { v with queue := v.queue.erase act, chain := some { act, cur := act.first }, hops := 0
               lastServed := Tbl.set v.lastServed (d.actRank act).1 act.session } := by
  simp only [Dev.kick, still, going, only, bestBy, Option.isSome_none, Bool.false_eq_true, or_self, if_false]

/-- R866: a chain that runs ends after its descriptor. -/
theorem Dev.stopChain_running {c : Chain} (runs : (d.mover m).chain = some c) (unfinished : c.fin = none) (going : c.stalled = false) :
    (d.stopChain m).mover m = { d.mover m with chain := some { c with stop := true } } := by
  rw [Dev.stopChain, Dev.onChain, Dev.mover_onMover, runs]
  simp [unfinished, Dev.pageStalled, going]

end

/-- The activation of an MVGO (R615, R621). -/
def Work.activation (w : Work) (a : Nat) : Activation :=
  let run := w.st.dev.live? w.inst.uid
  { crate := none, session := w.inst.session, inst := some w.key, cls := run.elim 7 (·.cls), deadline := run.elim 0 (·.deadline)
    grants := run.elim [] (·.grants), first := windowCell w.src.lwin a }

section
variable {w : Work} {d y : BitVec 5} {ax : BitVec 4} {g : BitVec 8} {m : Fin 16} {a : Nat}

theorem planMvgo_run (base : (w.src.ga ax.toNat).toNat = a) (lo : 0x800000 ≤ a) (hi : a + 16 ≤ 0x1000000) (named : w.src.gs y.toNat = BitVec.ofNat 32 m)
    (going : (w.st.dev.mover m).halted = false) : (planMvgo d ax y).run g w =
      if 64 ≤ (w.st.dev.mover m).queue.length then .ok (w.onRegs fun r => r.ss d.toNat (BitVec.ofNat 32 (0x100 + Status.quota.code.toNat)))
      else .ok ((w.onRegs fun r => r.ss d.toNat (BitVec.ofNat 32 m)).through fun d =>
        (d.onMover m fun v => { v with queue := v.queue ++ [w.activation a] }).kick m) := by
  simp only [planMvgo, base, if_neg (show ¬ (a < 0x800000 ∨ 0x1000000 < a + 16) by omega), named, Dev.moverFor_named m going]
  by_cases full : 64 ≤ (w.st.dev.mover m).queue.length
  · simp only [if_pos full]
  · simp only [if_neg full]
    rfl

theorem planMvstop_own {c : Chain} (named : w.src.gs y.toNat = BitVec.ofNat 32 m) (runs : (w.st.dev.mover m).chain = some c)
    (own : c.act.inst = some w.key) : (planMvstop y).run g w = .ok (w.through fun d => d.stopChain m) := by
  simp only [planMvstop, named, (moverName_fields m).2.2, runs, Option.any_some, own, beq_self_eq_true, if_true]

theorem planMvstop_foreign {c : Chain} (named : w.src.gs y.toNat = BitVec.ofNat 32 m) (runs : (w.st.dev.mover m).chain = some c)
    (foreign : c.act.inst ≠ some w.key) : (planMvstop y).run g w = .ok w := by
  simp only [planMvstop, named, (moverName_fields m).2.2, runs, Option.any_some, beq_iff_eq, foreign, if_false]

end

section
variable {s : State} {h : Slot} {key : Nat} {i : Inst} {e : Issue} {d y : BitVec 5} {ax : BitVec 4} {m : Fin 16} {a : Nat}

theorem planMvgo_fits (fresh : RName.s d.toNat ∉ e.written) : (planMvgo d ax y).Fits e where
  slot := rfl
  legal := rfl
  plain := ⟨rfl, rfl⟩
  fresh := by simpa [planMvgo] using fresh
  once := by simp [planMvgo]

theorem planMvstop_fits : (planMvstop y).Fits e := .of_silent ⟨rfl, rfl, ⟨rfl, rfl⟩, rfl⟩

section
variable (turn : SlotTurn s h 3 key i e) (cl : Closes s h i e) (on : e.on h = true)
include turn cl on

/-- An operation of the L slot that works on the movers, and on the copy's registers. -/
theorem Plan.Fits.moves {p : Plan} {d : Dev} {j : Inst} (fits : p.Fits e) (bit0 : p.lanes = false) (ready : ∀ g w, p.ready g w = .ok true)
    (run : p.run (e.snap.guard h) (workOf s key i (e.joined p)) = .ok (workOf { s with dev := d } key j (e.joined p)))
    (frame : d = { s.dev with insts := Tbl.set s.dev.insts key j, mov := { s.dev.mov with movers := d.mov.movers } })
    (place : j.session = i.session ∧ j.prog = i.prog) (oq : j.oq = i.oq) :
    s.slot h p = { s with dev := (d.freed.setInst key (j.closed e s.stall)).countIssue h.spu.val } := by
  have clean := Issue.joined_clean turn.clean fits.legal fits.plain.1 fits.plain.2 fits.fresh fits.once
  have quiet : QuietQueues (Tbl.set s.dev.insts key j) := Closes.quiet_set turn cl cl.quiet oq
  refine State.slot_reaches turn cl fits ⟨?_, ?_, ?_, place, oq⟩ (Work.runPlan_on clean ?_ (ready _ _) run)
  · rw [frame]
  · rw [frame]
  · rw [frame]; exact quiet
  · rw [bit0]; exact on

/-- R615: an idle mover takes the chain at once. -/
theorem mvgo_starts (fresh : RName.s d.toNat ∉ e.written) (base : (e.snap.ga ax.toNat).toNat = a) (lo : 0x800000 ≤ a) (hi : a + 16 ≤ 0x1000000)
    (named : e.snap.gs y.toNat = BitVec.ofNat 32 m) (going : (s.dev.mover m).halted = false) (still : (s.dev.mover m).chain = none)
    (empty : (s.dev.mover m).queue = []) : ∃ (D : Dev) (c : Chain), s.slot h (planMvgo d ax y) = { s with dev := (D.freed.setInst key
                        (Inst.closed { i with regs := i.regs.ss d.toNat (BitVec.ofNat 32 m) } e s.stall)).countIssue h.spu.val } ∧
      D = { s.dev with insts := D.insts, mov := { s.dev.mov with movers := D.mov.movers } } ∧
      (D.mover m).chain = some c ∧ c.cur = windowCell e.snap.lwin a ∧ c.act.inst = some key ∧ c.act.session = i.session ∧ c.act.crate = none ∧
      (D.mover m).queue = [] ∧ ∀ k, k ≠ m.val → D.mover k = s.dev.mover k := by
  let j : Inst := { i with regs := i.regs.ss d.toNat (BitVec.ofNat 32 m) }
  let act := (workOf s key i (e.joined (planMvgo d ax y))).activation a
  let q := (s.dev.setInst key j).onMover m fun v => { v with queue := v.queue ++ [act] }
  have here : q.mover m = { s.dev.mover m with queue := (s.dev.mover m).queue ++ [act] } := Dev.mover_onMover ..
  have started : q.kick m = q.onMover m fun v =>
      { v with queue := v.queue.erase act, chain := some { act, cur := act.first }, hops := 0
               lastServed := Tbl.set v.lastServed (q.actRank act).1 act.session } :=
    Dev.kick_only (by rw [here]; exact still) (by rw [here]; exact going) (by rw [here, empty]; rfl)
  have run := planMvgo_run (w := workOf s key i (e.joined (planMvgo d ax y))) (g := e.snap.guard h) (d := d) base lo hi named going
  rw [if_neg (by rw [show (workOf s key i (e.joined (planMvgo d ax y))).st.dev.mover m = s.dev.mover m from rfl, empty]; exact Nat.not_succ_le_zero 63),
    Work.through_of (w := (workOf s key i (e.joined (planMvgo d ax y))).onRegs fun r => r.ss d.toNat (BitVec.ofNat 32 m))
      (f := fun d => (d.onMover m fun v => { v with queue := v.queue ++ [act] }).kick m) (j := j) started (Tbl.find_set_self ..)] at run
  refine ⟨_, { act, cur := act.first }, (planMvgo_fits fresh).moves turn cl on rfl (fun _ _ => rfl) run rfl ⟨rfl, rfl⟩ rfl, rfl, ?_, rfl, rfl, rfl, rfl, ?_,
    fun k ne => ?_⟩
  · rw [Dev.mover_onMover]
  · rw [Dev.mover_onMover, here, empty]
    exact List.erase_cons_head ..
  · exact (Dev.mover_onMover_ne _ _ ne).trans (Dev.mover_onMover_ne _ _ ne)

/-- R615, R631: a full queue refuses the chain with QUOTA. -/
theorem mvgo_refused (fresh : RName.s d.toNat ∉ e.written) (base : (e.snap.ga ax.toNat).toNat = a) (lo : 0x800000 ≤ a) (hi : a + 16 ≤ 0x1000000)
    (named : e.snap.gs y.toNat = BitVec.ofNat 32 m) (going : (s.dev.mover m).halted = false) (full : 64 ≤ (s.dev.mover m).queue.length) :
    s.slot h (planMvgo d ax y) = s.issued h key
      (Inst.closed { i with regs := i.regs.ss d.toNat (BitVec.ofNat 32 (0x100 + Status.quota.code.toNat)) } e s.stall) := by
  have run := planMvgo_run (w := workOf s key i (e.joined (planMvgo d ax y))) (g := e.snap.guard h) (d := d) base lo hi named going
  have full' : 64 ≤ ((workOf s key i (e.joined (planMvgo d ax y))).st.dev.mover m).queue.length := full
  rw [if_pos full'] at run
  exact (planMvgo_fits fresh).issued (sets := e.sets) turn cl on rfl run ⟨rfl, rfl⟩ rfl

section
variable {c : Chain} (named : e.snap.gs y.toNat = BitVec.ofNat 32 m) (runs : (s.dev.mover m).chain = some c)
include named runs

/-- R866: MVSTOP asks the copy's own chain to stop. -/
theorem mvstop_stops (unfinished : c.fin = none) (going : c.stalled = false) (mine : c.act.inst = some key) :
    ∃ D : Dev, s.slot h (planMvstop y) = { s with dev := (D.freed.setInst key (i.closed e s.stall)).countIssue h.spu.val } ∧
      D = { s.dev with insts := D.insts, mov := { s.dev.mov with movers := D.mov.movers } } ∧
      D.mover m = { s.dev.mover m with chain := some { c with stop := true } } ∧ ∀ k, k ≠ m.val → D.mover k = s.dev.mover k := by
  have run := planMvstop_own (w := workOf s key i (e.joined (planMvstop y))) (g := e.snap.guard h) named runs mine
  rw [Work.through_of (w := workOf s key i (e.joined (planMvstop y))) (f := fun d => d.stopChain m) (j := i) rfl (Tbl.find_set_self ..)] at run
  exact ⟨_, planMvstop_fits.moves turn cl on rfl (fun _ _ => rfl) run rfl ⟨rfl, rfl⟩ rfl, rfl,
    Dev.stopChain_running (d := s.dev.setInst key i) runs unfinished going, fun k ne => Dev.mover_onMover_ne _ _ ne⟩

theorem mvstop_other (other : c.act.inst ≠ some key) : s.slot h (planMvstop y) = s.issued h key (i.closed e s.stall) := by
  have run := planMvstop_foreign (w := workOf s key i (e.joined (planMvstop y))) (g := e.snap.guard h) named runs other
  exact planMvstop_fits.issued (sets := e.sets) turn cl on rfl run ⟨rfl, rfl⟩ rfl

end

end

end

/-! The copy of an SPU. -/

section
variable {k : Fin 68} {key : Nat} {i : Inst}

/-- The copy that a debug command names. -/
structure Dev.Sits (d : Dev) (k : Fin 68) (key : Nat) (i : Inst) : Prop where
  runs : (d.spu k).runs = some key
  copy : Tbl.find? d.insts key = some i

theorem Dev.Sits.copyOn {d : Dev} (h : d.Sits k key i) : d.copyOn k = some (key, i) := by
  rw [Dev.copyOn, h.runs, Option.bind_some, h.copy, Option.map_some]

end

/-! A bundle of four NOPs under STEP (R579, R584). -/

theorem Tbl.set_set {α : Type} (t : Tbl α) (k : Nat) (v w : α) : Tbl.set (Tbl.set t k v) k w = Tbl.set t k w := by
  induction t with
  | nil => simp [Tbl.set]
  | cons x t ih =>
    obtain ⟨j, u⟩ := x
    rcases Nat.lt_trichotomy k j with lt | rfl | gt
    · simp [Tbl.set, lt]
    · simp [Tbl.set]
    · simp [Tbl.set, Nat.lt_asymm gt, (Nat.ne_of_lt gt).symm, ih]

/-- The slot of a word of 0. -/
def nopSlot (k : Fin 68) (n : Nat) : Slot := { spu := k, pred := wf 0 22, neg := bit (0 : BitVec 32) 25, last := n == 3 }

/-- The plan of a word of 0. -/
def nopPlan (n : Nat) : Plan := { slot := n, nop := true, run := fun _ w => .ok w }

theorem slotPlan_zero (k : Fin 68) : ∀ n : Fin 4, slotPlan n (nopSlot k n) 0 = nopPlan n
  | 0 | 1 | 2 | 3 => rfl

theorem State.bundle_nops (s : State) (k : Fin 68) : s.bundle k [0, 0, 0, 0] =
    (((s.slot (nopSlot k 0) (nopPlan 0) true).slot (nopSlot k 1) (nopPlan 1) true).slot (nopSlot k 2) (nopPlan 2) true).slot (nopSlot k 3) (nopPlan 3) true := by
  rw [show nopPlan 0 = _ from (slotPlan_zero k 0).symm, show nopPlan 1 = _ from (slotPlan_zero k 1).symm,
    show nopPlan 2 = _ from (slotPlan_zero k 2).symm, show nopPlan 3 = _ from (slotPlan_zero k 3).symm]
  rfl

theorem Work.runPlan_nop (w : Work) (h : Slot) (n : Nat) : w.runPlan h (nopPlan n) = w := by
  by_cases on : bit (w.src.guard h) 0 = true <;> simp [Work.runPlan, nopPlan, on]

theorem Issue.joined_nop (e : Issue) (n : Nat) : e.joined (nopPlan n) = { e with slot := n } := by
  simp [Issue.joined, nopPlan, dedup]

section
variable {s : State} {k : Fin 68} {key n : Nat} {i : Inst} {e : Issue}

/-- A NOP takes its slot, of a halted copy too. -/
theorem State.nop_steps (runs : (s.dev.spu k).runs = some key) (copy : Tbl.find? s.dev.insts key = some i)
    (turn : i.issue = none ∧ e = { snap := i.regs, slot := 4 } ∨ i.issue = some e ∧ e.slot < n) :
    s.slot (nopSlot k n) (nopPlan n) true =
      if n = 3 then (workOf s key i { e with slot := n }).close k else s.withCopy key { i with issue := some { e with slot := n } } := by
  have ran : s.slot (nopSlot k n) (nopPlan n) true =
      (let w := (workOf s key i (e.joined (nopPlan n))).runPlan (nopSlot k n) (nopPlan n)
       if (nopSlot k n).last ∨ n = 3 then w.close k else w.st.onDev fun d => d.setInst key { w.inst with issue := some w.iss }) := by
    obtain ⟨a, b⟩ | ⟨a, b⟩ := turn
    · subst b; simp [State.slot, show (nopSlot k n).spu = k from rfl, runs, copy, a, Issue.joined, workOf]; rfl
    · simp [State.slot, show (nopSlot k n).spu = k from rfl, runs, copy, a, Issue.joined, workOf, show (nopPlan n).slot = n from rfl, Nat.not_le.mpr b]
  rw [ran, Work.runPlan_nop, Issue.joined_nop]
  simp [nopSlot, State.withCopy, workOf]

theorem State.withCopy_withCopy (s : State) (key : Nat) (i j : Inst) : (s.withCopy key i).withCopy key j = s.withCopy key j :=
  congrArg (fun t : Tbl Inst => { s with dev := { s.dev with insts := t } }) (Tbl.set_set ..)

/-- The copy while slot `n` of its bundle of NOPs is the last that it took. -/
def Inst.atNop (i : Inst) (n : Nat) : Inst := { i with issue := some { snap := i.regs, slot := n } }

/-- A bundle of four NOPs commits as any other does. -/
theorem State.bundle_nops_commits {p : Program} (sits : s.dev.Sits k key i) (between : i.issue = none) (outer : i.regs.levels = [])
    (program : s.dev.program? i.session i.prog = some p) (room : i.regs.pc + 1 < p.codeBundles) (going : bit (s.dev.spu k).dbgCtl 0 = false)
    (quiet : QuietQueues s.dev.insts) :
    s.bundle k [0, 0, 0, 0] = s.issued (nopSlot k 3) key (i.closed { snap := i.regs, slot := 3 } s.stall) := by
  have first : s.slot (nopSlot k 0) (nopPlan 0) true = s.withCopy key (i.atNop 0) :=
    (State.nop_steps sits.runs sits.copy (.inl ⟨between, rfl⟩)).trans (if_neg (by decide))
  have next : ∀ n, n + 1 ≠ 3 → (s.withCopy key (i.atNop n)).slot (nopSlot k (n + 1)) (nopPlan (n + 1)) true = s.withCopy key (i.atNop (n + 1)) :=
    fun n ne => (State.nop_steps (s := s.withCopy key (i.atNop n)) sits.runs (Tbl.find_set_self ..) (.inr ⟨rfl, n.lt_succ_self⟩)).trans
      ((if_neg ne).trans (State.withCopy_withCopy ..))
  let w := workOf (s.withCopy key (i.atNop 2)) key (i.atNop 2) { snap := i.regs, slot := 3 }
  have last : (s.withCopy key (i.atNop 2)).slot (nopSlot k 3) (nopPlan 3) true = w.close k :=
    (State.nop_steps (s := s.withCopy key (i.atNop 2)) sits.runs (Tbl.find_set_self ..) (.inr ⟨rfl, Nat.lt_succ_self 2⟩)).trans (if_pos rfl)
  have here : w.prog = p := by rw [Work.prog, show w.st.dev.program? w.inst.session w.inst.prog = some p from program, Option.getD_some]
  have closes := Work.close_commits (w := w) (k := k) rfl ⟨rfl, rfl, rfl, rfl⟩ (fun l is => by simp [w, workOf, outer] at is) (by rwa [here]) going
  have still : ∀ {j : Inst}, j.oq = i.oq → ∀ n, (j.outq n).cells = [] := fun same n => by
    have := quiet _ (Tbl.mem_of_find sits.copy) n
    simpa [Inst.outq, same] using this
  rw [State.bundle_nops, first, next 0 (by decide), next 1 (by decide), last, closes]
  have idle : QuietQueues (Tbl.set (Tbl.set s.dev.insts key (i.atNop 2)) key (w.inst.closed w.iss w.st.stall)) :=
    (quiet.set key (still (j := i.atNop 2) rfl)).set key (still (j := w.inst.closed w.iss w.st.stall) rfl)
  exact congrArg (fun d : Dev => { s with dev := d }) ((Dev.pump_quiet idle).trans
    (congrArg (fun t : Tbl Inst => ({ s.dev.freed with insts := t } : Dev).countIssue k) (Tbl.set_set ..)))

end

/-! The words of the bundle. -/

section
variable {s : State} {i : Inst} {p : Program}

/-- Words of 0 that read without an error. -/
structure State.NopsAt (s : State) (i : Inst) (p : Program) : Prop where
  program : s.dev.program? i.session i.prog = some p
  words : ∀ n, n < 4 → (s.mem.loftGet (p.base + 4 * i.regs.pc + n)).data = 0 ∧ Tbl.get 0 s.mem.loftErr (p.base + 4 * i.regs.pc + n) = 0

variable (nops : s.NopsAt i p)
include nops

theorem State.NopsAt.read {n : Nat} (lt : n < 4) :
    s.mem.loftRead (p.base + 4 * i.regs.pc + n) = .good (s.mem.loftGet (p.base + 4 * i.regs.pc + n)) :=
  if_pos (nops.words n lt).2

theorem State.NopsAt.bundleBad : s.bundleBad i = false := by
  simp only [State.bundleBad, nops.program, List.any_eq_false, List.mem_range]
  intro n lt
  simp [Mem.loftBad, nops.read lt, WordRead.cell?]

theorem State.NopsAt.mendBundle : s.mendBundle i = s := by
  have still : ∀ n, n < 4 → s.loftMend (p.base + 4 * i.regs.pc + n) i.session 0 = s := fun n lt => by
    simp only [State.loftMend, nops.read lt]
  simp only [State.mendBundle, nops.program, show List.range 4 = [0, 1, 2, 3] from rfl, List.foldl_cons, List.foldl_nil, still 0 (by decide),
    still 1 (by decide), still 2 (by decide), still 3 (by decide)]

theorem State.NopsAt.nextBundle : s.nextBundle i = [0, 0, 0, 0] := by
  have word : ∀ n ∈ List.range 4, (s.mem.loftGet (p.base + 4 * i.regs.pc + n)).data.truncate 32 = (0 : BitVec 32) := fun n mem => by
    rw [(nops.words n (List.mem_range.1 mem)).1]; rfl
  simp only [State.nextBundle, nops.program]
  exact List.map_congr_left word

end

/-! Debug (R579, R581). -/

section
variable {s : State} {k : Fin 68} {key : Nat} {i : Inst}

theorem exec_halt (s : State) (k : Fin 68) : exec (.halt k) s = execHalt k s := rfl
theorem exec_step (s : State) (k : Fin 68) : exec (.step k) s = execStep k s := rfl
theorem exec_debugResume (s : State) (k : Fin 68) : exec (.debugResume k) s = execDebugResume k s := rfl

theorem Dev.spu_onSpu (d : Dev) (k : Nat) (f : Spu → Spu) : (d.onSpu k f).spu k = f (d.spu k) := Tbl.get_upd_self ..

theorem Dev.onInst_of {d : Dev} (copy : Tbl.find? d.insts key = some i) (f : Inst → Inst) : d.onInst key f = d.setInst key (f i) := by
  simp only [Dev.onInst, copy]

/-- Where no retirement waits, none goes ahead (R206). -/
theorem Dev.pokeRetire_idle {d : Dev} (none : ∀ n, (d.spu n).retireWait = false) : d.pokeRetire = d := by
  unfold Dev.pokeRetire
  generalize List.range 68 = l
  induction l with
  | nil => rfl
  | cons n l ih => rw [List.foldl_cons, none n]; exact ih

/-- A debug command that leaves the copy as given, and every other one alone. -/
def DebugLeaves (c : Instr) (s : State) (key : Nat) (j : Inst) : Prop :=
  ∃ t, exec c s = .next t ∧ t = { s with dev := { s.dev with insts := t.dev.insts, stk := t.dev.stk, freeCtr := t.dev.freeCtr } } ∧
    Tbl.find? t.dev.insts key = some j ∧ ∀ n, n ≠ key → Tbl.find? t.dev.insts n = Tbl.find? s.dev.insts n

theorem DebugLeaves.of_set {c : Instr} {j : Inst} {stk : Stk} {ctr : Nat}
    (ran : exec c s = .next { s with dev := { s.dev with insts := Tbl.set s.dev.insts key j, stk, freeCtr := ctr } }) : DebugLeaves c s key j :=
  ⟨_, ran, rfl, Tbl.find_set_self .., fun _ ne => Tbl.find_set_ne ne⟩

theorem DebugLeaves.of_issued {c : Instr} {h : Slot} {j : Inst} (ran : exec c s = .next (s.issued h key j)) : DebugLeaves c s key j :=
  ⟨_, ran, rfl, Tbl.find_set_self .., fun _ ne => Tbl.find_set_ne ne⟩

section
variable (on : s.dev.served = true) (sound : s.dev.rel.devFault = false) (sits : s.dev.Sits k key i)
include on sound sits

/-- R581: between bundles a HALT takes effect at once. -/
theorem halt_halts (enabled : s.dev.spa.dbgEn = true) (going : i.halted = false) (still : (s.dev.spu k).moving = 0) (between : i.issue = none) :
    DebugLeaves (.halt k) s key { i with halted := true } := by
  let asked := s.dev.onSpu k fun u => { u with dbgCtl := setBit u.dbgCtl 0 true }
  have asks : bit (asked.spu k).dbgCtl 0 = true := by rw [Dev.spu_onSpu]; exact bit_setBit_same _ _ _ (by decide)
  have halts : asked.haltAt key k =
      (asked.setInst key { i with halted := true }).onSpu k fun u => { u with dbgCtl := setBit u.dbgCtl 0 false } := by
    rw [Dev.haltAt, if_pos asks, Dev.onInst_of (d := asked) (i := i) sits.copy]
  refine DebugLeaves.of_set (stk := (asked.haltAt key k).stk) (ctr := s.dev.freeCtr) ((exec_halt s k).trans ?_)
  rw [halts, execHalt, startStep_served _ on sound, sits.copyOn]
  refine congrArg (fun d : Dev => Host.Outcome.next { s with dev := d }) ((if_neg ?_).trans ((if_neg ?_).trans halts))
  · simp only [enabled, going, still, Bool.not_true, Bool.false_eq_true, ne_eq, not_true_eq_false, or_self, not_false_eq_true]
  · rw [between]; exact Bool.false_ne_true

theorem halt_disabled (disabled : s.dev.spa.dbgEn = false) : exec (.halt k) s = .next s := by
  rw [exec_halt, execHalt, startStep_served _ on sound, sits.copyOn]
  simp only [disabled, Bool.not_false, true_or, if_true]

theorem step_going (going : i.halted = false) : exec (.step k) s = .next s := by
  rw [exec_step, execStep, if_neg (by simp [on, sound]), sits.copyOn]
  simp only [going, Bool.not_false, if_true]

/-- R579: STEP runs one bundle of a halted copy, which stays halted. -/
theorem step_nops {p : Program} (nops : s.NopsAt i p) (halted : i.halted = true) (between : i.issue = none) (outer : i.regs.levels = []) (room : i.regs.pc + 1 < p.codeBundles)
    (going : bit (s.dev.spu k).dbgCtl 0 = false) (quiet : QuietQueues s.dev.insts) :
    DebugLeaves (.step k) s key (i.closed { snap := i.regs, slot := 3 } s.stall) := by
  have idle : ¬ (!s.dev.served ∨ s.dev.rel.devFault) := by simp [on, sound]
  have ran : execStep k s = .next (s.bundle k [0, 0, 0, 0]) := by
    rw [execStep, if_neg idle, sits.copyOn]
    simp only [halted, nops.bundleBad, nops.mendBundle, nops.nextBundle, Bool.not_true, Bool.false_eq_true, if_false]
  have commits := State.bundle_nops_commits sits between outer nops.program room going quiet
  exact .of_issued ((exec_step s k).trans (ran.trans (congrArg Host.Outcome.next commits)))

theorem debugResume_going (going : i.halted = false) : exec (.debugResume k) s = .next s := by
  rw [exec_debugResume, execDebugResume, startStep_served _ on sound, sits.copyOn]
  simp only [going, Bool.false_eq_true, if_false]

/-- R579: a halted copy goes on. -/
theorem debugResume_halted (halted : i.halted = true) (none : ∀ n, (s.dev.spu n).retireWait = false) :
    DebugLeaves (.debugResume k) s key { i with halted := false } := by
  refine DebugLeaves.of_set (stk := s.dev.stk) (ctr := s.dev.freeCtr) ((exec_debugResume s k).trans ?_)
  rw [execDebugResume, startStep_served _ on sound, sits.copyOn]
  simp only [halted, if_true]
  rw [Dev.onInst_of (i := i) sits.copy, Dev.pokeRetire_idle (d := s.dev.setInst key { i with halted := false }) none]
  rfl

end

end

/-! The statement's outcomes. -/

section
variable {s : State} {h : Slot} {key : Nat} {i : Inst} {e : Issue}

theorem exec_setup (v : BitVec 8) (ax typ : BitVec 4) : exec (.setup h v ax typ) s = .next (s.slot h (planSetup v ax typ)) := rfl
theorem exec_mvgo (d y : BitVec 5) (ax : BitVec 4) : exec (.mvgo h d ax y) s = .next (s.slot h (planMvgo d ax y)) := rfl
theorem exec_mvstop (y : BitVec 5) : exec (.mvstop h y) s = .next (s.slot h (planMvstop y)) := rfl

/-- A SETUP that leaves its result, and the record interfaces as given. -/
def SetupEnds (s : State) (key : Nat) (i : Inst) (e : Issue) (c : Instr) (res : Option Status) (units : Tbl RecIf) : Prop :=
  ∃ t, exec c s = .next t ∧
    t = { s with dev := { s.dev with insts := t.dev.insts, stk := t.dev.stk, units, freeCtr := t.dev.freeCtr } } ∧
    ∃ j, Tbl.find? t.dev.insts key = some j ∧ j.nextSetup = i.nextSetup + 1 ∧
      j.setups = i.setups ++ [{ idx := i.nextSetup, result := res }] ∧ j.regs = e.regsAfter i.regs (e.snap.pc + 1) s.stall

theorem SetupEnds.of_slot {c : Instr} {d : Dev} {res : Option Status} (frame : d = { s.dev with insts := d.insts, units := d.units })
    (ran : exec c s = .next { s with dev := (d.freed.setInst key ((i.afterSetup res).closed e s.stall)).countIssue h.spu.val }) :
    SetupEnds s key i e c res d.units := by
  refine ⟨_, ran, ?_, _, Tbl.find_set_self .., rfl, rfl, rfl⟩
  rw [frame]
  rfl

section
variable {p : Fin 4} {ax : BitVec 4} {cells : Nat → Cell} (turn : SlotTurn s h 3 key i e) (cl : Closes s h i e) (on : e.on h = true)
  (few : i.undecided < 16)
  (run : (planSetup (BitVec.ofNat 8 (chanUnit p)) ax 1).run (e.snap.guard h) (workOf s key i (e.joined (planSetup (BitVec.ofNat 8 (chanUnit p)) ax 1))) =
    .ok (((workOf s key i (e.joined (planSetup (BitVec.ofNat 8 (chanUnit p)) ax 1))).addSetup none).through fun d =>
      d.submitRec (chanUnit p) (setupRecord key i cells)))
include turn cl on few run

/-- R36, R570: the record waits in its unit, and its result is open. -/
theorem setup_waits (lower : s.dev.upperPort p = false) (fresh : ∀ x ∈ (s.dev.unit (chanUnit p)).shadow, x.typ ≠ 1) :
    ∃ units, SetupEnds s key i e (.setup h (BitVec.ofNat 8 (chanUnit p)) ax 1) none units ∧
      Tbl.get {} units (chanUnit p) = { s.dev.unit (chanUnit p) with
        shadow := (s.dev.unit (chanUnit p)).shadow ++ [setupRecord key i cells] } ∧
      ∀ v, v ≠ chanUnit p → Tbl.get {} units v = Tbl.get {} s.dev.units v := by
  let sent := s.dev.setInst key (i.afterSetup none)
  have put := Dev.shadowPut_fresh (d := sent) (r := setupRecord key i cells) fresh
  have ran := setup_submitted turn cl on few run (submit_taken lower fresh) (Tbl.find_set_self ..)
    ⟨rfl, rfl, cl.quiet_set turn cl.quiet rfl, ⟨rfl, rfl⟩, rfl⟩
  refine ⟨_, .of_slot (h := h) rfl ((exec_setup ..).trans (congrArg Host.Outcome.next ran)), ?_, fun v ne => Dev.unit_onUnit_ne sent _ ne⟩
  exact (congrArg (Dev.unit · (chanUnit p)) put.symm).trans (Dev.unit_shadowPut (d := sent) (r := setupRecord key i cells) fresh)

/-- R248, R37: the record goes nowhere, and its result is decided. -/
theorem setup_rejected (upper : s.dev.upperPort p = true) (room : s.dev.rel.queue.length < 64) (old : ∀ x ∈ i.setups, x.idx = i.nextSetup → x.result ≠ none) :
    ∃ t, exec (.setup h (BitVec.ofNat 8 (chanUnit p)) ax 1) s = .next t ∧ t.dev.units = s.dev.units ∧ OneRecord s t .cfgRange 0 (s.dev.portDom p) ∧
      ∃ j, Tbl.find? t.dev.insts key = some j ∧ j.setups = i.setups ++ [{ idx := i.nextSetup, result := some .cfgRange }] := by
  let sent := s.dev.setInst key (i.afterSetup none)
  let j := (i.afterSetup none).decided i.nextSetup .cfgRange
  have decided : sent.decideRec (chanUnit p) (setupRecord key i cells) .cfgRange = sent.setInst key j :=
    Dev.decideRec_setup rfl (Tbl.find_set_self ..)
  have insts : (sent.rejectRec (chanUnit p) (setupRecord key i cells) .cfgRange).insts = Tbl.set sent.insts key j := by
    rw [Dev.rejectRec, Dev.note_insts, decided]
    rfl
  have units : (sent.rejectRec (chanUnit p) (setupRecord key i cells) .cfgRange).units = s.dev.units := by
    rw [Dev.rejectRec, Dev.note_units, decided]
    rfl
  have ran := setup_submitted (j := j) turn cl on few run (submit_upper upper) (by rw [insts, Tbl.find_set_self])
    ⟨by rw [Dev.rejectRec, Dev.note_stk, decided]; rfl, by rw [Dev.rejectRec, Dev.note_freeCtr, decided]; rfl,
      by rw [insts]; exact cl.quiet_set turn (j := j) (cl.quiet_set turn (j := i.afterSetup none) cl.quiet rfl) rfl, ⟨rfl, rfl⟩, rfl⟩
  refine ⟨_, (exec_setup ..).trans (congrArg Host.Outcome.next ran), units,
    .of_reject (.setInst key (i.afterSetup none)) rfl room rfl (Dev.unitDom_chanUnit p _), _, Tbl.find_set_self .., Inst.afterSetup_decided old⟩

end

/-- A command of the movers that leaves the copy's registers, and the movers as given. -/
def MoverEnds (s : State) (key : Nat) (e : Issue) (c : Instr) (r : Regs) (movers : Tbl Mover) : Prop :=
  ∃ t, exec c s = .next t ∧
    t = { s with dev := { s.dev with insts := t.dev.insts, stk := t.dev.stk, mov := { s.dev.mov with movers }, freeCtr := t.dev.freeCtr } } ∧
    ∃ j, Tbl.find? t.dev.insts key = some j ∧ j.regs = e.regsAfter r (e.snap.pc + 1) s.stall

theorem MoverEnds.of_slot {c : Instr} {d : Dev} {j : Inst} (frame : d = { s.dev with insts := d.insts, mov := { s.dev.mov with movers := d.mov.movers } })
    (ran : exec c s = .next { s with dev := (d.freed.setInst key (j.closed e s.stall)).countIssue h.spu.val }) :
    MoverEnds s key e c j.regs d.mov.movers := by
  refine ⟨_, ran, ?_, _, Tbl.find_set_self .., rfl⟩
  rw [frame]
  rfl

end

/-- Settles O10: the last slot of a bundle commits with what its operation did to the device, and a STEP of four NOPs commits as
that slot does. -/
theorem setupMoverAndDebugCommandsReachTheirUnit : Obligations.setupMoverAndDebugCommandsReachTheirUnit := by
  unfold Obligations.setupMoverAndDebugCommandsReachTheirUnit
  refine ⟨?setup, ?mover, ?debug⟩
  case setup =>
    intro s h key i e ax p cells turn cl on
    refine ⟨fun v typ full waits => ⟨_, (exec_setup ..).trans (congrArg Host.Outcome.next (setup_stalls turn cl on full waits))⟩,
      fun few => ?_⟩
    intro a u write ends
    have decided : ∀ {v : BitVec 8} {typ : BitVec 4} {st : Status}, (planSetup v ax typ).run (e.snap.guard h) (workOf s key i (e.joined (planSetup v ax typ))) =
        .ok ((workOf s key i (e.joined (planSetup v ax typ))).addSetup (some st)) → ends (.setup h v ax typ) (some st) s.dev.units :=
      fun run => SetupEnds.of_slot rfl ((exec_setup ..).trans (congrArg Host.Outcome.next (setup_decided turn cl on few run)))
    refine ⟨fun lo hi reads => ?_, decided planSetup_noType⟩
    have run := planSetup_run (p := p) (g := e.snap.guard h) (w := workOf s key i (e.joined (planSetup u ax 1))) (a := a) rfl lo hi
      (fun k lt => ((reads k lt).joined _).1) (fun k lt => ((reads k lt).joined _).2)
    have may : (workOf s key i (e.joined (planSetup u ax 1))).granted 2 (chanUnit p) 2 = write := rfl
    rw [may] at run
    refine ⟨fun granted lower fresh => ?_, fun granted upper room old => ?_, fun refused => ?_⟩
    · rw [if_pos granted] at run
      exact setup_waits turn cl on few run lower fresh
    · rw [if_pos granted] at run
      exact setup_rejected turn cl on few run upper room old
    · rw [if_neg (by rw [refused]; exact Bool.false_ne_true)] at run
      exact decided run
  case mover =>
    intro s h key i e d y ax m turn cl on fresh named a v ends
    refine ⟨fun lo hi => ⟨fun going still empty => ?_, fun going full => ?_⟩,
      fun c runs unfinished going => ⟨fun mine => ?_, fun other => ?_⟩⟩
    · obtain ⟨D, c, ran, frame, took, shown⟩ := mvgo_starts turn cl on fresh rfl lo hi named going still empty
      obtain ⟨cur, inst, session, crate, queue, others⟩ := shown
      exact ⟨D.mov.movers, D.mover m, c, MoverEnds.of_slot frame ((exec_mvgo ..).trans (congrArg Host.Outcome.next ran)), rfl, took, cur, inst,
        session, crate, queue, others⟩
    · exact MoverEnds.of_slot (d := s.dev) rfl
        ((exec_mvgo ..).trans (congrArg Host.Outcome.next (mvgo_refused turn cl on fresh rfl lo hi named going full)))
    · obtain ⟨D, ran, frame, stopped, others⟩ := mvstop_stops turn cl on named runs unfinished going mine
      exact ⟨D.mov.movers, MoverEnds.of_slot frame ((exec_mvstop ..).trans (congrArg Host.Outcome.next ran)), stopped, others⟩
    · exact MoverEnds.of_slot (d := s.dev) rfl
        ((exec_mvstop ..).trans (congrArg Host.Outcome.next (mvstop_other turn cl on named runs other)))
  case debug =>
    intro s k key i p served sound runs copy ends
    have sits : s.dev.Sits k key i := ⟨runs, copy⟩
    refine ⟨halt_halts served sound sits, halt_disabled served sound sits, fun halted between outer program room going quiet words => ?_,
      fun going => ⟨step_going served sound sits going, debugResume_going served sound sits going⟩, debugResume_halted served sound sits⟩
    have stepped := step_nops served sound sits ⟨program, words⟩ halted between outer room going quiet
    have after : i.closed { snap := i.regs, slot := 3 } s.stall =
        { i with regs := { i.regs with pc := i.regs.pc + 1, cyc := i.regs.cyc + BitVec.ofNat 64 (1 + s.stall) }
                 issue := none, waiting := false } := by
      simp [Inst.closed, Issue.regsAfter]
    rw [after] at stepped
    exact stepped

end Sys2Proof.Machine
end

section
namespace Sys2Proof.Machine

/-! The host side: what its operations leave alone (R108, R851, R852). -/

/-- Nothing changes but HLK, the error records and what goes to the host. -/
def Dev.HostSide (d d' : Dev) : Prop := d' = { d with hlk := d'.hlk, rel := d'.rel, host := d'.host }

section
variable {d d' d'' : Dev}

theorem Dev.HostSide.trans (a : d.HostSide d') (b : d'.HostSide d'') : d.HostSide d'' := by
  unfold Dev.HostSide at a b ⊢
  rw [a] at b
  exact b

theorem Dev.HostSide.hlkErr (i : Nat) : d.HostSide (d.hlkErr i) := by
  unfold Dev.HostSide Dev.hlkErr
  rw [Dev.vector_frame]

theorem Dev.HostSide.log (r : Report) : d.HostSide (d.log r) := by
  unfold Dev.HostSide
  rw [Dev.log_frame]

/-- A bit of HLK_ERR_STAT changes nothing else of HLK but its vector's pending bit. -/
theorem Dev.hlkErr_hlk (i : Nat) : (d.hlkErr i).hlk =
    { d.hlk with errStat := setBit d.hlk.errStat i true, msiPending := (d.hlkErr i).hlk.msiPending } := by
  rw [Dev.hlkErr, Dev.vector_frame]

/-- A record changes no more of HLK than its vector's pending bit. -/
theorem Dev.log_hlk (r : Report) : (d.log r).hlk = { d.hlk with msiPending := (d.log r).hlk.msiPending } := by
  rw [Dev.log_frame]

end

end Sys2Proof.Machine
end

section
namespace Sys2Proof.Machine

/-! Doorbells (R106 to R108, R131). -/

section
variable {s : State} {h : BitVec 12} {v : BitVec 32} {x : Hatch}

theorem exec_hatchTail (s : State) (h : BitVec 12) (v : BitVec 32) : exec (.hatchTail h v) s = execHatchTail h v s := rfl
theorem exec_chitHead (s : State) (h : BitVec 12) (v : BitVec 32) : exec (.chitHead h v) s = execChitHead h v s := rfl

theorem Dev.onHatch_found {d : Dev} {h : Nat} {x : Hatch} (here : Tbl.find? d.hlk.hatches h = some x) (f : Hatch → Hatch) :
    d.onHatch h f = { d with hlk := { d.hlk with hatches := Tbl.set d.hlk.hatches h (f x) } } := by
  rw [Dev.onHatch, here]

theorem Dev.session_onSession (d : Dev) (n k : Nat) (f : Session → Session) :
    (d.onSession n f).session k = if k = n then f (d.session n) else d.session k := Tbl.get_upd ..

theorem hatchTail_moves (served : s.dev.served = true) (here : Tbl.find? s.dev.hlk.hatches h.toNat = some x)
    (lives : (s.dev.session x.owner).st ≠ .closed) (room : (v - x.head).toNat ≤ 2 ^ x.n) (ahead : (v - x.tail).toNat < 2 ^ 31) :
    exec (.hatchTail h v) s = .next (s.onDev fun d => { d with hlk := { d.hlk with
      hatches := Tbl.set d.hlk.hatches h.toNat { x with tail := v } } }) := by
  rw [exec_hatchTail, execHatchTail, hostStep_served _ served]
  simp only [here, if_neg lives, if_pos (And.intro room ahead), Dev.onHatch_found here]
  rfl

theorem chitHead_moves (served : s.dev.served = true) (here : Tbl.find? s.dev.hlk.hatches h.toNat = some x)
    (lives : (s.dev.session x.owner).st ≠ .closed)
    (room : (v - (s.dev.session x.owner).chitHead).toNat ≤ ((s.dev.session x.owner).chitCount - (s.dev.session x.owner).chitHead).toNat) :
    exec (.chitHead h v) s = .next (s.onDev fun d => d.onSession x.owner fun n => { n with chitHead := v }) := by
  rw [exec_chitHead, execChitHead, hostStep_served _ served]
  simp only [here, if_neg lives, if_pos room]
  rfl

/-- A doorbell that is ignored: counted for its Hatch, and shown in HLK_ERR_STAT. -/
structure Dev.BellIgnored (d d' : Dev) (h : Nat) : Prop where
  side : d.HostSide d'
  hatches : d'.hlk.hatches = d.hlk.hatches
  sessions : d'.hlk.sessions = d.hlk.sessions
  count : (Tbl.get 0 d'.hlk.badDb h).toNat = min ((Tbl.get 0 d.hlk.badDb h).toNat + 1) 0xFFFFFFFF
  shown : bit d'.hlk.errStat 2 = true

theorem Dev.bellIgnored_marked (d : Dev) (h : Nat) : d.BellIgnored ((d.badDoorbell h).hlkErr 2) h := by
  have bad : d.HostSide (d.badDoorbell h) := rfl
  refine ⟨bad.trans (.hlkErr 2), ?_, ?_, ?_, ?_⟩ <;> rw [Dev.hlkErr_hlk]
  · rfl
  · rfl
  · simp [Dev.badDoorbell, satInc]
  · exact bit_setBit_same _ _ _ (by decide)

theorem Dev.BellIgnored.log {d d' : Dev} {h : Nat} (b : d.BellIgnored d' h) (r : Report) : d.BellIgnored (d'.log r) h := by
  obtain ⟨side, hatches, sessions, count, shown⟩ := b
  refine ⟨side.trans (.log r), ?_, ?_, ?_, ?_⟩ <;> rw [Dev.log_hlk] <;> assumption

theorem doorbell_unassigned (served : s.dev.served = true) (free : Tbl.find? s.dev.hlk.hatches h.toNat = none) (other : h ≠ 0)
    {c : Instr} (bell : c = .hatchTail h v ∨ c = .chitHead h v) :
    ∃ d, exec c s = .next { s with dev := d } ∧ s.dev.BellIgnored d h.toNat := by
  have nonzero : h.toNat ≠ 0 := fun e => other (BitVec.eq_of_toNat_eq e)
  rcases bell with rfl | rfl
  · refine ⟨_, ?_, (s.dev.bellIgnored_marked h.toNat).log
      { code := .cfgRange, sev := 0, domain := domDevice, src := srcHlk, cause := 2, detail := h.toNat }⟩
    rw [exec_hatchTail, execHatchTail, hostStep_served _ served]
    simp only [free, if_neg nonzero]
    rfl
  · refine ⟨_, ?_, s.dev.bellIgnored_marked h.toNat⟩
    rw [exec_chitHead, execChitHead, hostStep_served _ served]
    simp only [free, if_neg nonzero]

end

/-! Reading a Crate (R110, R180 to R182). -/

section
variable {d : Dev} {h : Nat} {x : Hatch}

/-- The head count goes to the host or waits: nothing else changes but the Hatch's mark of it. -/
theorem Dev.writeBack_spec (here : Tbl.find? d.hlk.hatches h = some x) :
    d.writeBack h = { d with host := (d.writeBack h).host, hlk := { d.hlk with hatches := (d.writeBack h).hlk.hatches } } ∧
      ∃ w, Tbl.find? (d.writeBack h).hlk.hatches h = some { x with wroteBack := w } := by
  unfold Dev.writeBack
  simp only [here]
  split
  · rw [Dev.onHatch_found here]
    exact ⟨rfl, _, Tbl.find_set_self ..⟩
  · exact ⟨rfl, _, here⟩

theorem Dev.advance_spec (here : Tbl.find? d.hlk.hatches h = some x) :
    d.advance h = { d with host := (d.advance h).host, hlk := { d.hlk with hatches := (d.advance h).hlk.hatches } } ∧
      ∃ w, Tbl.find? (d.advance h).hlk.hatches h = some { x with head := x.head + 1, waiting := none, wroteBack := w } := by
  unfold Dev.advance
  rw [Dev.onHatch_found here]
  have spec := Dev.writeBack_spec (d := { d with hlk := { d.hlk with
    hatches := Tbl.set d.hlk.hatches h { x with head := x.head + 1, waiting := none } } }) (Tbl.find_set_self d.hlk.hatches h _)
  exact ⟨spec.1, spec.2⟩

theorem Dev.claimBarrels_frame (c : Live) (grants : List (BitVec 64)) :
    d.claimBarrels c grants = { d with barrels := (d.claimBarrels c grants).barrels } := by
  have fold : ∀ (l : List Nat) (d : Dev),
      let d' := l.foldl (fun d b => if (d.barrel b).owner.isNone then d.onBarrel b fun r => { r with owner := some c.session } else d) d
      d' = { d with barrels := d'.barrels } := by
    intro l
    induction l with
    | nil => intro d; rfl
    | cons b l ih =>
      intro d
      dsimp only [List.foldl_cons] at ih ⊢
      rw [ih]
      split <;> rfl
  exact fold ..

/-- A Crate decided as it is read (R59, R133). -/
def Live.failed (c : Live) (now : BitVec 64) (st : Status) : Live :=
  { c with
    admitted := false, phase := .decided, late := c.missed now
    status := if c.missed now ∧ st = .ok then .deadlineMissed else st
    result0 := 0, result1 := BitVec.ofNat 32 (if c.kind = 4 then c.num 33 1 else 0), ctime := now }

theorem Dev.pushFailed_spec {c : Live} {st : Status} (fresh : c.phase = .waiting) :
    d.pushFailed c st = { d with hlk := { d.hlk with live := (d.pushFailed c st).hlk.live, nextUid := d.hlk.nextUid + 1 } } ∧
      (d.pushFailed c st).hlk.live.length = d.hlk.live.length + 1 ∧
      (d.pushFailed c st).hlk.live.getLast? = some (c.failed d.now st) := by
  refine ⟨rfl, ?_, ?_⟩
  · simp [Dev.pushFailed, Dev.pushLive, Dev.finish, Dev.onLive, mapIf]
  · have waits : ({ c with admitted := false } : Live).decided = false := by simp [Live.decided, fresh]
    simp only [Dev.pushFailed, Dev.pushLive, Dev.finish, Dev.onLive, mapIf, List.getLast?_map, List.getLast?_concat, Option.map_some,
      beq_self_eq_true, if_true, waits, Bool.false_eq_true, if_false]
    rfl

end

section
variable {s : State} {h : BitVec 12} {x : Hatch} {raw : BitVec 512} {g : HostData}

/-- The Crate of the next slot of a Hatch, as its tests see it. -/
def Dev.nextCrate (d : Dev) (h : Nat) (x : Hatch) (raw : BitVec 512) : Live :=
  { uid := d.hlk.nextUid, session := x.owner, hatch := h, index := x.head, raw, cls := fld raw 32 3 }

/-- With the vector that it is to raise (R97). -/
def Dev.readCrate (d : Dev) (h : Nat) (x : Hatch) (raw : BitVec 512) : Live :=
  { d.nextCrate h x raw with
    irqVec := let c := d.nextCrate h x raw
              if c.irq = true ∧ c.vec < (d.session c.session).vecCount then some (BitVec.ofNat 6 c.vec) else none }

/-- A slot is taken: its Crate stands last among those in flight, and the Hatch goes on. -/
def TakesCrate (s : State) (h : BitVec 12) (x : Hatch) (raw : BitVec 512) (i : Instr) (p : Live → Prop) : Prop :=
  ∃ t l y, exec i s = .next t ∧ t.mem = s.mem ∧ t.pending = s.pending ∧
    t.dev.hlk.live.length = s.dev.hlk.live.length + 1 ∧ t.dev.hlk.live.getLast? = some l ∧ p l ∧
    l.uid = s.dev.hlk.nextUid ∧ l.session = x.owner ∧ l.hatch = h.toNat ∧ l.index = x.head ∧ l.raw = raw ∧
    t.dev.hlk.nextUid = s.dev.hlk.nextUid + 1 ∧ Tbl.find? t.dev.hlk.hatches h.toNat = some y ∧
    y.head = x.head + 1 ∧ y.tail = x.tail ∧ y.waiting = none ∧ t.dev.tim = s.dev.tim ∧ t.dev.insts = s.dev.insts

theorem TakesCrate.of_advance {i : Instr} {p : Live → Prop} {e : Dev} {l : Live} (here : Tbl.find? s.dev.hlk.hatches h.toNat = some x)
    (ran : exec i s = .next { s with dev := e.advance h.toNat }) (length : e.hlk.live.length = s.dev.hlk.live.length + 1)
    (last : e.hlk.live.getLast? = some l) (holds : p l)
    (own : l.uid = s.dev.hlk.nextUid ∧ l.session = x.owner ∧ l.hatch = h.toNat ∧ l.index = x.head ∧ l.raw = raw)
    (uid : e.hlk.nextUid = s.dev.hlk.nextUid + 1) (hatches : e.hlk.hatches = s.dev.hlk.hatches) (tim : e.tim = s.dev.tim)
    (insts : e.insts = s.dev.insts) : TakesCrate s h x raw i p := by
  obtain ⟨frame, w, found⟩ := Dev.advance_spec (d := e) (by rw [hatches]; exact here)
  obtain ⟨uid', session, hatch, index, bytes⟩ := own
  refine ⟨_, l, _, ran, rfl, rfl, ?_, ?_, holds, uid', session, hatch, index, bytes, ?_, found, rfl, rfl, rfl, ?_, ?_⟩ <;> dsimp only <;> rw [frame]
  exacts [length, last, uid, tim, insts]

/-- The Crate with its grants and dependencies, as it is admitted (R182 to R184). -/
def Dev.admits (d : Dev) (c : Live) (grants : List (BitVec 64)) : Live :=
  { c with grants, deps := d.bindDeps c, phase := if (d.bindDeps c).all (· == .met) then .ready d.tim.ticks else .waiting }

/-- An admitted Crate claims its Barrels, and a RUN takes its references (R163, R450). -/
def Dev.claims (d : Dev) (l : Live) : Dev :=
  let d := d.claimBarrels l l.grants
  if l.isRun then { d with stk := d.stk.refRun l true } else d

theorem Dev.claims_frame (d : Dev) (l : Live) : d.claims l = { d with barrels := (d.claims l).barrels, stk := (d.claims l).stk } := by
  unfold Dev.claims
  rw [Dev.claimBarrels_frame]
  split <;> rfl

/-- What follows from the outcome of the tests. -/
def Dev.follows (d : Dev) (h : Nat) (x : Hatch) (raw : BitVec 512) : Verdict → Dev
  | .wait => d.onHatch h fun x => { x with waiting := some raw }
  | .fails st => (d.pushFailed (d.readCrate h x raw) st).advance h
  | .admits grants => ((d.claims (d.admits (d.readCrate h x raw) grants)).pushLive (d.admits (d.readCrate h x raw) grants)).advance h

theorem Dev.admission_opened {d : Dev} {h : Nat} {x : Hatch} (raw : BitVec 512) (g : HostData) (opened : (d.session x.owner).st = .opened) :
    d.admission h x raw g = d.follows h x raw (d.verdict (d.nextCrate h x raw) g) := by
  unfold Dev.admission
  simp only [opened]
  rfl

/-- What the tests of a Crate decide, as the command that reads it or tests it again makes them (R180, R181). -/
theorem admission_decides {i : Instr} (here : Tbl.find? s.dev.hlk.hatches h.toNat = some x) (opened : (s.dev.session x.owner).st = .opened)
    (ran : exec i s = .next { s with dev := s.dev.admission h.toNat x raw g }) :
    let c := s.dev.nextCrate h.toNat x raw
    (∀ grants, s.dev.verdict c g = .admits grants → TakesCrate s h x raw i fun l => l.admitted = true ∧ l.grants = grants ∧ l.cls = c.cls ∧
      (c.ndep = 0 → l.phase = .ready s.dev.tim.ticks) ∧
      l.irqVec = if c.irq = true ∧ c.vec < (s.dev.session c.session).vecCount then some (BitVec.ofNat 6 c.vec) else none) ∧
    (∀ st, s.dev.verdict c g = .fails st → TakesCrate s h x raw i fun l => l.admitted = false ∧ l.phase = .decided ∧ l.ctime = s.dev.now ∧
      (st ≠ .ok → l.status = st)) ∧
    (s.dev.verdict c g = .wait → exec i s = .next (s.onDev fun d => { d with hlk := { d.hlk with
      hatches := Tbl.set d.hlk.hatches h.toNat { x with waiting := some raw } } })) := by
  intro c
  rw [Dev.admission_opened raw g opened] at ran
  refine ⟨fun grants admits => ?_, fun st fails => ?_, fun waits => ?_⟩
  · rw [admits] at ran
    refine .of_advance (l := s.dev.admits (s.dev.readCrate h.toNat x raw) grants) here ran ?_ ?_ ⟨rfl, rfl, rfl, fun none => ?_, rfl⟩ ⟨rfl, rfl, rfl, rfl, rfl⟩ ?_ ?_ ?_ ?_
    · rw [Dev.pushLive, Dev.claims_frame]
      simp
    · simp [Dev.pushLive]
    · have nodeps : s.dev.bindDeps (s.dev.readCrate h.toNat x raw) = [] := by
        simp [Dev.bindDeps, show (s.dev.readCrate h.toNat x raw).ndep = 0 from none]
      simp [Dev.admits, nodeps]
    all_goals rw [Dev.pushLive, Dev.claims_frame]
  · rw [fails] at ran
    obtain ⟨frame, length, last⟩ := Dev.pushFailed_spec (d := s.dev) (c := s.dev.readCrate h.toNat x raw) (st := st) rfl
    refine .of_advance here ran length last ⟨rfl, rfl, rfl, fun bad => if_neg fun k => bad k.2⟩ ⟨rfl, rfl, rfl, rfl, rfl⟩ ?_ ?_ ?_ ?_
    all_goals rw [frame]
  · rw [waits, Dev.follows, Dev.onHatch_found here] at ran
    exact ran

theorem fld_zero (n lo len : Nat) : fld (0 : BitVec n) lo len = 0 := by simp [fld]

theorem Dev.full_false {d : Dev} (room : d.hlk.live.length < 1024) : d.full = false := by
  have := List.length_filter_le (·.admitted) d.hlk.live
  simp only [Dev.full, decide_eq_false_iff_not]
  omega

theorem crateRead_tests (here : Tbl.find? s.dev.hlk.hatches h.toNat = some x) (may : s.dev.mayRead x = true) :
    exec (.crateRead h raw g) s = .next { s with dev := s.dev.admission h.toNat x raw g } := by
  have ran : exec (.crateRead h raw g) s = execCrateRead h raw g s := rfl
  rw [ran, execCrateRead, devStep_eq]
  simp only [here, may, if_true]

theorem admissionResume_tests (here : Tbl.find? s.dev.hlk.hatches h.toNat = some x) (held : x.waiting = some raw)
    (sound : s.dev.rel.devFault = false) (room : s.dev.full = false) :
    exec (.admissionResume h g) s = .next { s with dev := s.dev.admission h.toNat x raw g } := by
  have ran : exec (.admissionResume h g) s = execAdmissionResume h g s := rfl
  obtain ⟨owner, n, base, head, tail, wroteBack, waiting⟩ := x
  cases held
  rw [ran, execAdmissionResume, devStep_eq]
  simp only [here, sound, room, Bool.false_eq_true, or_self, if_false]

/-- R857: the slot ends as a Crate of TAG 0, with a DEGRADED record. -/
theorem hatchSlotFault_ends {late : Bool} (here : Tbl.find? s.dev.hlk.hatches h.toNat = some x)
    (opened : (s.dev.session x.owner).st = .opened) (may : s.dev.mayRead x = true) (room : s.dev.rel.queue.length < 64) :
    let st : Status := if late then .timeout else .busError
    ∃ t l y r, exec (.hatchSlotFault h late) s = .next t ∧
      t = { s with dev := { s.dev with hlk := t.dev.hlk, rel := t.dev.rel, host := t.dev.host } } ∧
      t.dev.hlk.live.getLast? = some l ∧ l.admitted = false ∧ l.tag = 0 ∧ l.phase = .decided ∧ l.status = st ∧ l.session = x.owner ∧
      Tbl.find? t.dev.hlk.hatches h.toNat = some y ∧ y.head = x.head + 1 ∧
      t.dev.rel.queue = s.dev.rel.queue ++ [r] ∧ r.code = st.code ∧ r.sev = 2 ∧ r.domain = domSession x.owner ∧ r.time = s.dev.now := by
  intro st
  let c : Live := { uid := s.dev.hlk.nextUid, session := x.owner, hatch := h.toNat, index := x.head, raw := 0 }
  let rep : Report := { code := st, sev := 2, domain := domSession x.owner, src := srcHlk, session := x.owner
                        addr := x.base.toNat + x.head.toNat % 2 ^ x.n * 64, detail := h.toNat }
  let e := (s.dev.pushFailed c st).log rep
  have ran : exec (.hatchSlotFault h late) s = .next { s with dev := e.advance h.toNat } := by
    have ran : exec (.hatchSlotFault h late) s = execHatchSlotFault h late s := rfl
    rw [ran, execHatchSlotFault, devStep_eq]
    simp only [here, may, opened]
    rfl
  obtain ⟨failed, -, last⟩ := Dev.pushFailed_spec (d := s.dev) (c := c) (st := st) rfl
  have side : s.dev.HostSide e := .trans (d' := s.dev.pushFailed c st) failed (.log rep)
  have hatches : e.hlk.hatches = s.dev.hlk.hatches := by
    rw [Dev.log_hlk]; rfl
  obtain ⟨frame, w, found⟩ := Dev.advance_spec (d := e) (by rw [hatches]; exact here)
  have bad : st ≠ .ok := by cases late <;> decide
  have tag : (c.failed s.dev.now st).tag = 0 := fld_zero ..
  refine ⟨_, c.failed s.dev.now st, _, (s.dev.pushFailed c st).recordOf rep, ran, ?_, ?_, rfl, tag, rfl, if_neg fun k => bad k.2, rfl, found, rfl, ?_, rfl, rfl, rfl, rfl⟩
  · rw [frame, side]
  · dsimp only
    rw [frame]
    dsimp only [e]
    rw [Dev.log_hlk]
    exact last
  · dsimp only
    rw [frame]
    exact (s.dev.pushFailed c st).log_queue rep room

end

/-- Settles O12: a lemma per doorbell and outcome; what a Crate's tests decide is one lemma for its reading and its second test. -/
theorem doorbellsBringCrates : Obligations.doorbellsBringCrates := by
  unfold Obligations.doorbellsBringCrates
  refine ⟨fun s h v served => ⟨fun x here lives => ⟨fun room ahead => hatchTail_moves served here lives room ahead, fun room => ?_⟩,
    fun free other c bell => ?_⟩, fun s h raw g x here opened sound room more => ?_, fun s h x late here opened may room => hatchSlotFault_ends here opened may room⟩
  · refine ⟨_, chitHead_moves served here lives room, rfl, ?_, fun n other => ?_⟩
    · exact (Dev.session_onSession ..).trans (if_pos rfl)
    · exact (Dev.session_onSession ..).trans (if_neg other)
  · obtain ⟨d, ran, side, hatches, sessions, count, shown⟩ := doorbell_unassigned served free other bell
    exact ⟨_, ran, by rw [side], hatches, sessions, count, shown⟩
  · have space := Dev.full_false room
    refine ⟨fun none => ?_, fun held => ?_⟩
    · refine admission_decides here opened (crateRead_tests here ?_)
      simp [Dev.mayRead, more, none, sound, space]
    · exact admission_decides here opened (admissionResume_tests here held sound space)

end Sys2Proof.Machine
end

section
namespace Sys2Proof.Machine

/-! Crates in flight (R118, R182). -/

section
variable {d d' : Dev} {uid n : Nat}

theorem Dev.uid_of_live {c : Live} (here : d.live? uid = some c) : c.uid = uid := by
  simpa using List.find?_some here

theorem Dev.live_onLive_other (other : n ≠ uid) {f : Live → Live} (keeps : ∀ c, (f c).uid = c.uid) :
    (d.onLive uid f).live? n = d.live? n := by
  unfold Dev.live? Dev.onLive mapIf
  rw [List.find?_map]
  have same : ((fun c : Live => c.uid == n) ∘ fun x => if (x.uid == uid) = true then f x else x) = fun c => c.uid == n := by
    funext x
    simp only [Function.comp]
    split
    · rw [keeps]
    · rfl
  rw [same]
  cases found : List.find? (fun c => c.uid == n) d.hlk.live with
  | none => rfl
  | some x =>
    have is : x.uid = n := by simpa using List.find?_some found
    rw [Option.map_some, if_neg (by simpa [is] using other)]

/-- A Crate is in flight when its serial number is listed. -/
theorem Dev.live_none_iff : d.live? n = none ↔ n ∉ d.hlk.live.map (·.uid) := by
  simp only [Dev.live?, List.find?_eq_none, List.mem_map, not_exists, not_and, beq_iff_eq]

theorem Dev.uids_finish (d : Dev) (uid : Nat) (st : Status) (r0 r1 : Nat) :
    (d.finish uid st r0 r1).hlk.live.map (·.uid) = d.hlk.live.map (·.uid) := by
  simp only [Dev.finish, Dev.onLive, mapIf, List.map_map]
  refine List.map_congr_left fun c _ => ?_
  dsimp only [Function.comp]
  split
  · split <;> rfl
  · rfl

/-- Settling dependencies changes the Crates in flight, and none of them leaves. -/
theorem Dev.settleDeps_spec (d : Dev) (uid : Nat) (st : Status) :
    d.settleDeps uid st = { d with hlk := { d.hlk with live := (d.settleDeps uid st).hlk.live } } ∧
      (d.settleDeps uid st).hlk.live.map (·.uid) = d.hlk.live.map (·.uid) := by
  have fold : ∀ (l : List Nat) (d : Dev), let d' := l.foldl (fun d u => d.finish u .cancelled) d
      d' = { d with hlk := { d.hlk with live := d'.hlk.live } } ∧ d'.hlk.live.map (·.uid) = d.hlk.live.map (·.uid) := by
    intro l
    induction l with
    | nil => exact fun d => ⟨rfl, rfl⟩
    | cons u l ih =>
      intro d
      obtain ⟨frame, uids⟩ := ih (d.finish u .cancelled)
      exact ⟨frame, uids.trans (d.uids_finish u .cancelled 0 0)⟩
  unfold Dev.settleDeps
  dsimp only
  obtain ⟨frame, uids⟩ := fold ((d.hlk.live.filter fun c => c.deps.any fun x =>
    x == .tag uid true && !(st == .ok || st == .partial_ || st == .deadlineMissed)).map (·.uid))
    { d with hlk := { d.hlk with live := d.hlk.live.map fun c =>
      { c with deps := c.deps.map fun x => if x == .tag uid true || x == .tag uid false then .met else x } } }
  exact ⟨frame, uids.trans (by rw [List.map_map]; rfl)⟩

end

section
variable {s : State} {uid : Nat} {c : Live}

theorem exec_dependencySatisfied (s : State) (uid : Nat) : exec (.dependencySatisfied uid) s = .next (s.onDev fun d => d.onLive uid fun c =>
    if c.phase = .waiting ∧ c.deps.all (· == .met) then { c with phase := .ready d.tim.ticks } else c) := rfl

theorem deps_met_iff : c.deps.all (· == .met) = true ↔ ∀ x ∈ c.deps, x = .met := by
  simp only [List.all_eq_true, beq_iff_eq]

theorem dependencySatisfied_readies (here : s.dev.live? uid = some c) (waits : c.phase = .waiting) (met : ∀ x ∈ c.deps, x = .met) :
    ∃ t, exec (.dependencySatisfied uid) s = .next t ∧ t.dev.live? uid = some { c with phase := .ready s.dev.tim.ticks } ∧
      t = { s with dev := { s.dev with hlk := { s.dev.hlk with live := t.dev.hlk.live } } } ∧
      ∀ n, n ≠ uid → t.dev.live? n = s.dev.live? n := by
  refine ⟨_, exec_dependencySatisfied s uid, ?_, rfl, fun n other => ?_⟩
  · refine (Dev.live_onLive _ _ fun c => by split <;> rfl).trans ?_
    rw [here, Option.map_some, if_pos ⟨waits, deps_met_iff.2 met⟩]
  · exact Dev.live_onLive_other other fun c => by split <;> rfl

theorem dependencySatisfied_waits (outstanding : ∃ x ∈ c.deps, x ≠ .met) (only : ∀ o ∈ s.dev.hlk.live, o.uid = uid → o = c) :
    exec (.dependencySatisfied uid) s = .next s := by
  have unmet : ¬ (c.phase = .waiting ∧ c.deps.all (· == .met) = true) := fun ⟨_, all⟩ =>
    let ⟨x, mem, bad⟩ := outstanding
    bad (deps_met_iff.1 all x mem)
  have same : (s.dev.onLive uid fun c => if c.phase = .waiting ∧ c.deps.all (· == .met) then { c with phase := .ready s.dev.tim.ticks } else c)
      = s.dev := by
    have live : mapIf (fun c : Live => c.uid == uid)
        (fun c => if c.phase = .waiting ∧ c.deps.all (· == .met) then { c with phase := .ready s.dev.tim.ticks } else c) s.dev.hlk.live
        = s.dev.hlk.live := by
      refine (List.map_congr_left fun o mem => ?_).trans (List.map_id _)
      split
      · rename_i is
        rw [only o mem (by simpa using is)]
        exact if_neg unmet
      · rfl
    rw [Dev.onLive, live]
  exact (exec_dependencySatisfied s uid).trans (by rw [State.onDev, same])

end

/-! Chits (R125 to R132, R140). -/

section
variable {d : Dev} {n : Nat}

theorem Dev.requestVector_frame (d : Dev) (n vec : Nat) : d.requestVector n vec =
    { d with host := (d.requestVector n vec).host, hlk := { d.hlk with
      coal := (d.requestVector n vec).hlk.coal, msiPending := (d.requestVector n vec).hlk.msiPending } } := by
  unfold Dev.requestVector
  dsimp only
  split
  · rfl
  · split
    · rw [Dev.vector_frame]
    · split
      · rfl
      · rw [Dev.vector_frame]

/-- What a vector sends at once: its message, if it is not masked (R852). -/
theorem Dev.vector_host (d : Dev) (v : Nat) :
    (d.vector v).host = d.host ++ if Tbl.get false d.hlk.unmasked v = true then [.msix v] else [] := by
  unfold Dev.vector
  split <;> simp

/-- The message of a request sends what comes after `d.host`. -/
theorem Dev.requestVector_host (d : Dev) (n vec : Nat) : ∃ m, (d.requestVector n vec).host = d.host ++ m ∧
    ((d.session n).coal = 0 → (d.session n).vecBase + vec < 2048 →
      m = if Tbl.get false d.hlk.unmasked ((d.session n).vecBase + vec) = true then [.msix ((d.session n).vecBase + vec)] else []) := by
  unfold Dev.requestVector
  dsimp only
  by_cases big : 2048 ≤ (d.session n).vecBase + vec
  · exact ⟨[], by rw [if_pos big, List.append_nil], fun _ small => absurd small (Nat.not_lt.2 big)⟩
  rw [if_neg big]
  by_cases plain : (d.session n).coal = 0
  · exact ⟨_, by rw [if_pos plain]; exact Dev.vector_host .., fun _ _ => rfl⟩
  rw [if_neg plain]
  split
  · exact ⟨[], (List.append_nil _).symm, fun none => absurd none plain⟩
  · exact ⟨_, Dev.vector_host .., fun none => absurd none plain⟩

/-- The event of a Chit (R140). -/
def Chit.event (c : Chit) (n : Nat) : EventOcc :=
  { id := BitVec.ofNat 12 (0x900 + c.tag.toNat / 256), time := stampOf c.ctime, reach := some n }

/-- A Chit written: its Crate is gone, its event raised, its vector requested. -/
structure Dev.ChitWritten (d d' : Dev) (n : Nat) (c : Chit) : Prop where
  live : d'.live? c.uid = none
  session : d'.session n = { d.session n with chitCount := (d.session n).chitCount + 1 }
  raised : d'.raised = d.raised ++ [c.event n]
  host : ∃ m, d'.host = d.host ++ [HostTxn.write ((d.session n).chitBase + BitVec.ofNat 64 ((d.session n).chitCount.toNat % 2 ^ (d.session n).chitLog2 * 32))
      (c.bytes (d.session n).chitCount (d.session n).chitLog2)] ++ m ∧ (c.irq = none → m = []) ∧
    ∀ v, c.irq = some v → (d.session n).coal = 0 → (d.session n).vecBase + v.toNat < 2048 →
      m = if Tbl.get false d.hlk.unmasked ((d.session n).vecBase + v.toNat) = true then [.msix ((d.session n).vecBase + v.toNat)] else []

/-- A Crate that ends gives up the references it took as a RUN (R163, R166). -/
def Dev.chitStk (d : Dev) (c : Chit) : Stk :=
  match d.live? c.uid with
  | some x => if x.isRun && x.admitted then (d.stk.refRun x false).reclaim else d.stk
  | none => d.stk

/-- The Chit in its slot of the ring, and its Crate gone. -/
def Dev.chitPut (d : Dev) (n : Nat) (c : Chit) : Dev :=
  let s := d.session n
  { d with
    stk := d.chitStk c
    host := d.host ++ [HostTxn.write (s.chitBase + BitVec.ofNat 64 (s.chitCount.toNat % 2 ^ s.chitLog2 * 32)) (c.bytes s.chitCount s.chitLog2)]
    hlk := { d.hlk with live := d.hlk.live.filter fun x => x.uid != c.uid
                        sessions := Tbl.upd {} d.hlk.sessions n fun s => { s with chitCount := s.chitCount + 1 } } }

/-- The device before the Chit's vector. -/
def Dev.chitEnds (d : Dev) (n : Nat) (c : Chit) : Dev :=
  let e := (d.chitPut n c).settleDeps c.uid c.status
  { e with raised := e.raised ++ [c.event n] }

theorem Dev.writeChit_eq (d : Dev) (n : Nat) (c : Chit) :
    d.writeChit n c = c.irq.elim (d.chitEnds n c) fun v => (d.chitEnds n c).requestVector n v.toNat := by
  unfold Dev.writeChit Dev.chitEnds Dev.chitPut Dev.chitStk
  cases d.live? c.uid with
  | none => cases c.irq <;> rfl
  | some x =>
    by_cases run : (x.isRun && x.admitted) = true
    · simp only [run, if_true]
      cases c.irq <;> rfl
    · simp only [run, Bool.false_eq_true, if_false]
      cases c.irq <;> rfl

theorem Dev.chitEnds_spec (d : Dev) (n : Nat) (c : Chit) :
    d.chitEnds n c = { d.chitPut n c with raised := d.raised ++ [c.event n]
                                          hlk := { (d.chitPut n c).hlk with live := (d.chitEnds n c).hlk.live } } ∧
      (d.chitEnds n c).live? c.uid = none := by
  obtain ⟨frame, uids⟩ := (d.chitPut n c).settleDeps_spec c.uid c.status
  refine ⟨by unfold Dev.chitEnds; rw [frame]; rfl, Dev.live_none_iff.2 ?_⟩
  show c.uid ∉ ((d.chitPut n c).settleDeps c.uid c.status).hlk.live.map (·.uid)
  rw [uids]
  simp [Dev.chitPut]

theorem Dev.writeChit_written (d : Dev) (n : Nat) (c : Chit) : d.ChitWritten (d.writeChit n c) n c := by
  obtain ⟨frame, gone⟩ := d.chitEnds_spec n c
  have session : (d.chitEnds n c).session n = { d.session n with chitCount := (d.session n).chitCount + 1 } := by
    rw [frame]; exact Tbl.get_upd_self {} d.hlk.sessions n fun q => { q with chitCount := q.chitCount + 1 }
  rw [Dev.writeChit_eq]
  cases irq : c.irq with
  | none =>
    refine ⟨gone, session, ?_, [], ?_, fun _ => rfl, fun v is => ?_⟩
    · rw [Option.elim_none, frame]
    · rw [Option.elim_none, frame, List.append_nil]; rfl
    · rw [irq] at is; cases is
  | some v =>
    rw [Option.elim_some]
    obtain ⟨m, host, sent⟩ := (d.chitEnds n c).requestVector_host n v.toNat
    have vec := (d.chitEnds n c).requestVector_frame n v.toNat
    rw [session] at sent
    refine ⟨?_, ?_, ?_, m, ?_, fun is => ?_, fun w is plain small => ?_⟩
    · rw [vec]; exact gone
    · rw [vec]; exact session
    · rw [vec, frame]
    · rw [host, frame]; rfl
    · rw [irq] at is; cases is
    · rw [irq] at is
      cases is
      rw [sent plain small, frame]; rfl

end

section
variable {s : State} {uid : Nat} {c : Live}

theorem Live.chit_tag (small : c.tag < 65536) (held : Bool) : (c.chit held).tag.toNat = c.tag :=
  BitVec.toNat_ofNat c.tag 16 ▸ Nat.mod_eq_of_lt small

/-- The bytes of the Chit (R125) at a free-running index of the ring. -/
def Live.chitRow (c : Live) (q : Session) (held : Bool) : List Byte :=
  leBytes 2 c.tag ++ [c.status.code] ++
    leBytes 1 ((!q.chitCount.toNat.testBit q.chitLog2).toNat + held.toNat * 2 + c.late.toNat * 4) ++ leBytes 2 (c.hatch % 4096) ++
    leBytes 2 0 ++ leBytes 4 c.index.toNat ++ leBytes 4 c.result1.toNat ++ leBytes 8 c.result0.toNat ++ leBytes 8 c.ctime.toNat

theorem Live.chit_bytes (small : c.tag < 65536) (q : Session) (held : Bool) :
    (c.chit held).bytes q.chitCount q.chitLog2 = c.chitRow q held := by
  unfold Chit.bytes Live.chitRow
  rw [Live.chit_tag small]
  rfl

/-- A Crate's Chit written for session `n`, as the host and the receivers see it. -/
structure ChitIssued (s : State) (d : Dev) (uid : Nat) (c : Live) (held : Bool) : Prop where
  gone : d.live? uid = none
  count : (d.session c.session).chitCount = (s.dev.session c.session).chitCount + 1
  event : ∃ e, d.raised = s.dev.raised ++ [e] ∧ e.id = BitVec.ofNat 12 (0x900 + c.tag / 256) ∧ e.reach = some c.session
  sent : let q := s.dev.session c.session
    ∃ m, d.host = s.dev.host ++
      [HostTxn.write (q.chitBase + BitVec.ofNat 64 (q.chitCount.toNat % 2 ^ q.chitLog2 * 32)) (c.chitRow q held)] ++ m ∧ (c.irqVec = none → m = []) ∧
      ∀ v, c.irqVec = some v → q.coal = 0 → q.vecBase + v.toNat < 2048 →
        m = if Tbl.get false s.dev.hlk.unmasked (q.vecBase + v.toNat) = true then [.msix (q.vecBase + v.toNat)] else []
  held : (d.session c.session).held = []

/-- Writing a Crate's Chit with no other held, from a device that differs in what its session holds alone. -/
theorem ChitIssued.of_write {held : Bool} {d : Dev} (is : c.uid = uid) (small : c.tag < 65536)
    (frame : d = { s.dev with hlk := { s.dev.hlk with sessions := d.hlk.sessions } })
    (session : d.session c.session = { s.dev.session c.session with held := [] }) :
    ChitIssued s (d.writeChit c.session (c.chit held)) uid c held := by
  obtain ⟨gone, session', raised, m, host, quiet, sent⟩ := d.writeChit_written c.session (c.chit held)
  rw [session] at session' host sent
  rw [Live.chit_bytes (q := { s.dev.session c.session with held := [] }) small] at host
  refine ⟨?_, ?_, ⟨_, raised.trans (by rw [frame]), ?_, rfl⟩, ⟨m, host.trans (by rw [frame]; rfl), quiet, fun v is plain room => ?_⟩, ?_⟩
  · rw [← is]; exact gone
  · rw [session']
  · show BitVec.ofNat 12 (0x900 + (c.chit held).tag.toNat / 256) = _
    rw [Live.chit_tag small]
  · exact (sent v is plain room).trans (by rw [frame])
  · rw [session']


theorem Dev.session_hlkErr (d : Dev) (i n : Nat) : (d.hlkErr i).session n = d.session n := by
  rw [Dev.session, Dev.hlkErr_hlk]
  rfl

theorem exec_chitIssue (s : State) (uid : Nat) : exec (.chitIssue uid) s = .next (s.onDev fun d => d.issueChit uid) := rfl
theorem exec_heldChitRelease (s : State) (n : BitVec 12) :
    exec (.heldChitRelease n) s = .next (s.onDev fun d => d.releaseHeld n.toNat) := rfl

theorem Session.chitRoom_iff (q : Session) : q.chitRoom = true ↔ (q.chitCount - q.chitHead).toNat < 2 ^ q.chitLog2 := decide_eq_true_iff

theorem chitIssue_writes (here : s.dev.live? uid = some c) (decided : c.phase = .decided) (small : c.tag < 65536)
    (room : (s.dev.session c.session).chitRoom = true) (none : (s.dev.session c.session).held = []) :
    ∃ d, exec (.chitIssue uid) s = .next { s with dev := d } ∧ ChitIssued s d uid c false := by
  have writes : s.dev.issueChit uid = s.dev.writeChit c.session (c.chit false) := by
    simp [Dev.issueChit, here, Live.decided, decided, Session.holds, none, room]
  have session : s.dev.session c.session = { s.dev.session c.session with held := [] } := by rw [← none]
  exact ⟨_, (exec_chitIssue s uid).trans (by rw [State.onDev, writes]), .of_write (Dev.uid_of_live here) small rfl session⟩

theorem chitIssue_holds (here : s.dev.live? uid = some c) (decided : c.phase = .decided)
    (full : (s.dev.session c.session).chitRoom = false) (none : (s.dev.session c.session).held = []) :
    exec (.chitIssue uid) s =
      .next (s.onDev fun d => (d.onSession c.session fun q => { q with held := q.held ++ [c.chit true] }).hlkErr 4) := by
  have holds : s.dev.issueChit uid =
      (s.dev.onSession c.session fun q => { q with held := q.held ++ [c.chit true] }).hlkErr 4 := by
    simp [Dev.issueChit, here, Live.decided, decided, Session.holds, none, full, Dev.holdChit, Live.chit]
  exact (exec_chitIssue s uid).trans (by rw [State.onDev, holds]; rfl)

theorem heldChitRelease_writes (is : c.uid = uid) (small : c.tag < 65536) (session : c.session < 4096)
    (room : (s.dev.session c.session).chitRoom = true) (one : (s.dev.session c.session).held = [c.chit true]) :
    ∃ d, exec (.heldChitRelease (BitVec.ofNat 12 c.session)) s = .next { s with dev := d } ∧ ChitIssued s d uid c true := by
  have n : (BitVec.ofNat 12 c.session).toNat = c.session := BitVec.toNat_ofNat .. |>.trans (Nat.mod_eq_of_lt session)
  have writes : s.dev.releaseHeld c.session = (s.dev.onSession c.session fun q => { q with held := [] }).writeChit c.session (c.chit true) := by
    simp [Dev.releaseHeld, one, room]
  refine ⟨_, (exec_heldChitRelease ..).trans (by rw [State.onDev, n, writes]), .of_write is small rfl ?_⟩
  rw [Dev.session_onSession, if_pos rfl]

end

/-! Coalesced vectors (R98). -/

section
variable {s : State} {v : BitVec 11}

theorem exec_coalesceIntervalEnd (s : State) (v : BitVec 11) : exec (.coalesceIntervalEnd v) s = execCoalesceIntervalEnd v s := rfl

/-- A coalescing interval that begins, or that ends with nothing merged. -/
def Dev.interval (d : Dev) (v : Nat) (on : Bool) : Dev :=
  { d with hlk := { d.hlk with coal := Tbl.set d.hlk.coal v { inInterval := on } } }

theorem coalesceIntervalEnd_fires (inside : (Tbl.get {} s.dev.hlk.coal v.toNat).inInterval = true)
    (merged : (Tbl.get {} s.dev.hlk.coal v.toNat).pending = true) :
    exec (.coalesceIntervalEnd v) s = .next (s.onDev fun d => (d.interval v.toNat true).vector v.toNat) := by
  rw [exec_coalesceIntervalEnd, execCoalesceIntervalEnd, devStep_eq]
  simp only [inside, merged, Bool.not_true, Bool.false_eq_true, if_false, if_true]
  rfl

theorem coalesceIntervalEnd_closes (inside : (Tbl.get {} s.dev.hlk.coal v.toNat).inInterval = true)
    (none : (Tbl.get {} s.dev.hlk.coal v.toNat).pending = false) :
    exec (.coalesceIntervalEnd v) s = .next (s.onDev fun d => d.interval v.toNat false) := by
  rw [exec_coalesceIntervalEnd, execCoalesceIntervalEnd, devStep_eq]
  simp only [inside, none, Bool.not_true, Bool.false_eq_true, if_false]
  rfl

theorem Dev.vector_masked {d : Dev} {v : Nat} (masked : Tbl.get false d.hlk.unmasked v = false) :
    d.vector v = { d with hlk := { d.hlk with msiPending := Tbl.set d.hlk.msiPending v true } } := by
  rw [Dev.vector, masked, if_neg Bool.false_ne_true]

theorem Dev.vector_open {d : Dev} {v : Nat} (unmasked : Tbl.get false d.hlk.unmasked v = true) :
    d.vector v = { d with host := d.host ++ [.msix v] } := by
  rw [Dev.vector, unmasked, if_pos rfl]

end

/-- Settles O14: dependencies, the ways of a Chit, and the end of a coalescing interval, one lemma per outcome. -/
theorem dependenciesChitsAndVectorsFollow : Obligations.dependenciesChitsAndVectorsFollow := by
  unfold Obligations.dependenciesChitsAndVectorsFollow
  refine ⟨fun s uid c here waits => ⟨dependencySatisfied_readies here waits, dependencySatisfied_waits⟩, ?chit, ?vector⟩
  case chit =>
    intro s uid c here decided n q sent row ended small
    have issued : ∀ {i : Instr} {held : Bool}, (∃ d, exec i s = .next { s with dev := d } ∧ ChitIssued s d uid c held) →
        ∃ t, exec i s = .next t ∧ ended t ∧ sent t.dev (row held) ∧ (t.dev.session n).held = [] := by
      rintro i held ⟨d, ran, gone, count, event, sent', none⟩
      exact ⟨_, ran, ⟨rfl, gone, count, event⟩, sent', none⟩
    refine ⟨fun room none => issued (chitIssue_writes here decided small (q.chitRoom_iff.2 room) none), fun full none => ?_,
      fun room range one is => issued (heldChitRelease_writes is small range (q.chitRoom_iff.2 room) one)⟩
    have full : q.chitRoom = false := decide_eq_false (Nat.not_lt.2 full)
    refine ⟨_, c.chit true, chitIssue_holds here decided full none, ?_, ?_, Dev.uid_of_live here, rfl, ?_, ?_⟩
    · dsimp only [State.onDev]
      rw [Dev.hlkErr, Dev.vector_frame]
      rfl
    · rw [State.onDev_dev, Dev.session_hlkErr, Dev.session_onSession, if_pos rfl]
      show (s.dev.session n).held ++ [c.chit true] = _
      rw [show (s.dev.session n).held = [] from none, List.nil_append]
    · rw [State.onDev_dev, Dev.hlkErr_hlk]
      exact bit_setBit_same _ _ _ (by decide)
    · rw [State.onDev_dev, Dev.live?, Dev.hlkErr_hlk]
      exact here
  case vector =>
    rintro s v c rfl inside
    cases merged : (Tbl.get {} s.dev.hlk.coal v.toNat).pending with
    | false =>
      exact ⟨_, coalesceIntervalEnd_closes inside merged, rfl, Tbl.get_set_self .., fun _ => ⟨rfl, rfl⟩, nofun, nofun⟩
    | true =>
      refine ⟨_, coalesceIntervalEnd_fires inside merged, ?_, ?_, nofun, fun _ unmasked => ?_, fun _ masked => ?_⟩
      · dsimp only [State.onDev]
        rw [Dev.vector_frame]
        rfl
      · rw [State.onDev_dev, Dev.vector_frame]
        exact Tbl.get_set_self ..
      · rw [State.onDev_dev, Dev.vector_open (by exact unmasked)]
        rfl
      · rw [State.onDev_dev, Dev.vector_masked (by exact masked)]
        exact ⟨rfl, Tbl.get_set_self ..⟩

end Sys2Proof.Machine
end

section
namespace Sys2Proof.Machine

/-! HLK_LINK_STAT and HLK_LINK_CTL: the bits of one module (R78 to R80). -/

/-- HLK_LINK_STAT with one module's UP, HALF and RATE set. -/
def moduleWord (w : Reg) (m rate : Nat) (half : Bool) : Reg :=
  setFld (setBit (setBit w m (rate != 0)) (2 + m) (half && rate != 0)) (4 + 2 * m) 2 rate

section
variable (w : Reg) {m : Nat} (rate : Nat) (half : Bool)

theorem moduleWord_up (lt : m < 2) : bit (moduleWord w m rate half) m = (rate != 0) := by
  rw [moduleWord, bit_setFld _ _ _ _ _ (by omega), if_neg (by omega), bit_setBit _ _ _ _ (by omega), if_neg (by omega),
    bit_setBit_same _ _ _ (by omega)]

theorem moduleWord_half (lt : m < 2) : bit (moduleWord w m rate half) (2 + m) = (half && rate != 0) := by
  rw [moduleWord, bit_setFld _ _ _ _ _ (by omega), if_neg (by omega), bit_setBit_same _ _ _ (by omega)]

theorem moduleWord_rate (lt : m < 2) (small : rate < 4) : fld (moduleWord w m rate half) (4 + 2 * m) 2 = rate := by
  rw [moduleWord, fld_setFld_same _ _ _ _ (by omega)]
  exact Nat.mod_eq_of_lt small

theorem moduleWord_other {k : Nat} (lt : m < 2) (small : k < 2) (other : k ≠ m) : bit (moduleWord w m rate half) k = bit w k := by
  rw [moduleWord, bit_setFld _ _ _ _ _ (by omega), if_neg (by omega), bit_setBit _ _ _ _ (by omega), if_neg (by omega),
    bit_setBit _ _ _ _ (by omega), if_neg other]

end

/-- R78: the highest rate up to `k` that passes, or 0. -/
theorem passing_spec (passes : BitVec 4) : ∀ k, passing passes k ≤ k ∧ (∀ r, passing passes k < r → r ≤ k → bit passes r = false) ∧
    (passing passes k ≠ 0 → bit passes (passing passes k) = true)
  | 0 => ⟨le_rfl, fun r lo hi => absurd lo (Nat.not_lt.2 hi), fun h => absurd rfl h⟩
  | k + 1 => by
    obtain ⟨le, fails, passes_⟩ := passing_spec passes k
    unfold passing
    split
    · rename_i top
      exact ⟨le_rfl, fun r lo hi => absurd lo (Nat.not_lt.2 hi), fun _ => top⟩
    · rename_i top
      refine ⟨Nat.le_succ_of_le le, fun r lo hi => ?_, passes_⟩
      rcases Nat.lt_or_eq_of_le hi with lt | rfl
      · exact fails r lo (Nat.lt_succ_iff.1 lt)
      · simpa using top

/-! What a change of the link leaves alone. -/

/-- Nothing changes but HLK and what goes to the host. -/
def Dev.LinkSide (d d' : Dev) : Prop := d' = { d with hlk := d'.hlk, host := d'.host }

section
variable {d d' d'' : Dev} {m : Nat}

theorem Dev.LinkSide.trans (a : d.LinkSide d') (b : d'.LinkSide d'') : d.LinkSide d'' := by
  unfold Dev.LinkSide at a b ⊢
  rw [a] at b
  exact b

theorem Dev.LinkSide.hostSide (a : d.LinkSide d') : d.HostSide d' := by
  unfold Dev.LinkSide at a
  unfold Dev.HostSide
  rw [a]

theorem Dev.LinkSide.hlkErr (i : Nat) : d.LinkSide (d.hlkErr i) := by
  unfold Dev.LinkSide Dev.hlkErr
  rw [Dev.vector_frame]

theorem Dev.setModule_side (rate : Nat) (half : Bool) : d.LinkSide (d.setModule m rate half) := by
  have set : d.LinkSide { d with hlk := { d.hlk with linkStat := moduleWord d.hlk.linkStat m rate half } } := rfl
  unfold Dev.setModule
  dsimp only
  split
  · exact set.trans (.hlkErr 5)
  · exact set

theorem Dev.setModule_words (rate : Nat) (half : Bool) :
    (d.setModule m rate half).hlk.linkStat = moduleWord d.hlk.linkStat m rate half ∧
      (d.setModule m rate half).hlk.linkCtl = d.hlk.linkCtl := by
  unfold Dev.setModule
  dsimp only
  split
  · rw [Dev.hlkErr_hlk]; exact ⟨rfl, rfl⟩
  · exact ⟨rfl, rfl⟩

theorem Dev.errStat_hlkErr {i : Nat} (small : i < 32) (k : Nat) : bit (d.hlkErr k).hlk.errStat i = (decide (i = k) || bit d.hlk.errStat i) := by
  rw [Dev.hlkErr_hlk]
  refine (bit_setBit _ _ _ _ small).trans ?_
  split <;> simp [*]

/-- The record of a module that went to x32 or down (R79). -/
def linkReport (m : Nat) : Report := { code := .linkDegraded, sev := 2, domain := domDevice, src := srcHlk, detail := m }

/-- A module step is shown and recorded. -/
structure Dev.Stepped (d d' : Dev) : Prop where
  side : d.HostSide d'
  linkStat : d'.hlk.linkStat = d.hlk.linkStat
  shown : bit d'.hlk.errStat 0 = true
  record : ∀ s t : State, s.dev.rel.queue.length < 64 → d.rel = s.dev.rel → d.now = s.dev.now → t.dev.rel = d'.rel →
    OneRecord s t .linkDegraded 2 domDevice
  queue : d.rel.queue.length < 64 → ∃ r, d'.rel.queue = d.rel.queue ++ [r] ∧ r.code = Status.linkDegraded.code ∧ r.sev = 2 ∧
    r.domain = domDevice

theorem Dev.moduleStep_stepped (d : Dev) (m : Nat) : d.Stepped (d.moduleStep m) := by
  have logged : d.moduleStep m = (d.hlkErr 0).log (linkReport m) := rfl
  rw [logged]
  refine ⟨.trans (.hlkErr 0) (.log _), ?_, ?_, fun s t room rel now after => ?_, fun room => ?_⟩
  · rw [Dev.log_hlk, Dev.hlkErr_hlk]
  · rw [Dev.log_hlk]
    exact Dev.errStat_hlkErr (by decide) 0
  · exact OneRecord.of_log (r := linkReport m) room ((Dev.hlkErr_rel d 0).trans rel) (by rw [← now]; simp [Dev.now]) after (by exact (by decide : 2 < 4))
  · have queue := (d.hlkErr 0).log_queue (linkReport m) (by rw [Dev.hlkErr_rel]; exact room)
    rw [Dev.hlkErr_rel] at queue
    exact ⟨_, queue, rfl, rfl, rfl⟩

end

/-! Training, retraining, degrading (R78, R79, R143). -/

section
variable {s : State} {m : Fin 2}

theorem exec_moduleTraining (s : State) (m : Fin 2) (sup : BitVec 2) (passes : BitVec 4) (rep : BitVec 8) (half : Bool) :
    exec (.moduleTraining m sup passes rep half) s = execModuleTraining m sup passes rep half s := rfl

/-- A module as its training leaves it, before HLK_ERR_STAT shows what it lacks. -/
def Dev.trained (d : Dev) (m rate : Nat) (rep : BitVec 8) (half : Bool) : Dev :=
  let e := ({ d with hlk := { d.hlk with linkCtl := setBit d.hlk.linkCtl (2 + m) false } } : Dev).setModule m rate half
  { e with hlk := { e.hlk with linkStat := setFld e.hlk.linkStat (8 + 8 * m) 8 rep.toNat } }

theorem Dev.trained_side (d : Dev) (m rate : Nat) (rep : BitVec 8) (half : Bool) : d.LinkSide (d.trained m rate rep half) := by
  have on : d.LinkSide { d with hlk := { d.hlk with linkCtl := setBit d.hlk.linkCtl (2 + m) false } } := rfl
  exact (on.trans (Dev.setModule_side rate half)).trans rfl

theorem Dev.trained_stat (d : Dev) (m rate : Nat) (rep : BitVec 8) (half : Bool) :
    (d.trained m rate rep half).hlk.linkStat = setFld (moduleWord d.hlk.linkStat m rate half) (8 + 8 * m) 8 rep.toNat := by
  unfold Dev.trained
  dsimp only
  rw [(Dev.setModule_words rate half).1]

theorem Dev.moduleRate_of {d : Dev} {w : Reg} {m : Fin 2} {rate v : Nat} {half : Bool}
    (word : d.hlk.linkStat = setFld (moduleWord w m rate half) (8 + 8 * m) 8 v) (small : rate < 4) : d.moduleRate m = rate := by
  rw [Dev.moduleRate, word, fld_setFld_other _ _ _ _ _ _ (by omega) (by omega), moduleWord_rate _ _ _ m.isLt small]

/-- What HLK_ERR_STAT shows of a training that ends below MAX_RATE or at x32. -/
def Dev.shows (d : Dev) (m rate top : Nat) (half : Bool) : Dev :=
  let d := if half = true ∨ rate = 0 then d.moduleStep m else d
  if rate ≠ 0 ∧ rate < top then d.hlkErr 1 else d

structure Dev.Shown (d d' : Dev) (rate top : Nat) (half : Bool) : Prop where
  side : d.HostSide d'
  linkStat : d'.hlk.linkStat = d.hlk.linkStat
  step : half = true ∨ rate = 0 → bit d'.hlk.errStat 0 = true ∧ ∀ s t : State, s.dev.rel.queue.length < 64 → d.rel = s.dev.rel →
    d.now = s.dev.now → t.dev.rel = d'.rel → OneRecord s t .linkDegraded 2 domDevice
  quiet : half = false → rate ≠ 0 → d'.rel = d.rel
  low : rate ≠ 0 → rate < top → bit d'.hlk.errStat 1 = true

theorem Dev.shows_shown (d : Dev) (m rate top : Nat) (half : Bool) : d.Shown (d.shows m rate top half) rate top half := by
  obtain ⟨side, stat, shown, record, -⟩ := d.moduleStep_stepped m
  have low : ∀ e : Dev, let e' := if rate ≠ 0 ∧ rate < top then e.hlkErr 1 else e
      e.LinkSide e' ∧ e'.hlk.linkStat = e.hlk.linkStat ∧ (bit e.hlk.errStat 0 = true → bit e'.hlk.errStat 0 = true) ∧
        (rate ≠ 0 → rate < top → bit e'.hlk.errStat 1 = true) := by
    intro e
    dsimp only
    split
    · exact ⟨.hlkErr 1, by rw [Dev.hlkErr_hlk], fun on => by rw [Dev.errStat_hlkErr (by decide), on]; rfl,
        fun _ _ => by rw [Dev.errStat_hlkErr (by decide)]; rfl⟩
    · rename_i full
      exact ⟨rfl, rfl, id, fun on below => absurd ⟨on, below⟩ full⟩
  unfold Dev.shows
  dsimp only
  by_cases step : half = true ∨ rate = 0
  · rw [if_pos step]
    obtain ⟨side', stat', kept, low⟩ := low (d.moduleStep m)
    refine ⟨side.trans side'.hostSide, stat'.trans stat, fun _ => ⟨kept shown, fun s t room rel now after => ?_⟩, fun full up => ?_, low⟩
    · exact record s t room rel now (after.trans (by rw [side']))
    · rcases step with h | h
      · rw [full] at h; cases h
      · exact absurd h up
  · rw [if_neg step]
    obtain ⟨side', stat', -, low⟩ := low d
    exact ⟨side'.hostSide, stat', fun h => absurd h step, fun _ _ => by rw [side'], low⟩

theorem moduleTraining_trains (sup : BitVec 2) (passes : BitVec 4) (rep : BitVec 8) (half : Bool) (stage : 4 ≤ s.dev.hkc.stage.toNat)
    (on : bit s.dev.hlk.linkCtl (4 + m) = false) :
    let rate := passing passes (min (fld s.dev.hlk.linkCtl 0 2) sup.toNat)
    exec (.moduleTraining m sup passes rep half) s =
      .next (s.onDev fun d => (d.trained m rate rep half).shows m rate (fld d.hlk.linkCtl 0 2) half) := by
  intro rate
  have kept : bit (setBit s.dev.hlk.linkCtl (2 + m.val) false) (4 + m) = false := by
    rw [bit_setBit _ _ _ _ (by omega), if_neg (by omega), on]
  have max : fld (setBit s.dev.hlk.linkCtl (2 + m.val) false) 0 2 = fld s.dev.hlk.linkCtl 0 2 := fld_setFld_other _ _ _ _ _ _ (by omega) (by omega)
  rw [exec_moduleTraining, execModuleTraining, devStep_eq]
  simp only [if_neg (Nat.not_lt.2 stage), kept, max, Bool.false_eq_true, if_false]
  rfl

theorem exec_retrain (s : State) (m : Fin 2) : exec (if m = 0 then .retrain0 else .retrain1) s = hostStep s fun d => d.retrain m :=
  match m with
  | 0 | 1 => rfl

theorem exec_moduleDegrade (s : State) (m : Fin 2) (down : Bool) : exec (.moduleDegrade m down) s = execModuleDegrade m down s := rfl

/-- R79: the module goes to x32, or down. -/
def Dev.narrowed (d : Dev) (m : Nat) (down : Bool) : Dev :=
  if down = true ∨ bit d.hlk.linkStat (2 + m) = true then d.setModule m 0 false else d.setModule m (d.moduleRate m) true

theorem Dev.narrowed_side (d : Dev) (m : Nat) (down : Bool) : d.LinkSide (d.narrowed m down) := by
  unfold Dev.narrowed
  split
  · exact Dev.setModule_side ..
  · exact Dev.setModule_side ..

theorem moduleDegrade_narrows (up : bit s.dev.hlk.linkStat m = true) (down : Bool) :
    exec (.moduleDegrade m down) s = .next (s.onDev fun d => (d.narrowed m down).moduleStep m) := by
  rw [exec_moduleDegrade, execModuleDegrade, devStep_eq]
  simp only [up, Bool.not_true, Bool.false_eq_true, if_false]
  rfl

/-- R80: one module under a write of DISABLE. -/
def Dev.disables (d : Dev) (v m : Nat) : Dev :=
  if v.testBit m = true ∧ bit d.hlk.linkStat m = true then (d.setModule m 0 false).hlkErr 0 else d

theorem Dev.disables_spec (d : Dev) (v : Nat) {m : Nat} (lt : m < 2) :
    d.LinkSide (d.disables v m) ∧ (d.disables v m).hlk.linkCtl = d.hlk.linkCtl ∧
      bit (d.disables v m).hlk.linkStat m = (bit d.hlk.linkStat m && !v.testBit m) ∧
      ∀ k, k < 2 → k ≠ m → bit (d.disables v m).hlk.linkStat k = bit d.hlk.linkStat k := by
  unfold Dev.disables
  split
  · rename_i off
    obtain ⟨stat, ctl⟩ := Dev.setModule_words (d := d) (m := m) 0 false
    rw [Dev.hlkErr_hlk]
    dsimp only
    rw [stat, ctl, moduleWord_up _ _ _ lt, off.1]
    refine ⟨(Dev.setModule_side 0 false).trans (.hlkErr 0), rfl, by simp, fun k small other => moduleWord_other _ _ _ lt small other⟩
  · rename_i stays
    refine ⟨rfl, rfl, ?_, fun _ _ _ => rfl⟩
    cases here : bit d.hlk.linkStat m <;> simp_all

/-- The two modules after a write of DISABLE. -/
def Dev.disabled (d : Dev) (v : Nat) : Dev :=
  (({ d with hlk := { d.hlk with linkCtl := setFld d.hlk.linkCtl 4 2 v } } : Dev).disables v 0).disables v 1

theorem disable_disables (v : BitVec 2) (served : s.dev.served = true) :
    exec (.disable v) s = .next (s.onDev fun d => d.disabled v.toNat) := by
  have ran : exec (.disable v) s = hostStep s fun d => d.disableWrite v.toNat := rfl
  rw [ran, hostStep_served _ served]
  rfl

theorem Dev.disabled_spec (d : Dev) (v : Nat) (m : Fin 2) :
    d.LinkSide (d.disabled v) ∧ (d.disabled v).hlk.linkCtl = setFld d.hlk.linkCtl 4 2 v ∧
      bit (d.disabled v).hlk.linkStat m = (bit d.hlk.linkStat m && !v.testBit m) := by
  let e : Dev := { d with hlk := { d.hlk with linkCtl := setFld d.hlk.linkCtl 4 2 v } }
  obtain ⟨side, ctl, own, other⟩ := e.disables_spec v (m := 0) (by decide)
  obtain ⟨side', ctl', own', other'⟩ := (e.disables v 0).disables_spec v (m := 1) (by decide)
  refine ⟨(show d.LinkSide e from rfl).trans (side.trans side'), ctl'.trans ctl, ?_⟩
  match m with
  | 0 => exact (other' 0 (by decide) (by decide)).trans own
  | 1 => exact own'.trans (by rw [other 1 (by decide) (by decide)]; rfl)

theorem hdmDecoderCommit_commits (gib : BitVec 7) (base : BitVec 64) (served : s.dev.served = true) (fits : gib.toNat ≤ s.dev.hlk.hdmGib) :
    exec (.hdmDecoderCommit gib base) s = .next (s.onDev fun d => { d with
      hlk := { d.hlk with hdmDecoder := if gib = 0 then none else some (gib.toNat, base) }, host := d.host ++ [.hdmResult true] }) := by
  have ran : exec (.hdmDecoderCommit gib base) s = execHdmDecoderCommit gib base s := rfl
  rw [ran, execHdmDecoderCommit, hostStep_served _ served]
  simp only [fits, decide_true, if_true]
  rfl

theorem hdmDecoderCommit_fails (gib : BitVec 7) (base : BitVec 64) (served : s.dev.served = true) (large : s.dev.hlk.hdmGib < gib.toNat) :
    exec (.hdmDecoderCommit gib base) s = .next (s.onDev fun d => { d with host := d.host ++ [.hdmResult false] }) := by
  have ran : exec (.hdmDecoderCommit gib base) s = execHdmDecoderCommit gib base s := rfl
  rw [ran, execHdmDecoderCommit, hostStep_served _ served]
  simp only [decide_eq_false (Nat.not_le.2 large), Bool.false_eq_true, if_false]
  rfl

end

/-! Session 0 (R99). -/

section
variable {s : State} {v : BitVec 32}

theorem bit_and {n : Nat} (w k : BitVec n) (i : Nat) : bit (w &&& k) i = (bit w i && bit k i) := by
  simp only [bit_eq_getLsbD, BitVec.getLsbD_and]

/-- A field read through a mask that covers it. -/
theorem fld_and_mask {n : Nat} (w k : BitVec n) (lo len : Nat) (covers : ∀ i, i < len → bit k (lo + i) = true) :
    fld (w &&& k) lo len = fld w lo len := by
  refine Nat.eq_of_testBit_eq fun i => ?_
  rw [testBit_fld, testBit_fld, bit_and]
  by_cases inside : i < len
  · rw [covers i inside, Bool.and_true]
  · simp [inside]

/-- R99: the sizes and bases that a write of EN 1 takes. -/
def Hlk.admValid (x : Hlk) (v : BitVec 32) : Prop :=
  4 ≤ fld v 0 5 ∧ fld v 0 5 ≤ 16 ∧ 7 ≤ fld v 8 5 ∧ fld v 8 5 ≤ 16 ∧ fld x.admHatchBase 0 12 = 0 ∧ fld x.admChitBase 0 12 = 0

/-- R99: session 0 with its Hatch 0. -/
def Dev.admOpened (d : Dev) (v : BitVec 32) : Dev :=
  ({ d with hlk := { d.hlk with
      admCfg := setBit v 16 true &&& 0x11F1F
      hatches := Tbl.set d.hlk.hatches 0 { owner := 0, n := fld v 0 5, base := d.hlk.admHatchBase } } } : Dev).onSession 0 fun _ =>
    { st := .opened, chitBase := d.hlk.admChitBase, chitLog2 := fld v 8 5, vecBase := 16, vecCount := 16 }

/-- EN 1 on a closed session 0 (R99). -/
theorem Dev.admCfgWrite_enable {d : Dev} (v : BitVec 32) (sound : d.rel.devFault = false) (closed : (d.session 0).st = .closed) :
    (d.hlk.admValid v → d.admCfgWrite (setBit v 16 true) = d.admOpened v) ∧
      (¬ d.hlk.admValid v → d.admCfgWrite (setBit v 16 true) = d.note .cfgRange domDevice srcHlk) := by
  have en : bit (setBit v 16 true) 16 = true := bit_setBit_same _ _ _ (by decide)
  have hatch : fld (setBit v 16 true) 0 5 = fld v 0 5 := fld_setFld_other _ _ _ _ _ _ (by decide) (by decide)
  have chit : fld (setBit v 16 true) 8 5 = fld v 8 5 := fld_setFld_other _ _ _ _ _ _ (by decide) (by decide)
  have out : (fld (setBit v 16 true) 0 5 < 4 ∨ 16 < fld (setBit v 16 true) 0 5 ∨ fld (setBit v 16 true) 8 5 < 7 ∨
      16 < fld (setBit v 16 true) 8 5 ∨ fld d.hlk.admHatchBase 0 12 ≠ 0 ∨ fld d.hlk.admChitBase 0 12 ≠ 0) ↔ ¬ d.hlk.admValid v := by
    rw [hatch, chit, Hlk.admValid]
    omega
  unfold Dev.admCfgWrite
  simp only [closed, sound, en, ne_eq, not_true_eq_false, if_false, Bool.not_true, Bool.false_eq_true]
  refine ⟨fun valid => (if_neg fun bad => out.1 bad valid).trans ?_, fun bad => if_pos (out.2 bad)⟩
  rw [hatch, chit]
  rfl

theorem exec_adminSessionEnable (s : State) (v : BitVec 32) :
    exec (.adminSessionEnable v) s = hostStep s fun d => d.admCfgWrite (setBit v 16 true) := rfl

/-- The fields of HLK_ADM_CFG once session 0 is open. -/
theorem admCfg_fields (v : BitVec 32) : bit (setBit v 16 true &&& 0x11F1F) 16 = true ∧
    fld (setBit v 16 true &&& 0x11F1F) 0 5 = fld v 0 5 ∧ fld (setBit v 16 true &&& 0x11F1F) 8 5 = fld v 8 5 := by
  refine ⟨?_, (fld_and_mask _ _ _ _ (by decide)).trans (fld_setFld_other _ _ _ _ _ _ (by decide) (by decide)),
    (fld_and_mask _ _ _ _ (by decide)).trans (fld_setFld_other _ _ _ _ _ _ (by decide) (by decide))⟩
  rw [bit_and, bit_setBit_same _ _ _ (by decide)]
  rfl

end

/-- Settles O15: the words of a module by bit fields, the frame of every change of the link, and the two outcomes of EN. -/
theorem linkAndAdminSessionAreSet : Obligations.linkAndAdminSessionAreSet := by
  unfold Obligations.linkAndAdminSessionAreSet
  refine ⟨fun s m => ?link, ?admin⟩
  case link =>
    intro up hlkOnly
    refine ⟨?training, ?retrain, ?degrade, ?disable, rfl, fun gib base served => ⟨hdmDecoderCommit_commits gib base served,
      hdmDecoderCommit_fails gib base served⟩⟩
    case training =>
      intro sup passes rep half stage on top
      obtain ⟨le, fails, passes_⟩ := passing_spec passes top
      have small : passing passes top < 4 := by omega
      obtain ⟨side, stat, step, quiet, low⟩ :=
        (s.dev.trained m (passing passes top) rep half).shows_shown m (passing passes top) (fld s.dev.hlk.linkCtl 0 2) half
      have trained := s.dev.trained_side m (passing passes top) rep half
      rw [s.dev.trained_stat] at stat
      refine ⟨_, moduleTraining_trains sup passes rep half stage on, ?_⟩
      rw [Dev.moduleRate_of (by exact stat) small]
      refine ⟨?_, fun h => ⟨(step h).1, fun room => (step h).2 s _ room ?_ ?_ rfl⟩, fun full up => ?_, ⟨le, fails⟩, passes_, ?_, low, ?_⟩
      · dsimp only [State.onDev]
        rw [trained.hostSide.trans side]
      · rw [trained]
      · rw [trained]; rfl
      · exact (quiet full up).trans (by rw [trained])
      · show bit (State.onDev s _).dev.hlk.linkStat m = _
        rw [State.onDev_dev, stat, bit_setFld _ _ _ _ _ (by omega), if_neg (by omega), moduleWord_up _ _ _ m.isLt]
        cases passing passes top <;> rfl
      · rw [State.onDev_dev, stat, fld_setFld_same _ _ _ _ (by omega)]
        exact Nat.mod_eq_of_lt rep.isLt
    case retrain =>
      intro served
      let e : Dev := { s.dev with hlk := { s.dev.hlk with linkCtl := setBit s.dev.hlk.linkCtl (2 + m.val) true } }
      obtain ⟨stat, ctl⟩ := Dev.setModule_words (d := e) (m := m) 0 false
      have side : s.dev.LinkSide (s.dev.retrain m) := .trans (d' := e) rfl (Dev.setModule_side 0 false)
      refine ⟨_, (exec_retrain s m).trans (hostStep_served _ served), ?_, ?_, ?_, ?_⟩
      · dsimp only [hlkOnly]
        rw [side]
      · exact (congrArg (bit · m.val) stat).trans (moduleWord_up _ _ _ m.isLt)
      · exact (congrArg (bit · (2 + m.val)) ctl).trans (bit_setBit_same _ _ _ (by omega))
      · exact (congrArg (bit · (1 - m.val)) stat).trans (moduleWord_other _ _ _ m.isLt (by omega) (by omega))
    case degrade =>
      intro on room down
      obtain ⟨side, stat, shown, -, queue⟩ := (s.dev.narrowed m down).moduleStep_stepped m
      have narrowed : s.dev.LinkSide (s.dev.narrowed m down) := s.dev.narrowed_side m down
      obtain ⟨r, queue, code, sev, domain⟩ := queue (by rw [narrowed]; exact room)
      refine ⟨_, r, moduleDegrade_narrows on down, ?_, shown, queue.trans (by rw [narrowed]), code, sev, domain, fun falls => ?_, fun stays full fast => ?_⟩
      · dsimp only [State.onDev]
        rw [narrowed.hostSide.trans side]
      · show bit _ m.val = false
        rw [State.onDev_dev, stat, Dev.narrowed, if_pos (.inl falls), (Dev.setModule_words 0 false).1, moduleWord_up _ _ _ m.isLt]
        rfl
      · have rate : (s.dev.moduleRate m != 0) = true := by simpa using Nat.pos_iff_ne_zero.1 fast
        have half : ¬ (down = true ∨ bit s.dev.hlk.linkStat (2 + m.val) = true) := by simp [stays, full]
        dsimp only [up]
        rw [State.onDev_dev, stat, Dev.narrowed, if_neg half, (Dev.setModule_words _ true).1, moduleWord_up _ _ _ m.isLt,
          moduleWord_half _ _ _ m.isLt, rate]
        exact ⟨rfl, rfl⟩
    case disable =>
      intro v served
      obtain ⟨side, ctl, stat⟩ := s.dev.disabled_spec v.toNat m
      refine ⟨_, disable_disables v served, ?_, ?_, fun off => ?_, fun stays => ?_⟩
      · dsimp only [hlkOnly, State.onDev]
        rw [side]
      · rw [State.onDev_dev, ctl, fld_setFld_same _ _ _ _ (by decide)]
        exact Nat.mod_eq_of_lt v.isLt
      · refine stat.trans ?_
        rw [show v.toNat.testBit m = true from off, Bool.not_true, Bool.and_false]
      · refine stat.trans ?_
        rw [show v.toNat.testBit m = false from stays, Bool.not_false, Bool.and_true]
  case admin =>
    intro s v served sound closed n m valid
    obtain ⟨takes, refuses⟩ := Dev.admCfgWrite_enable v sound closed
    have ran := (exec_adminSessionEnable s v).trans (hostStep_served _ served)
    refine ⟨fun good => ?_, fun bad room => ?_⟩
    · rw [takes good] at ran
      obtain ⟨en, hatch, chit⟩ := admCfg_fields v
      refine ⟨_, ran, rfl, en, hatch, chit, Tbl.find_set_self .., ?_, fun k other => ⟨?_, Tbl.find_set_ne other⟩⟩
      · exact (Dev.session_onSession ..).trans (if_pos rfl)
      · exact (Dev.session_onSession ..).trans (if_neg other)
    · rw [refuses bad] at ran
      let r : Report := { code := .cfgRange, sev := 0, domain := domDevice, src := srcHlk }
      have noted : s.dev.note .cfgRange domDevice srcHlk = s.dev.log r := rfl
      rw [noted] at ran
      refine ⟨_, _, ran, ?_, s.dev.log_queue r room, rfl, rfl, rfl⟩
      rw [Dev.log_quiet _ _ (by decide)]

end Sys2Proof.Machine
end

section
namespace Sys2Proof.Machine

/-! A session that closes with a capture of its Barrel open (R101, R103, R469). -/

/-- Session 1 drains for its CLOSE_SESSION, and Barrel 0, which it owns, is in POST with the trigger time 1. -/
def closingInPost : State :=
  { State.reset with dev := { State.reset.dev with
      hlk := { State.reset.dev.hlk with
        sessions := [(1, { st := .draining, drain := some { uid := 0, reset := false } })]
        live := [{ uid := 0, session := 0, hatch := 0, index := 0, raw := 0, phase := .active }] }
      barrels := [(0, { owner := some 1, st := .post, trigTime := 1 })] } }

/-- The loft cell that the end of the drain leaves at the Barrel's directory. -/
def closedDirectory : Option Cell :=
  match exec (.drainEnd 1) closingInPost with
  | .next t => Tbl.find? t.mem.loft 0
  | _ => none

/-- Refutes O16: the end of a CLOSE_SESSION's drain closes the open capture of a Barrel that the session owns, and that writes the
capture's directory entry to the Loft, where the statement leaves the memories as they were. -/
theorem not_sessionsOpenDrainAndEnd : ¬ Obligations.sessionsOpenDrainAndEnd := by
  unfold Obligations.sessionsOpenDrainAndEnd
  rintro ⟨-, drains, -⟩
  obtain ⟨-, ends⟩ := drains closingInPost 0 { uid := 0, session := 0, hatch := 0, index := 0, raw := 0 }
  obtain ⟨t, ran, mem, -⟩ := ends 1 { uid := 0, reset := false } { uid := 0, session := 0, hatch := 0, index := 0, raw := 0, phase := .active }
    rfl rfl (by decide +kernel) rfl rfl
  have written : closedDirectory = some { data := 1 } := by decide +kernel
  rw [closedDirectory, ran] at written
  dsimp only at written
  rw [mem] at written
  exact absurd written (by decide +kernel)

end Sys2Proof.Machine
end

section
namespace Sys2Proof.Machine

/-! Crates that start (R101, R121, R191), and the status they take (R59, R133). -/

section
variable {d : Dev} {s t : State} {uid kind : Nat} {c c₁ : Live} {p : Live → Bool}

/-- A Crate that may start is in flight, ready, and of the kind asked for. -/
theorem Dev.starts_some (starts : d.starts uid kind p = some c) :
    d.live? uid = some c ∧ c.isReady = true ∧ c.kind = kind ∧ p c = true ∧ d.startable c = true ∧ d.turn c = true := by
  unfold Dev.starts at starts
  split at starts
  · cases starts
  · rename_i x here
    split at starts
    · rename_i may
      cases starts
      simp only [Bool.and_eq_true, beq_iff_eq] at may
      obtain ⟨⟨⟨⟨ready, is⟩, also⟩, startable⟩, turn⟩ := may
      exact ⟨here, ready, is, also, startable, turn⟩
    · cases starts

theorem Live.undecided_of_ready (ready : c.isReady = true) : c.decided = false := by
  unfold Live.isReady at ready
  unfold Live.decided
  split at ready
  · rename_i is
    rw [is]; rfl
  · cases ready

/-- The status of a Crate whose stage alone changed since. -/
theorem Decided.of_finish_stage {st : Status} {r0 r1 : Nat} (here : s.dev.live? uid = some c) (there : d.live? uid = some c₁)
    (raw : c₁.raw = c.raw) (waits : c₁.decided = false) (now : d.now = s.dev.now)
    (after : t.dev.hlk.live = (d.finish uid st r0 r1).hlk.live) : Decided s t uid st r0 r1 := by
  have found : t.dev.live? uid = (d.finish uid st r0 r1).live? uid := by rw [Dev.live?, after]; rfl
  rw [Dev.finish, Dev.live_onLive d uid fun c => by split <;> rfl, there, Option.map_some] at found
  have num : ∀ lo n, c₁.num lo n = c.num lo n := fun lo n => by rw [Live.num, Live.num, raw]
  have missed : c₁.missed = c.missed := by
    funext now
    rw [Live.missed, Live.missed, Live.deadline, Live.deadline, num]
  have kind : c₁.kind = c.kind := num 0 1
  rw [waits, if_neg Bool.false_ne_true] at found
  refine ⟨c, _, here, found, rfl, ?_, rfl, ?_, now⟩
  · dsimp only
    rw [missed, now]
  · dsimp only
    rw [kind, num]

/-- A command that ends its Crate: it takes its status, and nothing else of the device changes but what it did before. -/
theorem Decided.of_starts {st : Status} {r0 r1 : Nat} (starts : s.dev.starts uid kind p = some c) (live : d.hlk.live = s.dev.hlk.live)
    (now : d.now = s.dev.now) (after : t.dev = d.finish uid st r0 r1) : Decided s t uid st r0 r1 := by
  obtain ⟨here, ready, -⟩ := Dev.starts_some starts
  exact .of_finish here (Live.undecided_of_ready ready) live now (by rw [after])

/-- A finish changes the Crates in flight alone. -/
theorem Dev.finish_frame (d : Dev) (uid : Nat) (st : Status) (r0 r1 : Nat) :
    d.finish uid st r0 r1 = { d with hlk := { d.hlk with live := (d.finish uid st r0 r1).hlk.live } } := rfl

theorem Dev.session_finish (d : Dev) (uid n : Nat) (st : Status) (r0 r1 : Nat) : (d.finish uid st r0 r1).session n = d.session n := rfl

end

/-! Runs of Loft cells (R531, R790). -/

section
variable {m : Mem} {a j : Nat} {c : Cell}

theorem Mem.loftRead_put : (m.loftPut a c).loftRead j = if j = a then .good c.stored else m.loftRead j := by
  have err : Tbl.get 0 (m.loftPut a c).loftErr j = if j = a then 0 else Tbl.get 0 m.loftErr j := by
    simp only [Mem.loftPut, Tbl.get, Tbl.find_erase]
    split <;> rfl
  unfold Mem.loftRead Mem.loftWord
  rw [err, m.loftGet_put]
  split
  · rw [if_pos rfl]
  · rfl

/-- A run of cells stored at consecutive places: each reads as it was stored, and every other place as before. -/
theorem Mem.loftPutRun_spec : ∀ (cs : List Cell) (m : Mem) (a : Nat), let m' := m.loftPutRun a cs
    m' = { m with loft := m'.loft, loftErr := m'.loftErr } ∧
      (∀ i v, cs[i]? = some v → m'.loftGet (a + i) = v.stored ∧ m'.loftRead (a + i) = .good v.stored) ∧
      ∀ j, j < a ∨ a + cs.length ≤ j → m'.loftGet j = m.loftGet j ∧ m'.loftRead j = m.loftRead j
  | [], m, a => ⟨rfl, nofun, fun _ _ => ⟨rfl, rfl⟩⟩
  | c :: cs, m, a => by
    obtain ⟨frame, inside, outside⟩ := Mem.loftPutRun_spec cs (m.loftPut a c) (a + 1)
    refine ⟨frame, fun i v at_ => ?_, fun j apart => ?_⟩
    · cases i with
      | zero =>
        cases at_
        obtain ⟨get, read⟩ := outside a (.inl (Nat.lt_succ_self a))
        exact ⟨get.trans ((m.loftGet_put a a c).trans (if_pos rfl)), read.trans (Mem.loftRead_put.trans (if_pos rfl))⟩
      | succ i =>
        have := inside i v at_
        rwa [Nat.add_assoc, Nat.add_comm 1 i] at this
    · rw [List.length_cons] at apart
      obtain ⟨get, read⟩ := outside j (by omega)
      exact ⟨get.trans ((m.loftGet_put a j c).trans (if_neg (by omega))), read.trans (Mem.loftRead_put.trans (if_neg (by omega)))⟩

end

/-! LOAD (R529 to R531). -/

section
variable {s : State} {uid : Nat} {c : Live} {b : List Byte} {code data live entry p : Nat}

/-- The program store pages of an image. -/
def imagePages (code data : Nat) : Nat := cdiv (4 * code + data) 16384

/-- The run of program pages from `q` is free. -/
def Dev.progFree (d : Dev) (pages q : Nat) : Prop := q + pages ≤ d.progPages ∧ ∀ i, i < pages → q + i ∉ d.stk.progUsed

theorem Dev.progRun_find {d : Dev} {pages p : Nat} (free : d.progFree pages p) (first : ∀ q, q < p → ¬ d.progFree pages q) :
    ((List.range (d.progPages + 1 - pages)).find? fun p => (List.range pages).all fun i => !d.stk.progUsed.contains (p + i)) = some p := by
  have is : ∀ q, (((List.range pages).all fun i => !d.stk.progUsed.contains (q + i)) = true) ↔ ∀ i, i < pages → q + i ∉ d.stk.progUsed := by
    intro q
    simp
  obtain ⟨fits, unused⟩ := free
  refine List.find?_range_eq_some.2 ⟨(is p).2 unused, List.mem_range.2 (by omega), fun q lt => ?_⟩
  have used := fun all => first q lt ⟨by omega, (is q).1 all⟩
  simpa using used

/-- The program that a LOAD makes known. -/
def Dev.loaded (d : Dev) (c : Live) (p code data live entry : Nat) : Program :=
  { session := c.session, handle := (d.session c.session).nextHandle, base := p * 16384, pages := imagePages code data
    codeBundles := code, dataCells := data, liveCells := live, entry }

theorem load_loads (starts : s.dev.starts uid 7 = some c) (clear : s.dev.inHdm (c.num 32 8) (c.num 40 4) = false)
    (length : b.length = c.num 40 4) (header : binaryHeader b = some (code, data, live, entry)) (tags : (imageCells code data b).2 = false)
    (free : s.dev.progFree (imagePages code data) p) (first : ∀ q, q < p → ¬ s.dev.progFree (imagePages code data) q) :
    exec (.load uid (.bytes b)) s = .next ((s.onMem fun m => m.loftPutRun (p * 16384) (imageCells code data b).1).onDev fun d =>
      ({ (d.newHandle c.session).2 with stk := { d.stk with programs := d.stk.programs ++ [d.loaded c p code data live entry] } } : Dev).finish
        uid .ok (p * 16384) (d.session c.session).nextHandle) := by
  have ran : exec (.load uid (.bytes b)) s = execLoad uid (.bytes b) s := rfl
  have whole : b.take (c.num 40 4) = b := by rw [← length, List.take_length]
  have run := Dev.progRun_find free first
  unfold imagePages at run
  have room : ¬ s.dev.progPages < cdiv (4 * code + data) 16384 := by
    have := free.1
    unfold imagePages at this
    omega
  rw [ran, execLoad]
  simp only [starts, clear, length, whole, header, run, tags, if_neg room, if_neg (Nat.lt_irrefl _), Bool.false_eq_true, if_false]
  rfl

end

/-! Quotas, the CXL.mem reserve, the overflow pool (R124, R167 to R169, R202, R203). -/

section
variable {s : State} {uid : Nat} {c : Live}

theorem setQuota_sets (starts : s.dev.admin uid 5 = some c) (target : s.dev.liveTarget c.target = true)
    (fits : quotaOk (c.num 36 4) (c.num 40 2) (c.num 42 1) (c.num 43 1) (c.num 44 4) (c.num 48 2) = true) :
    exec (.setQuota uid) s = .next (s.onDev fun d => (d.onSession c.target fun q =>
      { q with qShelves := c.num 36 4, qLoft := c.num 40 2, qSpus := c.num 42 1, qPrio := c.num 43 1, qPool := c.num 44 4
               qInflight := c.num 48 2 }).finish uid .ok) := by
  have ran : exec (.setQuota uid) s = execSetQuota uid s := rfl
  rw [ran, execSetQuota, devStep_eq]
  simp only [starts, target, fits, Bool.not_true, Bool.false_eq_true, or_self, if_false]
  rfl

theorem setHdm_sets (starts : s.dev.admin uid 9 = some c) (small : c.num 36 2 ≤ 64)
    (decoder : ∀ q, s.dev.hlk.hdmDecoder = some q → q.1 ≤ c.num 36 2)
    (enters : ∀ i, i < (c.num 36 2 - s.dev.hlk.hdmGib) * 512 →
      let p : Int := ((s.dev.fittedShelves - s.dev.cel.top : Nat) : Int) - (c.num 36 2 : Int) * 512 + (i : Int)
      (s.dev.ttShelves : Int) ≤ p ∧ p.toNat ∉ s.dev.usedShelves) :
    exec (.setHdm uid) s = .next (s.onDev fun d => ({ d with hlk := { d.hlk with hdmGib := c.num 36 2 } } : Dev).finish uid .ok) := by
  have ran : exec (.setHdm uid) s = execSetHdm uid s := rfl
  have kept : (s.dev.hlk.hdmDecoder.any fun (k, _) => decide (c.num 36 2 < k)) = false := by
    cases here : s.dev.hlk.hdmDecoder with
    | none => rfl
    | some q => simpa using decoder q here
  have free : (((List.range ((c.num 36 2 - s.dev.hlk.hdmGib) * 512)).map fun i : Nat =>
      ((s.dev.fittedShelves - s.dev.cel.top : Nat) : Int) - (c.num 36 2 : Int) * 512 + (i : Int)).any fun p =>
        decide (p < s.dev.ttShelves) || s.dev.usedShelves.contains p.toNat) = false := by
    rw [List.any_eq_false]
    intro p mem
    obtain ⟨i, lt, rfl⟩ := List.mem_map.1 mem
    obtain ⟨above, unused⟩ := enters i (List.mem_range.1 lt)
    simp [unused, Int.not_lt.2 above]
  rw [ran, execSetHdm, devStep_eq]
  simp only [starts, if_neg (Nat.not_lt.2 small), kept, free, Bool.false_eq_true, if_false]
  rfl

theorem exec_poolGrantAdd (s : State) (uid : Nat) : exec (.poolGrantAdd uid) s = execPoolGrantAdd uid s := rfl

/-- One of several is chosen where there is one. -/
theorem Dev.pick_mem {d : Dev} {l : List Nat} {q : Nat} (mem : q ∈ l) : ∃ r ∈ l, d.pick l = some r := by
  match l with
  | [x] => exact ⟨x, List.mem_singleton_self x, rfl⟩
  | x :: y :: l =>
    have lt : d.free.toNat % (x :: y :: l).length < (x :: y :: l).length := Nat.mod_lt _ (Nat.succ_pos _)
    exact ⟨_, List.getElem_mem lt, List.getElem?_eq_getElem lt⟩

/-- The region numbers that no region has. -/
def Stk.freeRegions (k : Stk) : List Nat := (List.range 16).filter fun r => (Tbl.find? k.pool r).isNone

theorem Stk.mem_freeRegions {k : Stk} {r : Nat} : r ∈ k.freeRegions ↔ r < 16 ∧ Tbl.find? k.pool r = none := by
  simp [Stk.freeRegions]

theorem lowestFree_unused {used : List Nat} {hi : Nat} : ∀ fuel lo n, ∀ x ∈ lowestFree used hi fuel lo n, x ∉ used
  | 0, _, _ => nofun
  | fuel + 1, lo, n => by
    unfold lowestFree
    split
    · exact nofun
    · split
      · exact lowestFree_unused fuel (lo + 1) n
      · rename_i new
        intro x mem
        rcases List.mem_cons.1 mem with rfl | mem
        · simpa using new
        · exact lowestFree_unused fuel (lo + 1) (n - 1) x mem

/-- The fields of a grant of a region in range (R168). -/
structure Dev.GrantFits (d : Dev) (c : Live) : Prop where
  flag : c.num 48 1 = 0
  target : c.target = 0
  some_ : 1 ≤ c.num 36 4
  few : c.num 36 4 ≤ 524288
  aligned : c.num 40 8 % shelfBytes = 0
  room : d.stk.slotsGranted.length + c.num 36 4 ≤ 1048576

theorem Dev.GrantFits.passes {d : Dev} (fits : d.GrantFits c) : ¬ (c.target ≠ 0 ∨ c.num 48 1 ≠ 0 ∨ c.num 36 4 < 1 ∨ 524288 < c.num 36 4 ∨
    c.num 40 8 % shelfBytes ≠ 0 ∨ d.stk.slotsGranted.length + c.num 36 4 > 1048576) := by
  obtain ⟨flag, target, some_, few, aligned, room⟩ := fits
  omega

theorem poolGrantAdd_faults {r : Nat} (starts : s.dev.admin uid 6 (fun c => c.num 48 1 != 1) = some c) (fits : s.dev.GrantFits c)
    (region : s.dev.pick s.dev.stk.freeRegions = some r) (covered : s.dev.inHdm (c.num 40 8) (c.num 36 4 * shelfBytes) = true) :
    exec (.poolGrantAdd uid) s = .next (s.onDev fun d => d.finish uid .grantFault) := by
  unfold Stk.freeRegions at region
  rw [exec_poolGrantAdd, execPoolGrantAdd, devStep_eq]
  simp only [starts, region, if_neg fits.passes, covered, if_true]
  rfl

/-- The region that a grant adds. -/
def Dev.granted (d : Dev) (c : Live) : PoolRegion :=
  { base := BitVec.ofNat 64 (c.num 40 8)
    slots := lowestFree d.stk.slotsGranted 1048576 (d.stk.slotsGranted.length + c.num 36 4) 0 (c.num 36 4) }

theorem poolGrantAdd_adds {r : Nat} (starts : s.dev.admin uid 6 (fun c => c.num 48 1 != 1) = some c) (fits : s.dev.GrantFits c)
    (region : s.dev.pick s.dev.stk.freeRegions = some r) (clear : s.dev.inHdm (c.num 40 8) (c.num 36 4 * shelfBytes) = false)
    (still : s.dev.stk.xfers = []) :
    exec (.poolGrantAdd uid) s = .next (s.onDev fun d =>
      ({ d with stk := { d.stk with pool := Tbl.set d.stk.pool r (d.granted c) }, freeCtr := d.freeCtr + 1 } : Dev).finish uid .ok 0 r) := by
  unfold Stk.freeRegions at region
  rw [exec_poolGrantAdd, execPoolGrantAdd, devStep_eq]
  simp only [starts, region, if_neg fits.passes, clear, Bool.false_eq_true, if_false]
  rw [Dev.pageStep_idle (by exact still)]
  rfl

theorem Dev.withdrawStep_ends {d : Dev} {i : Nat} {g : PoolRegion} (here : Tbl.find? d.stk.pool i = some g) (runs : g.withdrawing = some uid)
    (still : d.stk.xfers = []) (sound : g.failure = none) (empty : d.stk.inRegion g = []) :
    d.withdrawStep i = ({ d with stk := { d.stk with
      pool := Tbl.erase d.stk.pool i, badSlots := d.stk.badSlots.filter fun s => !g.slots.contains s } } : Dev).finish uid .ok := by
  simp only [Dev.withdrawStep, here, runs, still, sound, empty, List.any_nil, Bool.false_eq_true, if_false]

theorem poolGrantWithdraw_ends {g : PoolRegion} (starts : s.dev.admin uid 6 (fun c => c.num 48 1 == 1) = some c) (target : c.target = 0)
    (here : Tbl.find? s.dev.stk.pool (c.num 49 1) = some g) (sound : g.failure = none) (empty : s.dev.stk.inRegion g = [])
    (still : s.dev.stk.xfers = []) :
    ∃ k, k = { s.dev.stk with pool := k.pool, badSlots := k.badSlots } ∧ Tbl.find? k.pool (c.num 49 1) = none ∧
      exec (.poolGrantWithdraw uid) s = .next (s.onDev fun d =>
        ({ d.onLive uid fun c => { c with phase := .active } with stk := k } : Dev).finish uid .ok) := by
  have ran : exec (.poolGrantWithdraw uid) s = execPoolGrantWithdraw uid s := rfl
  refine ⟨{ s.dev.stk with
      pool := Tbl.erase (Tbl.set s.dev.stk.pool (c.num 49 1) { g with withdrawing := some uid }) (c.num 49 1)
      badSlots := s.dev.stk.badSlots.filter fun s => !g.slots.contains s }, rfl, (Tbl.find_erase ..).trans (if_pos rfl), ?_⟩
  rw [ran, execPoolGrantWithdraw, devStep_eq]
  simp only [starts, here, if_neg (not_not_intro target), empty, List.length_nil, gt_iff_lt, Nat.not_lt_zero, if_false]
  rw [Dev.withdrawStep_ends (Tbl.find_set_self ..) rfl (by exact still) (by exact sound) (by exact empty)]
  rfl

end

/-- Settles O18: one lemma per command and outcome; each ends its Crate, which `Decided.of_starts` reads off. -/
theorem programsAndPoolsAreSet : Obligations.programsAndPoolsAreSet := by
  unfold Obligations.programsAndPoolsAreSet
  refine ⟨?load, ?admin⟩
  case load =>
    intro s uid c b code data live entry p starts clear length header tags pages free here first h cells
    obtain ⟨frame, inside, outside⟩ := Mem.loftPutRun_spec cells s.mem (p * 16384)
    refine ⟨_, load_loads starts clear length header tags here first, .of_starts starts ?_ ?_ rfl, rfl, frame, inside, outside⟩
    · rfl
    · rfl
  case admin =>
  intro s uid c d k op
  refine ⟨?quota, ?hdm, ?add, ?withdraw⟩
  case quota =>
    intro starts target fits
    refine ⟨_, setQuota_sets starts target fits, .of_starts starts ?_ ?_ rfl, rfl, ?_, fun n other => ?_⟩
    · rfl
    · rfl
    · rw [State.onDev_dev, Dev.session_finish, Dev.session_onSession, if_pos rfl]
    · rw [State.onDev_dev, Dev.session_finish, Dev.session_onSession, if_neg other]
  case hdm =>
    intro starts small decoder enters
    refine ⟨_, setHdm_sets starts small decoder enters, .of_starts starts ?_ ?_ rfl, rfl⟩
    · rfl
    · rfl
  case add =>
    intro q starts flag target some_ few aligned room lt free
    have fits : d.GrantFits c := ⟨flag, target, some_, few, aligned, room⟩
    obtain ⟨r, mem, region⟩ := d.pick_mem (Stk.mem_freeRegions.2 ⟨lt, free⟩)
    obtain ⟨small, unused⟩ := Stk.mem_freeRegions.1 mem
    refine ⟨fun covered => ⟨_, poolGrantAdd_faults starts fits region covered, .of_starts starts ?_ ?_ rfl, rfl⟩, fun clear still => ?_⟩
    · rfl
    · rfl
    refine ⟨r, _, d.granted c, small, unused, poolGrantAdd_adds starts fits region clear still, .of_starts starts ?_ ?_ rfl, rfl,
      Tbl.find_set_self .., rfl, rfl, lowestFree_unused _ _ _, fun q other => Tbl.find_set_ne other⟩
    · rfl
    · rfl
  case withdraw =>
    intro g starts target here sound empty still
    obtain ⟨here', -⟩ := Dev.starts_some starts
    obtain ⟨k', frame, gone, ran⟩ := poolGrantWithdraw_ends starts target here sound empty still
    refine ⟨_, ran, .of_finish_stage here' (c₁ := { c with phase := .active }) ?_ rfl rfl ?_ rfl, ?_, gone⟩
    · exact (Dev.live_onLive s.dev uid (f := fun c => { c with phase := .active }) fun c => rfl).trans (by rw [here', Option.map_some])
    · rfl
    · dsimp only [State.onDev]
      rw [frame]
      rfl

end Sys2Proof.Machine
end

section
namespace Sys2Proof.Machine

/-! Opening and closing of streams (R642 to R644, R654). -/

/-- The best element under an order by `f` is one of the list and has the least `f`. -/
theorem bestBy_least {α β : Type} [LinearOrder β] {f : α → β} {lt : α → α → Bool} (order : ∀ a b, lt a b = true ↔ f a < f b) :
    ∀ {l : List α} {y : α}, bestBy lt l = some y → y ∈ l ∧ ∀ x ∈ l, f y ≤ f x
  | x :: l, y, best => by
    unfold bestBy at best
    cases rest : bestBy lt l with
    | none =>
      rw [rest] at best
      cases best
      cases l with
      | nil => simp
      | cons w l =>
        unfold bestBy at rest
        split at rest
        · cases rest
        · split at rest <;> cases rest
    | some w =>
      rw [rest] at best
      obtain ⟨mem, least⟩ := bestBy_least order rest
      dsimp only at best
      split at best <;> rename_i better <;> cases best
      · exact ⟨List.mem_cons_of_mem _ mem, List.forall_mem_cons.2 ⟨((order _ _).1 better).le, least⟩⟩
      · have worse : f x ≤ f w := not_lt.1 fun h => better ((order _ _).2 h)
        exact ⟨List.mem_cons_self, List.forall_mem_cons.2 ⟨le_rfl, fun z m => worse.trans (least z m)⟩⟩

/-- A list that is not empty has a best element. -/
theorem bestBy_some {α : Type} (lt : α → α → Bool) : ∀ {l : List α}, l ≠ [] → ∃ y, bestBy lt l = some y
  | x :: l, _ => by
    unfold bestBy
    split
    · exact ⟨_, rfl⟩
    · split <;> exact ⟨_, rfl⟩

section
variable {s : State} {uid : Nat} {c : Live}

theorem Mov.streamMover_least (k : Mov) {j : Nat} (lt : j < 16) : k.streamsOn k.streamMover ≤ k.streamsOn j := by
  unfold Mov.streamMover
  obtain ⟨m, best⟩ := bestBy_some (fun a b => decide (k.streamsOn a < k.streamsOn b)) (l := List.range 16) (by simp)
  rw [best]
  exact (bestBy_least (f := k.streamsOn) (fun a b => decide_eq_true_iff) best).2 j (List.mem_range.2 lt)

theorem exec_streamOpen (s : State) (uid : Nat) : exec (.streamOpen uid) s = .next (s.openStream uid Dev.upperPort) := rfl
theorem exec_streamClose (s : State) (uid : Nat) : exec (.streamClose uid) s = .next (s.closeStream uid) := rfl

/-- The fields of a STREAM open in range (R643). -/
def Live.streamFormed (c : Live) : Prop :=
  16 ≤ c.num 48 1 ∧ c.num 48 1 ≤ 32 ∧ c.num 40 8 % 4096 = 0 ∧ c.num 36 4 ≠ 0 ∧ (c.num 33 1 ≤ 3 ∨ c.num 33 1 = 255)

theorem Live.streamFormed_iff (c : Live) : c.streamFormed ↔
    ¬ (c.num 48 1 < 16 ∨ 32 < c.num 48 1 ∨ c.num 40 8 % 4096 ≠ 0 ∨ c.num 36 4 = 0 ∨ (3 < c.num 33 1 ∧ c.num 33 1 ≠ 255)) := by
  unfold Live.streamFormed
  omega

/-- An uncompressed stream of an output queue. -/
structure Live.queueStream (c : Live) : Prop where
  formed : c.streamFormed
  plain : c.num 33 1 = 255
  kind : fld (BitVec.ofNat 64 (c.num 56 8)) 0 4 = 2
  rest : fld (BitVec.ofNat 64 (c.num 56 8)) 8 56 = 0
  format : fld (BitVec.ofNat 64 (c.num 56 8)) 4 4 ≤ 7

theorem streamOpen_waits (starts : s.dev.starts uid 3 (fun c => c.num 32 1 == 0) = some c) (turn : s.dev.streamTurn s.dev.mov.streamMover c = false) :
    exec (.streamOpen uid) s = .next s := by
  simp only [exec_streamOpen, State.openStream, starts, turn, Bool.not_false, if_true]

theorem streamOpen_malformed (starts : s.dev.starts uid 3 (fun c => c.num 32 1 == 0) = some c)
    (turn : s.dev.streamTurn s.dev.mov.streamMover c = true) (bad : ¬ c.streamFormed) :
    exec (.streamOpen uid) s = .next (s.onDev fun d => d.finish uid .cfgRange) := by
  simp only [exec_streamOpen, State.openStream, starts, turn, Bool.not_true, Bool.false_eq_true, if_false]
  rw [if_pos (not_not.1 (mt c.streamFormed_iff.2 bad))]

theorem Live.queueStream.source (q : c.queueStream) : s.streamSrc c.session (BitVec.ofNat 64 (c.num 56 8)) Dev.upperPort = .ok := by
  unfold State.streamSrc
  dsimp only
  rw [q.kind]
  exact if_pos ⟨q.rest, q.format⟩

theorem streamOpen_covered (starts : s.dev.starts uid 3 (fun c => c.num 32 1 == 0) = some c)
    (turn : s.dev.streamTurn s.dev.mov.streamMover c = true) (q : c.queueStream) (covered : s.dev.inHdm (c.num 40 8) (2 ^ c.num 48 1 + 64) = true) :
    exec (.streamOpen uid) s = .next (s.onDev fun d => d.finish uid .grantFault) := by
  simp only [exec_streamOpen, State.openStream, starts, turn, q.source, covered, Bool.not_true, Bool.false_eq_true, if_false, ne_eq,
    not_true_eq_false, if_true]
  rw [if_neg (c.streamFormed_iff.1 q.formed)]

/-- The stream that a Crate opens. -/
def Dev.opened (d : Dev) (c : Live) : Stream :=
  { session := c.session, src := BitVec.ofNat 64 (c.num 56 8), cmpe := BitVec.ofNat 8 (c.num 33 1), rate := c.num 36 4
    rbase := BitVec.ofNat 64 (c.num 40 8), rlog2 := c.num 48 1, mover := d.mov.streamMover, shelves := [] }

theorem streamOpen_opens (starts : s.dev.starts uid 3 (fun c => c.num 32 1 == 0) = some c)
    (turn : s.dev.streamTurn s.dev.mov.streamMover c = true) (q : c.queueStream) (clear : s.dev.inHdm (c.num 40 8) (2 ^ c.num 48 1 + 64) = false)
    (few : s.dev.mov.streams.length < 256) (cap : s.dev.declared + c.num 36 4 ≤ s.dev.streamCap * 1000) (lo : 1 ≤ s.dev.mov.nextSid)
    (hi : s.dev.mov.nextSid ≤ 65535) (free : Tbl.find? s.dev.mov.streams s.dev.mov.nextSid = none) :
    exec (.streamOpen uid) s = .next (s.onDev fun d =>
      let e := d.onMover d.mov.streamMover fun v => { v with lastServed := Tbl.set v.lastServed c.cls c.session }
      ({ e with mov := { e.mov with streams := Tbl.set d.mov.streams d.mov.nextSid (d.opened c), nextSid := d.mov.nextSid + 1 } } : Dev).finish
        uid .ok 0 d.mov.nextSid) := by
  have sid : s.dev.mov.freeSid 257 s.dev.mov.nextSid = s.dev.mov.nextSid := by
    unfold Mov.freeSid
    dsimp only
    rw [if_neg (by omega : ¬ (s.dev.mov.nextSid = 0 ∨ 65535 < s.dev.mov.nextSid)), free]
    rfl
  have shelves : s.streamShelves c.session (BitVec.ofNat 64 (c.num 56 8)) = [] := by
    unfold State.streamShelves
    rw [q.kind]
    rfl
  simp only [exec_streamOpen, State.openStream, starts, turn, q.source, clear, sid, shelves, Bool.not_true, Bool.false_eq_true, if_false, ne_eq,
    not_true_eq_false, q.plain, false_and, ge_iff_le, if_neg (Nat.not_le.2 few), gt_iff_lt, if_neg (Nat.not_lt.2 cap)]
  rw [if_neg (by simpa only [q.plain, ne_eq, not_true_eq_false] using c.streamFormed_iff.1 q.formed)]
  unfold Dev.opened
  rw [q.plain]
  rfl

/-- A stream that the Crate's session does not hold, or that is closing, is out of range (R654). -/
theorem streamClose_unknown (starts : s.dev.starts uid 3 (fun c => c.num 32 1 == 1) = some c)
    (unknown : ∀ x, Tbl.find? s.dev.mov.streams (c.num 34 2) = some x → x.session ≠ c.session ∨ x.closing.isSome = true) :
    exec (.streamClose uid) s = .next (s.onDev fun d => d.finish uid .cfgRange) := by
  simp only [exec_streamClose, State.closeStream, starts]
  cases here : Tbl.find? s.dev.mov.streams (c.num 34 2) with
  | none => rfl
  | some x => rw [← here]; simp only [here, if_pos (unknown x here)]

theorem Dev.onStream_found {d : Dev} {sid : Nat} {x : Stream} (here : Tbl.find? d.mov.streams sid = some x) (f : Stream → Stream) :
    d.onStream sid f = { d with mov := { d.mov with streams := Tbl.set d.mov.streams sid (f x) } } := by
  rw [Dev.onStream, here]

theorem streamClose_closes {x : Stream} (starts : s.dev.starts uid 3 (fun c => c.num 32 1 == 1) = some c)
    (here : Tbl.find? s.dev.mov.streams (c.num 34 2) = some x) (own : x.session = c.session) (going : x.closing = none)
    (quiet : QuietQueues s.dev.insts) :
    exec (.streamClose uid) s = .next (s.onDev fun d =>
      let e := d.onLive uid fun c => { c with phase := .active }
      { e with mov := { e.mov with streams := Tbl.set e.mov.streams (c.num 34 2) { x with closing := some uid } } }) := by
  have no : ¬ (x.session ≠ c.session ∨ x.closing.isSome = true) := by simp [own, going]
  simp only [exec_streamClose, State.closeStream, starts, here, if_neg no]
  unfold State.onDev
  dsimp only
  unfold Dev.startClose
  rw [Dev.onStream_found (by exact here), Dev.pump_quiet (by exact quiet)]
  simp [going]

end

/-! Frames (R647, R648, R650, R651). -/

section
variable {s : State} {sid : BitVec 16} {x : Stream} {f : Frame}

theorem exec_streamFrame (s : State) (sid : BitVec 16) : exec (.streamFrame sid) s = .next (s.streamFrame sid.toNat) := rfl

/-- A HALTED mover carries no stream (R636). -/
theorem streamFrame_halted (here : Tbl.find? s.dev.mov.streams sid.toNat = some x) (going : x.halt = none)
    (halted : (s.dev.mover x.mover).halted = true) : exec (.streamFrame sid) s = .next s := by
  simp only [exec_streamFrame, State.streamFrame, here, going, halted, Option.isSome_none, Bool.false_eq_true, if_false, if_true]

/-- A frame of a port's stream is due, and its mover carries it. -/
structure FrameDue (s : State) (sid : BitVec 16) (x : Stream) (f : Frame) : Prop where
  here : Tbl.find? s.dev.mov.streams sid.toNat = some x
  port : x.kind = 1
  going : x.halt = none
  runs : (s.dev.mover x.mover).halted = false
  due : x.queueFrame = some f

/-- The zero bytes that fill a frame to 64 bytes, and its size with header and padding (R650). -/
def Frame.pad (f : Frame) : Nat := (64 - f.payload.length % 64) % 64
def Frame.size (f : Frame) : Nat := 64 + f.payload.length + f.pad

theorem streamFrame_waits (w : FrameDue s sid x f) (full : 2 ^ x.rlog2 < (x.write - x.read).toNat + f.size) :
    exec (.streamFrame sid) s = .next (s.onDev fun d => d.onStream sid.toNat fun t => { t with wait := true }) := by
  obtain ⟨here, port, going, runs, due⟩ := w
  have kind : ¬ x.kind = 3 := by omega
  unfold Frame.size Frame.pad at full
  simp only [exec_streamFrame, State.streamFrame, here, going, runs, Option.isSome_none, Bool.false_eq_true, if_false, if_neg kind, due,
    gt_iff_lt, if_pos full]

/-- The stream after a frame (R647, R651). -/
def Stream.sent (x : Stream) (f : Frame) : Stream :=
  { x with
    write := x.write + BitVec.ofNat 64 f.size, wait := false, seq := x.seq + 1, bpos := x.bpos + BitVec.ofNat 64 f.ulen, lostFrame := 0
    lossMark := false, queue := x.queue.drop f.take, skip := f.skip
    fences := (x.fences.map fun (u, k) => (u, k - f.take)).filter fun (_, k) => k != 0 }

/-- The bytes of a frame. -/
def Stream.frameBytes (x : Stream) (sid : Nat) (f : Frame) : List Byte :=
  x.header sid f f.cellCount ++ f.payload ++ List.replicate f.pad 0

/-- What the host receives of a frame that does not wrap: its bytes, then WRITE and the lost count. -/
def Dev.frameSent (d : Dev) (sid : Nat) (x : Stream) (f : Frame) : Dev :=
  let e := d.hostWrite (x.rbase.toNat + x.write.toNat % 2 ^ x.rlog2) (x.frameBytes sid f)
  { e with
    host := e.host ++ [HostTxn.write (x.rbase + BitVec.ofNat 64 (2 ^ x.rlog2)) (leBytes 8 (x.write + BitVec.ofNat 64 f.size).toNat),
      HostTxn.write (x.rbase + BitVec.ofNat 64 (2 ^ x.rlog2 + 16)) (leBytes 8 x.lost)]
    mov := { e.mov with streams := Tbl.set e.mov.streams sid (x.sent f) } }

theorem leBytes_length : ∀ k v, (leBytes k v).length = k
  | 0, _ => rfl
  | k + 1, v => by rw [leBytes, List.length_cons, leBytes_length k]

theorem Stream.frameBytes_length (x : Stream) (sid : Nat) (f : Frame) : (x.frameBytes sid f).length = f.size := by
  simp [Stream.frameBytes, Stream.header, leBytes_length, Frame.size]
  omega

theorem Dev.ringWrite_straight {d : Dev} {x : Stream} {b : List Byte} {w : Nat} (fits : w % 2 ^ x.rlog2 + b.length ≤ 2 ^ x.rlog2) :
    d.ringWrite x w b = d.hostWrite (x.rbase.toNat + w % 2 ^ x.rlog2) b := by
  unfold Dev.ringWrite
  dsimp only
  rw [if_pos (by omega), List.take_of_length_le (by omega)]

theorem streamFrame_sends (w : FrameDue s sid x f) (more : f.last = false) (plain : f.comp = false) (quiet : QuietQueues s.dev.insts)
    (room : (x.write - x.read).toNat + f.size ≤ 2 ^ x.rlog2) (straight : x.write.toNat % 2 ^ x.rlog2 + f.size ≤ 2 ^ x.rlog2) :
    exec (.streamFrame sid) s = .next (s.onDev fun d => d.frameSent sid.toNat x f) := by
  obtain ⟨here, port, going, runs, due⟩ := w
  have kind : ¬ x.kind = 3 := by omega
  have written : ∀ d : Dev, d.ringWrite x x.write.toNat (x.frameBytes sid.toNat f) =
      d.hostWrite (x.rbase.toNat + x.write.toNat % 2 ^ x.rlog2) (x.frameBytes sid.toNat f) := fun d =>
    Dev.ringWrite_straight (by rw [Stream.frameBytes_length]; exact straight)
  have notLoss : (x.kind = 3) = False := eq_false kind
  unfold Stream.frameBytes Frame.pad at written
  have room' : ¬ 2 ^ x.rlog2 < (x.write - x.read).toNat + (64 + f.payload.length + (64 - f.payload.length % 64) % 64) := Nat.not_lt.2 room
  simp only [exec_streamFrame, State.streamFrame, here, going, runs, Option.isSome_none, Bool.false_eq_true, if_false, notLoss, due,
    gt_iff_lt, if_neg room', false_and, more, plain, written]
  simp only [port]
  unfold State.onDev
  dsimp only
  rw [Dev.onStream_found (by exact here), Dev.pump_quiet (by exact quiet)]
  simp only [notLoss, if_false]
  rfl

theorem exec_readReread (s : State) (sid : BitVec 16) (rd : BitVec 64) : exec (.readReread sid rd) s = execReadReread sid rd s := rfl

theorem readReread_takes {rd : BitVec 64} (here : Tbl.find? s.dev.mov.streams sid.toNat = some x) (waits : x.wait = true)
    (within : (rd - x.read).toNat ≤ (x.write - x.read).toNat) :
    exec (.readReread sid rd) s = .next (s.onDev fun d => d.onStream sid.toNat fun t => { t with read := rd }) := by
  rw [exec_readReread, execReadReread, devStep_eq]
  simp only [here, waits, Bool.not_true, Bool.false_eq_true, if_false, if_pos within]
  rfl

/-- The record of a READ beyond what was written (R648). -/
def badReadReport (x : Stream) (sid : Nat) : Report :=
  { code := .ok, sev := 0, domain := domMover x.mover, src := srcMov, cause := 31, session := x.session, detail := sid }

theorem readReread_reports {rd : BitVec 64} (here : Tbl.find? s.dev.mov.streams sid.toNat = some x) (waits : x.wait = true)
    (beyond : (x.write - x.read).toNat < (rd - x.read).toNat) :
    exec (.readReread sid rd) s = .next (s.onDev fun d =>
      (d.onStream sid.toNat fun t => { t with badRead := true }).log (badReadReport x sid.toNat)) := by
  rw [exec_readReread, execReadReread, devStep_eq]
  simp only [here, waits, Bool.not_true, Bool.false_eq_true, if_false, if_neg (Nat.not_le.2 beyond)]
  rfl

end

/-- Settles O33: one lemma per outcome of an open, a close, a frame and a READ. -/
theorem streamsOpenWriteAndClose : Obligations.streamsOpenWriteAndClose := by
  unfold Obligations.streamsOpenWriteAndClose
  refine ⟨?crates, ?frames⟩
  case crates =>
    intro s uid c fails
    refine ⟨?opens, ?closes⟩
    case opens =>
      intro starts src sid m clear formed
      have failed : ∀ {st : Status}, exec (.streamOpen uid) s = .next (s.onDev fun d => d.finish uid st) → fails (.streamOpen uid) st := by
        intro st ran
        exact ⟨_, ran, .of_starts (d := s.dev) starts rfl rfl rfl, rfl⟩
      refine ⟨streamOpen_waits starts, fun turn => ⟨fun bad => failed (streamOpen_malformed starts turn bad), ?_, ?_⟩⟩
      · intro good plain kind rest format covered
        exact failed (streamOpen_covered starts turn ⟨good, plain, kind, rest, format⟩ (by simpa [clear] using covered))
      · intro good plain kind rest format open_ few cap lo hi free
        refine ⟨_, s.dev.opened c, streamOpen_opens starts turn ⟨good, plain, kind, rest, format⟩ open_ few cap lo hi free,
          .of_starts starts ?_ ?_ rfl, rfl, Tbl.find_set_self .., rfl, rfl, rfl, rfl, rfl, rfl, rfl, rfl, rfl,
          fun k lt => s.dev.mov.streamMover_least lt, fun k other => Tbl.find_set_ne other⟩
        · rfl
        · rfl
    case closes =>
      intro starts
      have failed : (∀ x, Tbl.find? s.dev.mov.streams (c.num 34 2) = some x → x.session ≠ c.session ∨ x.closing.isSome = true) →
          fails (.streamClose uid) .cfgRange := fun unknown =>
        ⟨_, streamClose_unknown starts unknown, .of_starts (d := s.dev) starts rfl rfl rfl, rfl⟩
      refine ⟨fun none => failed fun x here => (by rw [none] at here; cases here),
        fun x here foreign => failed fun y there => (by rw [here] at there; cases there; exact foreign), fun x here own going quiet => ?_⟩
      refine ⟨_, _, streamClose_closes starts here own going quiet, rfl, Tbl.find_set_self .., rfl, ?_⟩
      exact (Dev.live_onLive s.dev uid (f := fun c => { c with phase := .active }) fun c => rfl).trans (by rw [(Dev.starts_some starts).1]; rfl)
  case frames =>
    intro s sid x f here port
    refine ⟨fun going runs due more plain quiet => ?_, streamFrame_halted here, fun rd waits => ⟨fun within => ?_, fun beyond room => ?_⟩⟩
    · have w : FrameDue s sid x f := ⟨here, port, going, runs, due⟩
      refine ⟨fun room straight => ?_, fun full => ?_⟩
      · exact ⟨_, _, streamFrame_sends w more plain quiet room straight, rfl, rfl, Tbl.find_set_self .., rfl, rfl, rfl, rfl, rfl, rfl⟩
      · refine ⟨_, streamFrame_waits w full, ?_, ?_⟩ <;> rw [State.onDev, Dev.onStream_found here]
        exact Tbl.find_set_self ..
    · refine ⟨_, readReread_takes here waits within, ?_, ?_⟩ <;> rw [State.onDev, Dev.onStream_found here]
      exact Tbl.find_set_self ..
    · refine ⟨_, readReread_reports here waits beyond, rfl, ?_, ?_⟩
      · rw [State.onDev, Dev.log_mov, Dev.onStream_found here]
        exact Tbl.find_set_self ..
      · exact OneRecord.of_log (d := s.dev.onStream sid.toNat fun t => { t with badRead := true }) (r := badReadReport x sid.toNat) room
          (by rw [Dev.onStream_found here]) (by rw [Dev.onStream_found here]; rfl) rfl (by exact (by decide : 0 < 4))

end Sys2Proof.Machine
end

section
namespace Sys2Proof.Machine

/-! Reads of the Cellar that meet errors (R687, R688). -/

section
variable {s : State} {a n pc : Nat}

/-- Mending a granule makes no read fail. -/
theorem Mem.poisoned_mended {m : Mem} (clean : m.poisoned a n = false) (g : Nat) :
    ({ m with celErr := Tbl.erase m.celErr g } : Mem).poisoned a n = false := by
  unfold Mem.poisoned at clean ⊢
  simp only [Bool.or_eq_false_iff] at clean ⊢
  obtain ⟨⟨⟨poison, lost⟩, err⟩, stuck⟩ := clean
  refine ⟨⟨⟨poison, lost⟩, List.any_eq_false.2 fun p mem => List.any_eq_false.1 err p (List.mem_of_mem_filter mem)⟩, stuck⟩

/-- The pseudo-channel after a corrected granule, and after one that is not corrected. -/
def CelPc.corrected (x : CelPc) (ticks : List (BitVec 64)) : CelPc := { x with corr := BitVec.ofNat 24 (satInc 24 x.corr.toNat), ceTicks := ticks }
def CelPc.failed (x : CelPc) (ticks : List (BitVec 64)) : CelPc := { x with uncorr := BitVec.ofNat 8 (satInc 8 x.uncorr.toNat), ueTicks := ticks }

def Dev.corrects (d : Dev) (pc : Nat) : Dev := d.onPc pc fun x => x.corrected (d.hourAdd x.ceTicks)
def Dev.fails (d : Dev) (pc addr : Nat) : Dev :=
  (d.onPc pc fun x => x.failed (d.hourAdd x.ueTicks)).onCel fun c =>
    { c with errAddr := if bit c.err 2 then c.errAddr else BitVec.ofNat 37 addr, err := setBit c.err 2 true }

theorem celCorrected_counts (off : s.dev.cel.autoRetire = false) : s.celCorrected pc = s.onDev fun d => d.corrects pc := by
  unfold State.celCorrected
  exact if_neg fun h => by simp [State.onDev, Dev.onPc, Dev.onCel, off] at h

theorem celUncorrected_counts {addr : Nat} (off : s.dev.cel.autoRetire = false) : s.celUncorrected pc addr = s.onDev fun d => d.fails pc addr := by
  unfold State.celUncorrected
  exact if_neg fun h => by simp [State.onDev, Dev.onPc, Dev.onCel, off] at h

/-- A granule is mended, recorded and counted. -/
def State.mends (s : State) (g pc : Nat) (r : Report) : State :=
  { s with mem := { s.mem with celErr := Tbl.erase s.mem.celErr g }, dev := (s.dev.log r).corrects pc }

theorem celCorrected_mends {g : Nat} {r : Report} (off : s.dev.cel.autoRetire = false) :
    ((s.onMem fun m => { m with celErr := Tbl.erase m.celErr g }).onDev fun d => d.log r).celCorrected pc = s.mends g pc r :=
  celCorrected_counts (by rw [State.onDev, Dev.log_frame]; exact off)

theorem Dev.corrects_frame (d : Dev) (pc : Nat) : d.corrects pc = { d with cel := (d.corrects pc).cel } := rfl

end

/-! The host's windows onto the Cellar (R88, R94, R794). -/

section
variable {s : State} {a n : Nat}

theorem blockDead_none (alive : s.dev.cel.dead = 0) (a : Nat) : s.blockDead a = false := by simp [State.blockDead, alive]

/-- The host's read where no domain of the Cellar escalated. -/
theorem hostRead_alive (alive : s.dev.cel.dead = 0) : s.hostRead a n =
    let domain := domCel (s.mem.pcOf a / 32)
    let t := s.celRead a n domain 0 a
    if s.mem.poisoned a n then
      (t.onDev fun d => d.log { code := .eccUncorrected, sev := 2, domain, src := srcCel, cause := s.mem.celCause a n, addr := a }).answer .poisoned
    else t.answer (.reply (s.physGet a n)) :=
  if_neg (by simp [blockDead_none alive])

theorem hostRead_clean (alive : s.dev.cel.dead = 0) (clean : s.mem.poisoned a n = false) (fix : s.mem.fixable a n = []) :
    s.hostRead a n = s.answer (.reply (s.physGet a n)) := by
  simp [hostRead_alive alive, State.celRead, fix, State.celFix, clean]

/-- The record of a corrected granule. -/
def mendReport (s : State) (a g : Nat) : Report :=
  { code := .ok, sev := 1, domain := domCel (s.mem.pcOf a / 32), src := srcCel, addr := a, detail := s.mem.pcOf (g * 64) }

theorem hostRead_mends {g : Nat} (alive : s.dev.cel.dead = 0) (clean : s.mem.poisoned a n = false) (fix : s.mem.fixable a n = [g])
    (off : s.dev.cel.autoRetire = false) :
    s.hostRead a n = (s.mends g (s.mem.pcOf (g * 64)) (mendReport s a g)).answer (.reply (s.physGet a n)) := by
  have mended : s.celFix [g] (domCel (s.mem.pcOf a / 32)) 0 a = s.mends g (s.mem.pcOf (g * 64)) (mendReport s a g) := celCorrected_mends off
  have read : s.celRead a n (domCel (s.mem.pcOf a / 32)) 0 a = s.mends g (s.mem.pcOf (g * 64)) (mendReport s a g) := by
    rw [State.celRead, fix, mended]
    exact if_neg (by rw [State.mends, Mem.poisoned_mended clean]; decide)
  simp [hostRead_alive alive, read, clean]

/-- The record of a read that is not corrected. -/
def failReport (s : State) (a n : Nat) : Report :=
  { code := .eccUncorrected, sev := 2, domain := domCel (s.mem.pcOf a / 32), src := srcCel, cause := s.mem.celCause a n, addr := a }

theorem hostRead_poisoned (alive : s.dev.cel.dead = 0) (bad : s.mem.poisoned a n = true) (fix : s.mem.fixable a n = [])
    (off : s.dev.cel.autoRetire = false) :
    ∃ pc addr, s.hostRead a n = (s.onDev fun d => (d.fails pc addr).log (failReport s a n)).answer .poisoned := by
  obtain ⟨pc, addr, read⟩ : ∃ pc addr, s.celRead a n (domCel (s.mem.pcOf a / 32)) 0 a = s.celUncorrected pc addr := by
    simp only [State.celRead, fix, State.celFix, List.foldl_nil, bad, if_true]
    exact ⟨_, _, rfl⟩
  rw [celUncorrected_counts off] at read
  refine ⟨pc, addr, ?_⟩
  rw [hostRead_alive alive]
  simp only [read, bad, if_true]
  rfl

/-- What a command that reads the Cellar for the host does. -/
def HostReads (s : State) (a n : Nat) (c : Instr) : Prop :=
  (s.mem.poisoned a n = false → s.mem.fixable a n = [] → exec c s = .next (s.onDev fun d => { d with host := d.host ++ [.reply (s.physGet a n)] })) ∧
  (∀ g, s.mem.poisoned a n = false → s.mem.fixable a n = [g] → s.dev.cel.autoRetire = false → s.dev.rel.queue.length < 64 → ∃ t, exec c s = .next t ∧
    t.mem = { s.mem with celErr := Tbl.erase s.mem.celErr g } ∧ t.dev.host = s.dev.host ++ [.reply (s.physGet a n)] ∧
    OneRecord s t .ok 1 (domCel (s.mem.pcOf a / 32))) ∧
  (s.mem.poisoned a n = true → s.mem.fixable a n = [] → s.dev.cel.autoRetire = false → s.dev.rel.queue.length < 64 → ∃ t, exec c s = .next t ∧
    t.mem = s.mem ∧ t.dev.host.getLast? = some .poisoned ∧ bit t.dev.cel.err 2 = true ∧ OneRecord s t .eccUncorrected 2 (domCel (s.mem.pcOf a / 32)))

theorem HostReads.of_hostRead {c : Instr} (alive : s.dev.cel.dead = 0) (ran : exec c s = .next (s.hostRead a n)) : HostReads s a n c := by
  refine ⟨fun clean fix => ?_, fun g clean fix off room => ?_, fun bad fix off room => ?_⟩
  · rw [ran, hostRead_clean alive clean fix]
    rfl
  · rw [hostRead_mends alive clean fix off] at ran
    refine ⟨_, ran, rfl, ?_, OneRecord.of_log (d := s.dev) (r := mendReport s a g) room rfl rfl rfl (by exact (by decide : 1 < 4))⟩
    show (s.dev.log (mendReport s a g)).host ++ _ = _
    rw [Dev.log_quiet _ _ (by exact (by decide : 1 < 2))]
  · obtain ⟨pc, addr, read⟩ := hostRead_poisoned alive bad fix off
    rw [read] at ran
    refine ⟨_, ran, rfl, List.getLast?_concat .., ?_,
      OneRecord.of_log (d := s.dev.fails pc addr) (r := failReport s a n) room rfl rfl rfl (by exact (by decide : 2 < 4))⟩
    show bit ((s.dev.fails pc addr).log (failReport s a n)).cel.err 2 = true
    rw [Dev.log_frame]
    exact bit_setBit_same _ _ _ (by decide)

theorem hostWrite_nil : ∀ k a, s.hostWrite k a [] = s
  | 0, _ => rfl
  | _ + 1, _ => rfl

/-- A write within a block of 256 bytes. -/
theorem hostWrite_block {b : List Byte} (some : b ≠ []) (within : a % 256 + b.length ≤ 256) : s.hostWrite (b.length + 1) a b =
    if s.blockDead a || (s.dev.stk.tableAt? a).isSome then s
    else (s.celMerge a b.length (domCel (s.mem.pcOf a / 32)) 0 a).cellarStore a b := by
  rw [State.hostWrite, if_neg (by simpa using some)]
  dsimp only
  rw [List.take_of_length_le (by omega), List.drop_of_length_le (by omega), hostWrite_nil]

/-- What a command that writes the Cellar for the host does. -/
def HostWrites (s : State) (a : Nat) (b : List Byte) (c : Instr) : Prop := b ≠ [] → a % 256 + b.length ≤ 256 →
  (s.dev.captured a = false → s.dev.stk.tableAt? a = none → s.mem.fixable a b.length = [] → exec c s = .next (s.onMem fun m => m.cellarPut a b)) ∧
  ((s.dev.stk.tableAt? a).isSome = true → exec c s = .next s)

theorem HostWrites.of_hostWrite {c : Instr} {b : List Byte} (alive : s.dev.cel.dead = 0) (ran : exec c s = .next (s.hostWrite (b.length + 1) a b)) :
    HostWrites s a b c := by
  intro some within
  rw [hostWrite_block some within, blockDead_none alive, Bool.false_or] at ran
  refine ⟨fun free plain fix => ?_, fun table => ?_⟩
  · rw [ran, plain, State.celMerge, fix]
    simp [State.celFix, State.cellarStore, free]
  · rw [ran, if_pos table]

theorem exec_bar4Access (s : State) (off : BitVec 30) (acc : BusAccess) : exec (.bar4Access off acc) s = execBar4Access off acc s := rfl
theorem exec_cxlMemAccess (s : State) (off : BitVec 36) (acc : BusAccess) : exec (.cxlMemAccess off acc) s = execCxlMemAccess off acc s := rfl

theorem bar4_reads {off : BitVec 30} (served : s.dev.served = true) (alive : s.dev.cel.dead = 0) (on : bit s.dev.hlk.cwin 31 = true)
    (within : fld s.dev.hlk.cwin 0 7 * 512 * 2097152 + off.toNat + n ≤ s.dev.fittedShelves * 2097152) :
    HostReads s (fld s.dev.hlk.cwin 0 7 * 512 * 2097152 + off.toNat) n (.bar4Access off (.read n)) := by
  refine .of_hostRead alive ?_
  rw [exec_bar4Access, execBar4Access, hostState, if_pos served]
  simp only [shelfBytes, on, within, decide_true, Bool.and_self, if_true]

theorem bar4_writes {off : BitVec 30} {b : List Byte} (served : s.dev.served = true) (alive : s.dev.cel.dead = 0) (on : bit s.dev.hlk.cwin 31 = true)
    (within : fld s.dev.hlk.cwin 0 7 * 512 * 2097152 + off.toNat + b.length ≤ s.dev.fittedShelves * 2097152) :
    HostWrites s (fld s.dev.hlk.cwin 0 7 * 512 * 2097152 + off.toNat) b (.bar4Access off (.write b)) := by
  refine .of_hostWrite alive ?_
  rw [exec_bar4Access, execBar4Access, hostState, if_pos served]
  simp only [shelfBytes, on, within, decide_true, Bool.and_self, if_true]

/-- A closed window (R94). -/
theorem bar4_closed {off : BitVec 30} {b : List Byte} (served : s.dev.served = true) (shut : bit s.dev.hlk.cwin 31 = false) :
    exec (.bar4Access off (.read n)) s = .next (s.onDev fun d => { d with host := d.host ++ [.reply (List.replicate n 0xFF)] }) ∧
    exec (.bar4Access off (.write b)) s = .next s := by
  constructor <;> rw [exec_bar4Access, execBar4Access, hostState, if_pos served] <;> simp [shut, State.answer]

section
variable {off : BitVec 36} {gib : Nat} {base : BitVec 64} (served : s.dev.served = true) (alive : s.dev.cel.dead = 0)
  (decoder : s.dev.hlk.hdmDecoder = some (gib, base))
include served alive decoder

theorem cxl_reads (within : off.toNat + n ≤ gib * 2 ^ 30) : HostReads s (s.dev.poolTop * 2097152 + off.toNat) n (.cxlMemAccess off (.read n)) := by
  refine .of_hostRead alive ?_
  rw [exec_cxlMemAccess, execCxlMemAccess, hostState, if_pos served]
  simp only [shelfBytes, decoder, within, decide_true, if_true]

theorem cxl_writes {b : List Byte} (within : off.toNat + b.length ≤ gib * 2 ^ 30) :
    HostWrites s (s.dev.poolTop * 2097152 + off.toNat) b (.cxlMemAccess off (.write b)) := by
  refine .of_hostWrite alive ?_
  rw [exec_cxlMemAccess, execCxlMemAccess, hostState, if_pos served]
  simp only [shelfBytes, decoder, within, decide_true, if_true]

end

end

end Sys2Proof.Machine
end
section
namespace Sys2Proof.Machine

/-! Requests of a pseudo-channel (R665 to R671). -/

section
variable {pc : Nat}

/-- A change of one pseudo-channel and of the token buckets alone. -/
structure Dev.PcSide (pc : Nat) (d d' : Dev) : Prop where
  frame : d' = { d with cel := { d.cel with buckets := d'.cel.buckets, pcs := d'.cel.pcs } }
  others : ∀ k, k ≠ pc → d'.cel.pc k = d.cel.pc k

theorem Dev.PcSide.trans {d d' d'' : Dev} (a : Dev.PcSide pc d d') (b : Dev.PcSide pc d' d'') : Dev.PcSide pc d d'' := by
  refine ⟨?_, fun k other => (b.others k other).trans (a.others k other)⟩
  rw [b.frame, a.frame]

theorem Cel.pc_upd_ne {c c' : Cel} {p k : Nat} {f : CelPc → CelPc} (pcs : c'.pcs = Tbl.upd {} c.pcs p f) (other : k ≠ p) : c'.pc k = c.pc k := by
  rw [Cel.pc, pcs, Tbl.get_upd, if_neg other]
  rfl

theorem Dev.pcs_celSettle (d : Dev) (pc : Nat) : (d.celSettle pc).cel.pcs =
    d.cel.pcs.map fun x => (x.1, if x.1 = pc then x.2.settle d.tim.ticks d.cel.mhz else x.2) :=
  List.map_congr_left fun x _ => by dsimp only; split <;> rfl

theorem Dev.pc_celSettle (d : Dev) (pc k : Nat) :
    (d.celSettle pc).cel.pc k = if k = pc then (d.cel.pc k).settle d.tim.ticks d.cel.mhz else d.cel.pc k := by
  rw [Cel.pc, Cel.pc, Tbl.get, Tbl.get, Dev.pcs_celSettle,
    Tbl.find_mapKey fun q (x : CelPc) => if q = pc then x.settle d.tim.ticks d.cel.mhz else x]
  cases Tbl.find? d.cel.pcs k with
  | none => split <;> rfl
  | some x => rfl

theorem Dev.pcSide_celSettle (d : Dev) (pc : Nat) : Dev.PcSide pc d (d.celSettle pc) :=
  ⟨rfl, fun k other => by rw [Dev.pc_celSettle, if_neg other]⟩

/-- R669: the row that a bank keeps open while its pseudo-channel settles. -/
def CelPc.keptRow (x : CelPc) (now : BitVec 64) (mhz k : Nat) : Option Nat :=
  let b := x.bank k
  if (∃ q ∈ x.reads ++ x.writes.take 64, q.req.bank.toNat = k ∧ b.row = some q.req.row.toNat) ∨ (now - b.last).toNat * mhz ≤ 131072 then b.row else none

theorem CelPc.bank_settle (x : CelPc) (now : BitVec 64) (mhz k : Nat) :
    (x.settle now mhz).bank k = { x.bank k with row := x.keptRow now mhz k } := by
  have banks : (x.settle now mhz).banks = x.banks.map fun p => (p.1, { p.2 with row :=
      if ((x.reads ++ x.queue).any fun q => q.req.bank.toNat == p.1 && p.2.row == some q.req.row.toNat) ∨ (now - p.2.last).toNat * mhz ≤ 64 * 2048
      then p.2.row else none }) := List.map_congr_left fun p _ => by dsimp only; split <;> rfl
  rw [CelPc.bank, Tbl.get, banks, Tbl.find_mapKey fun k (b : CelBank) => { b with row :=
      if ((x.reads ++ x.queue).any fun q => q.req.bank.toNat == k && b.row == some q.req.row.toNat) ∨ (now - b.last).toNat * mhz ≤ 64 * 2048
      then b.row else none }]
  cases found : Tbl.find? x.banks k with
  | none =>
    have none : x.bank k = {} := by rw [CelPc.bank, Tbl.get, found]; rfl
    simp only [CelPc.keptRow, none, Option.map_none, Option.getD_none, ite_self]
  | some b =>
    have here : x.bank k = b := by rw [CelPc.bank, Tbl.get, found]; rfl
    simp only [CelPc.keptRow, here, Option.map_some, Option.getD_some, CelPc.queue, List.any_eq_true, Bool.and_eq_true, beq_iff_eq]

/-- Requests of a pseudo-channel arrived: its queues changed and nothing else. -/
structure Dev.Arrived (pc : Nat) (d d' : Dev) : Prop where
  side : Dev.PcSide pc d d'
  queues : d'.cel.pc pc = { d.cel.pc pc with reads := (d'.cel.pc pc).reads, writes := (d'.cel.pc pc).writes, nextReq := (d'.cel.pc pc).nextReq }

theorem Dev.Arrived.refl (pc : Nat) (d : Dev) : Dev.Arrived pc d d := ⟨⟨rfl, fun _ _ => rfl⟩, rfl⟩

theorem Dev.Arrived.trans {d d' d'' : Dev} (a : Dev.Arrived pc d d') (b : Dev.Arrived pc d' d'') : Dev.Arrived pc d d'' := by
  refine ⟨a.side.trans b.side, ?_⟩
  rw [b.queues, a.queues]

theorem CelPc.arrive_frame (x : CelPc) (e : CelEntry) :
    x.arrive e = { x with reads := (x.arrive e).reads, writes := (x.arrive e).writes, nextReq := (x.arrive e).nextReq } := by
  unfold CelPc.arrive
  dsimp only
  split
  · rfl
  · split <;> rfl

/-- What a request that arrives changes: the tokens of its Barrel, and its pseudo-channel. -/
theorem Dev.celArrive_eq (d : Dev) (pc : Nat) (r : CelReq) : ∃ tokens buckets, d.celArrive pc r =
    ({ d with cel := { d.cel with buckets } } : Dev).onPc pc fun x => x.arrive { req := r, tokens, tick := d.tim.ticks, n := x.nextReq } := by
  unfold Dev.celArrive
  by_cases takes : r.port = 0 ∧ r.write
  · rw [if_pos takes]
    exact ⟨(d.takeTokens r.barrel.val).1, (d.takeTokens r.barrel.val).2.cel.buckets, rfl⟩
  · rw [if_neg takes]
    exact ⟨false, d.cel.buckets, rfl⟩

theorem Dev.Arrived.of_celArrive (d : Dev) (pc : Nat) (r : CelReq) : Dev.Arrived pc d (d.celArrive pc r) := by
  obtain ⟨tokens, buckets, eq⟩ := d.celArrive_eq pc r
  rw [eq]
  refine ⟨⟨rfl, fun k other => Cel.pc_upd_ne (c := d.cel)
    (f := fun x => x.arrive { req := r, tokens, tick := d.tim.ticks, n := x.nextReq }) rfl other⟩, ?_⟩
  have after : ((({ d with cel := { d.cel with buckets } } : Dev).onPc pc fun x =>
      x.arrive { req := r, tokens, tick := d.tim.ticks, n := x.nextReq }).cel).pc pc = _ := Cel.pc_of_pcs (c := d.cel)
    (f := fun x => x.arrive { req := r, tokens, tick := d.tim.ticks, n := x.nextReq }) rfl
  rw [after]
  exact CelPc.arrive_frame ..

theorem Dev.Arrived.of_arrivals (pc : Nat) : ∀ (l : List CelReq) (d : Dev), Dev.Arrived pc d (l.foldl (fun d r => d.celArrive pc r) d)
  | [], d => .refl pc d
  | r :: l, d => (Dev.Arrived.of_celArrive d pc r).trans (.of_arrivals pc l _)

/-! Arbitration (R665 to R667). -/

theorem CelEntry.rank_le (e : CelEntry) : e.rank ≤ 3 := by
  unfold CelEntry.rank
  split
  · decide
  · split <;> decide

/-- R665 to R667: where a request is ready one is chosen, of the best rank, and of rank 3 of the greatest urgency. -/
theorem Cel.choose_best {c : Cel} {now : BitVec 64} {x : CelPc} {l : List CelEntry} (ready : l ≠ []) :
    ∃ e ∈ l, c.choose now x l = some e ∧ (∀ q ∈ l, e.rank ≤ q.rank) ∧
      (e.rank = 3 → ∀ q ∈ l, q.rank = 3 → c.urgency now q ≤ c.urgency now e) := by
  obtain ⟨e, best⟩ := bestBy_some (fun a b => List.lex (c.order now x b) (c.order now x a) (lt := fun m n : Nat => m < n)) ready
  obtain ⟨mem, least⟩ := bestBy_least (f := fun a => OrderDual.toDual (c.order now x a)) (fun a b => by
    rw [List.lex_eq_true_iff_lex, OrderDual.toDual_lt_toDual]
    simp only [decide_eq_true_eq]
    rfl) best
  have worse : ∀ q ∈ l, ¬ c.order now x e < c.order now x q := fun q m => not_lt.2 (least q m)
  simp only [Cel.order, List.cons_lt_cons_iff, not_or, not_and, not_lt] at worse
  refine ⟨e, mem, best, fun q m => ?_, fun three q m rank => ?_⟩
  · have := worse q m
    have := e.rank_le
    have := q.rank_le
    omega
  · obtain ⟨urgent, -⟩ := (worse q m).2 (by rw [three, rank])
    rwa [if_pos three, if_pos rank] at urgent

end

end Sys2Proof.Machine
end
section
namespace Sys2Proof.Machine

/-! The command that issues (R666, R669, R670). -/

/-- A request leaves its pseudo-channel. -/
def CelPc.served (x : CelPc) (e : CelEntry) (now : BitVec 64) : CelPc :=
  let x := { x with reads := x.reads.filter (·.n != e.n), writes := x.writes.filter (·.n != e.n) }
  let wanted := (x.reads ++ x.queue).any fun q => q.req.bank == e.req.bank && q.req.row == e.req.row
  { x with banks := Tbl.set x.banks e.req.bank.toNat ((x.bank e.req.bank.toNat).access e.req.row.toNat wanted now) }

section
variable {x : CelPc} {e : CelEntry} {now : BitVec 64}

theorem CelPc.bank_served_ne {k : Nat} (other : k ≠ e.req.bank.toNat) : (x.served e now).bank k = x.bank k :=
  (Tbl.get_set ..).trans (if_neg other)

theorem CelPc.bank_served : ∃ wanted, (x.served e now).bank e.req.bank.toNat = (x.bank e.req.bank.toNat).access e.req.row.toNat wanted now ∧
    ((∀ q ∈ x.reads ++ x.writes, q.n ≠ e.n → q.req.bank = e.req.bank → q.req.row ≠ e.req.row) → wanted = false) := by
  refine ⟨_, CelPc.bank_set .., fun free => List.any_eq_false.2 fun q mem => ?_⟩
  have waits : q ∈ x.reads ++ x.writes ∧ q.n ≠ e.n := by
    rcases List.mem_append.1 mem with m | m
    · obtain ⟨m, left⟩ := List.mem_filter.1 m
      exact ⟨List.mem_append_left _ m, by simpa using left⟩
    · obtain ⟨m, left⟩ := List.mem_filter.1 (List.mem_of_mem_take m)
      exact ⟨List.mem_append_right _ m, by simpa using left⟩
  simpa using free q waits.1 waits.2

end

/-- What an issue leaves of the controllers. -/
structure Dev.Served (d : Dev) (pc : Nat) (x : CelPc) (e : CelEntry) (d' : Dev) : Prop where
  frame : ∃ buckets pcs maxAge, d' = { d with cel := { d.cel with buckets, pcs, maxAge } }
  others : ∀ k, k ≠ pc → d'.cel.pc k = d.cel.pc k
  mine : d'.cel.pc pc = x.served e d.tim.ticks

/-- The pseudo-channel once the requests that arrive are taken in. -/
def Dev.arrivedPc (d : Dev) (pc : Nat) (arrivals : List CelReq) : CelPc :=
  (arrivals.foldl (fun d r => d.celArrive pc r) (d.celSettle pc)).cel.pc pc

theorem Dev.arrivedPc_frame (d : Dev) (pc : Nat) (l : List CelReq) : ∃ reads writes nextReq,
    d.arrivedPc pc l = { (d.cel.pc pc).settle d.tim.ticks d.cel.mhz with reads, writes, nextReq } := by
  have queues := (Dev.Arrived.of_arrivals pc l (d.celSettle pc)).queues
  rw [Dev.pc_celSettle, if_pos rfl] at queues
  exact ⟨_, _, _, queues⟩

theorem Dev.bank_arrivedPc (d : Dev) (pc : Nat) (l : List CelReq) (k : Nat) : (d.arrivedPc pc l).bank k =
    { (d.cel.pc pc).bank k with row := (d.cel.pc pc).keptRow d.tim.ticks d.cel.mhz k } := by
  obtain ⟨reads, writes, nextReq, eq⟩ := d.arrivedPc_frame pc l
  rw [eq, ← CelPc.bank_settle]
  rfl

theorem Dev.celIssue_frame (d : Dev) (pc : Nat) (e : CelEntry) : ∃ maxAge, d.celIssue pc e =
    { d with cel := { d.cel with maxAge, pcs := Tbl.upd {} d.cel.pcs pc fun x => x.served e d.tim.ticks } } := by
  unfold Dev.celIssue
  dsimp only [Dev.onCel]
  split <;> exact ⟨_, rfl⟩

section
variable {s : State} {pc : Fin 64}

theorem exec_cellarRequest (s : State) (pc : Fin 64) (l : List CelReq) (errors : List (Fin 72 × Byte)) :
    exec (.cellarRequest pc l errors) s = .next (s.celRequest pc l errors) := rfl

/-- A pseudo-channel that may issue. -/
structure Dev.Issuing (d : Dev) (pc : Fin 64) : Prop where
  stays : (d.cel.pc pc).retired = false
  trained : bit d.cel.trained (pc / 32) = true
  awake : bit d.cel.selfref (pc / 32) = false

/-- The best of the requests that are ready issues, and its granule is read unless it is written whole. -/
theorem celRequest_issues {l : List CelReq} (errors : List (Fin 72 × Byte)) (free : s.dev.Issuing pc) (ready : (s.dev.arrivedPc pc l).ready ≠ []) :
    ∃ e ∈ (s.dev.arrivedPc pc l).ready, ∃ d, s.dev.Served pc (s.dev.arrivedPc pc l) e d ∧
      (∀ q ∈ (s.dev.arrivedPc pc l).ready, e.rank ≤ q.rank) ∧
      (e.rank = 3 → ∀ q ∈ (s.dev.arrivedPc pc l).ready, q.rank = 3 →
        s.dev.cel.urgency s.dev.tim.ticks q ≤ s.dev.cel.urgency s.dev.tim.ticks e) ∧
      exec (.cellarRequest pc l errors) s = .next (if e.req.write ∧ e.req.mask = BitVec.allOnes 64 then { s with dev := d }
        else ({ s with dev := d } : State).celCheck pc e.req errors) := by
  obtain ⟨e, mem, chosen, rank, urgent⟩ := Cel.choose_best (c := s.dev.cel) (now := s.dev.tim.ticks) (x := s.dev.arrivedPc pc l) ready
  have arrived := (s.dev.pcSide_celSettle pc).trans (Dev.Arrived.of_arrivals pc l (s.dev.celSettle pc)).side
  obtain ⟨reads, writes, nextReq, queues⟩ := s.dev.arrivedPc_frame pc l
  have stays : (s.dev.arrivedPc pc l).retired = false := by rw [queues]; exact free.stays
  have ran := exec_cellarRequest s pc l errors
  unfold State.celRequest State.onDev at ran
  dsimp only at ran
  unfold Dev.arrivedPc at *
  generalize l.foldl (fun d r => d.celArrive pc r) (s.dev.celSettle pc) = d at *
  obtain ⟨maxAge, issued⟩ := d.celIssue_frame pc e
  have trained : d.cel.trained = s.dev.cel.trained := by rw [arrived.frame]
  have selfref : d.cel.selfref = s.dev.cel.selfref := by rw [arrived.frame]
  have ticks : d.tim.ticks = s.dev.tim.ticks := by rw [arrived.frame]
  have choice : d.cel.choose d.tim.ticks (d.cel.pc pc) (d.cel.pc pc).ready = some e := by
    rw [ticks, ← chosen]
    generalize d.cel.pc pc = x
    rw [arrived.frame]
    rfl
  simp only [stays, trained, selfref, free.trained, free.awake, choice, Bool.not_true, Bool.false_eq_true, or_self, if_false] at ran
  refine ⟨e, mem, d.celIssue pc e, ⟨?_, fun k other => ?_, ?_⟩, rank, urgent, ran⟩
  · rw [issued, arrived.frame]
    exact ⟨_, _, _, rfl⟩
  · rw [issued]
    exact (Cel.pc_upd_ne (c := d.cel) (f := fun x => x.served e d.tim.ticks) rfl other).trans (arrived.others k other)
  · rw [issued, ← ticks]
    exact Cel.pc_of_pcs (c := d.cel) (f := fun x => x.served e d.tim.ticks) rfl

/-- A granule without errors is read, and nothing else happens. -/
theorem celCheck_clean {r : CelReq} {k : Nat} (fix : s.mem.fixable (r.addr.toNat / 64 * 64) 64 = [])
    (clean : s.mem.poisoned (r.addr.toNat / 64 * 64) 64 = false) : s.celCheck k r [] = s := by
  simp [State.celCheck, fix, clean]

/-- R670: where the granules of the requests are sound, the issue is all that happens. -/
theorem celRequest_clean {l : List CelReq} (free : s.dev.Issuing pc) (ready : (s.dev.arrivedPc pc l).ready ≠ [])
    (sound : ∀ q ∈ (s.dev.arrivedPc pc l).ready, s.mem.fixable (q.granule * 64) 64 = [] ∧ s.mem.poisoned (q.granule * 64) 64 = false) :
    ∃ e ∈ (s.dev.arrivedPc pc l).ready, ∃ d, s.dev.Served pc (s.dev.arrivedPc pc l) e d ∧
      (∀ q ∈ (s.dev.arrivedPc pc l).ready, e.rank ≤ q.rank) ∧
      (e.rank = 3 → ∀ q ∈ (s.dev.arrivedPc pc l).ready, q.rank = 3 →
        s.dev.cel.urgency s.dev.tim.ticks q ≤ s.dev.cel.urgency s.dev.tim.ticks e) ∧
      exec (.cellarRequest pc l []) s = .next { s with dev := d } := by
  obtain ⟨e, mem, d, issued, rank, urgent, ran⟩ := celRequest_issues [] free ready
  obtain ⟨fix, clean⟩ := sound e mem
  have checked : ({ s with dev := d } : State).celCheck pc e.req [] = { s with dev := d } := celCheck_clean fix clean
  rw [checked, ite_self] at ran
  exact ⟨e, mem, d, issued, rank, urgent, ran⟩

end

end Sys2Proof.Machine
end
section
namespace Sys2Proof.Machine

/-! One request at a pseudo-channel (R670, R687, R688). -/

section
variable {s : State} {pc : Fin 64} {r : CelReq}

/-- A read takes no token of a Barrel. -/
theorem Dev.arrivedPc_one (d : Dev) (pc : Nat) (r : CelReq) : ∃ tokens, d.arrivedPc pc [r] =
    ((d.cel.pc pc).settle d.tim.ticks d.cel.mhz).arrive { req := r, tokens, tick := d.tim.ticks, n := (d.cel.pc pc).nextReq } := by
  obtain ⟨tokens, buckets, eq⟩ := (d.celSettle pc).celArrive_eq pc r
  refine ⟨tokens, ?_⟩
  have after := Cel.pc_of_pcs (c := (d.celSettle pc).cel) (c' := ((d.celSettle pc).celArrive pc r).cel) (p := pc)
    (f := fun x => x.arrive { req := r, tokens, tick := (d.celSettle pc).tim.ticks, n := x.nextReq }) (by rw [eq]; rfl)
  rw [Dev.pc_celSettle, if_pos rfl] at after
  exact after

variable {x : CelPc} {w e : CelEntry}

/-- R670: a read that meets the one write of the queue. -/
theorem CelPc.arrive_meets (reads : x.reads = []) (writes : x.writes = [w]) (read : e.req.write = false) (meet : e.meets w = true) :
    x.arrive e = { x with nextReq := x.nextReq + 1, reads := if e.req.mask &&& ~~~w.req.mask = 0 then [] else [e] } := by
  cases x
  cases reads
  cases writes
  simp only [CelPc.arrive, CelPc.queue, read, meet, Bool.false_eq_true, if_false, List.take_succ_cons, List.take_nil, List.filter_cons, if_true,
    List.filter_nil, List.foldl_cons, List.foldl_nil, BitVec.ofNat_eq_ofNat, BitVec.zero_or, List.any_nil, Bool.not_false, and_true, List.nil_append]
  split <;> simp

/-- The write that a read waits for is all that may issue. -/
theorem CelPc.ready_write (writes : x.writes = [w]) (waits : ∀ q ∈ x.reads, w.n < q.n ∧ w.meets q = true) : x.ready = [w] := by
  have none : x.reads.filter x.readReady = [] := List.filter_eq_nil_iff.2 fun q mem => by
    simp [CelPc.readReady, writes, waits q mem]
  have late : x.writeReady w = true := by
    simp only [CelPc.writeReady, writes, List.any_cons, List.any_nil, Bool.or_false, lt_irrefl, decide_false, Bool.false_and, Bool.not_false, Bool.true_and,
      Bool.not_eq_true']
    exact List.any_eq_false.2 fun q mem => by simp [(waits q mem).1.not_gt]
  have front : (if (x.queue.filter fun w => x.reads.any fun r => decide (w.n < r.n) && w.meets r).isEmpty then x.queue
      else x.queue.filter fun w => x.reads.any fun r => decide (w.n < r.n) && w.meets r) = [w] := by
    have queue : x.queue = [w] := by rw [CelPc.queue, writes]; rfl
    rw [queue, List.filter_cons]
    split <;> rfl
  unfold CelPc.ready
  dsimp only
  rw [none, front]
  simp [late]

/-- A read that finds no other request. -/
theorem CelPc.arrive_alone (reads : x.reads = []) (writes : x.writes = []) (read : e.req.write = false) (mask : e.req.mask ≠ 0) :
    x.arrive e = { x with nextReq := x.nextReq + 1, reads := [e] } := by
  cases x
  cases reads
  cases writes
  have asks : ¬ e.req.mask &&& ~~~0 = 0 := by rwa [BitVec.ofNat_eq_ofNat, BitVec.not_zero, BitVec.and_allOnes]
  simp only [CelPc.arrive, CelPc.queue, read, asks, Bool.false_eq_true, if_false, List.take_nil, List.filter_nil, List.foldl_nil, false_and, List.nil_append]

theorem CelPc.ready_alone (reads : x.reads = [e]) (writes : x.writes = []) : x.ready = [e] := by
  simp [CelPc.ready, CelPc.queue, CelPc.readReady, reads, writes]

end

/-! A read that meets an error (R687, R688, R793). -/

section
variable {s : State} {pc : Fin 64} {r : CelReq} {errors : List (Fin 72 × Byte)}

/-- The stored granule of a request with the symbols in error. -/
def State.hit (s : State) (r : CelReq) (errors : List (Fin 72 × Byte)) : Mem := s.mem.granuleHit (r.addr.toNat / 64) (symbols errors)

def mendedReport (r : CelReq) (pc : Nat) : Report :=
  { code := .ok, sev := 1, domain := r.domain, src := srcCel, addr := r.addr.toNat, session := r.session.toNat, detail := pc }

def uncorrectedReport (m : Mem) (r : CelReq) (pc : Nat) : Report :=
  { code := .eccUncorrected, sev := if r.domain.toNat / 4096 == 1 then 3 else 2, domain := r.domain, src := srcCel
    cause := m.celCause (r.addr.toNat / 64 * 64) 64, addr := r.addr.toNat, session := r.session.toNat, detail := pc }

/-- The granule of a request where the stack is read: what the code corrects is written back. -/
def State.mendsRead (s : State) (r : CelReq) (k : Nat) : State :=
  if (s.mem.fixable (r.addr.toNat / 64 * 64) 64).isEmpty then s else
    ((s.onMem fun m => { m with celErr := Tbl.erase m.celErr (r.addr.toNat / 64) }).onDev fun d => d.log (mendedReport r k)).celCorrected k

theorem mendsRead_none {k : Nat} (fix : s.mem.fixable (r.addr.toNat / 64 * 64) 64 = []) : s.mendsRead r k = s := by
  rw [State.mendsRead, fix]
  rfl

theorem mendsRead_one {k : Nat} (fix : s.mem.fixable (r.addr.toNat / 64 * 64) 64 = [r.addr.toNat / 64]) (off : s.dev.cel.autoRetire = false) :
    s.mendsRead r k = s.mends (r.addr.toNat / 64) k (mendedReport r k) := by
  rw [State.mendsRead, fix]
  exact celCorrected_mends off

/-- The stack is read with symbols in error. -/
theorem celCheck_hit (k : Nat) (some : errors ≠ []) {t : State} (mended : ({ s with mem := s.hit r errors } : State).mendsRead r k = t) :
    s.celCheck k r errors = if !t.mem.poisoned (r.addr.toNat / 64 * 64) 64 then t
      else (t.celUncorrected k r.addr.toNat).report (uncorrectedReport t.mem r k) (r.domain.toNat / 4096 == 1 && r.port == 4) := by
  have granule : r.addr.toNat / 64 * 64 / 64 = r.addr.toNat / 64 := by omega
  unfold State.celCheck
  dsimp only
  rw [granule, if_neg (show ¬ errors.isEmpty = true by simpa using some), ← mended]
  rfl

theorem celCheck_mends {k : Nat} (some : errors ≠ []) (fix : (s.hit r errors).fixable (r.addr.toNat / 64 * 64) 64 = [r.addr.toNat / 64])
    (clean : (s.hit r errors).poisoned (r.addr.toNat / 64 * 64) 64 = false) (off : s.dev.cel.autoRetire = false) :
    s.celCheck k r errors = ({ s with mem := s.hit r errors } : State).mends (r.addr.toNat / 64) k (mendedReport r k) := by
  rw [celCheck_hit k some (mendsRead_one fix off)]
  exact if_pos (by rw [State.mends, Mem.poisoned_mended clean]; rfl)

/-- A report that escalates nothing is one record. -/
theorem report_plain {q : Report} {atOnce : Bool} (still : s.dev.escalates q atOnce = false) : s.report q atOnce = s.onDev fun d => d.log q := by
  simp [State.report, still]

theorem celCheck_fails {k : Nat} (some : errors ≠ []) (fix : (s.hit r errors).fixable (r.addr.toNat / 64 * 64) 64 = [])
    (bad : (s.hit r errors).poisoned (r.addr.toNat / 64 * 64) 64 = true) (off : s.dev.cel.autoRetire = false)
    (first : r.domain.toNat / 4096 = 1 → r.port ≠ 4 ∧ (Tbl.get {} s.dev.rel.domains r.domain.toNat).outstanding = false) :
    s.celCheck k r errors = { s with mem := s.hit r errors, dev := (s.dev.fails k r.addr.toNat).log (uncorrectedReport (s.hit r errors) r k) } := by
  have still : (s.dev.fails k r.addr.toNat).escalates (uncorrectedReport (s.hit r errors) r k) (r.domain.toNat / 4096 == 1 && r.port == 4) = false := by
    by_cases own : r.domain.toNat / 4096 = 1
    · obtain ⟨port, out⟩ := first own
      have same : (s.dev.fails k r.addr.toNat).rel = s.dev.rel := rfl
      have quiet : (r.port == 4) = false := by simpa using port
      rw [Dev.escalates, same, quiet, Bool.and_false, Bool.false_or]
      exact (congrArg _ out).trans (Bool.and_false _)
    · simp [Dev.escalates, uncorrectedReport, own]
  rw [celCheck_hit k some (mendsRead_none fix), if_neg (by simp [bad]), celUncorrected_counts (by exact off)]
  exact report_plain still

theorem satInc_toNat (w old : Nat) : (BitVec.ofNat w (satInc w old)).toNat = min (old + 1) (2 ^ w - 1) := by
  rw [satInc, BitVec.toNat_ofNat]
  exact Nat.mod_eq_of_lt (by have := Nat.two_pow_pos w; omega)

end

/-! The obligation. -/

/-- Arbitration, and the row and counter of the bank (R665 to R667, R669). -/
theorem cellarRequest_arbitrates {s : State} {pc : Fin 64} {l : List CelReq} (free : s.dev.Issuing pc) (ready : (s.dev.arrivedPc pc l).ready ≠ [])
    (sound : ∀ q ∈ (s.dev.arrivedPc pc l).ready, s.mem.fixable (q.granule * 64) 64 = [] ∧ s.mem.poisoned (q.granule * 64) 64 = false) :
    let c := s.dev.cel
    let x := s.dev.arrivedPc pc l
    let kept := fun k => (c.pc pc).keptRow s.dev.tim.ticks c.mhz k
    ∃ t, ∃ e ∈ x.ready, exec (.cellarRequest pc l []) s = .next t ∧ t = { s with dev := { s.dev with cel := t.dev.cel } } ∧
      (∀ q ∈ x.ready, e.rank ≤ q.rank) ∧
      (e.rank = 3 → ∀ q ∈ x.ready, q.rank = 3 → c.urgency s.dev.tim.ticks q ≤ c.urgency s.dev.tim.ticks e) ∧
      (t.dev.cel.pc pc).reads = x.reads.filter (·.n != e.n) ∧ (t.dev.cel.pc pc).writes = x.writes.filter (·.n != e.n) ∧
      (∀ k, k ≠ e.req.bank.toNat → (t.dev.cel.pc pc).bank k = { (c.pc pc).bank k with row := kept k }) ∧ (∀ k, k ≠ pc.val → t.dev.cel.pc k = c.pc k) ∧
      let b := { (c.pc pc).bank e.req.bank.toNat with row := kept e.req.bank.toNat }
      let y := (t.dev.cel.pc pc).bank e.req.bank.toNat
      let n := match b.row with
        | some row => if row = e.req.row.toNat then min 3 (b.c + 1) else b.c - 1
        | none => b.c
      y.c = n ∧ y.postponed = b.postponed ∧ y.last = s.dev.tim.ticks ∧ (2 ≤ n → y.row = some e.req.row.toNat) ∧
      (n < 2 → (∀ q ∈ x.reads ++ x.writes, q.n ≠ e.n → q.req.bank = e.req.bank → q.req.row ≠ e.req.row) → y.row = none) := by
  obtain ⟨e, mem, d, ⟨⟨_, _, _, frame⟩, others, mine⟩, rank, urgent, ran⟩ := celRequest_clean free ready sound
  refine ⟨_, e, mem, ran, by rw [frame], rank, urgent, ?_⟩
  dsimp only
  rw [mine]
  obtain ⟨wanted, bank, alone⟩ := CelPc.bank_served (x := s.dev.arrivedPc pc l) (e := e) (now := s.dev.tim.ticks)
  rw [s.dev.bank_arrivedPc] at bank
  refine ⟨rfl, rfl, fun k other => ?_, others, ?_⟩
  · rw [CelPc.bank_served_ne other, s.dev.bank_arrivedPc]
  · rw [bank]
    refine ⟨rfl, rfl, rfl, fun high => if_pos ?_, fun low free => if_neg ?_⟩
    · exact Bool.or_eq_true_iff.2 (.inr (decide_eq_true high))
    · rw [alone free, Bool.false_or]
      exact fun h => absurd (of_decide_eq_true h) (not_le.2 low)

/-- A read that meets the one write of the queue (R670). -/
theorem cellarRequest_queued {s : State} {pc : Fin 64} {w : CelEntry} {r : CelReq} (free : s.dev.Issuing pc) (reads : (s.dev.cel.pc pc).reads = [])
    (writes : (s.dev.cel.pc pc).writes = [w]) (older : w.n < (s.dev.cel.pc pc).nextReq) (read : r.write = false)
    (granule : w.granule = r.addr.toNat / 64) (meet : w.req.mask &&& r.mask ≠ 0) (fix : s.mem.fixable (w.granule * 64) 64 = [])
    (clean : s.mem.poisoned (w.granule * 64) 64 = false) :
    ∃ t, exec (.cellarRequest pc [r] []) s = .next t ∧ t = { s with dev := { s.dev with cel := t.dev.cel } } ∧
      (t.dev.cel.pc pc).writes = [] ∧ (t.dev.cel.pc pc).reads.map (·.req) = (if r.mask &&& ~~~w.req.mask = 0 then [] else [r]) ∧
      ∀ k, k ≠ w.req.bank.toNat → (t.dev.cel.pc pc).bank k = ((s.dev.cel.pc pc).settle s.dev.tim.ticks s.dev.cel.mhz).bank k := by
  obtain ⟨tokens, arrived⟩ := s.dev.arrivedPc_one pc r
  let e : CelEntry := { req := r, tokens, tick := s.dev.tim.ticks, n := (s.dev.cel.pc pc).nextReq }
  have meets : w.meets e = true := by
    have same : e.granule = r.addr.toNat / 64 := rfl
    simp [CelEntry.meets, same, granule, show e.req.mask = r.mask from rfl]
    exact meet
  have met : e.meets w = true := by rw [← meets, CelEntry.meets, CelEntry.meets, BEq.comm, BitVec.and_comm]
  rw [CelPc.arrive_meets (x := (s.dev.cel.pc pc).settle s.dev.tim.ticks s.dev.cel.mhz) (e := e) reads writes read met] at arrived
  have waits : ∀ q ∈ (s.dev.arrivedPc pc [r]).reads, q = e := by
    rw [arrived]
    intro q mem
    dsimp only at mem
    split at mem
    · cases mem
    · exact List.mem_singleton.1 mem
  have ready : (s.dev.arrivedPc pc [r]).ready = [w] :=
    CelPc.ready_write (by rw [arrived]; exact writes) fun q mem => by rw [waits q mem]; exact ⟨older, meets⟩
  obtain ⟨v, mem, d, ⟨⟨_, _, _, frame⟩, -, mine⟩, -, -, ran⟩ := celRequest_clean (l := [r]) free (by rw [ready]; simp) (by
    rw [ready]
    exact fun q mem => List.mem_singleton.1 mem ▸ ⟨fix, clean⟩)
  rw [ready] at mem
  cases List.mem_singleton.1 mem
  refine ⟨_, ran, by rw [frame], ?_⟩
  dsimp only
  rw [mine]
  refine ⟨?_, ?_, fun k other => ?_⟩
  · show (s.dev.arrivedPc pc [r]).writes.filter _ = []
    rw [arrived]
    show ((s.dev.cel.pc pc).writes).filter _ = []
    simp [writes]
  · show ((s.dev.arrivedPc pc [r]).reads.filter _).map _ = _
    have later : e.n ≠ w.n := older.ne'
    rw [arrived]
    dsimp only
    split
    · rfl
    · rw [List.filter_cons, if_pos (by simpa using later)]
      rfl
  · rw [CelPc.bank_served_ne other, arrived]
    rfl

/-- A read that meets errors (R687, R688, R793). -/
theorem cellarRequest_reads {s : State} {pc : Fin 64} {r : CelReq} (errors : List (Fin 72 × Byte)) (free : s.dev.Issuing pc)
    (reads : (s.dev.cel.pc pc).reads = []) (writes : (s.dev.cel.pc pc).writes = []) (read : r.write = false) (mask : r.mask ≠ 0) :
    ∃ buckets pcs maxAge, exec (.cellarRequest pc [r] errors) s =
        .next (({ s with dev := { s.dev with cel := { s.dev.cel with buckets, pcs, maxAge } } } : State).celCheck pc r errors) ∧
      (({ s.dev.cel with buckets, pcs, maxAge } : Cel).pc pc).corr = (s.dev.cel.pc pc).corr ∧
      (({ s.dev.cel with buckets, pcs, maxAge } : Cel).pc pc).uncorr = (s.dev.cel.pc pc).uncorr := by
  obtain ⟨tokens, arrived⟩ := s.dev.arrivedPc_one pc r
  let e : CelEntry := { req := r, tokens, tick := s.dev.tim.ticks, n := (s.dev.cel.pc pc).nextReq }
  rw [CelPc.arrive_alone (x := (s.dev.cel.pc pc).settle s.dev.tim.ticks s.dev.cel.mhz) (e := e) reads writes read mask] at arrived
  have ready : (s.dev.arrivedPc pc [r]).ready = [e] := CelPc.ready_alone (by rw [arrived]) (by rw [arrived]; exact writes)
  obtain ⟨v, mem, d, ⟨⟨buckets, pcs, maxAge, frame⟩, -, mine⟩, -, -, ran⟩ := celRequest_issues (l := [r]) errors free (by rw [ready]; simp)
  rw [ready] at mem
  cases List.mem_singleton.1 mem
  rw [if_neg (by simp [e, read])] at ran
  subst frame
  dsimp only at mine
  refine ⟨buckets, pcs, maxAge, ran, ?_⟩
  rw [mine, arrived]
  exact ⟨rfl, rfl⟩

/-- A read that the check corrects (R687, R688). -/
theorem cellarRequest_corrects {s : State} {pc : Fin 64} {r : CelReq} {errors : List (Fin 72 × Byte)} (free : s.dev.Issuing pc)
    (reads : (s.dev.cel.pc pc).reads = []) (writes : (s.dev.cel.pc pc).writes = []) (read : r.write = false) (mask : r.mask ≠ 0)
    (off : s.dev.cel.autoRetire = false) (some : errors ≠ []) (room : s.dev.rel.queue.length < 64)
    (fix : (s.hit r errors).fixable (r.addr.toNat / 64 * 64) 64 = [r.addr.toNat / 64])
    (clean : (s.hit r errors).poisoned (r.addr.toNat / 64 * 64) 64 = false) :
    ∃ t, exec (.cellarRequest pc [r] errors) s = .next t ∧
      t = { s with mem := { s.hit r errors with celErr := Tbl.erase (s.hit r errors).celErr (r.addr.toNat / 64) }
                   dev := { s.dev with cel := t.dev.cel, rel := t.dev.rel } } ∧ OneRecord s t .ok 1 r.domain ∧
      (t.dev.cel.pc pc).corr.toNat = min ((s.dev.cel.pc pc).corr.toNat + 1) (2 ^ 24 - 1) ∧
      (t.dev.cel.pc pc).uncorr = (s.dev.cel.pc pc).uncorr ∧ t.dev.cel.err = s.dev.cel.err := by
  obtain ⟨buckets, pcs, maxAge, ran, corr, uncorr⟩ := cellarRequest_reads errors free reads writes read mask
  let d : Dev := { s.dev with cel := { s.dev.cel with buckets, pcs, maxAge } }
  replace ran : exec (.cellarRequest pc [r] errors) s = .next { s with
      mem := { s.hit r errors with celErr := Tbl.erase (s.hit r errors).celErr (r.addr.toNat / 64) }
      dev := (d.log (mendedReport r pc)).corrects pc } :=
    ran.trans (congrArg _ (celCheck_mends (s := { s with dev := d }) some fix clean off))
  have logged : d.log (mendedReport r pc) = { d with rel := (d.log (mendedReport r pc)).rel } := Dev.log_quiet _ _ (by exact (by decide : 1 < 2))
  obtain ⟨ticks, mine⟩ : ∃ ticks, ((d.log (mendedReport r pc)).corrects pc).cel.pc pc = (d.cel.pc pc).corrected ticks := by
    rw [logged]
    exact ⟨_, Cel.pc_upd ..⟩
  refine ⟨_, ran, ?_, OneRecord.of_log (d := d) (r := mendedReport r pc) room rfl rfl rfl (by exact (by decide : 1 < 4)), ?_, ?_, ?_⟩
  · rw [logged]
    rfl
  · show (((d.log (mendedReport r pc)).corrects pc).cel.pc pc).corr.toNat = _
    rw [mine, ← corr]
    exact satInc_toNat ..
  · show (((d.log (mendedReport r pc)).corrects pc).cel.pc pc).uncorr = _
    rw [mine, ← uncorr]
    rfl
  · show ((d.log (mendedReport r pc)).corrects pc).cel.err = _
    rw [logged]
    rfl

/-- A read that the check does not correct (R687, R688, R793). -/
theorem cellarRequest_fails {s : State} {pc : Fin 64} {r : CelReq} {errors : List (Fin 72 × Byte)} (free : s.dev.Issuing pc)
    (reads : (s.dev.cel.pc pc).reads = []) (writes : (s.dev.cel.pc pc).writes = []) (read : r.write = false) (mask : r.mask ≠ 0)
    (off : s.dev.cel.autoRetire = false) (some : errors ≠ []) (room : s.dev.rel.queue.length < 64)
    (fix : (s.hit r errors).fixable (r.addr.toNat / 64 * 64) 64 = []) (bad : (s.hit r errors).poisoned (r.addr.toNat / 64 * 64) 64 = true)
    (first : r.domain.toNat / 4096 = 1 → r.port ≠ 4 ∧ (Tbl.get {} s.dev.rel.domains r.domain.toNat).outstanding = false) :
    ∃ t, exec (.cellarRequest pc [r] errors) s = .next t ∧ t.mem = s.hit r errors ∧
      t = { s with mem := s.hit r errors, dev := { s.dev with cel := t.dev.cel, rel := t.dev.rel, host := t.dev.host
                                                              hlk := { s.dev.hlk with msiPending := t.dev.hlk.msiPending } } } ∧
      OneRecord s t .eccUncorrected (if r.domain.toNat / 4096 == 1 then 3 else 2) r.domain ∧
      (t.dev.cel.pc pc).uncorr.toNat = min ((s.dev.cel.pc pc).uncorr.toNat + 1) 255 ∧ bit t.dev.cel.err 2 = true ∧
      t.dev.cel.errAddr = if bit s.dev.cel.err 2 then s.dev.cel.errAddr else r.addr := by
  obtain ⟨buckets, pcs, maxAge, ran, corr, uncorr⟩ := cellarRequest_reads errors free reads writes read mask
  let d : Dev := { s.dev with cel := { s.dev.cel with buckets, pcs, maxAge } }
  let q := uncorrectedReport (s.hit r errors) r pc
  replace ran : exec (.cellarRequest pc [r] errors) s = .next { s with mem := s.hit r errors, dev := (d.fails pc r.addr.toNat).log q } :=
    ran.trans (congrArg _ (celCheck_fails (s := { s with dev := d }) some fix bad off first))
  have logged := Dev.log_frame (d.fails pc r.addr.toNat) q
  have cel : ((d.fails pc r.addr.toNat).log q).cel = (d.fails pc r.addr.toNat).cel := by rw [logged]
  have mine : (d.fails pc r.addr.toNat).cel.pc pc = (d.cel.pc pc).failed _ :=
    Cel.pc_of_pcs (c := d.cel) (f := fun x => x.failed (d.hourAdd x.ueTicks)) rfl
  have sev : q.sev < 4 := by
    show (if _ then 3 else 2) < 4
    split <;> decide
  refine ⟨_, ran, rfl, ?_, OneRecord.of_log (d := d.fails pc r.addr.toNat) (r := q) room rfl rfl rfl sev, ?_, ?_, ?_⟩
  · rw [logged]
    rfl
  · show (((d.fails pc r.addr.toNat).log q).cel.pc pc).uncorr.toNat = _
    rw [cel, mine, ← uncorr]
    exact satInc_toNat ..
  · show bit ((d.fails pc r.addr.toNat).log q).cel.err 2 = true
    rw [cel]
    exact bit_setBit_same _ _ _ (by decide)
  · show ((d.fails pc r.addr.toNat).log q).cel.errAddr = _
    rw [cel]
    show (if bit s.dev.cel.err 2 then s.dev.cel.errAddr else BitVec.ofNat 37 r.addr.toNat) = _
    rw [BitVec.ofNat_toNat, BitVec.setWidth_eq]

/-- Settles O38: the host's accesses go through one read and one write of physical Cellar; a request takes part in one arbitration, and the
read of its granule ends clean, mended or failed. -/
theorem cellarAccessesAreServed : Obligations.cellarAccessesAreServed := by
  unfold Obligations.cellarAccessesAreServed
  refine ⟨?windows, ?arbitration, ?queue, ?errors⟩
  case windows =>
    intro s served alive
    refine ⟨fun off => ⟨fun n on within => bar4_reads served alive on within, fun b on within => bar4_writes served alive on within,
      fun shut n b => bar4_closed served shut⟩, fun off gib base decoder => ⟨fun n within => cxl_reads served alive decoder within,
      fun b within => cxl_writes served alive decoder within⟩⟩
  case arbitration =>
    intro s pc l c x kept stays trained awake ready sound
    exact cellarRequest_arbitrates ⟨stays, trained, awake⟩ ready sound
  case queue =>
    intro s pc w r c x stays trained awake reads writes older _ read granule meet fix clean
    exact cellarRequest_queued ⟨stays, trained, awake⟩ reads writes older read granule meet fix clean
  case errors =>
    intro s pc r errors c x g m own stays trained awake reads writes read mask off some room
    have free : s.dev.Issuing pc := ⟨stays, trained, awake⟩
    refine ⟨fun fix clean => cellarRequest_corrects free reads writes read mask off some room fix clean, fun fix bad first => ?_⟩
    exact cellarRequest_fails free reads writes read mask off some room fix bad fun mine => first (decide_eq_true mine)

end Sys2Proof.Machine
end

section
namespace Sys2Proof.Machine

/-! Register writes (R838 to R845, R847). -/

section
variable {s : State}

theorem exec_registerWrite (s : State) (o : BitVec 21) (b : BarWrite) : exec (.registerWrite o b) s = execRegisterWrite o b s := rfl

theorem exec_write32 {o : BitVec 21} (v : Reg) (aligned : o.toNat % 4 = 0) : exec (.registerWrite o (.w32 v)) s = .next (s.write32 o.toNat v) := by
  rw [exec_registerWrite, execRegisterWrite]
  exact congrArg _ (if_pos aligned)

/-- A write that reaches its block (R847). -/
def Dev.reaches (d : Dev) (off : Nat) : Bool := d.served || d.servedKept && keptBlock (off / 65536)

theorem write32_taken {off : Nat} {v : Reg} {t : State} (reaches : s.dev.reaches off = true) (taken : s.regBlock (off / 65536) (off % 65536) v = some t) :
    s.write32 off v = t := by
  unfold Dev.reaches at reaches
  simp only [State.write32, reaches, taken, Bool.not_true, Bool.false_eq_true, if_false]

theorem write32_unassigned {off : Nat} {v : Reg} (reaches : s.dev.reaches off = true) (none : s.regBlock (off / 65536) (off % 65536) v = none) :
    s.write32 off v = s.onDev fun d => d.accErr false off := by
  unfold Dev.reaches at reaches
  simp only [State.write32, reaches, none, Bool.not_true, Bool.false_eq_true, if_false]

theorem write32_ignored {off : Nat} {v : Reg} (stays : s.dev.reaches off = false) : s.write32 off v = s := by
  unfold Dev.reaches at stays
  simp only [State.write32, stays, Bool.not_false, if_true]

theorem Dev.reaches_served {d : Dev} (served : d.served = true) (off : Nat) : d.reaches off = true := by simp [Dev.reaches, served]

theorem Dev.servedKept_served {d : Dev} (served : d.served = true) : d.servedKept = true := by
  unfold Dev.served at served
  simp [Dev.servedKept, served]

/-- GLB takes writes while a FUNCTION reset runs. -/
theorem Dev.reaches_glb {d : Dev} (kept : d.servedKept = true) {off : Nat} (low : off < 65536) : d.reaches off = true := by
  simp [Dev.reaches, kept, Nat.div_eq_of_lt low, keptBlock]

/-- A write that an access error reports (R840, R841). -/
def Glb.refused (g : Glb) (o : BitVec 21) (p u : Bool) : Glb :=
  { g with
    accPartial := g.accPartial || p, accUnmapped := g.accUnmapped || u, accCount := BitVec.ofNat 16 (min (g.accCount.toNat + 1) 65535)
    accAddr := if g.accPartial || g.accUnmapped then g.accAddr else BitVec.ofNat 32 (o.toNat + 2 ^ 31) }

theorem Dev.accErr_refused (d : Dev) (o : BitVec 21) (p : Bool) : d.accErr p o.toNat = { d with glb := d.glb.refused o p (!p) } := by
  rw [Dev.accErr, Nat.mod_eq_of_lt o.isLt]
  rfl

theorem partialWrite_refused {o : BitVec 21} (kept : s.dev.servedKept = true)
    (beside : o.toNat < 0x17000 ∨ 0x17100 ≤ o.toNat ∧ o.toNat < 0x18000 ∨ 0x20000 ≤ o.toNat) :
    s.partialWrite o.toNat = { s with dev := { s.dev with glb := s.dev.glb.refused o true false } } := by
  have outside : msiArea o.toNat = false := by
    simp only [msiArea, Bool.or_eq_false_iff, decide_eq_false_iff_not]
    omega
  have passes : ¬ ((!s.dev.servedKept) = true ∨ msiArea o.toNat = true) := by simp [kept, outside]
  rw [State.partialWrite, if_neg passes, State.onDev, Dev.accErr_refused]
  rfl

/-- A write to GLB. -/
theorem glbWrite_taken {o : BitVec 21} {v : Reg} {t : State} (kept : s.dev.servedKept = true) (low : o.toNat < 65536) (aligned : o.toNat % 4 = 0)
    (taken : s.regGlb o.toNat v = some t) : exec (.registerWrite o (.w32 v)) s = .next t := by
  rw [exec_write32 v aligned, write32_taken (Dev.reaches_glb kept low)]
  rw [Nat.div_eq_of_lt low, Nat.mod_eq_of_lt low]
  exact taken

theorem write_unassigned {o : BitVec 21} {v : Reg} (aligned : o.toNat % 4 = 0) (reaches : s.dev.reaches o.toNat = true)
    (none : s.regBlock (o.toNat / 65536) (o.toNat % 65536) v = none) :
    exec (.registerWrite o (.w32 v)) s = .next { s with dev := { s.dev with glb := s.dev.glb.refused o false true } } := by
  rw [exec_write32 v aligned, write32_unassigned reaches none, State.onDev, Dev.accErr_refused]
  rfl

theorem cnt_word (old v : Reg) : cnt old v = if v = 0xFFFFFFFF then 0 else old := by
  have all : fld v 0 32 = 2 ^ 32 - 1 ↔ v = 0xFFFFFFFF := by
    rw [fld, Nat.shiftRight_zero, Nat.mod_eq_of_lt v.isLt, ← BitVec.toNat_inj]
    rfl
  exact if_congr all rfl rfl

/-- Where nothing is served, no write takes effect (R817). -/
theorem registerWrite_waits {o : BitVec 21} {b : BarWrite} (waits : s.dev.servedKept = false) : exec (.registerWrite o b) s = .next s := by
  have down : s.dev.served = false := by
    cases up : s.dev.served with
    | false => rfl
    | true => rw [Dev.servedKept_served up] at waits; exact waits
  have full : ∀ off v, s.write32 off v = s := fun off v => write32_ignored (by simp [Dev.reaches, down, waits])
  have part : ∀ off, s.partialWrite off = s := fun off => if_pos (.inl (by simp [waits]))
  rw [exec_registerWrite, execRegisterWrite]
  cases b with
  | w32 v => exact congrArg _ ((congrArg₂ _ (full ..) (part ..)).trans (ite_self s))
  | w64 v => simp [full, part]
  | irregular => exact congrArg _ (part ..)

/-- Only GLB, REL, ATC and HKC take writes while a FUNCTION reset runs (R847). -/
theorem registerWrite_block {o : BitVec 21} {v : Reg} (down : s.dev.hkc.ready = false) (b0 : o.toNat / 65536 ≠ 0) (b3 : o.toNat / 65536 ≠ 3)
    (b28 : o.toNat / 65536 ≠ 28) (b29 : o.toNat / 65536 ≠ 29) (aligned : o.toNat % 4 = 0) : exec (.registerWrite o (.w32 v)) s = .next s := by
  have notKept : keptBlock (o.toNat / 65536) = false := by simp [keptBlock, b0, b3, b28, b29]
  rw [exec_write32 v aligned, write32_ignored (by simp [Dev.reaches, Dev.served, down, notKept])]

/-- R840: an aligned write of 64 bits is two writes of 32. -/
theorem registerWrite_halves {o : BitVec 21} {v : BitVec 64} (aligned : o.toNat % 8 = 0) : exec (.registerWrite o (.w64 v)) s =
    match exec (.registerWrite o (.w32 (v.truncate 32))) s with
    | .next t => exec (.registerWrite (o + 4) (.w32 (BitVec.ofNat 32 (v.toNat / 2 ^ 32)))) t
    | x => x := by
  have next : (o + 4).toNat = o.toNat + 4 := by
    rw [BitVec.toNat_add]
    have := o.isLt
    exact Nat.mod_eq_of_lt (show o.toNat + 4 < 2 ^ 21 by omega)
  have high : BitVec.ofNat 32 (fld v 32 32) = BitVec.ofNat 32 (v.toNat / 2 ^ 32) := by
    rw [fld, Nat.shiftRight_eq_div_pow]
    exact BitVec.eq_of_toNat_eq (by simp)
  rw [exec_write32 _ (by omega)]
  dsimp only
  rw [exec_write32 _ (by omega), next, exec_registerWrite, execRegisterWrite]
  dsimp only
  rw [if_pos aligned, high]

end

end Sys2Proof.Machine
end
section
namespace Sys2Proof.Machine

/-! Fields of single registers (R839, R844, R845). -/

section
variable {s : State}

theorem arr_none {off base stride n : Nat} (outside : off < base ∨ base + stride * n ≤ off) : arr off base stride n = none :=
  if_neg (by omega)

theorem arr_instance {base stride n k : Nat} (lt : k < n) (pos : 0 < stride) : arr (base + stride * k) base stride n = some (k, 0) := by
  have within : stride * k < stride * n := Nat.mul_lt_mul_of_pos_left lt pos
  rw [arr, if_pos (by omega), Nat.add_sub_cancel_left, Nat.mul_div_cancel_left _ pos, Nat.mul_mod_right]

/-- The bits that a write of type W1C leaves. -/
theorem bit_w1c (old v : Reg) (b : Nat) : bit (w1c old v) b = (bit old b && !bit v b) := by
  have word : w1c old v = old &&& ~~~v := by
    rw [w1c, fld, Nat.shiftRight_zero, Nat.mod_eq_of_lt v.isLt, BitVec.ofNat_toNat, BitVec.setWidth_eq]
  rw [word, bit_and, bit_eq_getLsbD, bit_eq_getLsbD, bit_eq_getLsbD, BitVec.getLsbD_not]
  by_cases inside : b < 32
  · simp [inside]
  · simp [inside, BitVec.getLsbD_of_ge old b (by omega)]

theorem bit_errMask (v : Reg) (b : Nat) : bit (v &&& 0x3F) b = (decide (b < 6) && bit v b) := by
  rw [bit_and, Bool.and_comm]
  exact congrArg (· && bit v b) (Nat.testBit_two_pow_sub_one 6 b)

/-- HLK_ERR_STAT. -/
theorem errStat_cleared (served : s.dev.served = true) (v : Reg) : ∃ t, exec (.registerWrite 0x1000C (.w32 v)) s = .next t ∧
    t = { s with dev := { s.dev with hlk := { s.dev.hlk with errStat := t.dev.hlk.errStat } } } ∧
    ∀ b, bit t.dev.hlk.errStat b = (bit s.dev.hlk.errStat b && !(b < 6 && bit v b)) := by
  have ran : exec (.registerWrite 0x1000C (.w32 v)) s = .next (s.onDev fun d => { d with hlk := { d.hlk with errStat := w1c d.hlk.errStat (v &&& 0x3F) } }) :=
    (exec_write32 v (by decide)).trans (congrArg _ (write32_taken (Dev.reaches_served served _) rfl))
  exact ⟨_, ran, rfl, fun b => (bit_w1c ..).trans (by rw [bit_errMask])⟩

theorem Dev.port_onPort (d : Dev) (p : Nat) (f : Ing → Ing) : (d.onPort p f).port p = f (d.port p) := Tbl.get_upd_self ..

theorem Dev.port_onPort_ne (d : Dev) {p q : Nat} (other : q ≠ p) (f : Ing → Ing) : (d.onPort p f).port q = d.port q :=
  (Tbl.get_upd ..).trans (if_neg other)

theorem regBlock_ing (p : Fin 4) (o : Nat) (v : Reg) : s.regBlock (5 + p.val) o v = s.regIng p o v := by
  fin_cases p <;> rfl

/-- ING_OVR of a port. -/
theorem ovr_cleared (served : s.dev.served = true) (p : Fin 4) (v : Reg) :
    ∃ t, exec (.registerWrite (BitVec.ofNat 21 (0x50010 + 0x10000 * p.val)) (.w32 v)) s = .next t ∧ t = { s with dev := { s.dev with ing := t.dev.ing } } ∧
      t.dev.port p = { s.dev.port p with ovr := if v = 0xFFFFFFFF then 0 else (s.dev.port p).ovr } ∧ ∀ q : Nat, q ≠ p.val → t.dev.port q = s.dev.port q := by
  have lt := p.isLt
  have off : (BitVec.ofNat 21 (0x50010 + 0x10000 * p.val)).toNat = 0x50010 + 0x10000 * p.val := Nat.mod_eq_of_lt (by omega)
  have taken : s.regBlock ((0x50010 + 0x10000 * p.val) / 65536) ((0x50010 + 0x10000 * p.val) % 65536) v =
      some (s.onDev fun d => d.onPort p.val fun g => { g with ovr := cnt g.ovr v }) := by
    rw [show (0x50010 + 0x10000 * p.val) / 65536 = 5 + p.val by omega, show (0x50010 + 0x10000 * p.val) % 65536 = 0x10 by omega, regBlock_ing]
    rfl
  have ran := exec_write32 (s := s) (o := BitVec.ofNat 21 (0x50010 + 0x10000 * p.val)) v (by omega)
  rw [off, write32_taken (Dev.reaches_served served _) taken] at ran
  refine ⟨_, ran, rfl, ?_, fun q other => Dev.port_onPort_ne _ other _⟩
  rw [← cnt_word]
  exact Dev.port_onPort ..

/-- Outside its own registers MON shows the record buffer of its unit. -/
theorem regMon_buffer {off : Nat} (v : Reg) (low : 0x200 ≤ off) (high : off < 0x400) : s.regMon off v = s.regRec monUnit off v := by
  have none : arr off 0x400 0x10 8 = none ∧ arr off 0x500 4 4 = none ∧ arr off 0x600 4 4 = none ∧ arr off 0x700 4 8 = none ∧
      arr off 0x800 0x10 32 = none ∧ arr off 0xC00 8 32 = none := by
    refine ⟨?_, ?_, ?_, ?_, ?_, ?_⟩ <;> exact arr_none (.inl (by omega))
  obtain ⟨cmp, tmr, seq, temp, acc, trk⟩ := none
  unfold State.regMon
  split
  · omega
  · omega
  · omega
  · omega
  · rw [cmp, tmr, seq, temp, acc, trk]

/-- The low word of an entry of MON's record buffer. -/
theorem monBuffer_written (served : s.dev.served = true) (k : Fin 64) (v : Reg) :
    ∃ t, exec (.registerWrite (BitVec.ofNat 21 (0x1B0200 + 8 * k.val)) (.w32 v)) s = .next t ∧ t = { s with dev := { s.dev with units := t.dev.units } } ∧
      fld (Tbl.get 0 (t.dev.unit monUnit).buf k) 0 32 = v.toNat ∧
      fld (Tbl.get 0 (t.dev.unit monUnit).buf k) 32 4 = fld (Tbl.get 0 (s.dev.unit monUnit).buf k) 32 4 ∧ ∀ u, u ≠ monUnit → t.dev.unit u = s.dev.unit u := by
  have lt := k.isLt
  let f : RecIf → RecIf := fun i => { i with buf := Tbl.set i.buf k.val (setFld (Tbl.get 0 i.buf k.val) 0 32 v.toNat) }
  have off : (BitVec.ofNat 21 (0x1B0200 + 8 * k.val)).toNat = 0x1B0200 + 8 * k.val := Nat.mod_eq_of_lt (by omega)
  have taken : s.regBlock ((0x1B0200 + 8 * k.val) / 65536) ((0x1B0200 + 8 * k.val) % 65536) v = some (s.onDev fun d => d.onUnit monUnit f) := by
    rw [show (0x1B0200 + 8 * k.val) / 65536 = 0x1B by omega, show (0x1B0200 + 8 * k.val) % 65536 = 0x200 + 8 * k.val by omega]
    show s.regMon _ v = _
    rw [regMon_buffer v (by omega) (by omega), State.regRec, if_neg (by omega), arr_instance lt (by decide)]
    rfl
  have ran := exec_write32 (s := s) (o := BitVec.ofNat 21 (0x1B0200 + 8 * k.val)) v (by omega)
  rw [off, write32_taken (Dev.reaches_served served _) taken] at ran
  have cell : Tbl.get 0 ((s.dev.onUnit monUnit f).unit monUnit).buf k.val = setFld (Tbl.get 0 (s.dev.unit monUnit).buf k.val) 0 32 v.toNat := by
    rw [Dev.unit_onUnit]
    exact Tbl.get_set_self ..
  refine ⟨_, ran, rfl, ?_, ?_, fun u other => Dev.unit_onUnit_ne _ f other⟩
  · exact (congrArg (fld · 0 32) cell).trans ((fld_setFld_same _ _ _ _ (by decide)).trans (Nat.mod_eq_of_lt v.isLt))
  · exact (congrArg (fld · 32 4) cell).trans (fld_setFld_other _ _ _ _ 32 4 (by decide) (.inr (by decide)))

/-! Latches, locks, vectors and pins (R838, R844, R849, R850, R852). -/

theorem exec_timNowRead (s : State) : exec .timNowRead s = execTimNowRead s := rfl
theorem exec_lockAll (s : State) : exec .lockAll s = execLockAll s := rfl
theorem exec_msixVectorUnmask (s : State) (v : BitVec 11) : exec (.msixVectorUnmask v) s = execMsixVectorUnmask v s := rfl
theorem exec_gpioEdge (s : State) (p : Fin 16) (l : Bool) : exec (.gpioEdge p l) s = execGpioEdge p l s := rfl

theorem timNowRead_latches (served : s.dev.served = true) : exec .timNowRead s = .next (s.onDev fun d => { d with
    tim := { d.tim with nowLatch := d.tim.count }, host := d.host ++ [.reply (leBytes 4 s.dev.now.toNat)] }) := by
  rw [exec_timNowRead, execTimNowRead, hostStep_served _ served]
  rfl

theorem lockAll_locks (served : s.dev.served = true) : ∃ t, exec .lockAll s = .next t ∧ t = { s with dev := { s.dev with
    atc := { s.dev.atc with wlock := true }, cel := { s.dev.cel with lock := true }, stk := t.dev.stk } } ∧ bit t.dev.stk.ctl 31 = true := by
  have locked : s.dev.lockAll = ((s.dev.onAtc fun a => { a with wlock := true }).onCel fun c => { c with lock := true }).stkLock := if_pos served
  rw [exec_lockAll, execLockAll, keptStep_served _ (Dev.servedKept_served served), locked]
  exact ⟨_, rfl, rfl, bit_setBit_same _ _ _ (by decide)⟩

theorem msixVectorUnmask_sends (served : s.dev.served = true) (v : BitVec 11) : ∃ t, exec (.msixVectorUnmask v) s = .next t ∧
    t = { s with dev := { s.dev with hlk := { s.dev.hlk with unmasked := t.dev.hlk.unmasked, msiPending := t.dev.hlk.msiPending }, host := t.dev.host } } ∧
    (∀ j : Nat, Tbl.get false t.dev.hlk.unmasked j = (decide (j = v.toNat) || Tbl.get false s.dev.hlk.unmasked j)) ∧
    (∀ j : Nat, Tbl.get false t.dev.hlk.msiPending j = (decide (j ≠ v.toNat) && Tbl.get false s.dev.hlk.msiPending j)) ∧
    t.dev.host = s.dev.host ++ if Tbl.get false s.dev.hlk.msiPending v.toNat then [.msix v.toNat] else [] := by
  have open_ : ∀ j : Nat, Tbl.get false (Tbl.put false s.dev.hlk.unmasked v.toNat true) j =
      (decide (j = v.toNat) || Tbl.get false s.dev.hlk.unmasked j) := fun j => by
    rw [Tbl.get_put]
    by_cases own : j = v.toNat <;> simp [own]
  rw [exec_msixVectorUnmask, execMsixVectorUnmask, hostStep_served _ served]
  cases waits : Tbl.get false s.dev.hlk.msiPending v.toNat with
  | true =>
    have sends : s.dev.vectorMask v.toNat false = { s.dev with
        hlk := { s.dev.hlk with unmasked := Tbl.put false s.dev.hlk.unmasked v.toNat true, msiPending := Tbl.put false s.dev.hlk.msiPending v.toNat false }
        host := s.dev.host ++ [.msix v.toNat] } := if_pos ⟨rfl, waits⟩
    rw [sends]
    refine ⟨_, rfl, rfl, open_, fun j => ?_, rfl⟩
    rw [Tbl.get_put]
    by_cases own : j = v.toNat <;> simp [own]
  | false =>
    have quiet : s.dev.vectorMask v.toNat false = { s.dev with hlk := { s.dev.hlk with unmasked := Tbl.put false s.dev.hlk.unmasked v.toNat true } } :=
      if_neg fun h => Bool.false_ne_true (waits.symm.trans h.2)
    rw [quiet]
    refine ⟨_, rfl, rfl, open_, fun j => ?_, (List.append_nil _).symm⟩
    by_cases own : j = v.toNat <;> simp [own, waits]

section
variable {p : Fin 16} {l : Bool}

theorem gpioEdge_still (same : bit s.dev.glb.gpioIn p = l) : exec (.gpioEdge p l) s = .next s := by
  rw [exec_gpioEdge, execGpioEdge, devStep_eq]
  simp only [same, if_true]

/-- A pin's level after a sample. -/
def Glb.sampled (g : Glb) (p : Fin 16) (l : Bool) : Glb := { g with gpioIn := setBit g.gpioIn p l }

/-- An edge of a pin. -/
theorem gpioEdge_edge (edge : bit s.dev.glb.gpioIn p ≠ l) : exec (.gpioEdge p l) s = .next (s.onDev fun d =>
    let e : Dev := { d with glb := d.glb.sampled p l }
    if !d.tim.started ∨ !bit d.glb.gpioEvsel (2 * p.val + (!l).toNat) then e
    else if (Tbl.find? d.glb.gpioLast p).any fun t => decide ((d.tim.ticks - t).toNat < 8) then
      { e with glb := { e.glb with gpioDrop := BitVec.ofNat 32 (satInc 32 e.glb.gpioDrop.toNat) } }
    else ({ e with glb := { e.glb with gpioLast := Tbl.set e.glb.gpioLast p e.tim.ticks } }).raise (0xB00 + p) (stampOf (e.now - 2))) := by
  rw [exec_gpioEdge, execGpioEdge, devStep_eq]
  simp only [edge, if_false]
  rfl

theorem gpioEdge_unselected (edge : bit s.dev.glb.gpioIn p ≠ l)
    (quiet : bit s.dev.glb.gpioEvsel (2 * p.val + (!l).toNat) = false ∨ s.dev.tim.started = false) :
    exec (.gpioEdge p l) s = .next (s.onDev fun d => { d with glb := s.dev.glb.sampled p l }) := by
  have no : (!s.dev.tim.started) = true ∨ (!bit s.dev.glb.gpioEvsel (2 * p.val + (!l).toNat)) = true := by simpa using quiet.symm
  rw [gpioEdge_edge edge, State.onDev]
  dsimp only
  rw [if_pos no]
  rfl

section
variable (edge : bit s.dev.glb.gpioIn p ≠ l) (chosen : bit s.dev.glb.gpioEvsel (2 * p.val + (!l).toNat) = true) (runs : s.dev.tim.started = true)
include edge chosen runs

theorem gpioEdge_dropped {k : BitVec 64} (last : Tbl.find? s.dev.glb.gpioLast p = some k) (soon : (s.dev.tim.ticks - k).toNat < 8) :
    exec (.gpioEdge p l) s = .next (s.onDev fun d => { d with
      glb := { s.dev.glb.sampled p l with gpioDrop := BitVec.ofNat 32 (min (s.dev.glb.gpioDrop.toNat + 1) (2 ^ 32 - 1)) } }) := by
  rw [gpioEdge_edge edge, State.onDev]
  simp only [chosen, runs, last, soon, Option.any_some, decide_true, Bool.not_true, Bool.false_eq_true, or_self, if_false, if_true]
  rfl

theorem gpioEdge_raised
    (late : Tbl.find? s.dev.glb.gpioLast p = none ∨ (∃ k, Tbl.find? s.dev.glb.gpioLast p = some k ∧ 8 ≤ (s.dev.tim.ticks - k).toNat)) :
    exec (.gpioEdge p l) s = .next (s.onDev fun d => { d with
      glb := { s.dev.glb.sampled p l with gpioLast := Tbl.set s.dev.glb.gpioLast p d.tim.ticks }
      raised := d.raised ++ [{ id := 0xB00 + BitVec.ofNat 12 p.val, time := stampOf (d.now - 2) }] }) := by
  have open_ : ((Tbl.find? s.dev.glb.gpioLast p).any fun t => decide ((s.dev.tim.ticks - t).toNat < 8)) = false := by
    rcases late with none | ⟨k, last, far⟩
    · rw [none]; rfl
    · rw [last]; exact decide_eq_false (Nat.not_lt.2 far)
  have id : BitVec.ofNat 12 (0xB00 + p.val) = 0xB00 + BitVec.ofNat 12 p.val := BitVec.ofNat_add ..
  rw [gpioEdge_edge edge, State.onDev]
  simp only [chosen, runs, open_, Dev.raise, id, Bool.not_true, Bool.false_eq_true, or_self, if_false]
  rfl

end

end

end

end Sys2Proof.Machine
end
section
namespace Sys2Proof.Machine

/-! Plain reads (R93, R839 to R841, R844, R863). -/

section
variable {s : State}

theorem readReg_served (served : s.dev.served = true) (off : Nat) : s.readReg off = (s.readBlock (off / 65536) (off % 65536)).getD 0 := by
  simp only [State.readReg, served, Bool.true_or, if_true]

/-- A read that latches nothing shows an assigned register. -/
theorem read32_shows {off : Nat} (served : s.dev.served = true) (aligned : off / 4 * 4 = off) (other : off ≠ 0x40010)
    (beside : arr off 0x1B0800 0x10 32 = none) (assigned : (s.readBlock (off / 65536) (off % 65536)).isSome = true) :
    s.read32 off = (s.readReg off, s) := by
  unfold State.read32
  simp only [aligned, served, other, beside, assigned, Bool.not_true, Bool.false_eq_true, if_false, Bool.true_or, if_true]

/-- R844: the low half of the count latches the high half. -/
theorem read32_now (served : s.dev.served = true) :
    s.read32 0x40010 = (wordOf s.dev.tim.count 0, s.onDev fun d => d.onTim fun t => { t with nowLatch := t.count }) := by
  have shows : s.readReg 0x40010 = wordOf s.dev.tim.count 0 := (readReg_served served _).trans rfl
  have aligned : 0x40010 / 4 * 4 = 0x40010 := by decide
  unfold State.read32
  simp only [aligned, served, shows, Bool.not_true, Bool.false_eq_true, if_false, if_true]

theorem wordOf_halves (v : BitVec 64) : wordOf v 1 ++ wordOf v 0 = v := by
  refine BitVec.eq_of_toNat_eq ?_
  have lt := v.isLt
  rw [BitVec.toNat_append, ← Nat.shiftLeft_add_eq_or_of_lt (wordOf v 0).isLt]
  simp only [wordOf, BitVec.toNat_ofNat, Nat.shiftRight_eq_div_pow, Nat.shiftLeft_eq]
  omega

theorem read64_now (served : s.dev.served = true) :
    s.read64 0x40010 = (s.dev.now, s.onDev fun d => { d with tim := { d.tim with nowLatch := d.tim.count } }) := by
  let t := s.onDev fun d => d.onTim fun t => { t with nowLatch := t.count }
  have high : t.read32 0x40014 = (wordOf s.dev.tim.count 1, t) :=
    (read32_shows (s := t) (off := 0x40014) served (by decide) (by decide) (by decide) rfl).trans
      (congrArg (·, t) ((readReg_served (s := t) served _).trans rfl))
  have halves : s.read64 0x40010 = ((t.read32 0x40014).1 ++ wordOf s.dev.tim.count 0, (t.read32 0x40014).2) := by
    rw [State.read64, read32_now served]
  rw [halves, high]
  exact congrArg (·, t) (wordOf_halves ..)

/-- R841: a read at an offset that no chapter assigns. -/
theorem read32_unassigned (served : s.dev.served = true) : s.read32 0x64 = (0, s.onDev fun d => { d with glb := { s.dev.glb with
    accUnmapped := true, accCount := BitVec.ofNat 16 (min (s.dev.glb.accCount.toNat + 1) 65535)
    accAddr := if s.dev.glb.accPartial || s.dev.glb.accUnmapped then s.dev.glb.accAddr else 0x64 } }) := by
  have none : s.readBlock (0x64 / 65536) (0x64 % 65536) = none := rfl
  have zero : s.readReg 0x64 = 0 := by rw [readReg_served served, none]; rfl
  have err : s.dev.readErr 0x64 = { s.dev with glb := { s.dev.glb with
      accUnmapped := true, accCount := BitVec.ofNat 16 (min (s.dev.glb.accCount.toNat + 1) 65535)
      accAddr := if s.dev.glb.accPartial || s.dev.glb.accUnmapped then s.dev.glb.accAddr else 0x64 } } := by
    unfold Dev.readErr
    cases part : s.dev.glb.accPartial <;> cases unmapped : s.dev.glb.accUnmapped <;> simp [Dev.accErr, satInc, part, unmapped]
  have aligned : 0x64 / 4 * 4 = 0x64 := by decide
  have plain : (0x64 : Nat) ≠ 0x40010 := by decide
  have beside : arr 0x64 0x1B0800 0x10 32 = Option.none := by decide
  have outside : msiArea 0x64 = false := by decide
  unfold State.read32
  simp only [aligned, served, zero, plain, beside, none, outside, Option.isSome_none, Bool.or_self, Bool.not_true, Bool.false_eq_true, if_false]
  rw [State.onDev, err]
  rfl

/-- R863: a CLOSED session shows no use and no quotas. -/
theorem readReg_closed (served : s.dev.served = true) (closed : (s.dev.session s.dev.stk.sel.toNat).st = .closed) {o : Nat} (low : 0x20044 ≤ o)
    (high : o < 0x2005C) (aligned : o % 4 = 0) : s.readReg o = 0 := by
  have which : o = 0x20044 ∨ o = 0x20048 ∨ o = 0x2004C ∨ o = 0x20050 ∨ o = 0x20054 ∨ o = 0x20058 := by omega
  rw [readReg_served served]
  rcases which with rfl | rfl | rfl | rfl | rfl | rfl <;> exact if_pos closed

end

/-- Settles O53: a write is refused, ignored or reaches the field of its register; latches, locks, vectors and pins by case; reads show the fields. -/
theorem registersPinsAndVectorsTakeEffect : Obligations.registersPinsAndVectorsTakeEffect := by
  unfold Obligations.registersPinsAndVectorsTakeEffect
  refine ⟨?writes, ?latches, ?pins, ?reads⟩
  case writes =>
    intro s
    refine ⟨fun down still o b => registerWrite_waits (by simp [Dev.servedKept, down, still]), fun kept => ⟨fun o beside => ?_, fun v => ?_, ?_⟩, ?_,
      fun ready v => ⟨?_, errStat_cleared ready v, fun p => ovr_cleared ready p v, fun k => monBuffer_written ready k v⟩⟩
    · have refused := partialWrite_refused kept beside
      refine ⟨?_, fun odd v => ?_, fun odd v => ?_⟩
      · exact congrArg _ refused
      · exact congrArg _ ((if_neg odd).trans refused)
      · exact congrArg _ ((if_neg odd).trans refused)
    · have taken : ∀ {o : BitVec 21} {t : State}, o.toNat < 65536 → o.toNat % 4 = 0 → s.regGlb o.toNat v = some t →
          exec (.registerWrite o (.w32 v)) s = .next t := glbWrite_taken kept
      refine ⟨taken (by decide) (by decide) rfl, taken (by decide) (by decide) rfl, taken (by decide) (by decide) rfl, taken (by decide) (by decide) rfl,
        taken (by decide) (by decide) rfl, taken (by decide) (by decide) rfl, taken (by decide) (by decide) rfl, taken (by decide) (by decide) rfl,
        taken (by decide) (by decide) rfl, ?_, taken (by decide) (by decide) rfl, ?_⟩
      · rw [← cnt_word]
        exact taken (by decide) (by decide) rfl
      · exact write_unassigned (by decide) (Dev.reaches_glb kept (by decide)) rfl
    · exact fun o v aligned => registerWrite_halves aligned
    · exact fun down o v b0 b3 b28 b29 aligned => registerWrite_block down b0 b3 b28 b29 aligned
    · exact write_unassigned (by decide) (Dev.reaches_served ready _) rfl
  case latches =>
    exact fun s => ⟨timNowRead_latches, lockAll_locks, fun down => ⟨hostStep_waits _ down, fun v => hostStep_waits _ down⟩, msixVectorUnmask_sends⟩
  case pins =>
    exact fun s p l => ⟨gpioEdge_still, fun edge => ⟨gpioEdge_unselected edge, fun chosen runs =>
      ⟨fun k last soon => gpioEdge_dropped edge chosen runs last soon, gpioEdge_raised edge chosen runs⟩⟩⟩
  case reads =>
    intro s served
    refine ⟨⟨readReg_served served _, readReg_served served _, readReg_served served _, readReg_served served _⟩, fun v => ?_, read32_unassigned served,
      ⟨_, read64_now served, rfl⟩, fun closed o low high aligned => readReg_closed served closed low high aligned, fun o v => ⟨rfl, fun h0 h40 => ?_⟩⟩
    · let t := s.onDev fun d => { d with glb := { d.glb with scratch0 := v } }
      exact ⟨t, glbWrite_taken (Dev.servedKept_served served) (by decide) (by decide) rfl, readReg_served (s := t) served _⟩
    · rw [State.bar2Write, if_neg h0, if_neg h40]

end Sys2Proof.Machine
end

section
namespace Sys2Proof.Machine

/-! The admission tests (R180). -/

section
variable {d : Dev} {c : Live} {g : HostData}

/-- R114, R115, R119: the header and the payload keep the format. -/
def Live.formed (c : Live) : Prop := c.headerOk = true ∧ c.payloadOk = true

/-- R97, R134: no Crate in flight of the session has the TAG, and the vector that an interrupt asks for lies in the session's block. -/
def Dev.fresh (d : Dev) (c : Live) : Prop :=
  (∀ o ∈ d.hlk.live, o.session = c.session → o.admitted = true → o.tag ≠ c.tag) ∧ (c.irq = true → c.vec < (d.session c.session).vecCount)

/-- What test 1 asks. -/
theorem Dev.firstTest_fails_iff : ((!c.headerOk) = true ∨ (!c.payloadOk) = true ∨
      (d.hlk.live.any fun o => o.session == c.session && o.admitted && o.tag == c.tag) = true ∨
      (c.irq && decide (c.vec ≥ (d.session c.session).vecCount)) = true) ↔ ¬ (c.formed ∧ d.fresh c) := by
  have dup : (d.hlk.live.any fun o => o.session == c.session && o.admitted && o.tag == c.tag) = true ↔
      ¬ ∀ o ∈ d.hlk.live, o.session = c.session → o.admitted = true → o.tag ≠ c.tag := by
    simp [and_assoc]
  have vec : (c.irq && decide (c.vec ≥ (d.session c.session).vecCount)) = true ↔ ¬ (c.irq = true → c.vec < (d.session c.session).vecCount) := by
    simp
  rw [dup, vec, Live.formed, Dev.fresh, Bool.not_eq_true', Bool.not_eq_true', ← Bool.not_eq_true, ← Bool.not_eq_true]
  tauto

theorem Dev.verdict_first (bad : ¬ (c.formed ∧ d.fresh c)) : d.verdict c g = .fails .cfgRange :=
  if_pos (Dev.firstTest_fails_iff.2 bad)

/-- Test 2: ADMIN comes through Hatch 0 alone. -/
theorem Dev.verdict_second (formed : c.formed) (fresh : d.fresh c) (admin : c.kind = 0x0F) (other : c.hatch ≠ 0) :
    d.verdict c g = .fails .grantFault :=
  (if_neg fun bad => Dev.firstTest_fails_iff.1 bad ⟨formed, fresh⟩).trans (if_pos ⟨admin, other⟩)

/-- A Crate of a session that R202 limits has passed tests 1 and 2. -/
structure Dev.PassesTwo (d : Dev) (c : Live) : Prop where
  formed : c.formed
  fresh : d.fresh c
  hatch : c.kind = 0x0F → c.hatch = 0
  limited : c.session ≠ 0

variable (two : d.PassesTwo c)
include two

/-- Test 3, the least class of the session's quota. -/
theorem Dev.verdict_class (urgent : fld c.raw 32 3 < (d.session c.session).qPrio) : d.verdict c g = .fails .quota := by
  rw [Dev.verdict, if_neg fun bad => Dev.firstTest_fails_iff.1 bad ⟨two.formed, two.fresh⟩, if_neg fun bad => bad.2 (two.hatch bad.1),
    if_pos ⟨two.limited, urgent⟩]

variable (may : (d.session c.session).qPrio ≤ fld c.raw 32 3)
include may

/-- Test 3, the Crates in flight. -/
theorem Dev.verdict_inflight (full : (d.session c.session).qInflight ≤ d.inflight c.session) : d.verdict c g = .wait := by
  rw [Dev.verdict, if_neg fun bad => Dev.firstTest_fails_iff.1 bad ⟨two.formed, two.fresh⟩, if_neg fun bad => bad.2 (two.hatch bad.1),
    if_neg fun bad => Nat.not_lt.2 may bad.2, if_pos ⟨two.limited, full⟩]

/-- Tests 4 to 6 are left. -/
theorem Dev.verdict_later (room : d.inflight c.session < (d.session c.session).qInflight) :
    (c.kind ≠ 1 → d.verdict c g = .admits []) ∧
      (c.kind = 1 → (d.session c.session).qSpus < c.nspu → d.verdict c g = .fails .quota) ∧
      (c.kind = 1 → c.nspu ≤ (d.session c.session).qSpus → d.schedulable < c.nspu → d.verdict c g = .fails .cfgRange) := by
  rw [Dev.verdict, if_neg fun bad => Dev.firstTest_fails_iff.1 bad ⟨two.formed, two.fresh⟩, if_neg fun bad => bad.2 (two.hatch bad.1),
    if_neg fun bad => Nat.not_lt.2 may bad.2, if_neg fun bad => Nat.not_le.2 room bad.2]
  have run : (!c.isRun) = true ↔ c.kind ≠ 1 := by simp [Live.isRun]
  refine ⟨fun other => if_pos (run.2 other), fun is more => ?_, fun is few small => ?_⟩
  · rw [if_neg fun bad => run.1 bad is, if_pos ⟨two.limited, more⟩]
  · rw [if_neg fun bad => run.1 bad is, if_neg fun bad => Nat.not_lt.2 few bad.2, if_pos small]

end

/-- Settles O13: the tests in their order, each lemma past the tests before it. -/
theorem admissionTestsDecideInOrder : Obligations.admissionTestsDecideInOrder := by
  unfold Obligations.admissionTestsDecideInOrder
  intro d c g q formed fresh
  refine ⟨fun bad => Dev.verdict_first fun both => bad both.1, fun _ bad => Dev.verdict_first fun both => bad both.2,
    fun formed fresh admin other => Dev.verdict_second formed fresh admin other, fun formed fresh hatch limited => ?_⟩
  have two : d.PassesTwo c := ⟨formed, fresh, hatch, limited⟩
  exact ⟨Dev.verdict_class two, fun may => ⟨Dev.verdict_inflight two may, Dev.verdict_later two may⟩⟩

end Sys2Proof.Machine
end

section
namespace Sys2Proof.Machine

/-! A change of one mover (R631). -/

/-- Nothing changes but mover `m`, which becomes `w`. -/
structure Dev.MoverIs (d d' : Dev) (m : Nat) (w : Mover) : Prop where
  frame : d' = { d with mov := { d.mov with movers := d'.mov.movers } }
  others : ∀ k, k ≠ m → d'.mover k = d.mover k
  is : d'.mover m = w

section
variable {d d' : Dev} {m : Nat} {w : Mover}

theorem Dev.MoverIs.refl (d : Dev) (m : Nat) : d.MoverIs d m (d.mover m) := ⟨rfl, fun _ _ => rfl, rfl⟩

theorem Dev.MoverIs.onMover (h : d.MoverIs d' m w) (f : Mover → Mover) : d.MoverIs (d'.onMover m f) m (f w) := by
  obtain ⟨frame, others, is⟩ := h
  refine ⟨?_, fun k other => (d'.mover_onMover_ne f other).trans (others k other), (d'.mover_onMover m f).trans (congrArg f is)⟩
  rw [frame]
  rfl

theorem Dev.MoverIs.onChain (h : d.MoverIs d' m w) (f : Chain → Chain) :
    d.MoverIs (d'.onChain m f) m { w with chain := w.chain.map f } := h.onMover _

/-- A mover that runs a chain starts no other. -/
theorem Dev.kick_busy (busy : (d.mover m).chain.isSome = true) : d.kick m = d := by
  unfold Dev.kick
  exact if_pos (.inl busy)

/-- A mover with an empty queue starts none. -/
theorem Dev.kick_empty (empty : (d.mover m).queue = []) : d.kick m = d := by
  simp only [Dev.kick, empty, bestBy, ite_self]

end

/-! MOVE Crates (R191, R631). -/

section
variable {s : State} {uid : Nat} {c : Live} {m : Fin 16}

/-- What a MOVE Crate asks of its mover (R631, R634, R637). -/
def Live.moveAct (c : Live) (uid : Nat) : Activation :=
  { crate := some uid, session := c.session, first := c.num 32 8
    budget := if c.num 44 4 = 0 then 65536 else c.num 44 4, tmo := if c.num 48 4 = 0 then 1000 else c.num 48 4 }

/-- A MOVE Crate takes its place in the queue of mover `m`. -/
def Dev.moveJoined (d : Dev) (uid m : Nat) (c : Live) : Dev :=
  (d.onLive uid fun c => { c with phase := .active }).onMover m fun v => { v with queue := v.queue ++ [c.moveAct uid] }

theorem exec_move (starts : s.dev.starts uid 2 = some c) (named : c.num 40 1 = m) : exec (.move uid) s = .next (s.onDev fun d =>
    if (d.mover m).halted = true ∨ (d.mover m).queue.length ≥ 64 ∨ (!d.moveTurn m c) = true then d else (d.moveJoined uid m c).kick m) := by
  have ran : exec (.move uid) s = execMove uid s := rfl
  have one : ¬ (m : Nat) = 0xFF := by omega
  rw [ran, execMove, devStep_eq]
  simp only [starts, named, if_neg one]
  rfl

theorem move_waits (starts : s.dev.starts uid 2 = some c) (named : c.num 40 1 = m)
    (held : (s.dev.mover m).halted = true ∨ 64 ≤ (s.dev.mover m).queue.length ∨ s.dev.moveTurn m c = false) : exec (.move uid) s = .next s := by
  rw [exec_move starts named, State.onDev, if_pos]
  simpa using held

theorem move_joins (starts : s.dev.starts uid 2 = some c) (named : c.num 40 1 = m) (turn : s.dev.moveTurn m c = true)
    (going : (s.dev.mover m).halted = false) (room : (s.dev.mover m).queue.length < 64) :
    exec (.move uid) s = .next (s.onDev fun d => (d.moveJoined uid m c).kick m) := by
  rw [exec_move starts named, State.onDev, if_neg (by simp [going, turn, room])]
  rfl

theorem Dev.moveJoined_is (d : Dev) : (d.onLive uid fun c => { c with phase := .active }).MoverIs (d.moveJoined uid m c) m
    { d.mover m with queue := (d.mover m).queue ++ [c.moveAct uid] } :=
  (Dev.MoverIs.refl _ m).onMover fun v => { v with queue := v.queue ++ [c.moveAct uid] }

/-- A MOVE Crate reaches its mover, which becomes `w`. -/
def MoveLeads (s : State) (uid : Nat) (m : Fin 16) (c : Live) (w : Mover) : Prop :=
  ∃ t c', exec (.move uid) s = .next t ∧
    t = { s with dev := { s.dev with hlk := { s.dev.hlk with live := t.dev.hlk.live }, mov := { s.dev.mov with movers := t.dev.mov.movers } } } ∧
    t.dev.mover m = w ∧ (∀ k, k ≠ m.val → t.dev.mover k = s.dev.mover k) ∧ t.dev.live? uid = some c' ∧ c' = { c with phase := .active }

theorem MoveLeads.of_ran {w : Mover} {d : Dev} (starts : s.dev.starts uid 2 = some c) (ran : exec (.move uid) s = .next { s with dev := d })
    (is : (s.dev.onLive uid fun c => { c with phase := .active }).MoverIs d m w) : MoveLeads s uid m c w := by
  obtain ⟨here, -⟩ := Dev.starts_some starts
  obtain ⟨frame, others, is⟩ := is
  refine ⟨_, _, ran, ?_, is, others, ?_, rfl⟩
  · dsimp only
    rw [frame]
    rfl
  · have found := Dev.live_onLive s.dev uid (f := fun c => { c with phase := .active }) fun c => rfl
    rw [here] at found
    dsimp only
    rw [frame]
    exact found

theorem move_queues (starts : s.dev.starts uid 2 = some c) (named : c.num 40 1 = m) (turn : s.dev.moveTurn m c = true)
    (going : (s.dev.mover m).halted = false) (room : (s.dev.mover m).queue.length < 64) (busy : (s.dev.mover m).chain.isSome = true) :
    MoveLeads s uid m c { s.dev.mover m with queue := (s.dev.mover m).queue ++ [c.moveAct uid] } := by
  have is := Dev.moveJoined_is (uid := uid) (c := c) (m := m) s.dev
  have ran := move_joins starts named turn going room
  rw [State.onDev, Dev.kick_busy (by rw [is.is]; exact busy)] at ran
  exact .of_ran starts ran is

theorem move_begins (starts : s.dev.starts uid 2 = some c) (named : c.num 40 1 = m) (turn : s.dev.moveTurn m c = true)
    (going : (s.dev.mover m).halted = false) (empty : (s.dev.mover m).queue = []) (still : (s.dev.mover m).chain = none) :
    MoveLeads s uid m c { s.dev.mover m with
      chain := some { act := c.moveAct uid, cur := (c.moveAct uid).first }, hops := 0
      lastServed := Tbl.set (s.dev.mover m).lastServed c.cls c.session } := by
  have is := Dev.moveJoined_is (uid := uid) (c := c) (m := m) s.dev
  have ran := move_joins starts named turn going (by simp [empty])
  obtain ⟨here, -⟩ := Dev.starts_some starts
  have rank : ((s.dev.moveJoined uid m c).actRank (c.moveAct uid)).1 = c.cls := by
    have found : (s.dev.moveJoined uid m c).live? uid = some { c with phase := .active } := by
      have found := Dev.live_onLive s.dev uid (f := fun c => { c with phase := .active }) fun c => rfl
      rw [here] at found
      exact found
    simp only [Dev.actRank, Live.moveAct, Option.bind_some, found]
  rw [State.onDev, Dev.kick_only (act := c.moveAct uid) (by rw [is.is]; exact still) (by rw [is.is]; exact going)
    (by rw [is.is]; simp [empty]), rank] at ran
  have began := is.onMover fun v => { v with
    queue := v.queue.erase (c.moveAct uid), chain := some { act := c.moveAct uid, cur := (c.moveAct uid).first }, hops := 0
    lastServed := Tbl.set v.lastServed c.cls (c.moveAct uid).session }
  have gone : ((s.dev.mover m).queue ++ [c.moveAct uid]).erase (c.moveAct uid) = (s.dev.mover m).queue := by
    rw [empty, List.nil_append, List.erase_cons_head]
  rw [gone] at began
  exact .of_ran starts ran began

end

end Sys2Proof.Machine
end

section
namespace Sys2Proof.Machine

/-! Descriptors of one row in Loft pages (R623 to R630, R640). -/

/-- The Loft run of `n` cells from `a` lies in pages of the session (R620, R625). -/
structure Dev.LoftRun (d : Dev) (session a n : Nat) : Prop where
  fits : a + n ≤ 2 ^ 24
  owned : ∀ b, a ≤ b → b < a + n → d.ownsPage session (b / 16384) = true

section
variable {d : Dev} {x : Side} {session a n : Nat}

/-- A page between the first and the last of a run holds a cell of the run. -/
theorem page_of_run {i : Nat} (some_ : 0 < n) (page : i < (a + n - 1) / 16384 - a / 16384 + 1) :
    ∃ b, a ≤ b ∧ b < a + n ∧ b / 16384 = a / 16384 + i := by
  refine ⟨max a ((a / 16384 + i) * 16384), ?_, ?_, ?_⟩ <;> omega

theorem Dev.LoftRun.sideBad (run : d.LoftRun x.act.session a n) (loft : x.space = 2) : d.sideBad x a n = none := by
  unfold Dev.sideBad
  by_cases none : n = 0
  · simp only [if_pos none]
  · simp only [if_neg none, loft, Option.map_eq_none_iff, List.find?_eq_none, List.mem_map, List.mem_range]
    rintro i ⟨j, lt, rfl⟩
    obtain ⟨b, lo, hi, page⟩ := page_of_run (Nat.pos_of_ne_zero none) lt
    simp [← page, run.owned b lo hi]

theorem Dev.LoftRun.sideOk (run : d.LoftRun x.act.session a n) (loft : x.space = 2) {e : Nat} (lt : e < n) : d.sideOk x (a + e) 1 = true := by
  obtain ⟨fits, owned⟩ := run
  have page := owned (a + e) (by omega) (by omega)
  unfold Dev.sideOk
  simp only [loft, Bool.and_eq_true, decide_eq_true_eq, List.all_eq_true, List.mem_range]
  refine ⟨by omega, fun i lt => ?_⟩
  have only : i = 0 := by omega
  rw [only]
  exact page

end

/-- The addresses of a row that does not reach the end of the space (R625). -/
theorem rowAddr_first {base e : Nat} (stride : Int) (small : base + e < 2 ^ 64) : rowAddr base 0 stride e = base + e := by
  unfold rowAddr
  rw [Nat.cast_zero, zero_mul, add_zero, ← Nat.cast_add]
  omega

/-- A descriptor of one row between cells, or of one row to fill with a cell. -/
structure Desc.CellRow (x : Desc) : Prop where
  known : x.op ≤ 2
  loft : x.dspace = 2
  source : x.op ≠ 1 → x.sspace = 2
  filled : x.op = 1 → x.sspace = 0
  plain : x.bfmt = 0
  one : x.rows = 1
  some_ : 1 ≤ x.count
  srcFits : x.src + x.count ≤ 2 ^ 24
  dstFits : x.dst + x.count ≤ 2 ^ 24

namespace Desc.CellRow

variable {x : Desc} (row : x.CellRow) (act : Activation)
include row

theorem dcells : cellSpace x.dspace = true := by rw [row.loft]; rfl

/-- The units of the source are cells; a FILL counts those of its destination. -/
theorem cells : (if x.op = 1 then true else cellSpace x.sspace) = true := by
  by_cases fill : x.op = 1
  · exact if_pos fill
  · rw [if_neg fill, row.source fill]; rfl

theorem elems : x.elems = x.count := by simp [Desc.elems, row.plain]

theorem bytesMoved : x.bytesMoved = 8 * x.count := by
  simp only [Desc.bytesMoved, row.cells, row.dcells, row.one, Bool.and_self, if_true, Nat.one_mul]

theorem descBad {d : Dev} (src : x.op ≠ 1 → d.LoftRun act.session x.src x.count) (dst : d.LoftRun act.session x.dst x.count) (k l : Nat) :
    d.descBad x { space := x.sspace, act, access := k } { space := x.dspace, act, access := l } = none := by
  unfold Dev.descBad
  have units : x.elems * elemUnits x.bfmt true (true != true) = x.count := by rw [row.elems]; exact Nat.mul_one _
  have srcAddr : rowAddr x.src 0 x.sstride 0 = x.src := rowAddr_first (e := 0) _ (by have := row.srcFits; omega)
  have dstAddr : rowAddr x.dst 0 x.dstride 0 = x.dst := rowAddr_first (e := 0) _ (by have := row.dstFits; omega)
  simp only [row.cells, row.dcells, row.one, units, List.range_one, List.findSome?_singleton, srcAddr, dstAddr]
  have dstReached : d.sideBad { space := x.dspace, act, access := l } x.dst x.count = none := Dev.LoftRun.sideBad dst row.loft
  rw [dstReached]
  by_cases fill : x.op = 1
  · rw [if_pos fill]; rfl
  · rw [if_neg fill, Dev.LoftRun.sideBad (by exact src fill) (row.source fill)]; rfl

/-- No Shelf is touched. -/
theorem untouched (base : Nat) (stride : Int) (n : Nat) (y : Side) (loft : y.space = 2) :
    dedup ((List.range x.rows).flatMap fun r => y.shelves (rowAddr base r stride 0) n) = [] := by
  have none : ∀ a, y.shelves a n = [] := fun a => by simp [Side.shelves, loft]
  simp only [none, row.one]
  rfl

/-- The elements of the row, one cell after the other. -/
theorem rows (t : Xf) (k l : Nat) : t.rows x { space := x.sspace, act, access := k } { space := x.dspace, act, access := l } =
    (List.range x.count).foldl (fun t e => t.elem x { space := x.sspace, act, access := k } { space := x.dspace, act, access := l }
      (x.src + e) (x.dst + e)) t := by
  have unit : elemUnits x.bfmt true (true != true) = 1 := rfl
  simp only [Xf.rows, row.cells, row.dcells, row.one, row.elems, unit, List.range_one, List.foldl_cons, List.foldl_nil, Nat.mul_one]
  have step : ∀ l' : List Nat, (∀ e ∈ l', e < x.count) → ∀ t : Xf,
      l'.foldl (fun t e => t.elem x { space := x.sspace, act, access := k } { space := x.dspace, act, access := l }
        (rowAddr x.src 0 x.sstride e) (rowAddr x.dst 0 x.dstride e)) t =
      l'.foldl (fun t e => t.elem x { space := x.sspace, act, access := k } { space := x.dspace, act, access := l } (x.src + e) (x.dst + e)) t := by
    intro l' small
    induction l' with
    | nil => intro t; rfl
    | cons e l' ih =>
      intro t
      have lt := small e List.mem_cons_self
      have srcFits := row.srcFits
      have dstFits := row.dstFits
      rw [List.foldl_cons, List.foldl_cons, ih fun e mem => small e (List.mem_cons_of_mem _ mem), rowAddr_first _ (by omega), rowAddr_first _ (by omega)]
  exact step _ (fun e mem => List.mem_range.1 mem) t

end Desc.CellRow

/-! A descriptor that a chain executes. -/

/-- A MOVE chain at a descriptor that it may execute: nothing stops it, and what it reads and writes lies in its session's pages. -/
structure DescDue (s : State) (m : Nat) (c : Chain) (x : Desc) : Prop where
  runs : (s.dev.mover m).chain = some c
  going : (s.dev.mover m).halted = false
  unfinished : c.fin = none
  unstopped : c.stop = false
  unstalled : c.stalled = false
  first : c.completed = 0
  crate : c.act.crate.isSome = true
  aligned : c.cur % 64 = 0
  clear : s.dev.inHdm c.cur 64 = false
  formed : x.wellFormed false true = true
  row : x.CellRow
  src : x.op ≠ 1 → s.dev.LoftRun c.act.session x.src x.count
  dst : s.dev.LoftRun c.act.session x.dst x.count
  sound : s.mem.loftErr = []

/-- The chain and its mover after the read of a descriptor (R634). -/
def Dev.descRead (d : Dev) (m : Nat) : Dev :=
  ((d.onChain m fun c => { c with hops := c.hops + 1 }).onMover m fun v => { v with hops := v.hops + 1 }).onChain m fun c =>
    { c with stalled := false, targets := [] }

/-- The sides of a descriptor of a chain. -/
def Desc.srcSide (x : Desc) (act : Activation) : Side := { space := x.sspace, act, access := 1 }
def Desc.dstSide (x : Desc) (act : Activation) : Side := { space := x.dspace, act, access := if x.op = 2 then 1 else 2 }

/-- The chain after a descriptor that moved what it says (R633, R640). -/
def Chain.after (c : Chain) (x : Desc) : Chain :=
  { c with
    completed := c.completed + 1, bytes := c.bytes + x.bytesMoved, cur := x.next
    fin := if x.last then some .ok
      else if c.stop && !({ c with completed := 1, cur := x.next } : Chain).loops then some .cancelled else none }

section
variable {s : State} {m : Nat} {c : Chain} {x : Desc}

/-- The transfer of a descriptor ends well or with a failure. -/
def Xf.ends (t : Xf) (m : Nat) (x : Desc) : State :=
  match t.fail with
  | some (st, w, sp, a) => t.flush.failChain m st w sp a
  | none => t.flush.onDev fun d => d.onChain m fun c => c.after x

theorem DescDue.runDesc (due : DescDue s m c x) {raw : BitVec 512} (is : Desc.ofBits raw = x) (data dest : List Byte) :
    s.runDesc m x.op raw data dest =
      (({ s := { s with dev := s.dev.descRead m }, data, dest, mover := m } : Xf).rows x (x.srcSide c.act) (x.dstSide c.act)).ends m x := by
  obtain ⟨runs, going, unfinished, unstopped, unstalled, first, crate, aligned, clear, formed, row, src, dst, sound⟩ := due
  have mine : c.act.crate.isNone = false := by simpa using crate
  have loops : c.loops = false := by simp [Chain.loops, first]
  have fetched : s.fetchDesc c raw = .ok x := by
    simp only [State.fetchDesc, crate, if_true, aligned, ne_eq, not_true_eq_false, if_false, clear, Bool.false_eq_true, is]
  have moves : x.count ≠ 0 := by have := row.some_; omega
  have bad : s.dev.descBad x (x.srcSide c.act) (x.dstSide c.act) = none := row.descBad c.act src dst _ _
  have given : ¬ ((x.op ≠ 1 ∧ x.sspace = 0 ∧ data.length < x.rows * x.elems * elemUnits x.bfmt false (cellSpace x.sspace != cellSpace x.dspace)) ∨
      (x.op = 2 ∧ x.dspace = 0 ∧ dest.length < x.rows * x.elems * elemUnits x.bfmt false (cellSpace x.sspace != cellSpace x.dspace))) := by
    have loft := row.loft
    have source := row.source
    rintro (⟨op, host, -⟩ | ⟨-, host, -⟩)
    · have := source op; omega
    · omega
  have touched : (if x.count = 0 then [] else dedup ((if x.op = 1 then [] else
      dedup ((List.range x.rows).flatMap fun r => (x.srcSide c.act).shelves (rowAddr x.src r x.sstride 0)
        (x.elems * elemUnits x.bfmt (cellSpace x.sspace) (cellSpace x.sspace != cellSpace x.dspace)))) ++
      dedup ((List.range x.rows).flatMap fun r => (x.dstSide c.act).shelves (rowAddr x.dst r x.dstride 0)
        (x.elems * elemUnits x.bfmt (cellSpace x.dspace) (cellSpace x.sspace != cellSpace x.dspace))))) = [] := by
    rw [if_neg moves, row.untouched _ _ _ (x.dstSide c.act) row.loft]
    by_cases fill : x.op = 1
    · rw [if_pos fill]; rfl
    · rw [if_neg fill, row.untouched _ _ _ (x.srcSide c.act) (row.source fill)]; rfl
  unfold Desc.srcSide Desc.dstSide at bad touched
  simp only [State.runDesc, runs, going, unfinished, unstopped, unstalled, first, mine, loops, fetched, bad, if_neg given, touched, if_neg moves,
    Option.isSome_none, Bool.false_eq_true, or_self, if_false, Bool.false_and]
  have op : ¬ (x.op ≠ x.op ∧ ¬ (x.op > 2 ∧ x.op = 0)) := fun other => other.1 rfl
  have form : ¬ (!x.wellFormed false (0 == 0)) = true := by simpa using formed
  have here : ∀ p : Prop, ¬ (x.count ≠ 0 ∧ (x.sspace = 3 ∨ x.dspace = 3) ∧ p) := by
    rintro p ⟨-, space, -⟩
    have loft := row.loft
    by_cases fill : x.op = 1
    · have := row.filled fill
      omega
    · have := row.source fill
      omega
  rw [if_neg op, if_neg form, if_neg (by simp), if_neg (here _)]
  rfl

end

theorem Desc.cellRow_of_formed {x : Desc} (formed : x.wellFormed false true = true) (known : x.op ≤ 2) (loft : x.dspace = 2)
    (source : x.op ≠ 1 → x.sspace = 2 ∧ x.src + x.count ≤ 2 ^ 24) (one : x.rows = 1) (some_ : 1 ≤ x.count) (fits : x.dst + x.count ≤ 2 ^ 24) :
    x.CellRow := by
  unfold Desc.wellFormed at formed
  simp only [Bool.and_eq_true] at formed
  obtain ⟨-, fields⟩ := formed
  by_cases fill : x.op = 1
  · simp only [if_pos fill, Bool.and_eq_true, beq_iff_eq] at fields
    obtain ⟨⟨⟨⟨plain, host⟩, zero⟩, -⟩, -⟩ := fields
    exact ⟨known, loft, fun other => absurd fill other, fun _ => host, plain, one, some_, by omega, fits⟩
  · obtain ⟨cells, srcFits⟩ := source fill
    have same : (cellSpace x.sspace != cellSpace x.dspace) = false := by rw [cells, loft]; rfl
    simp only [if_neg fill, same, Bool.false_eq_true, if_false, Bool.and_eq_true, beq_iff_eq] at fields
    obtain ⟨⟨-, plain⟩, -⟩ := fields
    exact ⟨known, loft, fun _ => cells, fun is => absurd is fill, plain, one, some_, srcFits, fits⟩

/-! Elements (R626, R629, R630). -/

section
variable {s : State} {y : Side} {a : Nat}

theorem cellSpace_loft : cellSpace 2 = true := rfl

theorem elemUnits_cell (f : Nat) : elemUnits f true (true != true) = 1 := rfl

theorem readCells_loft (loft : y.space = 2) (clean : s.mem.loftErr = []) : s.readCells y a 1 = some [s.mem.loftGet a] := by
  simp [State.readCells, loft, Mem.loftRead, clean, Tbl.get_nil, WordRead.cell?]

theorem sideRead_loft (loft : y.space = 2) (clean : s.mem.loftErr = []) (n : Nat) : s.sideRead y a n = s := by
  simp [State.sideRead, loft, clean]

end

section
variable {t : Xf} {x : Desc} {sx dx : Side} {sa da : Nat}

/-- A transfer that failed moves no further element. -/
theorem Xf.elem_failed (failed : t.fail.isSome = true) : t.elem x sx dx sa da = t := if_pos failed

/-- The cell that a FILL of a cell space writes (R629). -/
def Desc.fillCell (x : Desc) : Cell := { data := BitVec.ofNat 36 x.fillv.toNat, tag := BitVec.ofNat 4 (fld x.fillv 36 4) }

/-- An element of a transfer that goes on, whose destination is a Loft cell that it may reach. -/
structure Xf.Reaches (t : Xf) (dx : Side) (da : Nat) : Prop where
  sound : t.fail = none
  loft : dx.space = 2
  ok : t.s.dev.sideOk dx da 1 = true

theorem Xf.elem_fill (cell : t.Reaches dx da) (fill : x.op = 1) :
    t.elem x sx dx sa da = { t with s := t.s.onMem fun m => m.loftPut da x.fillCell } := by
  obtain ⟨sound, loft, ok⟩ := cell
  simp only [Xf.elem, sound, fill, ok, loft, cellSpace_loft, elemUnits_cell, Option.isSome_none, Bool.false_eq_true, if_false, if_true,
    Bool.not_true, ne_eq, not_true_eq_false, false_and, State.writeCells]
  rfl

/-- Its source is a Loft cell too, and no word is in error. -/
structure Xf.Between (t : Xf) (sx dx : Side) (sa da : Nat) : Prop extends t.Reaches dx da where
  from_ : sx.space = 2
  readable : t.s.dev.sideOk sx sa 1 = true
  clean : t.s.mem.loftErr = []

variable (cells : t.Between sx dx sa da)
include cells

theorem Xf.elem_copy (copy : x.op = 0) :
    t.elem x sx dx sa da = { t with s := t.s.onMem fun m => m.loftPut da (t.s.mem.loftGet sa) } := by
  obtain ⟨⟨sound, loft, ok⟩, from_, readable, clean⟩ := cells
  simp only [Xf.elem, sound, copy, ok, loft, from_, readable, cellSpace_loft, elemUnits_cell, Option.isSome_none, Bool.false_eq_true,
    if_false, if_true, Bool.not_true, and_false, zero_ne_one, readCells_loft from_ clean, sideRead_loft from_ clean, Option.map_some, State.writeCells]
  rfl

theorem Xf.elem_compare (compare : x.op = 2) (tags : x.notag = false) : t.elem x sx dx sa da =
    { t with fail := if t.s.mem.loftGet sa = t.s.mem.loftGet da then none else some (.compareMismatch, false, 2, da) } := by
  obtain ⟨⟨sound, loft, ok⟩, from_, readable, clean⟩ := cells
  have one : ¬ (2 : Nat) = 1 := by decide
  have zero : ¬ (2 : Nat) = 0 := by decide
  simp only [Xf.elem, sound, compare, ok, loft, from_, readable, cellSpace_loft, elemUnits_cell, Option.isSome_none, Bool.false_eq_true,
    if_false, if_true, Bool.not_true, and_false, if_neg one, if_neg zero, readCells_loft from_ clean, sideRead_loft from_ clean,
    readCells_loft loft clean, sideRead_loft loft clean, Option.map_some, tags]
  simp only [beq_iff_eq, List.cons.injEq, and_true]

end

end Sys2Proof.Machine
end

section
namespace Sys2Proof.Machine

/-! A chain that fails (R636, R637). -/

section
variable {s : State} {m : Nat} {c : Chain} {st : Status} {w : Bool} {sp a : Nat}

/-- The mover latches the failure, and its chain is to end with it. -/
def Dev.chainFailed (d : Dev) (m : Nat) (st : Status) (w : Bool) (sp a : Nat) : Dev :=
  (d.latchErr m st w sp a).onChain m fun c =>
    { c with fin := some st, stalled := false, targets := [], failAddr := a, failWrite := w, failSpace := sp }

/-- The chain with its failure. -/
def Chain.failed (c : Chain) (st : Status) (w : Bool) (sp a : Nat) : Chain :=
  { c with fin := some st, stalled := false, targets := [], failAddr := a, failWrite := w, failSpace := sp }

/-- The mover of a chain that failed. -/
def Mover.failed (v : Mover) (c : Chain) (st : Status) (w : Bool) (sp a : Nat) : Mover :=
  { v with
    chain := some (c.failed st w sp a), halted := v.halted || decide (st = .busError ∨ st = .timeout)
    err := v.err.orElse fun _ => some { status := st, dirWrite := w, space := sp, addr := a } }

theorem Dev.MoverIs.chainFailed {d d' : Dev} {v : Mover} (is : d.MoverIs d' m v) (runs : v.chain = some c) :
    d.MoverIs (d'.chainFailed m st w sp a) m (v.failed c st w sp a) := by
  have latched : d.MoverIs (d'.latchErr m st w sp a) m _ := is.onMover _
  have failed := latched.onChain fun c => c.failed st w sp a
  simp only [runs, Option.map_some] at failed
  exact failed

variable (runs : (s.dev.mover m).chain = some c) (unfinished : c.fin = none)
include runs unfinished

/-- A failure that neither halts the mover nor is an uncorrected read is latched, and no more. -/
theorem State.failChain_latched (answered : st ≠ .busError ∧ st ≠ .timeout) (read : st ≠ .eccUncorrected) :
    s.failChain m st w sp a = s.onDev fun d => d.chainFailed m st w sp a := by
  have halts : ¬ (st = .busError ∨ st = .timeout) := not_or.2 answered
  simp only [State.failChain, runs, unfinished, Option.isSome_none, Bool.false_eq_true, if_false, if_neg halts, if_neg read]
  rfl

/-- The record of a request without a good answer (R780). -/
def requestReport (m : Nat) (c : Chain) (st : Status) (a : Nat) : Report :=
  { code := st, sev := 2, domain := domMover m, src := srcMov, addr := a, session := c.act.session, detail := m }

theorem State.failChain_halts (halts : st = .busError ∨ st = .timeout) :
    s.failChain m st w sp a = s.onDev fun d => (d.chainFailed m st w sp a).log (requestReport m c st a) := by
  simp only [State.failChain, runs, unfinished, Option.isSome_none, Bool.false_eq_true, if_false, if_pos halts]
  rfl

end

/-! Rows of elements. -/

/-- A transfer with other memories. -/
def Xf.withMem (t : Xf) (mm : Mem) : Xf := { t with s := { t.s with mem := mm } }

/-- A fold that stores one cell after the other at consecutive places. -/
theorem foldl_puts {t : Xf} {f : Nat → Cell} {step : Xf → Nat → Xf} {dst : Nat} : ∀ {n : Nat},
    (∀ e, e < n → ∀ mm : Mem, mm.loftErr = [] →
      (∀ a, mm.loftGet a = if dst ≤ a ∧ a < dst + e then (f a).stored else t.s.mem.loftGet a) →
      step (t.withMem mm) e = t.withMem (mm.loftPut (dst + e) (f (dst + e)))) →
    t.s.mem.loftErr = [] →
    ∃ mm, (List.range n).foldl step t = t.withMem mm ∧ mm.loftErr = [] ∧
      ∀ a, mm.loftGet a = if dst ≤ a ∧ a < dst + n then (f a).stored else t.s.mem.loftGet a
  | 0, _, clean => ⟨t.s.mem, rfl, clean, fun a => (if_neg (by omega)).symm⟩
  | n + 1, puts, clean => by
    obtain ⟨mm, ran, clean, cells⟩ := foldl_puts (fun e lt => puts e (Nat.lt_succ_of_lt lt)) clean
    refine ⟨mm.loftPut (dst + n) (f (dst + n)), ?_, ?_, fun a => ?_⟩
    · rw [List.range_succ, List.foldl_append, ran]
      exact puts n (Nat.lt_succ_self n) mm clean cells
    · simp [Mem.loftPut, clean, Tbl.erase]
    · rw [Mem.loftGet_put, cells]
      by_cases new : a = dst + n
      · rw [if_pos new, if_pos (by omega), new]
      · rw [if_neg new]
        by_cases old : dst ≤ a ∧ a < dst + n
        · rw [if_pos old, if_pos (by omega)]
        · rw [if_neg old, if_neg (by omega)]

section
variable {s : State} {m : Nat} {c : Chain} {x : Desc}

/-- A transfer at its begin. -/
def State.xfBegin (s : State) (m : Nat) (data dest : List Byte) : Xf := { s := { s with dev := s.dev.descRead m }, data, dest, mover := m }

theorem Dev.LoftRun.descRead {d : Dev} {n a k : Nat} (run : d.LoftRun n a k) (m : Nat) : (d.descRead m).LoftRun n a k := ⟨run.fits, run.owned⟩

theorem DescDue.reaches (due : DescDue s m c x) {data dest : List Byte} {e : Nat} (lt : e < x.count) (mm : Mem) :
    ((s.xfBegin m data dest).withMem mm).Reaches (x.dstSide c.act) (x.dst + e) :=
  ⟨rfl, due.row.loft, Dev.LoftRun.sideOk (due.dst.descRead m) due.row.loft lt⟩

theorem DescDue.between (due : DescDue s m c x) {data dest : List Byte} {e : Nat} (lt : e < x.count) {mm : Mem} (clean : mm.loftErr = [])
    (other : x.op ≠ 1) : ((s.xfBegin m data dest).withMem mm).Between (x.srcSide c.act)
      (x.dstSide c.act) (x.src + e) (x.dst + e) :=
  ⟨due.reaches lt mm, due.row.source other, Dev.LoftRun.sideOk ((due.src other).descRead m) (due.row.source other) lt, clean⟩

/-- What a FILL and a COPY leave in the Loft: cell `f a` in each place `a` of the destination. -/
def Desc.Stores (x : Desc) (f : Nat → Cell) (mm mm' : Mem) : Prop :=
  ∀ a, mm'.loftGet a = if x.dst ≤ a ∧ a < x.dst + x.count then (f a).stored else mm.loftGet a

theorem DescDue.fill (due : DescDue s m c x) (fill : x.op = 1) (data dest : List Byte) :
    ∃ mm, (s.xfBegin m data dest).rows x (x.srcSide c.act) (x.dstSide c.act) = (s.xfBegin m data dest).withMem mm ∧ x.Stores (fun _ => x.fillCell) s.mem mm := by
  rw [Desc.srcSide, Desc.dstSide, due.row.rows]
  obtain ⟨mm, ran, -, cells⟩ := foldl_puts (t := s.xfBegin m data dest) (f := fun _ => x.fillCell) (dst := x.dst)
    (step := fun t e => t.elem x (x.srcSide c.act) (x.dstSide c.act) (x.src + e) (x.dst + e)) (n := x.count)
    (fun e lt mm _ _ => Xf.elem_fill (due.reaches lt mm) fill) due.sound
  exact ⟨mm, ran, cells⟩

theorem DescDue.copy (due : DescDue s m c x) (copy : x.op = 0) (apart : x.src + x.count ≤ x.dst ∨ x.dst + x.count ≤ x.src) (data dest : List Byte) :
    ∃ mm, (s.xfBegin m data dest).rows x (x.srcSide c.act) (x.dstSide c.act) = (s.xfBegin m data dest).withMem mm ∧
      x.Stores (fun a => s.mem.loftGet (x.src + (a - x.dst))) s.mem mm := by
  rw [Desc.srcSide, Desc.dstSide, due.row.rows]
  obtain ⟨mm, ran, -, cells⟩ := foldl_puts (t := s.xfBegin m data dest) (f := fun a => s.mem.loftGet (x.src + (a - x.dst))) (dst := x.dst)
    (step := fun t e => t.elem x (x.srcSide c.act) (x.dstSide c.act) (x.src + e) (x.dst + e)) (n := x.count) (fun e lt mm clean cells => by
    refine (Xf.elem_copy (due.between lt clean (by omega)) copy).trans ?_
    have source : mm.loftGet (x.src + e) = s.mem.loftGet (x.src + (x.dst + e - x.dst)) := by
      rw [cells, if_neg (by omega), Nat.add_sub_cancel_left]
      rfl
    rw [← source]
    rfl) due.sound
  exact ⟨mm, ran, cells⟩

/-- Equal rows: no element fails, and no cell changes. -/
theorem DescDue.compare_same (due : DescDue s m c x) (compare : x.op = 2) (tags : x.notag = false)
    (same : ∀ k, k < x.count → s.mem.loftGet (x.src + k) = s.mem.loftGet (x.dst + k)) (data dest : List Byte) :
    (s.xfBegin m data dest).rows x (x.srcSide c.act) (x.dstSide c.act) = s.xfBegin m data dest := by
  rw [Desc.srcSide, Desc.dstSide, due.row.rows]
  refine List.foldlRecOn (motive := fun t => t = s.xfBegin m data dest) _ _ rfl fun t is e mem => ?_
  have lt := List.mem_range.1 mem
  rw [is]
  have element : (s.xfBegin m data dest).elem x (x.srcSide c.act) (x.dstSide c.act) (x.src + e) (x.dst + e) = _ :=
    Xf.elem_compare (due.between lt due.sound (by omega)) compare tags
  rw [if_pos (by exact same e lt)] at element
  exact element

/-- Rows whose first cells differ: the first element fails, and no other runs. -/
theorem DescDue.compare_differs (due : DescDue s m c x) (compare : x.op = 2) (tags : x.notag = false)
    (differ : s.mem.loftGet x.src ≠ s.mem.loftGet x.dst) (data dest : List Byte) :
    (s.xfBegin m data dest).rows x (x.srcSide c.act) (x.dstSide c.act) =
      { s.xfBegin m data dest with fail := some (.compareMismatch, false, 2, x.dst) } := by
  rw [Desc.srcSide, Desc.dstSide, due.row.rows]
  obtain ⟨n, more⟩ : ∃ n, x.count = n + 1 := ⟨x.count - 1, by have := due.row.some_; omega⟩
  have first : (s.xfBegin m data dest).elem x (x.srcSide c.act) (x.dstSide c.act) (x.src + 0) (x.dst + 0) = _ :=
    Xf.elem_compare (due.between (by omega) due.sound (by omega)) compare tags
  rw [if_neg (by exact differ)] at first
  rw [more, List.range_succ_eq_map, List.foldl_cons, List.foldl_map]
  refine List.foldlRecOn (motive := fun t => t = { s.xfBegin m data dest with fail := some (.compareMismatch, false, 2, x.dst) }) _ _ first
    fun t is e mem => ?_
  rw [is]
  exact Xf.elem_failed rfl

/-! The end of a descriptor (R633, R640). -/

/-- A descriptor's outcome: its chain's status, bytes and descriptors completed, and what holds of the memories. -/
def DescWent (s : State) (m : Fin 16) (c : Chain) (i : Instr) (fin : Option Status) (bytes done : Nat) (mem : Mem → Prop) : Prop :=
  ∃ t w k, exec i s = .next t ∧
    t = { s with dev := { s.dev with mov := { s.dev.mov with movers := t.dev.mov.movers } }, mem := t.mem } ∧
    (∀ k, k ≠ m.val → t.dev.mover k = s.dev.mover k) ∧ t.dev.mover m = w ∧ w.chain = some k ∧ w.queue = (s.dev.mover m).queue ∧
    w.halted = false ∧ k.fin = fin ∧ k.bytes = bytes ∧ k.completed = done ∧ k.act = c.act ∧ mem t.mem

/-- The chain while its descriptor runs. -/
def Chain.reads (c : Chain) : Chain := { c with hops := c.hops + 1, stalled := false, targets := [] }

theorem Dev.descRead_is (runs : (s.dev.mover m).chain = some c) :
    s.dev.MoverIs (s.dev.descRead m) m { s.dev.mover m with chain := some c.reads, hops := (s.dev.mover m).hops + 1 } := by
  have read := (((Dev.MoverIs.refl s.dev m).onChain fun c => { c with hops := c.hops + 1 }).onMover fun v => { v with hops := v.hops + 1 }).onChain
    fun c => { c with stalled := false, targets := [] }
  simp only [runs, Option.map_some] at read
  exact read

variable {i : Instr} {m : Fin 16} {data dest : List Byte} {raw : BitVec 512} {mem : Mem → Prop}

/-- A descriptor all of whose elements moved. -/
theorem DescDue.completes {mm : Mem} (due : DescDue s m c x) (is : Desc.ofBits raw = x) (ran : exec i s = .next (s.runDesc m x.op raw data dest))
    (moved : (s.xfBegin m data dest).rows x (x.srcSide c.act) (x.dstSide c.act) = (s.xfBegin m data dest).withMem mm) (holds : mem mm) :
    DescWent s m c i (if x.last then some .ok else none) (c.bytes + 8 * x.count) 1 mem := by
  have step := due.runDesc is data dest
  have after := (Dev.descRead_is due.runs).onChain fun c => c.after x
  rw [show ({ s := { s with dev := s.dev.descRead m }, data, dest, mover := m } : Xf) = s.xfBegin m data dest from rfl, moved] at step
  rw [step] at ran
  obtain ⟨frame, others, is⟩ := after
  refine ⟨{ s with dev := (s.dev.descRead m).onChain m fun c => c.after x, mem := mm }, _, c.reads.after x, ran, ?_, others, is, rfl, rfl, due.going,
    ?_, ?_, ?_, rfl, holds⟩
  · dsimp only
    rw [frame]
  · simp only [Chain.after, Chain.reads, due.unstopped, Bool.false_and, Bool.false_eq_true, if_false]
  · exact congrArg (c.bytes + ·) due.row.bytesMoved
  · exact congrArg (· + 1) due.first

/-- A comparison that fails at its first element. -/
theorem DescDue.mismatches (due : DescDue s m c x) (is : Desc.ofBits raw = x) (ran : exec i s = .next (s.runDesc m x.op raw data dest))
    (failed : (s.xfBegin m data dest).rows x (x.srcSide c.act) (x.dstSide c.act) =
      { s.xfBegin m data dest with fail := some (.compareMismatch, false, 2, x.dst) }) :
    DescWent s m c i (some .compareMismatch) c.bytes 0 fun mm => mm = s.mem := by
  have step := due.runDesc is data dest
  have after := (Dev.descRead_is due.runs).chainFailed (m := m) (st := .compareMismatch) (w := false) (sp := 2) (a := x.dst) rfl
  rw [show ({ s := { s with dev := s.dev.descRead m }, data, dest, mover := m } : Xf) = s.xfBegin m data dest from rfl, failed] at step
  have latched : ({ s with dev := s.dev.descRead m } : State).failChain m .compareMismatch false 2 x.dst = _ :=
    State.failChain_latched (c := c.reads) (by rw [(Dev.descRead_is due.runs).is]) due.unfinished (by decide) (by decide)
  rw [step, Xf.ends] at ran
  obtain ⟨frame, others, is⟩ := after
  refine ⟨{ s with dev := (s.dev.descRead m).chainFailed m .compareMismatch false 2 x.dst }, _, c.reads.failed .compareMismatch false 2 x.dst,
    ran.trans (congrArg Host.Outcome.next latched), ?_, others, is, rfl, rfl, ?_, rfl, rfl, due.first, rfl, rfl⟩
  · dsimp only
    rw [frame]
  · exact (congrArg (· || _) due.going).trans (by decide)

end

end Sys2Proof.Machine
end

section
namespace Sys2Proof.Machine

/-! Chains that end (R199, R634, R636 to R638, R640, R641). -/

/-- Nothing changes but mover `m`, what the movers count, the records, and the Crates in flight. -/
def MoverSide (s t : State) (m : Fin 16) : Prop :=
  t = { s with dev := { s.dev with mov := t.dev.mov, rel := t.dev.rel, hlk := t.dev.hlk, host := t.dev.host } } ∧
    ∀ k, k ≠ m.val → t.dev.mover k = s.dev.mover k

section
variable {s : State} {d : Dev} {m : Fin 16} {w : Mover} {c : Chain} {uid : Nat}

theorem MoverSide.of_is (is : s.dev.MoverIs d m w) : MoverSide s { s with dev := d } m := by
  obtain ⟨frame, others, -⟩ := is
  refine ⟨?_, others⟩
  dsimp only
  rw [frame]

theorem MoverSide.of_log (is : s.dev.MoverIs d m w) (r : Report) : MoverSide s { s with dev := d.log r } m := by
  obtain ⟨frame, others, -⟩ := is
  refine ⟨?_, fun k other => ?_⟩
  · dsimp only
    rw [Dev.log_frame, frame]
  · rw [Dev.log_frame]
    exact others k other

theorem exec_hopLimit (s : State) (m : Fin 16) : exec (.hopLimit m) s = execHopLimit m s := rfl
theorem exec_stop (s : State) (m : Fin 16) : exec (.stop m) s = hostStep s fun d => d.stopChain m := rfl
theorem exec_chainCompletion (s : State) (m : Fin 16) : exec (.chainCompletion m) s = .next (s.endChain m) := rfl
theorem exec_resume (s : State) (m : Fin 16) :
    exec (.resume m) s = startStep s fun d => (d.onMover m fun v => { v with halted := false, err := none }).kick m := rfl

theorem Chain.loops_iff (c : Chain) : c.loops = true ↔ c.completed ≠ 0 ∧ (c.cur = c.act.first ∨ c.act.budget ≤ c.hops) := by
  simp [Chain.loops]

variable (runs : (s.dev.mover m).chain = some c)
include runs

theorem hopLimit_fails (crate : c.act.crate = some uid) (unfinished : c.fin = none) (loops : c.loops = true) :
    exec (.hopLimit m) s = .next (s.onDev fun d => d.chainFailed m .loop false 0 c.cur) := by
  simp only [exec_hopLimit, execHopLimit, runs, loops, crate, Option.isSome_some, if_true]
  rw [State.failChain_latched runs unfinished (by decide) (by decide)]

variable {st : Status} {wr : Bool} {sp a : Nat}

/-- A stalled mover has no request outstanding. -/
theorem requestFails_stalled (stalled : c.stalled = true) : s.requestFails m st wr sp a = s := by
  simp only [State.requestFails, runs, Option.any_some, stalled, if_true]

theorem requestFails_halts (unfinished : c.fin = none) (halts : st = .busError ∨ st = .timeout) (going : c.stalled = false) :
    s.requestFails m st wr sp a = s.onDev fun d => (d.chainFailed m st wr sp a).log (requestReport m c st a) := by
  simp only [State.requestFails, runs, Option.any_some, going, Bool.false_eq_true, if_false]
  exact State.failChain_halts runs unfinished halts

/-- A stop request waits for the next boundary, but for a chain that is stalled on a page-in. -/
theorem stopChain_is (unfinished : c.fin = none) : s.dev.MoverIs (s.dev.stopChain m) m { s.dev.mover m with
    chain := some { c with stop := true, fin := if s.dev.pageStalled c then some .cancelled else none } } := by
  have stopped := (Dev.MoverIs.refl s.dev m).onChain fun c =>
    if c.fin.isSome then c else if s.dev.pageStalled c then { c with stop := true, fin := some .cancelled } else { c with stop := true }
  have chain : (if c.fin.isSome then c else if s.dev.pageStalled c then { c with stop := true, fin := some .cancelled }
      else { c with stop := true }) = { c with stop := true, fin := if s.dev.pageStalled c then some .cancelled else none } := by
    rw [unfinished, Option.isSome_none, if_neg Bool.false_ne_true]
    split
    · rfl
    · rw [← unfinished]
  simp only [runs, Option.map_some, chain] at stopped
  exact stopped

/-- The device after a chain that ended with a status: counted, its Crate decided, the mover idle. -/
def Dev.chainEnded (d : Dev) (m uid : Nat) (c : Chain) (st : Status) : Dev :=
  (({ d with mov := d.mov.countFail st } : Dev).finish uid st (if st ≠ .ok ∧ st ≠ .cancelled then c.failAddr else c.bytes) c.completed).onMover m
    fun v => { v with chain := none }

omit runs in
theorem Mov.countFail_movers (k : Mov) (st : Status) : (k.countFail st).movers = k.movers := by
  cases st <;> rfl

omit runs in
theorem Dev.mover_chainEnded (d : Dev) (k : Nat) : (d.chainEnded m uid c st).mover k =
    if k = m then { d.mover m with chain := none } else d.mover k := by
  have counted : ∀ k, (({ d with mov := d.mov.countFail st } : Dev).mover k) = d.mover k := fun k =>
    congrArg (fun t : Tbl Mover => Tbl.get ({} : Mover) t k) (d.mov.countFail_movers st)
  unfold Dev.chainEnded
  by_cases same : k = m
  · rw [if_pos same, same, Dev.mover_onMover]
    exact congrArg (fun v : Mover => { v with chain := none }) (counted m)
  · rw [if_neg same, Dev.mover_onMover_ne _ _ same]
    exact counted k

omit runs in
theorem MoverSide.chainEnded : MoverSide s (s.onDev fun d => d.chainEnded m uid c st) m :=
  ⟨rfl, fun k other => (s.dev.mover_chainEnded k).trans (if_neg other)⟩

theorem endChain_ends (crate : c.act.crate = some uid) (done : c.fin = some st) (alone : (s.dev.mover m).queue = []) :
    s.endChain m = s.onDev fun d => d.chainEnded m uid c st := by
  have empty : ((s.dev.chainEnded m uid c st).mover m).queue = [] := by
    rw [Dev.mover_chainEnded, if_pos rfl]
    exact alone
  simp only [State.endChain, runs, done, crate]
  exact congrArg (fun d => ({ s with dev := d } : State)) (Dev.kick_empty empty)

end

/-- Settles O32: a change of one mover is followed through each command, and the cells of a row through its elements. -/
theorem moversRunTheirChains : Obligations.moversRunTheirChains := by
  unfold Obligations.moversRunTheirChains
  refine ⟨?move, ?descriptor, ?ends⟩
  case move =>
    intro s uid c m starts named v a leads
    exact ⟨fun turn going room busy => move_queues starts named turn going room busy,
      fun turn going empty still => move_begins starts named turn going empty still, move_waits starts named⟩
  case descriptor =>
    intro s m c raw uid v x runs going unfinished unstopped unstalled first crate aligned clear formed loft one some_ fits owned sound went ends
      readable cellsAt
    have due : x.op ≤ 2 → (x.op ≠ 1 → readable) → DescDue s m c x := fun known src =>
      { runs, going, unfinished, unstopped, unstalled, first, crate := by rw [crate]; rfl, aligned, clear, formed, sound
        row := Desc.cellRow_of_formed formed known loft (fun other => ⟨(src other).1, (src other).2.1⟩) one some_ fits
        src := fun other => ⟨(src other).2.1, (src other).2.2⟩
        dst := ⟨fits, owned⟩ }
    refine ⟨fun fill => ?_, fun copy src apart data => ?_, fun compare src tags data dest => ?_⟩
    · have due := due (by omega) fun other => absurd fill other
      obtain ⟨mm, moved, stored⟩ := due.fill fill [] []
      exact due.completes rfl (by rw [fill]; rfl) moved stored
    · have due := due (by omega) fun _ => src
      obtain ⟨mm, moved, stored⟩ := due.copy copy apart data []
      exact due.completes rfl (by rw [copy]; rfl) moved stored
    · have due := due (by omega) fun _ => src
      have ran : exec (.compare m raw data dest) s = .next (s.runDesc m x.op raw data dest) := by rw [compare]; rfl
      exact ⟨fun same => due.completes (mem := fun mm => mm = s.mem) rfl ran (due.compare_same compare tags same data dest) rfl,
        fun differ => due.mismatches rfl ran (due.compare_differs compare tags differ data dest)⟩
  case ends =>
    intro s m c uid v only runs crate
    have here := Dev.MoverIs.refl s.dev m
    refine ⟨fun unfinished more back => ?limit, fun w sp a i st unfinished kind => ?request, fun served unfinished => ?stop,
      fun st done kind alone live => ?completion, fun served sound => ?resume⟩
    case limit =>
      have failed := here.chainFailed (st := .loop) (w := false) (sp := 0) (a := c.cur) runs
      refine ⟨_, _, hopLimit_fails runs crate unfinished (c.loops_iff.2 ⟨more, back⟩), MoverSide.of_is failed, failed.is.trans ?_, rfl⟩
      simp [Mover.failed, Chain.failed, v]
    case request =>
      have ran : exec i s = .next (s.requestFails m st w sp.toNat a.toNat) := by
        obtain ⟨rfl, rfl⟩ | ⟨rfl, rfl⟩ := kind <;> rfl
      have halts : st = .busError ∨ st = .timeout := by tauto
      refine ⟨fun stalled => ran.trans (congrArg Host.Outcome.next (requestFails_stalled runs stalled)), fun going room => ?_⟩
      have failed := here.chainFailed (st := st) (w := w) (sp := sp.toNat) (a := a.toNat) runs
      rw [requestFails_halts runs unfinished halts going] at ran
      have rel : (s.dev.chainFailed m st w sp.toNat a.toNat).rel = s.dev.rel := by rw [failed.frame]
      refine ⟨_, _, ran, MoverSide.of_log failed _, ?_, (Dev.log_queue _ _ (by rw [rel]; exact room)).trans (by rw [rel]), rfl, rfl, rfl, ?_⟩
      · rw [State.onDev_dev, Dev.log_frame]
        refine failed.is.trans ?_
        simp [Mover.failed, Chain.failed, v, halts, going]
      · exact BitVec.ofNat_toNat ..
    case stop =>
      have stopped := stopChain_is runs unfinished
      exact ⟨_, (exec_stop s m).trans (hostStep_served _ served), MoverSide.of_is stopped, stopped.is⟩
    case completion =>
      obtain ⟨x, live, active⟩ := live
      refine ⟨_, (exec_chainCompletion s m).trans (congrArg Host.Outcome.next (endChain_ends runs crate done alone)), MoverSide.chainEnded,
        (s.dev.mover_chainEnded m).trans (if_pos rfl), ?_, ?_, ?_⟩
      · have decided : Decided s _ uid st _ c.completed := .of_finish (d := { s.dev with mov := s.dev.mov.countFail st }) live
          (by rw [Live.decided, active]; rfl) rfl rfl (t := s.onDev fun d => d.chainEnded m uid c st) rfl
        obtain rfl | rfl := kind <;> exact decided
      · rintro rfl
        simp [Dev.chainEnded, Mov.countFail, Dev.onMover, Dev.finish, satInc]
      · rintro rfl
        rfl
    case resume =>
      have resumed := here.onMover fun v => { v with halted := false, err := none }
      refine ⟨_, (exec_resume s m).trans (startStep_served _ served sound), ?_⟩
      rw [Dev.kick_busy (by rw [resumed.is]; exact Option.isSome_iff_exists.2 ⟨c, runs⟩)]
      exact ⟨MoverSide.of_is resumed, resumed.is⟩

end Sys2Proof.Machine
end

section
namespace Sys2Proof.Machine

/-! Tables of a session's map (R158). -/

theorem mem_dedup {α : Type} [DecidableEq α] {x : α} : ∀ {l : List α}, x ∈ dedup l ↔ x ∈ l
  | [] => Iff.rfl
  | y :: l => by
    rw [dedup, List.mem_cons, List.mem_cons, List.mem_filter, mem_dedup]
    by_cases same : x = y
    · simp [same]
    · simp [same]

/-- The table of a path gets its frame, unless the session has it. -/
def Dev.addTable (d : Dev) (session : Nat) (p : Nat × Nat) : Dev :=
  if d.stk.tables.any fun t => t.session == session && t.level == p.1 && t.key == p.2 then d else
  let used := d.stk.tables.map (·.frame)
  let frame := kthFree used (d.free.toNat % max 1 (d.framesMax - used.length))
  { d.freed with stk := { d.stk with tables := d.stk.tables ++ [{ session, level := p.1, key := p.2, frame }] } }

theorem Dev.addTables_eq (d : Dev) (session : Nat) (idxs : List Nat) :
    d.addTables session idxs = (dedup (idxs.flatMap tablePath)).foldl (fun d p => d.addTable session p) d := rfl

/-- Tables of a session were added, each of the paths among them. -/
structure Dev.TablesAdded (d d' : Dev) (session : Nat) (paths : List (Nat × Nat)) : Prop where
  frame : d' = { d with freeCtr := d'.freeCtr, stk := { d.stk with tables := d'.stk.tables } }
  keeps : ∀ x ∈ d.stk.tables, x ∈ d'.stk.tables
  leads : ∀ p ∈ paths, ∃ x ∈ d'.stk.tables, x.session = session ∧ x.level = p.1 ∧ x.key = p.2

section
variable {d d' : Dev} {session : Nat}

theorem Dev.addTable_adds (p : Nat × Nat) : d.TablesAdded (d.addTable session p) session [p] := by
  unfold Dev.addTable
  split
  · rename_i there
    obtain ⟨x, mem, is⟩ := List.any_eq_true.1 there
    simp only [Bool.and_eq_true, beq_iff_eq, and_assoc] at is
    exact ⟨rfl, fun _ mem => mem, by simpa using ⟨x, mem, is⟩⟩
  · exact ⟨rfl, fun _ mem => List.mem_append_left _ mem, by simp⟩

theorem Dev.TablesAdded.trans {d'' : Dev} {l l' : List (Nat × Nat)} (first : d.TablesAdded d' session l) (then_ : d'.TablesAdded d'' session l') :
    d.TablesAdded d'' session (l ++ l') := by
  obtain ⟨frame, keeps, leads⟩ := first
  obtain ⟨frame', keeps', leads'⟩ := then_
  refine ⟨by rw [frame] at frame'; exact frame', fun x mem => keeps' x (keeps x mem), fun p mem => ?_⟩
  rcases List.mem_append.1 mem with mem | mem
  · obtain ⟨x, mem, is⟩ := leads p mem
    exact ⟨x, keeps' x mem, is⟩
  · exact leads' p mem

theorem Dev.TablesAdded.foldl : ∀ (l : List (Nat × Nat)) (d : Dev), d.TablesAdded (l.foldl (fun d p => d.addTable session p) d) session l
  | [], _ => ⟨rfl, fun _ mem => mem, nofun⟩
  | p :: l, d => (Dev.addTable_adds p).trans (Dev.TablesAdded.foldl l (d.addTable session p))

theorem Dev.addTables_adds (idxs : List Nat) : d.TablesAdded (d.addTables session idxs) session (idxs.flatMap tablePath) := by
  obtain ⟨frame, keeps, leads⟩ := Dev.TablesAdded.foldl (session := session) (dedup (idxs.flatMap tablePath)) d
  rw [Dev.addTables_eq]
  exact ⟨frame, keeps, fun p mem => leads p (mem_dedup.2 mem)⟩

end

/-! ALLOC of Shelves (R148, R150, R151). -/

section
variable {s : State} {uid : Nat} {c : Live} {b : Nat}

/-- The Shelves that an ALLOC maps, over given physical ones. -/
def Dev.newShelves (d : Dev) (c : Live) (b : Nat) (phys : List Nat) : List ShelfEntry :=
  phys.zipIdx.map fun (p, i) =>
    { session := c.session, idx := b + i, handle := (d.session c.session).nextHandle, place := .resident p, spill := c.spill, since := d.tim.ticks }

theorem Dev.newShelves_get {d : Dev} {phys : List Nat} {i p : Nat} (at_ : phys[i]? = some p) : (d.newShelves c b phys)[i]? =
    some { session := c.session, idx := b + i, handle := (d.session c.session).nextHandle, place := .resident p, spill := c.spill
           since := d.tim.ticks } := by
  simp [Dev.newShelves, at_]

/-- The device with the tables that the new Shelves need, and the next handle. -/
def Dev.tabled (d : Dev) (c : Live) (b : Nat) : Dev :=
  (d.newHandle c.session).2.addTables c.session ((d.newShelves c b (d.takeShelves c.count)).map (·.idx))

/-- The device with the new Shelves. -/
def Dev.shelved (d : Dev) (c : Live) (b : Nat) : Dev :=
  let e := d.tabled c b
  { e with stk := { e.stk with shelves := e.stk.shelves ++ d.newShelves c b (d.takeShelves c.count) } }

theorem exec_allocShelves (starts : s.dev.starts uid 5 (fun c => c.num 32 1 == 0) = some c) (test : s.dev.allocShelfTest c = .ok)
    (room : c.count ≤ s.dev.freeShelves) (base : s.dev.shelfBase c = some b) (none : s.dev.stk.allocWait = none) :
    exec (.allocShelves uid) s =
      .next (s.onDev fun d => (d.shelved c b).finish uid .ok (b * shelfBytes) (d.session c.session).nextHandle) := by
  have ran : exec (.allocShelves uid) s = execAllocShelves uid s := rfl
  have id := Dev.uid_of_live (Dev.starts_some starts).1
  have still : ({ s.dev with stk := { s.dev.stk with allocWait := Option.none } } : Dev) = s.dev := by rw [← none]
  rw [ran, execAllocShelves, devStep_eq]
  simp only [starts, test, if_pos room, Dev.mapShelves, base, still, id]
  rfl

/-- What an ALLOC changes beside its Crate. -/
theorem Dev.shelved_frame (d : Dev) (c : Live) (b : Nat) : d.shelved c b = { d with
    freeCtr := (d.shelved c b).freeCtr
    hlk := (d.onSession c.session fun q => { q with nextHandle := q.nextHandle + 1 }).hlk
    stk := { d.stk with
      tables := (d.shelved c b).stk.tables, shelves := d.stk.shelves ++ d.newShelves c b (d.takeShelves c.count) } } := by
  have frame := (Dev.addTables_adds (d := (d.newHandle c.session).2) (session := c.session)
    ((d.newShelves c b (d.takeShelves c.count)).map (·.idx))).frame
  unfold Dev.shelved Dev.tabled
  rw [frame]
  rfl

theorem allocShelves_fails {st : Status} (starts : s.dev.starts uid 5 (fun c => c.num 32 1 == 0) = some c) (test : s.dev.allocShelfTest c = st)
    (bad : st ≠ .ok) : exec (.allocShelves uid) s = .next (s.onDev fun d => d.finish uid st) := by
  have ran : exec (.allocShelves uid) s = execAllocShelves uid s := rfl
  rw [ran, execAllocShelves, devStep_eq]
  simp only [starts]
  split
  · rename_i ok
    exact absurd (test.symm.trans ok) bad
  · rw [test]
    rfl

/-- A command that ends its Crate with a status and does no more. -/
theorem Decided.alone_of_starts {i : Instr} {st : Status} {kind : Nat} {p : Live → Bool} (starts : s.dev.starts uid kind p = some c)
    (ran : exec i s = .next (s.onDev fun d => d.finish uid st)) :
    ∃ t, exec i s = .next t ∧ Decided s t uid st 0 0 ∧ t = { s with dev := { s.dev with hlk := { s.dev.hlk with live := t.dev.hlk.live } } } :=
  ⟨_, ran, .of_starts starts rfl rfl rfl, rfl⟩

/-- The tests of an ALLOC of Shelves that its fields decide. -/
def Dev.allocFormed (d : Dev) (c : Live) : Prop :=
  1 ≤ c.count ∧ c.count ≤ 49152 ∧ c.hint % shelfBytes = 0 ∧ c.hint < 2 ^ 48 ∧ (c.hint ≠ 0 → (d.shelfBase c).isSome = true)

/-- The quota of Shelves has room for an ALLOC. -/
def Dev.allocWithin (d : Dev) (c : Live) : Prop := c.session = 0 ∨ d.stk.held c.session + c.count ≤ (d.session c.session).qShelves

section
variable {d : Dev}

theorem Dev.allocShelfTest_illFormed (bad : ¬ d.allocFormed c) : d.allocShelfTest c = .cfgRange := by
  refine if_pos ?_
  unfold Dev.allocFormed at bad
  rw [← Option.not_isSome]
  by_contra all
  simp only [not_or, not_and, Bool.not_eq_true', Bool.not_eq_false] at all
  obtain ⟨low, high, whole, below, based⟩ := all
  exact bad ⟨by omega, by omega, not_not.1 whole, by omega, based⟩

theorem Dev.allocShelfTest_formed (formed : d.allocFormed c) :
    ¬ (c.count < 1 ∨ 49152 < c.count ∨ c.hint % shelfBytes ≠ 0 ∨ 2 ^ 48 ≤ c.hint ∨ (c.hint ≠ 0 ∧ (d.shelfBase c).isNone)) := by
  obtain ⟨low, high, whole, below, based⟩ := formed
  rintro (bad | bad | bad | bad | ⟨hinted, bad⟩)
  · omega
  · omega
  · exact bad whole
  · omega
  · have some_ := based hinted
    rw [Option.isNone_iff_eq_none.1 bad] at some_
    cases some_

theorem Dev.allocShelfTest_overQuota (formed : d.allocFormed c) (beyond : ¬ d.allocWithin c) : d.allocShelfTest c = .quota := by
  rw [Dev.allocShelfTest, if_neg (Dev.allocShelfTest_formed formed), if_pos]
  unfold Dev.allocWithin at beyond
  omega

theorem Dev.allocShelfTest_noRoom (formed : d.allocFormed c) (within : d.allocWithin c) (few : d.freeShelves + d.pageable < c.count) :
    d.allocShelfTest c = .noShelves := by
  rw [Dev.allocShelfTest, if_neg (Dev.allocShelfTest_formed formed), if_neg, if_pos few]
  unfold Dev.allocWithin at within
  omega

end

theorem allocShelves_maps (starts : s.dev.starts uid 5 (fun c => c.num 32 1 == 0) = some c) (test : s.dev.allocShelfTest c = .ok)
    (room : c.count ≤ s.dev.freeShelves) (base : s.dev.shelfBase c = some b) (none : s.dev.stk.allocWait = none)
    (taken : (s.dev.takeShelves c.count).length = c.count) :
    let h := (s.dev.session c.session).nextHandle
    ∃ t, exec (.allocShelves uid) s = .next t ∧ Decided s t uid .ok (b * shelfBytes) h ∧
      t = { s with dev := { s.dev with
        hlk := t.dev.hlk, freeCtr := t.dev.freeCtr, stk := { s.dev.stk with shelves := t.dev.stk.shelves, tables := t.dev.stk.tables } } } ∧
      (∀ x ∈ s.dev.stk.tables, x ∈ t.dev.stk.tables) ∧
      (∀ i, i < c.count → ∀ p ∈ tablePath (b + i), ∃ x ∈ t.dev.stk.tables, x.session = c.session ∧ x.level = p.1 ∧ x.key = p.2) ∧
      (t.dev.session c.session).nextHandle = h + 1 ∧
      ∃ new, t.dev.stk.shelves = s.dev.stk.shelves ++ new ∧ new.length = c.count ∧
        ∀ i, i < c.count → ∃ e p, new[i]? = some e ∧ (s.dev.takeShelves c.count)[i]? = some p ∧
          e = { session := c.session, idx := b + i, handle := h, place := .resident p, spill := c.spill, since := s.dev.tim.ticks } := by
  intro h
  let idxs := (s.dev.newShelves c b (s.dev.takeShelves c.count)).map (·.idx)
  obtain ⟨-, keeps, leads⟩ : (s.dev.newHandle c.session).2.TablesAdded (s.dev.tabled c b) c.session (idxs.flatMap tablePath) :=
    Dev.addTables_adds idxs
  have frame := s.dev.shelved_frame c b
  have phys : ∀ i, i < c.count → ∃ p, (s.dev.takeShelves c.count)[i]? = some p := fun i lt => ⟨_, List.getElem?_eq_getElem (taken.symm ▸ lt)⟩
  refine ⟨_, exec_allocShelves starts test room base none, ?_, ?_, keeps, fun i lt p mem => ?_, ?_,
    s.dev.newShelves c b (s.dev.takeShelves c.count), ?_, ?_, fun i lt => ?_⟩
  · exact .of_starts starts (by rw [frame]; rfl) (by rw [frame]; rfl) rfl
  · dsimp only [State.onDev]
    rw [Dev.finish_frame, frame]
  · obtain ⟨q, at_⟩ := phys i lt
    have idx : b + i ∈ idxs := List.mem_map.2 ⟨_, List.mem_of_getElem? (Dev.newShelves_get at_), rfl⟩
    exact leads p (List.mem_flatMap.2 ⟨_, idx, mem⟩)
  · dsimp only [State.onDev]
    rw [Dev.session_finish, frame]
    exact congrArg Session.nextHandle ((Dev.session_onSession ..).trans (if_pos rfl))
  · dsimp only [State.onDev]
    rw [Dev.finish_frame, frame]
  · simp [Dev.newShelves, taken]
  · obtain ⟨q, at_⟩ := phys i lt
    exact ⟨_, q, Dev.newShelves_get at_, at_, rfl⟩

end

/-! ALLOC of Loft pages (R154, R155). -/

section
variable {s : State} {uid p : Nat} {c : Live}

theorem Tbl.find_foldl_set {α : Type} (v : α) (p n a : Nat) (t : Tbl α) :
    Tbl.find? ((List.range n).foldl (fun t i => Tbl.set t (p + i) v) t) a = if p ≤ a ∧ a < p + n then some v else Tbl.find? t a := by
  induction n with
  | zero => rw [if_neg (by omega)]; rfl
  | succ n ih =>
    rw [List.range_succ, List.foldl_append, List.foldl_cons, List.foldl_nil, Tbl.find_set, ih]
    by_cases last : a = p + n
    · rw [if_pos last, if_pos (by omega)]
    · rw [if_neg last]
      exact if_congr (by omega) rfl rfl

/-- The device with n Loft pages from p granted to a session under its next handle. -/
def Dev.lofted (d : Dev) (c : Live) (p : Nat) : Dev :=
  let e := (d.newHandle c.session).2
  let grant := { session := c.session, handle := (d.session c.session).nextHandle : LoftPage }
  { e with stk := { e.stk with loft := (List.range c.count).foldl (fun t i => Tbl.set t (p + i) grant) e.stk.loft } }

/-- Where an ALLOC of Loft pages goes. -/
theorem Dev.loftRun_found {d : Dev} (run : d.loftRun p c.count = true) (lowest : c.hint = 0 → ∀ q, q < p → d.loftRun q c.count = false)
    (hinted : c.hint ≠ 0 → p = c.hint) (inside : p < 1024) :
    (if c.hint ≠ 0 then (if d.loftRun c.hint c.count then some c.hint else none)
      else (List.range 1024).find? fun p => d.loftRun p c.count) = some p := by
  by_cases hint : c.hint = 0
  · rw [if_neg (not_not.2 hint)]
    exact List.find?_range_eq_some.2 ⟨run, List.mem_range.2 inside, fun q lt => by rw [lowest hint q lt]; rfl⟩
  · rw [if_pos hint, ← hinted hint, if_pos run]

theorem exec_allocLoft (starts : s.dev.starts uid 5 (fun c => c.num 32 1 == 1) = some c) (some_ : 1 ≤ c.count) (most : c.count ≤ 1024)
    (plain : c.spill = false) (within : c.session = 0 ∨
      (s.dev.stk.loft.filter fun g => g.2.session == c.session).length + c.count ≤ (s.dev.session c.session).qLoft)
    (found : (if c.hint ≠ 0 then (if s.dev.loftRun c.hint c.count then some c.hint else none)
      else (List.range 1024).find? fun p => s.dev.loftRun p c.count) = some p) :
    exec (.allocLoft uid) s =
      .next (s.onDev fun d => (d.lofted c p).finish uid .ok (p * 16384) (d.session c.session).nextHandle) := by
  have ran : exec (.allocLoft uid) s = execAllocLoft uid s := rfl
  have formed : ¬ (c.count < 1 ∨ 1024 < c.count ∨ c.spill = true) := by simp [plain]; omega
  rw [ran, execAllocLoft, devStep_eq]
  simp only [starts, if_neg formed]
  rw [if_neg (by omega)]
  simp only [found]
  rfl

theorem allocLoft_grants (starts : s.dev.starts uid 5 (fun c => c.num 32 1 == 1) = some c)
    (ran : exec (.allocLoft uid) s =
      .next (s.onDev fun d => (d.lofted c p).finish uid .ok (p * 16384) (d.session c.session).nextHandle)) :
    let h := (s.dev.session c.session).nextHandle
    ∃ t, exec (.allocLoft uid) s = .next t ∧ Decided s t uid .ok (p * 16384) h ∧
      t = { s with dev := { s.dev with hlk := t.dev.hlk, stk := { s.dev.stk with loft := t.dev.stk.loft } } } ∧
      ∀ a, Tbl.find? t.dev.stk.loft a =
        if p ≤ a ∧ a < p + c.count then some { session := c.session, handle := h } else Tbl.find? s.dev.stk.loft a :=
  ⟨_, ran, .of_starts (d := s.dev.lofted c p) starts rfl rfl rfl, rfl, fun a => Tbl.find_foldl_set _ p c.count a s.dev.stk.loft⟩

end

/-! FREE (R165, R166). -/

section
variable {s : State} {uid : Nat} {c : Live}

/-- A FREE frees what stands under a session and a handle. -/
def Live.frees (c : Live) (n g : Nat) (freed : Bool) : Bool := n == c.session && g == c.num 32 4 && !freed

theorem Live.frees_iff {n g : Nat} {freed : Bool} : c.frees n g freed = true ↔ (n = c.session ∧ g = c.num 32 4) ∧ freed = false := by
  simp [Live.frees]

/-- What a FREE names is marked. -/
def Stk.marked (k : Stk) (c : Live) : Stk :=
  { k with
    shelves := mapIf (fun e => c.frees e.session e.handle e.freed) (fun e => { e with freed := true }) k.shelves
    loft := k.loft.map fun (a, g) => if c.frees g.session g.handle g.freed then (a, { g with freed := true }) else (a, g)
    programs := mapIf (fun p => c.frees p.session p.handle p.freed) (fun p => { p with freed := true }) k.programs }

/-- A FREE names something. -/
def Stk.names (k : Stk) (c : Live) : Bool :=
  k.shelves.any (fun e => c.frees e.session e.handle e.freed) || k.loft.any (fun (_, g) => c.frees g.session g.handle g.freed) ||
    k.programs.any (fun p => c.frees p.session p.handle p.freed)

theorem exec_free (starts : s.dev.starts uid 6 = some c) : exec (.free uid) s = .next (s.onDev fun d =>
    if d.stk.names c then ({ d with stk := (d.stk.marked c).reclaim } : Dev).finish uid .ok else d.finish uid .cfgRange) := by
  have ran : exec (.free uid) s = execFree uid s := rfl
  rw [ran, execFree, devStep_eq]
  simp only [starts]
  rfl

theorem mem_mapIf {α : Type} {p : α → Bool} {f : α → α} {l : List α} {y : α} :
    y ∈ mapIf p f l ↔ ∃ x ∈ l, (if p x then f x else x) = y := List.mem_map

section
variable {k : Stk}

theorem Stk.marked_shelf_freed {e : ShelfEntry} (mem : e ∈ (k.marked c).shelves) (session : e.session = c.session) (handle : e.handle = c.num 32 4) :
    e.freed = true := by
  obtain ⟨x, -, rfl⟩ := mem_mapIf.1 mem
  by_cases frees : c.frees x.session x.handle x.freed = true
  · rw [if_pos frees]
  · rw [if_neg frees] at session handle ⊢
    simpa [Live.frees, session, handle] using frees

theorem Stk.marked_loft_freed {p : Nat × LoftPage} (mem : p ∈ (k.marked c).loft) (session : p.2.session = c.session) (handle : p.2.handle = c.num 32 4) :
    p.2.freed = true := by
  obtain ⟨⟨a, g⟩, -, rfl⟩ := List.mem_map.1 mem
  by_cases frees : c.frees g.session g.handle g.freed = true
  · simp only [if_pos frees]
  · simp only [if_neg frees] at session handle ⊢
    simpa [Live.frees, session, handle] using frees

theorem Stk.marked_program_freed {p : Program} (mem : p ∈ (k.marked c).programs) (session : p.session = c.session) (handle : p.handle = c.num 32 4) :
    p.freed = true := by
  obtain ⟨x, -, rfl⟩ := mem_mapIf.1 mem
  by_cases frees : c.frees x.session x.handle x.freed = true
  · rw [if_pos frees]
  · rw [if_neg frees] at session handle ⊢
    simpa [Live.frees, session, handle] using frees

/-- What a FREE leaves under its handle has references. -/
theorem Stk.reclaim_marked_shelf {e : ShelfEntry} (mem : e ∈ (k.marked c).reclaim.shelves) (session : e.session = c.session)
    (handle : e.handle = c.num 32 4) : e.freed = true ∧ (e.refs ≠ 0 ∨ e.pins ≠ 0) := by
  obtain ⟨mem, kept⟩ := List.mem_filter.1 mem
  have freed := Stk.marked_shelf_freed mem session handle
  refine ⟨freed, ?_⟩
  simp only [freed, Bool.true_and, Bool.not_eq_true', Bool.and_eq_false_iff, beq_eq_false_iff_ne] at kept
  exact kept

theorem Stk.reclaim_marked_loft {p : Nat × LoftPage} (mem : p ∈ (k.marked c).reclaim.loft) (session : p.2.session = c.session)
    (handle : p.2.handle = c.num 32 4) : p.2.freed = true ∧ p.2.refs ≠ 0 := by
  obtain ⟨mem, kept⟩ := List.mem_filter.1 mem
  have freed := Stk.marked_loft_freed mem session handle
  exact ⟨freed, by simpa [freed] using kept⟩

theorem Stk.reclaim_marked_program {p : Program} (mem : p ∈ (k.marked c).reclaim.programs) (session : p.session = c.session)
    (handle : p.handle = c.num 32 4) : p.freed = true ∧ p.refs ≠ 0 := by
  obtain ⟨mem, kept⟩ := List.mem_filter.1 mem
  have freed := Stk.marked_program_freed mem session handle
  exact ⟨freed, by simpa [freed] using kept⟩

/-- R158: a table that stays leads to a Shelf of its session. -/
theorem Stk.reclaim_table {x : TableFrame} (mem : x ∈ k.reclaim.tables) : ∃ e ∈ k.reclaim.shelves, e.session = x.session := by
  obtain ⟨-, needed⟩ := List.mem_filter.1 mem
  obtain ⟨e, mem, leads⟩ := List.any_eq_true.1 needed
  exact ⟨e, mem, eq_of_beq (Bool.and_eq_true_iff.1 leads).1⟩

theorem Stk.reclaim_keeps_shelf {e : ShelfEntry} (mem : e ∈ k.shelves) (other : ¬ (e.session = c.session ∧ e.handle = c.num 32 4))
    (held : e.freed = false) : e ∈ (k.marked c).reclaim.shelves := by
  have same : ¬ c.frees e.session e.handle e.freed = true := fun frees => other (Live.frees_iff.1 frees).1
  exact List.mem_filter.2 ⟨mem_mapIf.2 ⟨e, mem, if_neg same⟩, by simp [held]⟩

theorem Stk.reclaim_keeps_program {p : Program} (mem : p ∈ k.programs) (other : ¬ (p.session = c.session ∧ p.handle = c.num 32 4))
    (held : p.freed = false) : p ∈ (k.marked c).reclaim.programs := by
  have same : ¬ c.frees p.session p.handle p.freed = true := fun frees => other (Live.frees_iff.1 frees).1
  exact List.mem_filter.2 ⟨mem_mapIf.2 ⟨p, mem, if_neg same⟩, by simp [held]⟩

theorem Stk.names_iff : k.names c = true ↔
    (∃ e ∈ k.shelves, (e.session = c.session ∧ e.handle = c.num 32 4) ∧ e.freed = false) ∨
    (∃ p ∈ k.loft, (p.2.session = c.session ∧ p.2.handle = c.num 32 4) ∧ p.2.freed = false) ∨
    (∃ p ∈ k.programs, (p.session = c.session ∧ p.handle = c.num 32 4) ∧ p.freed = false) := by
  simp only [Stk.names, Bool.or_eq_true, List.any_eq_true, Live.frees_iff, or_assoc]

theorem Stk.names_none (shelves : ∀ e ∈ k.shelves, ¬ (e.session = c.session ∧ e.handle = c.num 32 4))
    (loft : ∀ p ∈ k.loft, ¬ (p.2.session = c.session ∧ p.2.handle = c.num 32 4))
    (programs : ∀ p ∈ k.programs, ¬ (p.session = c.session ∧ p.handle = c.num 32 4)) : ¬ k.names c = true := by
  rw [Stk.names_iff]
  rintro (⟨x, mem, is, -⟩ | ⟨x, mem, is, -⟩ | ⟨x, mem, is, -⟩)
  · exact shelves x mem is
  · exact loft x mem is
  · exact programs x mem is

end

end

/-- Settles O17: an ALLOC ends after its tests over the lowest free room, with the tables of its Shelves beside them; a FREE
marks what its handle names, and the marked without references goes. -/
theorem memoryIsAllocatedAndFreed : Obligations.memoryIsAllocatedAndFreed := by
  refine ⟨fun s uid c b starts test room base none taken => allocShelves_maps starts test room base none taken, fun s uid c starts => ?_,
    fun s uid c p starts some_ most plain within run lowest hinted inside => ?_, fun s uid c starts => ⟨fun named => ?_, fun shelves loft programs => ?_⟩⟩
  · have fails := fun {st} test bad => Decided.alone_of_starts starts (allocShelves_fails (st := st) starts test bad)
    exact ⟨fun bad => fails (Dev.allocShelfTest_illFormed bad) (by decide),
      fun formed beyond => fails (Dev.allocShelfTest_overQuota formed beyond) (by decide),
      fun formed within few => fails (Dev.allocShelfTest_noRoom formed within few) (by decide)⟩
  · exact allocLoft_grants starts (exec_allocLoft starts some_ most plain within (Dev.loftRun_found run lowest hinted inside))
  · have ran := exec_free starts
    rw [State.onDev, if_pos (Stk.names_iff.2 named)] at ran
    exact ⟨_, ran, .of_starts (d := { s.dev with stk := (s.dev.stk.marked c).reclaim }) starts rfl rfl rfl, rfl,
      fun e mem is => Stk.reclaim_marked_shelf mem is.1 is.2, fun p mem is => Stk.reclaim_marked_loft mem is.1 is.2,
      fun p mem is => Stk.reclaim_marked_program mem is.1 is.2, fun x mem => Stk.reclaim_table mem,
      fun e mem other held => Stk.reclaim_keeps_shelf mem other held, fun p mem other held => Stk.reclaim_keeps_program mem other held⟩
  · have ran := exec_free starts
    rw [State.onDev, if_neg (Stk.names_none shelves loft programs)] at ran
    exact Decided.alone_of_starts starts ran

end Sys2Proof.Machine
end

section
namespace Sys2Proof.Machine

/-! RUN Crates wait and start (R186 to R190). -/

section
variable {s : State} {d : Dev} {uid k : Nat} {c : Live}

theorem Dev.live_onLive_found {f : Live → Live} (here : d.live? uid = some c) (keeps : ∀ c, (f c).uid = c.uid) :
    (d.onLive uid f).live? uid = some (f c) := by
  rw [Dev.live_onLive _ _ keeps, here, Option.map_some]

theorem Dev.spu_onLive (d : Dev) (uid k : Nat) (f : Live → Live) : (d.onLive uid f).spu k = d.spu k := rfl
theorem Dev.spu_onSpu_ne {n : Nat} (other : n ≠ k) (f : Spu → Spu) : (d.onSpu k f).spu n = d.spu n := (Tbl.get_upd ..).trans (if_neg other)

theorem run_queues (starts : s.dev.starts uid 1 = some c) : ∃ t, exec (.run uid) s = .next t ∧
    t = { s with dev := { s.dev with hlk := { s.dev.hlk with live := t.dev.hlk.live } } } ∧
    t.dev.live? uid = some { c with phase := .queued s.dev.tim.ticks } := by
  have ran : exec (.run uid) s = execRun uid s := rfl
  rw [ran, execRun, devStep_eq]
  simp only [starts]
  exact ⟨_, rfl, rfl, Dev.live_onLive_found (Dev.starts_some starts).1 fun _ => rfl⟩

/-- The session of a Crate's first copy has been served last in its class (R186). -/
def Dev.servedLast (d : Dev) (c : Live) : Dev :=
  if c.started = 0 then { d with stk := { d.stk with lastServed := Tbl.set d.stk.lastServed c.cls c.session } } else d

/-- Whom the scheduler served last is of its table alone. -/
theorem Dev.servedLast_frame (d : Dev) (c : Live) :
    d.servedLast c = { d with stk := { d.stk with lastServed := (d.servedLast c).stk.lastServed } } := by
  by_cases first : c.started = 0
  · rw [Dev.servedLast, if_pos first]
  · rw [Dev.servedLast, if_neg first]

/-- A Crate that is no gang starts one copy, on the best SPU. -/
theorem Dev.startCrate_single (single : c.gang = false) (best : d.bestSpu c = some k) :
    d.startCrate c = (d.servedLast c).startOn c.uid k := by
  have one : c.needs = 1 := by rw [Live.needs, single]; rfl
  have best : (d.servedLast c).bestSpu c = some k := by rw [d.servedLast_frame]; exact best
  have start : d.startCrate c = (List.range c.needs).foldl (fun d _ => match d.bestSpu c with
    | some k => d.startOn c.uid k
    | none => d) (d.servedLast c) := rfl
  rw [start, one, List.range_one, List.foldl_cons, List.foldl_nil]
  simp only [best]

/-- A copy of a Crate was put on an SPU. -/
structure Dev.CopyStarted (d d' : Dev) (c : Live) (k : Nat) : Prop where
  frame : d' = { d with hlk := { d.hlk with live := d'.hlk.live }, stk := { d.stk with spus := d'.stk.spus }, insts := d'.insts }
  copy : Tbl.find? d'.insts (c.uid * 64 + c.started) = some (d.entryInst c c.started k)
  others : ∀ n, n ≠ c.uid * 64 + c.started → Tbl.find? d'.insts n = Tbl.find? d.insts n
  runs : (d'.spu k).runs = some (c.uid * 64 + c.started)
  spus : ∀ n, n ≠ k → d'.spu n = d.spu n
  live : d'.live? c.uid = some { c with started := c.started + 1, phase := .active, hold := false }

theorem Dev.startOn_starts (here : d.live? c.uid = some c) : d.CopyStarted (d.startOn c.uid k) c k := by
  have is : d.startOn c.uid k = (((d.setInst (c.uid * 64 + c.started) (d.entryInst c c.started k)).onSpu k fun u =>
      { u with runs := some (c.uid * 64 + c.started), heldFor := [] }).onLive c.uid fun c =>
      { c with started := c.started + 1, phase := .active, hold := false }) := by
    rw [Dev.startOn, here]
  rw [is]
  refine ⟨rfl, Tbl.find_set_self .., fun n other => Tbl.find_set_ne other, ?_, fun n other => ?_, ?_⟩
  · rw [Dev.spu_onLive, Dev.spu_onSpu]
  · rw [Dev.spu_onLive, Dev.spu_onSpu_ne other]
    rfl
  · exact Dev.live_onLive_found here fun _ => rfl

/-- Registers of a copy at its entry (R575, R576). -/
theorem Dev.entryInst_regs (d : Dev) (c : Live) (num k : Nat) : let r := (d.entryInst c num k).regs
    r.gs 0 = BitVec.ofNat 32 num ∧ r.gs 1 = BitVec.ofNat 32 c.nspu ∧ r.gs 2 = BitVec.ofNat 32 (c.num 40 4) ∧
    r.gs 3 = BitVec.ofNat 32 (c.num 44 4) ∧ r.gs 4 = BitVec.ofNat 32 c.session ∧ r.gs 5 = BitVec.ofNat 32 c.ngrant ∧
    (∀ n, 6 ≤ n → r.gs n = 0) ∧ ∀ n l, r.gc n l = {} := by
  refine ⟨rfl, rfl, rfl, rfl, rfl, rfl, fun n high => ?_, fun _ _ => rfl⟩
  have none : ∀ j, j < 6 → n ≠ j := fun j low => by omega
  simp [Regs.gs, Dev.entryInst, Tbl.get, Tbl.find?, none 0, none 1, none 2, none 3, none 4, none 5]

theorem instanceStart_starts {p : Program} (first : bestBy s.dev.before (s.dev.hlk.live.filter s.dev.canStart) = some c)
    (here : s.dev.live? c.uid = some c) (single : c.gang = false) (best : s.dev.bestSpu c = some k)
    (program : s.dev.program? c.session (c.num 32 4) = some p) :
    let key := c.uid * 64 + c.started
    ∃ t i, exec .instanceStart s = .next t ∧
      t = { s with dev := { s.dev with hlk := { s.dev.hlk with live := t.dev.hlk.live }, stk := t.dev.stk, insts := t.dev.insts } } ∧
      Tbl.find? t.dev.insts key = some i ∧ (∀ n, n ≠ key → Tbl.find? t.dev.insts n = Tbl.find? s.dev.insts n) ∧
      (t.dev.spu k).runs = some key ∧ (∀ n, n ≠ k → t.dev.spu n = s.dev.spu n) ∧
      t.dev.live? c.uid = some { c with started := c.started + 1, phase := .active, hold := false } ∧
      i.uid = c.uid ∧ i.num = c.started ∧ i.session = c.session ∧ i.seat = .onSpu k ∧ i.regs.pc = p.entry ∧ i.regs.flags = 0 ∧
      i.regs.gs 0 = BitVec.ofNat 32 c.started ∧ i.regs.gs 1 = BitVec.ofNat 32 c.nspu ∧ i.regs.gs 2 = BitVec.ofNat 32 (c.num 40 4) ∧
      i.regs.gs 3 = BitVec.ofNat 32 (c.num 44 4) ∧ i.regs.gs 4 = BitVec.ofNat 32 c.session ∧ i.regs.gs 5 = BitVec.ofNat 32 c.ngrant ∧
      (∀ n, 6 ≤ n → i.regs.gs n = 0) ∧ (∀ n l, i.regs.gc n l = {}) ∧ i.iq = [] ∧ i.oq = [] := by
  have ran : exec .instanceStart s = .next (s.onDev fun d => (d.servedLast c).startOn c.uid k) := by
    have ran : exec .instanceStart s = execInstanceStart s := rfl
    rw [ran, execInstanceStart, devStep_eq]
    simp only [first, Dev.startCrate_single single best]
    rfl
  have same := s.dev.servedLast_frame c
  have here' : (s.dev.servedLast c).live? c.uid = some c := by rw [same]; exact here
  have entry : ((s.dev.servedLast c).entryInst c c.started k).regs.pc = p.entry := by
    rw [same]
    exact congrArg (Option.elim · 0 Program.entry) program
  obtain ⟨frame, copy, others, runs, spus, live⟩ := Dev.startOn_starts (k := k) here'
  obtain ⟨g0, g1, g2, g3, g4, g5, high, cells⟩ := (s.dev.servedLast c).entryInst_regs c c.started k
  refine ⟨_, _, ran, ?_, copy, fun n other => ?_, runs, fun n other => ?_, live, rfl, rfl, rfl, rfl, entry, rfl, g0, g1, g2, g3, g4, g5,
    high, cells, rfl, rfl⟩
  · dsimp only [State.onDev]
    rw [frame, same]
  · rw [State.onDev, others n other, same]
  · rw [State.onDev, spus n other, same]
    rfl

/-- One Crate in flight changes, and nothing else. -/
def OneLive (s : State) (i : Instr) (uid : Nat) (c : Live) : Prop :=
  ∃ t, exec i s = .next t ∧ t = { s with dev := { s.dev with hlk := { s.dev.hlk with live := t.dev.hlk.live } } } ∧
    t.dev.live? uid = some c ∧ ∀ n, n ≠ uid → t.dev.live? n = s.dev.live? n

theorem OneLive.of_onLive {i : Instr} {f : Live → Live} (here : s.dev.live? uid = some c) (keeps : ∀ c, (f c).uid = c.uid)
    (ran : exec i s = .next (s.onDev fun d => d.onLive uid f)) : OneLive s i uid (f c) :=
  ⟨_, ran, rfl, Dev.live_onLive_found here keeps, fun _ other => Dev.live_onLive_other other keeps⟩

theorem exec_crateAgeing (here : s.dev.live? uid = some c) : exec (.crateAgeing uid) s = .next (s.onDev fun d =>
    if d.ordered c ∧ 4 < c.cls ∧ fld d.stk.ctl 8 8 ≠ 0 then d.onLive uid fun c => { c with cls := c.cls - 1 } else d) := by
  have ran : exec (.crateAgeing uid) s = execCrateAgeing uid s := rfl
  rw [ran, execCrateAgeing, devStep_eq]
  simp only [here]
  rfl

theorem exec_gangHold {since : BitVec 64} (here : s.dev.live? uid = some c) (queued : c.phase = .queued since) :
    exec (.gangHold uid) s = .next (s.onDev fun d =>
      if c.gang && d.startable c && !d.canStart c && decide ((d.tim.ticks - since).toNat > ticksUs 100) then
        d.onLive uid fun c => { c with hold := true }
      else d) := by
  have ran : exec (.gangHold uid) s = execGangHold uid s := rfl
  rw [ran, execGangHold, devStep_eq]
  simp only [here, queued]
  rfl

end

/-- Settles O20: a start runs the first Crate that can start on its best SPU, from its entry; ageing and the hold of a gang
change the one Crate that they name. -/
theorem runsAreScheduled : Obligations.runsAreScheduled := by
  refine ⟨fun s c => ⟨fun uid starts => run_queues starts, fun k p first here single best program =>
    instanceStart_starts first here single best program⟩, fun s uid c here => ⟨fun ordered above enabled => ?_, fun low => ?_,
    fun since queued gang startable stuck => ⟨fun long => ?_, fun short => ?_⟩⟩⟩
  · refine OneLive.of_onLive (f := fun c => { c with cls := c.cls - 1 }) here (fun _ => rfl) ?_
    rw [exec_crateAgeing here, State.onDev, if_pos ⟨ordered, above, enabled⟩]
    rfl
  · rw [exec_crateAgeing here, State.onDev, if_neg fun may => absurd may.2.1 (by omega)]
  · refine OneLive.of_onLive (f := fun c => { c with hold := true }) here (fun _ => rfl) ?_
    rw [exec_gangHold here queued, State.onDev, if_pos (by rw [gang, startable, stuck]; exact decide_eq_true long)]
    rfl
  · have early : ¬ (s.dev.tim.ticks - since).toNat > ticksUs 100 := Nat.not_lt.2 short
    rw [exec_gangHold here queued, State.onDev, if_neg fun may => early (of_decide_eq_true (Bool.and_eq_true_iff.1 may).2)]

end Sys2Proof.Machine
end

section
namespace Sys2Proof.Machine

/-! Copies leave their SPUs and come back (R192 to R196). -/

section
variable {d : Dev} {key k : Nat} {i : Inst} {c : Live}

theorem Dev.group_single (copy : Tbl.find? d.insts key = some i) (here : d.live? i.uid = some c) (single : c.gang = false) :
    d.group key = [key] := by
  simp [Dev.group, copy, here, single]

theorem Dev.anyHalted_single (copy : Tbl.find? d.insts key = some i) : d.anyHalted [key] = i.halted := by
  simp [Dev.anyHalted, copy]

theorem lowestFree_length_of_nil {hi : Nat} : ∀ fuel lo n, n ≤ fuel → lo + n ≤ hi → (lowestFree [] hi fuel lo n).length = n
  | 0, _, n, enough, _ => (Nat.le_zero.1 enough).symm
  | fuel + 1, lo, n, enough, fits => by
    unfold lowestFree
    by_cases zero : n = 0
    · rw [if_pos (.inl zero), zero]; rfl
    · rw [if_neg (by omega), if_neg (by simp), List.length_cons,
        lowestFree_length_of_nil fuel (lo + 1) (n - 1) (by omega) (by omega)]
      omega

/-- A copy that was saved: its seat, and the SPU that it left. -/
def Dev.savedTo (d : Dev) (key k : Nat) (i : Inst) (slots : List Nat) : Dev :=
  (d.setInst key { i with seat := .saved slots }).onSpu k fun u => { u with runs := none, moving := 0, heldFor := d.holders.map (·.uid) }

theorem Dev.savedTo_spu (slots : List Nat) : (d.savedTo key k i slots).spu k =
    { d.spu k with runs := none, moving := 0, heldFor := d.holders.map (·.uid) } := Dev.spu_onSpu (d.setInst key _) ..

theorem Dev.savedTo_spu_ne {n : Nat} (slots : List Nat) (other : n ≠ k) : (d.savedTo key k i slots).spu n = d.spu n :=
  Dev.spu_onSpu_ne (d := d.setInst key _) other _

theorem Dev.spu_countPreempt (d : Dev) (n j : Nat) : (d.countPreempt n).spu j = d.spu j := rfl

/-- R194, R195: a copy between two bundles is saved into an empty context store that has room for it. -/
theorem Dev.saveInst_saves (copy : Tbl.find? d.insts key = some i) (seat : i.seat = .onSpu k) (idle : i.issue = none)
    (empty : d.ctxUsed = []) (fits : d.ctxNeed i ≤ d.ctxCapacity) (stays : (d.spu k).retireWait = false) :
    ∃ slots, slots.length = d.ctxNeed i ∧ d.saveInst key = some (d.savedTo key k i slots) := by
  have length := lowestFree_length_of_nil (hi := d.ctxCapacity) (d.ctxNeed i) 0 (d.ctxNeed i) (Nat.le_refl _) (by omega)
  refine ⟨_, length, ?_⟩
  have same : { i with seat := .saved (lowestFree [] d.ctxCapacity (d.ctxNeed i) 0 (d.ctxNeed i)), issue := none } =
      { i with seat := .saved (lowestFree [] d.ctxCapacity (d.ctxNeed i) 0 (d.ctxNeed i)) } := by rw [← idle]
  have stays' : ∀ j, ((d.setInst key j).spu k).retireWait = false := fun _ => stays
  unfold Dev.saveInst
  simp only [copy, seat, empty, idle, List.length_nil, Nat.zero_add, Option.elim_none]
  rw [if_neg (by omega), Dev.vacate, stays', if_neg Bool.false_ne_true, same]
  rfl

theorem Dev.saveAll_single (d : Dev) (key : Nat) : d.saveAll [key] = d.saveInst key := by
  simp [Dev.saveAll]

theorem Dev.mem_freeSpus {n : Nat} : n ∈ d.freeSpus ↔
    n < 68 ∧ (d.spu n).retired = false ∧ (d.spu n).spare = false ∧ (d.spu n).runs = none ∧ (d.spu n).moving = 0 := by
  simp [Dev.freeSpus, and_assoc]

theorem Dev.freeFor_subset {n : Nat} (mem : n ∈ d.freeFor c) : n ∈ d.freeSpus := (List.mem_filter.1 mem).1

theorem Dev.bestSpu_mem {j : Nat} (best : d.bestSpu c = some j) : j ∈ d.freeFor c :=
  (bestBy_least (f := d.load) (fun _ _ => decide_eq_true_iff) best).1

/-- A saved copy sits on an SPU again (R196). -/
theorem Dev.seatOn_seats (copy : Tbl.find? d.insts key = some i) : d.seatOn key k =
    (d.setInst key { i with seat := .onSpu k }).onSpu k fun u => { u with runs := some key, heldFor := [] } := by
  rw [Dev.seatOn, copy]

end

/-! Preemption (R192). -/

section
variable {d : Dev} {key k : Nat} {i : Inst} {c v : Live}

theorem Dev.pickVictims_enough {n : Nat} {acc : List Nat} (enough : n ≤ acc.length) :
    ∀ l : List (Nat × Inst × Live), d.pickVictims n l acc = acc
  | [] => rfl
  | _ :: _ => if_pos enough

/-- A Crate of a class more urgent than the one copy that runs. -/
structure Dev.MayPreempt (d : Dev) (key k : Nat) (i : Inst) (c v : Live) : Prop where
  insts : d.insts = [(key, i)]
  uid : i.uid = v.uid
  live : d.live? v.uid = some v
  seat : i.seat = .onSpu k
  idle : i.issue = none
  halted : i.halted = false
  single : v.gang = false
  alone : c.gang = false
  urgent : c.cls < v.cls
  room : 0 < d.spuRoom c.session
  full : d.freeSpus = []
  fits : d.ctxNeed i ≤ d.ctxCapacity
  stays : (d.spu k).retireWait = false

theorem Dev.MayPreempt.copy (may : d.MayPreempt key k i c v) : Tbl.find? d.insts key = some i := by
  rw [may.insts]
  exact if_pos rfl

theorem Dev.MayPreempt.group (may : d.MayPreempt key k i c v) : d.group key = [key] :=
  Dev.group_single may.copy (may.uid ▸ may.live) may.single

theorem Dev.MayPreempt.victims (may : d.MayPreempt key k i c v) : d.victims c.cls = [(key, i, v)] := by
  have fresh : d.anyHalted (d.group key) = false := by rw [may.group, Dev.anyHalted_single may.copy, may.halted]
  have live : d.live? i.uid = some v := may.uid ▸ may.live
  unfold Dev.victims
  rw [may.insts]
  simp only [List.filterMap_cons, List.filterMap_nil, live, may.seat, fresh, may.urgent, Bool.not_false, and_self, if_true]
  rfl

/-- The device whose one running copy was preempted. -/
def Dev.preempted (d : Dev) (key k : Nat) (i : Inst) (slots : List Nat) : Dev :=
  ((d.savedTo key k i slots).onSpu k fun u => { u with heldFor := [] }).countPreempt 1

theorem Dev.MayPreempt.preempts (may : d.MayPreempt key k i c v) : ∃ slots, slots.length = d.ctxNeed i ∧
    d.preemptFor c = some (true, (d.preempted key k i slots).startCrate c) := by
  have used : d.ctxUsed = [] := by
    rw [Dev.ctxUsed, may.insts]
    simp [may.seat]
  obtain ⟨slots, length, saved⟩ := Dev.saveInst_saves may.copy may.seat may.idle used may.fits may.stays
  have needs : c.needs = 1 := by rw [Live.needs, may.alone]; rfl
  have none : d.freeFor c = [] := by rw [Dev.freeFor, may.full]; rfl
  have own : ∀ l, d.pickVictims (1 - d.spuRoom c.session) l [] = [] :=
    Dev.pickVictims_enough (by have := may.room; simp; omega)
  have pick : d.pickVictims (1 - 0) [(key, i, v)] [] = [key] := by
    rw [Dev.pickVictims, may.group]
    rfl
  refine ⟨slots, length, ?_⟩
  unfold Dev.preemptFor
  simp only [may.victims, needs, own, none, List.length_nil, pick, Dev.saveAll_single, saved]
  rw [if_neg (by have := may.room; simp; omega)]
  simp only [List.filterMap_cons, List.filterMap_nil, may.copy, Option.bind_some, may.seat]
  rfl

/-- The SPU that was freed is the one that the Crate takes. -/
theorem Dev.MayPreempt.freed (may : d.MayPreempt key k i c v) (slots : List Nat) (low : k < 68) (good : (d.spu k).retired = false)
    (used : (d.spu k).spare = false) : (d.preempted key k i slots).bestSpu c = some k := by
  have spu : (d.preempted key k i slots).spu k = { d.spu k with runs := none, moving := 0, heldFor := [] } := by
    rw [Dev.preempted, Dev.spu_countPreempt, Dev.spu_onSpu, Dev.savedTo_spu]
  have others : ∀ n, n ≠ k → (d.preempted key k i slots).spu n = d.spu n := fun n other => by
    rw [Dev.preempted, Dev.spu_countPreempt, Dev.spu_onSpu_ne other, Dev.savedTo_spu_ne slots other]
  have free : k ∈ (d.preempted key k i slots).freeFor c :=
    List.mem_filter.2 ⟨Dev.mem_freeSpus.2 ⟨low, by rw [spu]; exact good, by rw [spu]; exact used, by rw [spu], by rw [spu]⟩, by simp [spu]⟩
  obtain ⟨j, best⟩ := bestBy_some (fun a b => decide ((d.preempted key k i slots).load a < (d.preempted key k i slots).load b))
    (List.ne_nil_of_mem free)
  have only : j = k := by
    by_contra other
    have mem := Dev.mem_freeSpus.1 (Dev.freeFor_subset (Dev.bestSpu_mem best))
    rw [others j other] at mem
    exact List.not_mem_nil (may.full ▸ Dev.mem_freeSpus.2 mem)
  exact only ▸ best

theorem preempt_single {s : State} (enabled : bit s.dev.stk.ctl 3 = true)
    (stuck : s.dev.hlk.live.filter (fun c => c.isQueued && s.dev.waitsForSpu c && !s.dev.canStart c && decide (c.cls ≤ fld s.dev.stk.ctl 0 3)) = [c]) :
    exec .preemption s = .next (s.onDev fun d => ((d.preemptFor c).getD (false, d)).2) := by
  have ran : exec .preemption s = execPreemption s := rfl
  rw [ran, execPreemption, devStep_eq]
  unfold Dev.preempt
  simp only [stuck, enabled]
  rfl

end

/-! Retirement of an SPU (R205, R206, R806). -/

section
variable {d : Dev} {k j : Nat}

/-- An SPU is marked retired and the map of the SPUs is written. -/
def Dev.markRetired (d : Dev) (k : Nat) : Dev :=
  (d.onSpu k fun u => { u with retired := true, spare := false, runs := none, moving := 0, retireWait := false }).spuMap

/-- The lowest spare joins the schedulable set. -/
def Dev.joinSpare (d : Dev) : Dev :=
  match (List.range 68).find? fun j => (d.spu j).spare && !(d.spu j).retired with
  | some j => d.onSpu j fun u => { u with spare := false, heldFor := d.holders.map (·.uid) }
  | none => d

theorem Dev.failOversize_none (none : ∀ c ∈ d.hlk.live, c.isRun = false ∨ c.started ≠ 0) : d.failOversize = d := by
  have waiting : (d.hlk.live.filter fun c => c.admitted && c.isRun && c.started == 0 && !c.decided && decide (c.nspu > d.schedulable)) = [] := by
    refine List.filter_eq_nil_iff.2 fun c mem may => ?_
    simp only [Bool.and_eq_true, beq_iff_eq] at may
    obtain ⟨⟨⟨⟨-, run⟩, fresh⟩, -⟩, -⟩ := may
    rcases none c mem with is | is
    · rw [run] at is; cases is
    · exact is fresh
  rw [Dev.failOversize, waiting]
  rfl

theorem Dev.joinSpare_frame (d : Dev) : d.joinSpare = { d with stk := { d.stk with spus := d.joinSpare.stk.spus } } := by
  unfold Dev.joinSpare
  split <;> rfl

theorem Dev.joinSpare_other (plain : (d.spu j).spare = false) : d.joinSpare.spu j = d.spu j := by
  unfold Dev.joinSpare
  split
  · rename_i n found
    have spare := (Bool.and_eq_true_iff.1 (List.find?_some (p := fun j => (d.spu j).spare && !(d.spu j).retired) found)).1
    exact Dev.spu_onSpu_ne (fun same => by rw [← same, plain] at spare; cases spare) _
  · rfl

theorem Dev.joinSpare_lowest (low : j < 68) (spare : (d.spu j).spare = true) (good : (d.spu j).retired = false)
    (first : ∀ i, i < j → (d.spu i).spare = true → (d.spu i).retired = true) : (d.joinSpare.spu j).spare = false := by
  have found : ((List.range 68).find? fun j => (d.spu j).spare && !(d.spu j).retired) = some j := by
    refine List.find?_range_eq_some.2 ⟨by rw [spare, good]; rfl, List.mem_range.2 low, fun i lt => ?_⟩
    cases is : (d.spu i).spare
    · rfl
    · rw [first i lt is]; rfl
  rw [Dev.joinSpare, found]
  exact congrArg Spu.spare (Dev.spu_onSpu ..)

theorem Dev.retireSpu_eq (good : (d.spu k).retired = false) (used : (d.spu k).spare = false)
    (none : ∀ c ∈ d.hlk.live, c.isRun = false ∨ c.started ≠ 0) : d.retireSpu k = (d.markRetired k).joinSpare := by
  have live : (d.markRetired k).joinSpare.hlk.live = d.hlk.live := by rw [Dev.joinSpare_frame]; rfl
  have fit : (d.markRetired k).joinSpare.failOversize = (d.markRetired k).joinSpare := Dev.failOversize_none (by rw [live]; exact none)
  rw [← fit, Dev.retireSpu]
  simp only [good, used, Bool.false_eq_true, if_false]
  rfl

theorem Dev.markRetired_spu : (d.markRetired k).spu k =
    { d.spu k with retired := true, spare := false, runs := none, moving := 0, retireWait := false } := Dev.spu_onSpu ..

theorem Dev.markRetired_spu_ne (other : j ≠ k) : (d.markRetired k).spu j = d.spu j := Dev.spu_onSpu_ne other _

theorem Dev.retired_spu : (d.markRetired k).joinSpare.spu k =
    { d.spu k with retired := true, spare := false, runs := none, moving := 0, retireWait := false } := by
  rw [Dev.joinSpare_other (by rw [Dev.markRetired_spu]), Dev.markRetired_spu]

theorem Dev.retired_spu_ne (other : j ≠ k) (plain : (d.spu j).spare = false) : (d.markRetired k).joinSpare.spu j = d.spu j := by
  rw [Dev.joinSpare_other (by rw [Dev.markRetired_spu_ne other]; exact plain), Dev.markRetired_spu_ne other]

theorem Dev.retired_hlk : (d.markRetired k).joinSpare.hlk = d.hlk := by rw [Dev.joinSpare_frame]; rfl
theorem Dev.retired_insts : (d.markRetired k).joinSpare.insts = d.insts := by rw [Dev.joinSpare_frame]; rfl
theorem Dev.retired_preempts : (d.markRetired k).joinSpare.stk.preempts = d.stk.preempts := by rw [Dev.joinSpare_frame]; rfl

theorem exec_stkSpuRetire {s : State} (k : BitVec 7) (served : s.dev.served = true) (alive : s.dev.rel.devFault = false) :
    exec (.stkSpuRetire k) s = .next (s.onDev fun d => d.retireRequest k.toNat) := startStep_served _ served alive

end

end Sys2Proof.Machine
end

section
namespace Sys2Proof.Machine

section
variable {s : State} {key k : Nat} {i : Inst} {c v : Live}

theorem stuck_single (live : s.dev.hlk.live = [v, c]) (active : v.phase = .active) (queued : c.isQueued = true)
    (waits : s.dev.waitsForSpu c = true) (alone : c.gang = false) (full : s.dev.freeSpus = []) (may : c.cls ≤ fld s.dev.stk.ctl 0 3) :
    s.dev.hlk.live.filter (fun c => c.isQueued && s.dev.waitsForSpu c && !s.dev.canStart c && decide (c.cls ≤ fld s.dev.stk.ctl 0 3)) = [c] := by
  have runs : v.isQueued = false := by rw [Live.isQueued, active]
  have needs : c.needs = 1 := by rw [Live.needs, alone]; rfl
  have none : s.dev.freeFor c = [] := by rw [Dev.freeFor, full]; rfl
  have cannot : s.dev.canStart c = false := by simp [Dev.canStart, needs, none]
  rw [live, List.filter_cons_of_neg (by simp [runs]), List.filter_cons_of_pos (by simp [queued, waits, cannot, may]), List.filter_nil]

theorem Dev.live_congr {d e : Dev} {n : Nat} (live : d.hlk.live = e.hlk.live) : d.live? n = e.live? n := by
  rw [Dev.live?, Dev.live?, live]

/-- R192, R194, R195: what a preemption leaves. -/
theorem preemption_starts (may : s.dev.MayPreempt key k i c v) (low : k < 68) (good : (s.dev.spu k).retired = false)
    (used : (s.dev.spu k).spare = false) (fresh : c.started = 0) (here : s.dev.live? c.uid = some c) (other : key ≠ c.uid * 64)
    (ran : exec .preemption s = .next (s.onDev fun d => ((d.preemptFor c).getD (false, d)).2)) :
    ∃ t slots, exec .preemption s = .next t ∧ t.mem = s.mem ∧ Tbl.find? t.dev.insts key = some { i with seat := .saved slots } ∧
      slots.length = s.dev.ctxNeed i ∧ (t.dev.spu k).runs = some (c.uid * 64) ∧
      t.dev.stk.preempts.toNat = min (s.dev.stk.preempts.toNat + 1) 0xFFFF ∧
      ∃ j, Tbl.find? t.dev.insts (c.uid * 64) = some j ∧ j.uid = c.uid := by
  obtain ⟨slots, length, preempts⟩ := may.preempts
  have same := (s.dev.preempted key k i slots).servedLast_frame c
  have here' : ((s.dev.preempted key k i slots).servedLast c).live? c.uid = some c :=
    (Dev.live_congr (by rw [same]; rfl)).trans here
  obtain ⟨frame, copy, others, runs, -, -⟩ := Dev.startOn_starts (k := k) here'
  rw [fresh, Nat.add_zero] at copy others runs
  rw [State.onDev, preempts, Option.getD_some, Dev.startCrate_single may.alone (may.freed slots low good used)] at ran
  refine ⟨_, slots, ran, rfl, ?_, length, runs, ?_, _, copy, rfl⟩
  · rw [others key other, same]
    exact Tbl.find_set_self ..
  · dsimp only
    rw [frame, same]
    exact satInc_toNat ..

/-- The saved copies that resume with one of a Crate. -/
def Dev.savedCopies (d : Dev) (v : Live) (num : Nat) : List (Nat × Inst) :=
  d.insts.filter fun (_, i) => i.uid == v.uid && (v.gang || i.num == num) && (match i.seat with | .saved _ => true | _ => false)

theorem exec_instanceResume {num : Nat} (here : s.dev.live? v.uid = some v) : exec (.instanceResume v.uid num) s = .next (s.onDev fun d =>
    let saved := (d.savedCopies v num).map (·.1)
    if d.rel.devFault ∨ saved.length > (d.freeFor v).length ∨ saved.length > d.spuRoom v.session then d
    else saved.foldl (fun d key => match d.bestSpu v with
      | some k => d.seatInst key k
      | none => d) d) := by
  have ran : exec (.instanceResume v.uid num) s = execInstanceResume v.uid num s := rfl
  rw [ran, execInstanceResume, devStep_eq]
  simp only [here]
  rfl

/-- R196: the one copy that a resume names. -/
theorem savedCopies_single {slots : List Nat} (copy : Tbl.find? s.dev.insts key = some i) (uid : i.uid = v.uid) (single : v.gang = false)
    (seat : i.seat = .saved slots) (unique : ∀ p ∈ s.dev.insts, p.2.uid = v.uid → p.2.num = i.num → p = (key, i)) (nodup : s.dev.insts.Nodup) :
    s.dev.savedCopies v i.num = [(key, i)] := by
  by_contra more
  rcases (nodup.filter _).ne_singleton_iff _ |>.1 more with none | ⟨p, mem, other⟩
  · exact List.filter_eq_nil_iff.1 none (key, i) (Tbl.mem_of_find copy) (by simp [uid, seat])
  · obtain ⟨mem, is⟩ := List.mem_filter.1 mem
    simp only [single, Bool.false_or, Bool.and_eq_true, beq_iff_eq] at is
    exact other (unique p mem is.1.1 is.1.2)

theorem instanceResume_seats {slots : List Nat} (copy : Tbl.find? s.dev.insts key = some i) (uid : i.uid = v.uid)
    (here : s.dev.live? v.uid = some v) (single : v.gang = false) (stays : ∀ n, (s.dev.spu n).retireWait = false)
    (seat : i.seat = .saved slots) (alive : s.dev.rel.devFault = false) (room : 0 < s.dev.spuRoom v.session)
    (unique : ∀ p ∈ s.dev.insts, p.2.uid = v.uid → p.2.num = i.num → p = (key, i)) (nodup : s.dev.insts.Nodup)
    (best : s.dev.bestSpu v = some k) : exec (.instanceResume v.uid i.num) s = .next (s.onDev fun d => d.seatOn key k) := by
  have free : 0 < (s.dev.freeFor v).length := List.length_pos_of_mem (Dev.bestSpu_mem best)
  have quiet : (s.dev.seatOn key k).pokeRetire = s.dev.seatOn key k := by
    refine Dev.pokeRetire_idle fun n => ?_
    rw [Dev.seatOn_seats copy]
    by_cases here : n = k
    · rw [here, Dev.spu_onSpu]
      exact stays k
    · rw [Dev.spu_onSpu_ne here]
      exact stays n
  have go : ¬ (s.dev.rel.devFault = true ∨ 1 > (s.dev.freeFor v).length ∨ 1 > s.dev.spuRoom v.session) := by
    rintro (bad | bad | bad)
    · rw [alive] at bad; cases bad
    · omega
    · omega
  rw [exec_instanceResume here, State.onDev]
  simp only [savedCopies_single copy uid single seat unique nodup, List.map_cons, List.map_nil, List.length_singleton, if_neg go,
    List.foldl_cons, List.foldl_nil, best, Dev.seatInst, copy, Option.isNone_some, Bool.false_eq_true, if_false, quiet]
  rfl

/-- R196: what a resume leaves. -/
theorem seatOn_resumes (copy : Tbl.find? s.dev.insts key = some i) {x : Instr} (ran : exec x s = .next (s.onDev fun d => d.seatOn key k)) :
    ∃ t, exec x s = .next t ∧ t = { s with dev := { s.dev with insts := t.dev.insts, stk := t.dev.stk } } ∧
      Tbl.find? t.dev.insts key = some { i with seat := .onSpu k } ∧ (t.dev.spu k).runs = some key ∧ (t.dev.spu k).heldFor = [] ∧
      ∀ n, n ≠ key → Tbl.find? t.dev.insts n = Tbl.find? s.dev.insts n := by
  rw [State.onDev, Dev.seatOn_seats copy] at ran
  exact ⟨_, ran, rfl, Tbl.find_set_self .., congrArg Spu.runs (Dev.spu_onSpu ..), congrArg Spu.heldFor (Dev.spu_onSpu ..),
    fun _ other => Tbl.find_set_ne other⟩

end

section
variable {s : State} {k : BitVec 7}

theorem Dev.retireRequest_idle {d : Dev} {k : Nat} (low : k < 68) (idle : (d.spu k).runs = none) : d.retireRequest k = d.retireSpu k := by
  rw [Dev.retireRequest, if_neg (by omega), idle]

theorem stkSpuRetire_idle (served : s.dev.served = true) (alive : s.dev.rel.devFault = false) (low : k.toNat < 68)
    (idle : (s.dev.spu k.toNat).runs = none) (good : (s.dev.spu k.toNat).retired = false) (used : (s.dev.spu k.toNat).spare = false)
    (none : ∀ c ∈ s.dev.hlk.live, c.isRun = false) :
    ∃ t, exec (.stkSpuRetire k) s = .next t ∧
      t = { s with dev := { s.dev with stk := t.dev.stk, atc := { s.dev.atc with jobs := t.dev.atc.jobs } } } ∧
      (t.dev.spu k.toNat).retired = true ∧ t.dev.atc.jobs.length = s.dev.atc.jobs.length + 1 ∧
      (∀ j, j < 68 → j ≠ k.toNat → (s.dev.spu j).spare = true → (s.dev.spu j).retired = false →
        (∀ i, i < j → (s.dev.spu i).spare = true → (s.dev.spu i).retired = true) → (t.dev.spu j).spare = false) ∧
      (∀ j, j ≠ k.toNat → (s.dev.spu j).spare = false → t.dev.spu j = s.dev.spu j) := by
  have ran := exec_stkSpuRetire k served alive
  rw [State.onDev, Dev.retireRequest_idle low idle, Dev.retireSpu_eq good used fun c mem => .inl (none c mem)] at ran
  refine ⟨_, ran, ?_, ?_, ?_, fun j low other spare good first => ?_, fun j other plain => Dev.retired_spu_ne other plain⟩
  · dsimp only
    rw [Dev.joinSpare_frame]
    rfl
  · exact congrArg Spu.retired Dev.retired_spu
  · dsimp only
    rw [Dev.joinSpare_frame]
    exact List.length_append
  · have at_ := Dev.markRetired_spu_ne (d := s.dev) other
    refine Dev.joinSpare_lowest low (by rw [at_]; exact spare) (by rw [at_]; exact good) fun i lt is => ?_
    by_cases self : i = k.toNat
    · rw [self, Dev.markRetired_spu]
    · rw [Dev.markRetired_spu_ne self] at is ⊢
      exact first i lt is

theorem stkSpuRetire_beyond (served : s.dev.served = true) (alive : s.dev.rel.devFault = false) (beyond : 68 ≤ k.toNat)
    (room : s.dev.rel.queue.length < 64) : ∃ t r, exec (.stkSpuRetire k) s = .next t ∧
      t = { s with dev := { s.dev with rel := t.dev.rel } } ∧ t.dev.rel.queue = s.dev.rel.queue ++ [r] ∧
      r.code = Status.cfgRange.code ∧ r.sev = 0 := by
  have ran := exec_stkSpuRetire k served alive
  rw [State.onDev, Dev.retireRequest, if_pos beyond, Dev.note] at ran
  refine ⟨_, _, ran, ?_, Dev.log_queue _ _ room, rfl, rfl⟩
  dsimp only
  rw [Dev.log_quiet _ _ (by decide)]

end

/-! A copy leaves an SPU that retires (R206). -/

section
variable {d : Dev} {key k j : Nat} {i : Inst} {c : Live}

/-- A copy that can leave its SPU for another. -/
structure Dev.MayMove (d : Dev) (key k j : Nat) (i : Inst) (c : Live) : Prop where
  runs : (d.spu k).runs = some key
  stays : (d.spu k).retireWait = false
  used : (d.spu k).spare = false
  good : (d.spu k).retired = false
  copy : Tbl.find? d.insts key = some i
  seat : i.seat = .onSpu k
  idle : i.issue = none
  halted : i.halted = false
  live : d.live? i.uid = some c
  single : c.gang = false
  empty : d.ctxUsed = []
  fits : d.ctxNeed i ≤ d.ctxCapacity
  best : d.bestSpu c = some j
  started : ∀ o ∈ d.hlk.live, o.started ≠ 0

/-- The device whose copy was saved to leave an SPU that retires. -/
def Dev.leaving (d : Dev) (key k : Nat) (i : Inst) (slots : List Nat) : Dev :=
  ((d.onSpu k fun u => { u with retireWait := false }).savedTo key k i slots).countPreempt 1

theorem Dev.holders_none (started : ∀ o ∈ d.hlk.live, o.started ≠ 0) : d.holders = [] :=
  List.filter_eq_nil_iff.2 fun c mem => by simp [started c mem]

theorem Dev.freeFor_of_unheld (none : d.holders = []) : d.freeFor c = d.freeSpus := by
  simp [Dev.freeFor, none]

theorem Dev.leaving_spu (slots : List Nat) : (d.leaving key k i slots).spu k =
    { d.spu k with runs := none, moving := 0, retireWait := false, heldFor := d.holders.map (·.uid) } := by
  rw [Dev.leaving, Dev.spu_countPreempt, Dev.savedTo_spu, Dev.spu_onSpu]
  rfl

theorem Dev.leaving_spu_ne {n : Nat} (slots : List Nat) (other : n ≠ k) : (d.leaving key k i slots).spu n = d.spu n := by
  rw [Dev.leaving, Dev.spu_countPreempt, Dev.savedTo_spu_ne slots other, Dev.spu_onSpu_ne other]

theorem Dev.leaving_load (slots : List Nat) (n : Nat) : (d.leaving key k i slots).load n = d.load n := by
  unfold Dev.load
  by_cases self : n = k
  · rw [self, Dev.leaving_spu]
    rfl
  · rw [Dev.leaving_spu_ne slots self]
    rfl

theorem Dev.leaving_copy (slots : List Nat) : Tbl.find? (d.leaving key k i slots).insts key = some { i with seat := .saved slots } :=
  Tbl.find_set_self ..

/-- The device whose copy left the SPU that retires for another. -/
def Dev.moved (d : Dev) (key k j : Nat) (i : Inst) (slots : List Nat) : Dev :=
  ((d.leaving key k i slots).setInst key { i with seat := .onSpu j }).onSpu j fun u => { u with runs := some key, heldFor := [] }

theorem Dev.spu_setInst (d : Dev) (key k : Nat) (i : Inst) : (d.setInst key i).spu k = d.spu k := rfl

theorem Dev.moved_spu (slots : List Nat) (other : j ≠ k) :
    (d.moved key k j i slots).spu j = { d.spu j with runs := some key, heldFor := [] } := by
  rw [Dev.moved, Dev.spu_onSpu, Dev.spu_setInst, Dev.leaving_spu_ne slots other]

theorem Dev.moved_spu_left (slots : List Nat) (other : j ≠ k) : (d.moved key k j i slots).spu k = (d.leaving key k i slots).spu k := by
  rw [Dev.moved, Dev.spu_onSpu_ne other.symm, Dev.spu_setInst]

theorem Dev.moved_hlk (slots : List Nat) : (d.moved key k j i slots).hlk = d.hlk := by
  simp only [Dev.moved, Dev.leaving, Dev.countPreempt, Dev.savedTo, Dev.onSpu, Dev.setInst]

theorem Dev.moved_preempts (slots : List Nat) :
    (d.moved key k j i slots).stk.preempts = BitVec.ofNat 16 (satInc 16 d.stk.preempts.toNat) := rfl

theorem Dev.moved_copy (slots : List Nat) : Tbl.find? (d.moved key k j i slots).insts key = some { i with seat := .onSpu j } :=
  Tbl.find_set_self (Tbl.set d.insts key _) ..

theorem Dev.moved_copy_ne {n : Nat} (slots : List Nat) (other : n ≠ key) :
    Tbl.find? (d.moved key k j i slots).insts n = Tbl.find? d.insts n :=
  (Tbl.find_set_ne (t := Tbl.set d.insts key _) other).trans (Tbl.find_set_ne other)

/-- The SPUs that a copy may move to when its own retires. -/
def Dev.othersFor (d : Dev) (k key : Nat) : List Nat :=
  match (Tbl.find? d.insts key).bind fun i => d.live? i.uid with
  | some c => (d.freeFor c).filter (· != k)
  | none => []

theorem Dev.evict_single (group : d.group key = [key]) : d.evict k key =
    ((d.onSpu k fun u => { u with retireWait := false }).saveInst key).map fun d =>
      let d := d.countPreempt 1
      (if (d.othersFor k key).length < 1 then d else
        match bestBy (fun a b => d.load a < d.load b) (d.othersFor k key) with
        | some j => d.seatOn key j
        | none => d).retireSpu k := by
  rw [← Dev.saveAll_single, Dev.evict, group]
  rfl

section
variable (may : d.MayMove key k j i c)
include may

theorem Dev.MayMove.other : j ≠ k := by
  rintro rfl
  have free := (Dev.mem_freeSpus.1 (Dev.freeFor_subset (Dev.bestSpu_mem may.best))).2.2.2.1
  rw [may.runs] at free
  cases free

theorem Dev.MayMove.plain : (d.spu j).spare = false := (Dev.mem_freeSpus.1 (Dev.freeFor_subset (Dev.bestSpu_mem may.best))).2.2.1

/-- The SPUs that the copy may move to are those that were free. -/
theorem Dev.MayMove.others (slots : List Nat) : ((d.leaving key k i slots).freeFor c).filter (· != k) = d.freeFor c := by
  have none := Dev.holders_none may.started
  rw [Dev.freeFor_of_unheld none, Dev.freeFor_of_unheld (d := d.leaving key k i slots) none, Dev.freeSpus, Dev.freeSpus, List.filter_filter]
  refine List.filter_congr fun n _ => ?_
  by_cases self : n = k
  · simp [self, may.runs]
  · simp [self, Dev.leaving_spu_ne slots self]

theorem Dev.MayMove.evicts : ∃ slots, d.evict k key = some ((d.moved key k j i slots).retireSpu k) := by
  have empty : (d.onSpu k fun u => { u with retireWait := false }).ctxUsed = [] := may.empty
  obtain ⟨slots, -, saved⟩ := Dev.saveInst_saves (d := d.onSpu k fun u => { u with retireWait := false }) may.copy may.seat may.idle empty may.fits
    (by rw [Dev.spu_onSpu])
  have group := Dev.group_single may.copy may.live may.single
  have others : (d.leaving key k i slots).othersFor k key = d.freeFor c := by
    have live : (d.leaving key k i slots).live? i.uid = some c := (Dev.live_congr rfl).trans may.live
    rw [Dev.othersFor, Dev.leaving_copy, Option.bind_some, live]
    exact may.others slots
  have best : bestBy (fun a b => decide ((d.leaving key k i slots).load a < (d.leaving key k i slots).load b)) (d.freeFor c) = some j := by
    simp only [Dev.leaving_load slots]
    exact may.best
  have some_ : ¬ (d.freeFor c).length < 1 := Nat.not_lt.2 (List.length_pos_of_mem (Dev.bestSpu_mem may.best))
  refine ⟨slots, ?_⟩
  rw [Dev.evict_single group, saved, Option.map_some]
  simp only [← Dev.leaving.eq_1, others, if_neg some_, best, Dev.seatOn_seats (Dev.leaving_copy slots)]
  rfl

theorem Dev.MayMove.requests (low : k < 68) : ∃ slots, d.retireRequest k = ((d.moved key k j i slots).markRetired k).joinSpare := by
  obtain ⟨slots, evicts⟩ := may.evicts
  have fresh : d.anyHalted (d.group key) = false := by
    rw [Dev.group_single may.copy may.live may.single, Dev.anyHalted_single may.copy, may.halted]
  have spu : (d.moved key k j i slots).spu k = (d.leaving key k i slots).spu k := Dev.moved_spu_left slots may.other
  have retires := Dev.retireSpu_eq (d := d.moved key k j i slots) (k := k)
    (by rw [spu, Dev.leaving_spu]; exact may.good) (by rw [spu, Dev.leaving_spu]; exact may.used)
    (by rw [Dev.moved_hlk]; exact fun o mem => .inr (may.started o mem))
  refine ⟨slots, ?_⟩
  rw [Dev.retireRequest, if_neg (by omega)]
  simp only [may.runs, may.stays, fresh, evicts, Option.getD_some, Bool.false_eq_true, if_false, retires]

end

theorem stkSpuRetire_moves {s : State} {k : BitVec 7} (served : s.dev.served = true) (alive : s.dev.rel.devFault = false) (low : k.toNat < 68)
    (may : s.dev.MayMove key k.toNat j i c) :
    ∃ t, exec (.stkSpuRetire k) s = .next t ∧ t.mem = s.mem ∧ t.dev.hlk = s.dev.hlk ∧ (t.dev.spu k.toNat).retired = true ∧
      (t.dev.spu k.toNat).runs = none ∧ (t.dev.spu j).runs = some key ∧ Tbl.find? t.dev.insts key = some { i with seat := .onSpu j } ∧
      t.dev.stk.preempts.toNat = min (s.dev.stk.preempts.toNat + 1) 0xFFFF ∧
      ∀ n, n ≠ key → Tbl.find? t.dev.insts n = Tbl.find? s.dev.insts n := by
  obtain ⟨slots, requests⟩ := may.requests low
  have at_ := Dev.moved_spu (d := s.dev) (key := key) (i := i) slots may.other
  have stays := Dev.retired_spu_ne may.other ((congrArg Spu.spare at_).trans may.plain)
  refine ⟨_, exec_stkSpuRetire k served alive, rfl, ?_⟩
  rw [State.onDev, requests]
  dsimp only
  refine ⟨?_, congrArg Spu.retired Dev.retired_spu, congrArg Spu.runs Dev.retired_spu, congrArg Spu.runs (stays.trans at_), ?_, ?_, fun n other => ?_⟩
  · rw [Dev.retired_hlk, Dev.moved_hlk]
  · rw [Dev.retired_insts, Dev.moved_copy]
  · rw [Dev.retired_preempts, Dev.moved_preempts]
    exact satInc_toNat ..
  · rw [Dev.retired_insts, Dev.moved_copy_ne slots other]

end

/-- Settles O21: a preemption saves the one running copy and starts the more urgent Crate on its SPU, a resume seats the saved
copy, and an SPU retires when it is idle or once its copy sits on another. -/
theorem copiesArePreemptedAndSpusRetire : Obligations.copiesArePreemptedAndSpusRetire := by
  refine ⟨fun s key k i c v copy uid here single stays => ⟨?_, ?_⟩, fun s k served alive => ⟨?_, ?_, ?_⟩⟩
  · intro insts seat low idle halted runs enabled good used full live other queued waits alone urgent active may room fresh _ _ _ fits away
    have found : s.dev.live? c.uid = some c := by
      rw [Dev.live?, live]
      simp [other.symm]
    exact preemption_starts ⟨insts, uid, here, seat, idle, halted, single, alone, urgent, room, full, fits, stays k⟩ low good used fresh found
      away (preempt_single enabled (stuck_single live active queued waits alone full may))
  · rintro slots _ seat rfl alive room unique nodup best
    exact seatOn_resumes copy (instanceResume_seats copy uid here single stays seat alive room unique nodup best)
  · exact fun low idle good used none => stkSpuRetire_idle served alive low idle good used none
  · exact fun key i c j low runs stays used good copy seat idle halted live single empty fits best started =>
      stkSpuRetire_moves served alive low ⟨runs, stays, used, good, copy, seat, idle, halted, live, single, empty, fits, best, started⟩
  · exact fun beyond room => stkSpuRetire_beyond served alive beyond room

end Sys2Proof.Machine
end

section
namespace Sys2Proof.Machine

/-! The queue of Shelf transfers (R177, R178). -/

section
variable {d : Dev} {x : Xfer}

theorem Stk.onXfer_single {k : Stk} (only : k.xfers = [x]) (f : Xfer → Xfer) : k.onXfer x f = { k with xfers := [f x] } := by
  simp [Stk.onXfer, only, List.idxOf?_cons]

theorem Stk.waitingIns_out {k : Stk} (out : ∀ y ∈ k.xfers, y.inward = false) : k.waitingIns = [] := by
  have none : (k.xfers.filter fun x => x.inward && !k.running.any fun y => y.inward && y.sameShelf x) = [] :=
    List.filter_eq_nil_iff.2 fun y mem => by simp [out y mem]
  rw [Stk.waitingIns, none]
  rfl

/-- A transfer that runs alone leaves none that waits. -/
theorem Stk.waitingIns_running {k : Stk} (only : k.xfers = [x]) (runs : x.started = true) : k.waitingIns = [] := by
  cases inward : x.inward
  · exact Stk.waitingIns_out fun y mem => by rw [only] at mem; rw [List.mem_singleton.1 mem, inward]
  · simp [Stk.waitingIns, Stk.running, only, runs, inward, Xfer.sameShelf]

theorem Stk.waitingIns_single {k : Stk} (only : k.xfers = [x]) (inward : x.inward = true) (waits : x.started = false) : k.waitingIns = [x] := by
  simp [Stk.waitingIns, Stk.running, only, waits, inward]

theorem Dev.startIns_idle (none : d.stk.waitingIns = []) : ∀ n, d.startIns n = d
  | 0 => rfl
  | n + 1 => by simp [Dev.startIns, none]

theorem Dev.pageVictims_idle (none : d.stk.waitingIns = []) : ∀ n, d.pageVictims n = d
  | 0 => rfl
  | n + 1 => by simp [Dev.pageVictims, none]

theorem Dev.startOuts_idle (none : d.stk.xfers.find? (fun x => !x.inward && !x.started) = none) : ∀ n, d.startOuts n = d
  | 0 => rfl
  | n + 1 => by simp [Dev.startOuts, none]

theorem Dev.pageStep_running (only : d.stk.xfers = [x]) (runs : x.started = true) : d.pageStep = d := by
  have none := Stk.waitingIns_running only runs
  rw [Dev.pageStep, Dev.startIns_idle none, Dev.pageVictims_idle none, Dev.startOuts_idle (by simp [only, runs])]

/-- A transfer that waits takes no Shelf yet. -/
theorem Dev.takeShelves_waiting (idle : d.stk.xfers = []) (waits : x.started = false) (n : Nat) :
    ({ d with stk := { d.stk with xfers := [x] } } : Dev).takeShelves n = d.takeShelves n := by
  have used : ({ d with stk := { d.stk with xfers := [x] } } : Dev).usedShelves = d.usedShelves := by
    rw [Dev.usedShelves, Dev.usedShelves, idle, List.filter_cons_of_neg (by simp [waits])]
    rfl
  rw [Dev.takeShelves, used]
  rfl

/-- R178: a page-in that waits alone starts in the lowest free Shelf. -/
theorem Dev.pageStep_starts {p : Nat} (only : d.stk.xfers = [x]) (inward : x.inward = true) (waits : x.started = false)
    (free : d.takeShelves 1 = [p]) :
    d.pageStep = { d with stk := { d.stk with xfers := [{ x with started := true, shelf := p }] } } := by
  have none : d.stk.running = [] := by rw [Stk.running, only]; simp [waits]
  have starts : d.startIns 8 = Dev.startIns 7 { d with stk := { d.stk with xfers := [{ x with started := true, shelf := p }] } } := by
    simp only [Dev.startIns, none, Stk.waitingIns_single only inward waits, free, Stk.onXfer_single only]
    rfl
  generalize after : ({ d with stk := { d.stk with xfers := [{ x with started := true, shelf := p }] } } : Dev) = e at starts ⊢
  have none : e.stk.waitingIns = [] := Stk.waitingIns_running (x := { x with started := true, shelf := p }) (by rw [← after]) rfl
  rw [Dev.pageStep, starts, Dev.startIns_idle none, Dev.pageVictims_idle none, Dev.startOuts_idle (by rw [← after]; simp)]

end

/-- R175, R178: a page-in of the one Shelf that is to come. -/
theorem pageIn_starts {s : State} {n : BitVec 12} {i : BitVec 27} {r : Requester} {e : ShelfEntry} {slot p : Nat}
    (entry : s.dev.stk.entry? n.toNat i.toNat = some e) (paged : e.place = .paged slot) (idle : s.dev.stk.xfers = [])
    (free : s.dev.takeShelves 1 = [p]) : exec (.pageIn n i r) s = .next (s.onDev fun d => { d with stk := { s.dev.stk with xfers :=
      [{ inward := true, session := n.toNat, idx := i.toNat, handle := e.handle, requester := r, started := true, shelf := p }] } }) := by
  have ran : exec (.pageIn n i r) s = execPageIn n i r s := rfl
  obtain ⟨eSession, eIdx, eHandle, ePlace⟩ := e
  subst paged
  rw [ran, execPageIn, devStep_eq, Dev.pageIn, entry]
  simp only [idle, List.any_nil, Bool.false_eq_true, if_false, List.nil_append]
  rw [Dev.pageStep_starts rfl rfl rfl ((Dev.takeShelves_waiting idle rfl 1).trans free)]
  rfl

end Sys2Proof.Machine
end

section
namespace Sys2Proof.Machine

/-! Page-outs below LOW (R172, R173). -/

/-- A page-out of a Shelf that waits for its turn. -/
def ShelfEntry.out (e : ShelfEntry) (slot : Nat) : Xfer :=
  { inward := false, session := e.session, idx := e.idx, handle := e.handle, requester := .none_, slot }

/-- Up to n page-outs joined the queue. -/
structure Dev.OutsQueued (d d' : Dev) (n : Nat) : Prop where
  frame : d' = { d with freeCtr := d'.freeCtr, stk := { d.stk with xfers := d'.stk.xfers } }
  queued : ∃ l, d'.stk.xfers = d.stk.xfers ++ l ∧ l.length ≤ n ∧ ∀ x ∈ l, x.inward = false ∧ x.started = false

section
variable {d d' : Dev} {forAlloc : Bool}

theorem Dev.OutsQueued.refl (d : Dev) (n : Nat) : d.OutsQueued d n := ⟨rfl, [], (List.append_nil _).symm, Nat.zero_le _, nofun⟩

theorem Dev.OutsQueued.trans {d'' : Dev} {m n : Nat} (first : d.OutsQueued d' m) (then_ : d'.OutsQueued d'' n) : d.OutsQueued d'' (m + n) := by
  obtain ⟨frame, l, is, few, out⟩ := first
  obtain ⟨frame', l', is', few', out'⟩ := then_
  refine ⟨by rw [frame] at frame'; exact frame', l ++ l', by rw [is', is, List.append_assoc], by rw [List.length_append]; omega, fun x mem => ?_⟩
  exact (List.mem_append.1 mem).elim (out x) (out' x)

theorem Dev.pageOutOne_out (some_ : d.pageOutOne forAlloc = some d') : d.OutsQueued d' 1 := by
  unfold Dev.pageOutOne at some_
  dsimp only at some_
  split at some_
  · rw [← Option.some.inj some_]
    exact ⟨rfl, _, rfl, Nat.le_refl _, fun x mem => by rw [List.mem_singleton.1 mem]; exact ⟨rfl, rfl⟩⟩
  · cases some_

theorem Dev.pageOutMany_out : ∀ (n : Nat) (d : Dev), d.OutsQueued (d.pageOutMany forAlloc n).2 n
  | 0, d => .refl d 0
  | n + 1, d => by
    cases next : d.pageOutOne forAlloc with
    | none =>
      rw [Dev.pageOutMany, next]
      exact .refl d _
    | some e =>
      rw [Dev.pageOutMany, next, Nat.add_comm]
      exact (Dev.pageOutOne_out next).trans (Dev.pageOutMany_out n e)

/-- R171, R173: the coldest Shelf that may go is queued, into a free slot. -/
theorem Dev.pageOutOne_coldest {e : ShelfEntry} (room : d.stk.slotsFree ≠ [])
    (coldest : bestBy (colder d.tim.ticks) (d.stk.shelves.filter fun e => d.spillable e && decide (0 < d.poolRoom e.session)) = some e) :
    ∃ slot ∈ d.stk.slotsFree, d.pageOutOne = some { d.freed with stk := { d.stk with xfers := d.stk.xfers ++ [e.out slot] } } := by
  obtain ⟨q, mem⟩ := List.exists_mem_of_ne_nil _ room
  obtain ⟨slot, mem, picked⟩ := Dev.pick_mem (d := d) mem
  refine ⟨slot, mem, ?_⟩
  unfold Dev.pageOutOne
  simp only [coldest, picked]
  rfl

/-- Starting further page-outs keeps the transfer at the head that runs. -/
theorem Dev.startOuts_head {x : Xfer} (runs : x.started = true) : ∀ (n : Nat) (l : List Xfer) (d : Dev), d.stk.xfers = x :: l →
    (∀ y ∈ l, y.inward = false) → ∃ l', d.startOuts n = { d with stk := { d.stk with xfers := x :: l' } } ∧ l'.length = l.length ∧
      ∀ y ∈ l', y.inward = false
  | 0, l, d, is, out => ⟨l, by rw [← is]; rfl, rfl, out⟩
  | n + 1, l, d, is, out => by
    have same : d = { d with stk := { d.stk with xfers := x :: l } } := by rw [← is]
    unfold Dev.startOuts
    split
    · exact ⟨l, same, rfl, out⟩
    · split
      · rename_i y found
        have waits := (Bool.and_eq_true_iff.1 (List.find?_some (p := fun x : Xfer => !x.inward && !x.started) found)).2
        have other : (x == y) = false := beq_false_of_ne fun same => by rw [← same, runs] at waits; cases waits
        obtain ⟨l₁, moved, length, out₁⟩ : ∃ l₁, d.stk.onXfer y (fun x => { x with started := true }) = { d.stk with xfers := x :: l₁ } ∧
            l₁.length = l.length ∧ ∀ y ∈ l₁, y.inward = false := by
          rw [Stk.onXfer, is, List.idxOf?_cons, other, if_neg Bool.false_ne_true]
          cases at_ : l.idxOf? y with
          | none => exact ⟨l, rfl, rfl, out⟩
          | some j =>
            refine ⟨l.modify j fun x => { x with started := true }, rfl, List.length_modify .., fun z mem => ?_⟩
            obtain ⟨i, at_⟩ := List.mem_iff_getElem?.1 mem
            rw [List.getElem?_modify] at at_
            obtain ⟨w, from_, rfl⟩ := Option.map_eq_some_iff.1 at_
            have := out w (List.mem_of_getElem? from_)
            split <;> exact this
        rw [moved]
        obtain ⟨l', starts, length', out'⟩ := Dev.startOuts_head runs n l₁ { d with stk := { d.stk with xfers := x :: l₁ } } rfl out₁
        exact ⟨l', starts, length'.trans length, out'⟩
      · exact ⟨l, same, rfl, out⟩

/-- R177: page-outs that wait alone: the first starts. -/
theorem Dev.pageStep_outs {x : Xfer} {l : List Xfer} (is : d.stk.xfers = x :: l) (out : ∀ y ∈ x :: l, y.inward = false ∧ y.started = false) :
    ∃ l', d.pageStep = { d with stk := { d.stk with xfers := { x with started := true } :: l' } } ∧ l'.length = l.length ∧
      ∀ y ∈ l', y.inward = false := by
  have none : d.stk.waitingIns = [] := Stk.waitingIns_out (by rw [is]; exact fun y mem => (out y mem).1)
  have idle : d.stk.running = [] := List.filter_eq_nil_iff.2 (by rw [is]; exact fun y mem => by simp [(out y mem).2])
  have head := out x List.mem_cons_self
  have starts : d.startOuts 8 = Dev.startOuts 7 { d with stk := { d.stk with xfers := { x with started := true } :: l } } := by
    have first : d.stk.xfers.find? (fun x => !x.inward && !x.started) = some x := by rw [is]; simp [head]
    have moved : d.stk.onXfer x (fun x => { x with started := true }) = { d.stk with xfers := { x with started := true } :: l } := by
      rw [Stk.onXfer, is, List.idxOf?_cons, if_pos (beq_self_eq_true x)]
      rfl
    simp only [Dev.startOuts, idle, first, moved]
    rfl
  rw [Dev.pageStep, Dev.startIns_idle none, Dev.pageVictims_idle none, starts]
  exact Dev.startOuts_head (x := { x with started := true }) rfl 7 l _ rfl fun y mem => (out y (List.mem_cons_of_mem _ mem)).1

end

section
variable {s : State}

theorem pageOut_rests (quiet : s.dev.stk.bgRun = false) (enough : fld s.dev.stk.pageCfg 0 12 ≤ s.dev.freeShelves) : exec .pageOut s = .next s := by
  have ran : exec .pageOut s = execPageOut s := rfl
  have same : ({ s.dev with stk := { s.dev.stk with bgRun := false } } : Dev) = s.dev := by rw [← quiet]
  have idle : ((s.dev.stk.bgRun || decide (s.dev.freeShelves < fld s.dev.stk.pageCfg 0 12)) &&
      decide (s.dev.freeShelves < fld s.dev.stk.pageCfg 12 12)) = false := by simp [quiet, enough]
  rw [ran, execPageOut, devStep_eq, Dev.background]
  simp only [idle, same, Bool.not_false, if_true]

theorem pageOut_starts {e : ShelfEntry} (few : s.dev.freeShelves < fld s.dev.stk.pageCfg 0 12)
    (above : fld s.dev.stk.pageCfg 0 12 < fld s.dev.stk.pageCfg 12 12) (idle : s.dev.stk.xfers = []) (room : s.dev.stk.slotsFree ≠ [])
    (coldest : bestBy (colder s.dev.tim.ticks) (s.dev.stk.shelves.filter fun e => s.dev.spillable e && decide (0 < s.dev.poolRoom e.session)) = some e) :
    ∃ t rest, exec .pageOut s = .next t ∧ (∃ slot ∈ s.dev.stk.slotsFree, t.dev.stk.xfers =
        { inward := false, session := e.session, idx := e.idx, handle := e.handle, requester := .none_, slot, started := true } :: rest) ∧
      rest.length < fld s.dev.stk.pageCfg 12 12 - s.dev.freeShelves ∧ (∀ x ∈ rest, x.inward = false) ∧
      t = { s with dev := { s.dev with freeCtr := t.dev.freeCtr, stk := { s.dev.stk with xfers := t.dev.stk.xfers, bgRun := true } } } := by
  have ran : exec .pageOut s = .next (s.onDev Dev.background) := rfl
  obtain ⟨m, due⟩ : ∃ m, fld s.dev.stk.pageCfg 12 12 - s.dev.freeShelves - 0 = m + 1 := ⟨_, (Nat.succ_pred_eq_of_pos (by omega)).symm⟩
  obtain ⟨slot, mem, first⟩ := Dev.pageOutOne_coldest room coldest
  generalize queue : ({ s.dev.freed with stk := { s.dev.stk with xfers := s.dev.stk.xfers ++ [e.out slot] } } : Dev) = q at first
  have run : ((s.dev.stk.bgRun || decide (s.dev.freeShelves < fld s.dev.stk.pageCfg 0 12)) &&
      decide (s.dev.freeShelves < fld s.dev.stk.pageCfg 12 12)) = true := by simp [few, few.trans above]
  obtain ⟨frame, l, is, length, out⟩ := Dev.pageOutMany_out (forAlloc := false) m q
  generalize many : q.pageOutMany false m = r at frame is
  have is : r.2.stk.xfers = e.out slot :: l := by rw [is, ← queue, idle]; rfl
  have some_ : (r.1 + 1 != 0) = true := rfl
  have bg : s.dev.background = ({ r.2 with stk := { r.2.stk with bgRun := true } } : Dev).pageStep := by
    rw [Dev.background]
    simp only [run, idle, List.filter_nil, List.length_nil, due, Dev.pageOutMany, first, many, some_, Bool.true_or, Bool.not_true, Bool.false_eq_true, if_false]
  obtain ⟨rest, steps, length', inward⟩ := Dev.pageStep_outs (d := { r.2 with stk := { r.2.stk with bgRun := true } })
    is (List.forall_mem_cons.2 ⟨⟨rfl, rfl⟩, out⟩)
  rw [State.onDev, bg, steps] at ran
  refine ⟨_, rest, ran, ⟨slot, mem, rfl⟩, by omega, inward, ?_⟩
  dsimp only
  rw [frame, ← queue]
  rfl

end

end Sys2Proof.Machine
end

section
namespace Sys2Proof.Machine

/-! A transfer ends (R175, R177 to R179). -/

section
variable {s : State} {x : Xfer} {e : ShelfEntry}

theorem Dev.withdrawStep_none {d : Dev} {i : Nat} (none : ∀ q ∈ d.stk.pool, q.2.withdrawing = none) : d.withdrawStep i = d := by
  unfold Dev.withdrawStep
  split
  · rfl
  · rename_i r found
    rw [none _ (Tbl.mem_of_find found)]

theorem Dev.withdrawSteps_none {d : Dev} (none : ∀ q ∈ d.stk.pool, q.2.withdrawing = none) (l : List Nat) : l.foldl Dev.withdrawStep d = d := by
  induction l with
  | nil => rfl
  | cons i l ih => rw [List.foldl_cons, Dev.withdrawStep_none none, ih]

/-- What follows the end of the last transfer, where nothing waits. -/
theorem Dev.afterLast {d : Dev} (idle : d.stk.xfers = []) (quiet : d.stk.bgRun = false) (none : ∀ q ∈ d.stk.pool, q.2.withdrawing = none) :
    (let d := (List.range 16).foldl Dev.withdrawStep d
      if d.stk.bgRun then d.background else d.pageStep) = d := by
  simp only [Dev.withdrawSteps_none none, quiet, Bool.false_eq_true, if_false, Dev.pageStep_idle idle]

/-- The end of the one transfer that runs. -/
structure State.Ending (s : State) (x : Xfer) (e : ShelfEntry) : Prop where
  only : s.dev.stk.xfers = [x]
  runs : x.started = true
  entry : s.dev.stk.entry? x.session x.idx = some e
  handle : e.handle = x.handle
  quiet : s.dev.stk.bgRun = false
  stays : ∀ q ∈ s.dev.stk.pool, q.2.withdrawing = none

/-- The state without the transfers. -/
def State.ended (s : State) : State := s.onDev fun d => { d with stk := { d.stk with xfers := [] } }

/-- What the end of the one transfer does, by its direction and by where its Shelf is. -/
def State.transferEnd (s : State) (x : Xfer) (e : ShelfEntry) : State :=
  match x.inward, some (e, e.place) with
  | true, some (_, .paged slot) => s.endPageIn x slot .done
  | false, some (e, .resident p) => s.ended.endPageOut x e p .done
  | true, _ => s.ended
  | false, _ => s.ended.pageOutVoid x false

theorem State.transferEnd_in {s : State} {x : Xfer} {e : ShelfEntry} {slot : Nat} (inward : x.inward = true) (paged : e.place = .paged slot) :
    s.transferEnd x e = s.pageInDone x slot := by
  rw [State.transferEnd, inward, paged]
  rfl

theorem State.transferEnd_out {s : State} {x : Xfer} {e : ShelfEntry} {p : Nat} (outward : x.inward = false) (resident : e.place = .resident p) :
    s.transferEnd x e = s.ended.endPageOut x e p .done := by
  rw [State.transferEnd, outward, resident]

theorem State.Ending.ends {t : State} (ending : s.Ending x e)
    (after : s.transferEnd x e = t)
    (idle : t.dev.stk.xfers = []) (quiet : t.dev.stk.bgRun = s.dev.stk.bgRun) (pool : t.dev.stk.pool = s.dev.stk.pool) :
    exec (.shelfTransferDone 0 .done) s = .next t := by
  have ran : exec (.shelfTransferDone 0 .done) s = execShelfTransferDone 0 .done s := rfl
  have same : s.onDev Dev.pageStep = s := by rw [State.onDev, Dev.pageStep_running ending.only ending.runs]
  have first : s.dev.stk.running[0]? = some x := by simp [Stk.running, ending.only, ending.runs]
  have off : (s.onDev fun d => { d with stk := { d.stk with xfers := d.stk.xfers.erase x } }) = s.ended := by
    rw [State.ended, State.onDev, State.onDev, ending.only, List.erase_cons_head]
  have found : ((s.dev.stk.entry? x.session x.idx).filter fun e => e.handle == x.handle).map (fun e => (e, e.place)) = some (e, e.place) := by
    simp [ending.entry, ending.handle]
  have still : t.onDev (fun d => let d := (List.range 16).foldl Dev.withdrawStep d
      if d.stk.bgRun then d.background else d.pageStep) = t := by
    rw [State.onDev, Dev.afterLast idle (quiet.trans ending.quiet) (by rw [pool]; exact ending.stays)]
  rw [ran, execShelfTransferDone, same]
  simp only [first, off, found]
  rw [← still, ← after]
  rfl

end

end Sys2Proof.Machine
end

section
namespace Sys2Proof.Machine

theorem find?_mapIf {α : Type} {p : α → Bool} {f : α → α} (keeps : ∀ x, p (f x) = p x) (l : List α) :
    (mapIf p f l).find? p = (l.find? p).map f := by
  induction l with
  | nil => rfl
  | cons x l ih =>
    rw [mapIf, List.map_cons, List.find?_cons, List.find?_cons]
    cases is : p x
    · rw [if_neg Bool.false_ne_true, is]
      exact ih
    · rw [if_pos rfl, keeps, is]
      rfl

section
variable {s t : State} {x : Xfer} {e : ShelfEntry}

/-- What the end of a transfer leaves, beside what is particular to its direction. -/
def TransferEnds (s : State) (x : Xfer) (e : ShelfEntry) (place : Place) (r : State → Prop) : Prop :=
  ∃ t, exec (.shelfTransferDone 0 .done) s = .next t ∧
    t.dev.stk.xfers = [] ∧ (x.session, x.idx) ∉ t.dev.stk.tlb ∧ (∃ f, t.dev.stk.entry? x.session x.idx = some f ∧ f.place = place ∧
      f.handle = e.handle ∧ f.spill = e.spill ∧ (x.inward = true → f.acc = true ∧ f.since = s.dev.tim.ticks)) ∧
    t = { s with mem := t.mem, dev := { s.dev with host := t.dev.host, stk := { s.dev.stk with
      xfers := [], shelves := t.dev.stk.shelves, tlb := t.dev.stk.tlb, pageIns := t.dev.stk.pageIns, pageOuts := t.dev.stk.pageOuts } } } ∧ r t

/-- The entry of a Shelf after a change that keeps its address. -/
theorem Stk.entry_mapIf {k k' : Stk} {session idx : Nat} {g : ShelfEntry → ShelfEntry} (entry : k.entry? session idx = some e)
    (shelves : k'.shelves = mapIf (fun y => y.session == session && y.idx == idx) g k.shelves)
    (keeps : ∀ y, (g y).session = y.session ∧ (g y).idx = y.idx) : k'.entry? session idx = some (g e) := by
  rw [Stk.entry?, shelves, find?_mapIf fun y => by rw [(keeps y).1, (keeps y).2], ← Stk.entry?, entry, Option.map_some]

theorem not_mem_filter_ne {α : Type} [BEq α] [LawfulBEq α] (x : α) (l : List α) : x ∉ l.filter (· != x) := by
  simp

/-- The state after the one transfer: the entry of its Shelf changed, over given memories, messages to the host and counts. -/
def State.transferred (s : State) (x : Xfer) (g : ShelfEntry → ShelfEntry) (m : Mem) (host : List HostTxn) (ins outs : Reg) : State :=
  { s with
    mem := m
    dev := { s.dev with
      host
      stk := { s.dev.stk with
        xfers := []
        shelves := mapIf (fun y => y.session == x.session && y.idx == x.idx) g s.dev.stk.shelves
        tlb := s.dev.stk.tlb.filter (· != (x.session, x.idx))
        pageIns := ins
        pageOuts := outs } } }

theorem State.Ending.transferEnds {g : ShelfEntry → ShelfEntry} {m : Mem} {host : List HostTxn} {ins outs : Reg} {r : State → Prop}
    (ending : s.Ending x e)
    (after : s.transferEnd x e = s.transferred x g m host ins outs)
    (keeps : ∀ y, (g y).session = y.session ∧ (g y).idx = y.idx) (handle : (g e).handle = e.handle) (spill : (g e).spill = e.spill)
    (came : x.inward = true → (g e).acc = true ∧ (g e).since = s.dev.tim.ticks) (holds : ∀ t : State, t.mem = m → t.dev.host = host → r t) :
    TransferEnds s x e (g e).place r :=
  ⟨_, ending.ends after rfl rfl rfl, rfl, not_mem_filter_ne (x.session, x.idx) s.dev.stk.tlb,
    ⟨_, Stk.entry_mapIf ending.entry rfl keeps, rfl, handle, spill, came⟩, rfl, holds _ rfl rfl⟩

/-! A page-in (R175, R178). -/

/-- The memories after a page-in of n bytes: the Cellar holds what the slot held, and the slot is free. -/
def Mem.copyIn (m : Mem) (a slotAt n : Nat) : Mem :=
  { m.cellarPut a (Tbl.getRun 0 m.pool slotAt n) with pool := Tbl.putRun 0 m.pool slotAt (List.replicate n 0) }

theorem Tbl.length_getRun {α : Type} (v : α) (t : Tbl α) : ∀ n k, (Tbl.getRun v t k n).length = n
  | 0, _ => rfl
  | n + 1, k => congrArg (· + 1) (Tbl.length_getRun v t n (k + 1))

section
variable {m : Mem} {a j slotAt n : Nat}

theorem Mem.copyIn_cellarGet (kept : m.lostAt a n = false) : (m.copyIn a slotAt n).cellarGet a n = Tbl.getRun 0 m.pool slotAt n := by
  have length : (Tbl.getRun 0 m.pool slotAt n).length = n := Tbl.length_getRun ..
  have stored := Mem.cellarGet_put m a (Tbl.getRun 0 m.pool slotAt n) (by rw [length]; exact kept)
  rw [length] at stored
  exact stored

theorem Mem.copyIn_other (out : j < a ∨ a + n ≤ j) : Tbl.get 0 (m.copyIn a slotAt n).cellar j = Tbl.get 0 m.cellar j :=
  Mem.cellarPut_other m _ _ j (by rw [Tbl.length_getRun]; exact out)

theorem Mem.copyIn_loft : (m.copyIn a slotAt n).loft = m.loft := by
  have put : ∀ b, (m.cellarPut a b).loft = m.loft := fun b => by
    unfold Mem.cellarPut
    split <;> rfl
  exact put _

theorem Mem.cellarGet_length : (m.cellarGet a n).length = n := Tbl.length_getRun ..

end

/-- A Shelf that came in. -/
def ShelfEntry.came (e : ShelfEntry) (p : Nat) (now : BitVec 64) : ShelfEntry := { e with place := .resident p, acc := true, since := now }

/-- A page-in that no one asked for tells no one. -/
theorem State.pageInsOver_alone {st : Status} (only : s.dev.stk.xfers = [x]) (inward : x.inward = true) (none : x.requester = .none_) :
    s.pageInsOver x st = s.ended := by
  have self : (x.inward && x.sameShelf x) = true := by simp [inward, Xfer.sameShelf]
  have told : ∀ s : State, s.pageInEnded x st = s := fun s => by rw [State.pageInEnded, none]
  unfold State.pageInsOver
  simp only [only, List.filter_cons, self, List.filter_nil, if_true, Bool.not_true, Bool.false_eq_true, if_false, List.foldl_cons,
    List.foldl_nil, told, State.ended, State.onDev]

theorem State.pageInDone_alone {slot : Nat} (only : s.dev.stk.xfers = [x]) (inward : x.inward = true) (none : x.requester = .none_) :
    s.pageInDone x slot = s.transferred x (fun y => y.came x.shelf s.dev.tim.ticks)
      (s.mem.copyIn (x.shelf * shelfBytes) (s.dev.stk.slotAddr slot) shelfBytes) s.dev.host
      (BitVec.ofNat 32 (satInc 32 s.dev.stk.pageIns.toNat)) s.dev.stk.pageOuts := by
  unfold State.pageInDone
  generalize shelfBytes = n
  have told : ∀ t : State, t.dev.stk.xfers = [x] → t.pageInsOver x .ok = t.ended := fun t is => State.pageInsOver_alone is inward none
  refine (told _ ?_).trans ?_
  · exact only
  · rfl

theorem State.Ending.pagesIn {slot : Nat} (ending : s.Ending x e) (inward : x.inward = true) (none : x.requester = .none_)
    (paged : e.place = .paged slot) (kept : s.mem.lostAt (x.shelf * shelfBytes) shelfBytes = false) :
    TransferEnds s x e (.resident x.shelf) fun t => t.dev.host = s.dev.host ∧
      t.mem.cellarGet (x.shelf * shelfBytes) shelfBytes = Tbl.getRun 0 s.mem.pool (s.dev.stk.slotAddr slot) shelfBytes ∧
      (∀ a, a < x.shelf * shelfBytes ∨ (x.shelf + 1) * shelfBytes ≤ a → Tbl.get 0 t.mem.cellar a = Tbl.get 0 s.mem.cellar a) ∧
      t.mem.loft = s.mem.loft := by
  refine ending.transferEnds (g := fun y => y.came x.shelf s.dev.tim.ticks)
    ((State.transferEnd_in inward paged).trans (State.pageInDone_alone ending.only inward none))
    (fun _ => ⟨rfl, rfl⟩) rfl rfl (fun _ => ⟨rfl, rfl⟩) fun t mem host => ⟨host, ?_, fun a out => ?_, ?_⟩
  · rw [mem, Mem.copyIn_cellarGet kept]
  · rw [mem, Mem.copyIn_other (by rw [← Nat.add_one_mul]; exact out)]
  · rw [mem, Mem.copyIn_loft]

/-! A page-out (R172, R179). -/

/-- A read of sound granules corrects nothing. -/
theorem State.celRead_sound {a n session addr : Nat} {domain : BitVec 16} (sound : s.mem.poisoned a n = false) (plain : s.mem.fixable a n = []) :
    s.celRead a n domain session addr = s := by
  rw [State.celRead, plain, State.celFix, List.foldl_nil, sound]
  rfl

/-- The memories after a page-out of n bytes. -/
def Mem.copyOut (m : Mem) (a slotAt n : Nat) : Mem := { m with pool := Tbl.putRun 0 m.pool slotAt (m.cellarGet a n) }

theorem Mem.copyOut_pool {m : Mem} {a slotAt n : Nat} : Tbl.getRun 0 (m.copyOut a slotAt n).pool slotAt n = m.cellarGet a n := by
  have stored := Tbl.getRun_putRun 0 (m.cellarGet a n) m.pool slotAt
  rw [Mem.cellarGet_length] at stored
  exact stored

/-- The messages of a write to the host. -/
def hostMessages (a : Nat) (b : List Byte) : List HostTxn := (hostLines (b.length / 64 + 2) a b).map hostLine

theorem Dev.hostWrite_host (d : Dev) (a : Nat) (b : List Byte) : (d.hostWrite a b).host = d.host ++ hostMessages a b := rfl

/-- A write to the host changes what is sent to it alone. -/
theorem Dev.hostWrite_with (d : Dev) (a : Nat) (b : List Byte) (k : Stk) :
    ({ d.hostWrite a b with stk := k } : Dev) = { d with host := d.host ++ hostMessages a b, stk := k } := rfl

/-- A page-out without a migration brings no donor. -/
theorem State.donorStep_still {p : Option Nat} (still : s.dev.cel.mig = none) : s.donorStep p = s := by
  rw [State.donorStep, still]

theorem State.transferred_cel {g : ShelfEntry → ShelfEntry} {m : Mem} {host : List HostTxn} {ins outs : Reg} :
    (s.transferred x g m host ins outs).dev.cel = s.dev.cel := rfl

/-- What a page-out changes, over given bytes and their place in the host's memory. -/
theorem State.pagedOut_transferred (s : State) (x : Xfer) (a : Nat) (b : List Byte) :
    ((s.ended.onMem fun m => { m with pool := Tbl.putRun 0 m.pool a b }).onDev fun d => { d with
      host := d.host ++ hostMessages a b
      stk := { d.stk with
        shelves := mapIf (fun y => y.session == x.session && y.idx == x.idx) (fun y => { y with place := .paged x.slot }) d.stk.shelves
        tlb := d.stk.tlb.filter (· != (x.session, x.idx))
        pageOuts := BitVec.ofNat 32 (satInc 32 d.stk.pageOuts.toNat) } }) =
    s.transferred x (fun y => { y with place := .paged x.slot }) { s.mem with pool := Tbl.putRun 0 s.mem.pool a b }
      (s.dev.host ++ hostMessages a b) s.dev.stk.pageIns (BitVec.ofNat 32 (satInc 32 s.dev.stk.pageOuts.toNat)) := rfl

theorem State.pageOutDone_alone {p : Nat} (own : x.forAlloc = false) (still : s.dev.cel.mig = none) :
    s.ended.pageOutDone x p = s.transferred x (fun y => { y with place := .paged x.slot })
      (s.mem.copyOut (p * shelfBytes) (s.dev.stk.slotAddr x.slot) shelfBytes)
      (s.dev.host ++ hostMessages (s.dev.stk.slotAddr x.slot) (s.mem.cellarGet (p * shelfBytes) shelfBytes)) s.dev.stk.pageIns
      (BitVec.ofNat 32 (satInc 32 s.dev.stk.pageOuts.toNat)) := by
  have addr : s.ended.dev.stk.slotAddr x.slot = s.dev.stk.slotAddr x.slot := rfl
  have mem : s.ended.mem = s.mem := rfl
  unfold State.pageOutDone
  simp only [Dev.hostWrite_with, own, Bool.false_eq_true, if_false]
  rw [State.pagedOut_transferred, State.donorStep_still (by rw [State.transferred_cel]; exact still), addr, mem, Mem.copyOut, Mem.cellarGet]

theorem State.endPageOut_sound {p : Nat} (loose : s.dev.pinned e = false)
    (sound : s.mem.poisoned (p * shelfBytes) shelfBytes = false) (plain : s.mem.fixable (p * shelfBytes) shelfBytes = []) :
    s.ended.endPageOut x e p .done = s.ended.pageOutDone x p := by
  have loose' : s.ended.dev.pinned e = false := loose
  have sound' : s.ended.mem.poisoned (p * shelfBytes) shelfBytes = false := sound
  rw [State.endPageOut, loose', if_neg Bool.false_ne_true]
  dsimp only
  rw [State.celRead_sound sound' plain, sound', if_neg Bool.false_ne_true]

theorem State.Ending.pagesOut {p : Nat} (ending : s.Ending x e) (outward : x.inward = false) (own : x.forAlloc = false)
    (resident : e.place = .resident p) (loose : s.dev.pinned e = false) (still : s.dev.cel.mig = none)
    (sound : s.mem.poisoned (p * shelfBytes) shelfBytes = false) (plain : s.mem.fixable (p * shelfBytes) shelfBytes = []) :
    TransferEnds s x e (.paged x.slot) fun t =>
      let b := s.mem.cellarGet (p * shelfBytes) shelfBytes
      t.dev.host = (s.dev.hostWrite (s.dev.stk.slotAddr x.slot) b).host ∧
      Tbl.getRun 0 t.mem.pool (s.dev.stk.slotAddr x.slot) shelfBytes = b ∧ t.mem = { s.mem with pool := t.mem.pool } := by
  refine ending.transferEnds (g := fun y => { y with place := .paged x.slot })
    ((State.transferEnd_out outward resident).trans ((State.endPageOut_sound loose sound plain).trans (State.pageOutDone_alone own still)))
    (fun _ => ⟨rfl, rfl⟩) rfl rfl (fun inward => absurd (inward.symm.trans outward) (by decide)) fun t mem host => ⟨?_, ?_, ?_⟩
  · rw [host, Dev.hostWrite_host]
  · rw [mem, Mem.copyOut_pool]
  · rw [mem, Mem.copyOut]

end

/-! The ageing sweep (R174). -/

theorem ageingSweep_sweeps (s : State) : ∃ t, exec .ageingSweep s = .next t ∧
    t = { s with dev := { s.dev with stk := { s.dev.stk with shelves := t.dev.stk.shelves, tlb := t.dev.stk.tlb } } } ∧
    (∀ p ∈ t.dev.stk.tlb, p ∈ s.dev.stk.tlb) ∧ t.dev.stk.shelves = s.dev.stk.shelves.map fun e => { e with acc := false } := by
  have ran : exec .ageingSweep s = execAgeingSweep s := rfl
  exact ⟨_, ran, rfl, fun _ mem => (List.mem_filter.1 mem).1, rfl⟩

end Sys2Proof.Machine
end

section
namespace Sys2Proof.Machine

/-! The configuration of the Storekeeper is guarded (R146, R862). -/

section
variable {s : State} {d : Dev} {tt : Bool} {v : BitVec 32}

/-- A write of the configuration is rejected with a NOTE. -/
def WriteNoted (s : State) (i : Instr) (st : Status) : Prop :=
  ∃ t r, exec i s = .next t ∧ t = { s with dev := { s.dev with rel := t.dev.rel } } ∧
    t.dev.rel.queue = s.dev.rel.queue ++ [r] ∧ r.code = st.code ∧ r.sev = 0 ∧ r.domain = domDevice ∧ r.src = 0x82

theorem WriteNoted.of_note {i : Instr} {st : Status} (room : s.dev.rel.queue.length < 64)
    (ran : exec i s = .next { s with dev := s.dev.note st domDevice srcStk }) : WriteNoted s i st := by
  rw [Dev.note] at ran
  refine ⟨_, _, ran, ?_, Dev.log_queue _ _ room, rfl, rfl, rfl, rfl⟩
  dsimp only
  rw [Dev.log_quiet _ _ (by decide : (0 : Nat) < 2)]

theorem exec_stkPoolCfgWrite (served : s.dev.served = true) (tt : Bool) (v : BitVec 32) :
    exec (.stkPoolCfgWrite tt v) s = .next { s with dev := s.dev.poolCfgWrite tt v } := hostStep_served _ served

theorem exec_stkPageCfgWrite (served : s.dev.served = true) (v : BitVec 32) :
    exec (.stkPageCfgWrite v) s = .next { s with dev := s.dev.pageCfgWrite v } := hostStep_served _ served

theorem exec_lock (served : s.dev.served = true) (alive : s.dev.rel.devFault = false) :
    exec .lock s = .next { s with dev := s.dev.stkLock } := startStep_served _ served alive

theorem Dev.poolCfgWrite_locked (locked : bit d.stk.ctl 31 = true) : d.poolCfgWrite tt v = d := if_pos locked

section
variable (free : bit d.stk.ctl 31 = false)
include free

theorem Dev.poolCfgWrite_open (others : d.othersOpen = true) : d.poolCfgWrite tt v = d.note .cfgLocked domDevice srcStk := by
  rw [Dev.poolCfgWrite, free, if_neg Bool.false_ne_true, if_pos others]

variable (closed : d.othersOpen = false)
include closed

theorem Dev.poolCfgWrite_tables_range (bad : fld v 0 16 < 16 ∨ 1024 < fld v 0 16) :
    d.poolCfgWrite true v = d.note .cfgRange domDevice srcStk := by
  rw [Dev.poolCfgWrite, free, closed]
  exact if_pos bad

theorem Dev.poolCfgWrite_tables (low : 16 ≤ fld v 0 16) (high : fld v 0 16 ≤ 1024)
    (apart : d.crosses d.progPages d.ctxPages (fld v 0 16) = false) :
    d.poolCfgWrite true v = { d with stk := { d.stk with ttCfg := v &&& 0xFFFF } } := by
  have fits : ¬ (fld v 0 16 < 16 ∨ 1024 < fld v 0 16) := by omega
  rw [Dev.poolCfgWrite, free, closed]
  simp only [Bool.false_eq_true, if_false, if_true, if_neg fits, apart]

theorem Dev.poolCfgWrite_pages (lowP : 16 ≤ fld v 0 10) (highP : fld v 0 10 ≤ 512) (lowC : 16 ≤ fld v 16 10) (highC : fld v 16 10 ≤ 512)
    (apart : d.crosses (fld v 0 10) (fld v 16 10) d.ttShelves = false) :
    d.poolCfgWrite false v = { d with stk := { d.stk with poolCfg := v &&& 0x03FF03FF } } := by
  have fits : ¬ (fld v 0 10 < 16 ∨ 512 < fld v 0 10 ∨ fld v 16 10 < 16 ∨ 512 < fld v 16 10) := by omega
  rw [Dev.poolCfgWrite, free, closed]
  simp only [Bool.false_eq_true, if_false, if_neg fits, apart]

end

theorem Dev.pageCfgWrite_range (bad : fld v 12 12 ≤ fld v 0 12 ∨ fld v 24 7 < 4 ∨ 64 < fld v 24 7) :
    d.pageCfgWrite v = d.note .cfgRange domDevice srcStk := if_pos bad

theorem Dev.pageCfgWrite_takes (below : fld v 0 12 < fld v 12 12) (low : 4 ≤ fld v 24 7) (high : fld v 24 7 ≤ 64) :
    d.pageCfgWrite v = { d with stk := { d.stk with pageCfg := v &&& 0x7FFFFFFF } } := if_neg (by omega)

end

/-- Settles O19: page-outs start below LOW with the coldest Shelf, a page-in in the lowest free one; the transfer that ends moves
its bytes and its entry; the guards of the configuration are tested in their order. -/
theorem shelvesArePagedAndConfigured : Obligations.shelvesArePagedAndConfigured := by
  refine ⟨fun s => ⟨pageOut_rests, fun e few above idle room coldest => pageOut_starts few above idle room coldest,
    fun n i r e slot p entry paged idle free => pageIn_starts entry paged idle free,
    fun x e only runs entry handle quiet stays => ⟨fun slot inward none paged kept => ?_,
      fun p outward own resident loose still sound plain => ?_⟩, ageingSweep_sweeps s⟩, fun s v served room => ⟨?_, ?_, ?_, ?_, ?_, ?_⟩⟩
  · exact State.Ending.pagesIn ⟨only, runs, entry, handle, quiet, stays⟩ inward none paged kept
  · exact State.Ending.pagesOut ⟨only, runs, entry, handle, quiet, stays⟩ outward own resident loose still sound plain
  · intro locked tt
    rw [exec_stkPoolCfgWrite served, Dev.poolCfgWrite_locked locked]
  · intro free others tt
    exact WriteNoted.of_note room (by rw [exec_stkPoolCfgWrite served, Dev.poolCfgWrite_open free others])
  · intro free closed
    refine ⟨fun bad => ?_, fun low high apart => ?_, fun lowP highP lowC highC apart => ?_⟩
    · exact WriteNoted.of_note room (by rw [exec_stkPoolCfgWrite served, Dev.poolCfgWrite_tables_range free closed bad])
    · exact (exec_stkPoolCfgWrite served true v).trans (by rw [Dev.poolCfgWrite_tables free closed low high apart]; rfl)
    · exact (exec_stkPoolCfgWrite served false v).trans (by rw [Dev.poolCfgWrite_pages free closed lowP highP lowC highC apart]; rfl)
  · intro below low high
    exact (exec_stkPageCfgWrite served v).trans (by rw [Dev.pageCfgWrite_takes below low high]; rfl)
  · intro bad
    exact WriteNoted.of_note room (by rw [exec_stkPageCfgWrite served, Dev.pageCfgWrite_range bad])
  · exact fun alive => exec_lock served alive

end Sys2Proof.Machine
end

section
namespace Sys2Proof.Machine

/-! The first block of an extended multiblock on a port that takes the next one for the upper port of its pair (R217, R248, R255). -/

/-- The one cell of a LINK that says BOND and nothing else. -/
def bondCells : List (BitVec 36) := [0x4000000]

/-- The block that starts an extended multiblock on physical lane 0. -/
def embFirst : LaneBlock := { lane := 0, octets := 0, embStart := true }

/-- Port 1 aligns under a LINK of its own with BOND, which R248 leaves to a lower port, while port 2 awaits SYSREF. -/
def oddBond : State :=
  { State.reset with dev := { State.reset.dev with
      units := [(1, { com := [(256, bondCells)] })]
      ing := [(1, { st := .laneSync, lanes := [(0, { cdr := true, bsync := true })] }), (2, { st := .sysrefWait, beat := 5 })] } }

/-- The beat counter of port 2 after the block has come to port 1. -/
def beatBeside : Option Nat :=
  match exec (.beatRelease 1 [embFirst]) oddBond with
  | .next t => some (t.dev.port 2).beat
  | _ => none

/-- Refutes O22, by the clause of a lane's first block: it leaves out the premise that the LINK does not bond, which the clauses of
SYSREF edges have. Under a LINK with BOND in an upper port, which the check of a record rejects but the statement admits, the clock
of port 1 advances the beat counter of port 2 too, where the clause leaves every other port as it was. -/
theorem not_portsRunAndReportTroubles : ¬ Obligations.portsRunAndReportTroubles := by
  unfold Obligations.portsRunAndReportTroubles
  rintro ⟨starts, -⟩
  obtain ⟨-, -, -, -, -, -, -, -, -, -, -, firstBlock, -⟩ := starts oddBond 1
  obtain ⟨t, ran, ⟨-, others⟩, -⟩ := firstBlock (Link.of bondCells) embFirst 0 (by decide +kernel) (by decide +kernel) (.inl rfl) rfl rfl
    rfl rfl rfl rfl
  have moved : beatBeside = some 0 := by decide +kernel
  rw [beatBeside, ran] at moved
  dsimp only at moved
  rw [others 2 (by decide)] at moved
  exact absurd moved (by decide +kernel)

end Sys2Proof.Machine
end

section
namespace Sys2Proof.Machine

/-! What one clock of a port may change beside the port: where no record waits for the beat, the committed ones stay (R266, R340). -/

/-- Nothing changes but the ports, the Barrels, and how the record interfaces are listed. -/
structure Dev.PortSide (d d' : Dev) : Prop where
  frame : d' = { d with units := d'.units, ing := d'.ing, barrels := d'.barrels }
  units : ∀ u, d'.unit u = d.unit u

section
variable {d d' d'' : Dev} {p q u : Nat}

theorem Dev.PortSide.refl (d : Dev) : d.PortSide d := ⟨rfl, fun _ => rfl⟩

theorem Dev.PortSide.trans (a : d.PortSide d') (b : d'.PortSide d'') : d.PortSide d'' := by
  refine ⟨?_, fun u => (b.units u).trans (a.units u)⟩
  have last := b.frame
  rw [a.frame] at last
  exact last

theorem Dev.PortSide.onPort (f : Ing → Ing) : d.PortSide (d.onPort p f) := ⟨rfl, fun _ => rfl⟩

theorem Dev.PortSide.pauseBarrels (stopped : Nat → Bool) : d.PortSide (d.pauseBarrels p stopped) := ⟨rfl, fun _ => rfl⟩

theorem Dev.PortSide.rel (a : d.PortSide d') : d'.rel = d.rel := by rw [a.frame]
theorem Dev.PortSide.host (a : d.PortSide d') : d'.host = d.host := by rw [a.frame]
theorem Dev.PortSide.stamp (a : d.PortSide d') : d'.stamp = d.stamp := by rw [a.frame]; rfl

theorem Dev.PortSide.rec? (a : d.PortSide d') (u typ sub : Nat) : d'.rec? u typ sub = d.rec? u typ sub := by
  rw [Dev.rec?, a.units, Dev.rec?]

theorem Dev.PortSide.pSync (a : d.PortSide d') (q : Nat) : d'.pSync q = d.pSync q := by
  have upper : d'.upperPort q = d.upperPort q := by rw [Dev.upperPort, a.rec?, Dev.upperPort]
  simp only [Dev.pSync, Dev.sync, upper, a.rec?]

/-- A boundary that no record waits for takes none. -/
theorem Dev.takeShadow_none (none : (d.unit u).shadow = []) (typ : Shadow → Bool) :
    (d.takeShadow u typ).1 = [] ∧ d.PortSide (d.takeShadow u typ).2 := by
  have kept : (d.unit u).shadow.filter (fun x => !typ x) = (d.unit u).shadow := by rw [none, List.filter_nil]
  refine ⟨by rw [Dev.takeShadow, none, List.filter_nil], rfl, fun v => ?_⟩
  by_cases here : v = u
  · subst here
    exact (Dev.unit_onUnit ..).trans (by rw [kept])
  · exact d.unit_onUnit_ne _ here

theorem Dev.ingCommit_none (none : (d.unit p).shadow = []) :
    d.PortSide (d.ingCommit p) ∧ ∀ q, (d.ingCommit p).port q = d.port q := by
  obtain ⟨taken, side⟩ := Dev.takeShadow_none none fun x => 4 ≤ x.typ
  unfold Dev.ingCommit
  split
  · exact ⟨.refl d, fun _ => rfl⟩
  · simp only [taken, List.foldl_nil]
    exact ⟨side, fun _ => rfl⟩

theorem Dev.chnCommit_none (none : (d.unit (chnUnit p)).shadow = []) :
    d.PortSide (d.chnCommit p) ∧ ∀ q, (d.chnCommit p).port q = d.port q := by
  obtain ⟨taken, side⟩ := Dev.takeShadow_none none fun _ => true
  simp only [Dev.chnCommit, taken, List.foldl_nil]
  exact ⟨side, fun _ => rfl⟩

theorem Dev.commits_none (own : (d.unit p).shadow = []) (chan : (d.unit (chnUnit p)).shadow = []) :
    d.PortSide ((d.ingCommit p).chnCommit p) ∧ ∀ q, ((d.ingCommit p).chnCommit p).port q = d.port q := by
  obtain ⟨side, same⟩ := Dev.ingCommit_none own
  obtain ⟨side', same'⟩ := Dev.chnCommit_none (d := d.ingCommit p) (p := p) (by rwa [side.units])
  exact ⟨side.trans side', fun q => (same' q).trans (same q)⟩

end

/-! One port, and the two ports of a stream (R250). -/

/-- Port q becomes `g`, and no other port changes. -/
structure Dev.PortTo (d : Dev) (q : Nat) (g : Ing) (d' : Dev) : Prop where
  side : d.PortSide d'
  here : d'.port q = g
  others : ∀ r, r ≠ q → d'.port r = d.port r

/-- Port p becomes `lo`, a pair's upper port beside it becomes `hi`, and no other port changes. -/
structure Dev.StreamTo (d : Dev) (p : Nat) (k : Link) (lo hi : Ing) (d' : Dev) : Prop where
  side : d.PortSide d'
  lower : d'.port p = lo
  upper : k.bond = true → d'.port (p + 1) = hi
  others : ∀ q, q ≠ p → (k.bond = true → q ≠ p + 1) → d'.port q = d.port q

section
variable {d d' d'' : Dev} {p q : Nat} {k : Link} {g h lo hi : Ing}

theorem Dev.PortTo.onPort (a : d.PortTo q g d') (f : Ing → Ing) : d.PortTo q (f g) (d'.onPort q f) :=
  ⟨a.side.trans (.onPort f), (d'.port_onPort q f).trans (congrArg f a.here),
    fun r other => (d'.port_onPort_ne other f).trans (a.others r other)⟩

theorem Dev.PortTo.refl (d : Dev) (q : Nat) : d.PortTo q (d.port q) d := ⟨.refl d, rfl, fun _ _ => rfl⟩

theorem Dev.StreamTo.refl (d : Dev) (p : Nat) (k : Link) : d.StreamTo p k (d.port p) (d.port (p + 1)) d :=
  ⟨.refl d, rfl, fun _ => rfl, fun _ _ _ => rfl⟩

theorem Dev.StreamTo.onLower (a : d.StreamTo p k lo hi d') (b : d'.PortTo p g d'') : d.StreamTo p k g hi d'' where
  side := a.side.trans b.side
  lower := b.here
  upper bond := (b.others _ (Nat.succ_ne_self p)).trans (a.upper bond)
  others q other beyond := (b.others q other).trans (a.others q other beyond)

theorem Dev.StreamTo.onUpper (a : d.StreamTo p k lo hi d') (bond : k.bond = true) (b : d'.PortTo (p + 1) g d'') :
    d.StreamTo p k lo g d'' where
  side := a.side.trans b.side
  lower := (b.others _ (Nat.succ_ne_self p).symm).trans a.lower
  upper _ := b.here
  others q other beyond := (b.others q (beyond bond)).trans (a.others q other beyond)

theorem Dev.StreamTo.setLower (a : d.StreamTo p k lo hi d') (f : Ing → Ing) : d.StreamTo p k (f lo) hi (d'.onPort p f) :=
  a.lower ▸ a.onLower ((Dev.PortTo.refl d' p).onPort f)

theorem Dev.StreamTo.setUpper (a : d.StreamTo p k lo hi d') (bond : k.bond = true) (f : Ing → Ing) :
    d.StreamTo p k lo (f hi) (d'.onPort (p + 1) f) :=
  a.upper bond ▸ a.onUpper bond ((Dev.PortTo.refl d' (p + 1)).onPort f)

/-- What happened before changed no port. -/
theorem Dev.StreamTo.after (b : d'.StreamTo p k lo hi d'') (a : d.PortSide d') (same : ∀ q, d'.port q = d.port q) :
    d.StreamTo p k lo hi d'' :=
  { b with side := a.trans b.side, others := fun q other beyond => (b.others q other beyond).trans (same q) }

theorem Dev.StreamTo.pauseBarrels (a : d.StreamTo p k lo hi d') (stopped : Nat → Bool) :
    d.StreamTo p k lo hi (d'.pauseBarrels p stopped) :=
  { a with side := a.side.trans (.pauseBarrels stopped) }

/-- A stream that does not bond has no upper port. -/
theorem Dev.StreamTo.single (a : d.StreamTo p k lo hi d') (single : k.bond = false) (g : Ing) : d.StreamTo p k lo g d' :=
  { a with upper := fun bond => absurd (bond.symm.trans single) Bool.noConfusion }

end

/-! The words of a beat (R240, R242). -/

/-- A port whose stream holds the words of its next beat, all of which came in time and found room. -/
structure Ing.HoldsBeat (g : Ing) : Prop where
  emits : g.emits = true
  linked : g.relinking = false
  steady : g.gapBeats = 0
  enough : 10 ≤ g.stream.length
  present : ∀ w ∈ g.stream.take 10, w ≠ .missing ∧ w ≠ .overflow

/-- The words of a beat leave the stream. -/
def Ing.passBeat (g : Ing) : Ing := { g with stream := g.stream.drop 10 }

/-- ING_OVR_CNT counts n samples more (R237). -/
def Ing.countOver (n : Nat) (g : Ing) : Ing := { g with ovr := BitVec.ofNat 32 (satInc 32 g.ovr.toNat n) }

section
variable {d d' : Dev} {p q : Nat} {k : Link} {g lo hi : Ing}

theorem Ing.HoldsBeat.beatWords (holds : g.HoldsBeat) (k : Link) :
    g.beatWords k = (g.stream.take 10, g.passBeat) := by
  have unpacked : g.unpack k 10 10 = g := if_pos holds.enough
  simp [Ing.beatWords, holds.emits, holds.linked, holds.steady, Ing.takeWords, unpacked, Ing.passBeat]

theorem Dev.beatErrors_present {words : List RawWord} (present : ∀ w ∈ words, w ≠ .missing ∧ w ≠ .overflow) :
    d.beatErrors p k q words = d.onPort q (.countOver (words.filter fun w => d.wordOver p k w).length) := by
  have missing : words.contains .missing = false := by simpa using fun mem => (present _ mem).1 rfl
  have overflow : words.contains .overflow = false := by simpa using fun mem => (present _ mem).2 rfl
  simp only [Dev.beatErrors, missing, overflow, Bool.false_eq_true, if_false]
  rfl

theorem Dev.takeBeat_gives (d : Dev) (p : Nat) (k : Link) (holds : (d.port q).HoldsBeat) :
    ∃ n, d.PortTo q ((d.port q).passBeat.countOver n) (d.takeBeat p k q).2 := by
  have passed := (Dev.PortTo.refl d q).onPort fun _ => (d.port q).passBeat
  simp only [Dev.takeBeat, holds.beatWords, Dev.beatErrors_present holds.present]
  exact ⟨_, passed.onPort (.countOver _)⟩

theorem Dev.takeStream_gives (lower : (d.port p).HoldsBeat) (upper : k.bond = true → (d.port (p + 1)).HoldsBeat) :
    ∃ n m, d.StreamTo p k ((d.port p).passBeat.countOver n) ((d.port (p + 1)).passBeat.countOver m) (d.takeStream p k).2 := by
  obtain ⟨n, first⟩ := d.takeBeat_gives p k lower
  have own := (Dev.StreamTo.refl d p k).onLower first
  cases bond : k.bond with
  | false =>
    simp only [Dev.takeStream, bond, Bool.not_false, if_true]
    exact ⟨n, 0, own.single bond _⟩
  | true =>
    have beside := own.upper bond
    obtain ⟨m, second⟩ := (d.takeBeat p k p).2.takeBeat_gives p k (q := p + 1) (beside.symm ▸ upper bond)
    simp only [Dev.takeStream, bond, Bool.not_true, Bool.false_eq_true, if_false]
    exact ⟨n, m, own.onUpper bond (beside ▸ second)⟩

/-! The first beat is held (R242). -/

/-- A port that held no beat holds the samples of the one it releases, and their stamp. -/
def Ing.hold (new : List Smp) (stamp : Stamp) (ext : Nat) (g : Ing) : Ing :=
  { g with
    tsOffset := g.tsNext, n := g.n + new.length
    before := if g.pend.isEmpty then List.replicate 4 {} else (g.before ++ g.pend).drop g.pend.length
    pend := new, pendStamp := stamp, ext, gap := BitVec.ofNat 32 (satInc 32 g.gap.toNat 0) }

@[simp] theorem Ing.emits_passBeat (g : Ing) : g.passBeat.emits = g.emits := by dsimp only [Ing.emits, Ing.passBeat]
@[simp] theorem Ing.emits_countOver (n : Nat) (g : Ing) : (g.countOver n).emits = g.emits := by dsimp only [Ing.emits, Ing.countOver]
@[simp] theorem Ing.emits_hold (new : List Smp) (stamp : Stamp) (ext : Nat) (g : Ing) : (g.hold new stamp ext).emits = g.emits := by
  dsimp only [Ing.emits, Ing.hold]

/-- The samples of the beat that a stream's words give. -/
def Dev.newSmps (d : Dev) (p : Nat) (k : Link) : List Smp :=
  (d.takeStream p k).2.beatSmps p k (d.port p).n fun i => (((d.takeStream p k).1)[i]?).getD .gone

theorem Dev.length_newSmps (d : Dev) (p : Nat) (k : Link) : (d.newSmps p k).length = k.perBeat :=
  (List.length_map _).trans List.length_range

theorem Dev.releaseBeat_first (first : (d.port p).pend = []) (k : Link) : d.releaseBeat p k =
    ((d.takeStream p k).2.onPort p
      (.hold (d.newSmps p k) ((d.takeStream p k).2.stamp - (d.port p).tsNext.signExtend 72) (d.port p).ext), []) := by
  simp only [Dev.releaseBeat, first, List.isEmpty_nil, if_true, stampCellsOf]
  rfl

/-- The beat counter goes on or starts anew (R255), in the multiblock numbered `e`. -/
def Ing.advance (pSync e : Nat) (g : Ing) : Ing := { g with beat := if pSync ≤ g.beat + 1 then 0 else g.beat + 1, emb0 := e }

theorem Ing.tick_emits (emits : g.emits = true) (k : Link) (n : Nat) : ∃ e, g.tick k n = g.advance n e := by
  have moving : g.tick k n = if n ≤ g.beat + 1 then { g with beat := 0, emb0 := g.emb0 + n * k.beatBits / k.lemcBits g.active }
      else { g with beat := g.beat + 1 } := by
    unfold Ing.tick
    split
    next idle => exact absurd emits (by simp [Ing.emits, idle])
    next waits => exact absurd emits (by simp [Ing.emits, waits])
    next => rfl
  rw [moving]
  unfold Ing.advance
  split
  · exact ⟨_, rfl⟩
  · exact ⟨g.emb0, rfl⟩

theorem Dev.tickPorts_advances (a : d.StreamTo p k lo hi d') (lower : lo.emits = true) (upper : k.bond = true → hi.emits = true) :
    ∃ e e', d.StreamTo p k (lo.advance (d.pSync p) e) (hi.advance (d.pSync (p + 1)) e') (d'.tickPorts p k) := by
  obtain ⟨e, ticked⟩ := Ing.tick_emits lower k (d.pSync p)
  have first := a.setLower fun g => g.tick k (d.pSync p)
  rw [ticked] at first
  cases bond : k.bond with
  | false =>
    simp only [Dev.tickPorts, Link.ports, bond, Bool.false_eq_true, if_false, List.foldl_cons, List.foldl_nil, a.side.pSync]
    exact ⟨e, 0, first.single bond _⟩
  | true =>
    obtain ⟨e', ticked'⟩ := Ing.tick_emits (upper bond) k (d.pSync (p + 1))
    have second := first.setUpper bond fun g => g.tick k (d.pSync (p + 1))
    rw [ticked'] at second
    simp only [Dev.tickPorts, Link.ports, bond, if_true, List.foldl_cons, List.foldl_nil, a.side.pSync, first.side.pSync]
    exact ⟨e, e', second⟩

/-! The clock of a port that runs, and the coarse round that is due (R240, R332, R334). -/

/-- The beat a port has released held GAP cells only. -/
def Ing.markBlind (g : Ing) : Ing := { g with blind := true }

/-- A clock of a stream whose port released its first beat: nothing leaves the port. -/
theorem State.beatRelease_empty {s : State} (lower : s.dev.upperPort p = false) (link : s.dev.link? p = some k)
    (emits : (s.dev.port p).emits = true) (sound : s.dev.streamDown p = false)
    (released : ((s.dev.ingCommit p).chnCommit p).releaseBeat p k = (d, [])) :
    s.beatRelease p [] = { s with dev := ((d.tickPorts p k).onPort p .markBlind).pauseBarrels p fun _ => true } := by
  have none : s.dev.absorb p k [] = s.dev := rfl
  simp only [State.beatRelease, lower, link, none, emits, sound, released, Bool.false_eq_true, if_false, Bool.not_true, or_self,
    List.isEmpty_nil, if_true]
  rfl

/-- The first beat of a port that runs: it is held, and the stream's ports go on. -/
theorem State.beatRelease_first {s : State} (lower : s.dev.upperPort p = false) (link : s.dev.link? p = some k)
    (sound : s.dev.streamDown p = false) (own : (s.dev.unit p).shadow = []) (chan : (s.dev.unit (chnUnit p)).shadow = [])
    (first : (s.dev.port p).pend = []) (holds : (s.dev.port p).HoldsBeat) (beside : k.bond = true → (s.dev.port (p + 1)).HoldsBeat) :
    ∃ t n m new ext e e', s.beatRelease p [] = { s with dev := t } ∧ new.length = k.perBeat ∧ s.dev.StreamTo p k
      ((((s.dev.port p).passBeat.countOver n).hold new (s.dev.stamp - (s.dev.port p).tsNext.signExtend 72) ext).advance
        (s.dev.pSync p) e).markBlind
      (((s.dev.port (p + 1)).passBeat.countOver m).advance (s.dev.pSync (p + 1)) e') t := by
  obtain ⟨side, same⟩ := Dev.commits_none own chan
  obtain ⟨n, m, gives⟩ := Dev.takeStream_gives (k := k) (lower := (same p).symm ▸ holds) fun bond => (same (p + 1)).symm ▸ beside bond
  have released := Dev.releaseBeat_first ((congrArg Ing.pend (same p)).trans first) k
  have gave := gives.after side same
  rw [gave.side.stamp, same] at released
  rw [same, same] at gave
  obtain ⟨e, e', advanced⟩ := Dev.tickPorts_advances (gave.setLower (.hold _ _ _)) (by simpa using holds.emits)
    fun bond => by simpa using (beside bond).emits
  exact ⟨_, n, m, _, _, e, e', State.beatRelease_empty lower link holds.emits sound released, Dev.length_newSmps ..,
    (advanced.setLower _).pauseBarrels _⟩

/-- R332, R334: a due round of a channeliser whose bank is off: the time of the beat, and the wideband path's power. -/
theorem Dev.coarseRound_wideband {w : WbRec} (emits : (d.port p).emits = true) (wb : d.wbRec? p = some w) (on : w.wbEn = true)
    (off : w.nbEn = false) (enabled : bit (cellOf ((d.rec? (chnUnit p) 5).getD []) 0) 0 = true)
    (due : fld (cellOf ((d.rec? (chnUnit p) 5).getD []) 0) 1 16 ≤ (d.chan p).clocks) :
    d.coarseRound p = (d.onChan p fun g => { g with clocks := 0 },
      let t := (d.port p).pendStamp
      [{ cell := { data := BitVec.ofNat 36 t.toNat, tag := tagHeader }, time := t },
       { cell := { data := BitVec.ofNat 36 (t.toNat / 2 ^ 36), tag := tagHeader }, time := t },
       { cell := { data := BitVec.ofNat 36 ((d.chan p).wb.lp.toNat * 2 ^ 18 + 0xFF), tag := (d.chan p).wb.lpTag }, time := t, eop := true }]) := by
  have bank : d.nbOn p w = [] := by rw [Dev.nbOn, off]; rfl
  simp only [Dev.coarseRound, enabled, emits, Nat.not_lt.2 due, wb, on, bank, Bool.not_true, Bool.false_eq_true, or_self, if_false, if_true]
  rfl

end

section
variable {s : State} (p : Fin 4)

theorem exec_beatRelease (blocks : List LaneBlock) : exec (.beatRelease p blocks) s = .next (s.beatRelease p blocks) := rfl

theorem exec_coarseRound : exec (.coarseRound p) s = .next (s.onDev fun d => (d.coarseRound p).1.deliver p 2 (d.coarseRound p).2) := rfl

end

/-- Settles O23: a clock of the port in its parts, each of which changes the stream's ports alone; nothing leaves the port, for no
beat was held. The cells of a coarse round are those of its one path that is on. -/
theorem beatsAndCoarseRoundsAreDelivered : Obligations.beatsAndCoarseRoundsAreDelivered := by
  constructor
  · intro s p k ready g holds lower link own chan first beside sound _ next
    have holdsBeat : ∀ {g}, ready g → g.HoldsBeat := fun ⟨emits, linked, steady, enough, present⟩ => ⟨emits, linked, steady, enough, present⟩
    obtain ⟨d, n, m, new, ext, e, e', ran, length, change⟩ := State.beatRelease_first lower link sound own chan first (holdsBeat holds)
      fun bond => holdsBeat (beside bond)
    refine ⟨_, (exec_beatRelease p []).trans (congrArg _ ran), rfl, change.side.rel, change.side.host, change.others, fun bond => ?_, ?_⟩
    · dsimp only
      rw [change.upper bond]
      dsimp only [Ing.advance, Ing.countOver, Ing.passBeat]
    · dsimp only
      rw [change.lower]
      dsimp only [Ing.markBlind, Ing.advance, Ing.hold, Ing.countOver, Ing.passBeat]
      exact ⟨rfl, rfl, length, congrArg (g.n + ·) length, rfl, rfl, rfl⟩
  · intro s p w emits wb on off c g t0 enabled due head
    rw [exec_coarseRound, State.onDev, Dev.coarseRound_wideband emits wb on off enabled due]
    rfl

end Sys2Proof.Machine
end

section
namespace Sys2Proof.Machine

/-! Lanes of a port, and changes that stay within one port (R216, R267). -/

section
variable (g : Ing) (q : Nat) (f : Lane → Lane)

@[simp] theorem Ing.lane_onLane : (g.onLane q f).lane q = f (g.lane q) := Tbl.get_upd_self ..

theorem Ing.lane_onLane_ne {k : Nat} (other : k ≠ q) : (g.onLane q f).lane k = g.lane k := (Tbl.get_upd ..).trans (if_neg other)

end

/-- Nothing of the device changes but port p, and the records and messages of errors. -/
structure Dev.PortAlone (d : Dev) (p : Nat) (d' : Dev) : Prop where
  frame : d' = { d with ing := d'.ing, rel := d'.rel, host := d'.host, hlk := { d.hlk with msiPending := d'.hlk.msiPending } }
  others : ∀ q, q ≠ p → d'.port q = d.port q

section
variable {s : State} {d d' d'' : Dev} {p : Nat}

theorem Dev.PortAlone.refl (d : Dev) (p : Nat) : d.PortAlone p d := ⟨rfl, fun _ _ => rfl⟩

theorem Dev.PortAlone.trans (a : d.PortAlone p d') (b : d'.PortAlone p d'') : d.PortAlone p d'' := by
  refine ⟨?_, fun q other => (b.others q other).trans (a.others q other)⟩
  have last := b.frame
  rw [a.frame] at last
  exact last

theorem Dev.PortAlone.onPort (a : d.PortAlone p d') (f : Ing → Ing) : d.PortAlone p (d'.onPort p f) :=
  a.trans ⟨rfl, fun _ other => d'.port_onPort_ne other f⟩

theorem Dev.PortAlone.log (a : d.PortAlone p d') (r : Report) : d.PortAlone p (d'.log r) := by
  have frame := d'.log_frame r
  refine a.trans ⟨?_, fun q _ => by rw [frame]; rfl⟩
  rw [frame]

theorem Dev.PortAlone.portOnly (a : s.dev.PortAlone p d) : PortOnly p s { s with dev := d } :=
  ⟨congrArg (fun d => { s with dev := d }) a.frame, a.others⟩

/-- A command that changes one port alone leads it to what holds of the port in the end. -/
theorem Dev.PortAlone.leads {c : Instr} {r : Ing → Prop} (a : s.dev.PortAlone p d) (ran : exec c s = .next { s with dev := d })
    (holds : r (d.port p)) : ∃ t, exec c s = .next t ∧ PortOnly p s t ∧ r (t.dev.port p) :=
  ⟨_, ran, a.portOnly, holds⟩

/-- The same of a command that is one change of the port. -/
theorem onPort_leads {c : Instr} {r : Ing → Prop} {f : Ing → Ing} (ran : exec c s = .next { s with dev := s.dev.onPort p f })
    (holds : r (f (s.dev.port p))) : ∃ t, exec c s = .next t ∧ PortOnly p s t ∧ r (t.dev.port p) :=
  ((Dev.PortAlone.refl s.dev p).onPort f).leads ran (by rwa [Dev.port_onPort])

end

/-! Acquisition and trims (R268, R273, R274, R276, R286). -/

theorem scanW_le (e : EyePoints) : scanW e ≤ 255 := by
  simp only [scanW, eyeRun]; split <;> omega

theorem scanH_le (e : EyePoints) : scanH e ≤ 255 := by
  simp only [scanH, eyeRun]; split <;> omega

/-- A lane that acquired or retuned outside a swap: its trims without their reserved bits, its eye, and no attempt counted. -/
def Lane.acquired (x : Lane) (w : BitVec 64) (e : EyePoints) (temp : BitVec 12) (now tick : BitVec 64) : Lane :=
  { (x.setTrims (setFld (setFld w 54 9 0) 63 1 1) tick).scanned e now with
    cdr := true, bsync := true, attempts := 0, cal := 0, lastTemp := temp }

/-- The step of a swap that waits for lane q (R280). -/
def Swap.after (w : Swap) (q : Nat) : Swap :=
  if w.step = 3 ∧ w.s = q then { w with step := 4 } else if w.step = 6 ∧ w.p = q then { w with step := 7 } else w

/-- Lane q becomes `x`, and where it carries a copy that is verified, the verification starts (R224). -/
def Ing.acquires (x : Lane) (q : Nat) (swap : Option Swap) (g : Ing) : Ing :=
  let g := { g.onLane q fun _ => x with swap }
  if g.mirror.any fun m => m.2 == q then g.startVerify else g

theorem Ing.map_acquires (x : Lane) (q : Nat) (swap : Option Swap) (g : Ing) : (g.acquires x q swap).map = g.map := by
  simp only [Ing.acquires]; split <;> rfl

theorem Ing.lane_acquires (x : Lane) (q : Nat) (swap : Option Swap) (g : Ing) (k : Nat) :
    (g.acquires x q swap).lane k = (g.onLane q fun _ => x).lane k := by
  simp only [Ing.acquires]; split <;> rfl

section
variable {s : State} {p : Fin 4} {q : Fin 9}

theorem laneAcquisition_sound {w : BitVec 64} {e : EyePoints} (cal : ((s.dev.port p).lane q).cal = 1)
    (stays : ((s.dev.port p).lane q).retired = false) (wide : fld (s.dev.port p).eyeCfg 0 8 ≤ scanW e)
    (high : fld (s.dev.port p).eyeCfg 8 8 ≤ scanH e) : exec (.laneAcquisition p q w e) s = .next { s with
      dev := s.dev.onPort p <| .acquires (((s.dev.port p).lane q).acquired w e (s.dev.port p).temp s.dev.now s.dev.tim.ticks) q
        ((s.dev.port p).swap.map fun w => w.after q) } := by
  change execLaneAcquisition p q w e s = _
  simp only [execLaneAcquisition, devStep_eq]
  rw [if_neg (by simp [cal, stays, wide, high])]
  simp only [Lane.setTrims, Lane.scanned, cal]
  rfl

theorem laneAcquisition_low {w : BitVec 64} {e : EyePoints}
    (low : scanW e < fld (s.dev.port p).eyeCfg 0 8 ∨ scanH e < fld (s.dev.port p).eyeCfg 8 8) :
    exec (.laneAcquisition p q w e) s = .next s := by
  change execLaneAcquisition p q w e s = _
  simp only [execLaneAcquisition, devStep_eq]
  rw [if_pos (.inr (.inr low))]

/-- The trims of a lane that acquired: the fields that were written, and VALID. -/
theorem Lane.trims_acquired (x : Lane) (w : BitVec 64) (e : EyePoints) (temp : BitVec 12) (now tick : BitVec 64) :
    fld (x.acquired w e temp now tick).trims 0 54 = fld w 0 54 ∧ bit (x.acquired w e temp now tick).trims 63 = true := by
  change fld (setFld (setFld w 54 9 0) 63 1 1) 0 54 = _ ∧ bit (setFld (setFld w 54 9 0) 63 1 1) 63 = true
  constructor
  · rw [fld_setFld_other _ _ _ _ _ _ (by decide) (by decide), fld_setFld_other _ _ _ _ _ _ (by decide) (by decide)]
  · rw [bit_setFld _ _ _ _ _ (by decide)]; rfl

/-- One attempt of lane q failed more, and `fails` of the spare in a row. -/
def Ing.countAttempt (q fails : Nat) (g : Ing) : Ing := { g.onLane q fun x => { x with attempts := x.attempts + 1 } with spareFails := fails }

theorem Ing.lane_countAttempt (q fails : Nat) (g : Ing) :
    (g.countAttempt q fails).lane q = { g.lane q with attempts := (g.lane q).attempts + 1 } :=
  g.lane_onLane q fun x => { x with attempts := x.attempts + 1 }

theorem Ing.lane_countAttempt_ne (q fails : Nat) (g : Ing) {k : Nat} (other : k ≠ q) : (g.countAttempt q fails).lane k = g.lane k :=
  g.lane_onLane_ne q (fun x => { x with attempts := x.attempts + 1 }) other

/-- A lane that acquires anew, from the trims `w` (R273). -/
def Lane.acquiring (x : Lane) (w tick : BitVec 64) (cal : Nat) : Lane :=
  { x.setTrims w tick with
    cal, cdr := false, bsync := false, emb := false, buf := [], idx := none, hdrs := 0, crcs := 0, crcGood := 0 }

theorem State.acquire_eq (s : State) (p q cal : Nat) : s.acquire p q cal =
    { s with dev := s.dev.onPort p fun g => g.onLane q fun x => x.acquiring (s.interpolated p q) s.dev.tim.ticks cal } := rfl

/-- A lane that failed its first attempt outside a swap acquires again (R274). -/
theorem attemptLimitExpiry_retries (cal : ((s.dev.port p).lane q).cal = 1) (unlocked : ((s.dev.port p).lane q).cdr = false)
    (stays : ((s.dev.port p).lane q).retired = false) (first : ((s.dev.port p).lane q).attempts = 0)
    (down : (s.dev.port p).emits = false) (swap : (s.dev.port p).swap = none) : ∃ fails w tick,
      exec (.attemptLimitExpiry p q) s = .next { s with
        dev := (s.dev.onPort p (.countAttempt q fails)).onPort p fun g => g.onLane q fun x => x.acquiring w tick 1 } := by
  have fails : s.attemptFails p q = (s.onDev fun d => d.onPort p (.countAttempt q (s.dev.port p).spareFails)).acquire p q 1 := by
    simp only [State.attemptFails, cal, unlocked, stays, first, swap, Option.any_none]
    rfl
  have ran : exec (.attemptLimitExpiry p q) s =
      .next ((s.onDev fun d => d.onPort p (.countAttempt q (s.dev.port p).spareFails)).acquire p q 1) := by
    change Host.Outcome.next (s.portStep p fun s => s.attemptFails p q) = _
    rw [State.portStep, fails, down, if_neg (by simp)]
  exact ⟨_, _, _, ran⟩

/-- R276: a code of a field goes up by one. -/
theorem inPlaceTrimStep_up (method : s.dev.method p = 0) (active : q.val ∈ (s.dev.port p).map)
    (room : fld ((s.dev.port p).lane q).trims 0 5 < 31) : exec (.inPlaceTrimStep p q 0 true) s = .next { s with
      dev := s.dev.onPort p fun g => g.onLane q fun x =>
        x.setTrims (setFld ((s.dev.port p).lane q).trims 0 5 (fld ((s.dev.port p).lane q).trims 0 5 + 1)) s.dev.tim.ticks } := by
  have logical : (s.dev.port p).logical q ≠ none := by simpa [Ing.logical, List.idxOf?_eq_none_iff] using active
  have code : trimField ((s.dev.port p).lane q).trims (0, 5, false) = fld ((s.dev.port p).lane q).trims 0 5 := rfl
  change execInPlaceTrimStep p q 0 true s = _
  simp only [execInPlaceTrimStep, devStep_eq]
  rw [if_neg (by simpa [method] using logical)]
  simp only [trimFields, Fin.val_zero, List.getElem?_cons_zero, code, Bool.false_eq_true, if_false, if_true]
  rw [if_neg (by omega), show ((fld ((s.dev.port p).lane q).trims 0 5 : Int) + 1) % 2 ^ 5 = (fld ((s.dev.port p).lane q).trims 0 5 + 1 : Nat) by
    omega]
  rfl

/-! Causes that make a lane due (R270, R278, R279). -/

/-- What decides the method of calibration of a port is the same. -/
structure Ing.SameMethod (g h : Ing) : Prop where
  enabled : h.calEn = g.calEn
  state : h.st = g.st
  map : h.map = g.map
  replaced : h.sparePerm = g.sparePerm
  spare : h.noSpare = g.noSpare
  lanes : ∀ k, (h.lane k).retired = (g.lane k).retired

end

section
variable {d : Dev} {p : Nat} {f : Ing → Ing}

theorem Dev.method_onPort (same : (d.port p).SameMethod (f (d.port p))) : (d.onPort p f).method p = d.method p := by
  have sound : (f (d.port p)).sound = (d.port p).sound := by simp only [Ing.sound, same.lanes]
  have emits : (f (d.port p)).emits = (d.port p).emits := by simp only [Ing.emits, same.state]
  have link : (d.onPort p f).link? p = d.link? p := rfl
  have lanemap : (d.onPort p f).lanemap? p = d.lanemap? p := rfl
  have rate (r : Nat) : (d.onPort p f).rateAtMost p r = d.rateAtMost p r := by
    simp only [Dev.rateAtMost, link, Dev.port_onPort, Ing.active, same.map]
  have spare : (d.onPort p f).usableSpare p = d.usableSpare p := by
    simp only [Dev.usableSpare, Dev.spareEn, Dev.spselEn, Dev.spare?, Dev.namedLanes, lanemap, link, Dev.port_onPort, sound, same.spare]
  simp only [Dev.method, Dev.methodOf, Dev.bonded, rate, spare, link, Dev.port_onPort, same.enabled, emits, same.replaced]
  rfl

end

/-- A lane becomes due for a cause. -/
def Lane.dueFor (x : Lane) (cause : Nat) : Lane := { x with due := setBit x.due cause true }

/-- The lane of logical lane j becomes due for a cause, but in a swap of its own. -/
def Ing.dueFor (g : Ing) (j cause : Nat) : Ing :=
  match g.map[j]? with
  | some q => if g.swap.any (·.j == j) then g else g.onLane q fun x => x.dueFor cause
  | none => g

theorem Ing.dueFor_lane {g : Ing} {j q : Nat} (idle : g.swap = none) (lane : g.map[j]? = some q) (cause : Nat) :
    g.dueFor j cause = g.onLane q fun x => x.dueFor cause := by
  simp [Ing.dueFor, lane, idle]

theorem Dev.markDue_through {d : Dev} {p : Nat} (method : d.method p = 1) (j cause : Nat) :
    d.markDue p j cause = d.onPort p fun g => g.dueFor j cause := if_neg (by simp [method])

theorem Dev.markDue_other {d : Dev} {p : Nat} (method : d.method p ≠ 1) (j cause : Nat) : d.markDue p j cause = d := if_pos method

theorem Dev.PortAlone.markDue {d d' : Dev} {p : Nat} (a : d.PortAlone p d') (j cause : Nat) : d.PortAlone p (d'.markDue p j cause) := by
  by_cases method : d'.method p = 1
  · rw [Dev.markDue_through method]; exact a.onPort _
  · rwa [Dev.markDue_other method]

section
variable {s : State} {p : Fin 4}

theorem calibrationPeriod_due (method : s.dev.method p = 1) (j : Fin 8) :
    exec (.calibrationPeriod p j) s = .next { s with dev := s.dev.onPort p fun g => g.dueFor j 3 } := by
  change devStep s (fun d => d.markDue p j 3) = _
  rw [devStep_eq, Dev.markDue_through method]

theorem calibrationPeriod_other (method : s.dev.method p ≠ 1) (j : Fin 8) : exec (.calibrationPeriod p j) s = .next s := by
  change devStep s (fun d => d.markDue p j 3) = _
  rw [devStep_eq, Dev.markDue_other method]

/-- A FORCE is written with its lane; it is held through a swap, or dropped where one is held (R279). -/
def Ing.forcing (lane : BitVec 4) (g : Ing) : Ing := { g with forceLane := lane }
def Ing.holdForce (j : Nat) (g : Ing) : Ing := { g with forcePend := some j }
def Ing.dropForce (g : Ing) : Ing := { g with dropped := BitVec.ofNat 8 (satInc 8 g.dropped.toNat) }

section
variable (served : s.dev.served = true) (sound : s.dev.rel.devFault = false) (j : Fin 8)
include served sound

theorem exec_force : exec (.force p (BitVec.ofNat 4 j)) s = .next { s with
      dev := if (s.dev.port p).swap.isSome then
          if (s.dev.port p).forcePend.isSome then
            (s.dev.onPort p (.forcing (BitVec.ofNat 4 j))).onPort p .dropForce
          else (s.dev.onPort p (.forcing (BitVec.ofNat 4 j))).onPort p (.holdForce j)
        else (s.dev.onPort p (.forcing (BitVec.ofNat 4 j))).markDue p j 1 } := by
  have lane : (BitVec.ofNat 4 j).toNat = j.val := Nat.mod_eq_of_lt (by omega)
  change execForce p (BitVec.ofNat 4 j) s = _
  rw [execForce, startStep_served _ served sound]
  dsimp only
  rw [lane, if_neg (by omega), Dev.port_onPort]
  rfl

theorem force_marks (idle : (s.dev.port p).swap = none) (through : s.dev.method p = 1) : exec (.force p (BitVec.ofNat 4 j)) s = .next { s with
    dev := (s.dev.onPort p (.forcing (BitVec.ofNat 4 j))).onPort p fun g => g.dueFor j 1 } := by
  have method : (s.dev.onPort p (.forcing (BitVec.ofNat 4 j))).method p = 1 :=
    (Dev.method_onPort ⟨rfl, rfl, rfl, rfl, rfl, fun _ => rfl⟩).trans through
  rw [exec_force served sound, idle, Dev.markDue_through method]
  rfl

theorem force_held (busy : (s.dev.port p).swap ≠ none) (free : (s.dev.port p).forcePend = none) :
    exec (.force p (BitVec.ofNat 4 j)) s = .next { s with
      dev := (s.dev.onPort p (.forcing (BitVec.ofNat 4 j))).onPort p (.holdForce j) } := by
  rw [exec_force served sound, if_pos (Option.isSome_iff_ne_none.2 busy), free]
  rfl

theorem force_dropped (busy : (s.dev.port p).swap ≠ none) (pending : (s.dev.port p).forcePend ≠ none) :
    exec (.force p (BitVec.ofNat 4 j)) s = .next { s with
      dev := (s.dev.onPort p (.forcing (BitVec.ofNat 4 j))).onPort p .dropForce } := by
  rw [exec_force served sound, if_pos (Option.isSome_iff_ne_none.2 busy), if_pos (Option.isSome_iff_ne_none.2 pending)]

end

end

/-! The temperature of a port's lanes (R270, R278). -/

/-- At a temperature, the lane has moved from that of its last calibration by TEMP_STEP or more. -/
def Ing.hot (g : Ing) (temp : BitVec 12) (k : Nat) : Bool := decide (g.tempStep.toNat ≤ (temp.toInt - (g.lane k).lastTemp.toInt).natAbs)

/-- The lane of logical lane j, by port `g`, becomes due where it is hot. -/
def Dev.markHot (g : Ing) (temp : BitVec 12) (p : Nat) (d : Dev) (j : Nat) : Dev :=
  match g.map[j]? with
  | some q => if g.tempStep.toNat ≤ (temp.toInt - (g.lane q).lastTemp.toInt).natAbs then d.markDue p j 2 else d
  | none => d

/-- Port p takes the mean of its input of the housekeeping converter (R763). -/
def Dev.takeTemp (d : Dev) (p : Nat) : Dev := d.onPort p fun g => { g with temp := Tbl.get 0 d.mon.temps (16 + p) }

theorem Dev.port_takeTemp (d : Dev) (p : Nat) : (d.takeTemp p).port p = { d.port p with temp := Tbl.get 0 d.mon.temps (16 + p) } :=
  Dev.port_onPort ..

theorem exec_laneTemperatureUpdate (s : State) (p : Fin 4) : exec (.laneTemperatureUpdate p) s = .next { s with
    dev := (List.range ((s.dev.takeTemp p).port p).active).foldl
      (.markHot ((s.dev.takeTemp p).port p) (Tbl.get 0 s.dev.mon.temps (16 + p)) p) (s.dev.takeTemp p) } := rfl

section
variable {d : Dev} {p : Nat} {g : Ing} {temp : BitVec 12}

theorem Ing.sameMethod_onLane {q : Nat} {f : Lane → Lane} (keeps : ∀ x, (f x).retired = x.retired) : g.SameMethod (g.onLane q f) := by
  refine ⟨rfl, rfl, rfl, rfl, rfl, fun k => ?_⟩
  by_cases here : k = q
  · rw [here, Ing.lane_onLane, keeps]
  · rw [Ing.lane_onLane_ne _ _ _ here]

theorem Dev.markHot_other (method : d.method p ≠ 1) (j : Nat) : d.markHot g temp p j = d := by
  unfold Dev.markHot
  split
  · rw [Dev.markDue_other method, ite_self]
  · rfl

/-- What marking the lanes of logical lanes `l` for their temperature does to a port. -/
structure Dev.MarksHot (g : Ing) (temp : BitVec 12) (p : Nat) (l : List Nat) (d d' : Dev) : Prop where
  alone : d.PortAlone p d'
  method : d'.method p = d.method p
  keepsTemp : (d'.port p).temp = (d.port p).temp
  keepsMap : (d'.port p).map = (d.port p).map
  keepsSwap : (d'.port p).swap = (d.port p).swap
  due : ∀ k, bit ((d'.port p).lane k).due 2 = (bit ((d.port p).lane k).due 2 || l.any fun j => g.map[j]? == some k && g.hot temp k)

theorem Dev.markHot_marks (through : d.method p = 1) (idle : (d.port p).swap = none) (map : (d.port p).map = g.map) (j : Nat) :
    d.MarksHot g temp p [j] (d.markHot g temp p j) := by
  unfold Dev.markHot
  split
  next q lane =>
    by_cases hot : g.hot temp q
    · rw [if_pos (of_decide_eq_true hot), Dev.markDue_through through]
      have lanes : (d.port p).dueFor j 2 = (d.port p).onLane q fun x => x.dueFor 2 := Ing.dueFor_lane idle (map ▸ lane) 2
      refine ⟨(Dev.PortAlone.refl d p).onPort _, Dev.method_onPort (lanes ▸ Ing.sameMethod_onLane fun _ => rfl), ?_, ?_, ?_,
        fun k => ?_⟩
      · rw [Dev.port_onPort, lanes]; rfl
      · rw [Dev.port_onPort, lanes]; rfl
      · rw [Dev.port_onPort, lanes]; rfl
      · rw [Dev.port_onPort, lanes]
        by_cases here : k = q
        · rw [here, Ing.lane_onLane]
          simp [Lane.dueFor, bit_setBit_same _ _ _ (by decide : 2 < 4), lane, hot]
        · simp [Ing.lane_onLane_ne _ _ _ here, lane, Ne.symm here]
    · rw [if_neg (mt decide_eq_true hot)]
      refine ⟨.refl d p, rfl, rfl, rfl, rfl, fun k => ?_⟩
      have cold : (g.map[j]? == some k && g.hot temp k) = false := by
        by_cases here : q = k
        · simp [← here, hot]
        · simp [lane, here]
      simp [cold]
  next none =>
    exact ⟨.refl d p, rfl, rfl, rfl, rfl, fun k => by simp [none]⟩

theorem Dev.foldl_markHot_marks (l : List Nat) : ∀ d : Dev, d.method p = 1 → (d.port p).swap = none → (d.port p).map = g.map →
    d.MarksHot g temp p l (l.foldl (.markHot g temp p) d) := by
  induction l with
  | nil => exact fun d _ _ _ => ⟨.refl d p, rfl, rfl, rfl, rfl, fun k => by simp⟩
  | cons j l ih =>
    intro d through idle map
    have first := Dev.markHot_marks (temp := temp) through idle map j
    have rest := ih (d.markHot g temp p j) (first.method.trans through) (first.keepsSwap.trans idle) (first.keepsMap.trans map)
    refine ⟨first.alone.trans rest.alone, rest.method.trans first.method, rest.keepsTemp.trans first.keepsTemp, rest.keepsMap.trans first.keepsMap,
      rest.keepsSwap.trans first.keepsSwap, fun k => ?_⟩
    rw [List.foldl_cons, rest.due, first.due, List.any_cons, List.any_cons, List.any_nil, Bool.or_false, Bool.or_assoc]

end

section
variable {s : State} {p : Fin 4}

/-- R270, R278: the port takes its temperature, and in the method through the spare each active lane that is hot becomes due. -/
theorem laneTemperatureUpdate_marks {temp : BitVec 12} (idle : (s.dev.port p).swap = none)
    (mean : temp = Tbl.get 0 s.dev.mon.temps (16 + p.val)) : ∃ d, exec (.laneTemperatureUpdate p) s = .next { s with dev := d } ∧
      s.dev.PortAlone p d ∧ (d.port p).temp = temp ∧ (d.port p).map = (s.dev.port p).map ∧
      ∀ k, k ∈ (s.dev.port p).map → bit ((d.port p).lane k).due 2 = (bit ((s.dev.port p).lane k).due 2 ||
        (decide (s.dev.method p = 1) && (s.dev.port p).hot temp k)) := by
  have method : (s.dev.takeTemp p).method p = s.dev.method p := Dev.method_onPort ⟨rfl, rfl, rfl, rfl, rfl, fun _ => rfl⟩
  have alone : s.dev.PortAlone p (s.dev.takeTemp p) := (Dev.PortAlone.refl s.dev p).onPort _
  have ran := exec_laneTemperatureUpdate s p
  rw [Dev.port_takeTemp, ← mean] at ran
  have port := s.dev.port_takeTemp p
  rw [← mean] at port
  refine ⟨_, ran, ?_⟩
  by_cases through : s.dev.method p = 1
  · have marks := Dev.foldl_markHot_marks (g := { s.dev.port p with temp }) (temp := temp) (p := p)
      (List.range (s.dev.port p).map.length) (s.dev.takeTemp p) (method.trans through) (by rw [port]; exact idle) (by rw [port])
    refine ⟨alone.trans marks.alone, marks.keepsTemp.trans (by rw [port]), marks.keepsMap.trans (by rw [port]), fun k active => ?_⟩
    have listed : ((List.range (s.dev.port p).map.length).any fun j => (s.dev.port p).map[j]? == some k && (s.dev.port p).hot temp k) =
        (s.dev.port p).hot temp k := by
      obtain ⟨j, lt, lane⟩ := List.mem_iff_getElem.1 active
      cases hot : (s.dev.port p).hot temp k with
      | false => simp
      | true => exact List.any_eq_true.2 ⟨j, List.mem_range.2 lt, by simp [lt, lane]⟩
    refine (marks.due k).trans (congr (congrArg or (port ▸ rfl)) (listed.trans ?_))
    rw [through]; rfl
  · rw [List.foldl_fixed' fun j => Dev.markHot_other (mt method.symm.trans through) j]
    refine ⟨alone, port ▸ rfl, port ▸ rfl, fun k _ => ?_⟩
    rw [port, decide_eq_false through, Bool.false_and, Bool.or_false]
    rfl

end

end Sys2Proof.Machine
end

section
namespace Sys2Proof.Machine

/-! Swaps, eye scans, and learned sets (R280, R287, R288, R295). -/

section
variable {d d' : Dev} {p : Nat} (code : BitVec 4)

theorem Dev.PortAlone.sendCode (a : d.PortAlone p d') : d.PortAlone p (d'.sendCode p code) := a.onPort _

theorem Dev.code_sendCode : ((d.sendCode p code).port p).code = code := by
  rw [Dev.sendCode, Dev.port_onPort]
  split
  · assumption
  · rfl

theorem Dev.swap_sendCode : ((d.sendCode p code).port p).swap = (d.port p).swap := by
  rw [Dev.sendCode, Dev.port_onPort]; split <;> rfl

theorem Dev.lane_sendCode (k : Nat) : ((d.sendCode p code).port p).lane k = (d.port p).lane k := by
  rw [Dev.sendCode, Dev.port_onPort]; split <;> rfl

end

theorem Dev.port_log (d : Dev) (r : Report) (p : Nat) : (d.log r).port p = d.port p := by rw [Dev.port, Dev.log_ing]; rfl

theorem Dev.rel_markDue (d : Dev) (p j cause : Nat) : (d.markDue p j cause).rel = d.rel := by
  unfold Dev.markDue; split <;> rfl

theorem Ing.eyeAlarm_dueFor (g : Ing) (j cause : Nat) : (g.dueFor j cause).eyeAlarm = g.eyeAlarm := by
  unfold Ing.dueFor
  split
  · split <;> rfl
  · rfl

theorem Dev.eyeAlarm_markDue (d : Dev) (p j cause : Nat) : ((d.markDue p j cause).port p).eyeAlarm = (d.port p).eyeAlarm := by
  by_cases method : d.method p = 1
  · rw [Dev.markDue_through method, Dev.port_onPort, Ing.eyeAlarm_dueFor]
  · rw [Dev.markDue_other method]

/-- The trims of a lane are kept as its pre-swap set. -/
def Lane.keepTrims (x : Lane) : Lane := { x with pre := x.trims }

/-- Step 1 of a swap (R280). -/
def Ing.startSwap (w : Swap) (g : Ing) : Ing := { g.onLane w.p Lane.keepTrims with swap := some w }

section
variable {s : State} {p : Fin 4} {q : Fin 9}

theorem spareSwap_starts {j sp : Nat} (idle : (s.dev.port p).swap = none) (through : s.dev.method p = 1)
    (sound : (s.dev.port p).failedLanes = []) (free : (s.dev.port p).spareFor = none) (due : (s.dev.port p).nextDue = some j)
    (spare : s.dev.spare? p = some sp) (lane : (s.dev.port p).map[j]? = some q.val) : exec (.spareSwap p) s = .next { s with
      dev := (s.dev.onPort p <| .startSwap { j, p := q, s := sp, step := 1 }).sendCode p (BitVec.ofNat 4 j) } := by
  change Host.Outcome.next (s.swapStep p) = _
  simp only [State.swapStep, idle, due, spare, lane, Option.getD_some]
  rw [if_neg (by simp [through, sound, free])]
  rfl

theorem eyeScan_open {e : EyePoints} (wide : fld (s.dev.port p).eyeCfg 16 8 ≤ scanW e) (high : fld (s.dev.port p).eyeCfg 24 8 ≤ scanH e) :
    exec (.eyeScan p q e) s = .next { s with dev := s.dev.onPort p fun g => g.onLane q fun x => x.scanned e s.dev.now } := by
  change execEyeScan p q e s = _
  simp only [execEyeScan, devStep_eq]
  split
  · rfl
  · rw [if_neg (fun narrow => narrow.2.elim (Nat.not_lt.2 wide) (Nat.not_lt.2 high))]

/-- R288: the eye of an active lane fell below a threshold. -/
def eyeReport (d : Dev) (p q : Nat) : Report :=
  { code := .ok, sev := 1, domain := d.portDom p, src := BitVec.ofNat 8 p, cause := 10, detail := q }

def Ing.raiseEye (g : Ing) : Ing := { g with eyeAlarm := true }

theorem eyeScan_falls {e : EyePoints} (emits : (s.dev.port p).emits = true) (active : q.val ∈ (s.dev.port p).map)
    (narrow : scanW e < fld (s.dev.port p).eyeCfg 16 8) (fell : (s.dev.port p).eyeAlarm = false ∨ ((s.dev.port p).lane q).scanTick = none ∨
      fld (s.dev.port p).eyeCfg 16 8 ≤ ((s.dev.port p).lane q).eyeW.toNat) : ∃ j, exec (.eyeScan p q e) s = .next { s with
      dev := (((s.dev.onPort p fun g => g.onLane q fun x => x.scanned e s.dev.now).onPort p .raiseEye).log
        (eyeReport s.dev p q)).markDue p j 0 } := by
  obtain ⟨j, logical⟩ : ∃ j, (s.dev.port p).logical q = some j :=
    Option.ne_none_iff_exists'.1 (by simpa [Ing.logical, List.idxOf?_eq_none_iff] using active)
  refine ⟨j, ?_⟩
  change execEyeScan p q e s = _
  simp only [execEyeScan, devStep_eq, logical]
  rw [if_pos ⟨emits, .inl narrow⟩, if_pos]
  · rfl
  · simp only [Option.isNone_iff_eq_none, narrow, true_and, Bool.not_eq_true']
    tauto

/-- Anchors of the port that lie within 2.5 °C of its temperature (R295). -/
def State.nearAnchors (s : State) (p : Nat) : List Nat :=
  (List.range 5).filter fun i => ((s.anchors p)[i]?).any fun t => decide (((s.dev.port p).temp.toInt - t).natAbs ≤ 20)

theorem State.mem_nearAnchors {i : Nat} {a : Int} (low : i < 5) (anchor : (s.anchors p)[i]? = some a) :
    i ∈ s.nearAnchors p ↔ ((s.dev.port p).temp.toInt - a).natAbs ≤ 20 := by
  simp [State.nearAnchors, low, anchor]

/-- The applied trims of a lane enter its table under the given keys. -/
def Lane.learns (x : Lane) (base : Nat) (keys : List Nat) : Lane :=
  { x with learned := keys.foldl (fun l t => Tbl.set l (base + t) (setFld x.trims 63 1 1)) x.learned }

theorem Tbl.find_foldl_setAt {α : Type} (v : α) (base i : Nat) (keys : List Nat) : ∀ t : Tbl α,
    Tbl.find? (keys.foldl (fun t k => Tbl.set t (base + k) v) t) (base + i) = if i ∈ keys then some v else Tbl.find? t (base + i) := by
  induction keys with
  | nil => exact fun t => (if_neg List.not_mem_nil).symm
  | cons k keys ih =>
    intro t
    rw [List.foldl_cons, ih, Tbl.find_set]
    by_cases here : i = k
    · simp [here]
    · simp [here]

theorem learnedEntry_learns (active : q.val ∈ (s.dev.port p).map) (method : s.dev.method p = 0)
    (steady : 20480000 ≤ (s.dev.tim.ticks - ((s.dev.port p).lane q).trimTick).toNat) : exec (.learnedEntry p q) s = .next { s with
      dev := s.dev.onPort p fun g => g.onLane q fun x => x.learns (s.dev.band p * 5) (s.nearAnchors p) } := by
  have logical : (s.dev.port p).logical q ≠ none := by simpa [Ing.logical, List.idxOf?_eq_none_iff] using active
  change execLearnedEntry p q s = _
  rw [execLearnedEntry]
  dsimp only
  rw [if_neg (not_or.2 ⟨by simpa using logical, not_not.2 (.inl ⟨method, steady⟩)⟩)]
  rfl

end

/-! SAVE, RETIRE and CLEAR (R292, R294, R296). -/

section
variable {s : State} {p : Fin 4} {q : Fin 9}

def Ing.startSave (g : Ing) : Ing := { g with saving := true }

theorem save_starts (served : s.dev.served = true) (sound : s.dev.rel.devFault = false) (idle : (s.dev.port p).saving = false) :
    exec (.save p) s = .next { s with dev := (s.dev.onPort p .startSave).atticPush (.calSave p) (2 + p.val) (s.calBody p) } := by
  change execSave p s = _
  rw [execSave, startState_served _ served sound]
  dsimp only
  rw [if_neg (by rw [idle]; decide)]
  rfl

/-- RETIRE or CLEAR of a lane. -/
def retireOrClear (retire : Bool) (p : Fin 4) (lane : BitVec 4) : Instr := if retire then .retire p lane else .clear p lane

theorem exec_retireOrClear (served : s.dev.served = true) (retire : Bool) : exec (retireOrClear retire p (BitVec.ofNat 4 q)) s =
    .next (s.calRetire p q retire) := by
  have lane : (BitVec.ofNat 4 q).toNat = q.val := Nat.mod_eq_of_lt (by omega)
  have ran : exec (retireOrClear retire p (BitVec.ofNat 4 q)) s = hostState s fun s => s.calRetire p (BitVec.ofNat 4 q).toNat retire := by
    cases retire <;> rfl
  rw [ran, lane, hostState_served _ served]

/-- CLEAR: the lane counts as new, and the port may use its spare again (R294). -/
def Lane.cleared (x : Lane) : Lane := { retired := false, crc := x.crc, learned := x.learned }
def Ing.clearLane (q : Nat) (g : Ing) : Ing :=
  { g.onLane q Lane.cleared with sparePerm := false, spareFor := none, noSpare := false, spareFails := 0 }

theorem Ing.lane_clearLane (q : Nat) (g : Ing) : (g.clearLane q).lane q = (g.lane q).cleared := g.lane_onLane q Lane.cleared

/-- R294: the retirements of a port that does not rest are locked. -/
def lockedReport (d : Dev) (p : Nat) : Report := { code := .cfgLocked, sev := 0, domain := d.portDom p, src := BitVec.ofNat 8 p }

theorem calRetire_locked (runs : (s.dev.port p).st ≠ .idle) (retire : Bool) :
    s.calRetire p q retire = { s with dev := s.dev.log (lockedReport s.dev p) } := if_pos runs

theorem calRetire_idle (rests : (s.dev.port p).st = .idle) (retire : Bool) : s.calRetire p q retire =
    if retire then (if ((s.dev.port p).lane q).retired then s else s.retireLane p q)
    else if !((s.dev.port p).lane q).retired then s
    else (s.onDev fun d => d.onPort p (.clearLane q)).putRetired p := by
  rw [State.calRetire, if_neg (not_not.2 rests), if_neg (by omega)]
  rfl

theorem Dev.port_atticPush (d : Dev) (job : AtticJob) (typ : Nat) (body : List Byte) (p : Nat) : (d.atticPush job typ body).port p = d.port p := rfl

theorem Dev.length_jobs_atticPush (d : Dev) (job : AtticJob) (typ : Nat) (body : List Byte) :
    (d.atticPush job typ body).atc.jobs.length = d.atc.jobs.length + 1 := List.length_append

def Lane.retire (x : Lane) : Lane := { x with retired := true, failed := false, cal := 0, cdr := false }

/-- R292: the record of a retirement. -/
def retireReport (d : Dev) (p q : Nat) : Report :=
  { code := .linkDegraded, sev := 2, domain := d.portDom p, src := BitVec.ofNat 8 p, detail := q }

theorem retireLane_pushes (s : State) (p q : Nat) : ∃ b, s.retireLane p q = { s with
    dev := ((s.dev.onPort p fun g => g.onLane q Lane.retire).log (retireReport s.dev p q)).atticPush (.retired p) (2 + p) b } := ⟨_, rfl⟩

end

theorem swap_leads {s : State} {p : Fin 4} {q : Fin 9} {j sp : Nat} (idle : (s.dev.port p).swap = none) (through : s.dev.method p = 1)
    (sound : (s.dev.port p).failedLanes = []) (free : (s.dev.port p).spareFor = none) (due : (s.dev.port p).nextDue = some j)
    (spare : s.dev.spare? p = some sp) (lane : (s.dev.port p).map[j]? = some q.val) : ∃ t, exec (.spareSwap p) s = .next t ∧ PortOnly p s t ∧
      (t.dev.port p).swap = some { j, p := q, s := sp, step := 1 } ∧ (t.dev.port p).code = BitVec.ofNat 4 j ∧
      ((t.dev.port p).lane q).pre = ((s.dev.port p).lane q).trims := by
  refine ⟨_, spareSwap_starts idle through sound free due spare lane, (((Dev.PortAlone.refl s.dev p).onPort _).sendCode _).portOnly, ?_,
    Dev.code_sendCode _, ?_⟩
  · rw [Dev.swap_sendCode, Dev.port_onPort]; rfl
  · rw [Dev.lane_sendCode, Dev.port_onPort]
    exact congrArg Lane.pre (Ing.lane_onLane ..)

/-- Settles O24: each command is a change of its port, by the lemma of its case; a lane is marked due where the method is through the spare. -/
theorem lanesAreCalibratedAndMaintained : Obligations.lanesAreCalibratedAndMaintained := by
  constructor
  · intro s p q g x leads
    have change {c r d} (alone : s.dev.PortAlone p d) (ran : exec c s = .next { s with dev := d }) (holds : r (d.port p)) : leads c r :=
      alone.leads ran holds
    have once {c r f} (ran : exec c s = .next { s with dev := s.dev.onPort p f }) (holds : r (f g)) : leads c r := onPort_leads ran holds
    clear_value leads
    refine ⟨fun w e cal stays wide high => ?_, fun w e low => laneAcquisition_low low, fun cal unlocked stays first down swap => ?_,
      fun method active room => ?_, fun idle => ?_, fun j lane => ⟨fun idle through => ?_, fun other => calibrationPeriod_other other j,
        fun served sound => ⟨fun idle through => ?_, fun busy free => ?_, fun busy pending => ?_⟩⟩⟩
    · refine once (laneAcquisition_sound cal stays wide high) ⟨Ing.map_acquires .., ?_⟩
      simp only [Ing.lane_acquires, Ing.lane_onLane]
      exact ⟨rfl, rfl, rfl, rfl, Nat.mod_eq_of_lt (by have := scanW_le e; omega), Nat.mod_eq_of_lt (by have := scanH_le e; omega),
        (Lane.trims_acquired ..).1, (Lane.trims_acquired ..).2, fun k other => Ing.lane_onLane_ne _ _ _ other⟩
    · obtain ⟨fails, w, tick, ran⟩ := attemptLimitExpiry_retries cal unlocked stays first down swap
      refine change (((Dev.PortAlone.refl s.dev p).onPort _).onPort _) ran ?_
      rw [Dev.port_onPort, Dev.port_onPort, Ing.lane_onLane, Ing.lane_countAttempt]
      exact ⟨congrArg (· + 1) first, rfl, fun k other => (Ing.lane_onLane_ne _ _ _ other).trans (Ing.lane_countAttempt_ne _ _ _ other)⟩
    · refine once (inPlaceTrimStep_up method active room) ?_
      rw [Ing.lane_onLane]
      exact ⟨(fld_setFld_same _ _ _ _ (by decide)).trans (Nat.mod_eq_of_lt (Nat.succ_lt_succ room)),
        fld_setFld_other _ _ _ _ _ _ (by decide) (by decide), fun k other => Ing.lane_onLane_ne _ _ _ other⟩
    · obtain ⟨d, ran, alone, temp, map, due⟩ := laneTemperatureUpdate_marks idle rfl
      exact change alone ran ⟨temp, map, fun k active => temp ▸ due k active⟩
    · refine once (calibrationPeriod_due through j) ?_
      rw [Ing.dueFor_lane idle lane, Ing.lane_onLane]
      exact ⟨bit_setBit_same _ _ _ (by decide), fun k other => Ing.lane_onLane_ne _ _ _ other⟩
    · refine change (((Dev.PortAlone.refl s.dev p).onPort _).onPort _) (force_marks served sound j idle through) ?_
      rw [Dev.port_onPort, Dev.port_onPort, Ing.dueFor_lane (g := (s.dev.port p).forcing (BitVec.ofNat 4 j)) idle lane, Ing.lane_onLane]
      exact ⟨bit_setBit_same _ _ _ (by decide), rfl, fun k other => Ing.lane_onLane_ne _ _ _ other⟩
    · refine change (((Dev.PortAlone.refl s.dev p).onPort _).onPort _) (force_held served sound j busy free) ?_
      rw [Dev.port_onPort, Dev.port_onPort]
      rfl
    · refine change (((Dev.PortAlone.refl s.dev p).onPort _).onPort _) (force_dropped served sound j busy pending) ?_
      rw [Dev.port_onPort, Dev.port_onPort]
      exact ⟨rfl, satInc_toNat 8 _⟩
  · intro s p q g x
    refine ⟨fun j sp idle through sound free due spare lane => ?_, fun e wide high => ?_, fun e emits active narrow room fell => ?_,
      fun active method steady => ?_, fun served sound idle => ?_, fun served runs room c which => ?_, fun served rests stays room => ?_,
      fun served rests retired => ?_⟩
    · exact swap_leads idle through sound free due spare lane
    · refine ⟨_, eyeScan_open wide high, ((Dev.PortAlone.refl s.dev p).onPort _).portOnly, ?_, rfl⟩
      rw [Dev.port_onPort, Ing.lane_onLane]
      rfl
    · obtain ⟨j, ran⟩ := eyeScan_falls emits active narrow fell
      refine ⟨_, ran, (((((Dev.PortAlone.refl s.dev p).onPort _).onPort _).log _).markDue _ _).portOnly, ?_, ?_⟩
      · rw [Dev.eyeAlarm_markDue, Dev.port_log, Dev.port_onPort]; rfl
      · exact .of_log (r := eyeReport s.dev p q) room rfl rfl (Dev.rel_markDue ..) (by decide : 1 < 4)
    · refine ⟨_, learnedEntry_learns active method steady, ((Dev.PortAlone.refl s.dev p).onPort _).portOnly, fun i a low anchor => ?_⟩
      rw [Dev.port_onPort, Ing.lane_onLane, Lane.learns, Tbl.find_foldl_setAt]
      exact if_congr (State.mem_nearAnchors low anchor) rfl rfl
    · refine ⟨_, _, save_starts served sound idle, rfl, ?_, rfl⟩
      exact congrArg Ing.saving (Dev.port_onPort ..)
    · obtain ⟨retire, rfl⟩ : ∃ retire, c = retireOrClear retire p (BitVec.ofNat 4 q) := which.elim (⟨true, ·⟩) (⟨false, ·⟩)
      refine ⟨_, (exec_retireOrClear served retire).trans (congrArg _ (calRetire_locked runs retire)), ?_,
        .of_log (r := lockedReport s.dev p) room rfl rfl rfl (by decide : 0 < 4)⟩
      exact congrArg (fun d => { s with dev := d }) (s.dev.log_quiet (lockedReport s.dev p) (by decide : 0 < 2))
    · obtain ⟨b, retired⟩ := retireLane_pushes s p q
      have ran := exec_retireOrClear (p := p) (q := q) served true
      rw [calRetire_idle rests, if_pos rfl, if_neg (by rw [stays]; decide), retired] at ran
      refine ⟨_, ran, ?_, .of_log (d := s.dev.onPort p fun g => g.onLane q Lane.retire) (r := retireReport s.dev p q) room rfl rfl rfl (by decide : 2 < 4), ?_⟩
      · rw [Dev.port_atticPush, Dev.port_log, Dev.port_onPort, Ing.lane_onLane]; rfl
      · rw [Dev.length_jobs_atticPush, Dev.log_atc]; rfl
    · have ran := exec_retireOrClear (p := p) (q := q) served false
      rw [calRetire_idle rests, if_neg Bool.false_ne_true, if_neg (by rw [retired]; decide)] at ran
      have lane : ((s.dev.onPort p (.clearLane q)).port p).lane q = x.cleared := by rw [Dev.port_onPort, Ing.lane_clearLane]
      exact ⟨_, ran, congrArg Lane.retired lane, congrArg Lane.attempts lane, rfl, Dev.length_jobs_atticPush ..⟩

end Sys2Proof.Machine
end

section
namespace Sys2Proof.Machine

/-! Sectors and bytes of the Attic (R801 to R803). -/

theorem mem_sectorsOf {a n k : Nat} : k ∈ sectorsOf a n ↔ a / 4096 ≤ k ∧ k < (a + n + 4095) / 4096 := by
  simp only [sectorsOf, List.mem_map, List.mem_range]
  constructor
  · rintro ⟨i, lt, rfl⟩; omega
  · exact fun ⟨low, high⟩ => ⟨k - a / 4096, by omega, by omega⟩

theorem nodup_sectorsOf (a n : Nat) : (sectorsOf a n).Nodup :=
  List.nodup_range.map fun _ _ same => Nat.add_left_cancel same

theorem Tbl.find_filter {α : Type} (keep : Nat → Bool) (t : Tbl α) (k : Nat) :
    Tbl.find? (t.filter fun p => keep p.1) k = if keep k then Tbl.find? t k else none := by
  induction t with
  | nil => simp [Tbl.find?]
  | cons p t ih =>
    obtain ⟨a, v⟩ := p
    rw [List.filter_cons]
    by_cases here : k = a
    · subst here
      cases kept : keep k <;> simp [Tbl.find?, ih, kept]
    · cases keep a <;> simp [Tbl.find?, ih, here]

/-- One erasure more of each of the given sectors. -/
theorem Tbl.get_foldl_succ (l : List Nat) (k : Nat) : ∀ t : Tbl Nat, l.Nodup →
    Tbl.get 0 (l.foldl (fun e j => Tbl.upd 0 e j (· + 1)) t) k = Tbl.get 0 t k + if k ∈ l then 1 else 0 := by
  induction l with
  | nil => exact fun t _ => by simp
  | cons j l ih =>
    intro t nodup
    obtain ⟨fresh, nodup⟩ := List.nodup_cons.1 nodup
    rw [List.foldl_cons, ih _ nodup, Tbl.get_upd]
    by_cases here : k = j
    · subst here; simp [fresh]
    · simp [here]

theorem bit_foldl_clear {n : Nat} (c : Nat → Bool) (l : List Nat) {i : Nat} (low : i < n) : ∀ w : BitVec n,
    bit (l.foldl (fun w p => if c p then setBit w p false else w) w) i = (bit w i && !(l.contains i && c i)) := by
  induction l with
  | nil => exact fun w => by simp
  | cons p l ih =>
    intro w
    rw [List.foldl_cons, ih]
    by_cases here : i = p
    · subst here
      cases c i <;> simp [bit_setBit_same, low]
    · cases c p <;> simp [here, bit_setBit, low]

section
variable (m : Mem) (l : List Nat) (a b : Nat) (bytes : List Byte)

theorem Mem.get_atticErase : Tbl.get 0 (m.atticErase l).attic a = if l.contains (a / 4096) then 0 else Tbl.get 0 m.attic a := by
  have found := Tbl.find_filter (fun a => !l.contains (a / 4096)) m.attic a
  have attic : (m.atticErase l).attic = m.attic.filter fun p => !l.contains (p.1 / 4096) := rfl
  rw [Tbl.get, attic, found]
  cases l.contains (a / 4096) <;> rfl

theorem Mem.factory_atticErase {p : Nat} (low : p < 4) :
    bit (m.atticErase l).factory p = (bit m.factory p && !l.contains (2 + p)) := by
  have listed : (List.range 4).contains p = true := by simpa using low
  exact (bit_foldl_clear (fun p => l.contains (2 + p)) _ low _).trans (by rw [listed, Bool.true_and])

/-- An erased sector reads 0, a factory record in it with it; every other one stays (R803). -/
theorem Mem.atticByte_erase : (m.atticErase l).atticByte a = if l.contains (a / 4096) then 0 else m.atticByte a := by
  unfold Mem.atticByte
  dsimp only
  rw [Mem.get_atticErase]
  by_cases inside : 0x2000 ≤ a ∧ a / 0x1000 - 2 < 4
  · have sector : 2 + (a / 0x1000 - 2) = a / 4096 := by omega
    rw [Mem.factory_atticErase _ _ inside.2, sector]
    cases l.contains (a / 4096) <;> simp
  · have none (x : Bool) : ¬(0x2000 ≤ a ∧ a / 0x1000 - 2 < 4 ∧ a % 0x1000 < 16 + 1448 ∧ x = true) :=
      fun ⟨low, port, _⟩ => inside ⟨low, port⟩
    rw [if_neg (none _), if_neg (none _)]

/-- Bytes written at `b`. -/
def Mem.atticPut : Mem := { m with attic := Tbl.putRun 0 m.attic b bytes }

theorem Mem.atticByte_put_other (out : a < b ∨ b + bytes.length ≤ a) : (m.atticPut b bytes).atticByte a = m.atticByte a := by
  unfold Mem.atticByte
  rw [show Tbl.get 0 (m.atticPut b bytes).attic a = Tbl.get 0 m.attic a from Tbl.get_putRun_other _ _ _ _ _ out]
  rfl

/-- What is written to erased sectors reads back. -/
theorem Mem.atticByte_write {i : Nat} (lt : i < bytes.length) (erased : l.contains ((b + i) / 4096) = true) :
    ((m.atticErase l).atticPut b bytes).atticByte (b + i) = bytes[i] := by
  have stored : Tbl.get 0 ((m.atticErase l).atticPut b bytes).attic (b + i) = bytes[i] := Tbl.get_putRun_in _ _ _ _ _ lt
  unfold Mem.atticByte
  dsimp only
  rw [stored, if_neg]
  rintro ⟨low, port, -, factory⟩
  have sector : 2 + ((b + i) / 0x1000 - 2) = (b + i) / 4096 := by omega
  have cleared : bit (m.atticErase l).factory ((b + i) / 0x1000 - 2) = true := factory
  rw [Mem.factory_atticErase _ _ port, sector, erased] at cleared
  simp at cleared

theorem Mem.atticRun_write {k : Nat} (erased : ∀ i, i < bytes.length → l.contains ((b + i) / 4096) = true) :
    ((m.atticErase l).atticPut b bytes).atticRun (b + k) (bytes.length - k) = bytes.drop k := by
  refine List.ext_getElem (by simp [Mem.atticRun]) fun i short long => ?_
  rw [List.length_drop] at long
  have lt : k + i < bytes.length := by omega
  have byte := m.atticByte_write l b bytes lt (erased _ lt)
  simpa [Mem.atticRun, Nat.add_assoc] using byte

end

theorem atticHeader_length (typ : Nat) (body : List Byte) : (atticHeader typ body).length = 16 := by
  simp [atticHeader, leBytes_length]

/-! A record write that ends (R803, R804). -/

/-- Sectors that hold bytes of a record. -/
def recordSectors (typ : Nat) : List Nat := sectorsOf (atticOffset typ) (16 + atticLen typ)

theorem mem_recordSectors {typ k : Nat} : k ∈ recordSectors typ ↔
    atticOffset typ / 4096 ≤ k ∧ k ≤ (atticOffset typ + 15 + atticLen typ) / 4096 := by
  rw [recordSectors, mem_sectorsOf]; omega

theorem recordSectors_holds {typ i : Nat} (inside : i < 16 + atticLen typ) :
    (recordSectors typ).contains ((atticOffset typ + i) / 4096) = true := by
  rw [List.contains_iff_mem, mem_recordSectors]; omega

/-- The sectors of a record erased, and the record written. -/
def Mem.storeRecord (m : Mem) (typ : Nat) (body : List Byte) : Mem :=
  (m.atticErase (recordSectors typ)).atticPut (atticOffset typ) (atticHeader typ body ++ body)

section
variable (m : Mem) {typ a : Nat} {body : List Byte}

theorem Mem.atticByte_erase_outside (outside : a / 4096 ∉ recordSectors typ) :
    (m.atticErase (recordSectors typ)).atticByte a = m.atticByte a := by
  rw [Mem.atticByte_erase, if_neg (by simpa using outside)]

theorem Mem.atticByte_storeRecord (length : body.length = atticLen typ) (outside : a / 4096 ∉ recordSectors typ) :
    (m.storeRecord typ body).atticByte a = m.atticByte a := by
  refine (Mem.atticByte_put_other _ _ _ _ ?_).trans (m.atticByte_erase_outside outside)
  rw [mem_recordSectors] at outside
  rw [List.length_append, atticHeader_length, length]
  omega

theorem Mem.atticRun_storeRecord (length : body.length = atticLen typ) :
    (m.storeRecord typ body).atticRun (atticOffset typ) (16 + atticLen typ) = atticHeader typ body ++ body ∧
    (m.storeRecord typ body).atticRun (atticOffset typ + 16) (atticLen typ) = body := by
  have size : (atticHeader typ body ++ body).length = 16 + atticLen typ := by rw [List.length_append, atticHeader_length, length]
  have run (k : Nat) := m.atticRun_write (recordSectors typ) (atticOffset typ) (atticHeader typ body ++ body) (k := k)
    fun i lt => recordSectors_holds (size ▸ lt)
  rw [size] at run
  refine ⟨run 0, ?_⟩
  have rest := run 16
  rw [Nat.add_sub_cancel_left, List.drop_left' (atticHeader_length ..)] at rest
  exact rest

end

/-! Host commands of the Attic (R804). -/

section
variable {s : State} {d : Dev} (op : BitVec 2) (job : AtticJob) (typ : Nat) (body : List Byte)

/-- A host command ends with a RESULT at once. -/
def Dev.atticEnds (d : Dev) (op result : BitVec 2) : Dev := { d with atc := { d.atc with op, result } }

/-- A host command runs. -/
def Dev.atticRuns (d : Dev) (op : BitVec 2) (job : AtticJob) (typ : Nat) (body : List Byte) : Dev :=
  { d with atc := { d.atc with op, busy := true, jobs := d.atc.jobs ++ [(job, typ, body)] } }

theorem Dev.atticHost_busy (busy : d.atc.busy = true) (ok : Bool) : d.atticHost op ok job typ body = d := if_pos busy

theorem Dev.atticHost_locked (idle : d.atc.busy = false) (locked : d.atc.wlock = true) (ok : Bool) :
    d.atticHost op ok job typ body = d.atticEnds op 2 := by
  unfold Dev.atticHost
  rw [if_neg (by rw [idle]; decide)]
  exact if_pos locked

theorem Dev.atticHost_open (idle : d.atc.busy = false) (unlocked : d.atc.wlock = false) (ok : Bool) :
    d.atticHost op ok job typ body = if ok then d.atticRuns op job typ body else d.atticEnds op 1 := by
  have free : (d.onAtc fun a => { a with op }).atc.wlock = false := unlocked
  unfold Dev.atticHost
  rw [if_neg (by rw [idle]; decide)]
  dsimp only
  rw [free]
  cases ok <;> rfl

/-- A host command of the Attic: its OP, the test of its operands, and what it starts. -/
def AtticCommand (s : State) (c : Instr) (op : BitVec 2) (test : Prop) (job : AtticJob) (typ : Nat) (body : List Byte) : Prop :=
  ∃ ok : Bool, (ok = true ↔ test) ∧ exec c s = .next { s with dev := s.dev.atticHost op ok job typ body }

theorem AtticCommand.of_decide {c : Instr} {op : BitVec 2} {test : Prop} [Decidable test] {job : AtticJob} {typ : Nat} {body : List Byte}
    (ran : exec c s = .next { s with dev := s.dev.atticHost op (decide test) job typ body }) : AtticCommand s c op test job typ body :=
  ⟨decide test, decide_eq_true_iff, ran⟩

section
variable {c : Instr} {test : Prop} {op : BitVec 2} {job : AtticJob} {typ : Nat} {body : List Byte} (h : AtticCommand s c op test job typ body)
include h

theorem AtticCommand.waits (busy : s.dev.atc.busy = true) : exec c s = .next s := by
  obtain ⟨ok, -, ran⟩ := h
  rw [ran, Dev.atticHost_busy _ _ _ _ busy]

theorem AtticCommand.locked (idle : s.dev.atc.busy = false) (locked : s.dev.atc.wlock = true) :
    exec c s = .next { s with dev := s.dev.atticEnds op 2 } := by
  obtain ⟨ok, -, ran⟩ := h
  rw [ran, Dev.atticHost_locked _ _ _ _ idle locked]

theorem AtticCommand.runs (idle : s.dev.atc.busy = false) (unlocked : s.dev.atc.wlock = false) (holds : test) :
    exec c s = .next { s with dev := s.dev.atticRuns op job typ body } := by
  obtain ⟨ok, sound, ran⟩ := h
  rw [ran, Dev.atticHost_open _ _ _ _ idle unlocked, if_pos (sound.2 holds)]

theorem AtticCommand.refused (idle : s.dev.atc.busy = false) (unlocked : s.dev.atc.wlock = false) (fails : ¬ test) :
    exec c s = .next { s with dev := s.dev.atticEnds op 1 } := by
  obtain ⟨ok, sound, ran⟩ := h
  rw [ran, Dev.atticHost_open _ _ _ _ idle unlocked, if_neg (mt sound.1 fails)]

end

theorem writeRecord_command (kept : s.dev.servedKept = true) : AtticCommand s .writeRecord 0
    (1 ≤ fld s.dev.atc.rec_ 0 8 ∧ fld s.dev.atc.rec_ 0 8 ≤ 14 ∧ fld s.dev.atc.rec_ 16 15 = atticLen (fld s.dev.atc.rec_ 0 8))
    .hostWrite (fld s.dev.atc.rec_ 0 8) s.dev.atc.staged := .of_decide (keptStep_served _ kept)

theorem invalidateRecord_command (kept : s.dev.servedKept = true) : AtticCommand s .invalidateRecord 1
    (1 ≤ fld s.dev.atc.rec_ 0 8 ∧ fld s.dev.atc.rec_ 0 8 ≤ 15) .hostInvalidate (fld s.dev.atc.rec_ 0 8) [] :=
  .of_decide (keptStep_served _ kept)

theorem writeIntegratorArea_command (kept : s.dev.servedKept = true) : AtticCommand s .writeIntegratorArea 2
    (1 ≤ fld s.dev.atc.rec_ 16 15 ∧ fld s.dev.atc.rec_ 16 15 ≤ 16384 ∧ s.dev.atc.ofs.toNat ≤ 109 ∧
      areaStart + s.dev.atc.ofs.toNat * 4096 + fld s.dev.atc.rec_ 16 15 ≤ 524288)
    (.hostArea (s.dev.atc.ofs.toNat * 4096)) 0 s.dev.atc.staged := .of_decide (keptStep_served _ kept)

end

end Sys2Proof.Machine
end

section
namespace Sys2Proof.Machine

/-! The end of a record write, and what waited for it (R296, R745, R803, R816, R823). -/

/-- The write of a record is off the queue: its sectors are erased, and VALID shows whether the record is. -/
def Atc.wrote (x : Atc) (typ : Nat) (valid : Bool) (rest : List (AtticJob × Nat × List Byte)) : Atc :=
  { x with
    jobs := rest, erases := (recordSectors typ).foldl (fun e k => Tbl.upd 0 e k (· + 1)) x.erases
    valid := setBit x.valid typ valid }

section
variable {s : State} {typ : Nat} {body : List Byte} {rest : List (AtticJob × Nat × List Byte)}

theorem atticDone_hostWrite (first : s.dev.atc.jobs = (.hostWrite, typ, body) :: rest) (ok : Bool) : s.atticDone ok = { s with
    mem := if ok then s.mem.storeRecord typ body else s.mem.atticErase (recordSectors typ)
    dev := { s.dev with atc := { s.dev.atc.wrote typ ok rest with busy := false, result := if ok then 0 else 3 } } } := by
  simp only [State.atticDone, first, atticSpan, AtticJob.isSave, Bool.and_false, Bool.and_true]
  cases ok <;> rfl

theorem atticDone_hostInvalidate (first : s.dev.atc.jobs = (.hostInvalidate, typ, body) :: rest) : s.atticDone true = { s with
    mem := s.mem.atticErase (recordSectors typ)
    dev := { s.dev with atc := { s.dev.atc.wrote typ false rest with busy := false, result := 0 } } } := by
  simp only [State.atticDone, first]
  rfl

theorem atticDone_tdcSave (first : s.dev.atc.jobs = (.tdcSave, typ, body) :: rest) : s.atticDone true = { s with
    mem := s.mem.storeRecord typ body
    dev := { s.dev with atc := s.dev.atc.wrote typ true rest, tim := { s.dev.tim with tdcCtl := setBit s.dev.tim.tdcCtl 2 false } } } := by
  simp only [State.atticDone, first]
  rfl

/-- The device as a SAVE of the TDC tables ends, before its failure is reported. -/
def Dev.tdcSaved (d : Dev) (rest : List (AtticJob × Nat × List Byte)) : Dev :=
  { d with atc := { d.atc with jobs := rest }, tim := { d.tim with tdcCtl := setBit d.tim.tdcCtl 2 false } }

/-- R859: the record of a SAVE that failed. -/
def tdcSaveReport : Report := { code := .ok, sev := 0, domain := domDevice, src := BitVec.ofNat 8 0x38, cause := 9 }

theorem Dev.atticEnd_tdcSave_fails (d : Dev) (rise : d.tim.saveErr = false) (more : Bool) : d.atticEnd .tdcSave typ false more =
    { ({ d with tim := { d.tim with tdcCtl := setBit d.tim.tdcCtl 2 false } }).log tdcSaveReport with
      tim := { d.tim with tdcCtl := setBit d.tim.tdcCtl 2 false, saveErr := true } } := by
  have reports (d : Dev) : d.saveErr false domDevice 0x38 9 = d.log tdcSaveReport := rfl
  have tim := Dev.log_tim { d with tim := { d.tim with tdcCtl := setBit d.tim.tdcCtl 2 false } } tdcSaveReport
  simp only [Dev.atticEnd, rise, reports] at tim ⊢
  rw [if_neg Bool.false_ne_true, tim]

theorem atticDone_tdcSave_fails (first : s.dev.atc.jobs = (.tdcSave, typ, body) :: rest) (rise : s.dev.tim.saveErr = false) :
    s.atticDone false = { s with dev := { (s.dev.tdcSaved rest).log tdcSaveReport with
      tim := { s.dev.tim with tdcCtl := setBit s.dev.tim.tdcCtl 2 false, saveErr := true } } } := by
  simp only [State.atticDone, first]
  rw [Dev.atticEnd_tdcSave_fails]
  · rfl
  · exact rise

end

theorem Dev.calFail_none {d : Dev} (none : d.hkc.calWait = none) (fails : Bool) : d.calFail fails = d := by
  unfold Dev.calFail; rw [none]

theorem Dev.calEnd_none {d : Dev} (none : d.hkc.calWait = none) : d.calEnd = d := by
  unfold Dev.calEnd; rw [none]

theorem Dev.standbyStep2_idle {d : Dev} (idle : d.hkc.stbyReq = false) : d.standbyStep2 = d :=
  if_pos (.inl (by rw [idle]; rfl))

theorem State.smbNext_none {s : State} (none : s.dev.hkc.smbWait = []) : s.smbNext = s := by
  unfold State.smbNext; rw [none]; rfl

section
variable {s t : State} {ok : Bool}

/-- A write that nothing waits for. -/
theorem atticWriteDone_plain (done : s.atticDone ok = t) (cal : t.dev.hkc.calWait = none) (smb : t.dev.hkc.smbWait = [])
    (reset : t.dev.hkc.resetWait = none) (awake : t.dev.hkc.stbyReq = false) : exec (.atticWriteDone ok) s = .next t := by
  change execAtticWriteDone ok s = _
  have stays (fails : Bool) : (t.onDev fun d => (d.calFail fails).calEnd.standbyStep2) = t := by
    rw [State.onDev, Dev.calFail_none cal, Dev.calEnd_none cal, Dev.standbyStep2_idle awake]
  rw [execAtticWriteDone]
  dsimp only
  rw [done, reset]
  dsimp only
  rw [stays, State.smbNext_none smb]

/-- A WARM reset that waited takes place (R816). -/
theorem atticWriteDone_resets {c : BitVec 3} (done : s.atticDone ok = t) (reset : t.dev.hkc.resetWait = some c) :
    exec (.atticWriteDone ok) s = .next (t.warm c) := by
  change execAtticWriteDone ok s = _
  rw [execAtticWriteDone]
  dsimp only
  rw [done, reset]

theorem Dev.mailboxEnd_frame (d : Dev) (status : BitVec 8) (res : List Reg) : (d.mailboxEnd status res).atc = d.atc ∧
    (d.mailboxEnd status res).hkc.stbyAt = d.hkc.stbyAt ∧ (d.mailboxEnd status res).hkc.smbWait = d.hkc.smbWait := by
  rw [Dev.mailboxEnd, Dev.hkcEvt_frame]; exact ⟨rfl, rfl, rfl⟩

theorem Dev.standbyStatus_frame (d : Dev) (st : Status) : (d.standbyStatus st).atc = d.atc ∧
    (d.standbyStatus st).hkc.stbyAt = d.hkc.stbyAt ∧ (d.standbyStatus st).hkc.smbWait = d.hkc.smbWait := by
  unfold Dev.standbyStatus
  dsimp only
  have noted : let e := if d.hkc.stbyMailbox then d else d.onHkc fun h => { h with smbStatus := st.code }
      e.atc = d.atc ∧ e.hkc.stbyAt = d.hkc.stbyAt ∧ e.hkc.smbWait = d.hkc.smbWait := by
    split <;> exact ⟨rfl, rfl, rfl⟩
  revert noted
  generalize (if d.hkc.stbyMailbox then d else d.onHkc fun h => { h with smbStatus := st.code }) = e
  intro noted
  split
  · obtain ⟨atc, at_, wait⟩ := e.mailboxEnd_frame st.code []
    rw [atc, at_, wait]
    exact noted
  · split <;> exact noted

/-- A standby that waited goes on with its step 2 (R823). -/
theorem atticWriteDone_standby (done : s.atticDone ok = t) (cal : t.dev.hkc.calWait = none) (smb : t.dev.hkc.smbWait = [])
    (reset : t.dev.hkc.resetWait = none) (asked : t.dev.hkc.stbyReq = true) (waits : t.dev.hkc.stbyAt = none) (last : t.dev.atc.jobs = []) :
    ∃ u, exec (.atticWriteDone ok) s = .next u ∧ u.dev.hkc.stbyAt = some t.dev.tim.ticks ∧ u.dev.atc.jobs = [] := by
  have step : t.dev.standbyStep2 = (t.dev.onHkc fun h => { h with stbyAt := some t.dev.tim.ticks }).standbyStatus .ok := by
    rw [Dev.standbyStep2, if_neg]
    rw [asked, waits, last]
    decide
  obtain ⟨atc, at_, wait⟩ := (t.dev.onHkc fun h => { h with stbyAt := some t.dev.tim.ticks }).standbyStatus_frame .ok
  have goes (fails : Bool) : (t.onDev fun d => (d.calFail fails).calEnd.standbyStep2) = t.onDev Dev.standbyStep2 := by
    rw [State.onDev, Dev.calFail_none cal, Dev.calEnd_none cal]
    rfl
  refine ⟨t.onDev Dev.standbyStep2, ?_, ?_, ?_⟩
  · change execAtticWriteDone ok s = _
    rw [execAtticWriteDone]
    dsimp only
    rw [done, reset]
    dsimp only
    rw [goes, State.smbNext_none]
    exact (congrArg (·.hkc.smbWait) step).trans (wait.trans smb)
  · exact (congrArg (·.hkc.stbyAt) step).trans at_
  · exact (congrArg (·.atc.jobs) step).trans ((congrArg (·.jobs) atc).trans last)

end

end Sys2Proof.Machine
end

section
namespace Sys2Proof.Machine

/-! The error log (R789, R807). -/

theorem ErrRec.bytes_length (r : ErrRec) : r.bytes.length = 32 := by
  simp [ErrRec.bytes, ErrRec.words, leBytes_length]

section
variable (b : List Byte) (r : ErrRec) (lost : Nat)

/-- Where the next entry of the log goes (R807). -/
def logPlace (b : List Byte) : Nat := 8 + 32 * (ofLeBytes (b.take 4) % 64)

/-- The log with the next entry, its counts aside. -/
def logEntries (b : List Byte) (r : ErrRec) : List Byte := b.take (logPlace b) ++ r.bytes ++ b.drop (logPlace b + 32)

theorem logPlace_bound : 8 ≤ logPlace b ∧ logPlace b + 32 ≤ 2056 := by
  have low := Nat.mod_lt (ofLeBytes (b.take 4)) (show 0 < 64 by decide)
  unfold logPlace
  omega

theorem logBody_eq : logBody b r lost = leBytes 4 (ofLeBytes (b.take 4) + 1) ++
    (leBytes 4 (ofLeBytes (((logEntries b r).drop 4).take 4) + lost) ++ (logEntries b r).drop 8) := by
  rw [← List.append_assoc]; rfl

variable {b}

theorem logEntries_length (length : b.length = 2056) : (logEntries b r).length = 2056 := by
  have bound := logPlace_bound b
  simp only [logEntries, List.length_append, List.length_take, List.length_drop, ErrRec.bytes_length, length]
  omega

theorem logEntries_get {k : Nat} (length : b.length = 2056) (out : k < logPlace b ∨ logPlace b + 32 ≤ k) : (logEntries b r)[k]? = b[k]? := by
  have bound := logPlace_bound b
  have taken : (b.take (logPlace b)).length = logPlace b := by rw [List.length_take, length]; omega
  rw [logEntries, List.append_assoc]
  obtain below | above := out
  · rw [List.getElem?_append_left (by omega), List.getElem?_take_of_lt below]
  · rw [List.getElem?_append_right (by omega), List.getElem?_append_right (by rw [ErrRec.bytes_length]; omega), List.getElem?_drop,
      taken, ErrRec.bytes_length]
    congr 1
    omega

theorem logEntries_entry (length : b.length = 2056) : ((logEntries b r).drop (logPlace b)).take 32 = r.bytes := by
  have bound := logPlace_bound b
  rw [logEntries, List.append_assoc, List.drop_left' (by rw [List.length_take, length]; omega), List.take_left' r.bytes_length]

theorem logEntries_counts (length : b.length = 2056) : ((logEntries b r).drop 4).take 4 = (b.drop 4).take 4 := by
  refine List.ext_getElem? fun k => ?_
  rw [List.getElem?_take, List.getElem?_take]
  split
  next low => rw [List.getElem?_drop, List.getElem?_drop, logEntries_get r length (by have := logPlace_bound b; omega)]
  next => rfl

theorem logBody_drop {k : Nat} (after : 8 ≤ k) : (logBody b r lost).drop k = (logEntries b r).drop k := by
  obtain ⟨m, rfl⟩ := Nat.exists_eq_add_of_le after
  rw [logBody_eq, ← List.append_assoc, ← List.drop_drop, List.drop_left' (by simp [leBytes_length]), List.drop_drop]

theorem logBody_count : (logBody b r lost).take 4 = leBytes 4 (ofLeBytes (b.take 4) + 1) := by
  rw [logBody_eq, List.take_left' (leBytes_length ..)]

theorem logBody_lost (length : b.length = 2056) :
    ((logBody b r lost).drop 4).take 4 = leBytes 4 (ofLeBytes ((b.drop 4).take 4) + lost) := by
  rw [logBody_eq, List.drop_left' (leBytes_length ..), List.take_left' (leBytes_length ..), logEntries_counts r length]

theorem logBody_length (length : b.length = 2056) : (logBody b r lost).length = 2056 := by
  simp [logBody_eq, leBytes_length, logEntries_length r length]

theorem logBody_entry (length : b.length = 2056) : ((logBody b r lost).drop (logPlace b)).take 32 = r.bytes := by
  rw [logBody_drop r lost (logPlace_bound b).1, logEntries_entry r length]

theorem logBody_get {k : Nat} (length : b.length = 2056) (after : 8 ≤ k) (out : k < logPlace b ∨ logPlace b + 32 ≤ k) :
    (logBody b r lost)[k]? = b[k]? := by
  have head := congrArg (·[0]?) (logBody_drop (b := b) r lost after)
  simp only [List.getElem?_drop, Nat.add_zero] at head
  rw [head, logEntries_get r length out]

end

/-! The check of the Attic (R798). -/

/-- Record `t` is found bad: it is invalid from then on, and reported. -/
def Dev.recordGone (d : Dev) (t : Nat) : Dev :=
  (d.onAtc fun a => { a with valid := setBit a.valid t false }).degraded .eccUncorrected domDevice srcAtc 0 t

/-- The check of the records of a list, `fails` of which do not match any more. -/
def Dev.recordsChecked (fails : Nat → Bool) (l : List Nat) (d : Dev) : Dev :=
  l.foldl (fun d t => if bit d.atc.valid t && fails t then d.recordGone t else d) d

theorem exec_atticCrcCheck (s : State) (bad : BitVec 16) : exec (.atticCrcCheck bad) s =
    .next { s with dev := s.dev.recordsChecked (fun t => bit bad t || !s.mem.atticValid t) (List.range 16) } := rfl

/-- A record of the check of the Attic. -/
def ErrRec.IsAtticRecord (r : ErrRec) : Prop := r.code = Status.eccUncorrected.code ∧ r.sev = 2 ∧ r.domain = domDevice ∧ r.src = 0x87

theorem Dev.recordGone_atc (d : Dev) (t : Nat) : (d.recordGone t).atc = { d.atc with valid := setBit d.atc.valid t false } := Dev.log_atc ..

theorem Dev.recordGone_queue {d : Dev} {t : Nat} (room : d.rel.queue.length < 64) (low : t < 16) :
    ∃ r : ErrRec, (d.recordGone t).rel.queue = d.rel.queue ++ [r] ∧ r.detail.toNat = t ∧ r.IsAtticRecord :=
  ⟨_, Dev.log_queue (d.onAtc fun a => { a with valid := setBit a.valid t false }) _ room, Nat.mod_eq_of_lt (show t < 2 ^ 32 by omega), rfl, rfl, rfl, rfl⟩

section
variable {fails : Nat → Bool} {l : List Nat} {d e : Dev} {t : Nat}

theorem Dev.recordsChecked_hit (hit : (bit d.atc.valid t && fails t) = true) :
    d.recordsChecked fails (t :: l) = (d.recordGone t).recordsChecked fails l := by
  rw [Dev.recordsChecked, List.foldl_cons, if_pos hit, Dev.recordsChecked]

theorem Dev.recordsChecked_skip (sound : (bit d.atc.valid t && fails t) = false) :
    d.recordsChecked fails (t :: l) = d.recordsChecked fails l := by
  rw [Dev.recordsChecked, List.foldl_cons, if_neg (by rw [sound]; decide), Dev.recordsChecked]

theorem Dev.recordsChecked_all_sound (d : Dev) : ∀ l : List Nat, (∀ t ∈ l, (bit d.atc.valid t && fails t) = false) → d.recordsChecked fails l = d
  | [], _ => rfl
  | t :: l, sound => (Dev.recordsChecked_skip (sound t List.mem_cons_self)).trans
      (Dev.recordsChecked_all_sound d l fun u listed => sound u (List.mem_cons_of_mem t listed))

/-- What the check leaves: VALID without the records that fail, and a record for each of them, in order. -/
structure Dev.RecordsChecked (fails : Nat → Bool) (l : List Nat) (d e : Dev) : Prop where
  atc : e.atc = { d.atc with valid := e.atc.valid }
  valid (i : Nat) (low : i < 16) : bit e.atc.valid i = (bit d.atc.valid i && !(l.contains i && fails i))
  reported : ∃ new : List ErrRec, e.rel.queue = d.rel.queue ++ new ∧ new.map (·.detail.toNat) = l.filter (fun i => bit d.atc.valid i && fails i) ∧
    ∀ r ∈ new, r.IsAtticRecord

theorem Dev.RecordsChecked.skip (sound : (bit d.atc.valid t && fails t) = false) (checked : d.RecordsChecked fails l e) :
    d.RecordsChecked fails (t :: l) e := by
  obtain ⟨atc, valid, new, queue, details, all⟩ := checked
  refine ⟨atc, fun i low => ?_, new, queue, ?_, all⟩
  · rw [valid i low, List.contains_cons]
    by_cases here : i = t
    · subst here
      cases held : bit d.atc.valid i
      · rfl
      · rw [held, Bool.true_and] at sound
        simp [sound]
    · rw [beq_false_of_ne here, Bool.false_or]
  · rw [List.filter_cons, sound]
    exact details

theorem Dev.RecordsChecked.hit (fresh : t ∉ l) (below : ∀ u ∈ l, u < 16) (low : t < 16) (room : d.rel.queue.length < 64)
    (hit : (bit d.atc.valid t && fails t) = true) (checked : (d.recordGone t).RecordsChecked fails l e) : d.RecordsChecked fails (t :: l) e := by
  obtain ⟨atc, valid, new, queue, details, all⟩ := checked
  obtain ⟨r, queued, detail, named⟩ := Dev.recordGone_queue room low
  rw [Dev.recordGone_atc] at atc valid details
  refine ⟨atc, fun i small => ?_, r :: new, ?_, ?_, List.forall_mem_cons.2 ⟨named, all⟩⟩
  · rw [valid i small, bit_setBit _ _ _ _ small, List.contains_cons]
    by_cases here : i = t
    · subst here
      simp [(Bool.and_eq_true_iff.1 hit).2]
    · rw [if_neg here, beq_false_of_ne here, Bool.false_or]
  · rw [queue, queued, List.append_assoc, List.singleton_append]
  · rw [List.map_cons, detail, details, List.filter_cons, if_pos hit]
    refine congrArg _ (List.filter_congr fun u listed => ?_)
    have small := below u listed
    have other : u ≠ t := fun same => fresh (same ▸ listed)
    rw [bit_setBit _ _ _ _ small, if_neg other]

theorem Dev.recordsChecked_sound : ∀ (l : List Nat) (d : Dev), l.Nodup → (∀ t ∈ l, t < 16) → d.rel.queue.length + l.length ≤ 64 →
    d.RecordsChecked fails l (d.recordsChecked fails l)
  | [], _, _, _, _ => ⟨rfl, fun i _ => by simp [Dev.recordsChecked], [], (List.append_nil _).symm, rfl, by simp⟩
  | t :: l, d, nodup, low, room => by
    obtain ⟨fresh, nodup⟩ := List.nodup_cons.1 nodup
    obtain ⟨first, low⟩ := List.forall_mem_cons.1 low
    rw [List.length_cons] at room
    cases hit : bit d.atc.valid t && fails t
    case false =>
      rw [Dev.recordsChecked_skip hit]
      exact (Dev.recordsChecked_sound l d nodup low (by omega)).skip hit
    case true =>
      rw [Dev.recordsChecked_hit hit]
      refine (Dev.recordsChecked_sound l (d.recordGone t) nodup low ?_).hit fresh low first (by omega) hit
      obtain ⟨r, queued, -⟩ := Dev.recordGone_queue (d := d) (by omega) first
      rw [queued, List.length_append, List.length_singleton]
      omega

end

end Sys2Proof.Machine
end

section
namespace Sys2Proof.Machine

/-! What the end of each write of a record leaves (R803, R804, R816, R823). -/

theorem State.atticDone_none {s : State} (none : s.dev.atc.jobs = []) (ok : Bool) : s.atticDone ok = s := by
  unfold State.atticDone; rw [none]

/-- The bytes of the sectors that hold nothing of a record stay. -/
def Mem.KeepsOthers (m m' : Mem) (typ : Nat) : Prop :=
  ∀ a, a / 4096 < atticOffset typ / 4096 ∨ (atticOffset typ + 15 + atticLen typ) / 4096 < a / 4096 → m'.atticByte a = m.atticByte a

section
variable (m : Mem) {typ a : Nat} {body : List Byte}

theorem not_mem_recordSectors (out : a / 4096 < atticOffset typ / 4096 ∨ (atticOffset typ + 15 + atticLen typ) / 4096 < a / 4096) :
    a / 4096 ∉ recordSectors typ := by
  rw [mem_recordSectors]; omega

theorem Mem.keepsOthers_erase : m.KeepsOthers (m.atticErase (recordSectors typ)) typ :=
  fun _ out => m.atticByte_erase_outside (not_mem_recordSectors out)

theorem Mem.keepsOthers_store (length : body.length = atticLen typ) : m.KeepsOthers (m.storeRecord typ body) typ :=
  fun _ out => m.atticByte_storeRecord length (not_mem_recordSectors out)

theorem Mem.atticByte_erased (low : atticOffset typ / 4096 ≤ a / 4096) (high : a / 4096 ≤ (atticOffset typ + 15 + atticLen typ) / 4096) :
    (m.atticErase (recordSectors typ)).atticByte a = 0 := by
  rw [Mem.atticByte_erase, if_pos (List.contains_iff_mem.2 (mem_recordSectors.2 ⟨low, high⟩))]

end

theorem Atc.wrote_erases (x : Atc) (typ : Nat) (valid : Bool) (rest : List (AtticJob × Nat × List Byte)) (k : Nat) :
    Tbl.get 0 (x.wrote typ valid rest).erases k = Tbl.get 0 x.erases k +
      if atticOffset typ / 4096 ≤ k ∧ k ≤ (atticOffset typ + 15 + atticLen typ) / 4096 then 1 else 0 := by
  simp only [← mem_recordSectors]
  exact Tbl.get_foldl_succ _ k _ (nodup_sectorsOf ..)

/-- A SAVE of the TDC tables that fails leaves its record as it was (R296). -/
theorem tdcSave_fails {s t : State} {typ : Nat} {body : List Byte} {rest : List (AtticJob × Nat × List Byte)}
    (first : s.dev.atc.jobs = (.tdcSave, typ, body) :: rest) (rise : s.dev.tim.saveErr = false) (room : s.dev.rel.queue.length < 64)
    (done : s.atticDone false = t) : t.dev.hkc = s.dev.hkc ∧ t.mem = s.mem ∧ t.dev.atc = { s.dev.atc with jobs := rest } ∧
      t.dev.tim = { s.dev.tim with tdcCtl := setBit s.dev.tim.tdcCtl 2 false, saveErr := true } ∧ OneRecord s t .ok 0 domDevice := by
  rw [atticDone_tdcSave_fails first rise] at done
  subst done
  exact ⟨Dev.log_hkc .., rfl, Dev.log_atc .., rfl,
    OneRecord.of_log (d := s.dev.tdcSaved rest) (r := tdcSaveReport) room rfl rfl rfl (by exact (by decide : 0 < 4))⟩

theorem errlogCopy_none {s : State} (none : s.dev.rel.errlogWait = []) : exec .errlogCopy s = .next s := by
  change execErrlogCopy s = _
  rw [execErrlogCopy, none]

theorem errlogCopy_takes {s : State} {r : ErrRec} {rest : List ErrRec} (waits : s.dev.rel.errlogWait = r :: rest) : exec .errlogCopy s =
    .next { s with dev := { s.dev with
      rel := { s.dev.rel with errlogWait := [] }
      atc := { s.dev.atc with jobs := s.dev.atc.jobs ++ [(.errlog, 15, logBody (s.latestBody 15 2056) r rest.length)] } } } := by
  change execErrlogCopy s = _
  rw [execErrlogCopy, waits]
  rfl

/-- Settles O52: a host command is decided by its AtticCommand, the end of a write by what `atticDone` leaves of memory and
registers, the log by the places of its body, and the check by an induction over the records. -/
theorem theAtticIsWrittenAndChecked : Obligations.theAtticIsWrittenAndChecked := by
  refine ⟨?commands, ?writes, ?log⟩
  case commands =>
    intro s kept x typ len all ends runs
    have write := writeRecord_command kept
    have invalidate := invalidateRecord_command kept
    have area := writeIntegratorArea_command kept
    refine ⟨keptStep_served _ kept, fun busy c which => ?_, fun idle locked => ?_, fun idle unlocked => ?_⟩
    · obtain rfl | rfl | rfl := which
      · exact write.waits busy
      · exact invalidate.waits busy
      · exact area.waits busy
    · exact ⟨write.locked idle locked, invalidate.locked idle locked, area.locked idle locked⟩
    · have outside (out : typ = 0 ∨ 15 < typ) : ¬ (1 ≤ typ ∧ typ ≤ 15) := fun ⟨low, high⟩ =>
        out.elim (Nat.ne_of_gt low) (Nat.not_lt.2 high)
      exact ⟨⟨write.runs idle unlocked, write.refused idle unlocked⟩, invalidate.runs idle unlocked,
        fun out => invalidate.refused idle unlocked (outside out), area.runs idle unlocked, area.refused idle unlocked⟩
  case writes =>
    intro s cal smb still
    refine ⟨fun ⟨reset, awake⟩ none ok => atticWriteDone_plain (State.atticDone_none none ok) cal smb reset awake, ?_⟩
    intro typ body rest length base first last keeps attic
    have stored := s.mem.atticRun_storeRecord length
    have kept := s.mem.keepsOthers_store length
    have erased := s.mem.keepsOthers_erase (typ := typ)
    refine ⟨fun ⟨reset, awake⟩ queued => ⟨?_, ?_⟩, fun ⟨reset, awake⟩ queued => ?_, fun ⟨reset, awake⟩ queued rise room => ⟨?_, ?_⟩,
      fun queued => ⟨fun c reset => ?_, fun reset asked waits only => ?_⟩⟩
    · exact ⟨_, atticWriteDone_plain (atticDone_hostWrite queued true) cal smb reset awake, rfl, kept, rfl, rfl,
        stored.1.trans (by rw [atticHeader, length]), rfl, rfl, rfl, s.dev.atc.wrote_erases typ true rest⟩
    · exact ⟨_, atticWriteDone_plain (atticDone_hostWrite queued false) cal smb reset awake, rfl, erased, rfl, rfl, rfl, rfl⟩
    · exact ⟨_, atticWriteDone_plain (atticDone_hostInvalidate queued) cal smb reset awake, rfl, erased,
        fun a low high => s.mem.atticByte_erased low high, rfl, rfl, rfl⟩
    · exact ⟨_, atticWriteDone_plain (atticDone_tdcSave queued) cal smb reset awake, rfl, kept, rfl, rfl, rfl⟩
    · obtain ⟨hkc, ended⟩ := tdcSave_fails queued rise room rfl
      rw [← hkc] at cal smb reset awake
      exact ⟨_, atticWriteDone_plain rfl cal smb reset awake, ended⟩
    · exact ⟨_, atticWriteDone_resets (atticDone_hostWrite queued true) reset, rfl, rfl, rfl, rfl, kept, stored.2⟩
    · have goes := atticWriteDone_standby (atticDone_hostWrite queued true) cal smb reset asked waits only
      exact goes
  case log =>
    intro s
    refine ⟨errlogCopy_none, fun r rest waits => ?_, fun bad => ?_⟩
    · intro b j length
      refine ⟨_, _, errlogCopy_takes waits, rfl, logBody_length r rest.length length, logBody_count r _, logBody_lost r _ length,
        logBody_entry r _ length, fun k after out => logBody_get r _ length after ?_⟩
      have place : logPlace b = 8 + 32 * (j % 64) := rfl
      change k < logPlace b ∨ logPlace b + 32 ≤ k
      omega
    · intro gone
      refine ⟨fun sound => ?_, fun room => ?_⟩
      · rw [exec_atticCrcCheck, Dev.recordsChecked_all_sound _ _ fun t listed => sound t (List.mem_range.1 listed)]
      · obtain ⟨atc, valid, reported⟩ := s.dev.recordsChecked_sound (fails := fun t => bit bad t || !s.mem.atticValid t) (List.range 16)
          List.nodup_range (fun t => List.mem_range.1) (by rw [List.length_range]; omega)
        refine ⟨_, exec_atticCrcCheck s bad, rfl, atc, fun i low => ?_, reported⟩
        have listed : (List.range 16).contains i = true := by simpa using low
        rw [valid i low, listed, Bool.true_and]
        change _ = (_ && !(_ && _))
        cases bit s.dev.atc.valid i <;> rfl

end Sys2Proof.Machine
end
